-- ==== Sys2Proof/Word.lean ====
section
/-! DEFINITION. The word types of the KX-8400: every CSR is one 32-bit word (R6), memories hold bytes,
and every sparse store of the model is a list of numbered entries. -/

namespace Sys2Proof

/-- One 32-bit register word (R6). -/
abbrev Word := BitVec 32

/-- One byte of a memory. -/
abbrev Byte := BitVec 8

/-- A byte string, first byte first. -/
abbrev Bytes := List Byte

/-- A sparse store: numbered entries, keys strictly rising, no entry equal to the store's default
(`Machine.Sp`). -/
abbrev Map (V : Type) := List (Nat × V)

end Sys2Proof
end

