-- ==== Sys2Proof/Syntax.lean ====
section
/-! DEFINITION. The commands of the device: every row of the opcode table is one constructor of `Instr`. The table gives
no bits, so the operands are what the row's own rule names: a master, an address, a slot, a thread, a unit, bytes
that arrive on a link, or a measured physical outcome. -/

namespace Sys2Proof

/-- A thread, by gallery, physical core and thread number (R96, R170). -/
structure Tid where
  g : Nat
  c : Nat
  t : Nat
  deriving DecidableEq, Repr

/-- Who makes a request of a shared unit: a thread's instruction, or a master through its own registers. -/
inductive Who
  | thread (id : Tid)
  | master (m : Nat)
  deriving DecidableEq, Repr

/-- The source of a command to the Lode, the Strongroom or the Cellarbook: a helper command by its number, or a
master through its own registers. -/
inductive Src
  | job (n : Nat)
  | master (m : Nat)
  deriving DecidableEq, Repr

/-- What the training of a DRAM channel meets (R399 to R401): whether the channel responds, passes CS and CA training, and
passes write leveling and receive enable; the sweep of each lane for reads and for writes, by Vref step the passing delay steps
as a mask; and for each subchannel the 40-bit words the DQ test wrote and read. -/
structure Training where
  ch : Nat
  responds : Bool
  caOk : Bool
  leveled : Bool
  reads : List (List Nat)
  writes : List (List Nat)
  tests : List (List (Nat × Nat))
  deriving DecidableEq, Repr

/-- What Survey mode finds (R431 to R433): failed physical cores by gallery, seal, format and hash engines that fail
Moestest, memory that redundancy cannot repair, a PLL that fails to lock, the training of each channel, and the image's
bytes as its source gives them the second time. -/
structure Survey where
  cores : List (Nat × Nat)
  sealEngs : List Nat
  fmtEngs : List Nat
  hashEngs : List Nat
  sram : Bool
  sealCauses : List Nat
  pll : Bool
  trainings : List Training
  reread : Bytes
  deriving DecidableEq, Repr

/-- Who reads a line of DRAM: the unit's owner tag, and the session the session stage works for (R407). -/
structure LineReader where
  tag : Nat
  session : Nat
  deriving DecidableEq, Repr

/-- A reading of a Handover's image: the first or the second fault of its source (R426, R449), or none with 0, and the bytes. -/
structure HoReading where
  fault : Nat
  img : Bytes
  deriving DecidableEq, Repr

/-- The type and the version in the header of a received Rope frame (R460). -/
structure RopeHead where
  type : Nat
  ver : Nat
  deriving DecidableEq, Repr

/-- The data of a partner's request and its byte enables (R465, R515). -/
structure ReqData where
  value : Nat
  be : Nat
  deriving DecidableEq, Repr

/-- The commands of the KX-8400: one constructor per row of spec/opcode_table.json, in the table's order. -/
inductive Instr
  /-- DRIP_BOUNDARY (R31). At each drip boundary the device advances the drip number and performs the ordered boundary steps that make the last drip's effects visible. -/
  | dripBoundary
  /-- CSR_WRITE (R7). A CSR write to a register without a row of its own acts on each field by its access type, subject to owner sets. -/
  | csrWrite (m addr val be : Nat)
  /-- COUNTER_READ_CLEAR (R8). A read of an RC counter returns its value and clears it. -/
  | counterReadClear (m addr : Nat)
  /-- DRIP_NOW_READ (R29). A read of DRIP_NOW_LO returns the low drip bits and latches the high bits for that master. -/
  | dripNowRead (m : Nat)
  /-- STRG_TIME_READ (R388). A read of STRG_TIME_LO returns the low time bits and latches STRG_TIME_HI for that master. -/
  | strgTimeRead (m : Nat)
  /-- COMMIT_SLOT_CLAIM (R45). A write to a commit slot's mask or target registers claims a FREE slot or updates an OPEN slot of its holder. -/
  | commitSlotClaim (m slot reg val : Nat)
  /-- ARM (R46). The holder's write of arm moves an OPEN commit slot to ARMED. -/
  | commitArm (m slot : Nat)
  /-- COMMIT_SLOT_RELEASE (R46). The holder's write of release returns an OPEN or DONE slot to FREE with reset values. -/
  | commitSlotRelease (m slot : Nat)
  /-- COMMIT_SEAL (R49). At the boundary beginning T-1 a commit seals its groups and fixes its content. -/
  | commitSeal (slot : Nat)
  /-- COMMIT_FLIP (R50). At the boundary beginning T a sealed commit fails, flips its groups with a new generation, or enters WAITING. -/
  | commitFlip (slot : Nat)
  /-- COMMIT_WAIT_FLIP (R51). A waiting commit flips at the boundary after its last named group becomes STAGED. -/
  | commitWaitFlip (slot : Nat)
  /-- COMMIT_WAIT_TIMEOUT (R51). A waiting commit not flipped by T plus its wait limit ends with TIMEOUT and unseals its groups. -/
  | commitWaitTimeout (slot : Nat)
  /-- COMMIT_WAIT_REPORT (R51). A commit still WAITING at T plus each multiple of 4,096 drips makes an incident record. -/
  | commitWaitReport (slot : Nat)
  /-- BANK_CATCHUP (R37). A TRAILING bank becomes CATCHUP at the first boundary with no in-flight packet of an older generation. -/
  | bankCatchup (group : Nat)
  /-- BANK_STAGED (R37). A CATCHUP bank becomes STAGED at the boundary after its line copy finishes. -/
  | bankStaged (group : Nat)
  /-- VIEW_REQUEST (R61). A view request claims or refreshes a view buffer with a capture delay. -/
  | viewRequest (m buf delay : Nat)
  /-- VIEW_RELEASE (R61). A view release frees the master's buffer and cancels a pending capture. -/
  | viewRelease (m buf : Nat)
  /-- VIEW_CAPTURE (R59). A pending view buffer captures the device state at its boundary and becomes READY. -/
  | viewCapture (buf : Nat)
  /-- FRAME_RECEIVE (R66). A frame arriving on a MAC is validated, matched to a bay and written into Larder cells, or dropped and counted. -/
  | frameReceive (mac : Nat) (data : Bytes)
  /-- PFC_XOFF_REPEAT (R68). While a pool stays short, XOFF is resent each 32,768 quanta. -/
  | pfcXoffRepeat (pool : Nat)
  /-- PFC_FRAME_RECEIVE (R117). A received PFC frame stops or resumes service of bays of that egress priority. -/
  | pfcFrameReceive (mac enables : Nat) (times : List Nat)
  /-- PFC_PAUSE_EXPIRE (R117). A received pause for a priority expires and service of its bays resumes. -/
  | pfcPauseExpire (mac prio : Nat)
  /-- PACKET_ADMIT (R69). A waiting frame takes an ingress slot of its pipe, receives its drip tag and generation, and passes the parser and classifier. -/
  | packetAdmit (pipe : Nat)
  /-- FRAG_ENTRY_EXPIRE (R91). A fragment entry 512 drips old becomes FREE, sending held fragments to the slow path. -/
  | fragEntryExpire (set way : Nat)
  /-- SESSION_CACHE_FILL (R128). A fetched session record fills the hot cache and releases the segments waiting for it. -/
  | sessionCacheFill (session : Nat)
  /-- DELAYED_ACK (R135). At the first boundary after unacknowledged data arrived, an ACK is emitted. -/
  | delayedAck (session : Nat)
  /-- RECIRC_ADMIT (R148). A recirculated packet re-enters its pipe as the next pass, keeping domain, number and generation. -/
  | recircAdmit (pipe : Nat)
  /-- SESSION_ID_RECYCLE (R131). A CLOSED session's id becomes free after 2 × rto_max × 1,024 drips. -/
  | sessionIdRecycle (session : Nat)
  /-- RETRANSMISSION_TIMEOUT (R137). A session's retransmission timer expires and kept plaintext is re-encrypted and resent. -/
  | retransmissionTimeout (session : Nat)
  /-- KEEPALIVE (R140). A session idle for ka_idle sends a keepalive. -/
  | sessKeepalive (session : Nat)
  /-- LARDER_ALLOC (R98). ALLOC builds a chain of n cells from a pool or refuses it whole. -/
  | larderAlloc (who : Who)
  /-- LARDER_FREE (R102). FREE returns every cell of a held chain to FREE and uncharges its pool. -/
  | larderFree (who : Who)
  /-- LARDER_TRANSFER (R102). TRANSFER retags every cell of a chain to a new owner. -/
  | larderTransfer (who : Who)
  /-- LARDER_JOIN (R102). JOIN links chain B after chain A. -/
  | larderJoin (who : Who)
  /-- LARDER_RELEASE (R111). RELEASE hands a chain to the reorder stage, spending the task's sequence number. -/
  | larderRelease (who : Who)
  /-- LARDER_RECLAIM (R102). RECLAIM frees every cell carrying the tag of a stopped thread. -/
  | larderReclaim (who : Who)
  /-- CELL_SCRUB_DONE (R95). A cell freed from a scrubbing pool is zeroed and counts as FREE. -/
  | cellScrubDone (cell : Nat)
  /-- HOLE_SKIP (R114). A hole still open after hole_timeout drips is skipped and recorded. -/
  | holeSkip (domain : Nat)
  /-- EGRESS_SERVE (R117). A MAC serves a packet from a bay FIFO by deficit round robin into its transmit buffer. -/
  | egressServe (mac : Nat)
  /-- EGRESS_HEADER_RETRY (R138). A header-cell allocation refused with FAIL_EMPTY is retried and granted when a cell appears. -/
  | egressHeaderRetry (mac : Nat)
  /-- EGRESS_WAIT_EXPIRE (R138). A header cell not granted within egr_wait drips drops the packet and aborts its session. -/
  | egressWaitExpire (mac : Nat)
  /-- CLAS_ROW_WRITE (R86). Op WRITE stages the master's row buffer as one write of a classifier row. -/
  | clasRowWrite (m row : Nat)
  /-- CLAS_ROW_READ_STAGED (R86). Op READ_STAGED copies a row's staged copy into the master's buffer. -/
  | clasRowReadStaged (m row : Nat)
  /-- CLAS_ROW_READ_LIVE (R86). Op READ_LIVE copies a row's LIVE bank into the master's buffer. -/
  | clasRowReadLive (m row : Nat)
  /-- LINK_UP (R121). A bound MAC's PCS reports link up after negotiation and training. -/
  | linkUp (mac : Nat) (pos : List Nat) (lock : Bool)
  /-- LINK_DOWN (R480). A MAC loses its link and its received PFC state is cleared. -/
  | linkDown (mac : Nat) (los : List Bool)
  /-- OPEN (R146). OPEN creates a client TCP session. -/
  | sessOpen (who : Who)
  /-- INSTALL_KEYS (R141). INSTALL_KEYS installs a handshake or application traffic secret for one direction. -/
  | sessInstallKeys (who : Who)
  /-- KEYUPDATE (R143). KEYUPDATE answers a peer KeyUpdate by advancing the transmit secret. -/
  | sessKeyUpdate (who : Who)
  /-- CLOSE (R146). CLOSE starts an orderly close of a session. -/
  | sessClose (who : Who)
  /-- ABORT (R146). ABORT aborts a session under the abort rule. -/
  | sessAbort (who : Who)
  /-- SWEEP_START (R164). A forwarding-table sweep begins at a boundary that is a multiple of the period. -/
  | sweepStart
  /-- FWDT_LOCK (R167). LOCK locks a range of buckets to the issuer. -/
  | fwdtLock (m : Nat)
  /-- FWDT_UNLOCK (R167). UNLOCK releases the issuer's bucket locks. -/
  | fwdtUnlock (m : Nat)
  /-- FWDT_READ (R166). READ captures buckets at a boundary and transfers them to the issuer. -/
  | fwdtRead (m : Nat)
  /-- FWDT_READ_DONE (R166). A READ completes when its last byte lands. -/
  | fwdtReadDone (m : Nat)
  /-- FWDT_WRITE (R166). WRITE fetches buckets from the issuer's address. -/
  | fwdtWrite (m : Nat)
  /-- FWDT_WRITE_APPLY (R166). A WRITE's buckets are applied together at the boundary after the last byte arrives. -/
  | fwdtWriteApply (m : Nat)
  /-- LOCK_HOLD_REPORT (R168). A bucket lock held 64 drips makes an incident record. -/
  | lockHoldReport (bucket : Nat)
  /-- MOV (R213). MOV copies the source to the destination at the operation width. -/
  | mov (id : Tid)
  /-- XCHG (R233). XCHG exchanges two operands. -/
  | xchg (id : Tid)
  /-- BSWAP (R232). BSWAP reverses the source's bytes. -/
  | bswap (id : Tid)
  /-- LEA (R234). LEA writes the local address of its source. -/
  | lea (id : Tid)
  /-- BIN2BCD (R235). BIN2BCD converts binary to packed BCD. -/
  | bin2bcd (id : Tid)
  /-- BCD2BIN (R235). BCD2BIN converts packed BCD to binary. -/
  | bcd2bin (id : Tid)
  /-- ADD (R236). ADD writes a + b and the flags. -/
  | add (id : Tid)
  /-- ADC (R236). ADC writes a + b + c. -/
  | adc (id : Tid)
  /-- SUB (R236). SUB writes a − b. -/
  | sub (id : Tid)
  /-- SBB (R236). SBB writes a − b − c. -/
  | sbb (id : Tid)
  /-- NEG (R236). NEG writes 0 − s. -/
  | neg (id : Tid)
  /-- INC (R236). INC adds 1 in place. -/
  | inc (id : Tid)
  /-- DEC (R236). DEC subtracts 1 in place. -/
  | dec (id : Tid)
  /-- CMP (R236). CMP sets the flags of a − b. -/
  | cmp (id : Tid)
  /-- MULU (R237). MULU writes the low half of the unsigned product. -/
  | mulu (id : Tid)
  /-- MULS (R237). MULS writes the low half of the signed product. -/
  | muls (id : Tid)
  /-- MULHU (R237). MULHU writes the high half of the unsigned product. -/
  | mulhu (id : Tid)
  /-- MULHS (R237). MULHS writes the high half of the signed product. -/
  | mulhs (id : Tid)
  /-- DIVU (R238). DIVU writes the unsigned quotient or faults on zero. -/
  | divu (id : Tid)
  /-- DIVS (R238). DIVS writes the signed quotient or faults on zero. -/
  | divs (id : Tid)
  /-- REMU (R238). REMU writes the unsigned remainder. -/
  | remu (id : Tid)
  /-- REMS (R238). REMS writes the signed remainder. -/
  | rems (id : Tid)
  /-- MINU (R236). MINU writes the unsigned minimum. -/
  | minu (id : Tid)
  /-- MAXU (R236). MAXU writes the unsigned maximum. -/
  | maxu (id : Tid)
  /-- MINS (R236). MINS writes the signed minimum. -/
  | mins (id : Tid)
  /-- MAXS (R236). MAXS writes the signed maximum. -/
  | maxs (id : Tid)
  /-- AND (R207). AND writes a AND b. -/
  | and (id : Tid)
  /-- OR (R207). OR writes a OR b. -/
  | or (id : Tid)
  /-- XOR (R207). XOR writes a XOR b. -/
  | xor (id : Tid)
  /-- ANDN (R207). ANDN writes a AND NOT b. -/
  | andn (id : Tid)
  /-- NOT (R207). NOT writes NOT s. -/
  | not (id : Tid)
  /-- TST (R207). TST sets the flags of a AND b. -/
  | tst (id : Tid)
  /-- SHL (R239). SHL shifts left. -/
  | shl (id : Tid)
  /-- SHR (R239). SHR shifts right logically. -/
  | shr (id : Tid)
  /-- SAR (R239). SAR shifts right arithmetically. -/
  | sar (id : Tid)
  /-- ROL (R239). ROL rotates left. -/
  | rol (id : Tid)
  /-- ROR (R239). ROR rotates right. -/
  | ror (id : Tid)
  /-- EXT (R240). EXT extracts a bit field. -/
  | ext (id : Tid)
  /-- INS (R240). INS inserts a bit field. -/
  | ins (id : Tid)
  /-- POPC (R239). POPC counts set bits. -/
  | popc (id : Tid)
  /-- CLZ (R239). CLZ counts leading zeros. -/
  | clz (id : Tid)
  /-- CTZ (R239). CTZ counts trailing zeros. -/
  | ctz (id : Tid)
  /-- BTST (R240). BTST tests one bit. -/
  | btst (id : Tid)
  /-- BSET (R240). BSET sets one bit. -/
  | bset (id : Tid)
  /-- BCLR (R240). BCLR clears one bit. -/
  | bclr (id : Tid)
  /-- BEQ (R241). BEQ branches when z is 1. -/
  | beq (id : Tid)
  /-- BNE (R241). BNE branches when z is 0. -/
  | bne (id : Tid)
  /-- BLTU (R241). BLTU branches when c is 1. -/
  | bltu (id : Tid)
  /-- BGEU (R241). BGEU branches when c is 0. -/
  | bgeu (id : Tid)
  /-- BGTU (R241). BGTU branches when c and z are 0. -/
  | bgtu (id : Tid)
  /-- BLEU (R241). BLEU branches when c or z is 1. -/
  | bleu (id : Tid)
  /-- BLT (R241). BLT branches when n differs from v. -/
  | blt (id : Tid)
  /-- BGE (R241). BGE branches when n equals v. -/
  | bge (id : Tid)
  /-- BGT (R241). BGT branches when z is 0 and n equals v. -/
  | bgt (id : Tid)
  /-- BLE (R241). BLE branches when z is 1 or n differs from v. -/
  | ble (id : Tid)
  /-- BMI (R241). BMI branches when n is 1. -/
  | bmi (id : Tid)
  /-- BPL (R241). BPL branches when n is 0. -/
  | bpl (id : Tid)
  /-- BVS (R241). BVS branches when v is 1. -/
  | bvs (id : Tid)
  /-- BVC (R241). BVC branches when v is 0. -/
  | bvc (id : Tid)
  /-- BOK (R241). BOK branches when FLAGS.code is 0. -/
  | bok (id : Tid)
  /-- BNOK (R241). BNOK branches when FLAGS.code is not 0. -/
  | bnok (id : Tid)
  /-- JMP (R241). JMP branches always. -/
  | jmp (id : Tid)
  /-- CALL (R242). CALL stores the return offset and branches. -/
  | call (id : Tid)
  /-- RET (R242). RET branches to a stored code-store offset. -/
  | ret (id : Tid)
  /-- DBNZ (R242). DBNZ decrements and branches on non-zero. -/
  | dbnz (id : Tid)
  /-- BW (R241). BW branches when w is 1. -/
  | bw (id : Tid)
  /-- BNW (R241). BNW branches when w is 0. -/
  | bnw (id : Tid)
  /-- TEND (R243). TEND waits for outstanding tags, releases an unspent number empty, frees held cells and idles the thread. -/
  | tend (id : Tid)
  /-- WFE (R183). WFE waits until an enabled event is pending and reports it. -/
  | wfe (id : Tid)
  /-- SEV (R244). SEV signals the named threads with SEVL or SEVX. -/
  | sev (id : Tid)
  /-- GALL_SEV_WRITE (R184). A write of GALL_SEV sets SEVX in the named threads of a gallery. -/
  | gallSevWrite (m gallery val : Nat)
  /-- WAITT_D (R245). WAITT.D waits until a drip number or for masked events. -/
  | waittD (id : Tid)
  /-- WAITT_C (R245). WAITT.C waits until a core-cycle count or for masked events. -/
  | waittC (id : Tid)
  /-- WAITT_DEADLINE (R245). A WAITT deadline is reached, setting TIME and completing the wait. -/
  | waittDeadline (id : Tid)
  /-- EVTAKE (R246). EVTAKE takes pending events without waiting. -/
  | evtake (id : Tid)
  /-- CHSEND (R188). CHSEND sends the staging to a channel, waiting for room. -/
  | chsend (id : Tid)
  /-- CHSENDT (R248). CHSENDT sends the staging if the channel has room, else reports full. -/
  | chsendt (id : Tid)
  /-- CHRECV (R247). CHRECV receives the head message, waiting for one. -/
  | chrecv (id : Tid)
  /-- CHRECVT (R247). CHRECVT receives the head message if one is present. -/
  | chrecvt (id : Tid)
  /-- MOVS_READ (R250). MOVS reads a special register. -/
  | movsRead (id : Tid)
  /-- MOVS_WRITE (R250). MOVS writes a special register. -/
  | movsWrite (id : Tid)
  /-- NOP (R252). NOP takes one issue and changes nothing. -/
  | nop (id : Tid)
  /-- FENCE (R251). FENCE waits until the thread's earlier writes are visible. -/
  | fence (id : Tid)
  /-- YIELD (R250). YIELD keeps the thread from issue for 8 core clocks. -/
  | yield (id : Tid)
  /-- REP_ITERATION (R220). One iteration of a REP-prefixed instruction runs and decrements CNT. -/
  | repIteration (id : Tid)
  /-- MACRO_INSTRUCTION (R223). A macro instruction is decoded and its operands evaluated once. -/
  | macroInstruction (id : Tid)
  /-- MICRO_STEP (R261). One micro-step of a macro instruction runs. -/
  | microStep (id : Tid)
  /-- HCMD (R255). HCMD copies a command block into the helper queue under a tag. -/
  | hcmd (id : Tid)
  /-- HCMD_ACCEPT (R286). A retrying HCMD is accepted when queue room and the unit limit allow. -/
  | hcmdAccept (id : Tid)
  /-- HCMD_RETRY_LIMIT (R287). A retrying HCMD reaches its retry limit and completes with BUSY_RETRY. -/
  | hcmdRetryLimit (id : Tid)
  /-- HWAIT (R256). HWAIT waits for a tag to be DONE and collects its code. -/
  | hwait (id : Tid)
  /-- HSAVE (R257). HSAVE saves and suspends a command's running context. -/
  | hsave (id : Tid)
  /-- HRESTORE (R257). HRESTORE resumes a saved command under a tag. -/
  | hrestore (id : Tid)
  /-- HELPER_COMPLETION (R288). A helper unit completes a command and marks the tag DONE for a live thread. -/
  | helperCompletion (job : Nat)
  /-- KILL (R198). KILL parks a thread as KILLED, discarding staging and orphaning its Latches. -/
  | thrKill (who : Who) (gallery val : Nat)
  /-- UNPARK (R200). UNPARK moves a PARKED thread to IDLE. -/
  | thrUnpark (who : Who) (gallery val : Nat)
  /-- STILLNESS_DETECT (R196). A domain still for still_period boundaries is reported to its keeper. -/
  | stillnessDetect (gallery domain : Nat)
  /-- ISSUE_WATCHDOG (R201). A core with a READY thread issuing nothing for 4,096 core clocks is retired. -/
  | issueWatchdog (gallery core : Nat)
  /-- CORE_RETIRE_REQUEST (R201). A write of retire to GALL_CORE_CTL retires a named core. -/
  | coreRetireRequest (m gallery core : Nat)
  /-- CORE_RETIRE (R202). A core is retired on a detected fault: issue stops, Latches orphan and the spare powers up. -/
  | coreRetire (gallery core : Nat)
  /-- SPARE_START (R202). At the boundary after sweep and load copy complete, the spare restarts the retired core's tasks. -/
  | spareStart (gallery core : Nat)
  /-- LATCH_ACQUIRE (R269). A read of the ACQ word acquires a Latch or waits after the cycle walk. -/
  | latchAcquire (id : Tid)
  /-- LATCH_TRY (R273). A read of the TRY word acquires once and arms the LATCH event on failure. -/
  | latchTry (id : Tid)
  /-- LATCH_RELEASE (R274). A write of op RELEASE to the ACQ word releases a Latch. -/
  | latchRelease (id : Tid)
  /-- LATCH_FORCE (R274). A keeper's op FORCE frees a held or orphaned Latch, poisoning it. -/
  | latchForce (id : Tid)
  /-- LATCH_WAIT_TIMEOUT (R269). A Latch wait reaching its timeout completes with TIMEOUT. -/
  | latchWaitTimeout (who : Who)
  /-- LATCH_HOLD_WATCHDOG (R276). A Latch held for hold_limit drips makes one incident record. -/
  | latchHoldWatchdog (latch : Nat)
  /-- HOST_LATCH_ACQUIRE (R277). A read of LTCH_HOST_ACQ acquires a Latch for the host or peer with a bounded wait. -/
  | hostLatchAcquire (m : Nat)
  /-- HOST_LATCH_TRY (R277). A read of LTCH_HOST_TRY acquires a Latch with one attempt. -/
  | hostLatchTry (m : Nat)
  /-- HOST_LATCH_RELEASE (R277). A write of RELEASE to LTCH_HOST_REL releases a Latch for the host or peer. -/
  | hostLatchRelease (m : Nat)
  /-- HOST_LATCH_FORCE (R277). A write of FORCE to LTCH_HOST_REL completes with NOT_OWNER. -/
  | hostLatchForce (m : Nat)
  /-- FADD (R279). FADD atomically adds to a DATA-table target. -/
  | fAdd (job : Nat)
  /-- FAND (R279). FAND atomically ANDs a target. -/
  | fAnd (job : Nat)
  /-- FOR (R279). FOR atomically ORs a target. -/
  | fOr (job : Nat)
  /-- FXOR (R279). FXOR atomically XORs a target. -/
  | fXor (job : Nat)
  /-- CAS (R279). CAS atomically compares and swaps a target. -/
  | cas (job : Nat)
  /-- BINC (R279). BINC atomically increments a target up to a bound. -/
  | binc (job : Nat)
  /-- DISPATCH (R297). A gallery gives its oldest highest-priority entry to an IDLE thread with a descriptor. -/
  | dispDispatch (gallery : Nat)
  /-- HOLD_PLACE (R298). A pipe places its oldest held entry once a candidate gallery exists. -/
  | holdPlace (pipe : Nat)
  /-- EXCEPTION_DELIVER (R299). An exception packet is delivered to its keeper's channel and pending slot. -/
  | exceptionDeliver (gallery : Nat)
  /-- REQUEUE (R301). REQUEUE turns a PARKED thread's descriptor into a new head entry with a raised attempt. -/
  | dispRequeue (job : Nat)
  /-- SUBMIT (R301). SUBMIT turns a keeper's pending packet into a task entry. -/
  | dispSubmit (job : Nat)
  /-- SIGN (R313). SIGN signs a digest or message with a slot key and self-verifies it. -/
  | sealSign (job : Nat)
  /-- VERIFY (R313). VERIFY checks a signature with a slot or passed public key. -/
  | sealVerify (job : Nat)
  /-- KEX_GEN (R313). KEX_GEN generates an own key share and a wrapped private key. -/
  | kexGen (job : Nat)
  /-- KEX_DERIVE (R313). KEX_DERIVE derives a shared secret from a peer share. -/
  | kexDerive (job : Nat)
  /-- KEX_RESPOND (R313). KEX_RESPOND answers a peer share with an own share and secret. -/
  | kexRespond (job : Nat)
  /-- GENERATE (R313). GENERATE creates a key pair and its blob. -/
  | sealGenerate (job : Nat)
  /-- IMPORT (R315). IMPORT installs a blob into an EMPTY slot after a pairwise test. -/
  | keyImport (job : Nat)
  /-- UNWRAP (R311). UNWRAP turns a transport envelope into a blob. -/
  | sealUnwrap (job : Nat)
  /-- SEAL_DISPATCH (R317). The seal arbiter places a job on an eligible engine and reserves a SIGN use. -/
  | sealDispatch (eng : Nat)
  /-- SEAL_JOB_COMPLETE (R319). A seal engine finishes a job and the signature is released after a passing self-verify. -/
  | sealJobComplete (eng : Nat) (sound : Bool)
  /-- SEAL_JOB_TIMEOUT (R322). A seal job running past its time limit retires its engine. -/
  | sealJobTimeout (eng : Nat)
  /-- SEAL_KAT (R322). Moestest runs the known-answer test on each active seal engine every kat_period. -/
  | sealKat (eng : Nat) (pass : Bool)
  /-- SEAL_SPARE_ACTIVE (R323). A starting spare seal engine passes its test and becomes ACTIVE. -/
  | sealSpareActive (eng : Nat)
  /-- SEAL_ENG_RETIRE_REQUEST (R322). A write of retire to SEAL_ENG_CTL retires a named engine. -/
  | sealEngRetireRequest (m eng : Nat)
  /-- SUSPEND (R312). SUSPEND moves an ACTIVE slot to SUSPENDED at the next boundary. -/
  | slotSuspend (m slot : Nat)
  /-- SLOT_RESUME (R312). RESUME moves a SUSPENDED slot to ACTIVE at the next boundary. -/
  | slotResume (m slot : Nat)
  /-- DESTROY (R312). DESTROY empties a slot and clears its key everywhere. -/
  | slotDestroy (m slot : Nat)
  /-- DIGEST (R325). DIGEST hashes an input in one command. -/
  | hashDigest (job : Nat)
  /-- START (R325). START initialises hash state and absorbs input. -/
  | hashStart (job : Nat)
  /-- UPDATE (R325). UPDATE absorbs input into hash state. -/
  | hashUpdate (job : Nat)
  /-- FINISH (R325). FINISH absorbs input and writes the digest. -/
  | hashFinish (job : Nat)
  /-- HASH_ENGINE_FENCE (R325). A hash engine failing its test or memory is fenced and its commands reissued. -/
  | hashEngineFence (eng : Nat)
  /-- TRANSLATE (R343). TRANSLATE parses a message and builds its translation by a mapping program. -/
  | fmtTranslate (job : Nat)
  /-- VALIDATE (R343). VALIDATE parses and runs a program without writing output. -/
  | fmtValidate (job : Nat)
  /-- FORMAT_DISPATCH (R346). The format arbiter gives the oldest job to the least-loaded active engine. -/
  | formatDispatch (eng : Nat)
  /-- FORMAT_JOB_COMPLETE (R344). A format engine finishes a job and writes the result area and output. -/
  | formatJobComplete (eng : Nat) (sound : Bool)
  /-- FORMAT_JOB_TIMEOUT (R348). A format job running past its time limit retires its engine. -/
  | formatJobTimeout (eng : Nat)
  /-- FORMAT_KAT (R348). Moestest runs the known-answer translation on each format engine every kat_period. -/
  | formatKat (eng : Nat) (pass : Bool)
  /-- FORMAT_SPARE_ACTIVE (R348). A starting spare format engine passes its test and becomes active. -/
  | formatSpareActive (eng : Nat)
  /-- FMTE_ENG_RETIRE_REQUEST (R348). A write of retire to FMTE_ENG_CTL retires a named format engine. -/
  | fmteEngRetireRequest (m eng : Nat)
  /-- SEARCH_T (R351). SEARCH_T searches the class T banks admitted by a pre-filter. -/
  | searchT (src : Src)
  /-- SEARCH_W (R353). SEARCH_W searches every enabled class W bank within the thermal allowance. -/
  | searchW (src : Src)
  /-- LODE_WRITE (R354). WRITE queues a row update applied at the end of its slot's drip. -/
  | lodeWrite (src : Src)
  /-- LODE_INVALIDATE (R354). INVALIDATE queues a row invalidation. -/
  | lodeInvalidate (src : Src)
  /-- LODE_READ (R355). READ returns a row as it stood at the last boundary. -/
  | lodeRead (src : Src)
  /-- LODE_SLOT (R352). A Lode slot runs the oldest admissible search or held update. -/
  | lodeSlot
  /-- LODE_W_TIMEOUT (R353). A W search waiting 1,024 drips completes with TIMEOUT. -/
  | lodeWTimeout (src : Src)
  /-- LODE_SCRUB (R357). The Lode scrubber reads a row, repairing or invalidating it. -/
  | lodeScrub (row outcome : Nat)
  /-- TALLY (R375). TALLY queues increments to a tariff class. -/
  | srTally (src : Src)
  /-- STAMP (R375). STAMP returns the Strongroom time, status and a serial. -/
  | srStamp (src : Src)
  /-- TOD_SET (R375). TOD_SET sets the time of day at the next PPS edge. -/
  | srTodSet (src : Src)
  /-- CAL_SET (R376). CAL_SET verifies a signed calibration block for application. -/
  | srCalSet (src : Src)
  /-- SR_COMMAND_TIMEOUT (R361). A Strongroom command not completed in 64 drips completes with TIMEOUT. -/
  | srCommandTimeout (src : Src)
  /-- PPS_EDGE (R363). A PPS_IN reference edge is measured against the timescale. -/
  | ppsEdge (offset high low : Nat)
  /-- REFERENCE_LOSS (R363). The reference is lost and the timescale moves to HOLDOVER or FREERUN. -/
  | referenceLoss (cause : Nat)
  /-- REFERENCE_VALID (R363). After 16 good seconds the reference is valid and acquisition starts. -/
  | referenceValid
  /-- PPS_OUT_PULSE (R365). PPS_OUT rises at each TAI second. -/
  | ppsOutPulse
  /-- ROM_REHASH (R371). The Strongroom re-hashes its ROM every 2^20 drips. -/
  | romRehash (ok : Bool)
  /-- SEAL_BREAK (R372). A seal-break event blows the seal fuse and invalidates stamps. -/
  | sealBreak (cause : Nat)
  /-- APPEND (R381). APPEND chains a Cellarbook record. -/
  | bookAppend (job : Nat)
  /-- PAGE_END (R383). At the end of a page's last drip PAGE_END is chained. -/
  | pageEnd
  /-- SEAL_BLOCK_WRITTEN (R383). The Strongroom returns the signed seal block. -/
  | sealBlockWritten
  /-- EXPORT_PAGE (R386). The export unit sends a sealed page to PF1 or the export bay. -/
  | exportPage
  /-- BOOK_ACK_WRITE (R386). A write of BOOK_ACK acknowledges exported pages. -/
  | bookAckWrite (m val : Nat)
  /-- EXPORT_RESEND (R386). Without acknowledgement for resend × 64 drips export restarts. -/
  | exportResend
  /-- INSPECTION_READ (R387). An inspection port transaction with command 0x0B reads STRG words. -/
  | inspectionRead (addr words : Nat)
  /-- INSPECTION_BAD_COMMAND (R387). Any other inspection command byte returns 0xFF and is counted. -/
  | inspectionBadCommand (cmd len : Nat)
  /-- SR_POWER_UP (R378). The Strongroom powers up and restores tallies from its checkpoint. -/
  | srPowerUp (newer : Bool) (found : Nat)
  /-- SR_POWER_LOSS (R503). A clean island rail fall stops the Strongroom without breaking the seal. -/
  | srPowerLoss
  /-- DQS_OSC_MEASURE (R402). The controller measures each lane's DQS oscillator and adjusts write delay. -/
  | dqsOscMeasure (ch lane : Nat) (drift : Int)
  /-- DRAM_COMMAND_ISSUE (R403). The scheduler issues a command at a command opportunity. -/
  | dramCommandIssue (ch sub ns alerts : Nat)
  /-- REFRESH (R405). A rank's all-bank refresh comes due. -/
  | dramRefresh (ch rank : Nat)
  /-- DRAM_READ_COMPLETE (R406). A DRAM read returns, correcting or poisoning its line. -/
  | dramReadComplete (addr : Nat) (reader : LineReader) (errs : List Nat)
  /-- DRAM_SCRUB_READ (R408). The DRAM scrubber reads and corrects a line. -/
  | dramScrubRead (ch : Nat) (errs : List Nat)
  /-- SELF_REFRESH_ENTER (R409). A parked idle channel enters self-refresh. -/
  | selfRefreshEnter (ch : Nat)
  /-- SELF_REFRESH_WAKE (R410). A request wakes a channel from self-refresh. -/
  | selfRefreshWake (ch : Nat)
  /-- CHANNEL_FAIL (R412). A live DRAM channel fails in Service mode. -/
  | channelFail (ch cause : Nat)
  /-- ARBITER_GRANT (R416). An arbiter grants a pending requester by tier. -/
  | arbiterGrant (arb : Nat) (clocks : List Nat) (ns : Nat) (pending : List Nat) (write : Bool) (ca lines : Nat)
  /-- ARBS_QRY (R419). A write of ARBS_QRY copies an arbiter requester's counters. -/
  | arbsQry (m val : Nat)
  /-- ARBS_QRY_CLEAR (R419). A write of ARBS_QRY with clear copies and zeroes the counters. -/
  | arbsQryClear (m val : Nat)
  /-- RESET_ASSERT (R499). RESET_N held low sends the device to Cold mode. -/
  | resetAssert
  /-- RESET_RELEASE (R499). RESET_N rises with rails in window and Load mode begins. -/
  | resetRelease
  /-- IMAGE_LOAD_ATTEMPT (R427). The loader reads and checks an image from one source in stages. -/
  | imageLoadAttempt (src pins : Nat) (sfdp : Bool) (img : Bytes) (i2c : Nat) (eeprom : Option Bytes)
  /-- HOST_IMAGE_GO (R430). A host go in Load mode loads an image from host memory. -/
  | hostImageGo (m : Nat)
  /-- ENROL (R430). A host image with enrol blows a blank owner fuse. -/
  | hostEnrol (m : Nat)
  /-- SURVEY_END (R433). Survey ends when all work completes, entering SERVICE, LIMP or failing. -/
  | surveyEnd (r : Survey)
  /-- LOAD_CTL_COLD (R435). A keyed LOAD_CTL write with cold sends the device to COLD. -/
  | loadCtlCold (m key : Nat)
  /-- LOAD_CTL_LIMP (R435). A keyed LOAD_CTL write with limp forces Limp mode. -/
  | loadCtlLimp (m key : Nat)
  /-- HANDOVER_GO (R436). A go starts a Handover in state VERIFY. -/
  | handoverGo (m : Nat)
  /-- HANDOVER_CANCEL (R438). A write of cancel aborts a Handover before its flip. -/
  | handoverCancel (m : Nat)
  /-- HANDOVER_VERIFY_DONE (R436). Pass 1 ends and the Handover enters PREPARE. -/
  | handoverVerifyDone (read : HoReading)
  /-- HANDOVER_SEAL (R436). With every group STAGED and no commit sealed, the device enters HANDOVER and seals all groups. -/
  | handoverSeal
  /-- HANDOVER_WRITE_DONE (R436). Pass 2 ends and validation runs in READY. -/
  | handoverWriteDone (read : HoReading)
  /-- HANDOVER_FLIP (R436). At the target every group flips with one generation and KEYS apply. -/
  | handoverFlip
  /-- HANDOVER_DRAIN_DONE (R439). Old banks enter CATCHUP and the device returns to SERVICE. -/
  | handoverDrainDone
  /-- HANDOVER_WAIT_TIMEOUT (R438). A Handover not flipped by its wait limit aborts. -/
  | handoverWaitTimeout
  /-- HANDOVER_RESTORE_DONE (R438). Restoration finishes and the groups are unsealed. -/
  | handoverRestoreDone
  /-- HOST_VER_SELECT (R451). A write of HOST_VER_SEL selects the interface minor version. -/
  | hostVerSelect (m val : Nat)
  /-- MBOX_DOWN_SEND (R452). A down-mailbox go makes a trying send to the head keeper's channel. -/
  | mboxDownSend (m : Nat)
  /-- MBOX_UP_POP (R453). A write of pop removes the head up-mailbox message. -/
  | mboxUpPop (m : Nat)
  /-- MSIX_DEFERRED_SIGNAL (R457). A vector suppressed by moderation is signalled when the limit allows. -/
  | msixDeferredSignal (vec : Nat)
  /-- HOST_EXP_ACK (R458). A write of HOST_EXP_ACK_HI acknowledges export pages through PF1. -/
  | hostExpAck (m val : Nat)
  /-- PCIE_FLR (R450). A Function Level Reset resets the host's interface state. -/
  | pcieFlr (fn : Nat)
  /-- PE_PERST (R508). PE_PERST_N low holds the PCIe link down as after an FLR. -/
  | pePerst (low : Bool)
  /-- ROPE_LINK_UP (R462). The Rope PCS comes up and enters HELLO. -/
  | ropeLinkUp (pos : List Nat) (lock : Bool)
  /-- ROPE_LINK_DOWN (R462). The Rope link is lost and outstanding requests orphan. -/
  | ropeLinkDown (los : List Bool)
  /-- HELLO_SEND (R461). The device sends a HELLO periodically. -/
  | helloSend
  /-- HELLO_RECEIVE (R462). A received HELLO is recorded, returning to HELLO if it changed. -/
  | helloReceive (payload : Bytes)
  /-- ROPE_NEGOTIATE (R462). With HELLOs exchanged the device decides UP or TALK_ONLY. -/
  | ropeNegotiate
  /-- HELLO_TIMEOUT (R462). No HELLO for 1,024 drips takes the Rope down. -/
  | helloTimeout
  /-- ROPE_DATA_RECEIVE (R464). A DATA frame enters as MAC 64 traffic on pipe 1. -/
  | ropeDataReceive (head : RopeHead) (chan : Nat) (frame : Bytes)
  /-- ROPE_REQ_READ (R465). A go with op READ sends a CSR read request to the partner. -/
  | ropeReqRead (m : Nat)
  /-- ROPE_REQ_WRITE (R465). A go with op WRITE sends a CSR write request to the partner. -/
  | ropeReqWrite (m : Nat)
  /-- ROPE_REQ_RECEIVE (R465). A received REQ is performed as a master 4 access. -/
  | ropeReqReceive (ver peer : Nat) (write : Bool) (off : Nat) (data : ReqData)
  /-- ROPE_CPL_RECEIVE (R465). A received CPL completes the outstanding request. -/
  | ropeCplReceive (ver : Nat) (mbox : Bool) (who code data : Nat)
  /-- ROPE_REQ_TIMEOUT (R465). A request without a CPL in 64 drips completes with TIMEOUT. -/
  | ropeReqTimeout (m : Nat)
  /-- ROPE_NOTIFY_RECEIVE (R465). A NOTIFY sets a peer commit or view completion bit. -/
  | ropeNotifyReceive (ver kind index : Nat)
  /-- ROPE_DMA_RECEIVE (R465). A DMA frame accesses the issuer's DRAM space for a peer command. -/
  | ropeDmaReceive (ver kind tag addr len : Nat) (data : Bytes)
  /-- ROPE_MBOX_SEND (R466). A message of tx_chan is sent in an MBOX frame. -/
  | ropeMboxSend
  /-- ROPE_MBOX_RECEIVE (R466). A received MBOX message is committed to rx_chan. -/
  | ropeMboxReceive (ver serial : Nat) (data : Bytes)
  /-- ROPE_MIRROR_RECEIVE (R467). A MIRROR frame writes a mirrored incident or seal block. -/
  | ropeMirrorReceive (ver kind : Nat) (data : Bytes)
  /-- MEMORY_ERROR (R469). An on-die memory detects an error and corrects, poisons or fences. -/
  | memoryError (u place : Nat) (bad : Bool) (bank : Nat)
  /-- MEMORY_SCRUB (R472). A memory scrubber reads and corrects protected words. -/
  | memoryScrub (u : Nat) (errs : List (Nat × Bool × Nat))
  /-- SPARE_BIST (R474). Moestest powers up and tests a spare, retiring it on failure. -/
  | spareBist (unit number : Nat) (pass : Bool)
  /-- CORE_BIST (R475). Moestest completes a known-answer pass on an active core. -/
  | coreBist (gallery core : Nat) (pass : Bool)
  /-- LANE_FENCE (R476). A lane with a persistent driver fault is fenced. -/
  | laneFence (lane fault : Nat)
  /-- RX_POLARITY_TRY (R477). A receiver without lock after 2 ms tries the other polarity. -/
  | rxPolarityTry (lane : Nat)
  /-- TX_POLARITY_INVERT (R478). Under AUTO the transmitter inverts after 100 ms and restarts training. -/
  | txPolarityInvert (lane : Nat)
  /-- GPIO_SHORT (R481). A shorted output pin is set to high impedance and recorded. -/
  | gpioShort (pin : Nat)
  /-- GPIO_FAULT_CLEAR (R481). A write of 1 to a HLTH_GPIO_FAULT bit re-enables the driver. -/
  | gpioFaultClear (m val : Nat)
  /-- XTEMP_FAULT (R482). An external temperature input is found open or shorted. -/
  | xtempFault (x fault : Nat)
  /-- SENSOR_SAMPLE (R483). The on-die sensors are read. -/
  | sensorSample (temps : List (Option Int)) (sr : Int)
  /-- THERMAL_LEVEL_DROP (R484). After 1,024 boundaries below threshold less 3 °C the level drops. -/
  | thermalLevelDrop
  /-- EYE_MARGIN_CHECK (R488). Each receiver measures its eye height every 2^20 drips. -/
  | eyeMarginCheck (lane height : Nat)
  /-- RAIL_RAMP (R498). A supply rail rises or falls. -/
  | railRamp (rail : Nat) (within : Bool)
  /-- RAIL_MONITOR_TRIP (R501). A rail outside its monitor window for 2 µs sends the device to Cold mode. -/
  | railMonitorTrip (rail : Nat)
  /-- EXTEST (R510). EXTEST at Update-IR holds the device in Cold mode. -/
  | jtagExtest
  /-- SAMPLE_PRELOAD (R510). SAMPLE/PRELOAD samples boundary cells. -/
  | jtagSamplePreload
  /-- IDCODE (R510). IDCODE selects the identification register. -/
  | jtagIdcode
  /-- CLAMP (R510). CLAMP holds the device in Cold mode. -/
  | jtagClamp
  /-- HIGHZ (R510). HIGHZ holds the device in Cold mode. -/
  | jtagHighz
  /-- EXTEST_PULSE (R510). EXTEST_PULSE holds the device in Cold mode. -/
  | jtagExtestPulse
  /-- EXTEST_TRAIN (R510). EXTEST_TRAIN holds the device in Cold mode. -/
  | jtagExtestTrain
  /-- BYPASS (R510). BYPASS selects the bypass register. -/
  | jtagBypass (code : Nat)
  /-- TEST_LOGIC_RESET (R510). Test-Logic-Reset releases a scan hold as a rise of RESET_N. -/
  | jtagTestLogicReset
  /-- HALT (R517). DBUG op HALT stops a thread at its next instruction boundary. -/
  | dbgHalt (m : Nat)
  /-- RESUME (R517). DBUG op RESUME continues a HALTED thread. -/
  | dbgResume (m : Nat)
  /-- STEP (R517). DBUG op STEP runs one instruction of a HALTED thread. -/
  | dbgStep (m : Nat)
  /-- HOST_READ_COMPLETION (R449). A completion to a device read of host memory arrives, with data, Unsupported Request, Completer Abort or poison, and the command proceeds or fails with TIMEOUT or POISONED. -/
  | hostReadCompletion (tag outcome : Nat) (data : Bytes)
  /-- HOST_READ_TIMEOUT (R449). A device read of host memory that has received no completion within 50 ms fails its command with TIMEOUT and applies nothing. -/
  | hostReadTimeout (tag : Nat)
  deriving DecidableEq, Repr

end Sys2Proof
end

