-- ==== Sys2Proof/Machine/Bits.lean ====
section
/-! DEFINITION. Bit fields of register words, byte order, serial-number comparison and the CRC-32C of R57:
the plain arithmetic every block uses. -/

namespace Sys2Proof.Machine

/-- Bits [hi:lo] of a number (R6). -/
def bits (v hi lo : Nat) : Nat := (v / 2 ^ lo) % 2 ^ (hi + 1 - lo)

/-- Bit `i` of a number. -/
def bitOf (v i : Nat) : Bool := (v / 2 ^ i) % 2 == 1

/-- 1 for true, 0 for false. -/
def b2n (b : Bool) : Nat := if b then 1 else 0

/-- Field [hi:lo] of a register word. -/
def fld (w : Word) (hi lo : Nat) : Nat := bits w.toNat hi lo

/-- The mask of bits [hi:lo]. -/
def fldMask (hi lo : Nat) : Word := BitVec.ofNat 32 ((2 ^ (hi + 1 - lo) - 1) * 2 ^ lo)

/-- The word with field [hi:lo] replaced by the low bits of `v`. -/
def setFld (w : Word) (hi lo v : Nat) : Word :=
  (w &&& ~~~ (fldMask hi lo)) ||| BitVec.ofNat 32 ((v % 2 ^ (hi + 1 - lo)) * 2 ^ lo)

/-- A number as a register word. -/
def w32 (n : Nat) : Word := BitVec.ofNat 32 n

/-- The two words of a 64-bit number, low word first. -/
def w64 (n : Nat) : List Word := [w32 n, w32 (n / 2 ^ 32)]

/-- A saturating increment of a 32-bit counter by `n`. -/
def satAdd32 (w : Word) (n : Nat) : Word := w32 (Nat.min (w.toNat + n) 0xFFFFFFFF)

/-- `n` bytes of `v`, least significant byte first (R5). -/
def leBytes : Nat → Nat → Bytes
  | 0, _ => []
  | n + 1, v => BitVec.ofNat 8 v :: leBytes n (v / 256)

/-- The number a little-endian byte string spells. -/
def leNat : Bytes → Nat
  | [] => 0
  | b :: bs => b.toNat + 256 * leNat bs

/-- The number a big-endian byte string spells. -/
def beNat (bs : Bytes) : Nat := bs.foldl (fun n b => 256 * n + b.toNat) 0

/-- `n` bytes of `v`, most significant byte first. -/
def beBytes (n v : Nat) : Bytes := (leBytes n v).reverse

/-- Bytes `off` to `off + n - 1` of a byte string; bytes past its end read as 0. -/
def slice (bs : Bytes) (off n : Nat) : Bytes :=
  let t := (bs.drop off).take n
  t ++ List.replicate (n - t.length) 0

/-- The little-endian field of `n` bytes at offset `off`. -/
def leAt (bs : Bytes) (off n : Nat) : Nat := leNat (slice bs off n)

/-- The big-endian field of `n` bytes at offset `off`. -/
def beAt (bs : Bytes) (off n : Nat) : Nat := beNat (slice bs off n)

/-- Replace the bytes from `off` on by `new`; bytes past the end of `bs` are dropped. -/
def patch (bs : Bytes) (off : Nat) (new : Bytes) : Bytes :=
  (bs.take off ++ new ++ bs.drop (off + new.length)).take bs.length

/-- Serial-number order of generations (R38): `a` precedes `b` when (b − a) mod 2^32 lies between 1 and
2^31 − 1. -/
def serialBefore (a b : Nat) : Bool :=
  let d := (b + 2 ^ 32 - a % 2 ^ 32) % 2 ^ 32
  1 ≤ d && d ≤ 2 ^ 31 - 1

/-- The next value of the 32-bit generation counter, which skips 0 (R38). -/
def nextGen (g : Nat) : Nat := if (g + 1) % 2 ^ 32 = 0 then 1 else (g + 1) % 2 ^ 32

/-- One bit of the reflected CRC-32C division. -/
def crcBit (c : Nat) : Nat := if c % 2 = 1 then (c / 2) ^^^ 0x82F63B78 else c / 2

/-- One byte of the CRC-32C. -/
def crcByte (c : Nat) (b : Byte) : Nat :=
  crcBit (crcBit (crcBit (crcBit (crcBit (crcBit (crcBit (crcBit (c ^^^ b.toNat))))))))

/-- The standard CRC-32C (R57): initial value 0xFFFF_FFFF, reflected, final XOR with 0xFFFF_FFFF. -/
def crc32c (bs : Bytes) : Nat := (bs.foldl crcByte 0xFFFFFFFF) ^^^ 0xFFFFFFFF

/-- The set bits of a mask below `n`, rising. -/
def maskBits (n mask : Nat) : List Nat := (List.range n).filter (fun i => bitOf mask i)

/-- The bits of `v` within width `n`. -/
def trunc (n v : Nat) : Nat := v % 2 ^ n

/-- The value of the low `n` bits of `v` read as a two's-complement number. -/
def toSigned (n v : Nat) : Int :=
  let u := v % 2 ^ n
  if u < 2 ^ (n - 1) then (u : Int) else (u : Int) - (2 ^ n : Nat)

/-- An integer narrowed to `n` bits. -/
def ofSigned (n : Nat) (i : Int) : Nat := (i % ((2 ^ n : Nat) : Int)).toNat

end Sys2Proof.Machine
end

