-- ==== Sys2Proof/Machine/Flags.lean ====
section
/-! DEFINITION. The flag computations (R206, R207, R236 to R240) and the conditions of branches (R241's table). -/

namespace Sys2Proof.Machine

/-- FLAGS.z. -/
def flagZ (f : Word) : Bool := bitOf f.toNat 0
/-- FLAGS.n. -/
def flagN (f : Word) : Bool := bitOf f.toNat 1
/-- FLAGS.c. -/
def flagC (f : Word) : Bool := bitOf f.toNat 2
/-- FLAGS.v. -/
def flagV (f : Word) : Bool := bitOf f.toNat 3
/-- FLAGS.code. -/
def flagCode (f : Word) : Nat := fld f 15 8
/-- FLAGS.w. -/
def flagW (f : Word) : Bool := bitOf f.toNat 16

/-- FLAGS with z, n, c and v written and every other bit kept (R207). -/
def setZncv (f : Word) (z n c v : Bool) : Word := setFld f 3 0 (b2n z + b2n n * 2 + b2n c * 4 + b2n v * 8)

/-- z and n of a result at width `w`, with given c and v. -/
def flagsOf (f : Word) (w res : Nat) (c v : Bool) : Word := setZncv f (res == 0) (bitOf res (w - 1)) c v

/-- The bits of FLAGS that exist (R206). -/
def flagsMask : Nat := 0x1FF0F

/-- A signed value fits width `w`. -/
def fitsSigned (w : Nat) (i : Int) : Bool := -((2 ^ (w - 1) : Nat) : Int) ≤ i && i < ((2 ^ (w - 1) : Nat) : Int)

/-- Condition `cc` of a branch holds. -/
def branchCond (cc : Nat) (f : Word) : Bool :=
  match cc with
  | 0 => flagZ f
  | 1 => !flagZ f
  | 2 => flagC f
  | 3 => !flagC f
  | 4 => !flagC f && !flagZ f
  | 5 => flagC f || flagZ f
  | 6 => flagN f != flagV f
  | 7 => flagN f == flagV f
  | 8 => !flagZ f && flagN f == flagV f
  | 9 => flagZ f || flagN f != flagV f
  | 10 => flagN f
  | 11 => !flagN f
  | 12 => flagV f
  | 13 => !flagV f
  | 14 => flagCode f == 0
  | _ => flagCode f != 0

end Sys2Proof.Machine
end

