-- ==== Sys2Proof/Machine/Alu.lean ====
section
/-! DEFINITION. What the instructions of groups 0x00 to 0x6F compute (R232 to R240), as functions of the operation width,
FLAGS and the operand values in operand order (0 for an operand that is only written). -/

namespace Sys2Proof.Machine

/-- What an instruction writes: values to operands, by operand index, and FLAGS. -/
structure AluOut where
  writes : List (Nat × Nat)
  flags : Word
  deriving DecidableEq, Repr

/-- A computation; none raises ARITHMETIC (R238). -/
abbrev Alu := Nat → Word → List Nat → Option AluOut

/-- Operand `i`. -/
def opv (vs : List Nat) (i : Nat) : Nat := vs.getD i 0

/-- A result for operand 0, with FLAGS from it. -/
def aluRes (w : Nat) (f : Word) (res : Nat) (c v : Bool) : Option AluOut :=
  some ⟨[(0, res % 2 ^ w)], flagsOf f w (res % 2 ^ w) c v⟩

/-- FLAGS from a result that is not written. -/
def aluFlags (w : Nat) (f : Word) (res : Nat) (c v : Bool) : Option AluOut :=
  some ⟨[], flagsOf f w (res % 2 ^ w) c v⟩

/-! ## Data movement (R232 to R235) -/

/-- MOV. -/
def aluMov : Alu := fun _ f vs => some ⟨[(0, opv vs 1)], f⟩

/-- XCHG (R233). -/
def aluXchg : Alu := fun _ f vs => some ⟨[(0, opv vs 1), (1, opv vs 0)], f⟩

/-- BSWAP: the bytes of the operation width in reverse order. -/
def aluBswap : Alu := fun w f vs => some ⟨[(0, leNat (leBytes (w / 8) (opv vs 1)).reverse)], f⟩

/-- LEA: the value of its source is the local address (R234). -/
def aluLea : Alu := fun _ f vs => some ⟨[(0, opv vs 1)], f⟩

/-- The low `n` decimal digits of a number, packed. -/
def toBcd : Nat → Nat → Nat
  | 0, _ => 0
  | n + 1, v => v % 10 + 16 * toBcd n (v / 10)

/-- The number `n` packed decimal digits spell. -/
def fromBcd : Nat → Nat → Nat
  | 0, _ => 0
  | n + 1, v => v % 16 + 10 * fromBcd n (v / 16)

/-- Every one of `n` nibbles is a decimal digit. -/
def bcdOk : Nat → Nat → Bool
  | 0, _ => true
  | n + 1, v => v % 16 ≤ 9 && bcdOk n (v / 16)

/-- BIN2BCD (R235). -/
def aluBin2bcd : Alu := fun w f vs =>
  let r := toBcd (w / 4) (opv vs 1)
  some ⟨[(0, r)], setZncv f (r == 0) false false (10 ^ (w / 4) ≤ opv vs 1)⟩

/-- BCD2BIN (R235). -/
def aluBcd2bin : Alu := fun w f vs =>
  if bcdOk 32 (opv vs 1) then
    let n := fromBcd 32 (opv vs 1)
    some ⟨[(0, n % 2 ^ w)], setZncv f (n % 2 ^ w == 0) false false (2 ^ w ≤ n)⟩
  else some ⟨[(0, 0)], setZncv f true false true false⟩

/-! ## Integer arithmetic and compare (R236 to R238) -/

/-- a + b + carry in. -/
def addWith (w : Nat) (f : Word) (a b cin : Nat) : Option AluOut :=
  aluRes w f (a + b + cin) (2 ^ w ≤ a + b + cin) (!fitsSigned w (toSigned w a + toSigned w b + cin))

/-- The low `w` bits of a − b − borrow in. -/
def subVal (w a b bin : Nat) : Nat := ofSigned w ((a : Int) - b - bin)

/-- The borrow out of a − b − borrow in. -/
def subBorrow (a b bin : Nat) : Bool := a < b + bin

/-- Signed overflow of a − b − borrow in. -/
def subOver (w a b bin : Nat) : Bool := !fitsSigned w (toSigned w a - toSigned w b - bin)

/-- a − b − borrow in. -/
def subWith (w : Nat) (f : Word) (a b bin : Nat) : Option AluOut :=
  aluRes w f (subVal w a b bin) (subBorrow a b bin) (subOver w a b bin)

/-- ADD. -/
def aluAdd : Alu := fun w f vs => addWith w f (opv vs 1) (opv vs 2) 0
/-- ADC. -/
def aluAdc : Alu := fun w f vs => addWith w f (opv vs 1) (opv vs 2) (b2n (flagC f))
/-- SUB. -/
def aluSub : Alu := fun w f vs => subWith w f (opv vs 1) (opv vs 2) 0
/-- SBB. -/
def aluSbb : Alu := fun w f vs => subWith w f (opv vs 1) (opv vs 2) (b2n (flagC f))
/-- NEG: SUB with a = 0. -/
def aluNeg : Alu := fun w f vs => subWith w f 0 (opv vs 1) 0
/-- INC: ADD with b = 1. -/
def aluInc : Alu := fun w f vs => addWith w f (opv vs 0) 1 0
/-- DEC: SUB with b = 1. -/
def aluDec : Alu := fun w f vs => subWith w f (opv vs 0) 1 0
/-- CMP. -/
def aluCmp : Alu := fun w f vs =>
  aluFlags w f (subVal w (opv vs 0) (opv vs 1) 0) (subBorrow (opv vs 0) (opv vs 1) 0) (subOver w (opv vs 0) (opv vs 1) 0)

/-- MULU (R237). -/
def aluMulu : Alu := fun w f vs =>
  let p := opv vs 1 * opv vs 2
  aluRes w f p (2 ^ w ≤ p) (2 ^ w ≤ p)

/-- MULS (R237). -/
def aluMuls : Alu := fun w f vs =>
  let p := toSigned w (opv vs 1) * toSigned w (opv vs 2)
  aluRes w f (ofSigned w p) (!fitsSigned w p) (!fitsSigned w p)

/-- MULHU. -/
def aluMulhu : Alu := fun w f vs => aluRes w f (opv vs 1 * opv vs 2 / 2 ^ w) false false

/-- MULHS. -/
def aluMulhs : Alu := fun w f vs =>
  aluRes w f (ofSigned (2 * w) (toSigned w (opv vs 1) * toSigned w (opv vs 2)) / 2 ^ w) false false

/-- DIVU (R238). -/
def aluDivu : Alu := fun w f vs => if opv vs 2 = 0 then none else aluRes w f (opv vs 1 / opv vs 2) false false

/-- DIVS, rounded toward zero (R238). -/
def aluDivs : Alu := fun w f vs =>
  if opv vs 2 = 0 then none
  else
    let q := Int.tdiv (toSigned w (opv vs 1)) (toSigned w (opv vs 2))
    aluRes w f (ofSigned w q) false (!fitsSigned w q)

/-- REMU (R238). -/
def aluRemu : Alu := fun w f vs => if opv vs 2 = 0 then none else aluRes w f (opv vs 1 % opv vs 2) false false

/-- REMS, with the sign of a (R238). -/
def aluRems : Alu := fun w f vs =>
  if opv vs 2 = 0 then none
  else aluRes w f (ofSigned w (Int.tmod (toSigned w (opv vs 1)) (toSigned w (opv vs 2)))) false false

/-- A minimum or maximum, with c and v as for CMP a, b. -/
def aluPick (w : Nat) (f : Word) (a b : Nat) (first : Bool) : Option AluOut :=
  aluRes w f (if first then a else b) (subBorrow a b 0) (subOver w a b 0)

/-- MINU. -/
def aluMinu : Alu := fun w f vs => aluPick w f (opv vs 1) (opv vs 2) (opv vs 1 ≤ opv vs 2)
/-- MAXU. -/
def aluMaxu : Alu := fun w f vs => aluPick w f (opv vs 1) (opv vs 2) (opv vs 2 ≤ opv vs 1)
/-- MINS. -/
def aluMins : Alu := fun w f vs => aluPick w f (opv vs 1) (opv vs 2) (toSigned w (opv vs 1) ≤ toSigned w (opv vs 2))
/-- MAXS. -/
def aluMaxs : Alu := fun w f vs => aluPick w f (opv vs 1) (opv vs 2) (toSigned w (opv vs 2) ≤ toSigned w (opv vs 1))

/-! ## Logic, shift, rotate and bit field (R239, R240) -/

/-- The bits of `w` not set in `a`. -/
def compl (w a : Nat) : Nat := 2 ^ w - 1 - a % 2 ^ w

/-- AND. -/
def aluAnd : Alu := fun w f vs => aluRes w f (opv vs 1 &&& opv vs 2) false false
/-- OR. -/
def aluOr : Alu := fun w f vs => aluRes w f (opv vs 1 ||| opv vs 2) false false
/-- XOR. -/
def aluXor : Alu := fun w f vs => aluRes w f (opv vs 1 ^^^ opv vs 2) false false
/-- ANDN. -/
def aluAndn : Alu := fun w f vs => aluRes w f (opv vs 1 &&& compl w (opv vs 2)) false false
/-- NOT. -/
def aluNot : Alu := fun w f vs => aluRes w f (compl w (opv vs 1)) false false
/-- TST. -/
def aluTst : Alu := fun w f vs => aluFlags w f (opv vs 0 &&& opv vs 1) false false

/-- A shift count beyond every width counts as one more than the width. -/
def shiftBy (w k : Nat) : Nat := Nat.min k (w + 1)

/-- SHL (R239). -/
def aluShl : Alu := fun w f vs =>
  let k := shiftBy w (opv vs 2)
  aluRes w f (opv vs 1 * 2 ^ k) (1 ≤ k && k ≤ w && bitOf (opv vs 1) (w - k)) false

/-- SHR (R239). -/
def aluShr : Alu := fun w f vs =>
  let k := shiftBy w (opv vs 2)
  aluRes w f (opv vs 1 / 2 ^ k) (1 ≤ k && k ≤ w && bitOf (opv vs 1) (k - 1)) false

/-- SAR (R239). -/
def aluSar : Alu := fun w f vs =>
  let k := shiftBy w (opv vs 2)
  aluRes w f (ofSigned w (Int.fdiv (toSigned w (opv vs 1)) ((2 ^ k : Nat) : Int)))
    (1 ≤ k && k ≤ w && bitOf (opv vs 1) (k - 1)) false

/-- ROL (R239). -/
def aluRol : Alu := fun w f vs =>
  let k := opv vs 2 % w
  let r := (opv vs 1 * 2 ^ k % 2 ^ w) ||| (opv vs 1 / 2 ^ (w - k))
  if k = 0 then aluRes w f (opv vs 1) false false else aluRes w f r (bitOf r 0) false

/-- ROR (R239). -/
def aluRor : Alu := fun w f vs =>
  let k := opv vs 2 % w
  let r := (opv vs 1 / 2 ^ k) ||| (opv vs 1 * 2 ^ (w - k) % 2 ^ w)
  if k = 0 then aluRes w f (opv vs 1) false false else aluRes w f r (bitOf r (w - 1)) false

/-- EXT (R240). -/
def aluExt : Alu := fun w f vs =>
  let pos := bits (opv vs 2) 7 0
  let len := bits (opv vs 2) 15 8
  if len = 0 then some ⟨[], f⟩ else aluRes w f (opv vs 1 / 2 ^ pos % 2 ^ len) false false

/-- INS (R240). -/
def aluIns : Alu := fun w f vs =>
  let pos := bits (opv vs 2) 7 0
  let len := bits (opv vs 2) 15 8
  let m := (2 ^ len - 1) * 2 ^ pos
  if len = 0 then some ⟨[], f⟩
  else aluRes w f ((opv vs 0 &&& compl w m) ||| ((opv vs 1 * 2 ^ pos) &&& m)) false false

/-- Set bits among the low `n` of a number. -/
def popCount : Nat → Nat → Nat
  | 0, _ => 0
  | n + 1, v => v % 2 + popCount n (v / 2)

/-- Zero bits from bit 0 up to the first set one, at most `n`. -/
def trailZeros : Nat → Nat → Nat
  | 0, _ => 0
  | n + 1, v => if v % 2 = 1 then 0 else 1 + trailZeros n (v / 2)

/-- Zero bits from bit `n` − 1 down to the first set one. -/
def leadZeros : Nat → Nat → Nat
  | 0, _ => 0
  | n + 1, v => if bitOf v n then 0 else 1 + leadZeros n v

/-- POPC. -/
def aluPopc : Alu := fun w f vs => aluRes w f (popCount w (opv vs 1)) false false
/-- CLZ. -/
def aluClz : Alu := fun w f vs => aluRes w f (leadZeros w (opv vs 1)) false false
/-- CTZ. -/
def aluCtz : Alu := fun w f vs => aluRes w f (trailZeros w (opv vs 1)) false false

/-- The flags of a bit test (R240). -/
def bitFlags (f : Word) (b : Bool) : Word := setZncv f (!b) false b false

/-- BTST. -/
def aluBtst : Alu := fun w f vs => some ⟨[], bitFlags f (bitOf (opv vs 0) (opv vs 1 % w))⟩

/-- BSET. -/
def aluBset : Alu := fun w f vs =>
  let k := opv vs 1 % w
  some ⟨[(0, opv vs 0 ||| 2 ^ k)], bitFlags f (bitOf (opv vs 0) k)⟩

/-- BCLR. -/
def aluBclr : Alu := fun w f vs =>
  let k := opv vs 1 % w
  some ⟨[(0, opv vs 0 &&& compl w (2 ^ k))], bitFlags f (bitOf (opv vs 0) k)⟩

/-- The computation of an opcode of groups 0x00 to 0x6F. -/
def aluOf (op : Nat) : Option Alu :=
  match op with
  | 0x01 => some aluMov | 0x02 => some aluXchg | 0x03 => some aluBswap | 0x04 => some aluLea
  | 0x08 => some aluBin2bcd | 0x09 => some aluBcd2bin
  | 0x20 => some aluAdd | 0x21 => some aluAdc | 0x22 => some aluSub | 0x23 => some aluSbb
  | 0x24 => some aluNeg | 0x25 => some aluInc | 0x26 => some aluDec | 0x27 => some aluCmp
  | 0x28 => some aluMulu | 0x29 => some aluMuls | 0x2A => some aluMulhu | 0x2B => some aluMulhs
  | 0x2C => some aluDivu | 0x2D => some aluDivs | 0x2E => some aluRemu | 0x2F => some aluRems
  | 0x30 => some aluMinu | 0x31 => some aluMaxu | 0x32 => some aluMins | 0x33 => some aluMaxs
  | 0x50 => some aluAnd | 0x51 => some aluOr | 0x52 => some aluXor | 0x53 => some aluAndn
  | 0x54 => some aluNot | 0x55 => some aluTst
  | 0x58 => some aluShl | 0x59 => some aluShr | 0x5A => some aluSar | 0x5B => some aluRol | 0x5C => some aluRor
  | 0x60 => some aluExt | 0x61 => some aluIns | 0x62 => some aluPopc | 0x63 => some aluClz | 0x64 => some aluCtz
  | 0x65 => some aluBtst | 0x66 => some aluBset | 0x67 => some aluBclr
  | _ => none

end Sys2Proof.Machine
end

