-- ==== Sys2Proof/Machine/Hash.lean ====
section
/-! DEFINITION. The hash functions the manual names: SHA-256 and SHA-384 (FIPS 180-4) and SHA3-256 (FIPS 202), which
the manual uses and does not restate (PRESUMED, assumption 7), as functions of byte strings and as running states. -/

namespace Sys2Proof.Machine

/-! ## SHA-256 and SHA-384 -/

/-- The round constants of SHA-256. -/
def sha256K : List (BitVec 32) :=
  [0x428a2f98, 0x71374491, 0xb5c0fbcf, 0xe9b5dba5, 0x3956c25b, 0x59f111f1, 0x923f82a4, 0xab1c5ed5] ++
  [0xd807aa98, 0x12835b01, 0x243185be, 0x550c7dc3, 0x72be5d74, 0x80deb1fe, 0x9bdc06a7, 0xc19bf174] ++
  [0xe49b69c1, 0xefbe4786, 0x0fc19dc6, 0x240ca1cc, 0x2de92c6f, 0x4a7484aa, 0x5cb0a9dc, 0x76f988da] ++
  [0x983e5152, 0xa831c66d, 0xb00327c8, 0xbf597fc7, 0xc6e00bf3, 0xd5a79147, 0x06ca6351, 0x14292967] ++
  [0x27b70a85, 0x2e1b2138, 0x4d2c6dfc, 0x53380d13, 0x650a7354, 0x766a0abb, 0x81c2c92e, 0x92722c85] ++
  [0xa2bfe8a1, 0xa81a664b, 0xc24b8b70, 0xc76c51a3, 0xd192e819, 0xd6990624, 0xf40e3585, 0x106aa070] ++
  [0x19a4c116, 0x1e376c08, 0x2748774c, 0x34b0bcb5, 0x391c0cb3, 0x4ed8aa4a, 0x5b9cca4f, 0x682e6ff3] ++
  [0x748f82ee, 0x78a5636f, 0x84c87814, 0x8cc70208, 0x90befffa, 0xa4506ceb, 0xbef9a3f7, 0xc67178f2]

/-- The initial state of SHA-256. -/
def sha256H : List (BitVec 32) :=
  [0x6a09e667, 0xbb67ae85, 0x3c6ef372, 0xa54ff53a, 0x510e527f, 0x9b05688c, 0x1f83d9ab, 0x5be0cd19]

/-- The round constants of SHA-384. -/
def sha384K : List (BitVec 64) :=
  [0x428a2f98d728ae22, 0x7137449123ef65cd, 0xb5c0fbcfec4d3b2f, 0xe9b5dba58189dbbc] ++
  [0x3956c25bf348b538, 0x59f111f1b605d019, 0x923f82a4af194f9b, 0xab1c5ed5da6d8118] ++
  [0xd807aa98a3030242, 0x12835b0145706fbe, 0x243185be4ee4b28c, 0x550c7dc3d5ffb4e2] ++
  [0x72be5d74f27b896f, 0x80deb1fe3b1696b1, 0x9bdc06a725c71235, 0xc19bf174cf692694] ++
  [0xe49b69c19ef14ad2, 0xefbe4786384f25e3, 0x0fc19dc68b8cd5b5, 0x240ca1cc77ac9c65] ++
  [0x2de92c6f592b0275, 0x4a7484aa6ea6e483, 0x5cb0a9dcbd41fbd4, 0x76f988da831153b5] ++
  [0x983e5152ee66dfab, 0xa831c66d2db43210, 0xb00327c898fb213f, 0xbf597fc7beef0ee4] ++
  [0xc6e00bf33da88fc2, 0xd5a79147930aa725, 0x06ca6351e003826f, 0x142929670a0e6e70] ++
  [0x27b70a8546d22ffc, 0x2e1b21385c26c926, 0x4d2c6dfc5ac42aed, 0x53380d139d95b3df] ++
  [0x650a73548baf63de, 0x766a0abb3c77b2a8, 0x81c2c92e47edaee6, 0x92722c851482353b] ++
  [0xa2bfe8a14cf10364, 0xa81a664bbc423001, 0xc24b8b70d0f89791, 0xc76c51a30654be30] ++
  [0xd192e819d6ef5218, 0xd69906245565a910, 0xf40e35855771202a, 0x106aa07032bbd1b8] ++
  [0x19a4c116b8d2d0c8, 0x1e376c085141ab53, 0x2748774cdf8eeb99, 0x34b0bcb5e19b48a8] ++
  [0x391c0cb3c5c95a63, 0x4ed8aa4ae3418acb, 0x5b9cca4f7763e373, 0x682e6ff3d6b2b8a3] ++
  [0x748f82ee5defb2fc, 0x78a5636f43172f60, 0x84c87814a1f0ab72, 0x8cc702081a6439ec] ++
  [0x90befffa23631e28, 0xa4506cebde82bde9, 0xbef9a3f7b2c67915, 0xc67178f2e372532b] ++
  [0xca273eceea26619c, 0xd186b8c721c0c207, 0xeada7dd6cde0eb1e, 0xf57d4f7fee6ed178] ++
  [0x06f067aa72176fba, 0x0a637dc5a2c898a6, 0x113f9804bef90dae, 0x1b710b35131c471b] ++
  [0x28db77f523047d84, 0x32caab7b40c72493, 0x3c9ebe0a15c9bebc, 0x431d67c49c100d4c] ++
  [0x4cc5d4becb3e42b6, 0x597f299cfc657e2a, 0x5fcb6fab3ad6faec, 0x6c44198c4a475817]

/-- The initial state of SHA-384. -/
def sha384H : List (BitVec 64) :=
  [0xcbbb9d5dc1059ed8, 0x629a292a367cd507, 0x9159015a3070dd17, 0x152fecd8f70e5939] ++
  [0x67332667ffc00b31, 0x8eb44a8768581511, 0xdb0c2e0d64f98fa7, 0x47b5481dbefa4fa4]

/-- What differs between the two SHA-2 functions: word bytes, block bytes, and the rotation amounts of the four sigma
functions, the last of the small ones being shifts. -/
structure Sha2 (w : Nat) where
  bytes : Nat
  block : Nat
  big0 : Nat × Nat × Nat
  big1 : Nat × Nat × Nat
  small0 : Nat × Nat × Nat
  small1 : Nat × Nat × Nat
  k : List (BitVec w)

/-- SHA-256. -/
def sha256P : Sha2 32 := ⟨4, 64, (2, 13, 22), (6, 11, 25), (7, 18, 3), (17, 19, 10), sha256K⟩
/-- SHA-384. -/
def sha384P : Sha2 64 := ⟨8, 128, (28, 34, 39), (14, 18, 41), (1, 8, 7), (19, 61, 6), sha384K⟩

/-- A sum of three rotations. -/
def rot3 {w : Nat} (a : Nat × Nat × Nat) (x : BitVec w) : BitVec w :=
  x.rotateRight a.1 ^^^ x.rotateRight a.2.1 ^^^ x.rotateRight a.2.2

/-- Two rotations and a shift. -/
def rot2s {w : Nat} (a : Nat × Nat × Nat) (x : BitVec w) : BitVec w :=
  x.rotateRight a.1 ^^^ x.rotateRight a.2.1 ^^^ (x >>> a.2.2)

/-- The words of the message schedule, newest first, extended `n` times. -/
def sha2Sched {w : Nat} (p : Sha2 w) : Nat → List (BitVec w) → List (BitVec w)
  | 0, ws => ws
  | n + 1, ws =>
    sha2Sched p n ((rot2s p.small1 (ws.getD 1 0) + ws.getD 6 0 + rot2s p.small0 (ws.getD 14 0) + ws.getD 15 0) :: ws)

/-- One round on the eight working words. -/
def sha2Round {w : Nat} (p : Sha2 w) (s : List (BitVec w)) (kw : BitVec w × BitVec w) : List (BitVec w) :=
  match s with
  | [a, b, c, d, e, f, g, h] =>
    let t1 := h + rot3 p.big1 e + ((e &&& f) ^^^ (~~~e &&& g)) + kw.1 + kw.2
    let t2 := rot3 p.big0 a + ((a &&& b) ^^^ (a &&& c) ^^^ (b &&& c))
    [t1 + t2, a, b, c, d + t1, e, f, g]
  | _ => s

/-- The big-endian words of a block, in order. -/
def beWords (w nb : Nat) : Nat → Bytes → List (BitVec w)
  | 0, _ => []
  | n + 1, bs => BitVec.ofNat w (beNat (bs.take nb)) :: beWords w nb n (bs.drop nb)

/-- One block into the state. -/
def sha2Block {w : Nat} (p : Sha2 w) (h : List (BitVec w)) (blk : Bytes) : List (BitVec w) :=
  let ws := (sha2Sched p (p.k.length - 16) (beWords w p.bytes 16 blk).reverse).reverse
  List.zipWith (· + ·) h ((List.zip p.k ws).foldl (sha2Round p) h)

/-- `n` blocks into the state. -/
def sha2Blocks {w : Nat} (p : Sha2 w) : Nat → List (BitVec w) → Bytes → List (BitVec w)
  | 0, h, _ => h
  | n + 1, h, bs => sha2Blocks p n (sha2Block p h (bs.take p.block)) (bs.drop p.block)

/-- The padded message. -/
def sha2Pad {w : Nat} (p : Sha2 w) (m : Bytes) : Bytes :=
  let z := (2 * p.block - 1 - 2 * p.bytes - m.length % p.block) % p.block
  m ++ [0x80] ++ List.replicate z 0 ++ beBytes (2 * p.bytes) (8 * m.length)

/-- The digest of a message. -/
def sha2 {w : Nat} (p : Sha2 w) (h : List (BitVec w)) (m : Bytes) : Bytes :=
  let pm := sha2Pad p m
  (sha2Blocks p (pm.length / p.block) h pm).flatMap (fun x => beBytes p.bytes x.toNat)

/-- SHA-256. -/
def sha256 (m : Bytes) : Bytes := sha2 sha256P sha256H m

/-- SHA-384. -/
def sha384 (m : Bytes) : Bytes := (sha2 sha384P sha384H m).take 48

/-! ## SHA3-256 -/

/-- The round constants of Keccak-f[1600]. -/
def keccakRC : List (BitVec 64) :=
  [0x0000000000000001, 0x0000000000008082, 0x800000000000808a, 0x8000000080008000] ++
  [0x000000000000808b, 0x0000000080000001, 0x8000000080008081, 0x8000000000008009] ++
  [0x000000000000008a, 0x0000000000000088, 0x0000000080008009, 0x000000008000000a] ++
  [0x000000008000808b, 0x800000000000008b, 0x8000000000008089, 0x8000000000008003] ++
  [0x8000000000008002, 0x8000000000000080, 0x000000000000800a, 0x800000008000000a] ++
  [0x8000000080008081, 0x8000000000008080, 0x0000000080000001, 0x8000000080008008]

/-- The rotation of each lane, lane x + 5 y. -/
def keccakRot : List Nat :=
  [0, 1, 62, 28, 27, 36, 44, 6, 55, 20, 3, 10, 43, 25, 39, 41, 45, 15, 21, 8, 18, 2, 61, 56, 14]

/-- One round of Keccak-f[1600] on the 25 lanes. -/
def keccakRound (a : List (BitVec 64)) (rc : BitVec 64) : List (BitVec 64) :=
  let at_ := fun (l : List (BitVec 64)) i => l.getD i 0
  let c := (List.range 5).map (fun x => at_ a x ^^^ at_ a (x + 5) ^^^ at_ a (x + 10) ^^^ at_ a (x + 15) ^^^ at_ a (x + 20))
  let dd := (List.range 5).map (fun x => at_ c ((x + 4) % 5) ^^^ (at_ c ((x + 1) % 5)).rotateLeft 1)
  let e := (List.range 25).map (fun i => (at_ a i ^^^ at_ dd (i % 5)).rotateLeft (keccakRot.getD i 0))
  -- lane (x, y) of the permuted state comes from lane (x + 3 y, x)
  let b := (List.range 25).map (fun i => at_ e ((i % 5 + 3 * (i / 5)) % 5 + 5 * (i % 5)))
  let f := (List.range 25).map (fun i =>
    at_ b i ^^^ (~~~(at_ b ((i % 5 + 1) % 5 + 5 * (i / 5))) &&& at_ b ((i % 5 + 2) % 5 + 5 * (i / 5))))
  match f with
  | [] => []
  | x :: xs => (x ^^^ rc) :: xs

/-- The permutation. -/
def keccakF (a : List (BitVec 64)) : List (BitVec 64) := keccakRC.foldl keccakRound a

/-- The little-endian lanes of a block. -/
def leLanes : Nat → Bytes → List (BitVec 64)
  | 0, _ => []
  | n + 1, bs => BitVec.ofNat 64 (leNat (bs.take 8)) :: leLanes n (bs.drop 8)

/-- Absorb `n` blocks of 136 bytes. -/
def sha3Blocks : Nat → List (BitVec 64) → Bytes → List (BitVec 64)
  | 0, a, _ => a
  | n + 1, a, bs =>
    let blk := leLanes 17 (bs.take 136) ++ List.replicate 8 0
    sha3Blocks n (keccakF (List.zipWith (· ^^^ ·) a blk)) (bs.drop 136)

/-- The padded message of SHA3-256. -/
def sha3Pad (m : Bytes) : Bytes :=
  let z := 136 - m.length % 136
  if z = 1 then m ++ [0x86] else m ++ [0x06] ++ List.replicate (z - 2) 0 ++ [0x80]

/-- SHA3-256. -/
def sha3_256 (m : Bytes) : Bytes :=
  let pm := sha3Pad m
  ((sha3Blocks (pm.length / 136) (List.replicate 25 0) pm).flatMap (fun x => leBytes 8 x.toNat)).take 32

end Sys2Proof.Machine
end

