-- ==== Sys2Proof/Config.lean ====
section
/-! DEFINITION. What one implementation fixes, and the free values: constants without a body, so that no proof can
see what they are. A value the manual leaves open is one of these applied to the operands it depends on, or to
the machine's counter of free values. -/

namespace Sys2Proof

/-- The ordering code (R1): true for KX-8400-E, false for KX-8400-C. -/
opaque Config.orderingE : Bool

/-- Tmax in °C (R484). -/
def Config.tmax : Nat := if Config.orderingE then 105 else 95

/-- The default of HLTH_THERM_CFG (R484): Tmax − 5, Tmax and Tmax + 5. -/
def Config.thermReset : Nat := (Config.tmax - 5) + Config.tmax * 2 ^ 8 + (Config.tmax + 5) * 2 ^ 16

/-- A free number: the n-th value the machine met that the manual leaves open. -/
opaque Config.freeNat : Nat → Nat

/-- A free byte of the n-th undefined area, at an offset within it. -/
opaque Config.freeByte : Nat → Nat → Byte

/-- Which allocatable cell the n-th allocated cell is (R98 leaves the choice open): the search starts here. -/
opaque Config.pickCell : Nat → Nat

/-- Whether the n-th poisoned cell that is freed passes its pattern test (R471). -/
opaque Config.patternPass : Nat → Bool

/-- A factory delay in picoseconds (R369), a fuse: 0 to 15 F_rx of a line-mode code, 16 to 31 F_tx, 32 F_pps_in. -/
opaque Config.fuse : Nat → Int

/-- The hash of a fragment's identity that chooses its set (R90 does not say which). -/
opaque Config.fragHash : Nat → Nat

/-- Byte `i` of the state area a hash engine writes for an algorithm and the bytes absorbed (R325 gives no layout). -/
opaque Config.hashState : Nat → Bytes → Nat → Byte

/-- A word of the Strongroom's ROM and fuses (R371, R388), by its STRG offset: firmware identifier and hash, serial, public
keys, certificate, oscillator curve. -/
opaque Config.srWord : Nat → Nat

/-- The private signing keys of the Strongroom (R359): 0 Ed25519, 1 ML-DSA-65. -/
opaque Config.srKey : Nat → Bytes

/-- Byte `a` of the MRAM window after `n` writes of MRAM (R387, R388 give no layout). -/
opaque Config.mramByte : Nat → Nat → Byte

/-! Public-key cryptography: functions the manual takes from other standards (R306). `alg` is the code of R314. -/

/-- The signature: algorithm, option bits, key material, message or digest, context, and the randomness a hedged or
PSS signature draws. -/
opaque Config.sign : Nat → Nat → Bytes → Bytes → Bytes → Nat → Bytes

/-- The verdict on a signature: algorithm, option bits, public key, message or digest, context, signature. -/
opaque Config.verify : Nat → Nat → Bytes → Bytes → Bytes → Bytes → Bool

/-- The public key or share that belongs to private key material; for RSA the material itself holds it. -/
opaque Config.publicKey : Nat → Bytes → Bytes

/-- The private and public parts of key material agree. -/
opaque Config.keyPairOk : Nat → Bytes → Bool

/-- Fresh private key material: algorithm and randomness; of RSA the two primes, one after the other. -/
opaque Config.newKey : Nat → Nat → Bytes

/-- The shared secret: algorithm, private key material, peer share or ciphertext. -/
opaque Config.kexDerive : Nat → Bytes → Bytes → Bytes

/-- The responder's share or ciphertext: algorithm, the peer's share or key, randomness. -/
opaque Config.kexShare : Nat → Bytes → Nat → Bytes

/-- The responder's shared secret: algorithm, the peer's share or key, randomness. -/
opaque Config.kexSecret : Nat → Bytes → Nat → Bytes

/-- The device key-encryption key, from the SHA-256 of the owner public key (R310). -/
opaque Config.kek : Bytes → Bytes

/-- The device transport encapsulation key (R311), from the same. -/
opaque Config.transportKey : Bytes → Bytes

/-- The shared secret of a transport envelope's ciphertext (R311). -/
opaque Config.transportSecret : Bytes → Bytes → Bytes

/-! Choices of the format engines that R333, R340 and R341 leave open. -/

/-- Which of n occurrences of a repeated source element a step reads. -/
opaque Config.repeatPick : Nat → Nat

/-- A JSON string escapes this character in its two-character form where it has one. -/
opaque Config.jsonShort : Nat → Bool

/-- The hexadecimal letters of a JSON escape are upper case. -/
opaque Config.jsonUpper : Bool

/-- The reason reported for a step with a reserved op or function. -/
opaque Config.stepReason : Nat

/-- Item `k` of what an image says where the manual gives no layout for it (assumption 11): 0 the place of the code store in
table SRAM, 1 of the task directory, 2 sess_max, 3 the place of the session records, 4 odd: the key store lies in DRAM, 5 its
place, 6 the place of the Cellarbook ring, 7 and 8 place and size of the helper operand region, 9 the keeper entry point; from
16 on, four items for each table id: place, size code, entry count, and kind. -/
opaque Config.imageItem : Bytes → Nat → Nat

end Sys2Proof
end

