-- ==== Sys2Proof/Machine/State.lean ====
section
/-! DEFINITION. The state of the device: plain data, every piece of state the manual names. -/

namespace Sys2Proof.Machine

/-! ## Names the chapters share -/

/-- Completion codes (R11), by name. -/
abbrev Code.ok : Nat := 0
/-- A resource had nothing left to allocate. -/
abbrev Code.failEmpty : Nat := 1
/-- A higher-precedence master wrote the same staged field in the same drip. -/
abbrev Code.superseded : Nat := 2
/-- The requester is not in the owner set or mask of the target. -/
abbrev Code.notOwner : Nat := 3
/-- A reserved encoding or an out-of-range value. -/
abbrev Code.reserved : Nat := 4
/-- A wait reached its limit. -/
abbrev Code.timeout : Nat := 5
/-- Waiting would have closed a wait-for cycle. -/
abbrev Code.cycle : Nat := 6
/-- Granted, but the protected state may be inconsistent. -/
abbrev Code.poisoned : Nat := 7
/-- Hardware retries reached their limit. -/
abbrev Code.busyRetry : Nat := 8
/-- The requested version is not supported. -/
abbrev Code.versionMismatch : Nat := 9
/-- The holder or requester ceased to exist. -/
abbrev Code.orphaned : Nat := 10
/-- The target was already free. -/
abbrev Code.doubleFree : Nat := 11
/-- The requester does not hold the target. -/
abbrev Code.notHolder : Nat := 12
/-- Input could not be parsed or translated. -/
abbrev Code.failFormat : Nat := 13
/-- A seal, signature or measurement failed its check. -/
abbrev Code.sealInvalid : Nat := 14
/-- A commit waits for a generation to retire. -/
abbrev Code.commitWait : Nat := 15

/-- A chain handle (R93): head cell and count; the null chain has head 0xFFFFF and count 0. -/
structure Chain where
  head : Nat
  count : Nat
  deriving DecidableEq, Repr

/-- The null chain (R93). -/
def Chain.null : Chain := ⟨0xFFFFF, 0⟩

/-! ## Drips, commits and views (chapter 02) -/

/-- The state of a group's other bank (R36). -/
inductive OtherBank | staged | trailing | catchup
  deriving DecidableEq, Repr

/-- One commit group (R35 to R37): which bank is LIVE, the state of the other, the generation of each, the
drip at whose boundary the other bank became CATCHUP, the 64-byte lines written since the last flip, and whether a Handover
wrote the whole bank (R436). -/
structure Group where
  liveB : Bool
  other : OtherBank
  genLive : Nat
  genOther : Nat
  catchupDrip : Nat
  dirty : Map Bool
  whole : Bool
  deriving DecidableEq, Repr

/-- A group at reset: bank A LIVE, bank B STAGED, generation 0. -/
def Group.init : Group := ⟨false, .staged, 0, 0, 0, [], false⟩

/-- The target of a staged write: one register word, or one table entry (R57). -/
inductive WUnit
  | reg (offset : Nat)
  | row (r : Nat)
  deriving DecidableEq, Repr

/-- A write of a drip, held until its boundary (R42): master, target and the words written. -/
structure StagedWrite where
  master : Nat
  target : WUnit
  words : List Word
  deriving DecidableEq, Repr

/-- An entry of the stage queue (R44): its group, target, words, and the drip at whose boundary it was
applied to the queue. -/
structure QueuedWrite where
  group : Nat
  target : WUnit
  words : List Word
  applied : Nat
  deriving DecidableEq, Repr

/-- The states of a commit slot (R45). -/
inductive SlotState | free | opened | armed | sealed | waiting | done
  deriving DecidableEq, Repr

/-- A commit slot (R45 to R53). `armDrip` is the drip in which arm was written, `sealDrip` the boundary of its
seal, `readyDrip` the boundary at which its last named group became STAGED while it waits. -/
structure Slot where
  state : SlotState
  holder : Nat
  mask : Nat
  target : Nat
  waitLimit : Nat
  code : Nat
  detail : Nat
  gen : Nat
  loc : Nat
  armDrip : Nat
  sealDrip : Nat
  readyDrip : Option Nat
  hostReset : Bool
  reportDrip : Option Nat
  deriving DecidableEq, Repr

/-- A FREE slot: every slot register at its reset value (R46). -/
def Slot.init : Slot := ⟨.free, 0, 0, 0, 4, 0, 0, 0, 0, 0, 0, none, false, none⟩

/-- The states of a view buffer (R61). -/
inductive ViewState | free | pending | ready
  deriving DecidableEq, Repr

/-- A view buffer (R59 to R61): its state, holder, and the drip of its capture. -/
structure ViewBuf where
  state : ViewState
  holder : Nat
  drip : Nat
  deriving DecidableEq, Repr

/-- A FREE view buffer. -/
def ViewBuf.init : ViewBuf := ⟨.free, 0, 0⟩

/-- The registers, by word. `bankA` and `bankB` hold the ST fields of every group, keyed by CSR offset (a
classifier row's words at 0x1000_0000 + 64 r + w); `io` the other fields of shared registers; `per` each master's own copies, keyed m × 2^28 + offset (R521). -/
structure Csr where
  bankA : Map Word
  bankB : Map Word
  io : Map Word
  per : Map Word
  groups : Map Group
  rdata : Map Word
  lostPass : Map Bool
  deriving DecidableEq, Repr

/-- Drip and commit control (chapter 02). `learnUsed`, `lodeUsed` and `tallyUsed` count the budgets of R33 used
in the drip, `slotsUsed` the ingress slots of each pipe (R32). `hoSeal` is the boundary at which a Handover sealed every
group, while it holds them (R436). -/
structure Drip where
  now : Nat
  gen : Nat
  writes : List StagedWrite
  queue : List QueuedWrite
  slots : Map Slot
  views : Map ViewBuf
  learnUsed : Nat
  lodeUsed : Nat
  tallyUsed : Nat
  slotsUsed : Map Nat
  cycle : Nat
  hoSeal : Option Nat
  deriving DecidableEq, Repr

/-! ## Incidents and the host (chapter 18) -/

/-- An incident record (R455). -/
structure Incident where
  drip : Nat
  block : Nat
  code : Nat
  mirrored : Bool
  actor : Nat
  arg0 : Nat
  arg1 : Nat
  serial : Nat
  time : Nat
  deriving DecidableEq, Repr

/-- What the device sends out: frames on MACs, PFC frames, MSI-X signals, writes to and reads of host memory,
Rope frames, serial pins. The newest stands first. -/
inductive Out
  | frame (mac : Nat) (data : Bytes)
  | pfc (mac sa enable time : Nat)
  | msix (fn vec : Nat)
  | hostWrite (addr : Nat) (data : Bytes)
  | hostRead (tag addr len : Nat)
  | rope (etherType : Nat) (data : Bytes)
  | peerWrite (addr : Nat) (data : Bytes)
  | peerRead (tag addr len : Nat)
  | ppsPulse
  | thermtrip
  | inspection (data : Bytes)
  deriving DecidableEq, Repr

/-- What a read of the issuer's DMA space is for: the block of a CAL_SET with the rest of its command (R374), the buckets
of a FWDT WRITE (R166), or an image (R430). -/
inductive DmaUse
  | cal (body : Bytes)
  | fwdt
  | image
  deriving DecidableEq, Repr

/-- A read of a master's DMA space that awaits its data (R448, R449, R465). -/
structure DmaRead where
  master : Nat
  addr : Nat
  len : Nat
  use : DmaUse
  deriving DecidableEq, Repr

/-- The host interface: incident records awaiting their boundary and the ring of R456, each vector's last
signalled drip and suppressed conditions (R457), the conditions of this drip, an outstanding down-mailbox room
wait (R452), whether a message came up in this drip (R453), reads that await data, by tag, with the next tag, and the Bus
Master Enable bit of each function (R448), the MSI-X function masks and the pending bits by 64 × function + vector (R457), and whether the host's bucket locks are released at the next boundary (R450). -/
structure HostPort where
  incPending : List Incident
  incRing : Map Incident
  incWp : Nat
  vecLast : Map Nat
  vecWait : Map Bool
  vecCond : Map Bool
  dnWaiting : Bool
  upArrived : Bool
  reads : Map DmaRead
  nextTag : Nat
  bme : List Bool
  fnMask : List Bool
  pba : Map Bool
  unlock : Bool
  deriving DecidableEq, Repr

/-! ## The Larder and order domains (chapter 04) -/

/-- A HELD cell's link entry (R94), with the generation it keeps in flight (R40): none while its chain belongs
to no packet in flight. -/
structure Cell where
  next : Nat
  owner : Nat
  pool : Nat
  flight : Option Nat
  deriving DecidableEq, Repr

/-- An entry that is not in the map of HELD cells (never itself listed). -/
def Cell.none : Cell := ⟨0xFFFFF, 0, 0, Option.none⟩

/-- A packet as the stages carry it: its chain and length, ingress bay and pipe, drip tag and generation (R29,
R39), order domain and, when held, sequence number (R84), pass and layer marks (R74), key and outcome (R77,
R78), the fields of its action (R81), its session, arrival stamp and forwarding result, the drip of its last
admission, whether the forwarding stage drops it (R156, R158), and the gallery of a held keeper entry (R298). -/
structure Pkt where
  chain : Chain
  len : Nat
  bay : Nat
  pipe : Nat
  dripTag : Nat
  gen : Nat
  domain : Nat
  seq : Option Nat
  pass : Nat
  marks : List Nat
  key : Nat
  outcome : Nat
  action : Nat
  session : Option Nat
  stamp : Option Nat
  fwdValid : Bool
  fwdHit : Bool
  egress : Nat
  task : Nat
  taskArg : Nat
  prio : Nat
  cookie : Nat
  route : Nat
  excClass : Nat
  attempt : Nat
  requeued : Bool
  flood : Bool
  dataOff : Nat
  admitted : Nat
  missDrop : Bool
  keeperOf : Option Nat
  deriving DecidableEq, Repr

/-- A packet with nothing set: the null chain, no number, no marks. -/
def Pkt.empty : Pkt :=
  ⟨Chain.null, 0, 0, 0, 0, 0, 0, none, 0, [0xFFFF, 0xFFFF, 0xFFFF, 0xFFFF], 0, 0, 0, none, none, false, false, 0,
   0, 0, 0, 0, 0, 0, 0, false, false, 0, 0, false, none⟩

/-- Session data handed over by a RELEASE (R147): its session and inner content type. -/
structure SessData where
  session : Nat
  content : Nat
  deriving DecidableEq, Repr

/-- A number waiting in the reorder stage (R112): a packet for an egress bay, or an empty number. -/
structure RoEntry where
  domain : Nat
  seq : Nat
  pkt : Option Pkt
  bay : Nat
  entered : Nat
  sess : Option SessData
  deriving DecidableEq, Repr

/-- A packet in an egress bay FIFO (R117), with session data if it is such, the drip since which it waits for a header
cell (R138), the frame itself where the session stage has built it (R137, R139), and the MAC the bay named when it joined. -/
structure EgPkt where
  pkt : Pkt
  bay : Nat
  sess : Option SessData
  headerWait : Option Nat
  raw : Bytes
  mac : Nat
  deriving DecidableEq, Repr

/-- The Larder: HELD cells, the bytes written into cells since their allocation (keyed 128 × index + byte), what
the bytes not yet written are (R95: 0 for a cell that was zeroed, else the number of an undefined area), cells awaiting zeroing, cells fenced (R471) and
cells holding poison (R470), and HELD cells whose link entry failed in both copies (R469). -/
structure Lard where
  cells : Map Cell
  bytes : Map Byte
  fill : Map Nat
  scrub : Map Bool
  fenced : Map Bool
  poison : Map Bool
  linkBad : Map Bool
  fencedNew : Nat
  deriving DecidableEq, Repr

/-- The reorder stage and the egress queues: assign counters and next-expected numbers (R110), waiting entries,
open holes, the domain at which the last boundary stopped, the packets this boundary may still release and whether its limit
has stopped a run (R113), the bay FIFOs, deficits, the service round of
each MAC, received pauses keyed 8 × MAC + priority with the drip they end at (R117), and link state (R121). -/
structure Egrs where
  assign : Map Nat
  next : Map Nat
  waiting : List RoEntry
  holes : Map Nat
  rotor : Nat
  left : Nat
  stopped : Bool
  fifos : Map (List EgPkt)
  deficit : Map Nat
  serving : Map Nat
  paused : Map Nat
  linkUp : Map Bool
  deriving DecidableEq, Repr

/-! ## Ingress (chapter 03) -/

/-- A frame that holds its cells and waits for an ingress slot (R69). -/
structure RxFrame where
  mac : Nat
  bay : Nat
  chain : Chain
  len : Nat
  stamp : Option Nat
  deriving DecidableEq, Repr

/-- The states of a fragment-table entry (R90). -/
inductive FragState | decided | holding | slow
  deriving DecidableEq, Repr

/-- A fragment-table entry that is not FREE (R90, R91): its set, identity, creation, the decided packet
whose action, domain and forwarding result later fragments take, and held fragments in arrival order. -/
structure Frag where
  set : Nat
  ident : Nat
  state : FragState
  created : Nat
  model : Pkt
  held : List Pkt
  deriving DecidableEq, Repr

/-- Ingress: admission queues in arrival order, the MAC served last by each pipe (R69), recirculated packets
waiting, pools whose XOFF is in force and when it was last sent (R68), policer buckets in 65,536ths of a token
(R88), fragment entries keyed 4 × set + way, and row hits that become visible at the boundary. -/
structure Ingr where
  queue : List RxFrame
  lastMac : Map Nat
  recirc : List Pkt
  xoff : Map Bool
  xoffAt : Map Nat
  bucket : Map Nat
  frags : Map Frag
  hits : List Nat
  deriving DecidableEq, Repr

/-! ## Galleries, cores and threads (chapters 07 to 10) -/

/-- The states of a thread (R180). -/
inductive TState | idle | ready | waiting | parked | halted
  deriving DecidableEq, Repr

/-- Where an operand lives once its specifier is evaluated (R214): an immediate value, a local address, a byte
of the packet window (with the handle and length it was evaluated under), a byte of a table entry, a device clock by its selector
(R217). -/
inductive Loc
  | imm (v : Nat)
  | mem (a : Nat)
  | window (handle len off : Nat)
  | table (id idx off : Nat)
  | clock (sel : Nat)
  deriving DecidableEq, Repr

/-- What a WAITING thread waits for (the wait kinds of GALL_THR_STAT). -/
inductive WaitKind
  | none | wfe | waittD | waittC | chsend | chrecv | hwait | hcmd | latch | tend | sess
  deriving DecidableEq, Repr

/-- A wait in progress: its destinations, the deadline and mask (R245), the channel, tag or Latch, the PC of the next
instruction, the drip of its start, and the base registers as the instruction leaves them when it completes. -/
structure Wait where
  kind : WaitKind
  dst : Loc
  dst2 : Loc
  value : Nat
  mask : Nat
  what : Nat
  next : Nat
  since : Nat
  b : Map Word
  deriving DecidableEq, Repr

/-- No wait. -/
def Wait.idle : Wait := ⟨.none, .imm 0, .imm 0, 0, 0, 0, 0, 0, []⟩

/-- A helper tag of a thread (R254). -/
inductive TagState | free | outstanding | done (code : Nat)
  deriving DecidableEq, Repr

/-- A macro instruction under way (R261): the next PC, the slot of its first micro-step, the micro-steps, the
next of them, and its evaluated operands. -/
structure MacroRun where
  next : Nat
  first : Nat
  count : Nat
  step : Nat
  ops : List Loc
  deriving DecidableEq, Repr

/-- A thread (R179 to R181, R205): its registers, B0 to B7, its shelf and staging by local address, its wait,
tags, the dispatcher's copy of its descriptor (R295) with whether its number is spent, the generation it
fetches code from (R176), REP and macro state, the channel marked for CHTX (R248), the armed Latch (R273),
and the fault record's operand state. -/
structure Thread where
  state : TState
  pc : Word
  flags : Word
  cnt : Word
  ev : Word
  evp : Word
  b : Map Word
  mem : Map Byte
  wait : Wait
  killed : Bool
  rgen : Nat
  tags : Map TagState
  desc : Option Pkt
  spent : Bool
  running : Bool
  codeGen : Nat
  repAt : Option Nat
  macroRun : Option MacroRun
  chtx : Option Nat
  armed : Option Nat
  haltReq : Bool
  stepping : Bool
  deriving DecidableEq, Repr

/-- A thread at reset: IDLE, every register 0. -/
def Thread.init : Thread :=
  ⟨.idle, 0, 0, 0, 0, 0, [], [], Wait.idle, false, 0, [], none, false, false, 0, none, none, none, none, false, false⟩

/-- A message in a channel (R188, R189): its 64 bytes, the sender's owner tag and attempt. -/
structure Msg where
  data : Bytes
  sender : Nat
  attempt : Nat
  deriving DecidableEq, Repr

/-- A retirement in progress (R202): the logical core, the retired and the replacing physical core, the drip
of detection, and the tasks to restart. -/
structure Retiring where
  logical : Nat
  phys : Nat
  spare : Nat
  since : Nat
  deriving DecidableEq, Repr

/-- A stillness domain (R195, R196): the first boundary of its run of still ones, while it has one, its GALL_STILL bit, and the
first boundary at which the detector may act for it once the bit has cleared. -/
structure Still where
  since : Option Nat
  bit : Bool
  rearm : Nat
  deriving DecidableEq, Repr

/-- A gallery: the physical core of each logical core (9: none), retired cores, the spare (9: none), channel
messages, waiting senders and receivers in order of first attempt, stillness and retirements in progress. -/
structure Gallery where
  coreMap : List Nat
  retired : List Nat
  spare : Nat
  chans : Map (List Msg)
  senders : Map (List Tid)
  still : Map Still
  retiring : List Retiring
  deriving DecidableEq, Repr

/-- A gallery at reset: logical core i on physical core i, core 8 the spare (R170). -/
def Gallery.init : Gallery := ⟨[0, 1, 2, 3, 4, 5, 6, 7], [], 8, [], [], [], []⟩

/-- The kind of a table (R216). -/
inductive TabKind | config | data
  deriving DecidableEq, Repr

/-- An entry of the table directory (R216): where the table lies, its entry size and count, its kind. -/
structure TabEnt where
  dram : Bool
  base : Nat
  size : Nat
  count : Nat
  kind : TabKind
  deriving DecidableEq, Repr

/-- An id the directory does not define. -/
def TabEnt.none : TabEnt := ⟨false, 0, 0, 0, .data⟩

/-- The cores: threads keyed by (9 g + c) × 8 + t, the common memories keyed 65,536 × (9 g + c) + offset with their
load copies keyed by logical core (R174), the galleries, the loader-written tables of each bank of the GALL group
(R520, R523: code store from 0, macro area from 0x20_0000, task directory from 0x40_0000, CONFIG tables above), the
table directories, table SRAM with its poisoned lines (R469), the
keeper entry point of each GALL bank (R193), and by master the thread whose HALT it awaits (R517). -/
structure Cores where
  threads : Map Thread
  common : Map Byte
  loadCopy : Map Byte
  gals : Map Gallery
  tabA : Map Byte
  tabB : Map Byte
  dirA : Map TabEnt
  dirB : Map TabEnt
  sram : Map Byte
  sramPoison : Map Bool
  keeperEntry : List Nat
  halting : Map Tid
  deriving DecidableEq, Repr

/-- The states of a Latch (R268). -/
inductive LatchState | free | held | orphaned | freePoisoned
  deriving DecidableEq, Repr

/-- A requester waiting on a Latch (R269): its owner tag, reset generation, and the boundary of its timeout. -/
structure LWaiter where
  tag : Nat
  rgen : Nat
  deadline : Nat
  deriving DecidableEq, Repr

/-- A Latch (R267, R268): its state, holder and reset generation, waiters in order, the drip of its grant, and
whether this hold was reported (R276). -/
structure Latch where
  state : LatchState
  holder : Nat
  rgen : Nat
  waiters : List LWaiter
  granted : Nat
  reported : Bool
  deriving DecidableEq, Repr

/-- A FREE Latch. -/
def Latch.init : Latch := ⟨.free, 0, 0, [], 0, false⟩

/-! ## Helpers and the dispatcher (chapter 11) -/

/-- How far a helper command has come: in the core's queue, taken by its unit, saved by HSAVE, or completed. -/
inductive JobPhase | queued | running | saved | completed
  deriving DecidableEq, Repr

/-- Who issued a command to a unit: a thread through HCMD, or a master through its own registers. -/
inductive Issuer
  | thread (id : Tid)
  | master (m : Nat)
  deriving DecidableEq, Repr

/-- A helper command (R283): its 64-byte block, the header fields filled at acceptance, the issuing attempt's
task, domain and number (R291), its progress, completion code and result word, the drip its time runs out, the unit's
intermediate state, and whether its thread was squashed (R289). -/
structure Job where
  issuer : Issuer
  block : Bytes
  gen : Nat
  owner : Nat
  tag : Nat
  attempt : Nat
  rgen : Nat
  task : Nat
  domain : Nat
  seq : Option Nat
  phase : JobPhase
  code : Nat
  result : Nat
  due : Nat
  work : Bytes
  squashed : Bool
  deriving DecidableEq, Repr

/-- An HCMD that retries (R286, R287): its thread, tag, block, and the drip of its first attempt. -/
structure Retry where
  id : Tid
  tag : Nat
  block : Bytes
  since : Nat
  deriving DecidableEq, Repr

/-- A saved running context (R292): its gallery, the 256 bytes HSAVE wrote and the suspended command. -/
structure Saved where
  gallery : Nat
  data : Bytes
  job : Job
  deriving DecidableEq, Repr

/-- A scheduling-trace record awaiting its boundary (R303). -/
structure TraceRec where
  kind : Nat
  gallery : Nat
  task : Nat
  thread : Nat
  prio : Nat
  wait : Nat
  drip : Nat
  deriving DecidableEq, Repr

/-- Helper queues: every command by serial number, the core queues in acceptance order (keyed 9 g + c), retrying
HCMDs in order of first attempt, saved contexts by serial, the next serials, the helper operand region of table SRAM
(R285), and what every hash state area written so far stands for (R325): its algorithm and the bytes absorbed, newest
first. -/
structure Help where
  jobs : Map Job
  queues : Map (List Nat)
  retries : List Retry
  saved : Map Saved
  nextJob : Nat
  nextSerial : Nat
  opBase : Nat
  opSize : Nat
  hashes : List (Nat × Bytes)
  deriving DecidableEq, Repr

/-- The dispatcher: ready lists keyed 16 × gallery + level, oldest first; keeper entries likewise; hold queues of
the pipes; the gallery chosen last (R296); pending slots keyed 64 × gallery + p (R300); orphan producer indices and
entries awaiting their boundary (R291); the trace. -/
structure Disp where
  ready : Map (List Pkt)
  keeperReady : Map (List Pkt)
  hold : Map (List Pkt)
  lastGal : Nat
  pending : Map Pkt
  orphNext : Map Nat
  orphWait : List (Nat × Nat × Bytes)
  trace : List TraceRec
  deriving DecidableEq, Repr

/-! ## DRAM contents (chapter 16) -/

/-- The bytes of DRAM that have been written, and its poisoned 64-byte lines (R407). -/
structure DramMem where
  bytes : Map Byte
  poison : Map Bool
  deriving DecidableEq, Repr

/-! ## Forwarding (chapter 06) -/

/-- The progress of a forwarding DMA command (R166): accepted and waiting for its boundary, captured or being
fetched, and its last byte moved. -/
inductive FwdPhase | accepted | moving | moved
  deriving DecidableEq, Repr

/-- A forwarding DMA command of one master (R166): op (0 READ, 1 WRITE, 2 LOCK, 3 UNLOCK), range, address, the drip of
its acceptance or of its last byte, and the bytes captured or fetched. -/
structure FwdCmd where
  op : Nat
  first : Nat
  count : Nat
  addr : Nat
  drip : Nat
  phase : FwdPhase
  code : Nat
  data : Bytes
  deriving DecidableEq, Repr

/-- No command. -/
def FwdCmd.none : FwdCmd := ⟨0, 0, 0, 0, 0, .accepted, 0, []⟩

/-- A LOCK that took effect (R168): its issuer, range, the boundary of its effect, whether it was reported, and the buckets of its
range not released since. -/
structure LockRec where
  holder : Nat
  first : Nat
  count : Nat
  since : Nat
  reported : Bool
  held : List Nat
  deriving DecidableEq, Repr

/-- A learning change that becomes visible at the boundary (R161): the slot, and the entry it will hold. -/
structure Learn where
  slot : Nat
  entry : BitVec 256
  insert : Bool
  deriving DecidableEq, Repr

/-- The forwarding table: slots of 32 bytes keyed 4 × bucket + slot (R151), learning changes and hits of the drip,
bucket locks (holder of each locked bucket) and their records, commands in progress, and the boundary at which
each sweep in progress began (R164). -/
structure Fwd where
  slots : Map (BitVec 256)
  learns : List Learn
  hits : List Nat
  locks : Map Nat
  lockRecs : List LockRec
  cmds : Map FwdCmd
  sweeps : List Nat
  deriving DecidableEq, Repr

/-! ## The Strongroom and the Cellarbook (chapter 14) -/

/-- A tally (R378): count, signed amount, and the drip of its last application. -/
structure Tally where
  count : Nat
  amount : Int
  drip : Nat
  deriving DecidableEq, Repr

/-- A tally never applied. -/
def Tally.init : Tally := ⟨0, 0, 0⟩

/-- A Strongroom command in its queue (R374): its source, body (bytes 16 to 63), the drip of its acceptance, its result
area, and what it reported once done. -/
structure SrCmd where
  src : Src
  body : Bytes
  accepted : Nat
  deriving DecidableEq, Repr

/-- An accepted CAL_SET that waits for its boundary (R373): its source and block. -/
structure CalSet where
  src : Src
  block : Bytes
  deriving DecidableEq, Repr

/-- What a record holds beside its drip, time, flags, number and chain value (R379). -/
structure RecBody where
  kind : Nat
  digest : Bytes
  decision : Nat
  tclass : Nat
  attempt : Nat
  owner : Nat
  task : Nat
  domain : Nat
  seq : Nat
  data : Bytes
  deriving DecidableEq, Repr

/-- The Strongroom (R359 to R378): power; time in 1/256 ns and its state; reference health, PPS polarity, counts of good
seconds, of edges within 20 ns and of edges far off; the error bound in ns, the time in HOLDOVER in 1/256 ns, the curve's
correction in ppb and what is still to be slewed in 1/256 ns; TOD_SETs waiting for their edge; the seal and its cause
bits; change counter, epoch, last sealed page, whether a page of this epoch was closed, and root; tallies with their two
checkpoints, newer first; calibration key and values (keyed by STRG offset); stamp serial; egress stamp ring and
entries of this drip; the command queue (TALLYs); CAL_SETs of this drip; masters' CAL_SETs whose block is on its way; commands that will never be answered; bad
inspection commands; writes made to MRAM; the second of the last PPS_OUT pulse; each master's latched STRG_TIME_HI;
what the correction in HOLDOVER leaves below 1/256 ns, in 10⁻⁹ of it; records the journal owes since before its epoch; its own last temperature in °C (R364); and pages taken and not yet
signed, each with its root (R383). -/
structure Strong where
  powered : Bool
  time : Nat
  state : Nat
  tclkOk : Bool
  ppsOk : Bool
  ppsPol : Bool
  good : Nat
  near : Nat
  far : Nat
  err : Nat
  hold : Nat
  corr : Int
  slew : Int
  todWait : List SrCmd
  sealOk : Bool
  cause : Nat
  chg : Nat
  epoch : Nat
  page : Nat
  closed : Bool
  root : Bytes
  tallies : Map Tally
  ckptNew : Map Tally
  ckptOld : Map Tally
  calKey : Option Bytes
  ucal : Map Word
  serial : Nat
  egts : Map Bytes
  egtsWp : Nat
  egtsNew : Nat
  queue : List SrCmd
  cals : List CalSet
  asked : List SrCmd
  lost : List SrCmd
  inspBad : Nat
  mramGen : Nat
  ppsLast : Nat
  timeLatch : Map Word
  corrRest : Int
  owed : List RecBody
  dieTemp : Option Int
  closing : List (Nat × Bytes)
  deriving DecidableEq, Repr

/-- How the sealing of a closed page stands: the Strongroom signs it, its seal block is written, or its PAGE_CLOSE ended
with TIMEOUT. -/
inductive PageState | waiting | written | failed
  deriving DecidableEq, Repr

/-- A closed page of the journal (R383, R386): its number, first slot, the slot just past its seal block, the drip of its
close, bytes 0 to 175 of its seal block (none when the Strongroom did not answer), and how its sealing stands. -/
structure Page where
  num : Nat
  slot : Nat
  past : Nat
  close : Nat
  head : Bytes
  state : PageState
  deriving DecidableEq, Repr

/-- A record chained in this drip: its slot, its 128 bytes and the command it completes. -/
structure BookRec where
  slot : Nat
  data : Bytes
  src : Option Nat
  deriving DecidableEq, Repr

/-- The Cellarbook block (R379 to R386): whether Service mode has begun, the record number and chain value to come, the
ring's base and slot pointers, records chained in this drip with the command each completes, the current page: its
number, first slot, first record number and the chain value before it, and whether it refused an append; closed pages,
and the boundary at which BOOK_ACK last advanced. -/
structure Book where
  started : Bool
  num : Nat
  chain : Bytes
  base : Nat
  wp : Nat
  exp : Nat
  ack : Nat
  newRecs : List BookRec
  cur : Nat
  slot : Nat
  first : Nat
  prev : Bytes
  refused : Bool
  pages : List Page
  ackDrip : Nat
  deriving DecidableEq, Repr
/-! ## Sessions (chapter 05) -/

/-- The states of a session (R131). -/
inductive SessState | syn | handshake | established | closing | closed
  deriving DecidableEq, Repr

/-- A segment of the send stream that is not yet acknowledged (R136, R137): its first sequence number and how many it
takes, its payload, FIN, the Ethernet frame it was first sent as (empty: not yet sent), and whether SACK covers it. -/
structure TxSeg where
  seq : Nat
  len : Nat
  payload : Bytes
  fin : Bool
  frame : Bytes
  sacked : Bool
  deriving DecidableEq, Repr

/-- A plaintext chain kept as the retransmission copy until the sequence number `stop` is acknowledged (R136). -/
structure TxItem where
  chain : Chain
  stop : Nat
  deriving DecidableEq, Repr

/-- An out-of-order segment held with its session (R132); `order` rises with arrival. -/
structure OooSeg where
  seq : Nat
  data : Bytes
  chain : Chain
  fin : Bool
  order : Nat
  deriving DecidableEq, Repr

/-- A session's identity and addresses (R127, R131, R146): the bay, the listener it was created by (none: an OPEN), the
issuer's owner tag and task for an OPEN, profile, TLS, order domain, addresses and ports, Ethernet addresses, and the
largest payload of a segment. -/
structure SessId where
  bay : Nat
  listener : Option Nat
  issuer : Nat
  task : Option Nat
  prio : Nat
  profile : Nat
  tls : Bool
  domain : Nat
  v6 : Bool
  raddr : Nat
  laddr : Nat
  rport : Nat
  lport : Nat
  dmac : Nat
  smac : Nat
  mss : Nat
  deriving DecidableEq, Repr

/-- CUBIC's state of a sender (R140): the window before the last reduction, the drip its present stage began (none: no stage),
the drips from there to that window, the window estimate in bytes, and the window before the reduction. -/
structure Cubic where
  wMax : Nat
  epoch : Option Nat
  k : Nat
  est : Nat
  prior : Nat
  deriving DecidableEq, Repr

/-- CUBIC of a sender that has lost nothing. -/
def Cubic.init : Cubic := ⟨0, none, 0, 0, 0⟩

/-- A session's sender (R136, R137, R140): oldest unacknowledged number, next number to send, next number to give out,
the peer's window and its shift, congestion window and threshold, CUBIC's state, duplicate ACKs, the recovery point, round-trip
estimate in drips, retransmission timer and count, the segments and chains kept, data that waits for the window, and FIN. -/
structure SessTx where
  una : Nat
  nxt : Nat
  top : Nat
  wnd : Nat
  scale : Nat
  cwnd : Nat
  ssthresh : Nat
  cubic : Cubic
  dupAcks : Nat
  recover : Option Nat
  srtt : Nat
  rttvar : Nat
  rto : Nat
  timed : Option (Nat × Nat)
  timer : Option Nat
  retx : Nat
  segs : List TxSeg
  items : List TxItem
  sendq : List EgPkt
  finAsked : Bool
  finSent : Bool
  deriving DecidableEq, Repr

/-- A session's receiver (R132 to R135): next number expected, window shift, options agreed, the peer's last timestamp,
segments held out of order, in-order bytes not yet delivered and the cells they came in, packets that wait for keys
(R145) with how much of those bytes had come with each, records of handshake messages that wait for a cell, data segments not
acknowledged and the drip of the first, FIN, and the drip it last heard the peer and probed it. -/
structure SessRx where
  nxt : Nat
  scale : Nat
  tsOn : Bool
  sackOn : Bool
  tsRecent : Nat
  ooo : List OooSeg
  buf : Bytes
  chain : Chain
  held : List (Pkt × Nat)
  hsWait : Bytes
  ackPend : Nat
  ackDrip : Nat
  fin : Bool
  heard : Nat
  probed : Nat
  probes : Nat
  deriving DecidableEq, Repr

/-- A session's record layer (R141 to R145, R149): suite, traffic secret, record number and phase (0 none, 1 handshake,
2 application) of each direction, whether the peer's Finished has come, the bytes received of a handshake message that is not
complete, bytes discarded under R142, and the inner session linked to it. -/
structure SessTls where
  rxSuite : Nat
  txSuite : Nat
  rxSecret : Option Bytes
  txSecret : Option Bytes
  rxNum : Nat
  txNum : Nat
  rxPhase : Nat
  txPhase : Nat
  finished : Bool
  hsPart : Bytes
  skipped : Nat
  inner : Option Nat
  deriving DecidableEq, Repr

/-- A session (R127). The record's fields are the model's own: R127 gives its size, not its layout. An inner session
(R149) has no TCP state. -/
structure Session where
  state : SessState
  id : SessId
  tx : SessTx
  rx : SessRx
  tls : SessTls
  isInner : Bool
  closedAt : Nat
  deriving DecidableEq, Repr

/-- A SESS command accepted and awaiting its boundary (R129): who issued it, its words, and the secret read at
acceptance. -/
structure SessCmd where
  who : Who
  words : List Nat
  secret : Bytes
  deriving DecidableEq, Repr

/-- The session stage: sessions by id (a free id is not listed), sess_max and the place of the records (R127), the hot cache in order of use, latest
first (R128), the miss queues of the pipes, and the commands of the drip. -/
structure Sess where
  tab : Map Session
  max : Nat
  base : Nat
  hot : List Nat
  missq : Map (List Pkt)
  cmds : List SessCmd
  deriving DecidableEq, Repr
/-! ## Seal engines (chapter 12) -/

/-- The states of an engine (R327, R342). -/
inductive EngState | active | spare | retired | starting
  deriving DecidableEq, Repr

/-- A key slot's record (R307) with the uses reserved for signatures under way (R318). An EMPTY slot is not listed. -/
structure KeySlot where
  suspended : Bool
  alg : Nat
  policy : Nat
  keyId : Nat
  limit : Nat
  count : Nat
  reserved : Nat
  deriving DecidableEq, Repr

/-- Where a seal command stands (R319 to R321): to be performed; its signature to be verified, verified again, made again,
verified a last time; its negative verdict to be confirmed, decided. -/
inductive SealStage | perform | selfVerify | adjVerify | resign | reverify | confirm | settle
  deriving DecidableEq, Repr

/-- The record of a slot that was destroyed while commands worked under it (R312): the slot, the drip of its end, and the record,
which those commands still count in. -/
structure GoneSlot where
  slot : Nat
  drip : Nat
  key : KeySlot
  deriving DecidableEq, Repr

/-- A command in the seal pool: its number, class, stage, the engines it may not go to, the producer and verifiers met so
far, whether the producer worked soundly, the signature, the key, message and context it works on, whether these were
read, the slot's record if the slot was destroyed after the dispatch (R312), and whether
arbiter 24 has admitted it (R415). -/
structure SealItem where
  job : Nat
  cls : Nat
  stage : SealStage
  banned : List Nat
  p1 : Nat
  v1 : Nat
  p2 : Nat
  good : Bool
  sig : Bytes
  key : Bytes
  msg : Bytes
  ctx : Bytes
  loaded : Bool
  gone : Option GoneSlot
  adm : Bool
  deriving DecidableEq, Repr

/-- A seal engine: its state, retirement cause, set, jobs (the first is running), the slots whose keys it caches, and the
drip of its last known-answer test. -/
structure SealEng where
  state : EngState
  cause : Nat
  hs : Bool
  jobs : List SealItem
  cache : List Nat
  lastKat : Nat
  deriving DecidableEq, Repr

/-- Engine `e` at reset: 0 to 95 ACTIVE, 96 to 103 SPARE (R327). -/
def SealEng.init (e : Nat) : SealEng := ⟨if e < 96 then .active else .spare, 0, false, [], [], 0⟩

/-- A change of a slot that waits for its boundary (R307): an install with its command and blob, a change of state by a
master's register write, or the suspension of a faulty key. -/
inductive SlotChange
  | install (job slot : Nat) (blob : Bytes)
  | control (m slot op : Nat)
  | fault (slot : Nat)
  deriving DecidableEq, Repr

/-- The seal pool: slots, the key store's memory and base, engines that differ from their reset, the pool queue (jobs of
verification first, then new commands, each oldest first), changes awaiting the boundary, the SHA-256 of the owner key of
the loaded image, and the fenced hash engines. -/
structure SealPool where
  slots : Map KeySlot
  storeDram : Bool
  storeBase : Nat
  engs : List SealEng
  adj : List SealItem
  queue : List SealItem
  changes : List SlotChange
  owner : Bytes
  hashFenced : List Nat
  deriving DecidableEq, Repr
/-! ## Format engines and the Lode (chapter 13) -/

/-- A command in the format pool: its number, the engines it may not go to, and the runs made so far, each with whether its
engine worked soundly (R347). -/
structure FmtItem where
  job : Nat
  banned : List Nat
  runs : List (Nat × Bool)
  deriving DecidableEq, Repr

/-- A format engine: its state, retirement cause, jobs (the first is running), the drip of its last known-answer test. -/
structure FmtEng where
  state : EngState
  cause : Nat
  jobs : List FmtItem
  lastKat : Nat
  deriving DecidableEq, Repr

/-- Engine `e` at reset: 0 to 15 ACTIVE, 16 and 17 SPARE (R328). -/
def FmtEng.init (e : Nat) : FmtEng := ⟨if e < 16 then .active else .spare, 0, [], 0⟩

/-- The format pool: its engines and its queue, oldest first. -/
structure FmtPool where
  engs : List FmtEng
  queue : List FmtItem
  deriving DecidableEq, Repr

/-- A Lode row (R350). -/
structure LodeRow where
  value : Nat
  mask : Nat
  prio : Nat
  valid : Bool
  result : Nat
  deriving DecidableEq, Repr

/-- A row nothing has written: not valid. -/
def LodeRow.none : LodeRow := ⟨0, 0, 0, false, 0⟩

/-- A Lode command that waits (R352): who asked, its op, row, pre-filter, key or row image, generation, and the drip of its
acceptance. -/
structure LodeCmd where
  who : Src
  op : Nat
  row : Nat
  pf : Nat
  data : Bytes
  gen : Nat
  since : Nat
  deriving DecidableEq, Repr

/-- The Lode: its rows, the rows with an uncorrectable error that are left out of searches until their boundary, waiting
searches and held updates in order, the updates of this drip's slots, rows that won a search in this drip, the next slot of
the drip, and the W searches made in it. -/
structure Lode where
  rows : Map LodeRow
  hurt : List Nat
  searches : List LodeCmd
  updates : List LodeCmd
  done : List LodeCmd
  hits : List Nat
  slot : Nat
  wUsed : Nat
  deriving DecidableEq, Repr
/-! ## The DRAM controllers and the arbiters (chapter 16) -/

/-- A request in a subchannel's queue (R403): its channel-local line, bank, row, the time in ns it entered, and
whether a queued write answers it without an access (R404). -/
structure DramReq where
  line : Nat
  bank : Nat
  row : Nat
  since : Nat
  fwd : Bool
  deriving DecidableEq, Repr

/-- A subchannel (R403): its read and write queues, oldest first, whether it is in write mode, and the open row of
each bank. -/
structure SubCh where
  reads : List DramReq
  writes : List DramReq
  writing : Bool
  rows : Map Nat
  deriving DecidableEq, Repr

/-- Empty queues, read mode. -/
def SubCh.init : SubCh := ⟨[], [], false, []⟩

/-- A channel (R402 to R412): its subchannels, refreshes owed by each rank, the drips of its last uncorrectable lines, each
lane's write-delay correction and whether it was reported, the scrubber's next line, devices reported in this
pass, the drip of its last request, the poisoned lines outside every share, and the drip after each lane's last oscillator
measurement (0: none since training or waking). -/
structure Chan where
  subs : List SubCh
  owed : Map Nat
  ue : List Nat
  drift : Map Int
  drifted : Map Bool
  scrubAt : Nat
  told : Map Bool
  last : Nat
  bad : Map Bool
  oscAt : Map Nat
  deriving DecidableEq, Repr

/-- An idle channel. -/
def Chan.init : Chan := ⟨[SubCh.init, SubCh.init], [], [], [], [], 0, [], 0, [], []⟩

/-- An arbiter (R416 to R418): the requester last granted in each tier, the window and quotas in force since the window's
first grant (none before it), grants of the window and by requester, the three counters of each requester, and how
long each pending requester has waited. -/
structure Arb where
  last : List Nat
  cap : Option (Nat × List Nat)
  count : Nat
  taken : Map Nat
  grants : Map Nat
  wait : Map Nat
  longest : Map Nat
  waiting : Map Nat
  deriving DecidableEq, Repr

/-- No grant yet. -/
def Arb.init : Arb := ⟨[31, 31, 31], none, 0, [], [], [], [], []⟩

/-- The controllers and arbiters, by number. -/
structure DramCtl where
  chans : Map Chan
  arbs : Map Arb
  deriving DecidableEq, Repr

/-! ## The image loader and Handover (chapter 17) -/

/-- A Handover under way (R436): the image that pass 1 read, the target drip, wait limit, source, address and length captured at go, the boundary
at which pass 2 ended, the first failure of the content it wrote, after an abort the boundary at which restoring began
and the lines it restores, the boundary of its last COMMIT_WAIT record, and the
generation of its flip. -/
structure Handover where
  image : Bytes
  target : Nat
  limit : Nat
  src : Nat
  addr : Nat
  len : Nat
  ready : Option Nat
  failed : Option (Nat × Nat)
  restore : Option (Nat × Nat)
  report : Option Nat
  gen : Nat
  deriving DecidableEq, Repr

/-- No Handover. -/
def Handover.init : Handover := ⟨[], 0, 0, 0, 0, 0, none, none, none, none, 0⟩

/-- The loader: the fused owner hash (none: the fuse is blank), the image in force, whether a host image under way enrols
(R430), requests of LOAD_CTL awaiting their boundary (R435), and the Handover. -/
structure Load where
  fuse : Option Bytes
  image : Bytes
  enrol : Bool
  coldReq : Bool
  limpReq : Bool
  ho : Handover
  deriving DecidableEq, Repr

/-- No image, a blank fuse (assumption 8). -/
def Load.init : Load := ⟨none, [], false, false, false, Handover.init⟩

/-! ## The Rope (chapter 18) -/

/-- A request of a master in flight to the partner (R465): op (0 READ, 1 WRITE) and the drip it was sent. -/
structure RopeReq where
  op : Nat
  sent : Nat
  deriving DecidableEq, Repr

/-- A partner's write whose CPL waits for the boundary (R465): the partner's master, and the target it staged. -/
structure RopeCpl where
  peer : Nat
  target : WUnit
  deriving DecidableEq, Repr

/-- A read of the partner's master `peer` that waits for a Latch until a deadline (R277, R465). -/
structure RopeAcq where
  latch : Nat
  deadline : Nat
  peer : Nat
  deriving DecidableEq, Repr

/-- The Rope (R460 to R467): whether a HELLO was sent and received since the state became HELLO, the last HELLO's mask
and owner hash (none before one arrives), the drip of the last HELLO received and of the last sent, the next HELLO
sequence number; requests in flight by master; partner writes awaiting their CPL; the MBOX message awaiting its CPL with
its serial and whether it was sent in this UP, the next serial, the serial last committed here, messages held while
rx_chan is full, blocks written to the peer-seal ring in this drip, and the reads of
the partner's masters that wait here for a Latch. -/
structure Rope where
  sentHello : Bool
  gotHello : Bool
  peer : Option (Nat × Bytes)
  heard : Nat
  helloAt : Nat
  helloSeq : Nat
  reqs : Map RopeReq
  cpls : List RopeCpl
  mbox : Option (Nat × Bytes)
  mboxSent : Bool
  mboxNext : Nat
  mboxSeen : Option Nat
  mboxHeld : List (Nat × Bytes)
  sealNew : Nat
  latchPeer : List RopeAcq
  deriving DecidableEq, Repr

/-- DOWN, nothing sent. -/
def Rope.init : Rope := ⟨false, false, none, 0, 0, 0, [], [], none, false, 0, none, [], 0, []⟩

/-! ## Health, pins and power (chapters 19 and 20) -/

/-- Health (R469 to R488): drips spent in each temperature bin beyond the whole units of its register, consecutive
boundaries below the level's drop threshold, the drip of the last parity error of an instruction-cache line (keyed core ×
2^40 + line), lanes reported under their eye margin, lanes that inverted their transmitter in this attempt, output
pins set to high impedance, on-die sensors reported invalid, external inputs that gave a reading, and the drip of the last
test of a spare unit (keyed 256 × kind + number, R474) and of the last eye measurement of a lane (R488). -/
structure Hlth where
  bins : Map Nat
  cool : Nat
  icErr : Map Nat
  eyeLow : Map Bool
  txTried : Map Bool
  highZ : Map Bool
  bad : Map Bool
  seen : Map Bool
  spareTest : Map Nat
  eyeTest : Map Nat
  deriving DecidableEq, Repr

/-- Nothing counted. -/
def Hlth.init : Hlth := ⟨[], 0, [], [], [], [], [], [], [], []⟩

/-- The pins and rails that hold the device in Cold mode (R499, R501, R510): RESET_N low, a scan instruction's hold, the
rails outside their monitor window, whether PE_PERST_N is low (R508), the TAP's instruction, and what the data register
it selects captures (none: the boundary cells). -/
structure Elec where
  resetLow : Bool
  scanHold : Bool
  railsOut : Map Bool
  perst : Bool
  tap : Nat
  dr : Option Nat
  deriving DecidableEq, Repr

/-- The IDCODE of stepping B0 (R510). -/
def idcode : Nat := 0xB8400B47

/-- Reset released, every rail within its window, the TAP at IDCODE (IEEE 1149.1). -/
def Elec.init : Elec := ⟨false, false, [], false, 2, some idcode⟩

/-! ## The device and the model's state -/

/-- The device. `out` is what it has sent out, newest first; `free` counts the free values met so far, a counter of
the model's own: the n-th value the manual leaves open is `Config.freeNat n` (assumption 4). -/
structure Dev where
  out : List Out
  free : Nat
  csr : Csr
  drip : Drip
  host : HostPort
  lard : Lard
  egrs : Egrs
  ingr : Ingr
  cores : Cores
  latches : Map Latch
  help : Help
  disp : Disp
  dmem : DramMem
  fwd : Fwd
  strong : Strong
  book : Book
  sess : Sess
  pool : SealPool
  fmt : FmtPool
  lode : Lode
  dctl : DramCtl
  load : Load
  rope : Rope
  hlth : Hlth
  elec : Elec
  deriving DecidableEq, Repr

/-- The machine: the device, the four view captures of R59 (each a copy of the device at its boundary), and the
commands that wait, first in first out. -/
structure State where
  dev : Dev
  copies : Map Dev
  pending : List Instr
  deriving DecidableEq, Repr

/-- Reasons a step stops. No meaning of this model raises one: every operation of the device ends in a state
(a completion code, a drop, a parked thread). -/
inductive Fault
  /-- Raised by no meaning. Safe. -/
  | none
  deriving DecidableEq, Repr

/-- Reasons a command has no effect in the model. -/
inductive Refusal
  /-- Raised by `exec` for a command that has no meaning yet. Safe: nothing is proved of it. -/
  | notModelled (mnemonic : String)
  deriving DecidableEq, Repr

/-- The registers after reset: every word at its Reset column, so nothing is listed. -/
def Csr.init : Csr := ⟨[], [], [], [], [], [], []⟩
/-- Drip 0, generation 0 (R28, R38), nothing held. -/
def Drip.init : Drip := ⟨0, 0, [], [], [], [], 0, 0, 0, [], 0, none⟩
/-- No incident, no vector signalled. -/
def HostPort.init : HostPort := ⟨[], [], 0, [], [], [], false, false, [], 0, [true, true], [false, false], [], false⟩
/-- Every cell FREE (R94). -/
def Lard.init : Lard := ⟨[], [], [], [], [], [], [], 0⟩
/-- Every domain at 0 (R110), every queue empty. -/
def Egrs.init : Egrs := ⟨[], [], [], [], 0, 0, false, [], [], [], [], []⟩
/-- Nothing received. -/
def Ingr.init : Ingr := ⟨[], [], [], [], [], [], [], []⟩
/-- Every thread IDLE, memories and tables empty (assumption 5). -/
def Cores.init : Cores := ⟨[], [], [], [], [], [], [], [], [], [], [0, 0], []⟩
/-- No helper command. -/
def Help.init : Help := ⟨[], [], [], [], 1, 1, 0, 0, []⟩
/-- No entry, no descriptor. -/
def Disp.init : Disp := ⟨[], [], [], 15, [], [], [], []⟩

/-- DRAM with nothing written (assumption 5). -/
def DramMem.init : DramMem := ⟨[], []⟩

/-- An empty forwarding table (assumption 5), no lock, no sweep. -/
def Fwd.init : Fwd := ⟨[], [], [], [], [], [], []⟩

/-- The Strongroom after its power-up: UNSET, its seal intact, MRAM of a device that has never sealed a page
(assumption 6). -/
def Strong.init : Strong where
  powered := true
  time := 0
  state := 0
  tclkOk := false
  ppsOk := false
  ppsPol := false
  good := 0
  near := 0
  far := 0
  err := 0
  hold := 0
  corr := 0
  slew := 0
  todWait := []
  sealOk := true
  cause := 0
  chg := 0
  epoch := 0
  page := 0
  closed := false
  root := List.replicate 32 0
  tallies := []
  ckptNew := []
  ckptOld := []
  calKey := none
  ucal := []
  serial := 0
  egts := []
  egtsWp := 0
  egtsNew := 0
  queue := []
  cals := []
  asked := []
  lost := []
  inspBad := 0
  mramGen := 0
  ppsLast := 0
  timeLatch := []
  corrRest := 0
  owed := []
  dieTemp := none
  closing := []

/-- No record, an empty ring. -/
def Book.init : Book :=
  ⟨false, 0, List.replicate 32 0, 0, 0, 0, 0, [], 0, 0, 0, List.replicate 32 0, false, [], 0⟩

/-- Slots empty, no command (R307). -/
def SealPool.init : SealPool := ⟨[], true, 0, (List.range 104).map SealEng.init, [], [], [], [], []⟩

/-- No command (R328). -/
def FmtPool.init : FmtPool := ⟨(List.range 18).map FmtEng.init, []⟩

/-- Every row invalid, no command (assumption 5). -/
def Lode.init : Lode := ⟨[], [], [], [], [], [], 0, 0⟩

/-- No request, no grant. -/
def DramCtl.init : DramCtl := ⟨[], []⟩

/-- No session; sess_max is the image's (assumption 5). -/
def Sess.init : Sess := ⟨[], 0, 0, [], [], []⟩

/-- The device right after it leaves Cold mode: Load mode, every register at its Reset column (R6). -/
def Dev.reset : Dev :=
  ⟨[], 0, Csr.init, Drip.init, HostPort.init, Lard.init, Egrs.init, Ingr.init, Cores.init, [], Help.init, Disp.init,
   DramMem.init, Fwd.init, Strong.init, Book.init, Sess.init, SealPool.init, FmtPool.init, Lode.init,
   DramCtl.init, Load.init, Rope.init, Hlth.init, Elec.init⟩

/-- The machine right after reset, with no command waiting. -/
def State.reset : State := ⟨Dev.reset, [], []⟩

end Sys2Proof.Machine
end

