-- ==== Sys2Proof/Machine/Parts.lean ====
section
/-! DEFINITION. One updater per part of the device: an operation names the part it changes and leaves the others. -/

namespace Sys2Proof.Machine

/-- Apply `f` to the out part of the device. -/
def Dev.onOut (d : Dev) (f : List Out → List Out) : Dev := { d with out := f d.out }

/-- Apply `f` to the csr part of the device. -/
def Dev.onCsr (d : Dev) (f : Csr → Csr) : Dev := { d with csr := f d.csr }

/-- Apply `f` to the drip part of the device. -/
def Dev.onDrip (d : Dev) (f : Drip → Drip) : Dev := { d with drip := f d.drip }

/-- Apply `f` to the host part of the device. -/
def Dev.onHost (d : Dev) (f : HostPort → HostPort) : Dev := { d with host := f d.host }

/-- Apply `f` to the lard part of the device. -/
def Dev.onLard (d : Dev) (f : Lard → Lard) : Dev := { d with lard := f d.lard }

/-- Apply `f` to the egrs part of the device. -/
def Dev.onEgrs (d : Dev) (f : Egrs → Egrs) : Dev := { d with egrs := f d.egrs }

/-- Apply `f` to the ingr part of the device. -/
def Dev.onIngr (d : Dev) (f : Ingr → Ingr) : Dev := { d with ingr := f d.ingr }

/-- Apply `f` to the cores part of the device. -/
def Dev.onCores (d : Dev) (f : Cores → Cores) : Dev := { d with cores := f d.cores }

/-- Apply `f` to the latches part of the device. -/
def Dev.onLatches (d : Dev) (f : Map Latch → Map Latch) : Dev := { d with latches := f d.latches }

/-- Apply `f` to the help part of the device. -/
def Dev.onHelp (d : Dev) (f : Help → Help) : Dev := { d with help := f d.help }

/-- Apply `f` to the disp part of the device. -/
def Dev.onDisp (d : Dev) (f : Disp → Disp) : Dev := { d with disp := f d.disp }

/-- Apply `f` to the dmem part of the device. -/
def Dev.onDmem (d : Dev) (f : DramMem → DramMem) : Dev := { d with dmem := f d.dmem }

/-- Apply `f` to the fwd part of the device. -/
def Dev.onFwd (d : Dev) (f : Fwd → Fwd) : Dev := { d with fwd := f d.fwd }

/-- Apply `f` to the strong part of the device. -/
def Dev.onStrong (d : Dev) (f : Strong → Strong) : Dev := { d with strong := f d.strong }

/-- Apply `f` to the book part of the device. -/
def Dev.onBook (d : Dev) (f : Book → Book) : Dev := { d with book := f d.book }

/-- Apply `f` to the sess part of the device. -/
def Dev.onSess (d : Dev) (f : Sess → Sess) : Dev := { d with sess := f d.sess }

/-- Apply `f` to the pool part of the device. -/
def Dev.onPool (d : Dev) (f : SealPool → SealPool) : Dev := { d with pool := f d.pool }

/-- Apply `f` to the fmt part of the device. -/
def Dev.onFmt (d : Dev) (f : FmtPool → FmtPool) : Dev := { d with fmt := f d.fmt }

/-- Apply `f` to the lode part of the device. -/
def Dev.onLode (d : Dev) (f : Lode → Lode) : Dev := { d with lode := f d.lode }

/-- Apply `f` to the dctl part of the device. -/
def Dev.onDctl (d : Dev) (f : DramCtl → DramCtl) : Dev := { d with dctl := f d.dctl }

/-- Apply `f` to the load part of the device. -/
def Dev.onLoad (d : Dev) (f : Load → Load) : Dev := { d with load := f d.load }

/-- Apply `f` to the rope part of the device. -/
def Dev.onRope (d : Dev) (f : Rope → Rope) : Dev := { d with rope := f d.rope }

/-- Apply `f` to the hlth part of the device. -/
def Dev.onHlth (d : Dev) (f : Hlth → Hlth) : Dev := { d with hlth := f d.hlth }

/-- Apply `f` to the elec part of the device. -/
def Dev.onElec (d : Dev) (f : Elec → Elec) : Dev := { d with elec := f d.elec }

end Sys2Proof.Machine
end

