-- ==== Sys2Proof/Machine/Regs.lean ====
section
/-! DEFINITION. The register map (chapter 21, R513, R514, R519, and the register tables of each chapter): one row per
register, with its place, its indices, its fields and their access types (R7), and its reset value. -/

namespace Sys2Proof.Machine

/-- The access type of a register field (R7). -/
inductive Access | ro | rw | st | w1c | rc | wo
  deriving DecidableEq, Repr

/-- A register field: bits [hi:lo], its access type and its name. -/
structure RegField where
  hi : Nat
  lo : Nat
  acc : Access
  name : String
  deriving DecidableEq, Repr

/-- A register: its name, the offset of its first copy, its indices as (stride, count) with the widest first,
whether each master owns a copy (R521), the masters that may write it where a chapter names them, the master
the first copy belongs to where copies belong to masters in order (R521), whether it is a shared doorbell
(R56), whether its read value is formed from other state of the machine, its fields, and its reset value. -/
structure RegDef where
  name : String
  base : Nat
  dims : List (Nat × Nat)
  perMaster : Bool
  masters : List Nat
  ownedFrom : Option Nat
  doorbell : Bool
  computed : Bool
  fields : List RegField
  reset : Nat
  deriving DecidableEq, Repr

/-- The place of a byte distance `o` among nested copies: true when it is the start of one. -/
def dimsCover : List (Nat × Nat) → Nat → Bool
  | [], o => o == 0
  | (stride, count) :: ds, o => o / stride < count && dimsCover ds (o % stride)

/-- The register covers offset `o`. -/
def RegDef.covers (r : RegDef) (o : Nat) : Bool := r.base ≤ o && dimsCover r.dims (o - r.base)

/-- The bits of a register's fields that satisfy `p`. -/
def RegDef.maskOf (r : RegDef) (p : Access → Bool) : Word :=
  r.fields.foldl (fun m f => if p f.acc then m ||| fldMask f.hi f.lo else m) 0


/-! Offsets of the registers, by name. -/

/-- Offset of GCTL_ID0, chapter 21. -/
abbrev R.gctlId0 : Nat := 0x0
/-- Offset of GCTL_ID1, chapter 21. -/
abbrev R.gctlId1 : Nat := 0x4
/-- Offset of GCTL_LABEL, chapter 21. -/
abbrev R.gctlLabel : Nat := 0x8
/-- Offset of GCTL_SCRATCH, chapter 21. -/
abbrev R.gctlScratch : Nat := 0xC
/-- Offset of GCTL_RSVD_WR, chapter 21. -/
abbrev R.gctlRsvdWr : Nat := 0x10
/-- Offset of GCTL_RSVD_LAST, chapter 21. -/
abbrev R.gctlRsvdLast : Nat := 0x14
/-- Offset of GCTL_RSVD_WHO, chapter 21. -/
abbrev R.gctlRsvdWho : Nat := 0x18
/-- Offset of DRIP_CFG, chapter 02. -/
abbrev R.dripCfg : Nat := 0x100000
/-- Offset of DRIP_NOW_LO, chapter 02. -/
abbrev R.dripNowLo : Nat := 0x100004
/-- Offset of DRIP_NOW_HI, chapter 02. -/
abbrev R.dripNowHi : Nat := 0x100008
/-- Offset of DRIP_BUDGET, chapter 02. -/
abbrev R.dripBudget : Nat := 0x10000C
/-- Offset of DRIP_OVER_LEARN, chapter 02. -/
abbrev R.dripOverLearn : Nat := 0x100010
/-- Offset of DRIP_OVER_LODE, chapter 02. -/
abbrev R.dripOverLode : Nat := 0x100014
/-- Offset of DRIP_OVER_TALLY, chapter 02. -/
abbrev R.dripOverTally : Nat := 0x100018
/-- Offset of DRIP_GEN_LAST, chapter 02. -/
abbrev R.dripGenLast : Nat := 0x100020
/-- Offset of DRIP_STAGEQ, chapter 02. -/
abbrev R.dripStageq : Nat := 0x100024
/-- Offset of DRIP_GRP_LIVE (first copy), chapter 02. -/
abbrev R.dripGrpLive : Nat := 0x100100
/-- Offset of DRIP_GRP_TRAIL (first copy), chapter 02. -/
abbrev R.dripGrpTrail : Nat := 0x100180
/-- Offset of DRIP_GRP_STAT (first copy), chapter 02. -/
abbrev R.dripGrpStat : Nat := 0x100200
/-- Offset of DRIP_WFAIL (first copy), chapter 02. -/
abbrev R.dripWfail : Nat := 0x100300
/-- Offset of DRIP_WFADR (first copy), chapter 02. -/
abbrev R.dripWfadr : Nat := 0x100304
/-- Offset of DRIP_OWN (first copy), chapter 02. -/
abbrev R.dripOwn : Nat := 0x100380
/-- Offset of DRIP_CS_MASK (first copy), chapter 02. -/
abbrev R.dripCsMask : Nat := 0x100400
/-- Offset of DRIP_CS_TGTL (first copy), chapter 02. -/
abbrev R.dripCsTgtl : Nat := 0x100404
/-- Offset of DRIP_CS_TGTH (first copy), chapter 02. -/
abbrev R.dripCsTgth : Nat := 0x100408
/-- Offset of DRIP_CS_CTL (first copy), chapter 02. -/
abbrev R.dripCsCtl : Nat := 0x10040C
/-- Offset of DRIP_CS_STAT (first copy), chapter 02. -/
abbrev R.dripCsStat : Nat := 0x100410
/-- Offset of DRIP_CS_GEN (first copy), chapter 02. -/
abbrev R.dripCsGen : Nat := 0x100414
/-- Offset of DRIP_CS_WHERE (first copy), chapter 02. -/
abbrev R.dripCsWhere : Nat := 0x100418
/-- Offset of DRIP_CS_RSVD (first copy), chapter 02. -/
abbrev R.dripCsRsvd : Nat := 0x10041C
/-- Offset of DRIP_VIEW_REQ, chapter 02. -/
abbrev R.dripViewReq : Nat := 0x100600
/-- Offset of DRIP_VIEW_STAT (first copy), chapter 02. -/
abbrev R.dripViewStat : Nat := 0x100610
/-- Offset of DRIP_VIEW_DLO (first copy), chapter 02. -/
abbrev R.dripViewDlo : Nat := 0x100620
/-- Offset of DRIP_VIEW_DHI (first copy), chapter 02. -/
abbrev R.dripViewDhi : Nat := 0x100624
/-- Offset of DRIP_VIEW_SEL (first copy), chapter 02. -/
abbrev R.dripViewSel : Nat := 0x100640
/-- Offset of LOAD_STAT, chapter 17. -/
abbrev R.loadStat : Nat := 0x200000
/-- Offset of LOAD_ATT (first copy), chapter 17. -/
abbrev R.loadAtt : Nat := 0x200010
/-- Offset of LOAD_ATT_WHERE (first copy), chapter 17. -/
abbrev R.loadAttWhere : Nat := 0x200014
/-- Offset of LOAD_BUILD_LO, chapter 17. -/
abbrev R.loadBuildLo : Nat := 0x200030
/-- Offset of LOAD_BUILD_HI, chapter 17. -/
abbrev R.loadBuildHi : Nat := 0x200034
/-- Offset of LOAD_DIGEST (first copy), chapter 17. -/
abbrev R.loadDigest : Nat := 0x200040
/-- Offset of LOAD_OWNER (first copy), chapter 17. -/
abbrev R.loadOwner : Nat := 0x200060
/-- Offset of LOAD_SURVEY, chapter 17. -/
abbrev R.loadSurvey : Nat := 0x200080
/-- Offset of LOAD_PINS, chapter 17. -/
abbrev R.loadPins : Nat := 0x200084
/-- Offset of LOAD_BOARD_ID, chapter 17. -/
abbrev R.loadBoardId : Nat := 0x200088
/-- Offset of LOAD_LIMP_CFG, chapter 17. -/
abbrev R.loadLimpCfg : Nat := 0x200100
/-- Offset of LOAD_LIMP_BAY, chapter 17. -/
abbrev R.loadLimpBay : Nat := 0x200104
/-- Offset of LOAD_LIMP_SESS, chapter 17. -/
abbrev R.loadLimpSess : Nat := 0x200108
/-- Offset of LOAD_LIMP_STAT, chapter 17. -/
abbrev R.loadLimpStat : Nat := 0x20010C
/-- Offset of LOAD_CTL, chapter 17. -/
abbrev R.loadCtl : Nat := 0x200110
/-- Offset of LOAD_CTL_STAT, chapter 17. -/
abbrev R.loadCtlStat : Nat := 0x200114
/-- Offset of LOAD_HO_SRC, chapter 17. -/
abbrev R.loadHoSrc : Nat := 0x200200
/-- Offset of LOAD_HO_ADDR_LO, chapter 17. -/
abbrev R.loadHoAddrLo : Nat := 0x200204
/-- Offset of LOAD_HO_ADDR_HI, chapter 17. -/
abbrev R.loadHoAddrHi : Nat := 0x200208
/-- Offset of LOAD_HO_LEN, chapter 17. -/
abbrev R.loadHoLen : Nat := 0x20020C
/-- Offset of LOAD_HO_TGT_LO, chapter 17. -/
abbrev R.loadHoTgtLo : Nat := 0x200210
/-- Offset of LOAD_HO_TGT_HI, chapter 17. -/
abbrev R.loadHoTgtHi : Nat := 0x200214
/-- Offset of LOAD_HO_GO, chapter 17. -/
abbrev R.loadHoGo : Nat := 0x200218
/-- Offset of LOAD_HO_STAT, chapter 17. -/
abbrev R.loadHoStat : Nat := 0x20021C
/-- Offset of LOAD_HO_GEN, chapter 17. -/
abbrev R.loadHoGen : Nat := 0x200220
/-- Offset of LOAD_HO_SKIP, chapter 17. -/
abbrev R.loadHoSkip : Nat := 0x200224
/-- Offset of LOAD_CNT (first copy), chapter 17. -/
abbrev R.loadCnt : Nat := 0x200300
/-- Offset of PORT_MAC_CFG (first copy), chapter 03. -/
abbrev R.portMacCfg : Nat := 0x400000
/-- Offset of PORT_MAC_CFG64, chapter 03. -/
abbrev R.portMacCfg64 : Nat := 0x400100
/-- Offset of PORT_PFC_POOL (first copy), chapter 03. -/
abbrev R.portPfcPool : Nat := 0x400200
/-- Offset of PORT_CNT (first copy), chapter 03. -/
abbrev R.portCnt : Nat := 0x400300
/-- Offset of PORT_MAC_SA0 (first copy), chapter 03. -/
abbrev R.portMacSa0 : Nat := 0x400400
/-- Offset of PORT_MAC_SA1 (first copy), chapter 03. -/
abbrev R.portMacSa1 : Nat := 0x400404
/-- Offset of PORT_BAY0 (first copy), chapter 03. -/
abbrev R.portBay0 : Nat := 0x410000
/-- Offset of PORT_BAY1 (first copy), chapter 03. -/
abbrev R.portBay1 : Nat := 0x410004
/-- Offset of LANE_STAT (first copy), chapter 19. -/
abbrev R.laneStat : Nat := 0x800000
/-- Offset of LANE_CFG (first copy), chapter 19. -/
abbrev R.laneCfg : Nat := 0x800080
/-- Offset of LANE_TXDOWN (first copy), chapter 19. -/
abbrev R.laneTxdown : Nat := 0x800100
/-- Offset of PARS_FAIL_CLASS, chapter 03. -/
abbrev R.parsFailClass : Nat := 0x1000000
/-- Offset of PARS_FRAG_CFG, chapter 03. -/
abbrev R.parsFragCfg : Nat := 0x1000040
/-- Offset of PARS_OUT (first copy), chapter 03. -/
abbrev R.parsOut : Nat := 0x1000084
/-- Offset of PARS_FRAG_USED, chapter 03. -/
abbrev R.parsFragUsed : Nat := 0x10000C0
/-- Offset of PARS_FRAG_CNT (first copy), chapter 03. -/
abbrev R.parsFragCnt : Nat := 0x10000C4
/-- Offset of PARS_P_W0 (first copy), chapter 03. -/
abbrev R.parsPW0 : Nat := 0x1100000
/-- Offset of PARS_P_W1 (first copy), chapter 03. -/
abbrev R.parsPW1 : Nat := 0x1100004
/-- Offset of PARS_P_DFLT (first copy), chapter 03. -/
abbrev R.parsPDflt : Nat := 0x1100008
/-- Offset of PARS_P_EDGE_V (first copy), chapter 03. -/
abbrev R.parsPEdgeV : Nat := 0x110000C
/-- Offset of PARS_P_EDGE_T (first copy), chapter 03. -/
abbrev R.parsPEdgeT : Nat := 0x1100010
/-- Offset of PARS_P_EXT (first copy), chapter 03. -/
abbrev R.parsPExt : Nat := 0x110008C
/-- Offset of PARS_P_RSVD (first copy), chapter 03. -/
abbrev R.parsPRsvd : Nat := 0x110009C
/-- Offset of CLAS_ROW_CMD, chapter 03. -/
abbrev R.clasRowCmd : Nat := 0x1400000
/-- Offset of CLAS_ROW_STAT, chapter 03. -/
abbrev R.clasRowStat : Nat := 0x1400004
/-- Offset of CLAS_MISS_CFG, chapter 03. -/
abbrev R.clasMissCfg : Nat := 0x1400008
/-- Offset of CLAS_MISS_CNT, chapter 03. -/
abbrev R.clasMissCnt : Nat := 0x140000C
/-- Offset of CLAS_EXC_CFG (first copy), chapter 03. -/
abbrev R.clasExcCfg : Nat := 0x1400100
/-- Offset of CLAS_EXC_RATE (first copy), chapter 03. -/
abbrev R.clasExcRate : Nat := 0x1400104
/-- Offset of CLAS_EXC_DELIV (first copy), chapter 03. -/
abbrev R.clasExcDeliv : Nat := 0x1400200
/-- Offset of CLAS_EXC_DROP (first copy), chapter 03. -/
abbrev R.clasExcDrop : Nat := 0x1400204
/-- Offset of CLAS_ROW_BUF (first copy), chapter 03. -/
abbrev R.clasRowBuf : Nat := 0x1401000
/-- Offset of CLAS_ROW_VALID, chapter 03. -/
abbrev R.clasRowValid : Nat := 0x14010B0
/-- Offset of CLAS_HASH_PROF (first copy), chapter 03. -/
abbrev R.clasHashProf : Nat := 0x1404000
/-- Offset of CLAS_HIT (first copy), chapter 03. -/
abbrev R.clasHit : Nat := 0x1408000
/-- Offset of FWDT_SWEEP, chapter 06. -/
abbrev R.fwdtSweep : Nat := 0x1800004
/-- Offset of FWDT_HASH_SEED0, chapter 06. -/
abbrev R.fwdtHashSeed0 : Nat := 0x1800008
/-- Offset of FWDT_HASH_SEED1, chapter 06. -/
abbrev R.fwdtHashSeed1 : Nat := 0x180000C
/-- Offset of FWDT_ENTRIES, chapter 06. -/
abbrev R.fwdtEntries : Nat := 0x1800010
/-- Offset of FWDT_CNT (first copy), chapter 06. -/
abbrev R.fwdtCnt : Nat := 0x1800100
/-- Offset of FWDT_DMA_ADDR_LO, chapter 06. -/
abbrev R.fwdtDmaAddrLo : Nat := 0x1801000
/-- Offset of FWDT_DMA_ADDR_HI, chapter 06. -/
abbrev R.fwdtDmaAddrHi : Nat := 0x1801004
/-- Offset of FWDT_DMA_CMD, chapter 06. -/
abbrev R.fwdtDmaCmd : Nat := 0x1801008
/-- Offset of FWDT_DMA_CNT, chapter 06. -/
abbrev R.fwdtDmaCnt : Nat := 0x180100C
/-- Offset of FWDT_DMA_GO, chapter 06. -/
abbrev R.fwdtDmaGo : Nat := 0x1801010
/-- Offset of FWDT_DMA_STAT, chapter 06. -/
abbrev R.fwdtDmaStat : Nat := 0x1801014
/-- Offset of FWDT_LOCK_QRY, chapter 06. -/
abbrev R.fwdtLockQry : Nat := 0x1801020
/-- Offset of FWDT_LOCK_STAT, chapter 06. -/
abbrev R.fwdtLockStat : Nat := 0x1801024
/-- Offset of FWDT_BAY (first copy), chapter 06. -/
abbrev R.fwdtBay : Nat := 0x1810000
/-- Offset of LODE_STAT, chapter 13. -/
abbrev R.lodeStat : Nat := 0x1C00000
/-- Offset of LODE_WCURVE_CNT, chapter 13. -/
abbrev R.lodeWcurveCnt : Nat := 0x1C00004
/-- Offset of LODE_WCURVE (first copy), chapter 13. -/
abbrev R.lodeWcurve : Nat := 0x1C00010
/-- Offset of LODE_CNT (first copy), chapter 13. -/
abbrev R.lodeCnt : Nat := 0x1C00100
/-- Offset of LODE_BANK0 (first copy), chapter 13. -/
abbrev R.lodeBank0 : Nat := 0x1C10000
/-- Offset of LODE_BANK1 (first copy), chapter 13. -/
abbrev R.lodeBank1 : Nat := 0x1C10004
/-- Offset of LODE_HROW (first copy), chapter 13. -/
abbrev R.lodeHrow : Nat := 0x1C20000
/-- Offset of LODE_HCMD, chapter 13. -/
abbrev R.lodeHcmd : Nat := 0x1C20050
/-- Offset of LODE_HGO, chapter 13. -/
abbrev R.lodeHgo : Nat := 0x1C20054
/-- Offset of LODE_HSTAT, chapter 13. -/
abbrev R.lodeHstat : Nat := 0x1C20058
/-- Offset of LODE_HRES (first copy), chapter 13. -/
abbrev R.lodeHres : Nat := 0x1C20060
/-- Offset of LODE_HIT (first copy), chapter 13. -/
abbrev R.lodeHit : Nat := 0x1C40000
/-- Offset of LARD_POOL_CFG0 (first copy), chapter 04. -/
abbrev R.lardPoolCfg0 : Nat := 0x2000000
/-- Offset of LARD_POOL_CFG1 (first copy), chapter 04. -/
abbrev R.lardPoolCfg1 : Nat := 0x2000004
/-- Offset of LARD_POOL_USE (first copy), chapter 04. -/
abbrev R.lardPoolUse : Nat := 0x2000100
/-- Offset of LARD_FREE, chapter 04. -/
abbrev R.lardFree : Nat := 0x2000180
/-- Offset of LARD_RESERVE, chapter 04. -/
abbrev R.lardReserve : Nat := 0x2000184
/-- Offset of LARD_DFREE, chapter 04. -/
abbrev R.lardDfree : Nat := 0x2000200
/-- Offset of LARD_NOT_HOLDER, chapter 04. -/
abbrev R.lardNotHolder : Nat := 0x2000204
/-- Offset of LARD_CHAIN_BAD, chapter 04. -/
abbrev R.lardChainBad : Nat := 0x2000208
/-- Offset of LARD_RETIRE_FREED, chapter 04. -/
abbrev R.lardRetireFreed : Nat := 0x200020C
/-- Offset of LARD_FAIL_EMPTY (first copy), chapter 04. -/
abbrev R.lardFailEmpty : Nat := 0x2000300
/-- Offset of LARD_CMD (first copy), chapter 04. -/
abbrev R.lardCmd : Nat := 0x2001000
/-- Offset of LARD_CMD_GO, chapter 04. -/
abbrev R.lardCmdGo : Nat := 0x2001010
/-- Offset of LARD_CMD_STAT, chapter 04. -/
abbrev R.lardCmdStat : Nat := 0x2001014
/-- Offset of LARD_CMD_RES, chapter 04. -/
abbrev R.lardCmdRes : Nat := 0x2001018
/-- Offset of LARD_CELL_QRY, chapter 04. -/
abbrev R.lardCellQry : Nat := 0x2001020
/-- Offset of LARD_CELL_LNK_LO, chapter 04. -/
abbrev R.lardCellLnkLo : Nat := 0x2001024
/-- Offset of LARD_CELL_LNK_HI, chapter 04. -/
abbrev R.lardCellLnkHi : Nat := 0x2001028
/-- Offset of SESS_CFG, chapter 05. -/
abbrev R.sessCfg : Nat := 0x2400000
/-- Offset of SESS_REC_MAX, chapter 05. -/
abbrev R.sessRecMax : Nat := 0x2400008
/-- Offset of SESS_ACTIVE, chapter 05. -/
abbrev R.sessActive : Nat := 0x2400010
/-- Offset of SESS_CNT (first copy), chapter 05. -/
abbrev R.sessCnt : Nat := 0x2400040
/-- Offset of SESS_CC0 (first copy), chapter 05. -/
abbrev R.sessCc0 : Nat := 0x2400100
/-- Offset of SESS_CC1 (first copy), chapter 05. -/
abbrev R.sessCc1 : Nat := 0x2400104
/-- Offset of SESS_CC2 (first copy), chapter 05. -/
abbrev R.sessCc2 : Nat := 0x2400108
/-- Offset of SESS_CC3 (first copy), chapter 05. -/
abbrev R.sessCc3 : Nat := 0x240010C
/-- Offset of SESS_LSN0 (first copy), chapter 05. -/
abbrev R.sessLsn0 : Nat := 0x2401000
/-- Offset of SESS_LSN1 (first copy), chapter 05. -/
abbrev R.sessLsn1 : Nat := 0x2401004
/-- Offset of SESS_CMD (first copy), chapter 05. -/
abbrev R.sessCmd : Nat := 0x2402000
/-- Offset of SESS_CMD_GO, chapter 05. -/
abbrev R.sessCmdGo : Nat := 0x2402040
/-- Offset of SESS_CMD_STAT, chapter 05. -/
abbrev R.sessCmdStat : Nat := 0x2402044
/-- Offset of SESS_CMD_RES, chapter 05. -/
abbrev R.sessCmdRes : Nat := 0x2402048
/-- Offset of CIPH_MSEC_MAC0 (first copy), chapter 05. -/
abbrev R.ciphMsecMac0 : Nat := 0x2800000
/-- Offset of CIPH_MSEC_MAC1 (first copy), chapter 05. -/
abbrev R.ciphMsecMac1 : Nat := 0x2800004
/-- Offset of CIPH_SA_CTL (first copy), chapter 05. -/
abbrev R.ciphSaCtl : Nat := 0x2810000
/-- Offset of CIPH_SA_SCI (first copy), chapter 05. -/
abbrev R.ciphSaSci : Nat := 0x2810004
/-- Offset of CIPH_SA_RSV0 (first copy), chapter 05. -/
abbrev R.ciphSaRsv0 : Nat := 0x281000C
/-- Offset of CIPH_SA_SSCI (first copy), chapter 05. -/
abbrev R.ciphSaSsci : Nat := 0x2810010
/-- Offset of CIPH_SA_SAK (first copy), chapter 05. -/
abbrev R.ciphSaSak : Nat := 0x2810020
/-- Offset of CIPH_SA_INITPN (first copy), chapter 05. -/
abbrev R.ciphSaInitpn : Nat := 0x2810040
/-- Offset of CIPH_SA_INITPN_HI (first copy), chapter 05. -/
abbrev R.ciphSaInitpnHi : Nat := 0x2810044
/-- Offset of CIPH_SA_NEXTPN (first copy), chapter 05. -/
abbrev R.ciphSaNextpn : Nat := 0x2810048
/-- Offset of CIPH_SA_WARN_LO (first copy), chapter 05. -/
abbrev R.ciphSaWarnLo : Nat := 0x2810050
/-- Offset of CIPH_SA_WARN_HI (first copy), chapter 05. -/
abbrev R.ciphSaWarnHi : Nat := 0x2810054
/-- Offset of CIPH_SA_RSV1 (first copy), chapter 05. -/
abbrev R.ciphSaRsv1 : Nat := 0x2810058
/-- Offset of CIPH_MSEC_CNT (first copy), chapter 05. -/
abbrev R.ciphMsecCnt : Nat := 0x2830000
/-- Offset of CIPH_MSEC_CNT_RSV (first copy), chapter 05. -/
abbrev R.ciphMsecCntRsv : Nat := 0x2830014
/-- Offset of DISP_CFG, chapter 11. -/
abbrev R.dispCfg : Nat := 0x3000000
/-- Offset of DISP_TRACE_CFG, chapter 11. -/
abbrev R.dispTraceCfg : Nat := 0x3000004
/-- Offset of DISP_TRACE_BASE_LO, chapter 11. -/
abbrev R.dispTraceBaseLo : Nat := 0x3000008
/-- Offset of DISP_TRACE_BASE_HI, chapter 11. -/
abbrev R.dispTraceBaseHi : Nat := 0x300000C
/-- Offset of DISP_TRACE_WP, chapter 11. -/
abbrev R.dispTraceWp : Nat := 0x3000010
/-- Offset of DISP_GAL_STAT (first copy), chapter 11. -/
abbrev R.dispGalStat : Nat := 0x3000100
/-- Offset of DISP_HOLD (first copy), chapter 11. -/
abbrev R.dispHold : Nat := 0x3000200
/-- Offset of DISP_CNT (first copy), chapter 11. -/
abbrev R.dispCnt : Nat := 0x3000300
/-- Offset of LTCH_GRP0 (first copy), chapter 10. -/
abbrev R.ltchGrp0 : Nat := 0x3400000
/-- Offset of LTCH_GRP1 (first copy), chapter 10. -/
abbrev R.ltchGrp1 : Nat := 0x3400004
/-- Offset of LTCH_CNT (first copy), chapter 10. -/
abbrev R.ltchCnt : Nat := 0x3400200
/-- Offset of LTCH_HOST_SEL, chapter 10. -/
abbrev R.ltchHostSel : Nat := 0x3400400
/-- Offset of LTCH_HOST_ACQ, chapter 10. -/
abbrev R.ltchHostAcq : Nat := 0x3400404
/-- Offset of LTCH_HOST_TRY, chapter 10. -/
abbrev R.ltchHostTry : Nat := 0x3400408
/-- Offset of LTCH_HOST_REL, chapter 10. -/
abbrev R.ltchHostRel : Nat := 0x340040C
/-- Offset of LTCH_HOST_RSTAT, chapter 10. -/
abbrev R.ltchHostRstat : Nat := 0x3400410
/-- Offset of LTCH_STAT (first copy), chapter 10. -/
abbrev R.ltchStat : Nat := 0x3410000
/-- Offset of GALL_CORE_MAP (first copy), chapter 07. -/
abbrev R.gallCoreMap : Nat := 0x3800000
/-- Offset of GALL_CORE_STAT (first copy), chapter 07. -/
abbrev R.gallCoreStat : Nat := 0x3800004
/-- Offset of GALL_RETIRE_CNT (first copy), chapter 07. -/
abbrev R.gallRetireCnt : Nat := 0x3800008
/-- Offset of GALL_CFG (first copy), chapter 07. -/
abbrev R.gallCfg : Nat := 0x3800010
/-- Offset of GALL_STILL (first copy), chapter 07. -/
abbrev R.gallStill : Nat := 0x3800020
/-- Offset of GALL_STILL_CNT (first copy), chapter 07. -/
abbrev R.gallStillCnt : Nat := 0x3800024
/-- Offset of GALL_SEV (first copy), chapter 07. -/
abbrev R.gallSev : Nat := 0x3800030
/-- Offset of GALL_CORE_CTL (first copy), chapter 07. -/
abbrev R.gallCoreCtl : Nat := 0x3800040
/-- Offset of GALL_THR_CTL (first copy), chapter 07. -/
abbrev R.gallThrCtl : Nat := 0x3800044
/-- Offset of GALL_THR_CTL_STAT (first copy), chapter 07. -/
abbrev R.gallThrCtlStat : Nat := 0x3800048
/-- Offset of GALL_THR_STAT (first copy), chapter 07. -/
abbrev R.gallThrStat : Nat := 0x3800100
/-- Offset of GALL_FAULT_PC (first copy), chapter 07. -/
abbrev R.gallFaultPc : Nat := 0x3800200
/-- Offset of GALL_FAULT_CL (first copy), chapter 07. -/
abbrev R.gallFaultCl : Nat := 0x3800204
/-- Offset of GALL_CHAN (first copy), chapter 07. -/
abbrev R.gallChan : Nat := 0x3801000
/-- Offset of GALL_CHAN_STAT (first copy), chapter 07. -/
abbrev R.gallChanStat : Nat := 0x3801400
/-- Offset of SEAL_CFG, chapter 12. -/
abbrev R.sealCfg : Nat := 0x4000000
/-- Offset of SEAL_KEYSTORE, chapter 12. -/
abbrev R.sealKeystore : Nat := 0x4000004
/-- Offset of SEAL_POOL_STAT, chapter 12. -/
abbrev R.sealPoolStat : Nat := 0x4000008
/-- Offset of SEAL_RETIRE_CNT, chapter 12. -/
abbrev R.sealRetireCnt : Nat := 0x400000C
/-- Offset of SEAL_ENG_CTL, chapter 12. -/
abbrev R.sealEngCtl : Nat := 0x4000010
/-- Offset of SEAL_ENG_CTL_STAT, chapter 12. -/
abbrev R.sealEngCtlStat : Nat := 0x4000014
/-- Offset of SEAL_HASH_STAT, chapter 12. -/
abbrev R.sealHashStat : Nat := 0x4000018
/-- Offset of SEAL_SLOT_QRY, chapter 12. -/
abbrev R.sealSlotQry : Nat := 0x4000020
/-- Offset of SEAL_SLOT_CTL, chapter 12. -/
abbrev R.sealSlotCtl : Nat := 0x4000024
/-- Offset of SEAL_SLOT_CTL_STAT, chapter 12. -/
abbrev R.sealSlotCtlStat : Nat := 0x4000028
/-- Offset of SEAL_SLOT_W (first copy), chapter 12. -/
abbrev R.sealSlotW : Nat := 0x4000030
/-- Offset of SEAL_ENG_STAT (first copy), chapter 12. -/
abbrev R.sealEngStat : Nat := 0x4000100
/-- Offset of SEAL_CNT (first copy), chapter 12. -/
abbrev R.sealCnt : Nat := 0x4000300
/-- Offset of SEAL_POLICY (first copy), chapter 12. -/
abbrev R.sealPolicy : Nat := 0x4000400
/-- Offset of SEAL_XPORT_PUB (first copy), chapter 12. -/
abbrev R.sealXportPub : Nat := 0x4001000
/-- Offset of FMTE_CFG, chapter 13. -/
abbrev R.fmteCfg : Nat := 0x4400000
/-- Offset of FMTE_POOL_STAT, chapter 13. -/
abbrev R.fmtePoolStat : Nat := 0x4400004
/-- Offset of FMTE_RETIRE_CNT, chapter 13. -/
abbrev R.fmteRetireCnt : Nat := 0x4400008
/-- Offset of FMTE_ENG_CTL, chapter 13. -/
abbrev R.fmteEngCtl : Nat := 0x4400010
/-- Offset of FMTE_ENG_CTL_STAT, chapter 13. -/
abbrev R.fmteEngCtlStat : Nat := 0x4400014
/-- Offset of FMTE_ENG_STAT (first copy), chapter 13. -/
abbrev R.fmteEngStat : Nat := 0x4400100
/-- Offset of FMTE_CNT (first copy), chapter 13. -/
abbrev R.fmteCnt : Nat := 0x4400200
/-- Offset of FMTE_REASON (first copy), chapter 13. -/
abbrev R.fmteReason : Nat := 0x4400284
/-- Offset of FMTE_PROG (first copy), chapter 13. -/
abbrev R.fmteProg : Nat := 0x4410000
/-- Offset of FMTE_CUR (first copy), chapter 13. -/
abbrev R.fmteCur : Nat := 0x4420000
/-- Offset of FMTE_EBCDIC (first copy), chapter 13. -/
abbrev R.fmteEbcdic : Nat := 0x4430000
/-- Offset of FMTE_CONST (first copy), chapter 13. -/
abbrev R.fmteConst : Nat := 0x4440000
/-- Offset of FMTE_DICT (first copy), chapter 13. -/
abbrev R.fmteDict : Nat := 0x4500000
/-- Offset of FMTE_NAME (first copy), chapter 13. -/
abbrev R.fmteName : Nat := 0x4600000
/-- Offset of FMTE_STEP (first copy), chapter 13. -/
abbrev R.fmteStep : Nat := 0x4700000
/-- Offset of BOOK_CFG, chapter 14. -/
abbrev R.bookCfg : Nat := 0x4800000
/-- Offset of BOOK_EXP_DMAC_LO, chapter 14. -/
abbrev R.bookExpDmacLo : Nat := 0x4800004
/-- Offset of BOOK_EXP_DMAC_HI, chapter 14. -/
abbrev R.bookExpDmacHi : Nat := 0x4800008
/-- Offset of BOOK_RING, chapter 14. -/
abbrev R.bookRing : Nat := 0x480000C
/-- Offset of BOOK_WP_LO, chapter 14. -/
abbrev R.bookWpLo : Nat := 0x4800010
/-- Offset of BOOK_WP_HI, chapter 14. -/
abbrev R.bookWpHi : Nat := 0x4800014
/-- Offset of BOOK_EXP_LO, chapter 14. -/
abbrev R.bookExpLo : Nat := 0x4800018
/-- Offset of BOOK_EXP_HI, chapter 14. -/
abbrev R.bookExpHi : Nat := 0x480001C
/-- Offset of BOOK_ACK_LO, chapter 14. -/
abbrev R.bookAckLo : Nat := 0x4800020
/-- Offset of BOOK_ACK_HI, chapter 14. -/
abbrev R.bookAckHi : Nat := 0x4800024
/-- Offset of BOOK_SRACC, chapter 14. -/
abbrev R.bookSracc : Nat := 0x4800030
/-- Offset of BOOK_SRCMD (first copy), chapter 14. -/
abbrev R.bookSrcmd : Nat := 0x4800100
/-- Offset of BOOK_SRCMD_GO, chapter 14. -/
abbrev R.bookSrcmdGo : Nat := 0x4800140
/-- Offset of BOOK_SRCMD_STAT, chapter 14. -/
abbrev R.bookSrcmdStat : Nat := 0x4800144
/-- Offset of BOOK_SRCMD_RES (first copy), chapter 14. -/
abbrev R.bookSrcmdRes : Nat := 0x4800150
/-- Offset of BOOK_CNT (first copy), chapter 14. -/
abbrev R.bookCnt : Nat := 0x4800200
/-- Offset of EGRS_HOLE_CFG, chapter 04. -/
abbrev R.egrsHoleCfg : Nat := 0x4C00000
/-- Offset of EGRS_HOLE_SKIP, chapter 04. -/
abbrev R.egrsHoleSkip : Nat := 0x4C00010
/-- Offset of EGRS_LATE, chapter 04. -/
abbrev R.egrsLate : Nat := 0x4C00014
/-- Offset of EGRS_QDROP, chapter 04. -/
abbrev R.egrsQdrop : Nat := 0x4C00018
/-- Offset of EGRS_WAITING, chapter 04. -/
abbrev R.egrsWaiting : Nat := 0x4C00020
/-- Offset of EGRS_DOM_QRY, chapter 04. -/
abbrev R.egrsDomQry : Nat := 0x4C00040
/-- Offset of EGRS_DOM_NEXT, chapter 04. -/
abbrev R.egrsDomNext : Nat := 0x4C00044
/-- Offset of EGRS_BAY (first copy), chapter 04. -/
abbrev R.egrsBay : Nat := 0x4C10000
/-- Offset of ARBS_QRY, chapter 16. -/
abbrev R.arbsQry : Nat := 0x5000000
/-- Offset of ARBS_QRY_GRANT_LO, chapter 16. -/
abbrev R.arbsQryGrantLo : Nat := 0x5000004
/-- Offset of ARBS_QRY_GRANT_HI, chapter 16. -/
abbrev R.arbsQryGrantHi : Nat := 0x5000008
/-- Offset of ARBS_QRY_WAIT_LO, chapter 16. -/
abbrev R.arbsQryWaitLo : Nat := 0x500000C
/-- Offset of ARBS_QRY_WAIT_HI, chapter 16. -/
abbrev R.arbsQryWaitHi : Nat := 0x5000010
/-- Offset of ARBS_QRY_MAX, chapter 16. -/
abbrev R.arbsQryMax : Nat := 0x5000014
/-- Offset of ARBS_QRY_CODE, chapter 16. -/
abbrev R.arbsQryCode : Nat := 0x5000018
/-- Offset of ARBS_WIN (first copy), chapter 16. -/
abbrev R.arbsWin : Nat := 0x5000100
/-- Offset of ARBS_QUOTA (first copy), chapter 16. -/
abbrev R.arbsQuota : Nat := 0x5001000
/-- Offset of DRAM_GEOM, chapter 16. -/
abbrev R.dramGeom : Nat := 0x5400000
/-- Offset of DRAM_HASH_LO (first copy), chapter 16. -/
abbrev R.dramHashLo : Nat := 0x5400010
/-- Offset of DRAM_HASH_HI (first copy), chapter 16. -/
abbrev R.dramHashHi : Nat := 0x5400014
/-- Offset of DRAM_RGN_START (first copy), chapter 16. -/
abbrev R.dramRgnStart : Nat := 0x5400100
/-- Offset of DRAM_RGN_SIZE (first copy), chapter 16. -/
abbrev R.dramRgnSize : Nat := 0x5400104
/-- Offset of DRAM_RGN_CHANS (first copy), chapter 16. -/
abbrev R.dramRgnChans : Nat := 0x5400108
/-- Offset of DRAM_RGN_PARK (first copy), chapter 16. -/
abbrev R.dramRgnPark : Nat := 0x540010C
/-- Offset of DRAM_SCHED, chapter 16. -/
abbrev R.dramSched : Nat := 0x5400200
/-- Offset of DRAM_SCRUB, chapter 16. -/
abbrev R.dramScrub : Nat := 0x5400204
/-- Offset of DRAM_SR, chapter 16. -/
abbrev R.dramSr : Nat := 0x5400208
/-- Offset of DRAM_CH_STAT (first copy), chapter 16. -/
abbrev R.dramChStat : Nat := 0x5401000
/-- Offset of DRAM_CH_CNT (first copy), chapter 16. -/
abbrev R.dramChCnt : Nat := 0x5401100
/-- Offset of DRAM_TRN (first copy), chapter 16. -/
abbrev R.dramTrn : Nat := 0x5401200
/-- Offset of DRAM_DEV_CE (first copy), chapter 16. -/
abbrev R.dramDevCe : Nat := 0x5401400
/-- Offset of HOST_VER, chapter 18. -/
abbrev R.hostVer : Nat := 0x5800000
/-- Offset of HOST_VER_SEL, chapter 18. -/
abbrev R.hostVerSel : Nat := 0x5800004
/-- Offset of HOST_CFG, chapter 18. -/
abbrev R.hostCfg : Nat := 0x5800008
/-- Offset of HOST_MSIX_MOD, chapter 18. -/
abbrev R.hostMsixMod : Nat := 0x580000C
/-- Offset of HOST_CDONE, chapter 18. -/
abbrev R.hostCdone : Nat := 0x5800010
/-- Offset of HOST_VDONE, chapter 18. -/
abbrev R.hostVdone : Nat := 0x5800014
/-- Offset of HOST_MBOX_DN (first copy), chapter 18. -/
abbrev R.hostMboxDn : Nat := 0x5800100
/-- Offset of HOST_MBOX_DN_GO, chapter 18. -/
abbrev R.hostMboxDnGo : Nat := 0x5800140
/-- Offset of HOST_MBOX_DN_STAT, chapter 18. -/
abbrev R.hostMboxDnStat : Nat := 0x5800144
/-- Offset of HOST_MBOX_UP (first copy), chapter 18. -/
abbrev R.hostMboxUp : Nat := 0x5800200
/-- Offset of HOST_MBOX_UP_STAT, chapter 18. -/
abbrev R.hostMboxUpStat : Nat := 0x5800240
/-- Offset of HOST_MBOX_UP_POP, chapter 18. -/
abbrev R.hostMboxUpPop : Nat := 0x5800244
/-- Offset of HOST_INC_WP, chapter 18. -/
abbrev R.hostIncWp : Nat := 0x5800300
/-- Offset of HOST_INC_RP (first copy), chapter 18. -/
abbrev R.hostIncRp : Nat := 0x5800304
/-- Offset of HOST_INC_CFG, chapter 18. -/
abbrev R.hostIncCfg : Nat := 0x5800310
/-- Offset of HOST_INC_LOST (first copy), chapter 18. -/
abbrev R.hostIncLost : Nat := 0x5800314
/-- Offset of HOST_INC_ENT (first copy), chapter 18. -/
abbrev R.hostIncEnt : Nat := 0x5820000
/-- Offset of HOST_EXP_BASE_LO, chapter 18. -/
abbrev R.hostExpBaseLo : Nat := 0x5840000
/-- Offset of HOST_EXP_BASE_HI, chapter 18. -/
abbrev R.hostExpBaseHi : Nat := 0x5840004
/-- Offset of HOST_EXP_SIZE, chapter 18. -/
abbrev R.hostExpSize : Nat := 0x5840008
/-- Offset of HOST_EXP_WPA_LO, chapter 18. -/
abbrev R.hostExpWpaLo : Nat := 0x5840010
/-- Offset of HOST_EXP_WPA_HI, chapter 18. -/
abbrev R.hostExpWpaHi : Nat := 0x5840014
/-- Offset of HOST_EXP_ACK_LO, chapter 18. -/
abbrev R.hostExpAckLo : Nat := 0x5840020
/-- Offset of HOST_EXP_ACK_HI, chapter 18. -/
abbrev R.hostExpAckHi : Nat := 0x5840024
/-- Offset of HOST_EXP_STAT, chapter 18. -/
abbrev R.hostExpStat : Nat := 0x5840028
/-- Offset of ROPE_STAT, chapter 18. -/
abbrev R.ropeStat : Nat := 0x5C00000
/-- Offset of ROPE_CFG, chapter 18. -/
abbrev R.ropeCfg : Nat := 0x5C00004
/-- Offset of ROPE_PEER_SERIAL_LO, chapter 18. -/
abbrev R.ropePeerSerialLo : Nat := 0x5C00008
/-- Offset of ROPE_PEER_SERIAL_HI, chapter 18. -/
abbrev R.ropePeerSerialHi : Nat := 0x5C0000C
/-- Offset of ROPE_PEER_CDONE, chapter 18. -/
abbrev R.ropePeerCdone : Nat := 0x5C00010
/-- Offset of ROPE_PEER_VDONE, chapter 18. -/
abbrev R.ropePeerVdone : Nat := 0x5C00014
/-- Offset of ROPE_REQ_ADDR, chapter 18. -/
abbrev R.ropeReqAddr : Nat := 0x5C00100
/-- Offset of ROPE_REQ_DATA, chapter 18. -/
abbrev R.ropeReqData : Nat := 0x5C00104
/-- Offset of ROPE_REQ_GO, chapter 18. -/
abbrev R.ropeReqGo : Nat := 0x5C00108
/-- Offset of ROPE_REQ_STAT, chapter 18. -/
abbrev R.ropeReqStat : Nat := 0x5C0010C
/-- Offset of ROPE_REQ_RDATA, chapter 18. -/
abbrev R.ropeReqRdata : Nat := 0x5C00110
/-- Offset of ROPE_SEAL_BASE_LO, chapter 18. -/
abbrev R.ropeSealBaseLo : Nat := 0x5C00200
/-- Offset of ROPE_SEAL_BASE_HI, chapter 18. -/
abbrev R.ropeSealBaseHi : Nat := 0x5C00204
/-- Offset of ROPE_SEAL_WP, chapter 18. -/
abbrev R.ropeSealWp : Nat := 0x5C00208
/-- Offset of ROPE_CNT (first copy), chapter 18. -/
abbrev R.ropeCnt : Nat := 0x5C00300
/-- Offset of HLTH_TEMP (first copy), chapter 19. -/
abbrev R.hlthTemp : Nat := 0x6000000
/-- Offset of HLTH_TDIE, chapter 19. -/
abbrev R.hlthTdie : Nat := 0x60000A0
/-- Offset of HLTH_XTEMP (first copy), chapter 19. -/
abbrev R.hlthXtemp : Nat := 0x60000A4
/-- Offset of HLTH_THERM_CFG, chapter 19. -/
abbrev R.hlthThermCfg : Nat := 0x60000B0
/-- Offset of HLTH_BIST_CFG, chapter 19. -/
abbrev R.hlthBistCfg : Nat := 0x60000B4
/-- Offset of HLTH_GPIO_DIR, chapter 19. -/
abbrev R.hlthGpioDir : Nat := 0x6000100
/-- Offset of HLTH_GPIO_OUT, chapter 19. -/
abbrev R.hlthGpioOut : Nat := 0x6000104
/-- Offset of HLTH_GPIO_IN, chapter 19. -/
abbrev R.hlthGpioIn : Nat := 0x6000108
/-- Offset of HLTH_GPIO_FAULT, chapter 19. -/
abbrev R.hlthGpioFault : Nat := 0x600010C
/-- Offset of HLTH_ECC_CE (first copy), chapter 19. -/
abbrev R.hlthEccCe : Nat := 0x6000200
/-- Offset of HLTH_ECC_UE (first copy), chapter 19. -/
abbrev R.hlthEccUe : Nat := 0x6000204
/-- Offset of HLTH_CNT_POISON, chapter 19. -/
abbrev R.hlthCntPoison : Nat := 0x6000300
/-- Offset of HLTH_CELL_FENCED, chapter 19. -/
abbrev R.hlthCellFenced : Nat := 0x6000304
/-- Offset of HLTH_CNT (first copy), chapter 19. -/
abbrev R.hlthCnt : Nat := 0x6000308
/-- Offset of HLTH_TJ_BIN (first copy), chapter 19. -/
abbrev R.hlthTjBin : Nat := 0x6000400
/-- Offset of DBUG_SEL, chapter 21. -/
abbrev R.dbugSel : Nat := 0x6400000
/-- Offset of DBUG_CTL, chapter 21. -/
abbrev R.dbugCtl : Nat := 0x6400004
/-- Offset of DBUG_STAT, chapter 21. -/
abbrev R.dbugStat : Nat := 0x6400008
/-- Offset of DBUG_PC, chapter 21. -/
abbrev R.dbugPc : Nat := 0x640000C

/-- The registers of block GCTL. -/
def regsGctl : List RegDef := [
  ⟨"GCTL_ID0", 0x0, [], false, [], none, false, true, [⟨15, 0, .ro, "part"⟩, ⟨31, 16, .ro, "family"⟩], 0x4B588400⟩,
  ⟨"GCTL_ID1", 0x4, [], false, [], none, false, true, [⟨7, 0, .ro, "stepping"⟩], 0xB0⟩,
  ⟨"GCTL_LABEL", 0x8, [], false, [], none, false, false, [⟨31, 0, .st, "label"⟩], 0x0⟩,
  ⟨"GCTL_SCRATCH", 0xC, [], false, [], none, false, false, [⟨31, 0, .rw, "scratch"⟩], 0x0⟩,
  ⟨"GCTL_RSVD_WR", 0x10, [], false, [], none, false, false, [⟨31, 0, .rc, "count"⟩], 0x0⟩,
  ⟨"GCTL_RSVD_LAST", 0x14, [], false, [], none, false, false, [⟨27, 0, .ro, "where"⟩, ⟨29, 28, .ro, "kind"⟩], 0x0⟩,
  ⟨"GCTL_RSVD_WHO", 0x18, [], false, [], none, false, false, [⟨2, 0, .ro, "master"⟩, ⟨15, 4, .ro, "tag"⟩], 0x0⟩]

/-- The registers of block DRIP. -/
def regsDrip : List RegDef := [
  ⟨"DRIP_CFG", 0x100000, [], false, [], none, false, false, [⟨1, 0, .ro, "period"⟩], 0x1⟩,
  ⟨"DRIP_NOW_LO", 0x100004, [], false, [], none, false, true, [⟨31, 0, .ro, "drip_lo"⟩], 0x0⟩,
  ⟨"DRIP_NOW_HI", 0x100008, [], true, [], none, false, false, [⟨23, 0, .ro, "drip_hi"⟩], 0x0⟩,
  ⟨"DRIP_BUDGET", 0x10000C, [], false, [], none, false, false, [⟨7, 0, .ro, "learn"⟩, ⟨15, 8, .ro, "lode_upd"⟩, ⟨23, 16, .ro, "tally"⟩], 0x102014⟩,
  ⟨"DRIP_OVER_LEARN", 0x100010, [], false, [], none, false, false, [⟨31, 0, .rc, "count"⟩], 0x0⟩,
  ⟨"DRIP_OVER_LODE", 0x100014, [], false, [], none, false, false, [⟨31, 0, .rc, "count"⟩], 0x0⟩,
  ⟨"DRIP_OVER_TALLY", 0x100018, [], false, [], none, false, false, [⟨31, 0, .rc, "count"⟩], 0x0⟩,
  ⟨"DRIP_GEN_LAST", 0x100020, [], false, [], none, false, true, [⟨31, 0, .ro, "gen"⟩], 0x0⟩,
  ⟨"DRIP_STAGEQ", 0x100024, [], false, [], none, false, true, [⟨15, 0, .ro, "used"⟩], 0x0⟩,
  ⟨"DRIP_GRP_LIVE", 0x100100, [(4, 32)], false, [], none, false, true, [⟨31, 0, .ro, "gen"⟩], 0x0⟩,
  ⟨"DRIP_GRP_TRAIL", 0x100180, [(4, 32)], false, [], none, false, true, [⟨31, 0, .ro, "gen"⟩], 0x0⟩,
  ⟨"DRIP_GRP_STAT", 0x100200, [(4, 32)], false, [], none, false, true, [⟨1, 0, .ro, "other"⟩, ⟨2, 2, .ro, "live_bank"⟩, ⟨3, 3, .ro, "sealed"⟩], 0x0⟩,
  ⟨"DRIP_WFAIL", 0x100300, [(8, 5)], false, [], none, false, false, [⟨7, 0, .ro, "last_code"⟩, ⟨31, 8, .rc, "count"⟩], 0x0⟩,
  ⟨"DRIP_WFADR", 0x100304, [(8, 5)], false, [], none, false, false, [⟨27, 0, .ro, "last_addr"⟩], 0x0⟩,
  ⟨"DRIP_OWN", 0x100380, [(4, 32)], false, [], none, false, false, [⟨4, 0, .ro, "owners"⟩], 0xC⟩,
  ⟨"DRIP_CS_MASK", 0x100400, [(32, 16)], false, [], none, true, true, [⟨31, 0, .rw, "group_mask"⟩], 0x0⟩,
  ⟨"DRIP_CS_TGTL", 0x100404, [(32, 16)], false, [], none, true, true, [⟨31, 0, .rw, "target_lo"⟩], 0x0⟩,
  ⟨"DRIP_CS_TGTH", 0x100408, [(32, 16)], false, [], none, true, true, [⟨23, 0, .rw, "target_hi"⟩, ⟨27, 24, .rw, "wait_limit"⟩], 0x4000000⟩,
  ⟨"DRIP_CS_CTL", 0x10040C, [(32, 16)], false, [], none, true, true, [⟨0, 0, .wo, "arm"⟩, ⟨1, 1, .wo, "release"⟩], 0x0⟩,
  ⟨"DRIP_CS_STAT", 0x100410, [(32, 16)], false, [], none, false, true, [⟨2, 0, .ro, "state"⟩, ⟨6, 4, .ro, "holder"⟩, ⟨15, 8, .ro, "code"⟩, ⟨19, 16, .ro, "detail"⟩], 0x0⟩,
  ⟨"DRIP_CS_GEN", 0x100414, [(32, 16)], false, [], none, false, true, [⟨31, 0, .ro, "gen"⟩], 0x0⟩,
  ⟨"DRIP_CS_WHERE", 0x100418, [(32, 16)], false, [], none, false, true, [⟨27, 0, .ro, "where"⟩], 0x0⟩,
  ⟨"DRIP_CS_RSVD", 0x10041C, [(32, 16)], false, [], none, false, false, [⟨31, 0, .ro, "reserved"⟩], 0x0⟩,
  ⟨"DRIP_VIEW_REQ", 0x100600, [], false, [], none, true, false, [⟨1, 0, .wo, "buf"⟩, ⟨2, 2, .wo, "release"⟩, ⟨15, 8, .wo, "delay"⟩], 0x0⟩,
  ⟨"DRIP_VIEW_STAT", 0x100610, [(4, 4)], false, [], none, false, true, [⟨1, 0, .ro, "state"⟩, ⟨6, 4, .ro, "holder"⟩], 0x0⟩,
  ⟨"DRIP_VIEW_DLO", 0x100620, [(8, 4)], false, [], none, false, true, [⟨31, 0, .ro, "drip_lo"⟩], 0x0⟩,
  ⟨"DRIP_VIEW_DHI", 0x100624, [(8, 4)], false, [], none, false, true, [⟨23, 0, .ro, "drip_hi"⟩], 0x0⟩,
  ⟨"DRIP_VIEW_SEL", 0x100640, [(4, 5)], false, [], some 0, false, false, [⟨1, 0, .rw, "buf"⟩], 0x0⟩]

/-- The registers of block LOAD. -/
def regsLoad : List RegDef := [
  ⟨"LOAD_STAT", 0x200000, [], false, [], none, false, false, [⟨2, 0, .ro, "mode"⟩, ⟨4, 3, .ro, "source"⟩, ⟨5, 5, .ro, "fell_back"⟩, ⟨15, 8, .ro, "format"⟩, ⟨24, 16, .ro, "sections"⟩], 0x1⟩,
  ⟨"LOAD_ATT", 0x200010, [(8, 3)], false, [], none, false, false, [⟨7, 0, .ro, "code"⟩, ⟨15, 8, .ro, "reason"⟩, ⟨19, 16, .ro, "detail"⟩], 0x0⟩,
  ⟨"LOAD_ATT_WHERE", 0x200014, [(8, 3)], false, [], none, false, false, [⟨31, 0, .ro, "where"⟩], 0x0⟩,
  ⟨"LOAD_BUILD_LO", 0x200030, [], false, [], none, false, false, [⟨31, 0, .ro, "build"⟩], 0x0⟩,
  ⟨"LOAD_BUILD_HI", 0x200034, [], false, [], none, false, false, [⟨31, 0, .ro, "build"⟩], 0x0⟩,
  ⟨"LOAD_DIGEST", 0x200040, [(4, 8)], false, [], none, false, false, [⟨31, 0, .ro, "digest"⟩], 0x0⟩,
  ⟨"LOAD_OWNER", 0x200060, [(4, 8)], false, [], none, false, false, [⟨31, 0, .ro, "owner"⟩], 0x0⟩,
  ⟨"LOAD_SURVEY", 0x200080, [], false, [], none, false, false, [⟨2, 0, .ro, "fail_cause"⟩, ⟨3, 3, .ro, "done"⟩, ⟨19, 4, .ro, "key_fail"⟩], 0x0⟩,
  ⟨"LOAD_PINS", 0x200084, [], false, [], none, false, false, [⟨5, 0, .ro, "spi0"⟩, ⟨11, 6, .ro, "spi1"⟩, ⟨13, 12, .ro, "i2c"⟩, ⟨14, 14, .ro, "eeprom"⟩], 0x0⟩,
  ⟨"LOAD_BOARD_ID", 0x200088, [], false, [], none, false, false, [⟨31, 0, .ro, "id"⟩], 0x0⟩,
  ⟨"LOAD_LIMP_CFG", 0x200100, [], false, [], none, false, false, [⟨7, 0, .ro, "core_min"⟩, ⟨14, 8, .ro, "seal_min"⟩, ⟨19, 15, .ro, "fmt_min"⟩, ⟨25, 20, .ro, "hash_min"⟩, ⟨26, 26, .ro, "dram_fail"⟩], 0x4821820⟩,
  ⟨"LOAD_LIMP_BAY", 0x200104, [], false, [], none, false, false, [⟨11, 0, .rw, "limp_bay"⟩], 0x0⟩,
  ⟨"LOAD_LIMP_SESS", 0x200108, [], false, [], none, false, false, [⟨21, 0, .rw, "sess"⟩, ⟨31, 31, .rw, "en"⟩], 0x0⟩,
  ⟨"LOAD_LIMP_STAT", 0x20010C, [], false, [], none, false, false, [⟨2, 0, .ro, "cause"⟩], 0x0⟩,
  ⟨"LOAD_CTL", 0x200110, [], true, [], none, false, false, [⟨15, 0, .wo, "key"⟩, ⟨16, 16, .wo, "limp"⟩, ⟨17, 17, .wo, "cold"⟩], 0x0⟩,
  ⟨"LOAD_CTL_STAT", 0x200114, [], true, [], none, false, false, [⟨7, 0, .ro, "code"⟩], 0x0⟩,
  ⟨"LOAD_HO_SRC", 0x200200, [], false, [], none, false, false, [⟨1, 0, .rw, "src"⟩], 0x0⟩,
  ⟨"LOAD_HO_ADDR_LO", 0x200204, [], false, [], none, false, false, [⟨31, 0, .rw, "addr"⟩], 0x0⟩,
  ⟨"LOAD_HO_ADDR_HI", 0x200208, [], false, [], none, false, false, [⟨31, 0, .rw, "addr"⟩], 0x0⟩,
  ⟨"LOAD_HO_LEN", 0x20020C, [], false, [], none, false, false, [⟨28, 0, .rw, "len"⟩], 0x0⟩,
  ⟨"LOAD_HO_TGT_LO", 0x200210, [], false, [], none, false, false, [⟨31, 0, .rw, "target"⟩], 0x0⟩,
  ⟨"LOAD_HO_TGT_HI", 0x200214, [], false, [], none, false, false, [⟨23, 0, .rw, "target"⟩, ⟨27, 24, .rw, "wait_limit"⟩], 0x4000000⟩,
  ⟨"LOAD_HO_GO", 0x200218, [], false, [], none, false, false, [⟨0, 0, .wo, "go"⟩, ⟨1, 1, .wo, "cancel"⟩, ⟨2, 2, .wo, "enrol"⟩], 0x0⟩,
  ⟨"LOAD_HO_STAT", 0x20021C, [], false, [], none, false, false, [⟨2, 0, .ro, "state"⟩, ⟨15, 8, .ro, "code"⟩, ⟨23, 16, .ro, "reason"⟩, ⟨26, 24, .ro, "holder"⟩], 0x0⟩,
  ⟨"LOAD_HO_GEN", 0x200220, [], false, [], none, false, false, [⟨31, 0, .ro, "gen"⟩], 0x0⟩,
  ⟨"LOAD_HO_SKIP", 0x200224, [], false, [], none, false, false, [⟨31, 0, .rc, "count"⟩], 0x0⟩,
  ⟨"LOAD_CNT", 0x200300, [(4, 2)], false, [], none, false, false, [⟨31, 0, .rc, "count"⟩], 0x0⟩]

/-- The registers of block PORT. -/
def regsPort : List RegDef := [
  ⟨"PORT_MAC_CFG", 0x400000, [(4, 64)], false, [], none, false, false, [⟨1, 0, .st, "tag_mode"⟩, ⟨2, 2, .st, "untagged_en"⟩, ⟨14, 3, .st, "untagged_bay"⟩, ⟨18, 15, .st, "first_lane"⟩, ⟨20, 19, .st, "width"⟩, ⟨24, 21, .st, "mode"⟩, ⟨25, 25, .st, "link_en"⟩], 0x0⟩,
  ⟨"PORT_MAC_CFG64", 0x400100, [], false, [], none, false, false, [⟨1, 0, .st, "tag_mode"⟩, ⟨2, 2, .st, "untagged_en"⟩, ⟨14, 3, .st, "untagged_bay"⟩], 0x0⟩,
  ⟨"PORT_PFC_POOL", 0x400200, [(4, 32)], false, [], none, false, false, [⟨15, 0, .st, "xoff"⟩, ⟨31, 16, .st, "xon"⟩], 0xFFF0FFFF⟩,
  ⟨"PORT_CNT", 0x400300, [(4, 5)], false, [], none, false, false, [⟨31, 0, .rc, "count"⟩], 0x0⟩,
  ⟨"PORT_MAC_SA0", 0x400400, [(8, 64)], false, [], none, false, false, [⟨31, 0, .st, "sa_lo"⟩], 0x0⟩,
  ⟨"PORT_MAC_SA1", 0x400404, [(8, 64)], false, [], none, false, false, [⟨15, 0, .st, "sa_hi"⟩], 0x0⟩,
  ⟨"PORT_BAY0", 0x410000, [(8, 4096)], false, [], none, false, false, [⟨6, 0, .st, "mac"⟩, ⟨7, 7, .st, "enable"⟩, ⟨19, 8, .st, "tag"⟩], 0x0⟩,
  ⟨"PORT_BAY1", 0x410004, [(8, 4096)], false, [], none, false, false, [⟨9, 0, .st, "start"⟩, ⟨19, 10, .st, "recirc_start"⟩, ⟨24, 20, .st, "pool"⟩, ⟨25, 25, .st, "policy"⟩, ⟨28, 26, .st, "pfc_prio"⟩], 0x0⟩]

/-- The registers of block LANE. -/
def regsLane : List RegDef := [
  ⟨"LANE_STAT", 0x800000, [(4, 20)], false, [], none, false, false, [⟨1, 0, .ro, "state"⟩, ⟨3, 2, .ro, "fault"⟩, ⟨4, 4, .ro, "rx_inv"⟩, ⟨5, 5, .ro, "tx_inv"⟩, ⟨7, 6, .ro, "pos"⟩, ⟨8, 8, .ro, "align_fail"⟩, ⟨9, 9, .ro, "los"⟩, ⟨23, 16, .ro, "height"⟩], 0x0⟩,
  ⟨"LANE_CFG", 0x800080, [(4, 20)], false, [], none, false, false, [⟨1, 0, .st, "tx_pol"⟩, ⟨9, 2, .st, "margin_min"⟩], 0x50⟩,
  ⟨"LANE_TXDOWN", 0x800100, [(4, 64)], false, [], none, false, false, [⟨31, 0, .rc, "count"⟩], 0x0⟩]

/-- The registers of block PARS. -/
def regsPars : List RegDef := [
  ⟨"PARS_FAIL_CLASS", 0x1000000, [], false, [], none, false, false, [⟨2, 0, .st, "reject"⟩, ⟨5, 3, .st, "hop"⟩, ⟨8, 6, .st, "window"⟩, ⟨11, 9, .st, "trunc"⟩, ⟨14, 12, .st, "extract"⟩], 0x6DB6⟩,
  ⟨"PARS_FRAG_CFG", 0x1000040, [], false, [], none, false, false, [⟨2, 0, .st, "slow_class"⟩], 0x7⟩,
  ⟨"PARS_OUT", 0x1000084, [(4, 5)], false, [], none, false, false, [⟨31, 0, .rc, "count"⟩], 0x0⟩,
  ⟨"PARS_FRAG_USED", 0x10000C0, [], false, [], none, false, true, [⟨12, 0, .ro, "used"⟩], 0x0⟩,
  ⟨"PARS_FRAG_CNT", 0x10000C4, [(4, 5)], false, [], none, false, false, [⟨31, 0, .rc, "count"⟩], 0x0⟩,
  ⟨"PARS_P_W0", 0x1100000, [(256, 1024)], false, [], none, false, false, [⟨7, 0, .st, "sel_off"⟩, ⟨10, 8, .st, "sel_bit"⟩, ⟨15, 11, .st, "sel_width"⟩, ⟨16, 16, .st, "adv_mode"⟩, ⟨19, 17, .st, "mark"⟩, ⟨21, 20, .st, "frag"⟩], 0x0⟩,
  ⟨"PARS_P_W1", 0x1100004, [(256, 1024)], false, [], none, false, false, [⟨7, 0, .st, "adv_off"⟩, ⟨10, 8, .st, "adv_bit"⟩, ⟨15, 11, .st, "adv_width"⟩, ⟨19, 16, .st, "adv_scale"⟩, ⟨27, 20, .st, "adv_const"⟩], 0x0⟩,
  ⟨"PARS_P_DFLT", 0x1100008, [(256, 1024)], false, [], none, false, false, [⟨11, 0, .st, "dflt"⟩], 0x0⟩,
  ⟨"PARS_P_EDGE_V", 0x110000C, [(256, 1024), (8, 16)], false, [], none, false, false, [⟨15, 0, .st, "value"⟩, ⟨31, 16, .st, "mask"⟩], 0x0⟩,
  ⟨"PARS_P_EDGE_T", 0x1100010, [(256, 1024), (8, 16)], false, [], none, false, false, [⟨11, 0, .st, "target"⟩, ⟨12, 12, .st, "valid"⟩], 0x0⟩,
  ⟨"PARS_P_EXT", 0x110008C, [(256, 1024), (4, 4)], false, [], none, false, false, [⟨7, 0, .st, "src_off"⟩, ⟨10, 8, .st, "src_bit"⟩, ⟨18, 11, .st, "width"⟩, ⟨28, 19, .st, "key_lo"⟩], 0x0⟩,
  ⟨"PARS_P_RSVD", 0x110009C, [(256, 1024), (4, 25)], false, [], none, false, false, [], 0x0⟩]

/-- The registers of block CLAS. -/
def regsClas : List RegDef := [
  ⟨"CLAS_ROW_CMD", 0x1400000, [], true, [], none, false, false, [⟨14, 0, .wo, "row"⟩, ⟨17, 16, .wo, "op"⟩], 0x0⟩,
  ⟨"CLAS_ROW_STAT", 0x1400004, [], true, [], none, false, false, [⟨0, 0, .ro, "busy"⟩, ⟨15, 8, .ro, "code"⟩], 0x0⟩,
  ⟨"CLAS_MISS_CFG", 0x1400008, [], false, [], none, false, false, [⟨2, 0, .st, "miss_class"⟩], 0x5⟩,
  ⟨"CLAS_MISS_CNT", 0x140000C, [], false, [], none, false, false, [⟨31, 0, .rc, "count"⟩], 0x0⟩,
  ⟨"CLAS_EXC_CFG", 0x1400100, [(8, 8)], false, [], none, false, false, [⟨3, 0, .st, "gallery"⟩, ⟨7, 4, .st, "priority"⟩, ⟨11, 8, .st, "burst_log2"⟩, ⟨27, 12, .st, "domain"⟩], 0x880⟩,
  ⟨"CLAS_EXC_RATE", 0x1400104, [(8, 8)], false, [], none, false, false, [⟨23, 0, .st, "rate"⟩], 0x30D40⟩,
  ⟨"CLAS_EXC_DELIV", 0x1400200, [(8, 8)], false, [], none, false, false, [⟨31, 0, .rc, "count"⟩], 0x0⟩,
  ⟨"CLAS_EXC_DROP", 0x1400204, [(8, 8)], false, [], none, false, false, [⟨31, 0, .rc, "count"⟩], 0x0⟩,
  ⟨"CLAS_ROW_BUF", 0x1401000, [(4, 44)], true, [], none, false, false, [⟨31, 0, .rw, "data"⟩], 0x0⟩,
  ⟨"CLAS_ROW_VALID", 0x14010B0, [], true, [], none, false, false, [⟨0, 0, .rw, "valid"⟩], 0x0⟩,
  ⟨"CLAS_HASH_PROF", 0x1404000, [(128, 8), (4, 20)], false, [], none, false, false, [⟨31, 0, .st, "mask"⟩], 0x0⟩,
  ⟨"CLAS_HIT", 0x1408000, [(4, 1024)], false, [], none, false, false, [⟨31, 0, .w1c, "hit"⟩], 0x0⟩]

/-- The registers of block FWDT. -/
def regsFwdt : List RegDef := [
  ⟨"FWDT_SWEEP", 0x1800004, [], false, [], none, false, false, [⟨31, 0, .st, "period"⟩], 0x0⟩,
  ⟨"FWDT_HASH_SEED0", 0x1800008, [], false, [], none, false, false, [⟨31, 0, .ro, "seed"⟩], 0x1⟩,
  ⟨"FWDT_HASH_SEED1", 0x180000C, [], false, [], none, false, false, [⟨31, 0, .ro, "seed"⟩], 0x80000001⟩,
  ⟨"FWDT_ENTRIES", 0x1800010, [], false, [], none, false, true, [⟨20, 0, .ro, "valid"⟩], 0x0⟩,
  ⟨"FWDT_CNT", 0x1800100, [(4, 10)], false, [], none, false, false, [⟨31, 0, .rc, "count"⟩], 0x0⟩,
  ⟨"FWDT_DMA_ADDR_LO", 0x1801000, [], true, [], none, false, false, [⟨31, 0, .rw, "addr"⟩], 0x0⟩,
  ⟨"FWDT_DMA_ADDR_HI", 0x1801004, [], true, [], none, false, false, [⟨31, 0, .rw, "addr"⟩], 0x0⟩,
  ⟨"FWDT_DMA_CMD", 0x1801008, [], true, [], none, false, false, [⟨17, 0, .rw, "bucket"⟩, ⟨19, 18, .rw, "op"⟩], 0x0⟩,
  ⟨"FWDT_DMA_CNT", 0x180100C, [], true, [], none, false, false, [⟨12, 0, .rw, "count"⟩], 0x0⟩,
  ⟨"FWDT_DMA_GO", 0x1801010, [], true, [], none, false, false, [⟨0, 0, .wo, "go"⟩], 0x0⟩,
  ⟨"FWDT_DMA_STAT", 0x1801014, [], true, [], none, false, false, [⟨0, 0, .ro, "busy"⟩, ⟨15, 8, .ro, "code"⟩], 0x0⟩,
  ⟨"FWDT_LOCK_QRY", 0x1801020, [], true, [], none, false, false, [⟨17, 0, .wo, "bucket"⟩], 0x0⟩,
  ⟨"FWDT_LOCK_STAT", 0x1801024, [], true, [], none, false, true, [⟨0, 0, .ro, "locked"⟩, ⟨3, 1, .ro, "holder"⟩], 0x0⟩,
  ⟨"FWDT_BAY", 0x1810000, [(4, 4096)], false, [], none, false, false, [⟨11, 0, .st, "bd"⟩, ⟨12, 12, .st, "mode"⟩, ⟨13, 13, .st, "learn_en"⟩, ⟨14, 14, .st, "flood_en"⟩, ⟨15, 15, .st, "miss_act"⟩, ⟨27, 16, .st, "miss_bay"⟩], 0x0⟩]

/-- The registers of block LODE. -/
def regsLode : List RegDef := [
  ⟨"LODE_STAT", 0x1C00000, [], false, [], none, false, false, [⟨7, 0, .ro, "temp"⟩, ⟨17, 8, .ro, "wrate"⟩, ⟨30, 18, .ro, "updq"⟩], 0x3E800⟩,
  ⟨"LODE_WCURVE_CNT", 0x1C00004, [], false, [], none, false, false, [⟨4, 0, .ro, "points"⟩], 0x1⟩,
  ⟨"LODE_WCURVE", 0x1C00010, [(4, 16)], false, [], none, false, false, [⟨7, 0, .ro, "temp"⟩, ⟨25, 16, .ro, "rate"⟩], 0x3E80080⟩,
  ⟨"LODE_CNT", 0x1C00100, [(4, 9)], false, [], none, false, false, [⟨31, 0, .rc, "count"⟩], 0x0⟩,
  ⟨"LODE_BANK0", 0x1C10000, [(8, 256)], false, [], none, false, false, [⟨7, 0, .st, "tag"⟩, ⟨15, 8, .st, "mask"⟩, ⟨16, 16, .st, "cls"⟩, ⟨17, 17, .st, "enable"⟩], 0x0⟩,
  ⟨"LODE_BANK1", 0x1C10004, [(8, 256)], false, [], none, false, false, [⟨15, 0, .st, "upd_gal"⟩], 0x1⟩,
  ⟨"LODE_HROW", 0x1C20000, [(4, 20)], true, [3, 4], none, false, false, [⟨31, 0, .rw, "data"⟩], 0x0⟩,
  ⟨"LODE_HCMD", 0x1C20050, [], true, [3, 4], none, false, false, [⟨17, 0, .rw, "row"⟩, ⟨21, 18, .rw, "op"⟩, ⟨29, 22, .rw, "pf"⟩], 0x0⟩,
  ⟨"LODE_HGO", 0x1C20054, [], true, [3, 4], none, false, false, [⟨0, 0, .wo, "go"⟩], 0x0⟩,
  ⟨"LODE_HSTAT", 0x1C20058, [], true, [], none, false, false, [⟨0, 0, .ro, "busy"⟩, ⟨15, 8, .ro, "code"⟩], 0x0⟩,
  ⟨"LODE_HRES", 0x1C20060, [(4, 4)], true, [], none, false, false, [⟨31, 0, .ro, "result"⟩], 0x0⟩,
  ⟨"LODE_HIT", 0x1C40000, [(4, 8192)], false, [], none, false, false, [⟨31, 0, .w1c, "hit"⟩], 0x0⟩]

/-- The registers of block LARD. -/
def regsLard : List RegDef := [
  ⟨"LARD_POOL_CFG0", 0x2000000, [(8, 32)], false, [], none, false, false, [⟨19, 0, .st, "min_cells"⟩, ⟨20, 20, .st, "scrub"⟩], 0x0⟩,
  ⟨"LARD_POOL_CFG1", 0x2000004, [(8, 32)], false, [], none, false, false, [⟨19, 0, .st, "max_cells"⟩], 0x0⟩,
  ⟨"LARD_POOL_USE", 0x2000100, [(4, 32)], false, [], none, false, true, [⟨19, 0, .ro, "used"⟩], 0x0⟩,
  ⟨"LARD_FREE", 0x2000180, [], false, [], none, false, true, [⟨19, 0, .ro, "free"⟩], 0x0⟩,
  ⟨"LARD_RESERVE", 0x2000184, [], false, [], none, false, true, [⟨19, 0, .ro, "reserve"⟩], 0x0⟩,
  ⟨"LARD_DFREE", 0x2000200, [], false, [], none, false, false, [⟨31, 0, .rc, "count"⟩], 0x0⟩,
  ⟨"LARD_NOT_HOLDER", 0x2000204, [], false, [], none, false, false, [⟨31, 0, .rc, "count"⟩], 0x0⟩,
  ⟨"LARD_CHAIN_BAD", 0x2000208, [], false, [], none, false, false, [⟨31, 0, .rc, "count"⟩], 0x0⟩,
  ⟨"LARD_RETIRE_FREED", 0x200020C, [], false, [], none, false, false, [⟨31, 0, .rc, "count"⟩], 0x0⟩,
  ⟨"LARD_FAIL_EMPTY", 0x2000300, [(4, 32)], false, [], none, false, false, [⟨31, 0, .rc, "count"⟩], 0x0⟩,
  ⟨"LARD_CMD", 0x2001000, [(4, 4)], true, [3, 4], none, false, false, [⟨31, 0, .rw, "data"⟩], 0x0⟩,
  ⟨"LARD_CMD_GO", 0x2001010, [], true, [3, 4], none, false, false, [⟨0, 0, .wo, "go"⟩], 0x0⟩,
  ⟨"LARD_CMD_STAT", 0x2001014, [], true, [], none, false, false, [⟨0, 0, .ro, "busy"⟩, ⟨15, 8, .ro, "code"⟩], 0x0⟩,
  ⟨"LARD_CMD_RES", 0x2001018, [], true, [], none, false, false, [⟨31, 0, .ro, "chain"⟩], 0x0⟩,
  ⟨"LARD_CELL_QRY", 0x2001020, [], true, [], none, false, false, [⟨19, 0, .wo, "index"⟩], 0x0⟩,
  ⟨"LARD_CELL_LNK_LO", 0x2001024, [], true, [], none, false, true, [⟨31, 0, .ro, "lo"⟩], 0x0⟩,
  ⟨"LARD_CELL_LNK_HI", 0x2001028, [], true, [], none, false, true, [⟨31, 0, .ro, "hi"⟩], 0x0⟩]

/-- The registers of block SESS. -/
def regsSess : List RegDef := [
  ⟨"SESS_CFG", 0x2400000, [], false, [], none, false, false, [⟨4, 0, .st, "rekey_log2"⟩, ⟨6, 5, .st, "max_pass"⟩, ⟨9, 7, .st, "limit_class"⟩, ⟨12, 10, .st, "fail_class"⟩, ⟨20, 13, .st, "egr_wait"⟩], 0x81B37⟩,
  ⟨"SESS_REC_MAX", 0x2400008, [], false, [], none, false, false, [⟨14, 0, .st, "rec_max"⟩], 0x4000⟩,
  ⟨"SESS_ACTIVE", 0x2400010, [], false, [], none, false, true, [⟨22, 0, .ro, "active"⟩], 0x0⟩,
  ⟨"SESS_CNT", 0x2400040, [(4, 11)], false, [], none, false, false, [⟨31, 0, .rc, "count"⟩], 0x0⟩,
  ⟨"SESS_CC0", 0x2400100, [(16, 8)], false, [], none, false, false, [⟨1, 0, .st, "algo"⟩, ⟨7, 2, .st, "init_cwnd"⟩, ⟨8, 8, .st, "ack_segs"⟩], 0x129⟩,
  ⟨"SESS_CC1", 0x2400104, [(16, 8)], false, [], none, false, false, [⟨15, 0, .st, "rto_min"⟩, ⟨31, 16, .st, "rto_max"⟩], 0xEA630D4⟩,
  ⟨"SESS_CC2", 0x2400108, [(16, 8)], false, [], none, false, false, [⟨15, 0, .st, "ka_idle"⟩, ⟨19, 16, .st, "max_retx"⟩, ⟨31, 20, .st, "ooo_limit"⟩], 0x4080000⟩,
  ⟨"SESS_CC3", 0x240010C, [(16, 8)], false, [], none, false, false, [⟨15, 0, .st, "snd_limit"⟩], 0x200⟩,
  ⟨"SESS_LSN0", 0x2401000, [(8, 256)], false, [], none, false, false, [⟨11, 0, .st, "bay"⟩, ⟨27, 12, .st, "port"⟩, ⟨28, 28, .st, "enable"⟩, ⟨29, 29, .st, "tls"⟩], 0x0⟩,
  ⟨"SESS_LSN1", 0x2401004, [(8, 256)], false, [], none, false, false, [⟨15, 0, .st, "hs_task"⟩, ⟨19, 16, .st, "hs_prio"⟩, ⟨22, 20, .st, "profile"⟩, ⟨31, 23, .st, "mss_64"⟩], 0xB080000⟩,
  ⟨"SESS_CMD", 0x2402000, [(4, 16)], true, [2, 3], none, false, false, [⟨31, 0, .rw, "data"⟩], 0x0⟩,
  ⟨"SESS_CMD_GO", 0x2402040, [], true, [2, 3], none, false, false, [⟨0, 0, .wo, "go"⟩], 0x0⟩,
  ⟨"SESS_CMD_STAT", 0x2402044, [], true, [], none, false, false, [⟨0, 0, .ro, "busy"⟩, ⟨15, 8, .ro, "code"⟩], 0x0⟩,
  ⟨"SESS_CMD_RES", 0x2402048, [], true, [], none, false, false, [⟨31, 0, .ro, "result"⟩], 0x0⟩]

/-- The registers of block CIPH. -/
def regsCiph : List RegDef := [
  ⟨"CIPH_MSEC_MAC0", 0x2800000, [(8, 64)], false, [], none, false, false, [⟨0, 0, .st, "enable"⟩, ⟨1, 1, .st, "validate"⟩, ⟨3, 2, .st, "conf_off"⟩, ⟨4, 4, .st, "encrypt"⟩, ⟨5, 5, .st, "send_sci"⟩, ⟨6, 6, .st, "replay"⟩, ⟨8, 7, .st, "tx_an"⟩], 0x72⟩,
  ⟨"CIPH_MSEC_MAC1", 0x2800004, [(8, 64)], false, [], none, false, false, [⟨31, 0, .st, "window"⟩], 0x0⟩,
  ⟨"CIPH_SA_CTL", 0x2810000, [(128, 1024)], false, [], none, false, false, [⟨5, 0, .st, "mac"⟩, ⟨6, 6, .st, "dir"⟩, ⟨8, 7, .st, "sc"⟩, ⟨10, 9, .st, "an"⟩, ⟨11, 11, .st, "valid"⟩, ⟨12, 12, .w1c, "pn_warn"⟩], 0x0⟩,
  ⟨"CIPH_SA_SCI", 0x2810004, [(128, 1024), (4, 2)], false, [], none, false, false, [⟨31, 0, .st, "sci"⟩], 0x0⟩,
  ⟨"CIPH_SA_RSV0", 0x281000C, [(128, 1024)], false, [], none, false, false, [⟨31, 0, .ro, "reserved"⟩], 0x0⟩,
  ⟨"CIPH_SA_SSCI", 0x2810010, [(128, 1024), (4, 4)], false, [], none, false, false, [⟨31, 0, .st, "ssci_salt"⟩], 0x0⟩,
  ⟨"CIPH_SA_SAK", 0x2810020, [(128, 1024), (4, 8)], false, [], none, false, false, [⟨31, 0, .st, "sak"⟩], 0x0⟩,
  ⟨"CIPH_SA_INITPN", 0x2810040, [(128, 1024)], false, [], none, false, false, [⟨31, 0, .st, "init_pn"⟩], 0x1⟩,
  ⟨"CIPH_SA_INITPN_HI", 0x2810044, [(128, 1024)], false, [], none, false, false, [⟨31, 0, .st, "init_pn"⟩], 0x0⟩,
  ⟨"CIPH_SA_NEXTPN", 0x2810048, [(128, 1024), (4, 2)], false, [], none, false, false, [⟨31, 0, .ro, "next_pn"⟩], 0x0⟩,
  ⟨"CIPH_SA_WARN_LO", 0x2810050, [(128, 1024)], false, [], none, false, false, [⟨31, 0, .st, "pn_warn_at"⟩], 0x0⟩,
  ⟨"CIPH_SA_WARN_HI", 0x2810054, [(128, 1024)], false, [], none, false, false, [⟨31, 0, .st, "pn_warn_at"⟩], 0xC0000000⟩,
  ⟨"CIPH_SA_RSV1", 0x2810058, [(128, 1024), (4, 10)], false, [], none, false, false, [⟨31, 0, .ro, "reserved"⟩], 0x0⟩,
  ⟨"CIPH_MSEC_CNT", 0x2830000, [(32, 64), (4, 5)], false, [], none, false, false, [⟨31, 0, .rc, "count"⟩], 0x0⟩,
  ⟨"CIPH_MSEC_CNT_RSV", 0x2830014, [(32, 64), (4, 3)], false, [], none, false, false, [⟨31, 0, .ro, "reserved"⟩], 0x0⟩]

/-- The registers of block DISP. -/
def regsDisp : List RegDef := [
  ⟨"DISP_CFG", 0x3000000, [], false, [], none, false, false, [⟨3, 0, .st, "retry_limit"⟩, ⟨11, 4, .st, "keeper_chan"⟩, ⟨19, 12, .st, "orphan_table"⟩], 0xEFFF1⟩,
  ⟨"DISP_TRACE_CFG", 0x3000004, [], false, [], none, false, false, [⟨0, 0, .rw, "en"⟩, ⟨15, 8, .rw, "kinds"⟩], 0x7F00⟩,
  ⟨"DISP_TRACE_BASE_LO", 0x3000008, [], false, [], none, false, false, [⟨31, 0, .ro, "base"⟩], 0x0⟩,
  ⟨"DISP_TRACE_BASE_HI", 0x300000C, [], false, [], none, false, false, [⟨7, 0, .ro, "base"⟩], 0x0⟩,
  ⟨"DISP_TRACE_WP", 0x3000010, [], false, [], none, false, false, [⟨15, 0, .ro, "next"⟩, ⟨31, 16, .ro, "wraps"⟩], 0x0⟩,
  ⟨"DISP_GAL_STAT", 0x3000100, [(4, 16)], false, [], none, false, true, [⟨12, 0, .ro, "queued"⟩, ⟨22, 16, .ro, "pending"⟩, ⟨31, 24, .ro, "orph_next"⟩], 0x0⟩,
  ⟨"DISP_HOLD", 0x3000200, [(4, 2)], false, [], none, false, true, [⟨19, 0, .ro, "held"⟩], 0x0⟩,
  ⟨"DISP_CNT", 0x3000300, [(4, 9)], false, [], none, false, false, [⟨31, 0, .rc, "count"⟩], 0x0⟩]

/-- The registers of block LTCH. -/
def regsLtch : List RegDef := [
  ⟨"LTCH_GRP0", 0x3400000, [(8, 64)], false, [], none, false, false, [⟨15, 0, .st, "gal_mask"⟩, ⟨23, 16, .st, "thr_mask"⟩, ⟨24, 24, .st, "host"⟩, ⟨25, 25, .st, "peer"⟩, ⟨26, 26, .st, "policy"⟩], 0x1FFFFFF⟩,
  ⟨"LTCH_GRP1", 0x3400004, [(8, 64)], false, [], none, false, false, [⟨15, 0, .st, "timeout"⟩, ⟨31, 16, .st, "hold_limit"⟩], 0x3E80040⟩,
  ⟨"LTCH_CNT", 0x3400200, [(4, 12)], false, [], none, false, false, [⟨31, 0, .rc, "count"⟩], 0x0⟩,
  ⟨"LTCH_HOST_SEL", 0x3400400, [], true, [3, 4], none, false, false, [⟨11, 0, .rw, "latch"⟩], 0x0⟩,
  ⟨"LTCH_HOST_ACQ", 0x3400404, [], true, [], none, false, true, [⟨7, 0, .ro, "code"⟩], 0x0⟩,
  ⟨"LTCH_HOST_TRY", 0x3400408, [], true, [], none, false, true, [⟨7, 0, .ro, "code"⟩], 0x0⟩,
  ⟨"LTCH_HOST_REL", 0x340040C, [], true, [3, 4], none, false, false, [⟨1, 0, .wo, "op"⟩], 0x0⟩,
  ⟨"LTCH_HOST_RSTAT", 0x3400410, [], true, [], none, false, false, [⟨7, 0, .ro, "code"⟩], 0x0⟩,
  ⟨"LTCH_STAT", 0x3410000, [(4, 4096)], false, [], none, false, true, [⟨31, 0, .ro, "status"⟩], 0x0⟩]

/-- The registers of block GALL. -/
def regsGall : List RegDef := [
  ⟨"GALL_CORE_MAP", 0x3800000, [(262144, 16)], false, [], none, false, true, [⟨31, 0, .ro, "phys"⟩], 0x76543210⟩,
  ⟨"GALL_CORE_STAT", 0x3800004, [(262144, 16)], false, [], none, false, true, [⟨8, 0, .ro, "retired"⟩, ⟨15, 12, .ro, "spare"⟩, ⟨19, 16, .ro, "active"⟩], 0x88000⟩,
  ⟨"GALL_RETIRE_CNT", 0x3800008, [(262144, 16)], false, [], none, false, false, [⟨31, 0, .ro, "count"⟩], 0x0⟩,
  ⟨"GALL_CFG", 0x3800010, [(262144, 16)], false, [], none, false, false, [⟨0, 0, .st, "still_en"⟩, ⟨1, 1, .st, "still_mode"⟩, ⟨9, 2, .st, "still_period"⟩, ⟨13, 10, .st, "keeper_tick"⟩], 0x1041⟩,
  ⟨"GALL_STILL", 0x3800020, [(262144, 16)], false, [], none, false, true, [⟨8, 0, .ro, "still"⟩], 0x0⟩,
  ⟨"GALL_STILL_CNT", 0x3800024, [(262144, 16)], false, [], none, false, false, [⟨31, 0, .rc, "count"⟩], 0x0⟩,
  ⟨"GALL_SEV", 0x3800030, [(262144, 16)], false, [], none, false, false, [⟨7, 0, .wo, "threads"⟩, ⟨10, 8, .wo, "core"⟩, ⟨11, 11, .wo, "all"⟩], 0x0⟩,
  ⟨"GALL_CORE_CTL", 0x3800040, [(262144, 16)], false, [], none, false, false, [⟨0, 0, .wo, "retire"⟩, ⟨4, 1, .wo, "phys"⟩], 0x0⟩,
  ⟨"GALL_THR_CTL", 0x3800044, [(262144, 16)], true, [], none, false, false, [⟨2, 0, .wo, "core"⟩, ⟨5, 3, .wo, "thread"⟩, ⟨7, 6, .wo, "op"⟩], 0x0⟩,
  ⟨"GALL_THR_CTL_STAT", 0x3800048, [(262144, 16)], true, [], none, false, false, [⟨7, 0, .ro, "code"⟩], 0x0⟩,
  ⟨"GALL_THR_STAT", 0x3800100, [(262144, 16), (4, 64)], false, [], none, false, true, [⟨2, 0, .ro, "state"⟩, ⟨5, 3, .ro, "wait"⟩, ⟨6, 6, .ro, "park"⟩, ⟨7, 7, .ro, "keeper"⟩, ⟨31, 16, .ro, "reset_gen"⟩], 0x0⟩,
  ⟨"GALL_FAULT_PC", 0x3800200, [(262144, 16), (8, 64)], false, [], none, false, false, [⟨31, 0, .ro, "pc"⟩], 0x0⟩,
  ⟨"GALL_FAULT_CL", 0x3800204, [(262144, 16), (8, 64)], false, [], none, false, false, [⟨7, 0, .ro, "class"⟩, ⟨15, 8, .ro, "opcode"⟩], 0x0⟩,
  ⟨"GALL_CHAN", 0x3801000, [(262144, 16), (4, 256)], false, [], none, false, false, [⟨0, 0, .st, "enable"⟩, ⟨3, 1, .st, "rx_core"⟩, ⟨6, 4, .st, "rx_thread"⟩, ⟨7, 7, .st, "local"⟩], 0x0⟩,
  ⟨"GALL_CHAN_STAT", 0x3801400, [(262144, 16), (4, 256)], false, [], none, false, true, [⟨2, 0, .ro, "fill"⟩, ⟨9, 3, .ro, "waiters"⟩], 0x0⟩]

/-- The registers of block SEAL. -/
def regsSeal : List RegDef := [
  ⟨"SEAL_CFG", 0x4000000, [], false, [], none, false, false, [⟨6, 0, .st, "hs_reserve"⟩, ⟨7, 7, .st, "confirm_neg"⟩, ⟨23, 8, .st, "kat_period"⟩], 0x3E80C⟩,
  ⟨"SEAL_KEYSTORE", 0x4000004, [], false, [], none, false, false, [⟨16, 0, .ro, "slots"⟩], 0x0⟩,
  ⟨"SEAL_POOL_STAT", 0x4000008, [], false, [], none, false, true, [⟨6, 0, .ro, "active"⟩, ⟨11, 8, .ro, "spares"⟩, ⟨27, 16, .ro, "queued"⟩], 0x860⟩,
  ⟨"SEAL_RETIRE_CNT", 0x400000C, [], false, [], none, false, false, [⟨31, 0, .ro, "count"⟩], 0x0⟩,
  ⟨"SEAL_ENG_CTL", 0x4000010, [], true, [], none, false, false, [⟨6, 0, .wo, "eng"⟩, ⟨7, 7, .wo, "retire"⟩], 0x0⟩,
  ⟨"SEAL_ENG_CTL_STAT", 0x4000014, [], true, [], none, false, false, [⟨7, 0, .ro, "code"⟩], 0x0⟩,
  ⟨"SEAL_HASH_STAT", 0x4000018, [], false, [], none, false, true, [⟨5, 0, .ro, "active"⟩], 0x20⟩,
  ⟨"SEAL_SLOT_QRY", 0x4000020, [], true, [], none, false, false, [⟨15, 0, .wo, "slot"⟩], 0x0⟩,
  ⟨"SEAL_SLOT_CTL", 0x4000024, [], true, [], none, false, false, [⟨15, 0, .wo, "slot"⟩, ⟨17, 16, .wo, "op"⟩], 0x0⟩,
  ⟨"SEAL_SLOT_CTL_STAT", 0x4000028, [], true, [], none, false, false, [⟨7, 0, .ro, "code"⟩], 0x0⟩,
  ⟨"SEAL_SLOT_W", 0x4000030, [(4, 8)], true, [], none, false, true, [⟨31, 0, .ro, "word"⟩], 0x0⟩,
  ⟨"SEAL_ENG_STAT", 0x4000100, [(4, 104)], false, [], none, false, true, [⟨1, 0, .ro, "state"⟩, ⟨3, 2, .ro, "jobs"⟩, ⟨7, 4, .ro, "cause"⟩, ⟨8, 8, .ro, "hs"⟩], 0x0⟩,
  ⟨"SEAL_CNT", 0x4000300, [(4, 10)], false, [], none, false, false, [⟨31, 0, .rc, "count"⟩], 0x0⟩,
  ⟨"SEAL_POLICY", 0x4000400, [(4, 256)], false, [], none, false, false, [⟨4, 0, .st, "ops"⟩, ⟨31, 16, .st, "gal_mask"⟩], 0x0⟩,
  ⟨"SEAL_XPORT_PUB", 0x4001000, [(4, 392)], false, [], none, false, true, [⟨31, 0, .ro, "key"⟩], 0x0⟩]

/-- The registers of block FMTE. -/
def regsFmte : List RegDef := [
  ⟨"FMTE_CFG", 0x4400000, [], false, [], none, false, false, [⟨0, 0, .st, "cross_check"⟩, ⟨16, 1, .st, "kat_period"⟩], 0x7D0⟩,
  ⟨"FMTE_POOL_STAT", 0x4400004, [], false, [], none, false, true, [⟨4, 0, .ro, "active"⟩, ⟨9, 8, .ro, "spares"⟩, ⟨26, 16, .ro, "queued"⟩], 0x210⟩,
  ⟨"FMTE_RETIRE_CNT", 0x4400008, [], false, [], none, false, false, [⟨31, 0, .ro, "count"⟩], 0x0⟩,
  ⟨"FMTE_ENG_CTL", 0x4400010, [], true, [], none, false, false, [⟨4, 0, .wo, "eng"⟩, ⟨5, 5, .wo, "retire"⟩], 0x0⟩,
  ⟨"FMTE_ENG_CTL_STAT", 0x4400014, [], true, [], none, false, false, [⟨7, 0, .ro, "code"⟩], 0x0⟩,
  ⟨"FMTE_ENG_STAT", 0x4400100, [(4, 18)], false, [], none, false, true, [⟨1, 0, .ro, "state"⟩, ⟨3, 2, .ro, "jobs"⟩, ⟨7, 4, .ro, "cause"⟩], 0x0⟩,
  ⟨"FMTE_CNT", 0x4400200, [(4, 5)], false, [], none, false, false, [⟨31, 0, .rc, "count"⟩], 0x0⟩,
  ⟨"FMTE_REASON", 0x4400284, [(4, 15)], false, [], none, false, false, [⟨31, 0, .rc, "count"⟩], 0x0⟩,
  ⟨"FMTE_PROG", 0x4410000, [(16, 256), (4, 4)], false, [], none, false, false, [⟨31, 0, .st, "header"⟩], 0x0⟩,
  ⟨"FMTE_CUR", 0x4420000, [(4, 1000)], false, [], none, false, false, [⟨31, 0, .st, "entry"⟩], 0x0⟩,
  ⟨"FMTE_EBCDIC", 0x4430000, [(4, 64)], false, [], none, false, false, [⟨31, 0, .st, "map"⟩], 0x0⟩,
  ⟨"FMTE_CONST", 0x4440000, [(4, 4096)], false, [], none, false, false, [⟨31, 0, .st, "pool"⟩], 0x0⟩,
  ⟨"FMTE_DICT", 0x4500000, [(4, 16384)], false, [], none, false, false, [⟨31, 0, .st, "entry"⟩], 0x0⟩,
  ⟨"FMTE_NAME", 0x4600000, [(4, 65536)], false, [], none, false, false, [⟨31, 0, .st, "name"⟩], 0x0⟩,
  ⟨"FMTE_STEP", 0x4700000, [(4, 32768)], false, [], none, false, false, [⟨31, 0, .st, "step"⟩], 0x0⟩]

/-- The registers of block BOOK. -/
def regsBook : List RegDef := [
  ⟨"BOOK_CFG", 0x4800000, [], false, [], none, false, false, [⟨1, 0, .st, "export_tgt"⟩, ⟨13, 2, .st, "export_bay"⟩, ⟨21, 14, .st, "resend"⟩], 0x40000⟩,
  ⟨"BOOK_EXP_DMAC_LO", 0x4800004, [], false, [], none, false, false, [⟨31, 0, .st, "mac"⟩], 0x0⟩,
  ⟨"BOOK_EXP_DMAC_HI", 0x4800008, [], false, [], none, false, false, [⟨15, 0, .st, "mac"⟩], 0x0⟩,
  ⟨"BOOK_RING", 0x480000C, [], false, [], none, false, false, [⟨5, 0, .ro, "ring_log2"⟩], 0x1A⟩,
  ⟨"BOOK_WP_LO", 0x4800010, [], false, [], none, false, true, [⟨31, 0, .ro, "wp"⟩], 0x0⟩,
  ⟨"BOOK_WP_HI", 0x4800014, [], false, [], none, false, true, [⟨31, 0, .ro, "wp"⟩], 0x0⟩,
  ⟨"BOOK_EXP_LO", 0x4800018, [], false, [], none, false, true, [⟨31, 0, .ro, "exp"⟩], 0x0⟩,
  ⟨"BOOK_EXP_HI", 0x480001C, [], false, [], none, false, true, [⟨31, 0, .ro, "exp"⟩], 0x0⟩,
  ⟨"BOOK_ACK_LO", 0x4800020, [], false, [], none, false, false, [⟨31, 0, .rw, "ack"⟩], 0x0⟩,
  ⟨"BOOK_ACK_HI", 0x4800024, [], false, [], none, false, false, [⟨31, 0, .rw, "ack"⟩], 0x0⟩,
  ⟨"BOOK_SRACC", 0x4800030, [], false, [], none, false, false, [⟨15, 0, .st, "tally_gal"⟩, ⟨20, 16, .st, "cal_masters"⟩], 0xCFFFF⟩,
  ⟨"BOOK_SRCMD", 0x4800100, [(4, 12)], true, [3, 4], none, false, false, [⟨31, 0, .rw, "data"⟩], 0x0⟩,
  ⟨"BOOK_SRCMD_GO", 0x4800140, [], true, [3, 4], none, false, false, [⟨0, 0, .wo, "go"⟩], 0x0⟩,
  ⟨"BOOK_SRCMD_STAT", 0x4800144, [], true, [], none, false, false, [⟨0, 0, .ro, "busy"⟩, ⟨15, 8, .ro, "code"⟩], 0x0⟩,
  ⟨"BOOK_SRCMD_RES", 0x4800150, [(4, 8)], true, [], none, false, false, [⟨31, 0, .ro, "result"⟩], 0x0⟩,
  ⟨"BOOK_CNT", 0x4800200, [(4, 6)], false, [], none, false, false, [⟨31, 0, .rc, "count"⟩], 0x0⟩]

/-- The registers of block EGRS. -/
def regsEgrs : List RegDef := [
  ⟨"EGRS_HOLE_CFG", 0x4C00000, [], false, [], none, false, false, [⟨14, 0, .st, "hole_timeout"⟩], 0x1000⟩,
  ⟨"EGRS_HOLE_SKIP", 0x4C00010, [], false, [], none, false, false, [⟨31, 0, .rc, "count"⟩], 0x0⟩,
  ⟨"EGRS_LATE", 0x4C00014, [], false, [], none, false, false, [⟨31, 0, .rc, "count"⟩], 0x0⟩,
  ⟨"EGRS_QDROP", 0x4C00018, [], false, [], none, false, false, [⟨31, 0, .rc, "count"⟩], 0x0⟩,
  ⟨"EGRS_WAITING", 0x4C00020, [], false, [], none, false, true, [⟨19, 0, .ro, "waiting"⟩], 0x0⟩,
  ⟨"EGRS_DOM_QRY", 0x4C00040, [], true, [], none, false, false, [⟨15, 0, .wo, "domain"⟩], 0x0⟩,
  ⟨"EGRS_DOM_NEXT", 0x4C00044, [], true, [], none, false, true, [⟨23, 0, .ro, "next"⟩, ⟨24, 24, .ro, "hole"⟩], 0x0⟩,
  ⟨"EGRS_BAY", 0x4C10000, [(4, 4096)], false, [], none, false, false, [⟨7, 0, .st, "quantum"⟩, ⟨19, 8, .st, "qlimit"⟩, ⟨22, 20, .st, "prio"⟩], 0x10018⟩]

/-- The registers of block ARBS. -/
def regsArbs : List RegDef := [
  ⟨"ARBS_QRY", 0x5000000, [], true, [], none, false, false, [⟨5, 0, .wo, "arb"⟩, ⟨12, 8, .wo, "req"⟩, ⟨16, 16, .wo, "clear"⟩], 0x0⟩,
  ⟨"ARBS_QRY_GRANT_LO", 0x5000004, [], true, [], none, false, false, [⟨31, 0, .ro, "grants"⟩], 0x0⟩,
  ⟨"ARBS_QRY_GRANT_HI", 0x5000008, [], true, [], none, false, false, [⟨15, 0, .ro, "grants"⟩], 0x0⟩,
  ⟨"ARBS_QRY_WAIT_LO", 0x500000C, [], true, [], none, false, false, [⟨31, 0, .ro, "wait"⟩], 0x0⟩,
  ⟨"ARBS_QRY_WAIT_HI", 0x5000010, [], true, [], none, false, false, [⟨15, 0, .ro, "wait"⟩], 0x0⟩,
  ⟨"ARBS_QRY_MAX", 0x5000014, [], true, [], none, false, false, [⟨31, 0, .ro, "longest"⟩], 0x0⟩,
  ⟨"ARBS_QRY_CODE", 0x5000018, [], true, [], none, false, false, [⟨7, 0, .ro, "code"⟩], 0x0⟩,
  ⟨"ARBS_WIN", 0x5000100, [(4, 33)], false, [], none, false, false, [⟨15, 0, .st, "win_m1"⟩], 0x3FF⟩,
  ⟨"ARBS_QUOTA", 0x5001000, [(128, 33), (4, 32)], false, [], none, false, false, [⟨16, 0, .st, "quota"⟩], 0x0⟩]

/-- The registers of block DRAM. -/
def regsDram : List RegDef := [
  ⟨"DRAM_GEOM", 0x5400000, [], false, [], none, false, false, [⟨1, 0, .ro, "rate"⟩, ⟨2, 2, .ro, "density"⟩, ⟨3, 3, .ro, "ranks"⟩, ⟨4, 4, .ro, "topo"⟩, ⟨15, 8, .ro, "present"⟩, ⟨23, 16, .ro, "live"⟩], 0x0⟩,
  ⟨"DRAM_HASH_LO", 0x5400010, [(8, 6)], false, [], none, false, false, [⟨31, 0, .ro, "mask"⟩], 0x0⟩,
  ⟨"DRAM_HASH_HI", 0x5400014, [(8, 6)], false, [], none, false, false, [⟨15, 0, .ro, "mask"⟩], 0x0⟩,
  ⟨"DRAM_RGN_START", 0x5400100, [(16, 8)], false, [], none, false, false, [⟨19, 0, .ro, "start"⟩], 0x0⟩,
  ⟨"DRAM_RGN_SIZE", 0x5400104, [(16, 8)], false, [], none, false, false, [⟨19, 0, .ro, "size"⟩], 0x0⟩,
  ⟨"DRAM_RGN_CHANS", 0x5400108, [(16, 8)], false, [], none, false, false, [⟨7, 0, .ro, "chans"⟩], 0x0⟩,
  ⟨"DRAM_RGN_PARK", 0x540010C, [(16, 8)], false, [2, 3], none, false, false, [⟨0, 0, .rw, "park"⟩], 0x0⟩,
  ⟨"DRAM_SCHED", 0x5400200, [], false, [], none, false, false, [⟨7, 0, .st, "age_cap"⟩, ⟨14, 8, .st, "wq_hi"⟩, ⟨22, 16, .st, "wq_lo"⟩], 0x103014⟩,
  ⟨"DRAM_SCRUB", 0x5400204, [], false, [], none, false, false, [⟨7, 0, .st, "scrub_hours"⟩, ⟨23, 8, .st, "ce_thresh"⟩], 0x10018⟩,
  ⟨"DRAM_SR", 0x5400208, [], false, [], none, false, false, [⟨15, 0, .st, "sr_idle"⟩], 0x400⟩,
  ⟨"DRAM_CH_STAT", 0x5401000, [(524288, 8)], false, [], none, false, false, [⟨2, 0, .ro, "state"⟩, ⟨7, 4, .ro, "cause"⟩, ⟨8, 8, .ro, "sub"⟩, ⟨14, 9, .ro, "dq"⟩, ⟨17, 16, .ro, "kind"⟩], 0x0⟩,
  ⟨"DRAM_CH_CNT", 0x5401100, [(524288, 8), (4, 11)], false, [], none, false, false, [⟨31, 0, .rc, "count"⟩], 0x0⟩,
  ⟨"DRAM_TRN", 0x5401200, [(524288, 8), (4, 80)], false, [], none, false, false, [⟨31, 0, .ro, "train"⟩], 0x0⟩,
  ⟨"DRAM_DEV_CE", 0x5401400, [(524288, 8), (4, 40)], false, [], none, false, false, [⟨15, 0, .ro, "count"⟩], 0x0⟩]

/-- The registers of block HOST. -/
def regsHost : List RegDef := [
  ⟨"HOST_VER", 0x5800000, [], false, [], none, false, true, [⟨7, 0, .ro, "min_minor"⟩, ⟨15, 8, .ro, "max_minor"⟩, ⟨23, 16, .ro, "major"⟩], 0x10300⟩,
  ⟨"HOST_VER_SEL", 0x5800004, [], false, [], none, false, false, [⟨7, 0, .rw, "minor"⟩, ⟨31, 24, .ro, "code"⟩], 0x0⟩,
  ⟨"HOST_CFG", 0x5800008, [], false, [], none, false, false, [⟨7, 0, .st, "dn_chan"⟩, ⟨15, 8, .st, "up_chan"⟩, ⟨16, 16, .st, "up_en"⟩, ⟨24, 17, .st, "inc_table"⟩], 0x1DCFDFE⟩,
  ⟨"HOST_MSIX_MOD", 0x580000C, [], false, [], none, false, false, [⟨7, 0, .rw, "mod"⟩], 0x0⟩,
  ⟨"HOST_CDONE", 0x5800010, [], false, [], none, false, false, [⟨15, 0, .w1c, "slot"⟩], 0x0⟩,
  ⟨"HOST_VDONE", 0x5800014, [], false, [], none, false, false, [⟨3, 0, .w1c, "buf"⟩], 0x0⟩,
  ⟨"HOST_MBOX_DN", 0x5800100, [(4, 16)], true, [3], none, false, false, [⟨31, 0, .rw, "data"⟩], 0x0⟩,
  ⟨"HOST_MBOX_DN_GO", 0x5800140, [], true, [3], none, false, false, [⟨0, 0, .wo, "go"⟩], 0x0⟩,
  ⟨"HOST_MBOX_DN_STAT", 0x5800144, [], true, [], none, false, false, [⟨7, 0, .ro, "code"⟩], 0x0⟩,
  ⟨"HOST_MBOX_UP", 0x5800200, [(4, 16)], false, [], none, false, true, [⟨31, 0, .ro, "data"⟩], 0x0⟩,
  ⟨"HOST_MBOX_UP_STAT", 0x5800240, [], false, [], none, false, true, [⟨2, 0, .ro, "fill"⟩], 0x0⟩,
  ⟨"HOST_MBOX_UP_POP", 0x5800244, [], false, [3], none, false, false, [⟨0, 0, .wo, "pop"⟩], 0x0⟩,
  ⟨"HOST_INC_WP", 0x5800300, [], false, [], none, false, true, [⟨31, 0, .ro, "serial"⟩], 0x0⟩,
  ⟨"HOST_INC_RP", 0x5800304, [(4, 2)], false, [], some 2, false, false, [⟨31, 0, .rw, "serial"⟩], 0x0⟩,
  ⟨"HOST_INC_CFG", 0x5800310, [], false, [], none, false, false, [⟨0, 0, .rw, "hk_en"⟩, ⟨1, 1, .rw, "host_en"⟩], 0x3⟩,
  ⟨"HOST_INC_LOST", 0x5800314, [(4, 2)], false, [], none, false, false, [⟨31, 0, .rc, "count"⟩], 0x0⟩,
  ⟨"HOST_INC_ENT", 0x5820000, [(4, 32768)], false, [], none, false, true, [⟨31, 0, .ro, "record"⟩], 0x0⟩,
  ⟨"HOST_EXP_BASE_LO", 0x5840000, [], false, [3], none, false, false, [⟨31, 0, .rw, "base"⟩], 0x0⟩,
  ⟨"HOST_EXP_BASE_HI", 0x5840004, [], false, [3], none, false, false, [⟨31, 0, .rw, "base"⟩], 0x0⟩,
  ⟨"HOST_EXP_SIZE", 0x5840008, [], false, [3], none, false, false, [⟨5, 0, .rw, "exp_log2"⟩], 0x1B⟩,
  ⟨"HOST_EXP_WPA_LO", 0x5840010, [], false, [3], none, false, false, [⟨31, 0, .rw, "wpa"⟩], 0x0⟩,
  ⟨"HOST_EXP_WPA_HI", 0x5840014, [], false, [3], none, false, false, [⟨31, 0, .rw, "wpa"⟩], 0x0⟩,
  ⟨"HOST_EXP_ACK_LO", 0x5840020, [], false, [3], none, false, false, [⟨31, 0, .wo, "ack"⟩], 0x0⟩,
  ⟨"HOST_EXP_ACK_HI", 0x5840024, [], false, [3], none, false, false, [⟨31, 0, .wo, "ack"⟩], 0x0⟩,
  ⟨"HOST_EXP_STAT", 0x5840028, [], false, [], none, false, false, [⟨7, 0, .ro, "code"⟩], 0x0⟩]

/-- The registers of block ROPE. -/
def regsRope : List RegDef := [
  ⟨"ROPE_STAT", 0x5C00000, [], false, [], none, false, false, [⟨1, 0, .ro, "state"⟩, ⟨3, 2, .ro, "ver"⟩, ⟨5, 4, .ro, "reason"⟩, ⟨10, 8, .ro, "peer_mask"⟩], 0x0⟩,
  ⟨"ROPE_CFG", 0x5C00004, [], false, [], none, false, false, [⟨2, 0, .st, "ver_mask"⟩, ⟨3, 3, .st, "m_inc"⟩, ⟨4, 4, .st, "m_page"⟩, ⟨12, 5, .st, "tx_chan"⟩, ⟨20, 13, .st, "rx_chan"⟩, ⟨21, 21, .st, "mbox_en"⟩], 0x1F7F86⟩,
  ⟨"ROPE_PEER_SERIAL_LO", 0x5C00008, [], false, [], none, false, false, [⟨31, 0, .ro, "serial"⟩], 0x0⟩,
  ⟨"ROPE_PEER_SERIAL_HI", 0x5C0000C, [], false, [], none, false, false, [⟨31, 0, .ro, "serial"⟩], 0x0⟩,
  ⟨"ROPE_PEER_CDONE", 0x5C00010, [], false, [], none, false, false, [⟨15, 0, .w1c, "slot"⟩], 0x0⟩,
  ⟨"ROPE_PEER_VDONE", 0x5C00014, [], false, [], none, false, false, [⟨3, 0, .w1c, "buf"⟩], 0x0⟩,
  ⟨"ROPE_REQ_ADDR", 0x5C00100, [], true, [], none, false, false, [⟨27, 0, .rw, "offset"⟩, ⟨28, 28, .rw, "op"⟩], 0x0⟩,
  ⟨"ROPE_REQ_DATA", 0x5C00104, [], true, [], none, false, false, [⟨31, 0, .rw, "data"⟩], 0x0⟩,
  ⟨"ROPE_REQ_GO", 0x5C00108, [], true, [], none, false, false, [⟨0, 0, .wo, "go"⟩], 0x0⟩,
  ⟨"ROPE_REQ_STAT", 0x5C0010C, [], true, [], none, false, false, [⟨0, 0, .ro, "busy"⟩, ⟨15, 8, .ro, "code"⟩], 0x0⟩,
  ⟨"ROPE_REQ_RDATA", 0x5C00110, [], true, [], none, false, false, [⟨31, 0, .ro, "data"⟩], 0x0⟩,
  ⟨"ROPE_SEAL_BASE_LO", 0x5C00200, [], false, [], none, false, false, [⟨31, 0, .ro, "base"⟩], 0x0⟩,
  ⟨"ROPE_SEAL_BASE_HI", 0x5C00204, [], false, [], none, false, false, [⟨31, 0, .ro, "base"⟩], 0x0⟩,
  ⟨"ROPE_SEAL_WP", 0x5C00208, [], false, [], none, false, false, [⟨7, 0, .ro, "next"⟩], 0x0⟩,
  ⟨"ROPE_CNT", 0x5C00300, [(4, 6)], false, [], none, false, false, [⟨31, 0, .rc, "count"⟩], 0x0⟩]

/-- The registers of block HLTH. -/
def regsHlth : List RegDef := [
  ⟨"HLTH_TEMP", 0x6000000, [(4, 40)], false, [], none, false, false, [⟨7, 0, .ro, "temp"⟩, ⟨8, 8, .ro, "valid"⟩], 0x0⟩,
  ⟨"HLTH_TDIE", 0x60000A0, [], false, [], none, false, false, [⟨7, 0, .ro, "tdie"⟩, ⟨13, 8, .ro, "sensor"⟩, ⟨17, 16, .ro, "level"⟩, ⟨18, 18, .ro, "trip"⟩], 0x0⟩,
  ⟨"HLTH_XTEMP", 0x60000A4, [(4, 2)], false, [], none, false, false, [⟨7, 0, .ro, "temp"⟩, ⟨9, 8, .ro, "fault"⟩, ⟨10, 10, .st, "xcap"⟩], 0x0⟩,
  ⟨"HLTH_THERM_CFG", 0x60000B0, [], false, [], none, false, false, [⟨7, 0, .ro, "warn"⟩, ⟨15, 8, .ro, "cap1"⟩, ⟨23, 16, .ro, "cap2"⟩], 0x0⟩,
  ⟨"HLTH_BIST_CFG", 0x60000B4, [], false, [], none, false, false, [⟨15, 0, .st, "bist_period"⟩], 0x3E8⟩,
  ⟨"HLTH_GPIO_DIR", 0x6000100, [], false, [], none, false, false, [⟨15, 0, .rw, "dir"⟩], 0x0⟩,
  ⟨"HLTH_GPIO_OUT", 0x6000104, [], false, [], none, false, false, [⟨15, 0, .rw, "out"⟩], 0x0⟩,
  ⟨"HLTH_GPIO_IN", 0x6000108, [], false, [], none, false, false, [⟨15, 0, .ro, "in"⟩], 0x0⟩,
  ⟨"HLTH_GPIO_FAULT", 0x600010C, [], false, [], none, false, false, [⟨17, 0, .w1c, "fault"⟩], 0x0⟩,
  ⟨"HLTH_ECC_CE", 0x6000200, [(8, 7)], false, [], none, false, false, [⟨31, 0, .rc, "count"⟩], 0x0⟩,
  ⟨"HLTH_ECC_UE", 0x6000204, [(8, 7)], false, [], none, false, false, [⟨31, 0, .rc, "count"⟩], 0x0⟩,
  ⟨"HLTH_CNT_POISON", 0x6000300, [], false, [], none, false, false, [⟨31, 0, .rc, "count"⟩], 0x0⟩,
  ⟨"HLTH_CELL_FENCED", 0x6000304, [], false, [], none, false, false, [⟨19, 0, .ro, "fenced"⟩], 0x0⟩,
  ⟨"HLTH_CNT", 0x6000308, [(4, 3)], false, [], none, false, false, [⟨31, 0, .rc, "count"⟩], 0x0⟩,
  ⟨"HLTH_TJ_BIN", 0x6000400, [(4, 8)], false, [], none, false, false, [⟨31, 0, .ro, "time"⟩], 0x0⟩]

/-- The registers of block DBUG. -/
def regsDbug : List RegDef := [
  ⟨"DBUG_SEL", 0x6400000, [], true, [], none, false, false, [⟨3, 0, .rw, "gallery"⟩, ⟨6, 4, .rw, "core"⟩, ⟨9, 7, .rw, "thread"⟩], 0x0⟩,
  ⟨"DBUG_CTL", 0x6400004, [], true, [], none, false, false, [⟨1, 0, .wo, "op"⟩], 0x0⟩,
  ⟨"DBUG_STAT", 0x6400008, [], true, [], none, false, true, [⟨0, 0, .ro, "busy"⟩, ⟨3, 1, .ro, "state"⟩, ⟨15, 8, .ro, "code"⟩], 0x0⟩,
  ⟨"DBUG_PC", 0x640000C, [], true, [], none, false, true, [⟨31, 0, .ro, "pc"⟩], 0x0⟩]

/-- Every register of the CSR window below STRG (R519). -/
def regTable : List RegDef :=
  regsGctl ++ regsDrip ++ regsLoad ++ regsPort ++ regsLane ++ regsPars ++ regsClas ++ regsFwdt ++ regsLode ++ regsLard ++ regsSess ++ regsCiph ++ regsDisp ++ regsLtch ++ regsGall ++ regsSeal ++ regsFmte ++ regsBook ++ regsEgrs ++ regsArbs ++ regsDram ++ regsHost ++ regsRope ++ regsHlth ++ regsDbug

/-- The register at a CSR offset (R513): none for an unassigned address. -/
def regAt (o : Nat) : Option RegDef := regTable.find? (fun r => r.covers o)

/-- Reset values that depend on the index of the register. -/
def resetIndexed (o : Nat) : Option Nat :=
  if R.dripOwn ≤ o ∧ o < R.dripOwn + 128 then
    let b := (o - R.dripOwn) / 4
    some (if b ≤ 24 then 0b01100 else if b = 25 then 0b00010 else 0)
  else if R.clasExcCfg ≤ o ∧ o < R.clasExcCfg + 64 ∧ (o - R.clasExcCfg) % 8 = 0 then
    some (8 * 2 ^ 4 + 8 * 2 ^ 8 + (65528 + (o - R.clasExcCfg) / 8) * 2 ^ 12)
  else if o = R.lardPoolCfg1 then some 786432
  else if R.arbsQuota ≤ o ∧ o < R.arbsQuota + 128 * 33 then
    let a := (o - R.arbsQuota) / 128
    let r := (o - R.arbsQuota) % 128 / 4
    some (if (r = 16 ∨ r = 17) ∧ a ≠ 24 then 16 else if r = 21 ∧ a ≤ 7 then 16 else 0)
  else if R.dramHashLo ≤ o ∧ o < R.dramHashLo + 48 ∧ (o - R.dramHashLo) % 8 = 0 then
    some (0x00100100 * 2 ^ ((o - R.dramHashLo) / 8))
  else if R.fmteEbcdic ≤ o ∧ o < R.fmteEbcdic + 256 then
    let n := o - R.fmteEbcdic
    some (n + (n + 1) * 2 ^ 8 + (n + 2) * 2 ^ 16 + (n + 3) * 2 ^ 24)
  else if o = R.hlthThermCfg then some Config.thermReset
  else none

/-- The Reset column: the value of the register word at offset `o` after the device leaves Cold mode (R6). -/
def resetWord (o : Nat) : Word :=
  match resetIndexed o with
  | some v => w32 v
  | none => match regAt o with
    | some r => w32 r.reset
    | none => 0

/-- The commit group, which is the block, of a CSR offset (R35, R514). -/
def groupOf (o : Nat) : Option Nat :=
  if o < 0x100000 then some 0 else if o < 0x200000 then some 1 else if o < 0x400000 then some 2
  else if o < 0x800000 then some 3 else if o < 0x1000000 then some 4 else if o < 0x1400000 then some 5
  else if o < 0x1800000 then some 6 else if o < 0x1C00000 then some 7 else if o < 0x2000000 then some 8
  else if o < 0x2400000 then some 9 else if o < 0x2800000 then some 10 else if o < 0x3000000 then some 11
  else if o < 0x3400000 then some 12 else if o < 0x3800000 then some 13 else if o < 0x4000000 then some 14
  else if o < 0x4400000 then some 15 else if o < 0x4800000 then some 16 else if o < 0x4C00000 then some 17
  else if o < 0x5000000 then some 18 else if o < 0x5400000 then some 19 else if o < 0x5800000 then some 20
  else if o < 0x5C00000 then some 21 else if o < 0x6000000 then some 22 else if o < 0x6400000 then some 23
  else if o < 0x7000000 then some 24 else none


end Sys2Proof.Machine
end

