-- ==== Sys2Proof/Machine/Sp.lean ====
section
/-! DEFINITION. Sparse stores in one canonical form: keys strictly rising, no entry equal to the default an
unlisted key reads as. Every memory, register bank and table of the machine is one of these. -/

namespace Sys2Proof.Machine

/-- The value at `k`; an unlisted key reads as the default `d`. -/
def spGet {V : Type} (d : V) : Map V → Nat → V
  | [], _ => d
  | (k', v) :: m, k => if k = k' then v else spGet d m k

/-- The entry at `k`, if one is listed. -/
def spFind {V : Type} : Map V → Nat → Option V
  | [], _ => none
  | (k', v) :: m, k => if k = k' then some v else spFind m k

/-- Remove the entry at `k`. -/
def spErase {V : Type} : Map V → Nat → Map V
  | [], _ => []
  | (k', v) :: m, k => if k = k' then spErase m k else (k', v) :: spErase m k

/-- List `v` at `k`, whatever `v` is. -/
def spPut {V : Type} : Map V → Nat → V → Map V
  | [], k, v => [(k, v)]
  | (k', v') :: m, k, v =>
    if k = k' then (k, v) :: m else if k < k' then (k, v) :: (k', v') :: m else (k', v') :: spPut m k v

/-- Write `v` at `k`, keeping the canonical form: writing the default removes the entry. -/
def spSet {V : Type} [DecidableEq V] (d : V) (m : Map V) (k : Nat) (v : V) : Map V :=
  if v = d then spErase m k else spPut m k v

/-- Apply `f` to the value at `k`. -/
def spUpd {V : Type} [DecidableEq V] (d : V) (m : Map V) (k : Nat) (f : V → V) : Map V :=
  spSet d m k (f (spGet d m k))

/-- Every key of `m` lies above `k`. -/
def spAbove {V : Type} (k : Nat) (m : Map V) : Bool :=
  match m with
  | [] => true
  | (k', _) :: _ => k < k'

/-- Keys strictly rising. -/
def spSorted {V : Type} : Map V → Bool
  | [] => true
  | (k, _) :: m => spAbove k m && spSorted m

/-- The canonical form: keys strictly rising and no entry equal to the default. -/
def spWf {V : Type} [DecidableEq V] (d : V) (m : Map V) : Bool :=
  spSorted m && m.all (fun e => decide (e.2 ≠ d))

end Sys2Proof.Machine
end

