-- ==== Sys2Proof/Machine/Ops.lean ====
section
/-! DEFINITION. The named operations every block uses: register words and counters, the banks of the commit groups,
generations in flight, incident records, and values the manual leaves open. -/

namespace Sys2Proof.Machine

/-- The outcome of a command whose effect on the device is `f`. -/
def State.run (s : State) (f : Dev → Dev) : Host.Outcome State Fault Refusal := .next { s with dev := f s.dev }

/-- The device sends `o` out. -/
def Dev.emit (d : Dev) (o : Out) : Dev := d.onOut (fun l => o :: l)

/-! ## Free values -/

/-- The next free value. -/
def Dev.freeVal (d : Dev) : Nat := Config.freeNat d.free

/-- One free value has been used. -/
def Dev.freeStep (d : Dev) : Dev := { d with free := d.free + 1 }

/-! ## Register words -/

/-- The word at `o` outside the banks. -/
def Dev.io (d : Dev) (o : Nat) : Nat := (spGet (resetWord o) d.csr.io o).toNat

/-- Set the word at `o` outside the banks. -/
def Dev.setIo (d : Dev) (o v : Nat) : Dev :=
  d.onCsr (fun c => { c with io := spSet (resetWord o) c.io o (w32 v) })

/-- Field [hi:lo] of the word at `o` outside the banks. -/
def Dev.ioFld (d : Dev) (o hi lo : Nat) : Nat := bits (d.io o) hi lo

/-- Set field [hi:lo] of the word at `o` outside the banks. -/
def Dev.setIoFld (d : Dev) (o hi lo v : Nat) : Dev :=
  d.setIo o (setFld (spGet (resetWord o) d.csr.io o) hi lo v).toNat

/-- Set bit `i` of the word at `o`. -/
def Dev.setIoBit (d : Dev) (o i : Nat) : Dev := d.setIoFld o i i 1

/-- A saturating counter at `o` steps by `n`. -/
def Dev.bumpBy (d : Dev) (o n : Nat) : Dev := d.setIo o (Nat.min (d.io o + n) 0xFFFFFFFF)

/-- A saturating counter at `o` steps by 1. -/
def Dev.bump (d : Dev) (o : Nat) : Dev := d.bumpBy o 1

/-- The 64-bit value of the pair of words at `o` and `o + 4`. -/
def Dev.io64 (d : Dev) (o : Nat) : Nat := d.io o + 2 ^ 32 * d.io (o + 4)

/-- Set the pair of words at `o` and `o + 4`. -/
def Dev.setIo64 (d : Dev) (o v : Nat) : Dev := (d.setIo o v).setIo (o + 4) (v / 2 ^ 32)

/-- The key of master `m`'s copy of the word at `o` (R521). -/
def perKey (m o : Nat) : Nat := m * 2 ^ 28 + o

/-- Master `m`'s copy of the word at `o` (R521). -/
def Dev.per (d : Dev) (m o : Nat) : Nat := (spGet (resetWord o) d.csr.per (perKey m o)).toNat

/-- Set master `m`'s copy of the word at `o`. -/
def Dev.setPer (d : Dev) (m o v : Nat) : Dev :=
  d.onCsr (fun c => { c with per := spSet (resetWord o) c.per (perKey m o) (w32 v) })

/-- Set consecutive words of master `m`'s copy from `o` on. -/
def Dev.setPerWords (d : Dev) (m : Nat) : Nat → List Nat → Dev
  | _, [] => d
  | o, v :: vs => (d.setPer m o v).setPerWords m (o + 4) vs

/-- `n` consecutive words of master `m`'s copy from `o` on. -/
def Dev.perWords (d : Dev) (m o n : Nat) : List Nat := (List.range n).map (fun i => d.per m (o + 4 * i))

/-- The bytes of `n` consecutive words of master `m`'s copy. -/
def Dev.perBytes (d : Dev) (m o n : Nat) : Bytes := (d.perWords m o n).flatMap (leBytes 4)

/-- The little-endian words of a byte string. -/
def wordsOf (n : Nat) (bs : Bytes) : List Nat := (List.range n).map (fun i => leAt bs (4 * i) 4)

/-- A command's status register of master `m`: busy in bit 0, code in [15:8]. -/
def Dev.setStat (d : Dev) (m o : Nat) (busy : Bool) (code : Nat) : Dev := d.setPer m o (b2n busy + code * 2 ^ 8)

/-! ## Modes (R434) -/

/-- The modes of LOAD_STAT. -/
abbrev Mode.cold : Nat := 0
/-- Load mode. -/
abbrev Mode.load : Nat := 1
/-- Survey mode. -/
abbrev Mode.survey : Nat := 2
/-- Service mode. -/
abbrev Mode.service : Nat := 3
/-- Handover mode. -/
abbrev Mode.handover : Nat := 4
/-- Limp mode. -/
abbrev Mode.limp : Nat := 5

/-- The mode the device is in. -/
def Dev.mode (d : Dev) : Nat := d.ioFld R.loadStat 2 0

/-- Boundaries occur, and packets, threads and units run, in SERVICE, HANDOVER and LIMP. -/
def Dev.serving (d : Dev) : Bool := d.mode = Mode.service || d.mode = Mode.handover || d.mode = Mode.limp

/-! ## Commit groups and their banks (R35 to R43) -/

/-- The key of word `w` of classifier row `r` in the banks. -/
def rowKey (r w : Nat) : Nat := 0x10000000 + 64 * r + w

/-- The words a classifier row has: 44 of value, mask and action, then its valid word (R86). -/
def rowWords : Nat := 45

/-- The group of a bank key: a classifier row belongs to CLAS. -/
def groupOfKey (k : Nat) : Nat := if 0x10000000 ≤ k then 6 else (groupOf k).getD 0

/-- Group `g`. -/
def Dev.group (d : Dev) (g : Nat) : Group := spGet Group.init d.csr.groups g

/-- Change group `g`. -/
def Dev.setGroup (d : Dev) (g : Nat) (v : Group) : Dev :=
  d.onCsr (fun c => { c with groups := spSet Group.init c.groups g v })

/-- The commit groups that exist (R35). -/
def groupBits : List Nat := [0, 3, 4, 5, 6, 7, 8, 9, 10, 11, 12, 13, 14, 15, 16, 17, 18, 19, 20, 21, 22, 23, 24, 25]

/-- The mask of the bits R35 marks reserved. -/
def reservedMask : Nat := 0xFC000006

/-- The word at key `k` of bank A (false) or B (true). -/
def Dev.bankWord (d : Dev) (b : Bool) (k : Nat) : Nat :=
  (spGet (resetWord k) (if b then d.csr.bankB else d.csr.bankA) k).toNat

/-- The passage a bank key belongs to (R71). -/
def passageAt (k : Nat) : Option Nat :=
  if R.parsPW0 ≤ k && k < R.parsPW0 + 256 * 1024 then some ((k - R.parsPW0) / 256) else none

/-- The mark of a passage lost in bank `b` (R469). -/
def lostKey (n : Nat) (b : Bool) : Nat := n + 1024 * b2n b

/-- Set the word at key `k` of one bank: a passage lost there is written (R469). -/
def Dev.setBankWord (d : Dev) (b : Bool) (k v : Nat) : Dev :=
  d.onCsr (fun c =>
    let lost := match passageAt k with
      | some n => spErase c.lostPass (lostKey n b)
      | none => c.lostPass
    if b then { c with bankB := spSet (resetWord k) c.bankB k (w32 v), lostPass := lost }
    else { c with bankA := spSet (resetWord k) c.bankA k (w32 v), lostPass := lost })

/-- The LIVE value of the word at key `k`. -/
def Dev.live (d : Dev) (k : Nat) : Nat := d.bankWord (d.group (groupOfKey k)).liveB k

/-- Field [hi:lo] of the LIVE value at `k`. -/
def Dev.liveFld (d : Dev) (k hi lo : Nat) : Nat := bits (d.live k) hi lo

/-- The bank of group `g` that a packet of generation `gen` uses: the one with the greatest generation that does
not follow its own (R39). True is bank B. -/
def Dev.bankAt (d : Dev) (g gen : Nat) : Bool :=
  let G := d.group g
  if serialBefore gen G.genLive && G.other != .staged then !G.liveB else G.liveB

/-- The value of the word at `k` for a packet of generation `gen` (R39). -/
def Dev.at (d : Dev) (gen k : Nat) : Nat := d.bankWord (d.bankAt (groupOfKey k) gen) k

/-- Field [hi:lo] of the word at `k` for generation `gen`. -/
def Dev.atFld (d : Dev) (gen k hi lo : Nat) : Nat := bits (d.at gen k) hi lo

/-- A commit slot. -/
def Dev.slot (d : Dev) (s : Nat) : Slot := spGet Slot.init d.drip.slots s

/-- Change a commit slot. -/
def Dev.setSlot (d : Dev) (s : Nat) (v : Slot) : Dev :=
  d.onDrip (fun p => { p with slots := spSet Slot.init p.slots s v })

/-- The slots that hold group `g` sealed. -/
def Dev.sealers (d : Dev) (g : Nat) : List Slot :=
  (d.drip.slots.map Prod.snd).filter (fun v => (v.state = .sealed || v.state = .waiting) && bitOf v.mask g)

/-- A commit naming the group is SEALED or WAITING, or the Handover holds it. -/
def Dev.groupSealed (d : Dev) (g : Nat) : Bool := !(d.sealers g).isEmpty || d.drip.hoSeal.isSome

/-- The boundary of the earliest seal that holds group `g`. -/
def Dev.sealLimit (d : Dev) (g : Nat) : Option Nat :=
  (d.sealers g).foldl (fun a v => match a with | none => some v.sealDrip | some x => some (Nat.min x v.sealDrip)) d.drip.hoSeal

/-- A queued write counts for the group's content unless it was applied after the seal. -/
def withinSeal (lim : Option Nat) (applied : Nat) : Bool :=
  match lim with | none => true | some x => applied ≤ x

/-- The bank keys of a write's target, in order. -/
def WUnit.keys : WUnit → List Nat
  | .reg o => [o]
  | .row r => (List.range rowWords).map (rowKey r)

/-- Stage-queue entries a write takes: one per register, one per 64 bytes of a table entry (R44). -/
def WUnit.entries : WUnit → Nat
  | .reg _ => 1
  | .row _ => 3

/-- Write words at keys of one bank, and mark their 64-byte lines written. -/
def Dev.writeBank (d : Dev) (b : Bool) : List Nat → List Word → Dev
  | k :: ks, w :: ws =>
    let d := d.setBankWord b k w.toNat
    let g := groupOfKey k
    let G := d.group g
    (d.setGroup g { G with dirty := spSet false G.dirty (k / 64) true }).writeBank b ks ws
  | _, _ => d

/-- The value a queued write gives key `k`, if it targets it. -/
def QueuedWrite.at (q : QueuedWrite) (k : Nat) : Option Word :=
  (List.zip q.target.keys q.words).findSome? (fun p => if p.1 = k then some p.2 else none)

/-- The staged copy of the word at `k` (R43). -/
def Dev.staged (d : Dev) (k : Nat) : Nat :=
  let g := groupOfKey k
  let G := d.group g
  let base := d.bankWord (if G.other = .staged then !G.liveB else G.liveB) k
  let lim := d.sealLimit g
  (d.drip.queue.filter (fun q => q.group = g && withinSeal lim q.applied)).foldl
    (fun v q => match q.at k with | some w => w.toNat | none => v) base

/-- Entries of the stage queue in use (R44). -/
def Dev.queueUsed (d : Dev) : Nat := (d.drip.queue.map (fun q => q.target.entries)).foldl (· + ·) 0

/-- Apply to the STAGED bank of group `g` the queued writes that belong to its content (R37, R49). -/
def Dev.drainGroup (d : Dev) (g : Nat) : Dev :=
  let G := d.group g
  if G.other ≠ .staged then d
  else
    let lim := d.sealLimit g
    let mine := d.drip.queue.filter (fun q => q.group = g && withinSeal lim q.applied)
    let rest := d.drip.queue.filter (fun q => !(q.group = g && withinSeal lim q.applied))
    let d := mine.foldl (fun d q => d.writeBank (!G.liveB) q.target.keys q.words) d
    d.onDrip (fun p => { p with queue := rest })

/-- The generations packets in flight carry (R40), each once. -/
def Dev.gensInFlight (d : Dev) : List Nat :=
  d.lard.cells.foldl (fun l c => match c.2.flight with
    | some n => if l.contains n then l else n :: l
    | none => l) []

/-! ## Owner sets (R54 to R56) -/

/-- Master `m` is in the owner set of block `b`. -/
def Dev.owns (d : Dev) (m b : Nat) : Bool := bitOf (d.io (R.dripOwn + 4 * b)) m

/-- A refused CSR write is recorded for its master (R521). -/
def Dev.refuse (d : Dev) (m addr code : Nat) : Dev :=
  let o := R.dripWfail + 8 * m
  let c := Nat.min (bits (d.io o) 31 8 + 1) 0xFFFFFF
  (d.setIo o (code + c * 2 ^ 8)).setIo (R.dripWfadr + 8 * m) addr

/-- A command of a master outside an owner set is refused, and completes with NOT_OWNER in the master's status register at `stat`,
unless one of its own is still in progress there (R521). -/
def Dev.refuseOwner (d : Dev) (m addr stat : Nat) : Dev :=
  let d := d.refuse m addr Code.notOwner
  if bitOf (d.per m stat) 0 then d else d.setStat m stat false Code.notOwner

/-- A reserved write is counted and described (R9, R516): kind 0 a CSR write, 1 a special register, 2 a SEV. -/
def Dev.reservedWrite (d : Dev) (kind place who : Nat) : Dev :=
  ((d.bump R.gctlRsvdWr).setIo R.gctlRsvdLast (place + kind * 2 ^ 28)).setIo R.gctlRsvdWho
    (if kind = 0 then who else who * 2 ^ 4)

/-- A reserved CSR write of master `m`. -/
def Dev.reservedCsr (d : Dev) (m addr : Nat) : Dev := d.reservedWrite 0 addr m

/-- Blocks other than GCTL and LOAD are closed until Survey mode ends (R430). -/
def Dev.blockOpen (d : Dev) (off : Nat) : Bool :=
  d.serving || off < 0x100000 || (0x200000 ≤ off && off < 0x400000)

/-- Nothing a master does reaches the device: in Cold mode (R435), and for the host while PE_PERST_N holds its link down (R508). -/
def Dev.noPath (d : Dev) (m : Nat) : Bool := d.mode = Mode.cold || (m = 3 && d.elec.perst)

/-- The register that holds the completion code of a master's last write to the write-only register at `off`, where its chapter gives
one (R198, R277, R327, R349, R419, R435). -/
def lastCode (off : Nat) : Option Nat :=
  if off = R.sealEngCtl then some R.sealEngCtlStat
  else if off = R.sealSlotCtl then some R.sealSlotCtlStat
  else if off = R.fmteEngCtl then some R.fmteEngCtlStat
  else if off = R.arbsQry then some R.arbsQryCode
  else if off = R.loadCtl then some R.loadCtlStat
  else if off = R.ltchHostRel then some R.ltchHostRstat
  else if R.gallThrCtl ≤ off && off < R.gallThrCtl + 0x40000 * 16 && (off - R.gallThrCtl) % 0x40000 = 0
  then some (off - R.gallThrCtl + R.gallThrCtlStat)
  else none

/-- A write that was turned away with `code` is the master's last one there. -/
def Dev.lastWrite (d : Dev) (m off code : Nat) : Dev :=
  match lastCode off with
  | some st => if d.blockOpen off then d.setPer m st code else d
  | none => d

/-- A write of `v` by master `m` to a write-only register at `off`, whose chapter names the masters that use it (none
named: any), and whose bits from `width` up are reserved: refused (R521, R430), reserved (R9), or the action. -/
def Dev.doorbell (d : Dev) (m off : Nat) (named : List Nat) (width v : Nat) (act : Dev → Dev) : Dev :=
  if d.noPath m then d
  else if !d.blockOpen off || (!named.isEmpty && !named.contains m) then
    (d.refuse m off Code.notOwner).lastWrite m off Code.notOwner
  else if v / 2 ^ width ≠ 0 then (d.reservedCsr m off).lastWrite m off Code.reserved
  else act d

/-! ## What leaves on the Rope and the host's link -/

/-- A frame of the Rope (R460): its EtherType, and behind it the 8-byte header and the payload. Its Ethernet addresses are open
(assumption 9). -/
def ropeOut (type ver chan : Nat) (data : Bytes) : Out :=
  .rope 0x88B6 (leBytes 1 type ++ leBytes 1 ver ++ leBytes 2 chan ++ leBytes 4 data.length ++ data)

/-- A frame leaves on the Rope, with the negotiated version; 0 in HELLO. -/
def Dev.ropeEmit (d : Dev) (type chan : Nat) (data : Bytes) : Dev :=
  d.emit (ropeOut type (if type = 0 then 0 else d.ioFld R.ropeStat 3 2) chan data)

/-- A vector of a function: a message, or its pending bit while the function is masked; while PE_PERST_N is low there is no link
(R457, R508). -/
def Dev.msix (d : Dev) (fn vec : Nat) : Dev :=
  if d.elec.perst then d
  else if d.host.fnMask.getD fn false then d.onHost (fun h => { h with pba := spSet false h.pba (64 * fn + vec) true })
  else d.emit (.msix fn vec)

/-! ## Incident records (R455) -/

/-- An actor field that names a master. -/
def actorMaster (m : Nat) : Nat := 0x8000 + m

/-- Make an incident record; it becomes visible at the next boundary (R30, R456). -/
def Dev.incident (d : Dev) (block code actor arg0 arg1 : Nat) : Dev :=
  d.onHost (fun h =>
    { h with incPending := h.incPending ++ [⟨d.drip.now, block, code, false, actor, arg0 % 2 ^ 32, arg1 % 2 ^ 32, 0, 0⟩] })

/-- A vector's condition occurs; it is signalled at the boundary (R457). -/
def Dev.vector (d : Dev) (v : Nat) : Dev := d.onHost (fun h => { h with vecCond := spSet false h.vecCond v true })

end Sys2Proof.Machine
end

