-- ==== Sys2Proof/Machine/DramMap.lean ====
section
/-! DEFINITION. The DRAM address map (R394 to R398): regions over channels, and the channel-local mapping. -/

namespace Sys2Proof.Machine

/-- The registers of channel `c`. -/
def chanOff (c off : Nat) : Nat := 0x80000 * c + off

/-- The state of a channel (R413). -/
def Dev.chanState (d : Dev) (c : Nat) : Nat := d.ioFld (chanOff c R.dramChStat) 2 0

/-- A region in bytes: start, size and its live list (R394, R395). -/
structure Region where
  start : Nat
  size : Nat
  chans : List Nat
  deriving DecidableEq, Repr

/-- Region `r`; its live list is the live channels of its mask, in rising order. -/
def Dev.region (d : Dev) (r : Nat) : Region :=
  let o := 16 * r
  ⟨d.io (R.dramRgnStart + o) * 2 ^ 20, d.io (R.dramRgnSize + o) * 2 ^ 20,
   maskBits 8 (d.io (R.dramRgnChans + o) &&& d.ioFld R.dramGeom 23 16)⟩

/-- The share of a region on each channel of its live list. -/
def Region.share (g : Region) : Nat :=
  if g.size = 0 || g.chans = [] then 0 else (g.size + 256 * g.chans.length - 1) / (256 * g.chans.length) * 256

/-- Where region `r`'s share begins on channel `ch`. -/
def Dev.shareBase (d : Dev) (r ch : Nat) : Nat :=
  ((List.range r).map (fun i => if (d.region i).chans.contains ch then (d.region i).share else 0)).foldl (· + ·) 0

/-- The region that holds a DRAM address. -/
def Dev.regionOf (d : Dev) (a : Nat) : Option Nat :=
  (List.range 8).find? (fun r => (d.region r).start ≤ a && a < (d.region r).start + (d.region r).size)

/-- The channel and channel-local address of a DRAM address (R395). -/
def Dev.dramMap (d : Dev) (a : Nat) : Option (Nat × Nat) :=
  match d.regionOf a with
  | some r =>
    let g := d.region r
    let n := g.chans.length
    if n = 0 then none
    else
      let o := a - g.start
      let k := o / 256
      let ch := g.chans.getD (k % n) 0
      some (ch, d.shareBase r ch + k / n * 256 + o % 256)
  | none => none

/-- The DRAM address at a channel-local address, where a region's share holds one. -/
def Dev.dramUnmap (d : Dev) (ch ca : Nat) : Option Nat :=
  (List.range 8).findSome? (fun r =>
    let g := d.region r
    let b := d.shareBase r ch
    if g.chans.contains ch && b ≤ ca && ca < b + g.share then
      let o := ((ca - b) / 256 * g.chans.length + (g.chans.idxOf ch)) * 256 + ca % 256
      if o < g.size then some (g.start + o) else none
    else none)

/-- The bytes of a channel (R392). -/
def Dev.chanCap (d : Dev) : Nat := if d.ioFld R.dramGeom 3 2 = 0 then 2 ^ 35 else 2 ^ 36

/-- The parity of a number. -/
def parity (n : Nat) : Nat := ((List.range 48).filter (fun i => bitOf n i)).length % 2

/-- Bit `j` of the hash (R398): 0 the subchannel, 1 to 3 the bank group, 4 and 5 the bank. -/
def Dev.hashBit (d : Dev) (ca j : Nat) : Nat := parity (ca &&& d.io64 (R.dramHashLo + 8 * j))

/-- The subchannel of a channel-local address. -/
def Dev.subOf (d : Dev) (ca : Nat) : Nat := d.hashBit ca 0

/-- The rank of a channel-local address (R397). -/
def Dev.rankOf (d : Dev) (ca : Nat) : Nat := if d.ioFld R.dramGeom 3 3 = 1 then bits ca 19 19 else 0

/-- The bank of a channel-local address: rank, bank group and bank. -/
def Dev.bankOf (d : Dev) (ca : Nat) : Nat :=
  32 * d.rankOf ca + ((List.range 5).map (fun i => d.hashBit ca (i + 1) * 2 ^ i)).foldl (· + ·) 0

/-- The row of a channel-local address (R397). -/
def Dev.rowOf (d : Dev) (ca : Nat) : Nat := if d.ioFld R.dramGeom 3 3 = 1 then bits ca 35 20 else bits ca 35 19

/-- The column of a channel-local address (R397). -/
def Dev.colOf (_ : Dev) (ca : Nat) : Nat := bits ca 7 6 * 2 ^ 4 + bits ca 18 14 * 2 ^ 6

/-- A DRAM address lies on a failed channel (R412). -/
def Dev.dramFailed (d : Dev) (a : Nat) : Bool :=
  match d.dramMap a with | some x => d.chanState x.1 = 5 | none => false

end Sys2Proof.Machine
end

