-- ==== Sys2Proof/Machine/Larder.lean ====
section
/-! DEFINITION. The Larder (chapter 04): cells, chains, pools, the bytes of cells, and the PFC thresholds of the
ingress port stage that follow a pool's use (R68). -/

namespace Sys2Proof.Machine

/-- The number of cells (R92). -/
def numCells : Nat := 786432

/-- The end of a chain, and the head of the null chain (R93). -/
def cellEnd : Nat := 0xFFFFF

/-! ## Chain handles (R93) -/

/-- The handle of a chain. -/
def Chain.handle (c : Chain) : Nat := c.head + c.count * 2 ^ 20

/-- The chain a handle names; none for an invalid handle. -/
def chainOf (h : Nat) : Option Chain :=
  let hd := bits h 19 0
  let n := bits h 29 20
  if bits h 31 30 ≠ 0 ∨ n > 512 then none
  else if hd = cellEnd then (if n = 0 then some Chain.null else none)
  else if n = 0 ∨ numCells ≤ hd then none
  else some ⟨hd, n⟩

/-! ## Pools (R98) -/

/-- Cells charged to pool `p`: U_p. -/
def Dev.poolUse (d : Dev) (p : Nat) : Nat := (d.lard.cells.filter (fun c => c.2.pool = p)).length

/-- min_p of the LIVE bank. -/
def Dev.poolMin (d : Dev) (p : Nat) : Nat := d.liveFld (R.lardPoolCfg0 + 8 * p) 19 0

/-- max_p of the LIVE bank. -/
def Dev.poolMax (d : Dev) (p : Nat) : Nat := d.liveFld (R.lardPoolCfg1 + 8 * p) 19 0

/-- Cells freed from pool `p` are zeroed (R95). -/
def Dev.poolScrubs (d : Dev) (p : Nat) : Bool := bitOf (d.live (R.lardPoolCfg0 + 8 * p)) 20

/-- FREE cells that can be allocated: F. A cell fenced in this drip still counts: F is lower from the boundary on (R471). -/
def Dev.freeCells (d : Dev) : Nat :=
  numCells - d.lard.cells.length - d.lard.scrub.length - (d.lard.fenced.length - d.lard.fencedNew)

/-- The reserved remainder: R. -/
def Dev.reserve (d : Dev) : Nat :=
  ((List.range 32).map (fun p => d.poolMin p - d.poolUse p)).foldl (· + ·) 0

/-- The decision of R98 for `n` cells of pool `p`. -/
def Dev.allocAllowed (d : Dev) (p n : Nat) : Bool :=
  let u := d.poolUse p
  let r := Nat.min n (d.poolMin p - u)
  u + n ≤ d.poolMax p && n ≤ d.freeCells && (n - r) + d.reserve ≤ d.freeCells

/-! ## PFC of the ingress port stage (R68) -/

/-- The listed words of the bay records' first words in the LIVE PORT bank, as (bay, word). -/
def Dev.bayWords (d : Dev) (b : Bool) : List (Nat × Nat) :=
  (if b then d.csr.bankB else d.csr.bankA).filterMap (fun e =>
    if R.portBay0 ≤ e.1 ∧ e.1 < R.portBay0 + 8 * 4096 ∧ (e.1 - R.portBay0) % 8 = 0
    then some ((e.1 - R.portBay0) / 8, e.2.toNat) else none)

/-- The enabled bays with policy PFC that use pool `p`, as (MAC, priority) (LIVE). -/
def Dev.pfcBays (d : Dev) (p : Nat) : List (Nat × Nat) :=
  (d.bayWords (d.group 3).liveB).filterMap (fun e =>
    let w1 := d.live (R.portBay1 + 8 * e.1)
    if bitOf e.2 7 && bits w1 24 20 = p && bitOf w1 25 then some (bits e.2 6 0, bits w1 28 26) else none)

/-- A MAC holds a link (R121). -/
def Dev.linkUp (d : Dev) (mac : Nat) : Bool := spGet false d.egrs.linkUp mac

/-- The source address of the PFC frames of a MAC (R68). -/
def Dev.macSa (d : Dev) (mac : Nat) : Nat :=
  d.live (R.portMacSa0 + 8 * mac) + 2 ^ 32 * d.liveFld (R.portMacSa1 + 8 * mac) 15 0

/-- The MACs a pool's PFC frames go to, each once. -/
def Dev.pfcMacs (d : Dev) (p : Nat) : List Nat :=
  ((d.pfcBays p).map Prod.fst).foldl (fun l m => if l.contains m then l else l ++ [m]) []

/-- The key of a pool and a MAC: when the pool last sent that MAC an XOFF. -/
def xoffKey (p m : Nat) : Nat := 64 * p + m

/-- The PFC frame of pool `p` on MAC `m`, by the bays `old` holds: an XOFF is noted with its drip (R68). -/
def Dev.pfcTo (d old : Dev) (p m t : Nat) : Dev :=
  let en := (((old.pfcBays p).filter (fun x => x.1 = m)).map (fun x => 2 ^ x.2)).foldl (· ||| ·) 0
  (d.emit (.pfc m (old.macSa m) en t)).onIngr (fun i => { i with
    xoffAt := if t = 0 then spErase i.xoffAt (xoffKey p m) else spPut i.xoffAt (xoffKey p m) d.drip.now })

/-- One PFC frame to each MAC concerned that holds a link, naming every priority the pool's PFC bays on it pause,
each with time `t` (R68). -/
def Dev.sendPfc (d : Dev) (p t : Nat) : Dev :=
  (d.pfcMacs p).foldl (fun e m => if d.linkUp m then e.pfcTo d p m t else e) d

/-- After a change of U_p: XOFF when it reaches the pool's threshold, XON when it falls to the other (R68). -/
def Dev.poolMoved (d : Dev) (p : Nat) : Dev :=
  let w := d.live (R.portPfcPool + 4 * p)
  let u := d.poolUse p
  if spGet false d.ingr.xoff p then
    if u ≤ 16 * bits w 31 16 then
      (d.onIngr (fun i => { i with xoff := spSet false i.xoff p false })).sendPfc p 0
    else d
  else if 16 * bits w 15 0 ≤ u then
    (d.onIngr (fun i => { i with xoff := spSet false i.xoff p true })).sendPfc p 0xFFFF
  else d

/-! ## Cells and chains -/

/-- A cell that can be allocated. -/
def Dev.allocatable (d : Dev) (i : Nat) : Bool :=
  i < numCells && (spFind d.lard.cells i).isNone && !spGet false d.lard.scrub i && !spGet false d.lard.fenced i

/-- The first allocatable cell at or after `i`, cyclically, within `fuel` tries. -/
def Dev.findCell (d : Dev) : Nat → Nat → Option Nat
  | 0, _ => none
  | f + 1, i => if d.allocatable i then some i else d.findCell f ((i + 1) % numCells)

/-- The cell the next allocation takes: which of the FREE cells is open (R98). -/
def Dev.nextCell (d : Dev) : Option Nat :=
  d.findCell (d.lard.cells.length + d.lard.scrub.length + d.lard.fenced.length + 1) (Config.pickCell d.free % numCells)

/-- Change the cell map. -/
def Dev.onCells (d : Dev) (f : Map Cell → Map Cell) : Dev := d.onLard (fun l => { l with cells := f l.cells })

/-- Build a chain of `n` cells ending in `tail`, charged to pool `p` and owned by `tag`. -/
def Dev.takeCells (d : Dev) (tag p : Nat) (fl : Option Nat) : Nat → Nat → Nat × Dev
  | 0, hd => (hd, d)
  | n + 1, hd =>
    match d.nextCell with
    | none => (hd, d)
    | some i => (d.freeStep.onCells (fun m => spPut m i ⟨hd, tag, p, fl⟩)).takeCells tag p fl n i

/-- ALLOC of `n` cells (1 to 512) from pool `p` for `tag`: none on FAIL_EMPTY, which is counted (R98), also where F still
counts a cell fenced in this drip and no other is left. -/
def Dev.alloc (d : Dev) (tag p n : Nat) (fl : Option Nat) : Option Chain × Dev :=
  if n = 0 then (some Chain.null, d)
  else if d.allocAllowed p n && d.lard.cells.length + d.lard.scrub.length + d.lard.fenced.length + n ≤ numCells then
    let (hd, d) := d.takeCells tag p fl n cellEnd
    (some ⟨hd, n⟩, d.poolMoved p)
  else (none, d.bump (R.lardFailEmpty + 4 * p))

/-- The outcome of a chain walk (R107). -/
inductive Walk
  | cells (l : List Nat)
  | bad
  | free (i : Nat)
  deriving DecidableEq, Repr

/-- Walk `n` cells from `i`: the cells met, a broken chain, or the first FREE cell found. -/
def Lard.walk (l : Lard) : Nat → Nat → Walk
  | 0, i => if i = cellEnd then .cells [] else .bad
  | n + 1, i =>
    if numCells ≤ i || spGet false l.linkBad i then .bad
    else match spFind l.cells i with
      | none => .free i
      | some c => match l.walk n c.next with
        | .cells rest => .cells (i :: rest)
        | r => r

/-- The cells of a chain, in order; none for a chain that cannot be walked. -/
def Dev.chainCells (d : Dev) (c : Chain) : List Nat :=
  match d.lard.walk c.count c.head with | .cells l => l | _ => []

/-- The first `n` cells of the chain at `i`, as far as they can be walked and `tag` owns them: what is left of a chain whose
handle says `n` cells, though its last cell may link on (R103, R108). -/
def Lard.lead (l : Lard) (tag : Nat) : Nat → Nat → List Nat
  | 0, _ => []
  | n + 1, i =>
    if numCells ≤ i || spGet false l.linkBad i then []
    else match spFind l.cells i with
      | none => []
      | some c => if c.owner = tag then i :: l.lead tag n c.next else []

/-- Every cell of a list is held by `tag`. -/
def Dev.allOwned (d : Dev) (tag : Nat) (l : List Nat) : Bool :=
  l.all (fun i => match spFind d.lard.cells i with | some c => c.owner = tag | none => false)

/-- Change every listed cell that is HELD. -/
def Dev.mapCells (d : Dev) (l : List Nat) (f : Cell → Cell) : Dev :=
  d.onCells (fun m => l.foldl (fun m i => match spFind m i with | some c => spPut m i (f c) | none => m) m)

/-- Give every cell of a chain a new owner tag (R97). -/
def Dev.retag (d : Dev) (c : Chain) (tag : Nat) : Dev := d.mapCells (d.chainCells c) (fun x => { x with owner := tag })

/-- Every cell of a chain keeps generation `g` in flight (R40). -/
def Dev.setFlight (d : Dev) (c : Chain) (g : Option Nat) : Dev :=
  d.mapCells (d.chainCells c) (fun x => { x with flight := g })

/-- Forget the bytes written into cell `i`. -/
def Lard.dropBytes (l : Lard) (i : Nat) : Lard :=
  { l with bytes := l.bytes.filter (fun e => e.1 / 128 ≠ i) }

/-- A freed poisoned cell, or one whose link entry failed, is tested with three patterns; one that fails is fenced
(R471). `u` is the memory number. -/
def Dev.testFreed (d : Dev) (i u : Nat) : Dev :=
  let ok := Config.patternPass d.free
  let d := d.freeStep
  if ok then d
  else
    ((d.onLard (fun l => { l with
      fenced := spSet false l.fenced i true, fencedNew := l.fencedNew + 1, scrub := spSet false l.scrub i false })).setIo
      R.hlthCellFenced (d.io R.hlthCellFenced + 1)).incident 9 Code.orphaned 0 i u

/-- Free one HELD cell: uncharged, its bytes undefined, waiting to be zeroed if its pool scrubs (R95). -/
def Dev.freeCell (d : Dev) (i : Nat) : Dev :=
  match spFind d.lard.cells i with
  | none => d
  | some c =>
    let scrubs := d.poolScrubs c.pool
    let hurt := spGet false d.lard.poison i
    let link := spGet false d.lard.linkBad i
    let n := d.free + 2
    let d := d.freeStep.onLard (fun l => { l.dropBytes i with
      cells := spErase l.cells i, fill := spSet 1 l.fill i n,
      scrub := spSet false l.scrub i scrubs, poison := spSet false l.poison i false,
      linkBad := spSet false l.linkBad i false })
    if hurt then d.testFreed i 0 else if link then d.testFreed i 1 else d

/-- The pools of the listed cells, each once. -/
def Dev.poolsOf (d : Dev) (l : List Nat) : List Nat :=
  l.foldl (fun ps i => match spFind d.lard.cells i with
    | some c => if ps.contains c.pool then ps else ps ++ [c.pool]
    | none => ps) []

/-- Free the listed cells; XON follows for each pool concerned (R68). -/
def Dev.freeList (d : Dev) (l : List Nat) : Dev :=
  let ps := d.poolsOf l
  ps.foldl (fun d p => d.poolMoved p) (l.foldl (fun d i => d.freeCell i) d)

/-- Free a chain that a fixed stage or a unit holds. -/
def Dev.freeChain (d : Dev) (c : Chain) : Dev := d.freeList (d.chainCells c)

/-- The cells that carry owner tag `tag`. -/
def Dev.cellsOf (d : Dev) (tag : Nat) : List Nat :=
  (d.lard.cells.filter (fun e => e.2.owner = tag)).map Prod.fst

/-- Link the last cell of the nonempty chain `a` to the head of `b`. -/
def Dev.joinChains (d : Dev) (a b : Chain) : Chain × Dev :=
  if a.count = 0 then (b, d)
  else if b.count = 0 then (a, d)
  else match (d.chainCells a).getLast? with
    | none => (a, d)
    | some i => (⟨a.head, a.count + b.count⟩, d.mapCells [i] (fun c => { c with next := b.head }))

/-- The link entry of a cell (R94). -/
def Dev.linkEntry (d : Dev) (i : Nat) : Nat :=
  match spFind d.lard.cells i with
  | none => cellEnd
  | some c => c.next + 2 ^ 20 + c.owner * 2 ^ 32 + c.pool * 2 ^ 44

/-! ## The bytes of cells -/

/-- The byte at `a` = 128 × index + offset: undefined until written, 0 in a cell that was zeroed (R95). -/
def Lard.byteAt (l : Lard) (a : Nat) : Byte :=
  match spFind l.bytes a with
  | some b => b
  | none => if spGet 1 l.fill (a / 128) = 0 then 0 else Config.freeByte (spGet 1 l.fill (a / 128)) a

/-- Byte `k` of the data in the listed cells. -/
def Lard.dataAt (l : Lard) (cells : List Nat) (k : Nat) : Byte := l.byteAt (128 * cells.getD (k / 128) 0 + k % 128)

/-- `n` bytes of a chain's data from offset `off`. -/
def Dev.chainBytes (d : Dev) (c : Chain) (off n : Nat) : Bytes :=
  let cs := d.chainCells c
  (List.range n).map (fun i => d.lard.dataAt cs (off + i))

/-- Write bytes into the data of the listed cells from offset `off`; bytes past the last cell are dropped. -/
def Lard.writeData (l : Lard) (cells : List Nat) : Nat → Bytes → Lard
  | _, [] => l
  | off, b :: bs =>
    if off / 128 < cells.length then
      Lard.writeData { l with bytes := spPut l.bytes (128 * cells.getD (off / 128) 0 + off % 128) b } cells (off + 1) bs
    else l

/-- Write bytes into a chain's data from offset `off`. -/
def Dev.chainWrite (d : Dev) (c : Chain) (off : Nat) (bs : Bytes) : Dev :=
  let cs := d.chainCells c
  d.onLard (fun l => l.writeData cs off bs)

/-- A cell of the chain is poisoned. -/
def Dev.chainPoisoned (d : Dev) (c : Chain) : Bool := (d.chainCells c).any (fun i => spGet false d.lard.poison i)

/-- A cell is poisoned. -/
def Dev.cellPoisoned (d : Dev) (i : Nat) : Bool := spGet false d.lard.poison i

/-- Each read of a poisoned cell is counted (R470). -/
def Dev.countCells (d : Dev) (cs : List Nat) : Dev := d.bumpBy R.hlthCntPoison (cs.filter d.cellPoisoned).length

/-- A chain is read. -/
def Dev.countChain (d : Dev) (c : Chain) : Dev := d.countCells (d.chainCells c)

/-- Cells that hold `n` bytes. -/
def cellsFor (n : Nat) : Nat := (n + 127) / 128

end Sys2Proof.Machine
end

