-- ==== Sys2Proof/Machine/Mem.lean ====
section
/-! DEFINITION. The memories a thread and a helper reach: local memory, the packet window, tables, table SRAM and DRAM
(R172, R210 to R217, R284). -/

namespace Sys2Proof.Machine

/-! ## Threads and cores -/

/-- The key of a thread. -/
def tidKey (id : Tid) : Nat := (9 * id.g + id.c) * 8 + id.t

/-- The thread of a key. -/
def tidOfKey (k : Nat) : Tid := ⟨k / 72, k / 8 % 9, k % 8⟩

/-- The owner tag of a thread (R96). -/
def ownerTag (id : Tid) : Nat := 0x800 + id.g * 128 + id.c * 8 + id.t

/-- The thread an owner tag names; none for a tag that names no thread. -/
def tidOfTag (tag : Nat) : Option Tid :=
  if tag < 0x800 ∨ 0x1000 ≤ tag ∨ 9 ≤ bits tag 6 3 then none
  else some ⟨bits tag 10 7, bits tag 6 3, bits tag 2 0⟩

/-- A thread's state. -/
def Dev.thr (d : Dev) (id : Tid) : Thread := spGet Thread.init d.cores.threads (tidKey id)

/-- Set a thread's state. -/
def Dev.setThr (d : Dev) (id : Tid) (t : Thread) : Dev :=
  d.onCores (fun c => { c with threads := spSet Thread.init c.threads (tidKey id) t })

/-- Change a thread's state. -/
def Dev.updThr (d : Dev) (id : Tid) (f : Thread → Thread) : Dev := d.setThr id (f (d.thr id))

/-- A gallery. -/
def Dev.gal (d : Dev) (g : Nat) : Gallery := spGet Gallery.init d.cores.gals g

/-- Set a gallery. -/
def Dev.setGal (d : Dev) (g : Nat) (v : Gallery) : Dev :=
  d.onCores (fun c => { c with gals := spSet Gallery.init c.gals g v })

/-- The physical core of logical core `l` of gallery `g` (R170); none when it has none. -/
def Dev.physOf (d : Dev) (g l : Nat) : Option Nat :=
  match (d.gal g).coreMap[l]? with
  | some p => if p < 9 then some p else none
  | none => none

/-- The logical core a physical core carries. -/
def Dev.logicalOf (d : Dev) (g c : Nat) : Option Nat :=
  let i := (d.gal g).coreMap.findIdx (fun p => p = c)
  if c < 9 && i < (d.gal g).coreMap.length then some i else none

/-- The thread `t` of logical core `l` of gallery `g`. -/
def Dev.tidAt (d : Dev) (g l t : Nat) : Option Tid := (d.physOf g l).map (fun c => ⟨g, c, t⟩)

/-- The keeper of a gallery (R192). -/
def Dev.keeper (d : Dev) (g : Nat) : Option Tid := d.tidAt g 0 0

/-- A thread is the keeper of its gallery. -/
def Dev.isKeeper (d : Dev) (id : Tid) : Bool := d.keeper id.g = some id

/-- A thread is the head keeper. -/
def Dev.isHead (d : Dev) (id : Tid) : Bool := id.g = 0 && d.isKeeper id

/-! ## Local memory (R172) -/

/-- An access of `n` bytes at a local address lies in one region of the map. -/
def localOk (a n : Nat) : Bool :=
  a + n ≤ 0x6000 || (0x6000 ≤ a && a + n ≤ 0x6040) || (0x10000 ≤ a && a + n ≤ 0x20000)

/-- The key of a byte of common memory. -/
def commonKey (id : Tid) (a : Nat) : Nat := 65536 * (9 * id.g + id.c) + (a - 0x10000)

/-- A byte of local memory; a byte that nothing has written reads 0 (assumption 5). -/
def Dev.localByte (d : Dev) (id : Tid) (a : Nat) : Byte :=
  if a < 0x10000 then spGet 0 (d.thr id).mem a else spGet 0 d.cores.common (commonKey id a)

/-- Write a byte of local memory. -/
def Dev.setLocalByte (d : Dev) (id : Tid) (a : Nat) (b : Byte) : Dev :=
  if a < 0x10000 then d.updThr id (fun t => { t with mem := spSet 0 t.mem a b })
  else d.onCores (fun c => { c with common := spSet 0 c.common (commonKey id a) b })

/-- `n` bytes of local memory from `a`. -/
def Dev.localBytes (d : Dev) (id : Tid) (a n : Nat) : Bytes := (List.range n).map (fun i => d.localByte id (a + i))

/-- Write bytes of local memory from `a`. -/
def Dev.setLocalBytes (d : Dev) (id : Tid) : Nat → Bytes → Dev
  | _, [] => d
  | a, b :: bs => (d.setLocalByte id a b).setLocalBytes id (a + 1) bs

/-- The little-endian value of `n` bytes of local memory. -/
def Dev.localVal (d : Dev) (id : Tid) (a n : Nat) : Nat := leNat (d.localBytes id a n)

/-! ## Tables (R216) -/

/-- The entry of table `id` in the directory of generation `gen`. -/
def Dev.tabEnt (d : Dev) (gen id : Nat) : TabEnt :=
  spGet TabEnt.none (if d.bankAt 14 gen then d.cores.dirB else d.cores.dirA) id

/-- The directory of generation `gen` defines table `id`. -/
def Dev.tabDefined (d : Dev) (gen id : Nat) : Bool := id < 0xF0 && (d.tabEnt gen id).count ≠ 0

/-- The byte address of a place in a table entry. -/
def TabEnt.place (t : TabEnt) (idx off : Nat) : Nat := t.base + idx * t.size + off

/-- The key of a byte of the loader-written tables that holds a CONFIG table. -/
def configKey (dram : Bool) (a : Nat) : Nat := 2 ^ 32 + (if dram then 2 ^ 40 else 0) + a

/-- A byte of the loader-written tables of one bank (true is B). -/
def Dev.tabByte (d : Dev) (b : Bool) (k : Nat) : Byte := spGet 0 (if b then d.cores.tabB else d.cores.tabA) k

/-- A byte of table SRAM or DRAM; a byte that nothing has written reads 0 (assumption 5). -/
def Dev.memByte (d : Dev) (dram : Bool) (a : Nat) : Byte :=
  if dram then spGet 0 d.dmem.bytes a else spGet 0 d.cores.sram a

/-- Write a byte of table SRAM or DRAM; a failed channel discards it (R412). -/
def Dev.setMemByte (d : Dev) (dram : Bool) (a : Nat) (b : Byte) : Dev :=
  if dram then if d.dramFailed a then d else d.onDmem (fun m => { m with bytes := spSet 0 m.bytes a b })
  else d.onCores (fun c => { c with sram := spSet 0 c.sram a b })

/-- Write bytes of table SRAM or DRAM from `a`. -/
def Dev.setMemBytes (d : Dev) (dram : Bool) : Nat → Bytes → Dev
  | _, [] => d
  | a, b :: bs => (d.setMemByte dram a b).setMemBytes dram (a + 1) bs

/-- `n` bytes of table SRAM or DRAM from `a`. -/
def Dev.memBytes (d : Dev) (dram : Bool) (a n : Nat) : Bytes := (List.range n).map (fun i => d.memByte dram (a + i))

/-- The lines that `n` bytes from `a` touch. -/
def linesOf (a n : Nat) : List Nat :=
  if n = 0 then [] else (List.range ((a + n - 1) / 64 - a / 64 + 1)).map (fun i => a / 64 + i)

/-- A line is poisoned (R407, R469), or lies on a failed channel (R412). -/
def Dev.lineBad (d : Dev) (dram : Bool) (l : Nat) : Bool :=
  spGet false (if dram then d.dmem.poison else d.cores.sramPoison) l || (dram && d.dramFailed (64 * l))

/-- A line that `n` bytes from `a` touch reads as poisoned. -/
def Dev.memPoisoned (d : Dev) (dram : Bool) (a n : Nat) : Bool := (linesOf a n).any (d.lineBad dram)

/-- Each poisoned line that a read touches counts in POISON_READ of its channel (R407). -/
def Dev.countRead (d : Dev) (dram : Bool) (a n : Nat) : Dev :=
  if !dram then d
  else ((linesOf a n).filter (d.lineBad true)).foldl (fun d l => match d.dramMap (64 * l) with
    | some x => d.bump (chanOff x.1 R.dramChCnt + 8)
    | none => d) d

/-- A write of whole lines clears the poison of the lines it covers (R407, R469). -/
def Dev.clearPoison (d : Dev) (dram : Bool) (a n : Nat) : Dev :=
  let ls := (List.range ((n + 63) / 64 + 1)).map (fun i => (a + 63) / 64 + i)
  ls.foldl (fun d l =>
    if 64 * l + 64 ≤ a + n then
      if dram then d.onDmem (fun m => { m with poison := spSet false m.poison l false })
      else d.onCores (fun c => { c with sramPoison := spSet false c.sramPoison l false })
    else d) d

/-- Write a block of memory as a unit does: bytes, then the poison of whole lines cleared. -/
def Dev.writeMem (d : Dev) (dram : Bool) (a : Nat) (bs : Bytes) : Dev :=
  (d.setMemBytes dram a bs).clearPoison dram a bs.length

/-- Bytes lie in the key store region (R307). -/
def Dev.inKeyStore (d : Dev) (dram : Bool) (a n : Nat) : Bool :=
  dram = d.pool.storeDram && a < d.pool.storeBase + 2048 * d.ioFld R.sealKeystore 16 0 && d.pool.storeBase < a + n

/-- Write a block of memory for a master: none can write the key store region (R307). -/
def Dev.masterMem (d : Dev) (dram : Bool) (a : Nat) (bs : Bytes) : Dev :=
  if d.inKeyStore dram a bs.length then d else d.writeMem dram a bs

/-- A byte of a table entry as generation `gen` reads it. -/
def Dev.entByte (d : Dev) (gen id idx off : Nat) : Byte :=
  let t := d.tabEnt gen id
  match t.kind with
  | .data => d.memByte t.dram (t.place idx off)
  | .config => d.tabByte (d.bankAt 14 gen) (configKey t.dram (t.place idx off))

/-- `n` bytes of a table entry. -/
def Dev.entBytes (d : Dev) (gen id idx off n : Nat) : Bytes :=
  (List.range n).map (fun i => d.entByte gen id idx (off + i))

/-- Write bytes of an entry of a DATA table. -/
def Dev.setEntBytes (d : Dev) (gen id idx off : Nat) (bs : Bytes) : Dev :=
  let t := d.tabEnt gen id
  d.masterMem t.dram (t.place idx off) bs

/-- An entry and byte range exist in the directory of generation `gen`. -/
def Dev.entOk (d : Dev) (gen id idx off n : Nat) : Bool :=
  let t := d.tabEnt gen id
  d.tabDefined gen id && idx < t.count && off + n ≤ t.size

/-- Table `id` is a DATA table whose entries have `size` bytes, at least `count` of them. -/
def Dev.dataTable (d : Dev) (gen id size count : Nat) : Bool :=
  let t := d.tabEnt gen id
  d.tabDefined gen id && t.kind = .data && t.size = size && count ≤ t.count

/-! ## The clocks a program reads (R217) -/

/-- Strongroom time in TAI nanoseconds. -/
def Dev.srTime (d : Dev) : Nat := d.strong.time / 256 % 2 ^ 64

/-- The error bound in ns (R364, R366): in HOLDOVER it starts from 20 ns and grows by 1.389 ns for each second; in LOCKED
it is 20 ns; in the other states it is open, and drawn when the state is entered. -/
def Strong.errNs (s : Strong) : Nat :=
  match s.state with
  | 3 => 20
  | 4 => 20 + 1389 * s.hold / (256 * 10 ^ 12)
  | _ => s.err

/-- The time status word (R366). -/
def Dev.stStat (d : Dev) : Nat :=
  let s := d.strong
  s.state + b2n s.sealOk * 2 ^ 3 + b2n s.tclkOk * 2 ^ 4 + b2n s.ppsOk * 2 ^ 5 + b2n s.ppsPol * 2 ^ 6
    + Nat.min s.errNs 0xFFFFFF * 2 ^ 8 + s.chg % 2 ^ 32 * 2 ^ 32

/-- The value of a time special now, by its selector. -/
def Dev.clockVal (d : Dev) (sel : Nat) : Nat :=
  match sel with
  | 0 => d.drip.now % 2 ^ 56
  | 1 => d.drip.cycle % 2 ^ 64
  | 2 => d.srTime
  | _ => d.stStat

/-! ## The packet window (R215) -/

/-- Byte address of the shelf word that holds the window handle. -/
abbrev winHandle : Nat := 0x5FF8
/-- Byte address of the shelf word that holds the window length. -/
abbrev winLength : Nat := 0x5FFC

/-- The `k`-th cell of a chain that starts at `i`, if every cell before it is HELD. -/
def Lard.nth (l : Lard) : Nat → Nat → Option Nat
  | 0, i => if (spFind l.cells i).isSome then some i else none
  | k + 1, i => match spFind l.cells i with
    | some c => l.nth k c.next
    | none => none

/-- A window access of `n` bytes at `off` under the handle `h` and length `len`: the fault's class and incident code, or
the cells touched in order. -/
def Dev.windowCells (d : Dev) (id : Tid) (h len off n : Nat) : Except (Nat × Nat) (List Nat) :=
  match chainOf h with
  | none => .error (3, Code.reserved)
  | some c =>
    if c.count * 128 < len ∨ len < off + n then .error (3, Code.reserved)
    else
      let ks := (List.range ((off + n - 1) / 128 - off / 128 + 1)).map (fun k => off / 128 + k)
      let cs := ks.filterMap (fun k => d.lard.nth k c.head)
      if cs.length = ks.length && d.allOwned (ownerTag id) cs then .ok cs else .error (3, Code.notHolder)

/-- The value of `n` big-endian bytes of the listed cells, from offset `off` of the chain. -/
def Lard.windowVal (l : Lard) (cells : List Nat) (off n : Nat) : Nat :=
  beNat ((List.range n).map (fun i => l.dataAt cells (off % 128 + i)))

/-! ## Reads and writes of an evaluated operand -/

/-- Read `n` bytes of an operand (1 to 256 bits): its value, or the fault's class and incident code (R225). A thread's
table reads use its generation `gen`. -/
def Dev.readLoc (d : Dev) (id : Tid) (gen n : Nat) : Loc → Except (Nat × Nat) Nat
  | .imm v => .ok v
  | .clock sel => .ok (d.clockVal sel % 2 ^ (8 * n))
  | .mem a => if localOk a n then .ok (d.localVal id a n) else .error (2, Code.notOwner)
  | .window h len off =>
    match d.windowCells id h len off n with
    | .error e => .error e
    | .ok cs =>
      if cs.any (fun i => spGet false d.lard.poison i) then .error (3, Code.poisoned)
      else .ok (d.lard.windowVal cs off n)
  | .table t idx off =>
    if !d.entOk gen t idx off n then .error (4, Code.reserved)
    else if d.memPoisoned (d.tabEnt gen t).dram ((d.tabEnt gen t).place idx off) n then .error (4, Code.poisoned)
    else .ok (leNat (d.entBytes gen t idx off n))

/-- The reads of poisoned cells and lines by an access of `n` bytes are counted (R407, R470). -/
def Dev.countLoc (d : Dev) (id : Tid) (gen n : Nat) : Loc → Dev
  | .window h len off => match d.windowCells id h len off n with | .ok cs => d.countCells cs | .error _ => d
  | .table t idx off =>
    if d.entOk gen t idx off n then d.countRead (d.tabEnt gen t).dram ((d.tabEnt gen t).place idx off) n else d
  | _ => d

/-- The fault a write of `n` bytes to an operand raises, if any. -/
def Dev.writeFault (d : Dev) (id : Tid) (gen n : Nat) : Loc → Option (Nat × Nat)
  | .imm _ => none
  | .clock _ => none
  | .mem a => if localOk a n then none else some (2, Code.notOwner)
  | .window h len off => match d.windowCells id h len off n with | .error e => some e | .ok _ => none
  | .table t idx off =>
    if d.tabDefined gen t && (d.tabEnt gen t).kind = .config then some (4, Code.notOwner)
    else if !d.entOk gen t idx off n then some (4, Code.reserved)
    else none

/-- Write the low `n` bytes of `v` to an operand that raises no fault. -/
def Dev.writeLoc (d : Dev) (id : Tid) (gen n : Nat) (v : Nat) : Loc → Dev
  | .imm _ => d
  | .clock _ => d
  | .mem a => d.setLocalBytes id a (leBytes n v)
  | .window h len off =>
    match d.windowCells id h len off n with
    | .error _ => d
    | .ok cs => d.onLard (fun l => l.writeData cs (off % 128) (beBytes n v))
  | .table t idx off => d.setEntBytes gen t idx off (leBytes n v)

end Sys2Proof.Machine
end

