-- ==== Sys2Proof/Machine/Threads.lean ====
section
/-! DEFINITION. Threads (chapter 07): flags, events, the end of a wait, channels and their receivers. -/

namespace Sys2Proof.Machine

/-! ## Event bits (R182) -/

/-- A SEV from the receiver's own stillness domain. -/
abbrev Ev.sevl : Nat := 0
/-- A SEV from any other thread, or from GALL_SEV. -/
abbrev Ev.sevx : Nat := 1
/-- A helper command completes. -/
abbrev Ev.help : Nat := 2
/-- A message is committed to an empty channel of the thread. -/
abbrev Ev.chrx : Nat := 3
/-- A slot frees in a channel the thread found full. -/
abbrev Ev.chtx : Nat := 4
/-- An armed Latch becomes free. -/
abbrev Ev.latch : Nat := 5
/-- The deadline of the current WAITT is reached. -/
abbrev Ev.time : Nat := 6
/-- A domain of the gallery is found still. -/
abbrev Ev.still : Nat := 8
/-- A thread of the gallery parks. -/
abbrev Ev.fault : Nat := 9
/-- A core of the gallery is retired. -/
abbrev Ev.retire : Nat := 10
/-- An exception packet is queued to the keeper. -/
abbrev Ev.exc : Nat := 11
/-- An entry is written to an orphan log of the gallery. -/
abbrev Ev.orphan : Nat := 12
/-- The GALL commit group flips. -/
abbrev Ev.code : Nat := 13
/-- Head keeper: a commit completion, a pn_warn or a new incident record. -/
abbrev Ev.dev : Nat := 14

/-- The bits of EV and EVP that exist for a thread: 8 to 14 only for keepers. -/
def evMask (keeper : Bool) : Nat := if keeper then 0x7F7F else 0x7F

/-- CODE and FAULT are always enabled in a keeper (R186). -/
def keeperBits : Nat := 2 ^ Ev.code + 2 ^ Ev.fault

/-! ## Flags (R206, R207) -/

/-- FLAGS with the completion code and w of a channel, helper, Larder, session, Latch or thread-control
instruction; the other bits are kept. -/
def flagsCode (f : Word) (code : Nat) (w : Bool) : Word := setFld (setFld f 15 8 code) 16 16 (b2n w)

/-- Write a thread's FLAGS.code and w. -/
def Dev.setCode (d : Dev) (id : Tid) (code : Nat) (w : Bool) : Dev :=
  d.updThr id (fun t => { t with flags := flagsCode t.flags code w })

/-! ## The end of a wait (R183, R193, R245) -/

/-- The state a thread has after an instruction: READY, or HALTED again when the debugger steps it or has asked it
to halt (R197, R517). -/
def Thread.after (t : Thread) : Thread :=
  if t.stepping || t.haltReq then { t with state := .halted, stepping := false, haltReq := false }
  else { t with state := .ready }

/-- The thread goes on after micro-step `m.step` of its macro: after the last the PC moves past the macro instruction, and
a halt asked for takes effect (R223, R261). -/
def Thread.microDone (t : Thread) (m : MacroRun) : Thread :=
  if m.count ≤ m.step + 1 then { t with pc := w32 m.next, macroRun := none }.after
  else { t with macroRun := some { m with step := m.step + 1 }, state := .ready }

/-- The thread's wait ends and it continues at the instruction after it, or at its macro's next micro-step. -/
def Dev.endWait (d : Dev) (id : Tid) : Dev :=
  d.updThr id (fun t =>
    let t' := { t with b := t.wait.b, wait := Wait.idle, repAt := none }
    match t.macroRun with
    | some m => t'.microDone m
    | none => { t' with pc := w32 t.wait.next }.after)

/-- The mask a waiting WFE or WAITT waits on, CODE and FAULT added in a keeper (R245). -/
def Dev.waitMask (d : Dev) (id : Tid) : Nat :=
  let t := d.thr id
  let m := if t.wait.kind = .wfe then t.ev.toNat else t.wait.mask
  if d.isKeeper id then m ||| keeperBits else m

/-- The wait of the thread is a WAITT, or a keeper's WFE, which waits as one (R186). -/
def Dev.isWaitt (d : Dev) (id : Tid) : Bool :=
  let k := (d.thr id).wait.kind
  k = .waittD || k = .waittC || (k = .wfe && d.isKeeper id)

/-- The keeper entry point of the LIVE bank (R193). -/
def Dev.keeperEntryLive (d : Dev) : Nat := d.cores.keeperEntry.getD (b2n (d.group 14).liveB) 0

/-- A waiting WFE or WAITT completes: the bits are cleared from EVP and reported. A keeper that completes it with CODE
among them resumes at the keeper entry point of the LIVE bank instead (R193, R208). -/
def Dev.endEventWait (d : Dev) (id : Tid) : Dev :=
  let t := d.thr id
  let m := d.waitMask id ||| (if d.isWaitt id then 2 ^ Ev.time else 0)
  let rep := t.evp.toNat &&& m
  let d := d.updThr id (fun t => { t with evp := t.evp &&& ~~~(w32 rep) })
  if d.isKeeper id && bitOf rep Ev.code then
    let gen := (d.group 14).genLive
    let d := d.setLocalBytes id 0x5FF0 (leBytes 4 rep)
    d.updThr id (fun t => { t with pc := w32 d.keeperEntryLive, codeGen := gen, wait := Wait.idle }.after)
  else (d.writeLoc id t.codeGen 4 rep t.wait.dst).endWait id

/-- A thread waits in a WFE or a WAITT. -/
def Thread.eventWait (t : Thread) : Bool :=
  t.state = .waiting && (t.wait.kind = .wfe || t.wait.kind = .waittD || t.wait.kind = .waittC)

/-- The deadline of a thread's WAITT, or of a keeper's WFE, is reached. -/
def Dev.deadlineReached (d : Dev) (id : Tid) : Bool :=
  let w := (d.thr id).wait
  d.isWaitt id && (if w.kind = .waittC then w.value ≤ d.drip.cycle else w.value ≤ d.drip.now)

/-- Complete the thread's event wait if its deadline is reached or an event of its mask is pending. -/
def Dev.waitCheck (d : Dev) (id : Tid) : Dev :=
  if !(d.thr id).eventWait then d
  else if d.deadlineReached id then
    (d.updThr id (fun t => { t with evp := t.evp ||| w32 (2 ^ Ev.time) })).endEventWait id
  else if ((d.thr id).evp.toNat &&& d.waitMask id) ≠ 0 then d.endEventWait id
  else d

/-- An event sets its bit in EVP and completes a wait that it enables (R182, R183), with TIME too where the wait's deadline is reached
in the same clock (R245). -/
def Dev.event (d : Dev) (id : Tid) (bit : Nat) : Dev :=
  if !bitOf (evMask (d.isKeeper id)) bit then d
  else
    let d := d.updThr id (fun t => { t with evp := t.evp ||| w32 (2 ^ bit) })
    let t := d.thr id
    if t.eventWait && (t.evp.toNat &&& d.waitMask id) ≠ 0 then d.waitCheck id else d

/-- An event for the keeper of gallery `g`. -/
def Dev.keeperEvent (d : Dev) (g bit : Nat) : Dev :=
  match d.keeper g with | some k => d.event k bit | none => d

/-! ## Generations of threads (R39, R176) -/

/-- The generation a thread works with: its task's packet's, else that of the LIVE GALL bank when its code was
chosen. -/
def Dev.thrGen (d : Dev) (id : Tid) : Nat := (d.thr id).codeGen

/-! ## Channels (R187 to R190) -/

/-- GALL_CHAN_c of gallery `g`, LIVE. -/
def Dev.chanCfg (d : Dev) (g c : Nat) : Nat := d.live (R.gallChan + 0x40000 * g + 4 * c)

/-- The channel is in use. -/
def Dev.chanOn (d : Dev) (g c : Nat) : Bool := bitOf (d.chanCfg g c) 0

/-- The host interface is the receiver of the channel (R453). -/
def Dev.chanIsUp (d : Dev) (g c : Nat) : Bool :=
  g = 0 && bitOf (d.live R.hostCfg) 16 && d.liveFld R.hostCfg 15 8 = c

/-- The Rope is the receiver of the channel (R466). -/
def Dev.chanIsRope (d : Dev) (g c : Nat) : Bool :=
  g = 0 && bitOf (d.live R.ropeCfg) 21 && d.liveFld R.ropeCfg 12 5 = c

/-- The thread that receives from the channel; none when the host interface or the Rope does. -/
def Dev.chanRx (d : Dev) (g c : Nat) : Option Tid :=
  if !d.chanOn g c || d.chanIsUp g c || d.chanIsRope g c then none
  else d.tidAt g (bits (d.chanCfg g c) 3 1) (bits (d.chanCfg g c) 6 4)

/-- A thread may send on the channel (R187). -/
def Dev.maySend (d : Dev) (id : Tid) (c : Nat) : Bool :=
  d.chanOn id.g c &&
    (!bitOf (d.chanCfg id.g c) 7 || d.logicalOf id.g id.c = some (bits (d.chanCfg id.g c) 3 1))

/-- The messages in a channel, head first. -/
def Dev.chan (d : Dev) (g c : Nat) : List Msg := spGet [] (d.gal g).chans c

/-- Set the messages in a channel. -/
def Dev.setChan (d : Dev) (g c : Nat) (l : List Msg) : Dev :=
  d.setGal g { d.gal g with chans := spSet [] (d.gal g).chans c l }

/-- Threads in a waiting CHSEND on the channel, in order of first attempt. -/
def Dev.senders (d : Dev) (g c : Nat) : List Tid := spGet [] (d.gal g).senders c

/-- Set the waiting senders of a channel. -/
def Dev.setSenders (d : Dev) (g c : Nat) (l : List Tid) : Dev :=
  d.setGal g { d.gal g with senders := spSet [] (d.gal g).senders c l }

/-- The message a thread's staging holds (R188, R247). -/
def Dev.staged64 (d : Dev) (id : Tid) : Msg :=
  let t := d.thr id
  ⟨d.localBytes id 0x6000 64, ownerTag id, match t.desc with | some p => p.attempt % 256 | none => 0⟩

/-- CHTX for every thread whose last trying send found this channel full. -/
def Dev.chtxEvents (d : Dev) (g c : Nat) : Dev :=
  (d.cores.threads.filter (fun e => (tidOfKey e.1).g = g && e.2.chtx = some c)).foldl
    (fun d e => d.event (tidOfKey e.1) Ev.chtx) d

/-- The word a receive reports (R247). -/
def Msg.word (m : Msg) : Nat := m.sender + m.attempt * 2 ^ 16

/-- Put a message into a thread's receive operands. -/
def Dev.recvInto (d : Dev) (id : Tid) (dst dst2 : Loc) (m : Msg) : Dev :=
  let d := match dst with | .mem a => d.setLocalBytes id a m.data | _ => d
  d.writeLoc id (d.thrGen id) 4 m.word dst2

/-- A thread waits in a CHRECV on the channel. -/
def Dev.recvWaits (d : Dev) (id : Tid) (c : Nat) : Bool :=
  let t := d.thr id
  t.state = .waiting && t.wait.kind = .chrecv && t.wait.what = c

/-- A message joins the tail of a channel with room: CHRX when it was empty, and a waiting receiver takes it
(R182, R189); the host interface and the Rope note its arrival. A message that a waiting receiver takes at once has occupied no
slot, so no slot is freed and no CHTX sent (DESIGN CHOICE, assumption 62). -/
def Dev.chanPush (d : Dev) (g c : Nat) (m : Msg) : Dev :=
  let empty := (d.chan g c).isEmpty
  let d := if d.chanIsUp g c then d.onHost (fun h => { h with upArrived := true }) else d
  match d.chanRx g c with
  | none => d.setChan g c (d.chan g c ++ [m])
  | some r =>
    if empty && d.recvWaits r c then
      let t := d.thr r
      (((d.recvInto r t.wait.dst t.wait.dst2 m).setCode r Code.ok false).endWait r).event r Ev.chrx
    else
      let d := d.setChan g c (d.chan g c ++ [m])
      if empty then d.event r Ev.chrx else d

/-- A waiting CHSEND is accepted: its staging joins the channel and its wait ends (R188, R248). -/
def Dev.acceptSender (d : Dev) (g c : Nat) : Dev :=
  match d.senders g c with
  | [] => d
  | s :: rest =>
    let m := d.staged64 s
    let d := d.setSenders g c rest
    ((d.chanPush g c m).setCode s Code.ok false).endWait s

/-- A CPL of a received MBOX message (R466): its serial, as the model lays the payload out (assumption 9). -/
def mboxCpl (serial : Nat) : Bytes := [255] ++ leBytes 4 serial

/-- A message the Rope holds for its channel is committed once the channel has room (R466). -/
def Dev.ropeCommit (d : Dev) (g c : Nat) : Dev :=
  match d.rope.mboxHeld with
  | (serial, data) :: rest =>
    if g = 0 && d.liveFld R.ropeCfg 20 13 = c && (d.chan 0 c).length < 4 then
      let d := d.onRope (fun r => { r with mboxHeld := rest, mboxSeen := some serial })
      let d := if d.ioFld R.ropeStat 1 0 = 2 then d.ropeEmit 3 0 (mboxCpl serial) else d
      d.chanPush 0 c ⟨data, 0x201, 0⟩
    else d
  | [] => d

/-- The head message leaves the channel: CHTX is sent, the oldest waiting sender is accepted, and a message the Rope holds
may be committed. -/
def Dev.chanPop (d : Dev) (g c : Nat) : Dev :=
  match d.chan g c with
  | [] => d
  | _ :: rest => (((d.setChan g c rest).chtxEvents g c).acceptSender g c).ropeCommit g c

/-- Take a thread out of every list of waiting senders. -/
def Dev.leaveSenders (d : Dev) (id : Tid) : Dev :=
  let g := d.gal id.g
  d.setGal id.g { g with senders := g.senders.filterMap (fun e =>
    let l := e.2.filter (fun s => s ≠ id)
    if l.isEmpty then none else some (e.1, l)) }

/-! ## Stillness (R196) -/

/-- The stillness domain of a thread; keepers belong to none. -/
def Dev.domainOf (d : Dev) (id : Tid) : Option Nat :=
  if d.isKeeper id then none
  else if bitOf (d.live (R.gallCfg + 0x40000 * id.g)) 1 then some 8 else d.logicalOf id.g id.c

/-- A set GALL_STILL bit clears: the detector may act for the domain again from the next boundary on (R196). -/
def Still.clear (e : Still) (now : Nat) : Still := if e.bit then { e with bit := false, rearm := now + 1 } else e

/-- A thread issues an instruction or leaves its domain: the domain's GALL_STILL bit clears, and so does that of the domain it
had in the other still_mode. Its run of still boundaries is the detector's, which looks at boundaries only (R196). -/
def Dev.unstill (d : Dev) (id : Tid) : Dev :=
  match d.domainOf id with
  | none => d
  | some _ =>
    d.setGal id.g { d.gal id.g with still := (d.gal id.g).still.map (fun e =>
      (e.1, if e.1 = 8 || d.logicalOf id.g id.c = some e.1 then e.2.clear d.drip.now else e.2)) }

end Sys2Proof.Machine
end

