-- ==== Sys2Proof/Machine/LatchOps.lean ====
section
/-! DEFINITION. The Latch unit (chapter 10): access, acquire with its wait-for walk, grant, release and the loss of a
holder. -/

namespace Sys2Proof.Machine

/-- The owner tag of the host (R96). -/
abbrev tagHost : Nat := 0x200
/-- The owner tag of the peer (R96). -/
abbrev tagPeer : Nat := 0x201

/-- The owner tag of a master that uses Latches and the Larder: the host, else the peer. -/
def masterTag (m : Nat) : Nat := if m = 3 then tagHost else tagPeer

/-- The master an owner tag names, if any. -/
def masterOfTag (tag : Nat) : Option Nat := if tag = tagHost then some 3 else if tag = tagPeer then some 4 else none

/-- Latch `n`. -/
def Dev.latch (d : Dev) (n : Nat) : Latch := spGet Latch.init d.latches n

/-- Set Latch `n`. -/
def Dev.setLatch (d : Dev) (n : Nat) (l : Latch) : Dev := d.onLatches (fun m => spSet Latch.init m n l)

/-- The first configuration word of the group of Latch `n`, LIVE (R265). -/
def Dev.latchGrp (d : Dev) (n : Nat) : Nat := d.live (R.ltchGrp0 + 8 * (n / 64))

/-- The acquire wait limit of the group of Latch `n`, in drips. -/
def Dev.latchTimeout (d : Dev) (n : Nat) : Nat := d.liveFld (R.ltchGrp1 + 8 * (n / 64)) 15 0

/-- The hold watchdog of the group of Latch `n`. -/
def Dev.latchHold (d : Dev) (n : Nat) : Nat := d.liveFld (R.ltchGrp1 + 8 * (n / 64)) 31 16

/-- The group's policy is HOLDER_OR_KEEPER. -/
def Dev.latchStrict (d : Dev) (n : Nat) : Bool := bitOf (d.latchGrp n) 26

/-- A requester has access to the group of Latch `n` (R266). -/
def Dev.latchAccess (d : Dev) (n tag : Nat) : Bool :=
  let w := d.latchGrp n
  match tidOfTag tag with
  | some id => bitOf w id.g && bitOf w (16 + id.t)
  | none => if tag = tagHost then bitOf w 24 else bitOf w 25

/-- The reset generation recorded with a holder: 0 for the host and the peer (R268). -/
def Dev.rgenOf (d : Dev) (tag : Nat) : Nat :=
  match tidOfTag tag with | some id => (d.thr id).rgen | none => 0

/-- A counter of the Latch unit. -/
def Dev.latchCount (d : Dev) (i : Nat) : Dev := d.bump (R.ltchCnt + 4 * i)

/-- Latch `n` is granted to `tag` (R269, R271). -/
def Dev.latchGrant (d : Dev) (n tag rgen : Nat) (poisoned : Bool) (rest : List LWaiter) : Dev :=
  let d := (d.latchCount 0).setLatch n ⟨.held, tag, rgen, rest, d.drip.now, false⟩
  if poisoned then d.latchCount 3 else d

/-- The payload of a CPL of a partner's request: its master, the code and the value (assumption 9). -/
def reqCpl (peer code data : Nat) : Bytes := leBytes 1 peer ++ leBytes 1 code ++ leBytes 4 data

/-- The read of one of the partner's masters that waited for Latch `n` until `deadline` returns its code to the partner
(R277, R465). -/
def Dev.peerLatch (d : Dev) (n deadline code : Nat) : Dev :=
  match d.rope.latchPeer.find? (fun a => a.latch = n && a.deadline = deadline) with
  | some a =>
    let d := d.onRope (fun r => { r with latchPeer := r.latchPeer.erase a })
    if d.ioFld R.ropeStat 1 0 = 2 then d.ropeEmit 3 0 (reqCpl a.peer Code.ok code) else d
  | none => d

/-- The code a requester that waited for Latch `n` receives: a thread's MOV completes with it, a master's read returns
it. -/
def Dev.latchAnswer (d : Dev) (n : Nat) (w : LWaiter) (code : Nat) : Dev :=
  let tag := w.tag
  match tidOfTag tag with
  | some id =>
    let t := d.thr id
    ((d.writeLoc id t.codeGen (t.wait.value) code t.wait.dst).setCode id code false).endWait id
  | none => match masterOfTag tag with
    | some m =>
      let d := d.onCsr (fun c => { c with rdata := spSet 0 c.rdata m (w32 code) })
      if m = 4 then d.peerLatch n w.deadline code else d
    | none => d

/-- LATCH for every thread that armed Latch `n`, which is then disarmed (R273). -/
def Dev.latchEvents (d : Dev) (n : Nat) : Dev :=
  (d.cores.threads.filter (fun e => e.2.armed = some n)).foldl
    (fun d e => (d.updThr (tidOfKey e.1) (fun t => { t with armed := none })).event (tidOfKey e.1) Ev.latch) d

/-- Latch `n` becomes free: it goes to the waiter that joined first, else it is FREE or FREE_POISONED (R271). -/
def Dev.latchFree (d : Dev) (n : Nat) (poisoned : Bool) : Dev :=
  match (d.latch n).waiters with
  | w :: rest =>
    (d.latchGrant n w.tag w.rgen poisoned rest).latchAnswer n w (if poisoned then Code.poisoned else Code.ok)
  | [] => (d.setLatch n { Latch.init with state := if poisoned then .freePoisoned else .free }).latchEvents n

/-- The Latch a requester waits on. -/
def Dev.waitsOn (d : Dev) (tag : Nat) : Option Nat :=
  (d.latches.find? (fun e => e.2.waiters.any (fun w => w.tag = tag))).map Prod.fst

/-- The outcome of the wait-for walk (R270). -/
inductive LWalk | cycle | clear | long
  deriving DecidableEq, Repr

/-- Hops of the walk that remain, from the Latch `n` whose holder is examined now: it stops at a holder that does not
wait, and at the holder of an ORPHANED Latch. -/
def Dev.latchWalk (d : Dev) (r : Nat) : Nat → Nat → LWalk
  | 0, _ => .long
  | f + 1, n =>
    let l := d.latch n
    if l.holder = r then .cycle
    else if l.state = .orphaned then .clear
    else match d.waitsOn l.holder with
      | none => .clear
      | some m => d.latchWalk r f m

/-- An acquire by `tag` (R269, R270, R273): its code, or none when the requester now waits until `deadline`. -/
def Dev.latchAcquire (d : Dev) (n tag deadline : Nat) (try_ : Bool) : Option Nat × Dev :=
  let l := d.latch n
  if !d.latchAccess n tag then (some Code.notOwner, d)
  else match l.state with
    | .free => (some Code.ok, d.latchGrant n tag (d.rgenOf tag) false [])
    | .freePoisoned => (some Code.poisoned, d.latchGrant n tag (d.rgenOf tag) true [])
    | _ =>
      if try_ || d.latchTimeout n = 0 then
        let d := d.latchCount 1
        match try_, tidOfTag tag with
        | true, some id => (some Code.timeout, d.updThr id (fun t => { t with armed := some n }))
        | _, _ => (some Code.timeout, d)
      else match d.latchWalk tag 8 n with
        | .cycle => (some Code.cycle, d.latchCount 2)
        | w =>
          let d := if w = .long then d.latchCount 8 else d
          (none, d.setLatch n { l with waiters := l.waiters ++ [⟨tag, d.rgenOf tag, deadline⟩] })

/-- A requester may force Latch `n`: the head keeper, or the keeper of the gallery of the thread that holds it
(R274). -/
def Dev.latchForcer (d : Dev) (n tag : Nat) : Bool :=
  match tidOfTag tag with
  | none => false
  | some id => d.isHead id || (d.isKeeper id && match tidOfTag (d.latch n).holder with
      | some h => h.g = id.g
      | none => false)

/-- A release or force by `tag` with the value `v` written (R274): its code and the device after it. -/
def Dev.latchRelease (d : Dev) (n tag v : Nat) : Nat × Dev :=
  let l := d.latch n
  let force := v % 4 = 1
  if !(if force then d.latchForcer n tag else d.latchAccess n tag) then (Code.notOwner, d)
  else if 2 ≤ v then (Code.reserved, d)
  else if l.state ≠ .held && l.state ≠ .orphaned then (Code.doubleFree, d.latchCount 6)
  else if !force && (l.state = .orphaned ||
      (d.latchStrict n && !(l.holder = tag && l.rgen = d.rgenOf tag))) then (Code.notHolder, d.latchCount 7)
  else if force then
    let d := (d.latchCount 5).incident 13 Code.poisoned tag n (l.holder + l.rgen * 2 ^ 12)
    (Code.ok, d.latchFree n true)
  else (Code.ok, d.latchFree n false)

/-- The Latches a requester holds. -/
def Dev.latchesOf (d : Dev) (tag : Nat) : List Nat :=
  (d.latches.filter (fun e => e.2.state = .held && e.2.holder = tag)).map Prod.fst

/-- One Latch loses its holder (R275). -/
def Dev.orphanLatch (d : Dev) (n : Nat) : Dev :=
  let l := d.latch n
  let d := (d.latchCount 4).incident 13 Code.orphaned l.holder (n + b2n (d.latchStrict n) * 2 ^ 12) l.rgen
  if d.latchStrict n then d.setLatch n { l with state := .orphaned } else d.latchFree n true

/-- A stopped requester's Latches become ORPHANED or are released poisoned by policy (R275). -/
def Dev.orphanLatches (d : Dev) (tag : Nat) : Dev := (d.latchesOf tag).foldl (fun d n => d.orphanLatch n) d

/-- A requester leaves the waiters of every Latch (R272). -/
def Dev.leaveLatches (d : Dev) (tag : Nat) : Dev :=
  d.onLatches (fun m => m.map (fun e => (e.1, { e.2 with waiters := e.2.waiters.filter (fun w => w.tag ≠ tag) })))

/-- A waiter leaves Latch `n` with a code. -/
def Dev.endLatchWait (d : Dev) (n : Nat) (w : LWaiter) (code : Nat) : Dev :=
  let l := d.latch n
  (d.setLatch n { l with waiters := l.waiters.erase w }).latchAnswer n w code

/-- The status word of Latch `n` (R268). -/
def Dev.latchStatus (d : Dev) (n : Nat) : Nat :=
  let l := d.latch n
  let st := match l.state with | .free => 0 | .held => 1 | .orphaned => 2 | .freePoisoned => 3
  l.holder + l.rgen * 2 ^ 12 + st * 2 ^ 28 + b2n (!l.waiters.isEmpty) * 2 ^ 30

/-- A flip of the LTCH group (R266): waiters without access are refused, and the ORPHANED Latches of a group whose
policy becomes ANY are released. -/
def Dev.latchFlip (d : Dev) (wasStrict : List Nat) : Dev :=
  let d := d.latches.foldl (fun d e => e.2.waiters.foldl (fun d w =>
    if d.latchAccess e.1 w.tag then d else d.endLatchWait e.1 w Code.notOwner) d) d
  d.latches.foldl (fun d e =>
    if e.2.state = .orphaned && wasStrict.contains (e.1 / 64) && !d.latchStrict e.1 then d.latchFree e.1 true
    else d) d

end Sys2Proof.Machine
end

