-- ==== Sys2Proof/Machine/Order.lean ====
section
/-! DEFINITION. Order domains, the reorder stage and the egress FIFOs (R110 to R118), with the flooding of R158. -/

namespace Sys2Proof.Machine

/-- The owner tag of the fixed stages of a pipe (R96). -/
def pipeTag (p : Nat) : Nat := if p = 0 then 1 else 2

/-- A sequence number of 24 bits. -/
def seq24 (n : Nat) : Nat := n % 2 ^ 24

/-- The next-expected number of a domain. -/
def Dev.nextSeq (d : Dev) (dom : Nat) : Nat := spGet 0 d.egrs.next dom

/-- Set the next-expected number of a domain. -/
def Dev.setNextSeq (d : Dev) (dom n : Nat) : Dev :=
  d.onEgrs (fun e => { e with next := spSet 0 e.next dom (seq24 n) })

/-- The domain's next sequence number, which the assign counter then passes (R84, R110). -/
def Dev.takeSeq (d : Dev) (dom : Nat) : Nat × Dev :=
  let n := spGet 0 d.egrs.assign dom
  (n, d.onEgrs (fun e => { e with assign := spSet 0 e.assign dom (seq24 (n + 1)) }))

/-- A late packet or empty number is dropped, counted and recorded (R115). -/
def Dev.lateDrop (d : Dev) (e : RoEntry) : Dev :=
  let empty := e.pkt.isNone
  let d := (d.bump R.egrsLate).incident 18 Code.timeout 0 e.domain (e.seq + 2 ^ 31 + b2n empty * 2 ^ 30)
  match e.pkt with | some p => d.freeChain p.chain | none => d

/-- A packet or empty number enters the reorder stage: releasable or waiting, or late (R112). -/
def Dev.reorderEnter (d : Dev) (e : RoEntry) : Dev :=
  if 2 ^ 23 ≤ seq24 (e.seq + 2 ^ 24 - d.nextSeq e.domain) then d.lateDrop e
  else d.onEgrs (fun g => { g with waiting := g.waiting ++ [e] })

/-- A sequence number is released empty (R85). -/
def Dev.releaseEmpty (d : Dev) (dom s : Nat) : Dev := d.reorderEnter ⟨dom, s, none, 0, d.drip.now, none⟩

/-- A packet is dropped: its chain is freed and a number it holds is released empty (R85). -/
def Dev.dropPkt (d : Dev) (p : Pkt) : Dev :=
  let d := d.freeChain p.chain
  match p.seq with | some s => d.releaseEmpty p.domain s | none => d

/-! ## Egress FIFOs (R117) -/

/-- The MAC that an egress bay names in the LIVE bank. -/
def Dev.bayMac (d : Dev) (bay : Nat) : Nat := d.liveFld (R.portBay0 + 8 * bay) 6 0

/-- The pipe that serves a MAC (R16): the pipe of its first lane, pipe 1 for the Rope. -/
def Dev.macPipe (d : Dev) (mac : Nat) : Nat :=
  if mac = 64 then 1 else if d.liveFld (R.portMacCfg + 4 * mac) 18 15 < 8 then 0 else 1

/-- The packets of a bay's FIFO, head first. Each leaves by the MAC the bay named when it joined (R117), so that packets
keep their order in the bay when it is bound to another MAC (R118). -/
def Dev.fifo (d : Dev) (bay : Nat) : List EgPkt := spGet [] d.egrs.fifos bay

/-- Set the packets of a FIFO. -/
def Dev.setFifo (d : Dev) (bay : Nat) (l : List EgPkt) : Dev :=
  d.onEgrs (fun e => { e with fifos := spSet [] e.fifos bay l })

/-- Another copy of a flooded packet still waits in a FIFO. -/
def Dev.sharedChain (d : Dev) (c : Chain) : Bool :=
  d.egrs.fifos.any (fun f => f.2.any (fun e => e.pkt.flood && e.pkt.chain.head = c.head))

/-- Free the chain of a packet that leaves a FIFO, unless another copy of the flood still waits (R158). -/
def Dev.freeEgress (d : Dev) (p : Pkt) : Dev :=
  if p.flood && d.sharedChain p.chain then d else d.freeChain p.chain

/-- Cells queued in a FIFO. -/
def fifoCells (l : List EgPkt) : Nat := (l.map (fun e => e.pkt.chain.count)).foldl (· + ·) 0

/-- A released packet joins the FIFO of its bay, or is dropped beyond the bay's qlimit (R117). -/
def Dev.joinFifo (d : Dev) (p : Pkt) (bay : Nat) (sess : Option SessData) : Dev :=
  let l := d.fifo bay
  if 16 * d.liveFld (R.egrsBay + 4 * bay) 19 8 < fifoCells l + p.chain.count then
    (d.bump R.egrsQdrop).freeEgress p
  else d.setFifo bay (l ++ [⟨p, bay, sess, none, [], d.bayMac bay⟩])

/-- The flood members of a bridge domain in a bank, except bay `ingress`, in rising bay number (R158). -/
def Dev.floodBays (d : Dev) (b : Bool) (bd ingress : Nat) : List Nat :=
  (if b then d.csr.bankB else d.csr.bankA).filterMap (fun e =>
    let v := e.2.toNat
    let n := (e.1 - R.fwdtBay) / 4
    if R.fwdtBay ≤ e.1 ∧ e.1 < R.fwdtBay + 4 * 4096 ∧ bitOf v 14 ∧ bits v 11 0 = bd ∧ n ≠ ingress
    then some n else none)

/-- The bays a flooded packet is copied to: the members of its ingress bay's domain, in its generation (R158). -/
def Dev.floodMembers (d : Dev) (p : Pkt) : List Nat :=
  let b := d.bankAt 7 p.gen
  d.floodBays b (bits (d.bankWord b (R.fwdtBay + 4 * p.bay)) 11 0) p.bay

/-- A flooded packet is copied to every member bay of its domain (R158); the forwarding stage counted it and dropped one
without members. -/
def Dev.flood (d : Dev) (p : Pkt) : Dev :=
  let ms := d.floodMembers p
  if ms.isEmpty then d.freeChain p.chain
  else
    -- every copy is queued before any is dropped, so that the chain is freed only with its last copy
    let d := ms.foldl (fun d m => d.setFifo m (d.fifo m ++ [⟨p, m, none, none, [], d.bayMac m⟩])) d
    ms.foldl (fun d m =>
      let l := d.fifo m
      if 16 * d.liveFld (R.egrsBay + 4 * m) 19 8 < fifoCells l then
        ((d.setFifo m l.dropLast).bump R.egrsQdrop).freeEgress p
      else d) d

/-- A packet the reorder stage releases: to its bay, or flooded. -/
def Dev.releasePkt (d : Dev) (e : RoEntry) : Dev :=
  match e.pkt with
  | none => d
  | some p => if p.flood then d.flood p else d.joinFifo p e.bay e.sess

/-- The entry with the next-expected number of a domain that reached the stage before this drip. -/
def Dev.readyEntry (d : Dev) (dom : Nat) : Option RoEntry :=
  d.egrs.waiting.find? (fun e => e.domain = dom && e.seq = d.nextSeq dom && e.entered < d.drip.now)

/-- Remove the entry with a number of a domain. -/
def Dev.dropEntry (d : Dev) (dom s : Nat) : Dev :=
  d.onEgrs (fun g => { g with waiting := g.waiting.eraseP (fun e => e.domain = dom && e.seq = s) })

/-- Release the run of one domain: at most `fuel` entries, `left` packets. Answers the packets still allowed (R113). -/
def Dev.releaseRun (d : Dev) (dom : Nat) : Nat → Nat → Nat × Dev
  | 0, left => (left, d)
  | f + 1, left =>
    match d.readyEntry dom with
    | none => (left, d)
    | some e =>
      if e.pkt.isSome && left = 0 then (0, d)
      else
        let d := (((d.dropEntry dom e.seq).setNextSeq dom (e.seq + 1)).onEgrs
          (fun g => { g with holes := spErase g.holes dom })).releasePkt e
        d.releaseRun dom f (if e.pkt.isSome then left - 1 else left)

/-- The domains with waiting entries, rising, each once, starting from `from_`. -/
def Dev.waitingDomains (d : Dev) (from_ : Nat) : List Nat :=
  let m : Map Bool := d.egrs.waiting.foldl (fun m e => spPut m e.domain true) []
  let l := m.map Prod.fst
  l.filter (fun x => from_ ≤ x) ++ l.filter (fun x => x < from_)

/-- Twice the packets the two pipes take in one drip (R113). -/
def Dev.releaseLimit (d : Dev) : Nat := 2500 * 2 ^ (d.ioFld R.dripCfg 1 0)

/-- Release the run of one domain within what this boundary still allows; the first domain in which the limit stops is
remembered. Once no packet is left to release, empty numbers are still passed over (R85). -/
def Dev.releaseDomain (d : Dev) (dom : Nat) : Dev :=
  let (n, d) := d.releaseRun dom d.egrs.waiting.length d.egrs.left
  let stops := n = 0 && (d.readyEntry dom).isSome && !d.egrs.stopped
  d.onEgrs (fun g => { g with
    left := n, stopped := g.stopped || stops, rotor := if stops then dom else g.rotor })

/-- The reorder stage releases each domain's in-order run at a boundary, device-wide at most twice what the pipes admit (R113). -/
def Dev.reorderRelease (d : Dev) : Dev :=
  (d.waitingDomains d.egrs.rotor).foldl Dev.releaseDomain
    (d.onEgrs (fun g => { g with left := d.releaseLimit, stopped := false }))

/-- A hole opens in every domain with a waiting packet whose next-expected number is absent (R114). -/
def Dev.openHoles (d : Dev) : Dev :=
  (d.waitingDomains 0).foldl (fun d dom =>
    let has := d.egrs.waiting.any (fun e => e.domain = dom && e.pkt.isSome && e.entered < d.drip.now)
    let present := d.egrs.waiting.any (fun e => e.domain = dom && e.seq = d.nextSeq dom)
    if has && !present && (spFind d.egrs.holes dom).isNone then
      d.onEgrs (fun g => { g with holes := spPut g.holes dom d.drip.now })
    else if present then d.onEgrs (fun g => { g with holes := spErase g.holes dom })
    else d) d

/-- An open hole of a domain that has lasted hole_timeout drips is skipped: counted, recorded, and the run behind
it released (R114). -/
def Dev.holeSkip (d : Dev) (dom : Nat) : Dev :=
  match spFind d.egrs.holes dom with
  | none => d
  | some h =>
    let s := d.nextSeq dom
    let absent := !d.egrs.waiting.any (fun e => e.domain = dom && e.seq = s)
    if absent && h + d.liveFld R.egrsHoleCfg 14 0 ≤ d.drip.now then
      let d := ((d.bump R.egrsHoleSkip).incident 18 Code.timeout 0 dom s).setNextSeq dom (s + 1)
      let d := d.onEgrs (fun g => { g with holes := spErase g.holes dom })
      (d.releaseDomain dom).openHoles
    else d

/-- A HOLE_SKIP of a domain (R114). -/
def execHoleSkip (domain : Nat) (s : State) : Host.Outcome State Fault Refusal := s.run (fun d => d.holeSkip domain)

end Sys2Proof.Machine
end

