-- ==== Sys2Proof/Machine/BookOps.lean ====
section
/-! DEFINITION. The Strongroom's time as the other blocks read it (R362, R366) and the records the Cellarbook block
chains (R379, R380, R382). -/

namespace Sys2Proof.Machine

/-! ## The Strongroom's time -/

/-- The count goes on by `x`, in 1/256 ns of the oscillator, never backward (R362). In HOLDOVER the oscillator runs
corrected by `corr` ppb, and the time in HOLDOVER goes on too (R364). -/
def Strong.pass (s : Strong) (x : Nat) : Strong :=
  if s.state = 4 then
    let c := s.corrRest + x * s.corr
    let n := ((x : Int) + c / 10 ^ 9).toNat
    { s with time := s.time + n, hold := s.hold + n, corrRest := c % 10 ^ 9 }
  else { s with time := s.time + x }

/-- Time passes in the Strongroom since it was last sampled: by how much of the drip, the model cannot say; where no drip
runs, by how much at all. -/
def Dev.strongPass (d : Dev) : Dev :=
  if d.strong.powered then
    let x := if d.serving then d.freeVal % (256 * 500 * 2 ^ d.ioFld R.dripCfg 1 0) else d.freeVal
    d.freeStep.onStrong (fun s => s.pass x)
  else d

/-- A stamp made now is valid: time of day known, the seal intact, the Strongroom answering (R367). -/
def Dev.stampValid (d : Dev) : Bool := d.strong.powered && d.strong.sealOk && d.strong.state ≠ 0

/-! ## Records of the Cellarbook -/

/-- The sequence word of a record: the number, and bit 31 when there is one. -/
def seqWord (s : Option Nat) : Nat := match s with | some n => seq24 n + 2 ^ 31 | none => 0

/-- Bytes 0 to 95 of a record chained now, with drip field `drip` (R379). -/
def Dev.recBytes (d : Dev) (r : RecBody) (drip : Nat) : Bytes :=
  leBytes 7 drip ++ leBytes 1 r.kind ++ leBytes 8 d.srTime ++ slice r.digest 0 32 ++ leBytes 4 r.decision
    ++ leBytes 2 r.tclass ++ leBytes 1 (b2n (!d.stampValid) + d.strong.state * 2) ++ leBytes 1 r.attempt
    ++ leBytes 8 d.book.num ++ leBytes 2 r.owner ++ leBytes 2 r.task ++ leBytes 2 r.domain ++ leBytes 4 r.seq
    ++ [0, 0] ++ slice r.data 0 20

/-- Slots of the ring (R385). -/
def Dev.ringSlots (d : Dev) : Nat := 2 ^ (d.ioFld R.bookRing 5 0) / 128

/-- The DRAM address of a slot. -/
def Dev.slotAddr (d : Dev) (n : Nat) : Nat := d.book.base + 128 * (n % d.ringSlots)

/-- The records of the drip become visible in the ring (R30). -/
def Dev.bookVisible (d : Dev) : Dev :=
  let d := d.book.newRecs.foldl (fun d r => d.writeMem true (d.slotAddr r.slot) r.data) d
  d.onBook (fun k => { k with newRecs := [] })

/-- Chain a record in the next slot (R380); it becomes visible at the boundary that ends its drip. -/
def Dev.chainRecAt (d : Dev) (r : RecBody) (drip : Nat) (src : Option Nat) : Dev :=
  let b := d.recBytes r drip
  let c := sha3_256 (d.book.chain ++ b)
  d.onBook (fun k => { k with
    newRecs := k.newRecs ++ [⟨k.wp, b ++ c, src⟩], num := k.num + 1, chain := c, wp := k.wp + 1 })

/-! ## The close of a page (R383, R384) -/

/-- A counter of BOOK_CNT. -/
def Dev.bookCount (d : Dev) (i : Nat) : Dev := d.bump (R.bookCnt + 4 * i)

/-- The tally of class `c`. -/
def Strong.tally (s : Strong) (c : Nat) : Tally := spGet Tally.init s.tallies c

/-- The tally digest (R383). -/
def Strong.tallyDigest (s : Strong) : Bytes :=
  sha3_256 ((List.range 1024).flatMap (fun c => leBytes 8 (s.tally c).count ++ leBytes 12 (ofSigned 96 (s.tally c).amount)))

/-- A word of the Strongroom's ROM or fuses, by its STRG offset. -/
def srBytes (o n : Nat) : Bytes := (List.range n).flatMap (fun i => leBytes 4 (Config.srWord (o + 4 * i)))

/-- Signed pages are stored in MRAM (R383, step 4): the number and the root of each in turn. -/
def Strong.storePage (s : Strong) (c : Nat × Bytes) : Strong :=
  { s with page := c.1, closed := true, root := c.2, mramGen := s.mramGen + 1 }

/-- The first page taken and not yet signed is stored. -/
def Strong.signPage (s : Strong) : Strong :=
  match s.closing with
  | [] => s
  | c :: rest => { s.storePage c with closing := rest }

/-- Every page taken is stored. -/
def Strong.storePages (s : Strong) : Strong := { s.closing.foldl Strong.storePage s with closing := [] }

/-- The page is not the successor of the last sealed one, or its first record does not follow the stored root (R384), once the pages
taken before it are stored. -/
def Strong.discontinuity (s : Strong) (p : Nat) (prev : Bytes) : Bool :=
  let s := s.storePages
  !((!s.closed && p = 0) || p = s.page + 1) || prev ≠ s.root

/-- Bytes 0 to 175 of the seal block of page `p` (R383). -/
def Dev.sealHead (d : Dev) (p first count : Nat) (root prev : Bytes) : Bytes :=
  let s := d.strong
  leBytes 4 0x5350584B ++ [1] ++ leBytes 1 (b2n s.sealOk + b2n d.stampValid * 2 + b2n (s.discontinuity p prev) * 4)
    ++ [0, 0] ++ leBytes 8 p ++ leBytes 8 first ++ leBytes 4 count ++ leBytes 4 s.chg ++ root ++ s.storePages.root
    ++ leBytes 8 d.srTime ++ leBytes 8 s.epoch ++ s.tallyDigest ++ srBytes 0x4 8

/-- PAGE_CLOSE as the Strongroom takes it (R383): checkpoint and header; the page and its root are stored once it is signed. -/
def Dev.pageClose (d : Dev) (p first count : Nat) (root prev : Bytes) : Bytes × Dev :=
  if !d.strong.powered then ([], d)
  else
    let head := d.sealHead p first count root prev
    let d := if d.strong.discontinuity p prev then d.bookCount 5 else d
    (head, d.onStrong (fun s => { s with
      ckptOld := s.ckptNew, ckptNew := s.tallies, closing := s.closing ++ [(p, root)], mramGen := s.mramGen + 1 }))

/-- The current page ends (R383, R385): PAGE_END with the page's last drip, 32 slots for the seal block, PAGE_CLOSE. -/
def Dev.pageEnd (d : Dev) : Dev :=
  let b := d.book
  let count := b.num + 1 - b.first
  let d := (d.chainRecAt ⟨7, [], 0, 0, 0, 0, 0, 0, 0, leBytes 8 b.first ++ leBytes 4 count⟩ (1024 * (b.cur + 1) - 1)
    none).bookVisible
  let c := d.pageClose b.cur b.first count d.book.chain b.prev
  let past := d.book.wp + 32
  c.2.onBook (fun k => { k with
    pages := k.pages ++ [⟨b.cur, b.slot, past, d.drip.now, c.1, .waiting⟩], wp := past, cur := b.cur + 1, slot := past,
    first := k.num, prev := k.chain, refused := false })

/-- The last drip of the current page is over. -/
def Dev.pageDue (d : Dev) : Bool := d.book.started && 1024 * (d.book.cur + 1) ≤ d.drip.now

/-- A page that is over is ended before anything of the next one is chained. -/
def Dev.settlePage (d : Dev) : Dev := if d.pageDue then d.pageEnd else d

/-! ## Records -/

/-- Chain a record of this drip. -/
def Dev.chainRec (d : Dev) (r : RecBody) (src : Option Nat) : Dev :=
  let d := d.settlePage.strongPass
  d.chainRecAt r d.drip.now src

/-- A hardware record with a digest and data (R382): no decision, class, task or owner. While no epoch runs it is owed,
and follows the next GENESIS (R372, R373, R382, assumption 59). -/
def Dev.hwRec (d : Dev) (kind : Nat) (digest data : Bytes) : Dev :=
  let r : RecBody := ⟨kind, digest, 0, 0, 0, 0, 0, 0, 0, data⟩
  if d.book.started then d.chainRec r none else d.onStrong (fun s => { s with owed := s.owed ++ [r] })

end Sys2Proof.Machine
end

