-- ==== Sys2Proof/Machine/Disp.lean ====
section
/-! DEFINITION. The dispatcher (chapter 11): descriptors, ready lists, the hold queues, dispatch to threads, exception
packets to keepers, the scheduling trace, and the passages of Limp mode (R443, R444). -/

namespace Sys2Proof.Machine

/-- A counter of the dispatcher. -/
def Dev.dispCount (d : Dev) (i : Nat) : Dev := d.bump (R.dispCnt + 4 * i)

/-- A scheduling-trace record for an event kind that is enabled (R303). -/
def Dev.traceRec (d : Dev) (kind g task thread prio wait : Nat) : Dev :=
  let c := d.io R.dispTraceCfg
  if bitOf c 0 && bitOf c (8 + kind) then
    d.onDisp (fun s => { s with trace := s.trace ++ [⟨kind, g, task, thread, prio, wait, d.drip.now⟩] })
  else d

/-! ## Task directory and descriptors -/

/-- The entry point of a task in the directory of generation `gen` (R293). -/
def Dev.taskEntry (d : Dev) (gen task : Nat) : Nat :=
  leNat ((List.range 4).map (fun i => d.tabByte (d.bankAt 14 gen) (0x400000 + 8 * task + i)))

/-- The gallery mask of a task in the directory of generation `gen`; 0: undefined. -/
def Dev.taskMask (d : Dev) (gen task : Nat) : Nat :=
  leNat ((List.range 2).map (fun i => d.tabByte (d.bankAt 14 gen) (0x400000 + 8 * task + 4 + i)))

/-- The session word of a descriptor or keeper message. -/
def sessWord (s : Option Nat) : Nat := match s with | some n => n % 2 ^ 22 + 2 ^ 31 | none => 0

/-- A mark of a packet; 0xFFFF when its layer is not marked. -/
def Pkt.mark (p : Pkt) (i : Nat) : Nat := p.marks.getD i 0xFFFF

/-- The 64 bytes of the task descriptor (R294). -/
def Pkt.desc (p : Pkt) : Bytes :=
  leBytes 2 p.task ++ leBytes 1 p.attempt
    ++ leBytes 1 (b2n p.seq.isSome + b2n p.fwdValid * 2 + b2n p.fwdHit * 4 + b2n p.requeued * 8 + b2n p.stamp.isSome * 16)
    ++ leBytes 4 (p.taskArg % 2 ^ 16) ++ leBytes 4 (if p.chain.count = 0 then 0xFFFFFFFF else p.chain.handle) ++ leBytes 4 p.len ++ leBytes 4 p.domain
    ++ leBytes 4 (seq24 (p.seq.getD 0)) ++ leBytes 4 p.gen ++ leBytes 4 (p.egress % 2 ^ 12)
    ++ leBytes 4 (p.bay % 2 ^ 12 + p.prio % 16 * 2 ^ 12 + p.pass % 4 * 2 ^ 16) ++ leBytes 4 (sessWord p.session)
    ++ leBytes 4 p.cookie ++ leBytes 4 (p.mark 0 + p.mark 1 * 2 ^ 16) ++ leBytes 4 (p.mark 2 + p.mark 3 * 2 ^ 16)
    ++ leBytes 4 (p.dripTag % 2 ^ 16 * 2 ^ 16) ++ leBytes 8 (p.stamp.getD 0)

/-- Shelf offset of the task descriptor (R294). -/
abbrev descAt : Nat := 0x5F80

/-- A task starts on a thread (R208, R294, R295): `zero` for a restart on a spare, whose shelf is zeroed. -/
def Dev.startTask (d : Dev) (id : Tid) (p : Pkt) (zero : Bool) : Dev :=
  let t := d.thr id
  let gen := if p.chain.count = 0 && p.seq.isNone then (d.group 14).genLive else p.gen
  let mem : Map Byte := if zero then [] else t.mem
  let d := d.setThr id { t with
    state := .ready, pc := w32 (d.taskEntry gen p.task), flags := 0, cnt := 0, ev := 0, evp := 0, mem := mem,
    b := spPut [] 0 (w32 descAt), wait := Wait.idle, tags := [], desc := some p, spent := false, running := true,
    codeGen := gen, repAt := none, macroRun := none, killed := false }
  ((d.setLocalBytes id descAt p.desc).setLocalBytes id winHandle (leBytes 4 p.chain.handle)).setLocalBytes id
    winLength (leBytes 4 p.len)

/-! ## Passages of Limp mode -/

/-- The bytes of a packet's message. -/
def Dev.msgBytes (d : Dev) (p : Pkt) : Bytes := d.chainBytes p.chain 0 p.len

/-- The PASSAGE record of an entry (R444); `bay` is limp_bay, or 0xFFFF when the chain was dropped. -/
def Dev.passageRec (d : Dev) (p : Pkt) (bay : Nat) : Dev :=
  d.chainRec ⟨2, sha3_256 (d.msgBytes p), 0, 0, p.attempt % 256, 0, p.task, p.domain, seqWord p.seq,
    leBytes 2 p.bay ++ leBytes 2 p.task ++ leBytes 4 p.len ++ leBytes 2 bay⟩ none

/-- Session `n` is ESTABLISHED on bay `bay`. -/
def Dev.sessReady (d : Dev) (n bay : Nat) : Bool :=
  match spFind d.sess.tab n with
  | some s => s.state = .established && s.id.bay = bay
  | none => false

/-- A task entry becomes a passage (R443). -/
def Dev.limpPassage (d : Dev) (p : Pkt) : Dev :=
  if p.chain.count = 0 then
    let d := d.bump (R.loadCnt + 4)
    match p.seq with | some s => d.releaseEmpty p.domain s | none => d
  else
    let bay := d.ioFld R.loadLimpBay 11 0
    let en := bitOf (d.io R.loadLimpSess) 31
    let sid := d.ioFld R.loadLimpSess 21 0
    let d := d.bump R.loadCnt
    if en && !d.sessReady sid bay then
      ((d.passageRec p 0xFFFF).bump (R.loadCnt + 4)).dropPkt p
    else
      let d := (d.passageRec p bay).retag p.chain (pipeTag p.pipe)
      let sd : Option SessData := if en then some ⟨sid, 23⟩ else none
      let (s, d) := match p.seq with | some s => (s, d) | none => d.takeSeq p.domain
      d.reorderEnter ⟨p.domain, s, some { p with session := if en then some sid else none }, bay, d.drip.now, sd⟩

/-! ## Ready lists (R296) -/

/-- The key of a level's list. -/
def levelKey (g l : Nat) : Nat := 16 * g + l

/-- The task entries of a level, oldest first. -/
def Dev.ready (d : Dev) (g l : Nat) : List Pkt := spGet [] d.disp.ready (levelKey g l)

/-- Set the task entries of a level. -/
def Dev.setReady (d : Dev) (g l : Nat) (v : List Pkt) : Dev :=
  d.onDisp (fun s => { s with ready := spSet [] s.ready (levelKey g l) v })

/-- The keeper entries of a level, oldest first. -/
def Dev.keeperReady (d : Dev) (g l : Nat) : List Pkt := spGet [] d.disp.keeperReady (levelKey g l)

/-- Set the keeper entries of a level. -/
def Dev.setKeeperReady (d : Dev) (g l : Nat) (v : List Pkt) : Dev :=
  d.onDisp (fun s => { s with keeperReady := spSet [] s.keeperReady (levelKey g l) v })

/-- Entries in a gallery's lists, task and keeper entries alike. -/
def Dev.queuedIn (d : Dev) (g : Nat) : Nat :=
  ((List.range 16).map (fun l => (d.ready g l).length + (d.keeperReady g l).length)).foldl (· + ·) 0

/-- A gallery has an active core. -/
def Dev.galActive (d : Dev) (g : Nat) : Bool := (d.gal g).coreMap.any (fun p => p < 9)

/-- The candidate galleries of an entry, in the order of ties: from the one after the gallery chosen last. -/
def Dev.candidates (d : Dev) (mask : Nat) : List Nat :=
  ((List.range 16).map (fun i => (d.disp.lastGal + 1 + i) % 16)).filter
    (fun g => bitOf mask g && d.galActive g && d.queuedIn g < 4096)

/-- The first of a list with the least measure. -/
def argMin (f : Nat → Nat) : List Nat → Option Nat
  | [] => none
  | x :: xs => match argMin f xs with
    | some y => if f y < f x then some y else some x
    | none => some x

/-- The gallery an entry goes to: the candidate with the fewest entries. -/
def Dev.chooseGallery (d : Dev) (mask : Nat) : Option Nat := argMin d.queuedIn (d.candidates mask)

/-- The generation whose directory an entry uses: its packet's, else the LIVE one. -/
def Dev.entryGen (d : Dev) (p : Pkt) : Nat :=
  if p.chain.count = 0 && p.seq.isNone then (d.group 14).genLive else p.gen

/-- Put an entry into a gallery's list, at the tail of its level or at the head. -/
def Dev.placeEntry (d : Dev) (g : Nat) (p : Pkt) (head : Bool) : Dev :=
  d.setReady g p.prio (if head then p :: d.ready g p.prio else d.ready g p.prio ++ [p])

/-- The hold queue of a pipe, oldest first. -/
def Dev.holdQ (d : Dev) (pipe : Nat) : List Pkt := spGet [] d.disp.hold pipe

/-- Set the hold queue of a pipe. -/
def Dev.setHoldQ (d : Dev) (pipe : Nat) (l : List Pkt) : Dev :=
  d.onDisp (fun s => { s with hold := spSet [] s.hold pipe l })

/-- A held entry with the same gallery mask, or of the same keeper, waits in the pipe's hold queue. -/
def Dev.heldSame (d : Dev) (p : Pkt) : Bool :=
  (d.holdQ p.pipe).any (fun q => q.keeperOf = p.keeperOf
    && (p.keeperOf.isSome || d.taskMask (d.entryGen q) q.task = d.taskMask (d.entryGen p) p.task))

/-- The gallery an entry can go to now: a keeper entry only to its own, while that has room (R296). -/
def Dev.holdChoice (d : Dev) (p : Pkt) : Option Nat :=
  match p.keeperOf with
  | some g => if d.queuedIn g < 4096 then some g else none
  | none => d.chooseGallery (d.taskMask (d.entryGen p) p.task)

/-- An entry joins the hold queue of its pipe (R298). -/
def Dev.holdEntry (d : Dev) (p : Pkt) : Dev :=
  ((d.setHoldQ p.pipe (d.holdQ p.pipe ++ [p])).dispCount 1).traceRec 3 0 p.task 0 p.prio 0

/-- A task entry enters the ready lists, or the hold queue of its pipe when it has no candidate gallery (R296, R298);
in Limp mode it becomes a passage (R443). -/
def Dev.enqueueTask (d : Dev) (p : Pkt) : Dev :=
  if d.mode = Mode.limp then d.limpPassage p
  else
    match if d.heldSame p then none else d.chooseGallery (d.taskMask (d.entryGen p) p.task) with
    | some g => (d.onDisp (fun s => { s with lastGal := g })).placeEntry g p false
    | none => d.holdEntry p

/-- Split a list at its first member that satisfies `f`. -/
def takeFirst {α : Type} (f : α → Bool) : List α → Option (α × List α)
  | [] => none
  | x :: xs => if f x then some (x, xs) else match takeFirst f xs with
    | some (y, r) => some (y, x :: r)
    | none => none

/-- A keeper entry joins the lists of gallery `g`; EXC is set (R299). -/
def Dev.placeKeeper (d : Dev) (g : Nat) (p : Pkt) : Dev :=
  (d.setKeeperReady g p.prio (d.keeperReady g p.prio ++ [{ p with keeperOf := none }])).keeperEvent g Ev.exc

/-- The pipe places its oldest held entry for which a candidate gallery exists (R298), at the tail of its level, or at the head if it
was requeued (R296). -/
def Dev.holdPlace (d : Dev) (pipe : Nat) : Dev :=
  match takeFirst (fun p => (d.holdChoice p).isSome) (d.holdQ pipe) with
  | none => d
  | some (p, rest) =>
    match d.holdChoice p with
    | none => d
    | some g =>
      let d := d.setHoldQ pipe rest
      if p.keeperOf.isSome then d.placeKeeper g p else (d.onDisp (fun s => { s with lastGal := g })).placeEntry g p p.requeued

/-! ## Dispatch (R297) -/

/-- A logical core is being retired. -/
def Dev.retiringCore (d : Dev) (g l : Nat) : Bool := (d.gal g).retiring.any (fun r => r.logical = l)

/-- The first IDLE thread of a logical core that is not a keeper, among threads `t` and up. -/
def Dev.idleThread (d : Dev) (g l : Nat) : Option Tid :=
  if d.retiringCore g l then none
  else (List.range 8).findSome? (fun t => match d.tidAt g l t with
    | some id => if (d.thr id).state = .idle && !(l = 0 && t = 0) then some id else none
    | none => none)

/-- READY and WAITING threads of a logical core. -/
def Dev.busyThreads (d : Dev) (g l : Nat) : Nat :=
  ((List.range 8).filter (fun t => match d.tidAt g l t with
    | some id => (d.thr id).state = .ready || (d.thr id).state = .waiting
    | none => false)).length

/-- The thread the next dispatch of a gallery goes to. -/
def Dev.dispatchTo (d : Dev) (g : Nat) : Option Tid :=
  match argMin (d.busyThreads g) ((List.range 8).filter (fun l => (d.idleThread g l).isSome)) with
  | some l => d.idleThread g l
  | none => none

/-- The highest level whose list `f` is not empty. -/
def topLevel (f : Nat → List Pkt) : Option Nat := ((List.range 16).reverse).find? (fun l => !(f l).isEmpty)

/-- Tasks are dispatched in Service and Handover mode; in Limp mode none is (R443). -/
def Dev.dispatches (d : Dev) : Bool := d.mode = Mode.service || d.mode = Mode.handover

/-- One dispatch of a gallery (R297): the clocks an entry waited are open in the model, which counts no clocks. -/
def Dev.dispatch (d : Dev) (g : Nat) : Dev :=
  if !d.dispatches then d
  else match topLevel (d.ready g), d.dispatchTo g with
    | some l, some id =>
      match d.ready g l with
      | [] => d
      | p :: rest =>
        let d := (d.setReady g l rest).retag p.chain (ownerTag id)
        ((d.startTask id p false).dispCount 0).freeStep.traceRec 0 g p.task (ownerTag id) p.prio (d.freeVal % 2 ^ 32)
    | _, _ => d

/-! ## Exception packets (R299, R300) -/

/-- An exception packet enters the ready lists of a gallery as a keeper entry (R299), or the hold queue of its pipe while the
gallery holds its 4,096 entries (R296, R298, assumption 54). -/
def Dev.enqueueExc (d : Dev) (g : Nat) (p : Pkt) : Dev :=
  let p := { p with keeperOf := some g }
  if d.heldSame p || (d.holdChoice p).isNone then d.holdEntry p else d.placeKeeper g p

/-- The key of pending slot `p` of a gallery. -/
def pendKey (g p : Nat) : Nat := 64 * g + p

/-- The packet pending in a slot. -/
def Dev.pendingAt (d : Dev) (g p : Nat) : Option Pkt := spFind d.disp.pending (pendKey g p)

/-- Free a pending slot. -/
def Dev.freePending (d : Dev) (g p : Nat) : Dev :=
  d.onDisp (fun s => { s with pending := spErase s.pending (pendKey g p) })

/-- The pending slots in use of a gallery. -/
def Dev.pendingSlots (d : Dev) (g : Nat) : List (Nat × Pkt) :=
  (d.disp.pending.filter (fun e => e.1 / 64 = g)).map (fun e => (e.1 % 64, e.2))

/-- The message that delivers an exception packet in slot `p` (R299). -/
def Pkt.excMsg (q : Pkt) (p : Nat) : Bytes :=
  leBytes 4 q.chain.handle ++ leBytes 4 q.len ++ leBytes 1 (q.excClass % 8 + q.pass % 4 * 2 ^ 4)
    ++ leBytes 1 (q.outcome % 16 + q.route * 2 ^ 4) ++ leBytes 2 q.bay ++ leBytes 1 p ++ leBytes 1 q.prio
    ++ leBytes 2 q.dripTag ++ leBytes 4 (q.domain % 2 ^ 16) ++ leBytes 4 (seq24 (q.seq.getD 0)) ++ leBytes 4 q.gen
    ++ leBytes 4 (sessWord q.session) ++ leBytes 8 (q.stamp.getD 0) ++ leBytes 2 (q.mark 0) ++ leBytes 2 (q.mark 1)
    ++ leBytes 2 (q.mark 2) ++ leBytes 2 (q.mark 3) ++ List.replicate 16 0

/-- The oldest keeper entry of the highest level is delivered when the keeper channel has room and a pending slot is
free (R299). -/
def Dev.excDeliver (d : Dev) (g : Nat) : Dev :=
  let c := d.liveFld R.dispCfg 11 4
  match topLevel (d.keeperReady g), d.keeper g,
      (List.range 64).find? (fun p => (d.pendingAt g p).isNone) with
  | some l, some k, some p =>
    match d.keeperReady g l with
    | [] => d
    | q :: rest =>
      if !d.serving || !d.chanOn g c || 4 ≤ (d.chan g c).length then d
      else
        let d := (d.setKeeperReady g l rest).setLocalBytes k (0x4A00 + 80 * p) (leBytes 80 q.key)
        let d := (d.retag q.chain (ownerTag k)).onDisp (fun s => { s with pending := spPut s.pending (pendKey g p) q })
        (d.chanPush g c ⟨q.excMsg p, 0, 0⟩).freeStep.traceRec 4 g 0xFFFF (ownerTag k) q.prio (d.freeVal % 2 ^ 32)
  | _, _, _ => d

/-- A keeper stops: every pending number is released empty, recorded and counted (R300). -/
def Dev.losePending (d : Dev) (k : Tid) : Dev :=
  (d.pendingSlots k.g).foldl (fun d e =>
    let d := (d.freePending k.g e.1).dispCount 8
    match e.2.seq with
    | some s => (d.releaseEmpty e.2.domain s).incident 12 Code.orphaned (ownerTag k) e.2.domain (seq24 s)
    | none => d) d

/-! ## The entry to Limp mode -/

/-- Every task entry that waits or is held becomes a passage (R443). -/
def Dev.limpAll (d : Dev) : Dev :=
  let ps := (d.disp.ready.flatMap (fun e => e.2)) ++ (d.disp.hold.flatMap (fun e => e.2.filter (fun p => p.keeperOf.isNone)))
  let kept (m : Map (List Pkt)) : Map (List Pkt) := m.filterMap (fun e =>
    let l := e.2.filter (fun p => p.keeperOf.isSome)
    if l.isEmpty then none else some (e.1, l))
  ps.foldl (fun d p => d.limpPassage p) (d.onDisp (fun s => { s with ready := [], hold := kept s.hold }))

/-! ## The rows of this chapter's dispatcher -/

/-- DISPATCH (R297). -/
def execDispDispatch (gallery : Nat) (s : State) : Host.Outcome State Fault Refusal := s.run (fun d => d.dispatch gallery)

/-- HOLD_PLACE (R298). -/
def execHoldPlace (pipe : Nat) (s : State) : Host.Outcome State Fault Refusal := s.run (fun d => d.holdPlace pipe)

/-- EXCEPTION_DELIVER (R299). -/
def execExceptionDeliver (gallery : Nat) (s : State) : Host.Outcome State Fault Refusal :=
  s.run (fun d => d.excDeliver gallery)

end Sys2Proof.Machine
end

