-- ==== Sys2Proof/Machine/Stop.lean ====
section
/-! DEFINITION. How threads stop (R191, R198 to R200, R227): fault park, kill and unpark. -/

namespace Sys2Proof.Machine

/-- The staging is discarded (R191): what it holds afterwards is open. -/
def Dev.discardStaging (d : Dev) (id : Tid) : Dev :=
  let n := d.free
  d.freeStep.setLocalBytes id 0x6000 ((List.range 64).map (fun i => Config.freeByte n i))

/-- FAULT to those who learn of a parked thread: its keeper; for a keeper, the head keeper (R182, R194). -/
def Dev.parkEvent (d : Dev) (id : Tid) : Dev :=
  if d.isHead id then d
  else if d.isKeeper id then d.keeperEvent 0 Ev.fault
  else d.keeperEvent id.g Ev.fault

/-- What every stop of a thread does: it leaves every queue it waits in, its helper commands are squashed (R289), its
Latches are orphaned, and a keeper's pending numbers are released. -/
def Dev.stopThread (d : Dev) (id : Tid) : Dev :=
  let tag := ownerTag id
  let d := (d.leaveSenders id).leaveLatches tag
  let d := d.onHelp (fun h => { h with
    retries := h.retries.filter (fun r => r.id ≠ id),
    jobs := h.jobs.map (fun e => (e.1, if e.2.owner = tag then { e.2 with squashed := true } else e.2)) })
  let d := d.orphanLatches tag
  if d.isKeeper id then d.losePending id else d

/-- The number of a thread's registers in its gallery: 8 × logical core + thread. -/
def Dev.thrIndex (d : Dev) (id : Tid) : Nat := 8 * (d.logicalOf id.g id.c).getD 0 + id.t

/-- A fault (R224 to R227): class, incident code, opcode, operand number and micro-step. -/
structure FaultInfo where
  cls : Nat
  code : Nat
  opcode : Nat
  operand : Nat
  micro : Nat
  deriving DecidableEq, Repr

/-- A faulting thread parks (R199, R227). -/
def Dev.faultPark (d : Dev) (id : Tid) (f : FaultInfo) : Dev :=
  let t := d.thr id
  let o := R.gallFaultPc + 0x40000 * id.g + 8 * d.thrIndex id
  let d := (d.setIo o t.pc.toNat).setIo (o + 4) (f.cls + f.opcode * 2 ^ 8)
  let d := d.setThr id { t with
    state := .parked, killed := false, wait := Wait.idle, running := false, macroRun := none, stepping := false,
    haltReq := false }
  let d := (d.stopThread id).incident 14 f.code (ownerTag id) t.pc.toNat
    (f.cls + f.opcode * 2 ^ 8 + f.operand * 2 ^ 16 + f.micro * 2 ^ 20)
  d.parkEvent id

/-- A kill (R198, R181). -/
def Dev.killThread (d : Dev) (id : Tid) : Dev :=
  let d := d.unstill id
  let t := d.thr id
  let d := d.stopThread id
  let d := (d.setThr id { d.thr id with
    state := .parked, killed := true, rgen := (t.rgen + 1) % 2 ^ 16, wait := Wait.idle, running := false,
    macroRun := none, stepping := false, haltReq := false }).discardStaging id
  d.parkEvent id

/-- The keeper of a gallery starts on its core (R208); `ev` are the entry events reported. -/
def Dev.startKeeper (d : Dev) (id : Tid) (ev : Nat) : Dev :=
  let gen := (d.group 14).genLive
  let pc := d.keeperEntryLive
  let d := d.updThr id (fun t => { Thread.init with
    rgen := t.rgen, mem := t.mem, state := .ready, pc := w32 pc, codeGen := gen })
  d.setLocalBytes id 0x5FF0 (leBytes 4 ev)

/-- UNPARK (R200): its code and the device after it. A keeper, which is never IDLE (R180), starts again at its entry point
(assumption 54), with the events that stayed pending while it was PARKED (R194). -/
def Dev.unpark (d : Dev) (id : Tid) : Nat × Dev :=
  let t := d.thr id
  if t.state ≠ .parked || !(d.cellsOf (ownerTag id)).isEmpty then (Code.reserved, d)
  else
    let d := d.setThr id { t with
      state := .idle, killed := false, desc := none, spent := false, tags := [], repAt := none }
    let d := d.discardStaging id
    (Code.ok, if d.isKeeper id then (d.startKeeper id 0).updThr id (fun k => { k with evp := t.evp }) else d)

/-- The effect of KILL (op 0) or UNPARK (op 1) on a thread: its code. -/
def Dev.thrControl (d : Dev) (id : Tid) (op : Nat) : Nat × Dev :=
  if op = 0 then (Code.ok, d.killThread id) else d.unpark id

end Sys2Proof.Machine
end

