-- ==== Sys2Proof/Machine/Operands.lean ====
section
/-! DEFINITION. Nerbin encodings (R212 to R223, R228 to R231, R264) and the evaluation of operands (R209 to R217). -/

namespace Sys2Proof.Machine

/-! ## Reading the bytes of an instruction (R218) -/

/-- A reader of instruction bytes: the bytes of the code-store bank from the next one on, how many were read, the number
of the operand it reads (0 before the first and for a REP count), the number at the lowest illegal byte met (R226), and
the fault class that stopped it. -/
structure Rd where
  rest : Bytes
  i : Nat
  operandNo : Nat
  bad : Option Nat
  err : Option Nat
  deriving DecidableEq, Repr

/-- The next byte: one past the bank raises CODE_FETCH, a 17th one ILLEGAL_INSTRUCTION in the operand that needs it (R218, R225,
R226). -/
def Rd.byte (r : Rd) : Nat × Rd :=
  if r.err.isSome then (0, r)
  else if 16 ≤ r.i then (0, { r with err := some 1, bad := some (r.bad.getD r.operandNo) })
  else match r.rest with
    | [] => (0, { r with err := some 6 })
    | b :: bs => (b.toNat, { r with rest := bs, i := r.i + 1 })

/-- `n` bytes, little-endian. -/
def Rd.le (r : Rd) : Nat → Nat × Rd
  | 0 => (0, r)
  | n + 1 =>
    let (b, r1) := r.byte
    let (v, r2) := Rd.le r1 n
    (b + 256 * v, r2)

/-- A reader at the first byte. -/
def Rd.start (bs : Bytes) : Rd := ⟨bs, 0, 0, none, none⟩

/-- Operand `k` is illegal if `c`; of several the lowest counts (R226). -/
def Rd.illAt (r : Rd) (k : Nat) (c : Bool) : Rd :=
  if c then { r with bad := some (match r.bad with | some j => Nat.min j k | none => k) } else r

/-- An illegal field was met; reading goes on while lengths are known (R226). -/
def Rd.ill (r : Rd) (c : Bool) : Rd := r.illAt r.operandNo (c && r.err.isNone)

/-- The length of the encoding is unknown from here. -/
def Rd.stop (r : Rd) : Rd := if r.err.isSome then r else { r.ill true with err := some 1 }

/-- A decoded operand specifier (R212, R214). -/
structure Opnd where
  mode : Nat
  size : Nat
  sx : Bool
  reg : Nat
  index : Nat
  scale : Nat
  disp : Nat
  off : Nat
  indexed : Bool
  table : Nat
  sel : Nat
  imm : Nat
  deriving DecidableEq, Repr

/-- The bytes of a size code (R212). -/
def sizeBytes (code : Nat) : Nat := 2 ^ code

/-- The width of an operand in bits. -/
def Opnd.bits (o : Opnd) : Nat := 8 * sizeBytes o.size

/-- An operand of a mode and size with no extension read. -/
def Opnd.base (mode size : Nat) (sx : Bool) : Opnd := ⟨mode, size, sx, 0, 0, 1, 0, 0, false, 0, 0, 0⟩

/-- An 8-bit displacement as a 32-bit addend. -/
def disp8 (b : Nat) : Nat := ofSigned 32 (toSigned 8 b)

/-- Extend or truncate a value of `a` bits to `b` bits (R213). -/
def extendTo (a b : Nat) (sx : Bool) (v : Nat) : Nat :=
  if b ≤ a then v % 2 ^ b else if sx then ofSigned b (toSigned a v) else v % 2 ^ a

/-- A base register byte whose bits above [2:0] are reserved but for those of `extra` (R214). -/
def Rd.reg (r : Rd) (o : Opnd) (indexed : Bool) : Opnd × Rd :=
  let (g, r) := r.byte
  ({ o with reg := g % 8, indexed := indexed && bitOf g 7 }, r.ill (if indexed then bits g 6 3 ≠ 0 else bits g 7 3 ≠ 0))

/-- One operand specifier with its extension bytes (R212, R214); mode 12 is legal in micro-steps only (R223). -/
def Rd.operand (r : Rd) (micro : Bool) : Opnd × Rd :=
  let (b, r) := r.byte
  let mode := bits b 3 0
  let code := bits b 6 4
  let o := Opnd.base mode (Nat.min code 5) (bitOf b 7)
  let r := r.ill (5 < code)
  match mode with
  | 0 =>
    if 5 < code then (o, r.stop)
    else
      let n := Nat.min (sizeBytes code) 4
      let (v, r) := r.le n
      ({ o with imm := extendTo (8 * n) o.bits o.sx v }, r)
  | 1 | 5 | 8 =>
    let (v, r) := r.le 2
    ({ o with off := v }, r)
  | 2 =>
    let (o, r) := r.reg o false
    let (v, r) := r.byte
    ({ o with disp := disp8 v }, r)
  | 3 =>
    let (o, r) := r.reg o false
    let (v, r) := r.le 4
    ({ o with disp := v }, r)
  | 4 =>
    let (g, r) := r.byte
    let (v, r) := r.byte
    ({ o with reg := bits g 2 0, index := bits g 5 3, scale := 2 ^ bits g 7 6, disp := disp8 v }, r)
  | 6 =>
    let (o, r) := r.reg o true
    let (v, r) := r.le 2
    ({ o with off := v }, r)
  | 7 =>
    let (t, r) := r.byte
    let r := r.ill (0xF0 ≤ t && t ≠ 0xFE)
    let (o, r) := r.reg o false
    let (v, r) := r.le 2
    ({ o with table := t, off := v }, r)
  | 9 | 10 => r.reg o false
  | 11 =>
    let (v, r) := r.byte
    ({ o with sel := v }, (r.ill (o.size ≠ 3)).ill (3 < v))
  | 12 =>
    if micro then
      let (v, r) := r.byte
      ({ o with sel := v }, r.ill (2 < v))
    else (o, r.stop)
  | _ => (o, r.stop)

/-! ## Roles, classes and the opcode table (R228, R230, R221) -/

/-- The role of an operand (R228). -/
inductive Role | d | m | s | t | n | f
  deriving DecidableEq, Repr

/-- The modes a role permits (R228). -/
def Role.permits (r : Role) (mode : Nat) : Bool :=
  match r with
  | .d | .m => (1 ≤ mode && mode ≤ 10) || mode = 12
  | .s | .n => mode ≤ 12
  | .t | .f => mode ≤ 10 || mode = 12

/-- The width class of an instruction (R230); F lists the stated size code of each operand, none for any size. -/
inductive WClass
  | a
  | m
  | s
  | f (sizes : List (Option Nat))
  deriving DecidableEq, Repr

/-- The operands and width class of each opcode (the tables of chapter 09); none for an opcode that is illegal or a
macro's. -/
def opSpec (op : Nat) : Option (List Role × WClass) :=
  match op with
  | 0x01 => some ([.d, .s], .a) | 0x02 => some ([.m, .m], .a) | 0x03 => some ([.d, .s], .s)
  | 0x04 => some ([.d, .s], .f [some 2, none])
  | 0x08 | 0x09 => some ([.d, .s], .m)
  | 0x20 | 0x21 | 0x22 | 0x23 => some ([.d, .s, .s], .a)
  | 0x24 => some ([.d, .s], .a)
  | 0x25 | 0x26 => some ([.m], .a)
  | 0x27 => some ([.s, .s], .a)
  | 0x28 | 0x29 | 0x2A | 0x2B | 0x2C | 0x2D | 0x2E | 0x2F => some ([.d, .s, .s], .m)
  | 0x30 | 0x31 | 0x32 | 0x33 => some ([.d, .s, .s], .a)
  | 0x50 | 0x51 | 0x52 | 0x53 => some ([.d, .s, .s], .a)
  | 0x54 => some ([.d, .s], .a)
  | 0x55 => some ([.s, .s], .a)
  | 0x58 | 0x59 | 0x5A | 0x5B | 0x5C => some ([.d, .s, .n], .a)
  | 0x60 => some ([.d, .s, .f], .a)
  | 0x61 => some ([.m, .s, .f], .a)
  | 0x62 | 0x63 | 0x64 => some ([.d, .s], .a)
  | 0x65 => some ([.s, .n], .a)
  | 0x66 | 0x67 => some ([.m, .n], .a)
  | 0x80 | 0x84 | 0x85 => some ([.t], .f [none])
  | 0x81 => some ([.d, .t], .f [some 2, none])
  | 0x82 => some ([.s], .f [some 2])
  | 0x83 => some ([.m, .t], .f [none, none])
  | 0x86 | 0xD2 | 0xD3 | 0xD4 => some ([], .f [])
  | 0xC0 => some ([.d], .f [some 2])
  | 0xC1 => some ([.s], .f [some 2])
  | 0xC2 | 0xC3 => some ([.d, .s, .s], .f [some 2, some 3, some 2])
  | 0xC4 => some ([.d, .s], .f [some 2, some 2])
  | 0xC8 | 0xC9 => some ([.n], .f [some 0])
  | 0xCA | 0xCB => some ([.d, .d, .n], .f [some 5, some 2, some 0])
  | 0xD0 => some ([.d, .s], .f [some 2, some 0])
  | 0xD1 => some ([.s, .s], .f [some 0, some 2])
  | 0xE0 => some ([.s, .n], .f [some 5, none])
  | 0xE1 => some ([.n], .f [none])
  | 0xE2 => some ([.d, .n], .f [some 5, none])
  | 0xE3 => some ([.s, .n], .f [some 5, none])
  | 0xE4 => some ([.s, .d], .f [some 4, some 3])
  | 0xE5 => some ([.s, .d], .f [some 5, some 3])
  | 0xE6 => some ([.s], .f [some 1])
  | _ => if 0x70 ≤ op ∧ op ≤ 0x7F then some ([.t], .f [none]) else none

/-- The width class permits a width, given by its size code. -/
def WClass.permits (c : WClass) (code : Nat) : Bool :=
  match c with
  | .a => code ≤ 5
  | .m => code ≤ 4
  | .s => 1 ≤ code && code ≤ 5
  | .f _ => true

/-- A decoded instruction: its length, opcode, macro function, operands with their roles, REP count operand, and
operation width in bits. -/
structure Dec where
  len : Nat
  op : Nat
  fn : Nat
  ops : List (Role × Opnd)
  rep : Option Opnd
  width : Nat
  deriving DecidableEq, Repr

/-- What decoding stops on: the fault's class, the major opcode if it was reached, and the number of the operand whose
bytes are illegal, 0 for none (R227). -/
structure DecErr where
  cls : Nat
  op : Option Nat
  operand : Nat
  deriving DecidableEq, Repr

/-- The prefixes read so far (R219). -/
structure Prefixes where
  rep : Option Opnd
  width : Option Nat
  hint : Bool
  deriving DecidableEq, Repr

/-- An operand names the Latch table (R267). -/
def Opnd.isLatch (o : Opnd) : Bool := o.mode = 7 && o.table = 0xFE

/-- Read prefixes, each at most once, and the major opcode; `n` bounds the bytes an instruction may have. -/
def Rd.prefixes (r : Rd) (p : Prefixes) : Nat → Nat × Prefixes × Rd
  | 0 => (0, p, r.stop)
  | n + 1 =>
    let (b, r) := r.byte
    if b < 0xF0 then (b, p, r)
    else if b = 0xF0 then
      let (o, r1) := r.operand false
      -- the count is a 32-bit source in any mode but 11 (R220), and no MOV of the Latch table (R267)
      let r1 := (r1.ill p.rep.isSome).ill (o.mode = 11 || 2 < o.size || o.isLatch)
      r1.prefixes { p with rep := some o } n
    else if b = 0xF1 then
      let (v, r1) := r.byte
      let r1 := (r1.ill p.width.isSome).ill (5 < v)
      r1.prefixes { p with width := some (Nat.min v 5) } n
    else if b = 0xF2 then (r.ill p.hint).prefixes { p with hint := true } n
    else (0, p, r.stop)

/-- Read one operand for each role, as far as the encoding can be read. -/
def Rd.operands (r : Rd) (micro : Bool) : List Role → List (Role × Opnd) × Rd
  | [] => ([], r)
  | x :: xs =>
    if r.err.isSome then ([], r)
    else
      let (o, r) := { r with operandNo := r.operandNo + 1 }.operand micro
      let (rest, r) := (r.ill (!x.permits o.mode)).operands micro xs
      ((x, o) :: rest, r)

/-- The operation width code: the destination's, else the first operand's (R213, R229). -/
def widthCode (ops : List (Role × Opnd)) : Nat :=
  match ops.find? (fun x => x.1 = .d || x.1 = .m) with
  | some x => x.2.size
  | none => match ops with | x :: _ => x.2.size | [] => 0

/-- An operand is read or written at its own size, exempt from R213. -/
def ownSize (op : Nat) (c : WClass) (r : Role) : Bool :=
  match c with
  | .f _ => true
  | _ => match r with
    | .n | .t | .f => true
    | .s => op = 0x08 || op = 0x09
    | _ => false

/-- The modes that name local memory (R234, R247). -/
def localMode (m : Nat) : Bool := (1 ≤ m && m ≤ 5) || m = 8 || m = 12

/-- The special-register number of an immediate operand may be read (write false) or written (R205, R250). -/
def specialOk (write : Bool) (n : Nat) : Bool :=
  if write then n = 1 || n = 2 || n = 3 || (8 ≤ n && n ≤ 15) else n ≤ 15 && n ≠ 7

/-- Operand `i` of a list. -/
def opAt (ops : List (Role × Opnd)) (i : Nat) : Opnd := (ops.getD i (.s, Opnd.base 0 0 false)).2

/-- The size code a class F row states for operand `i`, if any (R230). -/
def WClass.stated (c : WClass) (i : Nat) : Option Nat :=
  match c with
  | .f sizes => (sizes[i]?).getD none
  | _ => none

/-- The conditions on operand `i` that its role and the instruction's own rules state (R228 to R230, R233 to R235, R241,
R247, R250, R254, R267). -/
def operandOk (op : Nat) (c : WClass) (ops : List (Role × Opnd)) (rep : Bool) (i : Nat) (r : Role) (o : Opnd) : Bool :=
  (match c.stated i with | some k => o.size = k | none => true)
  && (match r with
    | .t => if o.mode = 0 then o.sx && o.size ≤ 2 else o.size = 2
    | .f => o.size = 1
    | _ => true)
  && (op ≠ 0x02 || o.size = (opAt ops 0).size)
  && (op ≠ 0x04 || i ≠ 1 || localMode o.mode)
  && ((op ≠ 0x08 && op ≠ 0x09) || i ≠ 1 || o.size ≤ 4)
  && ((op ≠ 0xCA && op ≠ 0xCB) || i ≠ 0 || localMode o.mode)
  && ((op ≠ 0xE0 && op ≠ 0xE2 && op ≠ 0xE3 && op ≠ 0xE5) || i ≠ 0 || localMode o.mode || o.mode = 7)
  && (op ≠ 0xD0 || i ≠ 1 || (o.mode = 0 && specialOk false (o.imm % 256)))
  && (op ≠ 0xD1 || i ≠ 0 || (o.mode = 0 && specialOk true (o.imm % 256) && !(rep && o.imm % 256 = 2)))
  && (!o.isLatch || (op = 0x01 && !rep && (i = 0 || !(opAt ops 0).isLatch)))

/-- A source is exempt from R213's width check: it is read at a stated size, or at its own. -/
def widthFree (op : Nat) (c : WClass) (i : Nat) : Bool := (c.stated i).isSome || op = 0x08 || op = 0x09

/-- The width of operand `i` is one the instruction takes (R213, R230): the operand that sets the operation width has a
width of the class, and no source is wider without a width override. -/
def widthOk (op : Nat) (c : WClass) (ops : List (Role × Opnd)) (width : Option Nat) (i : Nat) (r : Role) (o : Opnd) :
    Bool :=
  width.isSome
    || ((r ≠ .s || widthFree op c i || o.size ≤ widthCode ops)
      && (c.permits o.size || !((r = .d || r = .m) || (i = 0 && ops.all (fun x => x.1 ≠ .d && x.1 ≠ .m)))))

/-- A width override names a width of the class (R230, R231). -/
def overrideOk (c : WClass) (w : Nat) : Bool :=
  match c with
  | .f _ => c.stated 0 = some w
  | _ => c.permits w

/-- Mark every operand that is illegal: it is the byte at which the encoding becomes illegal that offends (R223, R226;
assumption 55). -/
def Rd.checkOps (r : Rd) (ok : Nat → Role → Opnd → Bool) (ops : List (Role × Opnd)) : Rd :=
  ((List.range ops.length).zip ops).foldl (fun r x => r.illAt (x.1 + 1) (!ok x.1 x.2.1 x.2.2)) r

/-- REP may not prefix these groups (R220, R252, R264). -/
def noRep (op : Nat) : Bool := (0x70 ≤ op && op ≤ 0x8F) || (0xC0 ≤ op && op ≤ 0xCF) || (0xE0 ≤ op && op ≤ 0xEF)

/-- A macro definition's directory entry (R523): first slot, count, and the role and accepted sizes of each operand. -/
structure MacroDef where
  first : Nat
  count : Nat
  decl : List (Nat × Nat)
  deriving DecidableEq, Repr

/-- A declared role, by its code (R523). -/
def roleOf (n : Nat) : Role :=
  match n with | 0 => .d | 1 => .m | 2 => .s | 3 => .t | 4 => .n | _ => .f

/-- The role letter and accepted sizes declare this operand (R260). -/
def declOk (decl : Nat × Nat) (o : Opnd) : Bool := (roleOf decl.1).permits o.mode && bitOf decl.2 o.size

/-- What the bytes read decode to: the fault that stops decoding (CODE_FETCH, or ILLEGAL_INSTRUCTION at the lowest byte),
else the instruction (R226). -/
def Rd.result (r : Rd) (op : Option Nat) (i : Dec) : Except DecErr Dec :=
  match r.err, r.bad with
  | some 1, k => .error ⟨1, op, k.getD 0⟩
  | some c, _ => .error ⟨c, op, 0⟩
  | none, some k => .error ⟨1, op, k⟩
  | none, none => .ok { i with len := r.i }

/-- Decode the bytes of an instruction: `micro` for a micro-step, `keeper` for a keeper's TEND, `macros` the directory
entry of a macro pair. -/
def decodeBytes (bs : Bytes) (micro keeper : Bool) (macros : Nat → Nat → Option MacroDef) : Except DecErr Dec :=
  let (op, p, r) := if micro then let (b, r) := (Rd.start bs).byte
                                (b, (⟨none, none, false⟩ : Prefixes), r.ill (0x6F < b))
                    else (Rd.start bs).prefixes ⟨none, none, false⟩ 17
  let nothing : Dec := ⟨0, op, 0, [], none, 0⟩
  if r.err.isSome then r.result none nothing
  else
    let r := (r.ill (p.rep.isSome && noRep op)).ill (p.width.isSome && 0x6F < op)
    if 0xE8 ≤ op ∧ op ≤ 0xEF then
      let (fn, r) := r.byte
      match macros op fn with
      | none => r.stop.result (some op) nothing
      | some m =>
        let (ops, r) := r.operands false (m.decl.map (fun x => roleOf x.1))
        let r := r.checkOps (fun i _ o => (match m.decl[i]? with | some x => declOk x o | none => true) && !o.isLatch) ops
        r.result (some op) ⟨0, op, fn, ops, none, 0⟩
    else
      match opSpec op with
      | none => r.stop.result (some op) nothing
      | some (roles, c) =>
        let (ctl, r) := if roles.isEmpty then r.byte else (0, r)
        let r := (r.ill (ctl ≠ 0)).ill (op = 0x86 && keeper)
        let r := r.ill (match p.width with | some w => !overrideOk c w | none => false)
        let (ops, r) := r.operands micro roles
        let r := r.checkOps (fun i x o => operandOk op c ops p.rep.isSome i x o && widthOk op c ops p.width i x o) ops
        let k := match p.width with | some w => w | none => widthCode ops
        r.result (some op) ⟨0, op, 0, ops, p.rep, 8 * sizeBytes k⟩

/-! ## Fetch (R175, R176, R523) -/

/-- The size of a code-store bank. -/
def codeSize : Nat := 0x200000

/-- The bytes of the code store from `pc` on, at most 16, of the bank of generation `gen`. -/
def Dev.codeBytes (d : Dev) (gen pc : Nat) : Bytes :=
  (List.range (Nat.min 16 (codeSize - pc))).map (fun i => d.tabByte (d.bankAt 14 gen) (pc + i))

/-- A byte of the macro area (R523). -/
def Dev.macroByte (d : Dev) (gen a : Nat) : Byte := d.tabByte (d.bankAt 14 gen) (codeSize + a)

/-- `n` bytes of the macro area as a number. -/
def Dev.macroVal (d : Dev) (gen a n : Nat) : Nat := leNat ((List.range n).map (fun i => d.macroByte gen (a + i)))

/-- The definition of a macro pair; none when it is undefined. -/
def Dev.macroDef (d : Dev) (gen op fn : Nat) : Option MacroDef :=
  let e := 16 * (256 * (op - 0xE8) + fn)
  let count := d.macroVal gen (e + 2) 1
  let n := d.macroVal gen (e + 3) 1 % 4
  if count = 0 then none
  else some ⟨d.macroVal gen e 2, count, (List.range n).map (fun i =>
    (d.macroVal gen (e + 4 + 2 * i) 1 % 8, d.macroVal gen (e + 5 + 2 * i) 1 % 64))⟩

/-- Decode the instruction at a thread's PC. -/
def Dev.decodeAt (d : Dev) (id : Tid) : Except DecErr Dec :=
  let t := d.thr id
  decodeBytes (d.codeBytes t.codeGen t.pc.toNat) false (d.isKeeper id) (d.macroDef t.codeGen)

/-- Decode a micro-step from its slot. -/
def Dev.decodeMicro (d : Dev) (gen slot : Nat) : Except DecErr Dec :=
  decodeBytes ((List.range 16).map (fun i => d.macroByte gen (0x8000 + 16 * slot + i))) true false (fun _ _ => none)

/-! ## Evaluating operands (R209, R213, R214) -/

/-- An evaluated operand: its role, specifier, place, and the value read (0 for a destination). -/
structure Ev1 where
  role : Role
  o : Opnd
  loc : Loc
  val : Nat
  deriving DecidableEq, Repr

/-- A fault of an operand: class and incident code. -/
abbrev OpErr := Nat × Nat

/-- Base register `n`. -/
def baseReg (b : Map Word) (n : Nat) : Nat := (spGet 0 b n).toNat

/-- A local address, modulo 2^32. -/
def addr32 (n : Nat) : Nat := n % 2 ^ 32

/-- The base registers after an operand (R214, modes 9 and 10). -/
def Opnd.bases (o : Opnd) (b : Map Word) : Map Word :=
  let n := sizeBytes o.size
  match o.mode with
  | 9 => spSet 0 b o.reg (w32 (baseReg b o.reg + n))
  | 10 => spSet 0 b o.reg (w32 (addr32 (baseReg b o.reg + 2 ^ 32 - n)))
  | _ => b

/-- The place an operand names and the base registers after it (R214); `macros` holds the places of a macro's operands
(mode 12). -/
def Dev.locate (d : Dev) (id : Tid) (b : Map Word) (macros : List Loc) (o : Opnd) : Except OpErr (Loc × Map Word) :=
  match o.mode with
  | 0 => .ok (.imm o.imm, b)
  | 1 => .ok (.mem o.off, b)
  | 2 | 3 => .ok (.mem (addr32 (baseReg b o.reg + o.disp)), b)
  | 4 => .ok (.mem (addr32 (baseReg b o.reg + baseReg b o.index * o.scale + o.disp)), b)
  | 5 => if o.off + 4 ≤ 0x6000 then .ok (.mem (d.localVal id o.off 4), b) else .error (2, Code.notOwner)
  | 6 => .ok (.window (d.localVal id winHandle 4) (d.localVal id winLength 4)
      (if o.indexed then addr32 (o.off + baseReg b o.reg) else o.off), b)
  | 7 => .ok (.table o.table (baseReg b o.reg) o.off, b)
  | 8 => .ok (.mem (0x10000 + o.off), b)
  | 9 => .ok (.mem (baseReg b o.reg), o.bases b)
  | 10 => .ok (.mem (addr32 (baseReg b o.reg + 2 ^ 32 - sizeBytes o.size)), o.bases b)
  | 11 => .ok (.clock o.sel, b)
  | _ => .ok (macros.getD o.sel (.imm 0), b)

/-- Bytes an operand's access covers: the area named by its address, where the instruction says so (R247, R254,
R258), else its size. -/
def areaBytes (op i : Nat) (o : Opnd) : Nat :=
  if i = 0 ∧ (op = 0xCA ∨ op = 0xCB ∨ op = 0xE0 ∨ op = 0xE5) then 64
  else if i = 0 ∧ (op = 0xE2 ∨ op = 0xE3) then 256
  else sizeBytes o.size

/-- An access to the Latch table (R216, R267): STAT reads its word; ACQ and TRY are the Latch unit's. -/
def Dev.latchOperand (d : Dev) (role : Role) (o : Opnd) (idx : Nat) : Except OpErr Nat :=
  if 4095 < idx ∨ o.size ≠ 2 then .error (4, Code.reserved)
  else match role with
    | .s => if o.off = 8 then .ok (d.latchStatus idx)
            else if o.off = 0 ∨ o.off = 4 then .ok 0 else .error (4, Code.reserved)
    | _ => if o.off = 0 then .ok 0 else .error (4, Code.reserved)

/-- A value of `n` bytes at a place, for reads wider than an operand too. -/
def Dev.readArea (d : Dev) (id : Tid) (n : Nat) (l : Loc) : Except OpErr Nat := d.readLoc id (d.thrGen id) n l

/-- The source of a LEA whose mode-5 pointer word does not lie in the shelf: LEA raises no fault, and the
spec states no value (R234; assumption 56). -/
def leaOpen (op i : Nat) (o : Opnd) : Bool := op = 0x04 && i = 1 && o.mode = 5 && 0x6000 < o.off + 4

/-- Evaluate operand `i`: its place, its value when it is read, the fault it raises otherwise (R224 to R226). -/
def Dev.evalOne (d : Dev) (id : Tid) (op i : Nat) (b : Map Word) (macros : List Loc) (x : Role × Opnd) :
    Except OpErr (Ev1 × Map Word) :=
  if leaOpen op i x.2 then .ok (⟨x.1, x.2, .imm 0, d.freeVal % 2 ^ 32⟩, b)
  else match d.locate id b macros x.2 with
  | .error e => .error e
  | .ok (l, b') =>
    let n := areaBytes op i x.2
    let done := fun (v : Nat) => (.ok (⟨x.1, x.2, l, v⟩, b') : Except OpErr (Ev1 × Map Word))
    let written : Except OpErr Unit := match d.writeFault id (d.thrGen id) n l with
      | some e => .error e
      | none => match l with
        | .imm _ | .clock _ => .error (1, Code.reserved)
        | _ => .ok ()
    match l with
    | .table 0xFE idx _ =>
      match d.latchOperand x.1 x.2 idx with
      | .error e => .error e
      | .ok v => done v
    | _ =>
      match x.1 with
      | .d => match written with
        | .error e => .error e
        | .ok () => done 0
      | .m => match written with
        | .error e => .error e
        | .ok () => match d.readArea id n l with
          | .error e => .error e
          | .ok v => done v
      | _ =>
        if op = 0x04 ∧ i = 1 then
          -- LEA makes no access: the value is the address (R234)
          match l with | .mem a => done a | _ => .error (1, Code.reserved)
        else match d.readArea id n l with
          | .error e => .error e
          | .ok v => done (if l = .imm v ∧ x.2.mode = 12 then extendTo x.2.bits x.2.bits false v else v)

/-- Evaluate operands from number `i` on, in specifier order, each seeing the base registers of those before it
(R209). A fault comes with its operand's number. -/
def Dev.evalOps (d : Dev) (id : Tid) (op : Nat) (macros : List Loc) :
    Nat → Map Word → List (Role × Opnd) → Except (OpErr × Nat) (List Ev1 × Map Word)
  | _, b, [] => .ok ([], b)
  | i, b, x :: xs =>
    match d.evalOne id op i b macros x with
    | .error e => .error (e, i + 1)
    | .ok (v, b) => match d.evalOps id op macros (i + 1) b xs with
      | .error e => .error e
      | .ok (vs, b) => .ok (v :: vs, b)

/-- EXT and INS with a len of 0, a zero length: only the descriptor is evaluated, and the operands before it are neither
accessed nor checked and move no base register (R13, R240). The operands so far unread. -/
def Dev.zeroField (d : Dev) (id : Tid) (op : Nat) (macros : List Loc) (b : Map Word) (ops : List (Role × Opnd)) :
    Option (List Ev1) :=
  match ops with
  | [x, y, f] =>
    if op ≠ 0x60 && op ≠ 0x61 then none
    else match d.evalOne id op 2 (y.2.bases (x.2.bases b)) macros f with
      | .ok (e, _) => if bits e.val 15 8 = 0 then some [⟨x.1, x.2, .imm 0, 0⟩, ⟨y.1, y.2, .imm 0, 0⟩, e] else none
      | .error _ => none
  | _ => none

/-- The operands of an instruction and the base registers after them. -/
def Dev.operandsOf (d : Dev) (id : Tid) (op : Nat) (macros : List Loc) (ops : List (Role × Opnd)) :
    Except (OpErr × Nat) (List Ev1 × Map Word) :=
  let b := (d.thr id).b
  match d.zeroField id op macros b ops with
  | some evs => .ok (evs, b)
  | none => d.evalOps id op macros 0 b ops

/-- The value an instruction computes with: a source at the operation width, unless it is read at its own size
(R213). -/
def Ev1.value (e : Ev1) (op width : Nat) (c : WClass) : Nat :=
  if ownSize op c e.role then e.val else extendTo e.o.bits width e.o.sx e.val

/-- Write a result of the operation width to an operand (R213). -/
def Dev.putOp (d : Dev) (id : Tid) (op width : Nat) (c : WClass) (e : Ev1) (v : Nat) : Dev :=
  let v := if ownSize op c e.role then v else extendTo width e.o.bits e.o.sx v
  d.writeLoc id (d.thrGen id) (sizeBytes e.o.size) v e.loc

end Sys2Proof.Machine
end

