-- ==== Sys2Proof/Machine/Nerbin.lean ====
section
/-! DEFINITION. How a thread issues an instruction (R177, R209, R219, R220, R223, R224, R261): the checks every
instruction shares, its operands, its effect, the PC; repeated instructions and macros. The instructions of groups 0x00 to
0x6F follow, each by its computation. -/

namespace Sys2Proof.Machine

/-- What an instruction does once its operands are evaluated and the base registers updated: the device after it, or a
fault tied to no operand (class and incident code). -/
abbrev Sem := Dev → Tid → Dec → List Ev1 → Except OpErr Dev

/-- The width class of an opcode. -/
def classOf (op : Nat) : WClass := match opSpec op with | some x => x.2 | none => .f []

/-- The values of the operands as the instruction uses them. -/
def evVals (i : Dec) (evs : List Ev1) : List Nat := evs.map (fun e => e.value i.op i.width (classOf i.op))

/-- Write results to operands. -/
def Dev.putAll (d : Dev) (id : Tid) (i : Dec) (evs : List Ev1) : List (Nat × Nat) → Dev
  | [] => d
  | (k, v) :: rest =>
    match evs[k]? with
    | some e => (d.putOp id i.op i.width (classOf i.op) e v).putAll id i evs rest
    | none => d.putAll id i evs rest

/-- The effect of a computation: results and FLAGS; ARITHMETIC when it has none (R225, R238). -/
def aluSem (f : Alu) : Sem := fun d id i evs =>
  match f i.width (d.thr id).flags (evVals i evs) with
  | none => .error (5, Code.reserved)
  | some out => .ok ((d.putAll id i evs out.writes).updThr id (fun t => { t with flags := out.flags }))

/-- The thread parks on a fault it met at decode; the opcode of an instruction whose major opcode was not reached is
open (R224). -/
def Dev.decodeFault (d : Dev) (id : Tid) (e : DecErr) : Dev :=
  match e.op with
  | some op => d.faultPark id ⟨e.cls, Code.reserved, op, e.operand, 0⟩
  | none => d.freeStep.faultPark id ⟨e.cls, Code.reserved, d.freeVal % 256, e.operand, 0⟩

/-- A thread may issue: the device is in service and the thread READY. -/
def Dev.mayIssue (d : Dev) (id : Tid) : Bool := d.serving && (d.thr id).state = .ready

/-- The bases an instruction leaves. -/
def Dev.setBases (d : Dev) (id : Tid) (b : Map Word) : Dev := d.updThr id (fun t => { t with b := b })

/-- Core clocks of a drip as the cycle counter counts them (R185). -/
def Dev.dripCycles (d : Dev) : Nat := 1000 * 2 ^ d.ioFld R.dripCfg 1 0

/-- The last count of the cycle counter within this drip. -/
def Dev.lastCycle (d : Dev) : Nat := (d.drip.now + 1) * d.dripCycles - 1

/-- The cycle counter has moved on within the drip, by how much the model cannot say. -/
def Dev.cyclePass (d : Dev) : Dev :=
  d.freeStep.onDrip (fun p => { p with cycle := p.cycle + d.freeVal % (d.lastCycle + 1 - p.cycle) })

/-- An operand list reads a time special register (R217): 1 the cycle counter, 2 and 3 the Strongroom's. -/
def readsTime (sel : Nat → Bool) (l : List (Role × Opnd)) : Bool := l.any (fun x => x.2.mode = 11 && sel x.2.sel)

/-- The clocks an instruction reads move on before it issues; WAITT.C (0xC3) compares with the cycle counter. -/
def Dev.clockPass (d : Dev) (op : Nat) (l : List (Role × Opnd)) : Dev :=
  let d := if op = 0xC3 || readsTime (· = 1) l then d.cyclePass else d
  if readsTime (2 ≤ ·) l then d.strongPass else d

/-- The operands of a micro-step with those that name a macro's time special as that special (R261). -/
def timeOps (macros : List Loc) (l : List (Role × Opnd)) : List (Role × Opnd) :=
  l.map (fun x => match if x.2.mode = 12 then macros.getD x.2.sel (.imm 0) else .imm 0 with
    | .clock s => (x.1, { x.2 with mode := 11, sel := s })
    | _ => x)

/-- The free value an open LEA took is used up. -/
def Dev.leaPass (d : Dev) (op : Nat) (l : List (Role × Opnd)) : Dev :=
  if leaOpen op 1 (opAt l 1) then d.freeStep else d

/-- The place, with its bytes, of the operand whose evaluation faults, after operand `i`. -/
def Dev.failLoc (d : Dev) (id : Tid) (op : Nat) (macros : List Loc) : Nat → Map Word → List (Role × Opnd) → Option (Loc × Nat)
  | _, _, [] => none
  | i, b, x :: xs =>
    match d.evalOne id op i b macros x with
    | .ok (_, b) => d.failLoc id op macros (i + 1) b xs
    | .error _ => match d.locate id b macros x.2 with | .ok (l, _) => some (l, areaBytes op i x.2) | .error _ => none

/-- An operand that is poisoned is counted (R407, R470). -/
def Dev.countOps (d : Dev) (id : Tid) (i : Dec) (macros : List Loc) (code : Nat) : Dev :=
  if code ≠ Code.poisoned then d
  else match d.failLoc id i.op macros 0 (d.thr id).b i.ops with
    | some (l, n) => d.countLoc id (d.thrGen id) n l
    | none => d

/-- The thread issues: its operands are evaluated, and a fault of one parks it with nothing else changed (R224). `k` gets
the device, the operands and the base registers after them. -/
def Dev.withOps (d : Dev) (id : Tid) (i : Dec) (macros : List Loc) (micro opcode : Nat)
    (k : Dev → List Ev1 → Map Word → Dev) : Dev :=
  let d := (d.unstill id).clockPass i.op (timeOps macros i.ops)
  match d.operandsOf id i.op macros i.ops with
  | .error ((cls, code), n) => (d.countOps id i macros code).faultPark id ⟨cls, code, opcode, n, micro⟩
  | .ok (evs, b) => k (d.leaPass i.op i.ops) evs b

/-- Evaluate the operands and apply the effect; a fault parks the thread with nothing else changed (R224). `micro` is the
number of the micro-step. The continuation `k` gets the device after the effect. -/
def Dev.perform (d : Dev) (id : Tid) (i : Dec) (macros : List Loc) (micro opcode : Nat) (sem : Sem) (k : Dev → Dev) :
    Dev :=
  d.withOps id i macros micro opcode (fun d evs b =>
    match sem (d.setBases id b) id i evs with
    | .error (cls, code) => d.faultPark id ⟨cls, code, opcode, 0, micro⟩
    | .ok d' => k d')

/-- The thread goes on at the next instruction. -/
def Dev.advance (d : Dev) (id : Tid) (len : Nat) : Dev :=
  d.updThr id (fun t => { t with pc := w32 (t.pc.toNat + len) }.after)

/-- One issue of an instruction that is neither repeated nor a macro. A thread whose next instruction cannot be decoded parks; a command for another opcode changes nothing. -/
def Dev.issueWith (d : Dev) (id : Tid) (opc : Nat) (run : Dev → Dec → Dev) : Dev :=
  if !d.mayIssue id || (d.thr id).macroRun.isSome then d
  else match d.decodeAt id with
    | .error e => (d.unstill id).decodeFault id e
    | .ok i => if i.op ≠ opc || i.rep.isSome then d else run d i

/-- An instruction whose effect ends with the PC past it. -/
def Dev.issue (d : Dev) (id : Tid) (opc : Nat) (sem : Sem) : Dev :=
  d.issueWith id opc (fun d i => d.perform id i [] 0 i.op sem (fun d => d.advance id i.len))

/-- An instruction of groups 0x00 to 0x6F. -/
def Dev.issueAlu (d : Dev) (id : Tid) (opc : Nat) (f : Alu) : Dev := d.issue id opc (aluSem f)

/-! ## Special registers and system (R205, R250 to R252) -/

/-- TID (R205). -/
def Dev.tidReg (d : Dev) (id : Tid) : Nat :=
  id.t + (d.logicalOf id.g id.c).getD 0 * 2 ^ 3 + id.g * 2 ^ 6 + id.c * 2 ^ 10

/-- A special register as a program reads it; `next` is the offset of the next instruction (R205). -/
def Dev.readSpecial (d : Dev) (id : Tid) (n next : Nat) : Nat :=
  let t := d.thr id
  match n with
  | 0 => next
  | 1 => t.flags.toNat
  | 2 => t.cnt.toNat
  | 3 => t.ev.toNat
  | 4 => t.evp.toNat
  | 5 => d.tidReg id
  | 6 => t.rgen
  | _ => baseReg t.b (n - 8)

/-- A write of a special register: reserved bits are ignored and counted (R9, R206, R250). -/
def Dev.writeSpecial (d : Dev) (id : Tid) (n v : Nat) : Dev :=
  let mask := if n = 1 then flagsMask else if n = 3 then evMask (d.isKeeper id) else 0xFFFFFFFF
  let d := if v &&& mask = v then d else d.reservedWrite 1 n (ownerTag id)
  let w := w32 (v &&& mask)
  d.updThr id (fun t => match n with
    | 1 => { t with flags := w }
    | 2 => { t with cnt := w }
    | 3 => { t with ev := w }
    | _ => { t with b := spSet 0 t.b (n - 8) w })

/-- MOVS, read form. -/
def semMovsRead : Sem := fun d id i evs =>
  match evs with
  | [e, n] => .ok (d.putOp id i.op i.width (classOf i.op) e
      (d.readSpecial id (n.val % 256) (addr32 ((d.thr id).pc.toNat + i.len))))
  | _ => .ok d

/-- MOVS, write form. -/
def semMovsWrite : Sem := fun d id _ evs =>
  match evs with
  | [n, e] => .ok (d.writeSpecial id (n.val % 256) e.val)
  | _ => .ok d

/-- NOP, FENCE and YIELD: no effect but their issue, and for FENCE and YIELD time (R251, R177); every write of the
model is visible at once. -/
def semNone : Sem := fun d _ _ _ => .ok d

/-- The effect of an instruction that REP may repeat. -/
def semOf (op : Nat) : Option Sem :=
  match aluOf op with
  | some f => some (aluSem f)
  | none => match op with
    | 0xD0 => some semMovsRead
    | 0xD1 => some semMovsWrite
    | 0xD2 => some semNone
    | 0xD3 => some semNone
    | 0xD4 => some semNone
    | _ => none

/-! ## Repeated instructions (R220) -/

/-- Evaluate the count: none when its operand faults; the thread's CNT and base registers follow. -/
def Dev.repCount (d : Dev) (id : Tid) (o : Opnd) : Except OpErr Dev :=
  match d.evalOne id 0 1 (d.thr id).b [] (.s, o) with
  | .error e => .error e
  | .ok (e, b) => .ok (d.updThr id (fun t => { t with b := b, cnt := w32 (extendTo o.bits 32 o.sx e.val) }))

/-- One iteration: CNT falls by one, and at 0 the PC moves past the instruction. -/
def Dev.repStep (d : Dev) (id : Tid) (i : Dec) (sem : Sem) : Dev :=
  d.perform id i [] 0 i.op sem (fun d =>
    let c := (d.thr id).cnt - 1
    if c = 0 then (d.updThr id (fun t => { t with cnt := c, repAt := none })).advance id i.len
    else d.updThr id (fun t => { t with cnt := c, repAt := some t.pc.toNat }.after))

/-- A repeat count that is poisoned is counted (R407, R470). -/
def Dev.countRep (d : Dev) (id : Tid) (o : Opnd) (code : Nat) : Dev :=
  match d.locate id (d.thr id).b [] o with
  | .ok (l, _) => if code = Code.poisoned then d.countLoc id (d.thrGen id) (sizeBytes o.size) l else d
  | .error _ => d

/-- REP_ITERATION: the count is evaluated at the start of the instruction; with a count of 0 it ends at once. -/
def Dev.repIteration (d : Dev) (id : Tid) : Dev :=
  if !d.mayIssue id || (d.thr id).macroRun.isSome then d
  else match d.decodeAt id with
    | .error e => (d.unstill id).decodeFault id e
    | .ok i =>
      match i.rep, semOf i.op with
      | some o, some sem =>
        let d := (d.unstill id).clockPass 0 [(.s, o)]
        if (d.thr id).repAt = some (d.thr id).pc.toNat then d.repStep id i sem
        else match d.repCount id o with
          | .error (cls, code) => (d.countRep id o code).faultPark id ⟨cls, code, i.op, 0, 0⟩
          | .ok d => if (d.thr id).cnt = 0 then d.advance id i.len else d.repStep id i sem
      | _, _ => d

/-! ## MOVs of the Latch table (R267, R268) -/

/-- A MOV that reads the Latch word at offset `off`. -/
def latchReads (i : Dec) (off : Nat) : Bool := i.op = 0x01 && (opAt i.ops 1).isLatch && (opAt i.ops 1).off = off

/-- A MOV that writes the ACQ word. -/
def latchWrites (i : Dec) : Bool := i.op = 0x01 && (opAt i.ops 0).isLatch && (opAt i.ops 0).off = 0

/-- A MOV that names the Latch table at its ACQ or TRY word: it acquires or releases a Latch. -/
def latchMov (i : Dec) : Bool := latchWrites i || latchReads i 0 || latchReads i 4

/-- The Latch an evaluated operand names. -/
def Ev1.latch (e : Ev1) : Nat := match e.loc with | .table _ idx _ => idx | _ => 0

/-- The thread waits at its PC; its base registers change when the wait completes (R249). -/
def Dev.startWait (d : Dev) (id : Tid) (w : Wait) : Dev :=
  d.updThr id (fun t => { t with state := .waiting, wait := w })

/-- The offset of the byte that follows the instruction. -/
def Dev.nextPc (d : Dev) (id : Tid) (i : Dec) : Nat := addr32 ((d.thr id).pc.toNat + i.len)

/-- The base registers and FLAGS.code and w of an instruction that reports a code. -/
def Dev.report (d : Dev) (id : Tid) (b : Map Word) (code : Nat) (w : Bool) : Dev := (d.setBases id b).setCode id code w

/-- Write FLAGS.code and w and go on: the instruction's base-register updates are made. -/
def Dev.finishCode (d : Dev) (id : Tid) (i : Dec) (b : Map Word) (code : Nat) (w : Bool) : Dev :=
  (d.report id b code w).advance id i.len

/-- The value a MOV writes to the ACQ word, which has 32 bits (R213, R274). -/
def latchValue (i : Dec) (evs : List Ev1) : Nat :=
  extendTo i.width 32 (opAt i.ops 0).sx ((evVals i evs).getD 1 0)

/-- A MOV acquires, with one attempt through the TRY word, or releases a Latch (R268, R269, R273, R274); `k` goes on
after it, unless the thread now waits. -/
def Dev.latchEffect (d : Dev) (id : Tid) (i : Dec) (evs : List Ev1) (b : Map Word) (k : Dev → Dev) : Dev :=
  match evs with
  | [e, s] =>
    if latchWrites i then
      let (code, d) := d.latchRelease e.latch (ownerTag id) (latchValue i evs)
      k (d.report id b code false)
    else match d.latchAcquire s.latch (ownerTag id) (d.drip.now + d.latchTimeout s.latch) (latchReads i 4) with
      | (some code, d) => k ((d.putOp id i.op i.width (classOf i.op) e code).report id b code false)
      | (none, d) => d.startWait id
          ⟨.latch, e.loc, .imm 0, sizeBytes e.o.size, 0, s.latch, d.nextPc id i, d.drip.now, b⟩
  | _ => d

/-! ## Macros (R223, R260 to R262) -/

/-- The places of a macro's operands, evaluated once in specifier order; a fault is one of micro-step 0. A time special's place is
its clock, which a micro-step reads as it issues, cut to its own size (R261; assumption 55). -/
def Dev.macroLocs (d : Dev) (id : Tid) : Nat → Map Word → List (Role × Opnd) → Except (OpErr × Nat) (List Loc × Map Word)
  | _, b, [] => .ok ([], b)
  | n, b, x :: xs =>
    match d.locate id b [] x.2 with
    | .error e => .error (e, n + 1)
    | .ok (l, b) => match d.macroLocs id (n + 1) b xs with
      | .error e => .error e
      | .ok (ls, b) => .ok (l :: ls, b)

/-- MACRO_INSTRUCTION: decoded, its operands evaluated, its micro-steps to follow. -/
def Dev.macroStart (d : Dev) (id : Tid) : Dev :=
  if !d.mayIssue id || (d.thr id).macroRun.isSome then d
  else match d.decodeAt id with
    | .error e => (d.unstill id).decodeFault id e
    | .ok i =>
      -- an instruction that is no macro is another command's
      match if i.op < 0xE8 || 0xEF < i.op then none else d.macroDef (d.thr id).codeGen i.op i.fn with
      | none => d
      | some m =>
        let d := d.unstill id
        match d.macroLocs id 0 (d.thr id).b i.ops with
        | .error ((cls, code), n) => d.faultPark id ⟨cls, code, i.op, n, 0⟩
        | .ok (ls, b) => d.updThr id (fun t => { t with
            b := b, macroRun := some ⟨t.pc.toNat + i.len, m.first, m.count, 0, ls⟩ })

/-- The major opcode of the macro a thread runs. -/
def Dev.macroOp (d : Dev) (id : Tid) : Nat := match d.decodeAt id with | .ok i => i.op | .error e => e.op.getD 0

/-- MICRO_STEP: the next micro-step, which acts as its own instruction does (R262); after the last the PC moves past the
macro instruction. -/
def Dev.microStep (d : Dev) (id : Tid) : Dev :=
  if !d.mayIssue id then d
  else match (d.thr id).macroRun with
    | none => d
    | some m =>
      let d := d.unstill id
      match d.decodeMicro (d.thr id).codeGen (m.first + m.step) with
      | .error e => d.faultPark id ⟨e.cls, Code.reserved, d.macroOp id, e.operand, m.step⟩
      | .ok i =>
        let k := fun (d : Dev) => d.updThr id (fun t => t.microDone m)
        match latchMov i, aluOf i.op with
        | true, _ => d.withOps id i m.ops m.step (d.macroOp id) (fun d evs b => d.latchEffect id i evs b k)
        | false, none => d.faultPark id ⟨1, Code.reserved, d.macroOp id, 0, m.step⟩
        | false, some f => d.perform id i m.ops m.step (d.macroOp id) (aluSem f) k

/-- REP_ITERATION (R220). -/
def execRepIteration (id : Tid) (s : State) : Host.Outcome State Fault Refusal := s.run (fun d => d.repIteration id)

/-- MACRO_INSTRUCTION (R223). -/
def execMacroInstruction (id : Tid) (s : State) : Host.Outcome State Fault Refusal := s.run (fun d => d.macroStart id)

/-- MICRO_STEP (R261). -/
def execMicroStep (id : Tid) (s : State) : Host.Outcome State Fault Refusal := s.run (fun d => d.microStep id)

/-! ## Special registers and system, 0xD0 to 0xDF -/

/-- MOVS, read form (R250). -/
def execMovsRead (id : Tid) (s : State) : Host.Outcome State Fault Refusal := s.run (fun d => d.issue id 0xD0 semMovsRead)

/-- MOVS, write form (R250). -/
def execMovsWrite (id : Tid) (s : State) : Host.Outcome State Fault Refusal :=
  s.run (fun d => d.issue id 0xD1 semMovsWrite)

/-- NOP. -/
def execNop (id : Tid) (s : State) : Host.Outcome State Fault Refusal := s.run (fun d => d.issue id 0xD2 semNone)

/-- FENCE (R251): every earlier write is already visible. -/
def execFence (id : Tid) (s : State) : Host.Outcome State Fault Refusal := s.run (fun d => d.issue id 0xD3 semNone)

/-- YIELD (R250): the model counts no core clocks. -/
def execYield (id : Tid) (s : State) : Host.Outcome State Fault Refusal := s.run (fun d => d.issue id 0xD4 semNone)

end Sys2Proof.Machine
end

