-- ==== Sys2Proof/Machine/NerbinCtl.lean ====
section
/-! DEFINITION. Control transfer, events, waits and channels (R241 to R249), and thread control (R259). -/

namespace Sys2Proof.Machine

/-! ## Branches (R241, R242) -/

/-- The thread's PC. -/
def Dev.goto (d : Dev) (id : Tid) (a : Nat) : Dev := d.updThr id (fun t => { t with pc := w32 a })

/-- The code-store offset a target names. -/
def Dev.target (d : Dev) (id : Tid) (i : Dec) (e : Ev1) : Nat :=
  if e.o.mode = 0 then ofSigned 32 ((d.nextPc id i : Int) + toSigned e.o.bits e.o.imm) else e.val

/-- A branch taken when `c` holds of FLAGS. -/
def semBranch (c : Word → Bool) : Sem := fun d id i evs =>
  match evs with
  | [t] => .ok (d.goto id (if c (d.thr id).flags then d.target id i t else d.nextPc id i))
  | _ => .ok d

/-- CALL: the return address is written after the target is read. -/
def semCall : Sem := fun d id i evs =>
  match evs with
  | [e, t] => .ok ((d.putOp id i.op i.width (classOf i.op) e (d.nextPc id i)).goto id (d.target id i t))
  | _ => .ok d

/-- RET. -/
def semRet : Sem := fun d id _ evs =>
  match evs with
  | [e] => .ok (d.goto id e.val)
  | _ => .ok d

/-- DBNZ. -/
def semDbnz : Sem := fun d id i evs =>
  match evs with
  | [m, t] =>
    let r := ofSigned m.o.bits ((m.val : Int) - 1)
    .ok ((d.putOp id i.op i.width (classOf i.op) m r).goto id (if r = 0 then d.nextPc id i else d.target id i t))
  | _ => .ok d

/-- Issue an instruction that sets its own PC. -/
def Dev.issueGoto (d : Dev) (id : Tid) (opc : Nat) (sem : Sem) : Dev :=
  d.issueWith id opc (fun d i => d.perform id i [] 0 i.op sem (fun d => d.updThr id Thread.after))

/-- Issue a conditional branch. -/
def Dev.issueBcc (d : Dev) (id : Tid) (cc : Nat) : Dev := d.issueGoto id (0x70 + cc) (semBranch (branchCond cc))

/-- BEQ. -/
def execBeq (id : Tid) (s : State) : Host.Outcome State Fault Refusal := s.run (fun d => d.issueBcc id 0)
/-- BNE. -/
def execBne (id : Tid) (s : State) : Host.Outcome State Fault Refusal := s.run (fun d => d.issueBcc id 1)
/-- BLTU. -/
def execBltu (id : Tid) (s : State) : Host.Outcome State Fault Refusal := s.run (fun d => d.issueBcc id 2)
/-- BGEU. -/
def execBgeu (id : Tid) (s : State) : Host.Outcome State Fault Refusal := s.run (fun d => d.issueBcc id 3)
/-- BGTU. -/
def execBgtu (id : Tid) (s : State) : Host.Outcome State Fault Refusal := s.run (fun d => d.issueBcc id 4)
/-- BLEU. -/
def execBleu (id : Tid) (s : State) : Host.Outcome State Fault Refusal := s.run (fun d => d.issueBcc id 5)
/-- BLT. -/
def execBlt (id : Tid) (s : State) : Host.Outcome State Fault Refusal := s.run (fun d => d.issueBcc id 6)
/-- BGE. -/
def execBge (id : Tid) (s : State) : Host.Outcome State Fault Refusal := s.run (fun d => d.issueBcc id 7)
/-- BGT. -/
def execBgt (id : Tid) (s : State) : Host.Outcome State Fault Refusal := s.run (fun d => d.issueBcc id 8)
/-- BLE. -/
def execBle (id : Tid) (s : State) : Host.Outcome State Fault Refusal := s.run (fun d => d.issueBcc id 9)
/-- BMI. -/
def execBmi (id : Tid) (s : State) : Host.Outcome State Fault Refusal := s.run (fun d => d.issueBcc id 10)
/-- BPL. -/
def execBpl (id : Tid) (s : State) : Host.Outcome State Fault Refusal := s.run (fun d => d.issueBcc id 11)
/-- BVS. -/
def execBvs (id : Tid) (s : State) : Host.Outcome State Fault Refusal := s.run (fun d => d.issueBcc id 12)
/-- BVC. -/
def execBvc (id : Tid) (s : State) : Host.Outcome State Fault Refusal := s.run (fun d => d.issueBcc id 13)
/-- BOK. -/
def execBok (id : Tid) (s : State) : Host.Outcome State Fault Refusal := s.run (fun d => d.issueBcc id 14)
/-- BNOK. -/
def execBnok (id : Tid) (s : State) : Host.Outcome State Fault Refusal := s.run (fun d => d.issueBcc id 15)
/-- JMP. -/
def execJmp (id : Tid) (s : State) : Host.Outcome State Fault Refusal :=
  s.run (fun d => d.issueGoto id 0x80 (semBranch (fun _ => true)))
/-- CALL. -/
def execCall (id : Tid) (s : State) : Host.Outcome State Fault Refusal := s.run (fun d => d.issueGoto id 0x81 semCall)
/-- RET. -/
def execRet (id : Tid) (s : State) : Host.Outcome State Fault Refusal := s.run (fun d => d.issueGoto id 0x82 semRet)
/-- DBNZ. -/
def execDbnz (id : Tid) (s : State) : Host.Outcome State Fault Refusal := s.run (fun d => d.issueGoto id 0x83 semDbnz)
/-- BW. -/
def execBw (id : Tid) (s : State) : Host.Outcome State Fault Refusal :=
  s.run (fun d => d.issueGoto id 0x84 (semBranch flagW))
/-- BNW. -/
def execBnw (id : Tid) (s : State) : Host.Outcome State Fault Refusal :=
  s.run (fun d => d.issueGoto id 0x85 (semBranch (fun f => !flagW f)))

/-! ## Waits (R183, R185, R186, R245) -/

/-- keeper_tick of a gallery, LIVE. -/
def Dev.keeperTick (d : Dev) (g : Nat) : Nat := bits (d.live (R.gallCfg + 0x40000 * g)) 13 10

/-- WFE (R183, R186). -/
def Dev.issueWfe (d : Dev) (id : Tid) : Dev :=
  d.issueWith id 0xC0 (fun d i => d.withOps id i [] 0 i.op (fun d evs b =>
    match evs with
    | [e] => (d.startWait id ⟨.wfe, e.loc, .imm 0, d.drip.now + d.keeperTick id.g, 0, 0, d.nextPc id i, d.drip.now,
        b⟩).waitCheck id
    | _ => d))

/-- WAITT (R185, R245). -/
def Dev.issueWaitt (d : Dev) (id : Tid) (opc : Nat) (k : WaitKind) : Dev :=
  d.issueWith id opc (fun d i => d.withOps id i [] 0 i.op (fun d evs b =>
    match evs with
    | [e, v, m] =>
      (d.startWait id ⟨k, e.loc, .imm 0, v.val, m.val, 0, d.nextPc id i, d.drip.now, b⟩).waitCheck id
    | _ => d))

/-- EVTAKE (R246). -/
def semEvtake : Sem := fun d id i evs =>
  match evs with
  | [e, m] =>
    let t := d.thr id
    let v := t.evp.toNat &&& m.val
    let d := d.updThr id (fun t => { t with evp := t.evp &&& ~~~(w32 v), flags := setFld t.flags 0 0 (b2n (v == 0)) })
    .ok (d.putOp id i.op i.width (classOf i.op) e v)
  | _ => .ok d

/-- WFE. -/
def execWfe (id : Tid) (s : State) : Host.Outcome State Fault Refusal := s.run (fun d => d.issueWfe id)
/-- WAITT.D. -/
def execWaittD (id : Tid) (s : State) : Host.Outcome State Fault Refusal := s.run (fun d => d.issueWaitt id 0xC2 .waittD)
/-- WAITT.C. -/
def execWaittC (id : Tid) (s : State) : Host.Outcome State Fault Refusal := s.run (fun d => d.issueWaitt id 0xC3 .waittC)
/-- EVTAKE. -/
def execEvtake (id : Tid) (s : State) : Host.Outcome State Fault Refusal := s.run (fun d => d.issue id 0xC4 semEvtake)

/-- The cycle counter reaches a WAITT.C's deadline that lies in this drip. -/
def Dev.cycleReach (d : Dev) (id : Tid) : Dev :=
  let w := (d.thr id).wait
  if w.kind = .waittC && w.value ≤ d.lastCycle then d.onDrip (fun p => { p with cycle := Nat.max p.cycle w.value }) else d

/-- WAITT_DEADLINE: the wait of a thread whose deadline is reached completes with TIME (R245, R186). -/
def execWaittDeadline (id : Tid) (s : State) : Host.Outcome State Fault Refusal :=
  s.run (fun d =>
    if (d.thr id).eventWait && (d.cycleReach id).deadlineReached id then (d.cycleReach id).waitCheck id else d)

/-! ## SEV (R184, R244) -/

/-- The threads a SEV names. -/
def Dev.sevTargets (d : Dev) (g core : Nat) (all : Bool) (mask : Nat) : List Tid :=
  (List.range 8).flatMap (fun l => if all || l = core then (maskBits 8 mask).filterMap (fun t => d.tidAt g l t) else [])

/-- SEVL in a receiver of the sender's own stillness domain, SEVX in any other (R182). -/
def Dev.sevBit (d : Dev) (from_ to_ : Tid) : Nat :=
  if from_.g = to_.g && (d.domainOf from_).isSome && d.domainOf from_ = d.domainOf to_ then Ev.sevl else Ev.sevx

/-- SEV. -/
def semSev : Sem := fun d id _ evs =>
  match evs with
  | [e] =>
    let v := e.val
    let d := if bits v 31 16 ≠ 0 then d.reservedWrite 2 0 (ownerTag id) else d
    .ok ((d.sevTargets (bits v 15 12) (bits v 10 8) (bitOf v 11) (bits v 7 0)).foldl
      (fun d t => d.event t (d.sevBit id t)) d)
  | _ => .ok d

/-- SEV. -/
def execSev (id : Tid) (s : State) : Host.Outcome State Fault Refusal := s.run (fun d => d.issue id 0xC1 semSev)

/-! ## Channels (R187 to R190, R247, R248) -/

/-- The channel an n operand names. -/
def chanNo (e : Ev1) : Nat := e.val % 256

/-- CHSEND and CHSENDT. -/
def Dev.issueSend (d : Dev) (id : Tid) (opc : Nat) (try_ : Bool) : Dev :=
  d.issueWith id opc (fun d i => d.withOps id i [] 0 i.op (fun d evs b =>
    match evs with
    | [e] =>
      let c := chanNo e
      if !d.maySend id c then d.finishCode id i b Code.notOwner false
      else if (d.chan id.g c).length < 4 then
        (d.finishCode id i b Code.ok false).chanPush id.g c (d.staged64 id)
      else if try_ then
        (d.updThr id (fun t => { t with chtx := some c })).finishCode id i b Code.failEmpty true
      else (d.startWait id ⟨.chsend, .imm 0, .imm 0, 0, 0, c, d.nextPc id i, d.drip.now, b⟩).setSenders id.g c
        (d.senders id.g c ++ [id])
    | _ => d))

/-- CHRECV and CHRECVT. -/
def Dev.issueRecv (d : Dev) (id : Tid) (opc : Nat) (try_ : Bool) : Dev :=
  d.issueWith id opc (fun d i => d.withOps id i [] 0 i.op (fun d evs b =>
    match evs with
    | [e, e2, n] =>
      let c := chanNo n
      if d.chanRx id.g c ≠ some id then d.finishCode id i b Code.notOwner false
      else match d.chan id.g c with
        | m :: _ => ((d.recvInto id e.loc e2.loc m).finishCode id i b Code.ok false).chanPop id.g c
        | [] =>
          if try_ then d.finishCode id i b Code.failEmpty true
          else d.startWait id ⟨.chrecv, e.loc, e2.loc, 0, 0, c, d.nextPc id i, d.drip.now, b⟩
    | _ => d))

/-- CHSEND. -/
def execChsend (id : Tid) (s : State) : Host.Outcome State Fault Refusal := s.run (fun d => d.issueSend id 0xC8 false)
/-- CHSENDT. -/
def execChsendt (id : Tid) (s : State) : Host.Outcome State Fault Refusal := s.run (fun d => d.issueSend id 0xC9 true)
/-- CHRECV. -/
def execChrecv (id : Tid) (s : State) : Host.Outcome State Fault Refusal := s.run (fun d => d.issueRecv id 0xCA false)
/-- CHRECVT. -/
def execChrecvt (id : Tid) (s : State) : Host.Outcome State Fault Refusal := s.run (fun d => d.issueRecv id 0xCB true)

/-! ## TEND (R243) -/

/-- A tag of the thread is outstanding. -/
def Thread.outstanding (t : Thread) : Bool := t.tags.any (fun e => e.2 = .outstanding)

/-- Steps 2 and 3 of TEND, and the end of the task; a thread that the debugger steps halts again (R517). -/
def Dev.taskEnd (d : Dev) (id : Tid) : Dev :=
  let tag := ownerTag id
  let t := d.thr id
  let d := match t.desc with
    | some p => match p.seq, t.spent with
      | some s, false => (d.releaseEmpty p.domain s).incident 14 Code.orphaned tag p.domain (seq24 s)
      | _, _ => d
    | none => d
  let cs := d.cellsOf tag
  let d := (d.freeList cs).bumpBy R.lardRetireFreed cs.length
  let d := d.setThr id { d.thr id with
    state := if t.stepping || t.haltReq then .halted else .idle, desc := none, spent := false, tags := [], wait := Wait.idle, running := false, stepping := false,
    haltReq := false }
  match t.desc with
  | some p => d.freeStep.traceRec 5 id.g p.task tag p.prio (d.freeVal % 2 ^ 32)
  | none => d

/-- TEND: it waits while a tag is outstanding. -/
def Dev.issueTend (d : Dev) (id : Tid) : Dev :=
  d.issueWith id 0x86 (fun d i =>
    let d := d.unstill id
    if (d.thr id).outstanding then
      d.startWait id ⟨.tend, .imm 0, .imm 0, 0, 0, 0, d.nextPc id i, d.drip.now, (d.thr id).b⟩
    else d.taskEnd id)

/-- TEND. -/
def execTend (id : Tid) (s : State) : Host.Outcome State Fault Refusal := s.run (fun d => d.issueTend id)

/-! ## Thread control (R198, R200, R259) -/

/-- TCTL with one of the ops `ops`: PRIVILEGE comes before the operands (R226). -/
def Dev.issueTctl (d : Dev) (id : Tid) (mine : Nat → Bool) : Dev :=
  d.issueWith id 0xE6 (fun d i =>
    if !d.isKeeper id then (d.unstill id).faultPark id ⟨8, Code.notOwner, 0xE6, 0, 0⟩
    else d.withOps id i [] 0 i.op (fun d evs b =>
      match evs with
      | [e] =>
        let v := e.val
        let op := bits v 7 6
        if !mine op then d
        else match d.tidAt id.g (bits v 2 0) (bits v 5 3) with
          | none => d.finishCode id i b Code.reserved false
          | some t =>
            if 2 ≤ op || bits v 15 8 ≠ 0 || t = id then d.finishCode id i b Code.reserved false
            else
              let (code, d') := d.thrControl t op
              d'.finishCode id i b code false
      | _ => d))

/-- A write of GALL_THR_CTL of gallery `g` by the head keeper or the host (R198): its outcome stands in that master's
GALL_THR_CTL_STAT. -/
def Dev.thrCtlWrite (d : Dev) (m g v : Nat) : Dev :=
  let o := 0x40000 * g
  d.doorbell m (R.gallThrCtl + o) [2, 3] 8 v (fun d =>
    let op := bits v 7 6
    let (code, d) := match d.tidAt g (bits v 2 0) (bits v 5 3) with
      | some t => if 2 ≤ op then (Code.reserved, d) else d.thrControl t op
      | none => (Code.reserved, d)
    d.setPer m (R.gallThrCtlStat + o) code)

/-- KILL: a keeper's TCTL, or a master's GALL_THR_CTL write of `val` in `gallery` (R198). A TCTL with a reserved op is
taken here too. -/
def execThrKill (who : Who) (gallery val : Nat) (s : State) : Host.Outcome State Fault Refusal :=
  s.run (fun d => match who with
    | .thread id => d.issueTctl id (fun op => op ≠ 1)
    | .master m => if bits val 7 6 = 1 then d else d.thrCtlWrite m gallery val)

/-- UNPARK: a keeper's TCTL, or a master's GALL_THR_CTL write of `val` in `gallery` (R200). -/
def execThrUnpark (who : Who) (gallery val : Nat) (s : State) : Host.Outcome State Fault Refusal :=
  s.run (fun d => match who with
    | .thread id => d.issueTctl id (fun op => op = 1)
    | .master m => if bits val 7 6 = 1 then d.thrCtlWrite m gallery val else d)

/-! ## GALL_SEV (R184) -/

/-- A write of GALL_SEV: SEVX in every named thread. -/
def Dev.gallSev (d : Dev) (m g v : Nat) : Dev :=
  d.doorbell m (R.gallSev + 0x40000 * g) [] 12 v (fun d =>
    (d.sevTargets g (bits v 10 8) (bitOf v 11) (bits v 7 0)).foldl (fun d t => d.event t Ev.sevx) d)

/-- GALL_SEV_WRITE. -/
def execGallSevWrite (m gallery val : Nat) (s : State) : Host.Outcome State Fault Refusal :=
  s.run (fun d => d.gallSev m gallery val)

end Sys2Proof.Machine
end

