-- ==== Sys2Proof/Machine/HelpOps.lean ====
section
/-! DEFINITION. Helper commands (R282 to R292): the queues, pointers and the checks every unit makes, and how a unit takes
and finishes a command. -/

namespace Sys2Proof.Machine

/-! ## Jobs -/

/-- Command `n`, if it exists. -/
def Dev.job (d : Dev) (n : Nat) : Option Job := spFind d.help.jobs n

/-- Set command `n`. -/
def Dev.setJob (d : Dev) (n : Nat) (j : Job) : Dev := d.onHelp (fun h => { h with jobs := spPut h.jobs n j })

/-- The unit a block names (R283). -/
def Job.unit (j : Job) : Nat := leAt j.block 0 1 % 16

/-- Bits [3:0] of byte 16, where most units have their op. -/
def Job.op4 (j : Job) : Nat := leAt j.block 16 1 % 16

/-- A field of the block. -/
def Job.get (j : Job) (off n : Nat) : Nat := leAt j.block off n

/-- A reserved bit of the input header is set (R283). -/
def Job.headerBad (j : Job) : Bool := leAt j.block 0 1 / 16 ≠ 0 || leAt j.block 1 3 ≠ 0

/-- The thread that issued the command. -/
def Job.tid (j : Job) : Tid := (tidOfTag j.owner).getD ⟨0, 0, 0⟩

/-- The command is effectful (R282): SIGN and IMPORT of the seal pool, WRITE and INVALIDATE of the Lode, units 5 to 8. -/
def Job.effectful (j : Job) : Bool :=
  match j.unit with
  | 0 => j.op4 = 0 || j.op4 = 6
  | 4 => j.op4 = 2 || j.op4 = 3
  | u => 5 ≤ u && u ≤ 8

/-- A unit whose commands have a running context (R282). -/
def hasContext (unit : Nat) : Bool := unit = 1 || unit = 2 || unit = 3

/-- The in-flight limit of a unit for each core (R282); none for a reserved unit. -/
def unitLimit (unit : Nat) : Option Nat :=
  match unit with
  | 0 => some 16 | 1 => some 8 | 2 => some 16 | 3 => some 8 | 4 => some 16 | 5 => some 16 | 6 => some 8 | 7 => some 8
  | 8 => some 4 | _ => none

/-- The key of a core's helper queue. -/
def coreKey (id : Tid) : Nat := 9 * id.g + id.c

/-- A core's helper queue, in acceptance order. -/
def Dev.helpQ (d : Dev) (id : Tid) : List Nat := spGet [] d.help.queues (coreKey id)

/-- Set a core's helper queue. -/
def Dev.setHelpQ (d : Dev) (id : Tid) (l : List Nat) : Dev :=
  d.onHelp (fun h => { h with queues := spSet [] h.queues (coreKey id) l })

/-- Commands of a core accepted for a unit and not yet completed. -/
def Dev.inFlight (d : Dev) (id : Tid) (unit : Nat) : Nat :=
  (d.help.jobs.filter (fun e => e.2.unit = unit && e.2.phase ≠ .saved && coreKey e.2.tid = coreKey id)).length

/-- A core's queue has room for a command of a unit (R286). -/
def Dev.helpRoom (d : Dev) (id : Tid) (unit : Nat) : Bool :=
  (d.helpQ id).length < 32 && match unitLimit unit with
    | some k => d.inFlight id unit < k
    | none => true

/-- The block as the core keeps it, with the header filled (R283). -/
def fillHeader (block : Bytes) (gen owner tag attempt rgen : Nat) : Bytes :=
  patch block 4 (leBytes 4 gen ++ leBytes 2 (owner + tag * 2 ^ 12) ++ leBytes 1 attempt ++ [0] ++ leBytes 2 rgen ++ [0, 0])

/-- The generation a thread's commands carry (R283). -/
def Dev.helpGen (d : Dev) (id : Tid) : Nat :=
  match (d.thr id).desc with | some p => d.entryGen p | none => (d.group 14).genLive

/-- A thread's tag. -/
def Thread.tag (t : Thread) (n : Nat) : TagState := spGet .free t.tags n

/-- Set a thread's tag. -/
def Dev.setTag (d : Dev) (id : Tid) (n : Nat) (v : TagState) : Dev :=
  d.updThr id (fun t => { t with tags := spSet .free t.tags n v })

/-- Accept a block of a thread under a tag: it joins the core's queue. -/
def Dev.acceptJob (d : Dev) (id : Tid) (tag : Nat) (block : Bytes) : Dev :=
  let t := d.thr id
  let att := match t.desc with | some p => p.attempt % 256 | none => 0
  let gen := d.helpGen id
  let b := fillHeader (slice block 0 64) gen (ownerTag id) tag att t.rgen
  let j : Job := ⟨.thread id, b, gen, ownerTag id, tag, att, t.rgen, (t.desc.map Pkt.task).getD 0,
    (match t.desc with | some p => if p.seq.isSome then p.domain else 0 | none => 0), t.desc.bind Pkt.seq, .queued, 0, 0,
    0, [], false⟩
  let n := d.help.nextJob
  let d := (d.setJob n j).setHelpQ id (d.helpQ id ++ [n])
  (d.onHelp (fun h => { h with nextJob := n + 1 })).setTag id tag .outstanding

/-- The command is the first of its core's queue for its unit, so that the unit may take it (R286). -/
def Dev.mayTakeJob (d : Dev) (n : Nat) (j : Job) : Bool :=
  ((d.helpQ j.tid).find? (fun k => match d.job k with | some x => x.unit = j.unit | none => false)) = some n

/-- The command leaves its core's queue. -/
def Dev.unqueue (d : Dev) (n : Nat) (j : Job) : Dev := d.setHelpQ j.tid ((d.helpQ j.tid).erase n)

/-- The unit has finished the command: HELPER_COMPLETION delivers its code. -/
def Dev.finishJob (d : Dev) (n code result : Nat) : Dev :=
  match d.job n with
  | some j => d.setJob n { j with phase := .completed, code := code, result := result }
  | none => d

/-- What a unit answers for a command: its code, the result word of the orphan log, and the device after it. -/
structure UnitAns where
  code : Nat
  result : Nat
  dev : Dev
  deriving DecidableEq, Repr

/-- A unit takes a command whose block satisfies `mine`, and completes it. -/
def Dev.takeJob (d : Dev) (n unit : Nat) (mine : Job → Bool) (f : Dev → Job → UnitAns) : Dev :=
  match d.job n with
  | some j =>
    if !d.serving || j.phase ≠ .queued || j.unit ≠ unit || !mine j || !d.mayTakeJob n j then d
    else
      let a := f (d.unqueue n j) j
      a.dev.finishJob n a.code a.result
  | none => d

/-- A unit takes a command that its arbiter serves later: refused at once with `check`'s code and what `note` counts then, or
running. -/
def Dev.admitJob (d : Dev) (n unit : Nat) (mine : Job → Bool) (check : Dev → Job → Nat) (note : Dev → Job → Nat → Dev)
    (f : Dev → Nat → Job → Dev) : Dev :=
  match d.job n with
  | some j =>
    if !d.serving || j.phase ≠ .queued || j.unit ≠ unit || !mine j || !d.mayTakeJob n j then d
    else
      let d := d.unqueue n j
      let c := check d j
      if c ≠ Code.ok then (note d j c).finishJob n c 0 else f (d.setJob n { j with phase := .running }) n j
  | none => d

/-! ## Pointers (R284, R285) -/

/-- A pointer: its space, place and offset, and whether a bit that its space does not use is set. -/
structure Ptr where
  space : Nat
  place : Nat
  off : Nat
  bad : Bool
  deriving DecidableEq, Repr

/-- Read a pointer. -/
def ptrOf (p : Nat) : Ptr :=
  match bits p 63 62 with
  | 0 => ⟨0, bits p 31 0, 0, bits p 61 32 ≠ 0⟩
  | 1 => ⟨1, bits p 25 0, 0, bits p 61 26 ≠ 0⟩
  | 2 => ⟨2, bits p 31 0, bits p 47 32, bits p 61 48 ≠ 0⟩
  | _ => ⟨3, 0, 0, true⟩

/-- The pointer at a place of a block. -/
def Job.ptr (j : Job) (off : Nat) : Ptr := ptrOf (leAt j.block off 8)

/-- The pointer is no reserved one, and its `n` bytes lie wholly in its space; of no bytes the place does not matter
(R13). -/
def Ptr.inSpace (p : Ptr) (n : Nat) : Bool :=
  !p.bad && if n = 0 then p.space < 3 else match p.space with
    | 0 => 0x10000 ≤ p.place && p.place + n ≤ 0x20000
    | 1 => p.place + n ≤ 2 ^ 26
    | 2 => match chainOf p.place with | some c => p.off + n ≤ 128 * c.count | none => false
    | _ => false

/-- The bytes lie outside the helper operand region. -/
def Dev.ptrForeign (d : Dev) (p : Ptr) (n : Nat) : Bool :=
  n ≠ 0 && p.space = 1 && !(d.help.opBase ≤ p.place && p.place + n ≤ d.help.opBase + d.help.opSize)

/-- The cells of a chain pointer. -/
def Dev.ptrCells (d : Dev) (p : Ptr) : List Nat := match chainOf p.place with | some c => d.chainCells c | none => []

/-- A chain pointer names cells that its issuer does not hold. -/
def Dev.ptrNotHeld (d : Dev) (owner : Nat) (p : Ptr) : Bool :=
  p.space = 2 && match chainOf p.place with
    | some c => (d.chainCells c).length ≠ c.count || !d.allOwned owner (d.chainCells c)
    | none => true

/-- Every cell of a chain is HELD by `tag`: a walk that fails is none such. -/
def Dev.chainOwned (d : Dev) (tag : Nat) (c : Chain) : Bool :=
  (d.chainCells c).length = c.count && d.allOwned tag (d.chainCells c)

/-- The checks of R285 in the order of R12, for the pointers named with their lengths; `bad` gathers the reserved fields of the
unit's own chapter, unless that chapter checks them after R285. -/
def Dev.cmdCheck (d : Dev) (j : Job) (ptrs : List (Ptr × Nat)) (bad : Bool) : Nat :=
  if ptrs.any (fun x => d.ptrForeign x.1 x.2) then Code.notOwner
  else if j.headerBad || ptrs.any (fun x => !x.1.inSpace x.2) || bad then Code.reserved
  else if ptrs.any (fun x => x.2 ≠ 0 && d.ptrNotHeld j.owner x.1) then Code.notHolder
  else Code.ok

/-- The bytes a pointer names. -/
def Dev.ptrBytes (d : Dev) (j : Job) (p : Ptr) (n : Nat) : Bytes :=
  match p.space with
  | 0 => d.localBytes j.tid p.place n
  | 1 => d.memBytes false p.place n
  | _ => match chainOf p.place with | some c => d.chainBytes c p.off n | none => []

/-- The cells that `n` bytes at a chain pointer touch. -/
def Dev.ptrTouched (d : Dev) (p : Ptr) (n : Nat) : List Nat :=
  if n = 0 then []
  else (List.range ((p.off + n - 1) / 128 - p.off / 128 + 1)).map (fun k => (d.ptrCells p).getD (p.off / 128 + k) 0xFFFFF)

/-- The bytes a pointer names are poisoned (R469, R470). -/
def Dev.ptrPoisoned (d : Dev) (p : Ptr) (n : Nat) : Bool :=
  match p.space with
  | 1 => d.memPoisoned false p.place n
  | 2 => (d.ptrTouched p n).any d.cellPoisoned
  | _ => false

/-- The reads of poisoned cells through pointers are counted (R470). -/
def Dev.countPtrs (d : Dev) (l : List (Ptr × Nat)) : Dev :=
  l.foldl (fun d x => if x.1.space = 2 then d.countCells (d.ptrTouched x.1 x.2) else d) d

/-- The bytes a command's results leave: of a pure command of a squashed thread they are open (R198, R289). -/
def Dev.landed (d : Dev) (j : Job) (bs : Bytes) : Bytes :=
  if j.squashed && !j.effectful then (List.range bs.length).map (fun i => Config.freeByte d.free i) else bs

/-- Write bytes where a pointer names. -/
def Dev.ptrWrite (d : Dev) (j : Job) (p : Ptr) (bs : Bytes) : Dev :=
  let bs := d.landed j bs
  let d := d.freeStep
  match p.space with
  | 0 => d.setLocalBytes j.tid p.place bs
  | 1 => d.masterMem false p.place bs
  | _ => match chainOf p.place with | some c => d.chainWrite c p.off bs | none => d

/-- The code POISONED of a command that reads poisoned data, counted for Larder cells (R407, R469, R470). -/
def Dev.poisonAns (d : Dev) (ptrs : List (Ptr × Nat)) : Option UnitAns :=
  if ptrs.any (fun x => d.ptrPoisoned x.1 x.2) then some ⟨Code.poisoned, 0, d.countPtrs ptrs⟩ else none

/-! ## Completion (R288 to R291) -/

/-- The issuing thread is live (R288). -/
def Dev.jobLive (d : Dev) (j : Job) : Bool :=
  let t := d.thr j.tid
  !j.squashed && t.state ≠ .parked && t.rgen = j.rgen && (d.logicalOf j.tid.g j.tid.c).isSome
    && (match t.desc with | some p => p.attempt % 256 | none => 0) = j.attempt

/-- The bytes of an orphan-log entry (R291). -/
def Dev.orphanBytes (d : Dev) (j : Job) : Bytes :=
  leBytes 1 (1 + j.unit * 2 ^ 4) ++ leBytes 1 j.code ++ leBytes 2 (j.owner + j.tag * 2 ^ 12) ++ leBytes 1 j.attempt ++ [0]
    ++ leBytes 2 j.rgen ++ leBytes 2 j.task ++ leBytes 2 j.domain ++ leBytes 4 (seqWord j.seq) ++ leBytes 8 (d.drip.now % 2 ^ 56)
    ++ leBytes 8 j.result

/-- The orphan table of the LIVE bank (R291). -/
def Dev.orphanTable (d : Dev) : Nat := d.liveFld R.dispCfg 19 12

/-- An entry of a gallery's orphan log is written and not consumed, or awaits its boundary. -/
def Dev.orphanBusy (d : Dev) (e : Nat) : Bool :=
  d.disp.orphWait.any (fun x => x.2.1 = e) || bitOf (d.entByte (d.group 14).genLive d.orphanTable e 0).toNat 0

/-- An effectful completion without a live thread (R290, R291). -/
def Dev.orphanLog (d : Dev) (j : Job) : Dev :=
  let g := j.tid.g
  let p := spGet 0 d.disp.orphNext g
  let e := 256 * g + p
  if d.orphanBusy e then
    (d.dispCount 5).incident 12 Code.orphaned j.owner (j.unit + j.tag * 2 ^ 4 + j.attempt * 2 ^ 8) j.result
  else
    let b := d.orphanBytes j
    (d.dispCount 4).onDisp (fun s => { s with
      orphNext := spSet 0 s.orphNext g ((p + 1) % 256), orphWait := s.orphWait ++ [(g, e, b)] })

/-- The entries of the drip become visible, and their keepers receive ORPHAN (R290, R291). -/
def Dev.orphanVisible (d : Dev) : Dev :=
  let l := d.disp.orphWait
  l.foldl (fun d x => (d.setEntBytes (d.group 14).genLive d.orphanTable x.2.1 0 x.2.2).keeperEvent x.1 Ev.orphan)
    (d.onDisp (fun s => { s with orphWait := [] }))

/-- The tag of a live thread is DONE: HELP, and a thread that waits for it, or for its last tag in TEND, goes on
(R288, R256, R243). -/
def Dev.tagDone (d : Dev) (id : Tid) (tag code : Nat) : Dev :=
  let d := (d.setTag id tag (.done code)).event id Ev.help
  let t := d.thr id
  if t.state = .waiting && t.wait.kind = .hwait && t.wait.what = tag then
    ((d.setTag id tag .free).setCode id code false).endWait id
  else if t.state = .waiting && t.wait.kind = .tend && !t.outstanding then d.taskEnd id
  else d

/-- The end of a command: its thread is told, or it is dropped or logged. -/
def Dev.deliverJob (d : Dev) (n : Nat) (j : Job) : Dev :=
  let d := d.onHelp (fun h => { h with jobs := spErase h.jobs n })
  if d.jobLive j then d.tagDone j.tid j.tag j.code
  else if j.effectful then d.orphanLog j
  else d.dispCount 3

end Sys2Proof.Machine
end

