-- ==== Sys2Proof/Machine/Helpers.lean ====
section
/-! DEFINITION. The helper rows (R254 to R257, R286 to R288, R292), the commands of the dispatcher (R301, R302) and of the
atomic unit (R278 to R281). -/

namespace Sys2Proof.Machine

/-- A tag in a state its instruction forbids raises HELPER (R225, R254). -/
def Dev.helperFault (d : Dev) (id : Tid) (opcode : Nat) : Dev := d.faultPark id ⟨7, Code.notHolder, opcode, 0, 0⟩

/-- `n` bytes of a value, least significant first. -/
def valBytes (n v : Nat) : Bytes := leBytes n v

/-! ## HCMD -/

/-- The retry of a core that is accepted next: the oldest for whose unit there is room (R286). -/
def Dev.nextRetry (d : Dev) (id : Tid) : Option Retry :=
  d.help.retries.find? (fun r => coreKey r.id = coreKey id && d.helpRoom r.id (leAt r.block 0 1 % 16))

/-- HCMD (R255): accepted at once, or it retries; it does not pass a retry of its core that there is room for (R286). -/
def Dev.issueHcmd (d : Dev) (id : Tid) : Dev :=
  d.issueWith id 0xE0 (fun d i => d.withOps id i [] 0 i.op (fun d evs b =>
    match evs with
    | [s, n] =>
      let block := valBytes 64 s.val
      if 15 < n.val || (d.thr id).tag n.val ≠ .free then d.helperFault id i.op
      else if d.helpRoom id (s.val % 16) && (d.nextRetry id).isNone then (d.finishCode id i b Code.ok false).acceptJob id n.val block
      else (d.startWait id ⟨.hcmd, .imm 0, .imm 0, 0, 0, n.val, d.nextPc id i, d.drip.now, b⟩).onHelp
        (fun h => { h with retries := h.retries ++ [⟨id, n.val, block, d.drip.now⟩] })
    | _ => d))

/-- HCMD (R255). -/
def execHcmd (id : Tid) (s : State) : Host.Outcome State Fault Refusal := s.run (fun d => d.issueHcmd id)

/-- A retrying HCMD ends with a code. -/
def Dev.endRetry (d : Dev) (id : Tid) (code : Nat) : Dev :=
  ((d.onHelp (fun h => { h with retries := h.retries.filter (fun r => r.id ≠ id) })).setCode id code false).endWait id

/-- HCMD_ACCEPT (R286). -/
def Dev.hcmdAccept (d : Dev) (id : Tid) : Dev :=
  match d.nextRetry id with
  | some r => if r.id = id then (d.endRetry id Code.ok).acceptJob id r.tag r.block else d
  | none => d

/-- HCMD_ACCEPT (R286). -/
def execHcmdAccept (id : Tid) (s : State) : Host.Outcome State Fault Refusal := s.run (fun d => d.hcmdAccept id)

/-- HCMD_RETRY_LIMIT (R287), counted in drips. -/
def Dev.hcmdLimit (d : Dev) (id : Tid) : Dev :=
  match d.help.retries.find? (fun r => r.id = id) with
  | some r =>
    if r.since + d.liveFld R.dispCfg 3 0 ≤ d.drip.now then (d.endRetry id Code.busyRetry).dispCount 2 else d
  | none => d

/-- HCMD_RETRY_LIMIT (R287). -/
def execHcmdRetryLimit (id : Tid) (s : State) : Host.Outcome State Fault Refusal := s.run (fun d => d.hcmdLimit id)

/-! ## HWAIT, HSAVE, HRESTORE -/

/-- HWAIT (R256). -/
def Dev.issueHwait (d : Dev) (id : Tid) : Dev :=
  d.issueWith id 0xE1 (fun d i => d.withOps id i [] 0 i.op (fun d evs b =>
    match evs with
    | [n] =>
      if 15 < n.val then d.helperFault id i.op
      else match (d.thr id).tag n.val with
        | .free => d.helperFault id i.op
        | .outstanding => d.startWait id ⟨.hwait, .imm 0, .imm 0, 0, 0, n.val, d.nextPc id i, d.drip.now, b⟩
        | .done code => (d.finishCode id i b code false).setTag id n.val .free
    | _ => d))

/-- HWAIT (R256). -/
def execHwait (id : Tid) (s : State) : Host.Outcome State Fault Refusal := s.run (fun d => d.issueHwait id)

/-- The command under a tag of a thread. -/
def Dev.jobOfTag (d : Dev) (id : Tid) (tag : Nat) : Option (Nat × Job) :=
  d.help.jobs.find? (fun e => e.2.owner = ownerTag id && e.2.tag = tag && !e.2.squashed && e.2.phase ≠ .saved)

/-- The 256 bytes of a context (R292): the command, its unit's state, its serial number and tag; what R292 does not lay
out is open. -/
def contextBytes (j : Job) (serial n : Nat) : Bytes :=
  slice j.block 0 64 ++ (List.range 168).map (fun i => Config.freeByte n i) ++ leBytes 8 serial
    ++ (List.range 16).map (fun i => Config.freeByte n (168 + i))

/-- Write the bytes of an area operand. -/
def Dev.putArea (d : Dev) (id : Tid) (l : Loc) (bs : Bytes) : Dev :=
  match l with
  | .mem a => d.setLocalBytes id a bs
  | .table t idx off => d.setEntBytes (d.thrGen id) t idx off bs
  | _ => d

/-- The contexts a gallery holds, oldest first. -/
def Dev.savedOf (d : Dev) (g : Nat) : List Nat := (d.help.saved.filter (fun e => e.2.gallery = g)).map Prod.fst

/-- A gallery keeps its 256 most recent contexts (R292). -/
def Dev.evictContext (d : Dev) (g : Nat) : Dev :=
  match d.savedOf g with
  | k :: rest => if 256 ≤ rest.length then (d.onHelp (fun h => { h with saved := spErase h.saved k })).dispCount 7 else d
  | [] => d

/-- Save a command's context at a place and suspend it. -/
def Dev.saveContext (d : Dev) (id : Tid) (l : Loc) (n : Nat) (j : Job) : Dev :=
  let serial := d.help.nextSerial
  let bs := contextBytes j serial d.free
  let d := ((d.freeStep.putArea id l bs).unqueue n j).onHelp (fun h => { h with
    jobs := spErase h.jobs n, nextSerial := serial + 1,
    saved := spPut h.saved serial ⟨id.g, bs, { j with phase := .saved }⟩ })
  d.evictContext id.g

/-- HSAVE (R257). -/
def Dev.issueHsave (d : Dev) (id : Tid) : Dev :=
  d.issueWith id 0xE2 (fun d i => d.withOps id i [] 0 i.op (fun d evs b =>
    match evs with
    | [e, n] =>
      if 15 < n.val || (d.thr id).tag n.val = .free then d.helperFault id i.op
      else match d.jobOfTag id n.val with
        | some (k, j) =>
          if hasContext j.unit && (j.phase = .queued || j.phase = .running) then
            ((d.finishCode id i b Code.ok false).saveContext id e.loc k j).setTag id n.val .free
          else d.finishCode id i b Code.reserved false
        | none => d.finishCode id i b Code.reserved false
    | _ => d))

/-- HSAVE (R257, R292). -/
def execHsave (id : Tid) (s : State) : Host.Outcome State Fault Refusal := s.run (fun d => d.issueHsave id)

/-- A saved command goes on under a tag of the restoring thread (R292). -/
def Dev.resumeContext (d : Dev) (id : Tid) (tag serial : Nat) (c : Saved) : Dev :=
  let t := d.thr id
  let att := match t.desc with | some p => p.attempt % 256 | none => 0
  let j := { c.job with
    issuer := .thread id, block := fillHeader c.job.block c.job.gen (ownerTag id) tag att t.rgen, owner := ownerTag id,
    tag := tag, attempt := att, rgen := t.rgen, phase := .queued, squashed := false }
  let n := d.help.nextJob
  let d := (d.setJob n j).setHelpQ id (d.helpQ id ++ [n])
  (d.onHelp (fun h => { h with nextJob := n + 1, saved := spErase h.saved serial })).setTag id tag .outstanding

/-- HRESTORE (R257, R292). -/
def Dev.issueHrestore (d : Dev) (id : Tid) : Dev :=
  d.issueWith id 0xE3 (fun d i => d.withOps id i [] 0 i.op (fun d evs b =>
    match evs with
    | [s, n] =>
      let bs := valBytes 256 s.val
      if 15 < n.val || (d.thr id).tag n.val ≠ .free then d.helperFault id i.op
      else match d.help.saved.find? (fun e => e.2.gallery = id.g && e.2.data == bs) with
        | some (k, c) => (d.finishCode id i b Code.ok false).resumeContext id n.val k c
        | none => d.finishCode id i b Code.reserved false
    | _ => d))

/-- HRESTORE (R257, R292). -/
def execHrestore (id : Tid) (s : State) : Host.Outcome State Fault Refusal := s.run (fun d => d.issueHrestore id)

/-! ## HELPER_COMPLETION -/

/-- A command no row serves: a reserved unit, which completes with RESERVED_VALUE, or the checksum units, whose body the
manual does not give (its code is open). -/
def Dev.orphanUnit (d : Dev) (n : Nat) (j : Job) : Dev :=
  if j.phase ≠ .queued || !d.serving || !d.mayTakeJob n j then d
  else if 9 ≤ j.unit || (j.unit = 3 && j.headerBad) then (d.unqueue n j).deliverJob n { j with code := Code.reserved }
  else if j.unit = 3 then (d.unqueue n j).freeStep.deliverJob n { j with code := d.freeVal % 16 }
  else d

/-- HELPER_COMPLETION (R288). -/
def Dev.helperCompletion (d : Dev) (n : Nat) : Dev :=
  match d.job n with
  | some j => if j.phase = .completed then d.deliverJob n j else d.orphanUnit n j
  | none => d

/-- HELPER_COMPLETION (R288 to R291). -/
def execHelperCompletion (job : Nat) (s : State) : Host.Outcome State Fault Refusal :=
  s.run (fun d => d.helperCompletion job)

/-! ## The dispatcher's commands (R301, R302) -/

/-- REQUEUE; a command with a reserved op is taken here too. -/
def Dev.requeueCmd (d : Dev) (j : Job) : UnitAns :=
  let k := j.tid
  let no (c : Nat) : UnitAns := ⟨c, 0, d⟩
  if !d.isKeeper k then no Code.notOwner
  else if j.headerBad || j.get 16 1 ≠ 0 then no Code.reserved
  else match d.tidAt k.g (bits (j.get 17 1) 2 0) (bits (j.get 17 1) 5 3) with
    | none => no Code.reserved
    | some id =>
      let t := d.thr id
      match t.desc with
      | none => no Code.reserved
      | some p =>
        if t.state ≠ .parked then no Code.reserved
        else if !d.chainOwned (ownerTag k) p.chain then no Code.notHolder
        else if 4096 ≤ d.queuedIn k.g then no Code.failEmpty
        else
          let o := j.get 18 1
          let q := { p with
            attempt := (p.attempt + 1) % 256, requeued := true, prio := if bitOf o 4 then bits o 3 0 else p.prio }
          let d := (d.updThr id (fun t => { t with desc := none })).dispCount 6
          let d := d.traceRec 1 k.g q.task (ownerTag id) q.prio 0
          ⟨Code.ok, 0, if d.mode = Mode.limp then d.limpPassage q else d.placeEntry k.g q true⟩

/-- SUBMIT. -/
def Dev.submitCmd (d : Dev) (j : Job) : UnitAns :=
  let k := j.tid
  let no (c : Nat) : UnitAns := ⟨c, 0, d⟩
  let slot := bits (j.get 17 1) 5 0
  let task := j.get 18 2
  let mask := d.taskMask j.gen task
  if !d.isKeeper k then no Code.notOwner
  else if j.headerBad || mask = 0 || 4095 < j.get 24 2 then no Code.reserved
  else match d.pendingAt k.g slot with
    | none => no Code.reserved
    | some q =>
      if !d.chainOwned (ownerTag k) q.chain then no Code.notHolder
      else match d.chooseGallery mask with
        | none => no Code.failEmpty
        | some g =>
          let p := { q with
            task := task, taskArg := j.get 20 2, egress := j.get 24 2, prio := bits (j.get 26 1) 3 0, attempt := 0,
            requeued := false }
          let d := (d.freePending k.g slot).traceRec 6 g task (ownerTag k) p.prio 0
          ⟨Code.ok, 0, if d.mode = Mode.limp then d.limpPassage p
            else (d.onDisp (fun s => { s with lastGal := g })).placeEntry g p false⟩

/-- REQUEUE (R301). -/
def execDispRequeue (job : Nat) (s : State) : Host.Outcome State Fault Refusal :=
  s.run (fun d => d.takeJob job 8 (fun j => j.get 16 1 ≠ 1) Dev.requeueCmd)

/-- SUBMIT (R301). -/
def execDispSubmit (job : Nat) (s : State) : Host.Outcome State Fault Refusal :=
  s.run (fun d => d.takeJob job 8 (fun j => j.get 16 1 = 1) Dev.submitCmd)

/-! ## The atomic unit -/

/-- The result of an operation on `x` with operands `a` and `b` of `w` bits: the target after it, and whether it was
written (R279). -/
def atomOp (op w x a b : Nat) : Nat × Bool :=
  match op with
  | 0 => ((x + a) % 2 ^ w, true)
  | 1 => (x &&& a, true)
  | 2 => (x ||| a, true)
  | 3 => (x ^^^ a, true)
  | 4 => if x = a then (b, true) else (x, false)
  | _ => if x + b ≤ a then (x + b, true) else (x, false)

/-- The result area of an atomic operation (R279). -/
def atomResult (x : Nat) (written : Bool) : Bytes :=
  leBytes 16 x ++ leBytes 4 (b2n written) ++ List.replicate 12 0

/-- A refused atomic command. -/
def Dev.atomNo (d : Dev) (code : Nat) : UnitAns := ⟨code, 0, d.bump (R.ltchCnt + 4 * 11)⟩

/-- An atomic command (R278 to R281). -/
def Dev.atomCmd (d : Dev) (j : Job) : UnitAns :=
  let d := d.bump (R.ltchCnt + 4 * 10)
  let c := j.get 16 1
  let op := bits c 3 0
  let wc := bits c 6 4
  let n := 4 * 2 ^ wc
  let t := j.get 17 1
  let off := j.get 18 2
  let idx := j.get 20 4
  let res := j.get 24 4
  let ent := d.tabEnt j.gen t
  let a := j.get 32 16
  let b := j.get 48 16
  if d.tabDefined j.gen t && ent.kind = .config then d.atomNo Code.notOwner
  else if j.headerBad || bitOf c 7 || 5 < op || 2 < wc || (wc = 2 && op ≠ 4) || j.get 28 4 ≠ 0
    || a / 2 ^ (8 * n) ≠ 0 || b / 2 ^ (8 * n) ≠ 0 || !d.entOk j.gen t idx off n || off % n ≠ 0
    || res < 0x10000 || 0x20000 < res + 32 then d.atomNo Code.reserved
  else if d.memPoisoned ent.dram (ent.place idx off) n then
    ⟨Code.poisoned, 0, d.countRead ent.dram (ent.place idx off) n⟩
  else
    let x := leNat (d.entBytes j.gen t idx off n)
    let (y, w) := atomOp op (8 * n) x a b
    let d := if w then d.setEntBytes j.gen t idx off (leBytes n y) else d
    ⟨Code.ok, x % 2 ^ 64, d.setLocalBytes j.tid res (atomResult x w)⟩

/-- FADD (R279); a command with a reserved op is taken here too. -/
def execFAdd (job : Nat) (s : State) : Host.Outcome State Fault Refusal :=
  s.run (fun d => d.takeJob job 5 (fun j => j.op4 = 0 || 6 ≤ j.op4) Dev.atomCmd)

/-- FAND (R279). -/
def execFAnd (job : Nat) (s : State) : Host.Outcome State Fault Refusal :=
  s.run (fun d => d.takeJob job 5 (fun j => j.op4 = 1) Dev.atomCmd)

/-- FOR (R279). -/
def execFOr (job : Nat) (s : State) : Host.Outcome State Fault Refusal :=
  s.run (fun d => d.takeJob job 5 (fun j => j.op4 = 2) Dev.atomCmd)

/-- FXOR (R279). -/
def execFXor (job : Nat) (s : State) : Host.Outcome State Fault Refusal :=
  s.run (fun d => d.takeJob job 5 (fun j => j.op4 = 3) Dev.atomCmd)

/-- CAS (R279). -/
def execCas (job : Nat) (s : State) : Host.Outcome State Fault Refusal :=
  s.run (fun d => d.takeJob job 5 (fun j => j.op4 = 4) Dev.atomCmd)

/-- BINC (R279). -/
def execBinc (job : Nat) (s : State) : Host.Outcome State Fault Refusal :=
  s.run (fun d => d.takeJob job 5 (fun j => j.op4 = 5) Dev.atomCmd)

end Sys2Proof.Machine
end

