-- ==== Sys2Proof/Machine/Aead.lean ====
section
/-! DEFINITION. The AEADs the manual names by their standards: AES-256-GCM (FIPS 197 and SP 800-38D, for TLS, wrapped keys and
GCM-AES-XPN-256) and ChaCha20-Poly1305 (RFC 8439). PRESUMED: their text is not in the manual (assumption 7). -/

namespace Sys2Proof.Machine

/-! ## AES-256 -/

/-- The S-box, 32 entries to a number, entry 0 in the lowest byte. -/
def aesSbox : List Nat :=
  [0xC072A49CAFA2D4ADF04759FA7DC982CA76ABD7FE2B670130C56F6BF27B777C63,
    0x75B227EBE28012079A059618C323C7041531D871F1E5A534CCF73F362693FDB7,
    0xCF584C4A39BECB6A5BB1FC20ED00D153842FE329B3D63B52A05A6E1B1A2C8309,
    0xD2F3FF1021DAB6BCF5389D928F40A351A89F3C507F02F94585334D43FBAAEFD0,
    0xDB0B5EDE14B8EE4688902A22DC4F816073195D643D7EA7C41744975FEC130CCD,
    0x08AE7A65EAF4566CA94ED58D6D37C8E779E4959162ACD3C25C2406490A3A32E0,
    0x9E1DC186B95735610EF6034866B53E708A8BBD4B1F74DDE8C6B4A61C2E2578BA,
    0x16BB54B00F2D99416842E6BF0D89A18CDF2855CEE9871E9B948ED9691198F8E1]

/-- The S-box of one byte. -/
def subByte (a : Byte) : Byte := BitVec.ofNat 8 (aesSbox.getD (a.toNat / 32) 0 / 2 ^ (8 * (a.toNat % 32)))

/-- Multiplication by x in the field of AES. -/
def xtime (a : Byte) : Byte := (a <<< 1) ^^^ (if a.msb then 0x1B else 0)

/-- Two byte strings added bit by bit. -/
def xorBytes (a b : Bytes) : Bytes := List.zipWith (· ^^^ ·) a b

/-- The words of an AES-256 key schedule, newest first, `n` words to go. -/
def aesSchedule : Nat → Byte → List Bytes → List Bytes
  | 0, _, ws => ws
  | n + 1, rc, ws =>
    let i := ws.length
    let t := ws.headD []
    let u := if i % 8 = 0 then xorBytes ((t.drop 1 ++ t.take 1).map subByte) [rc, 0, 0, 0]
      else if i % 8 = 4 then t.map subByte else t
    aesSchedule n (if i % 8 = 0 then xtime rc else rc) (xorBytes (ws.getD 7 []) u :: ws)

/-- The 15 round keys of a key of 32 bytes. -/
def aesKeys (key : Bytes) : List Bytes :=
  let ws := (aesSchedule 52 1 ((List.range 8).reverse.map (fun i => slice key (4 * i) 4))).reverse
  (List.range 15).map (fun r => ((ws.drop (4 * r)).take 4).flatten)

/-- SubBytes and ShiftRows. -/
def aesSubShift (s : Bytes) : Bytes := (List.range 16).map (fun i => subByte (s.getD ((i + 4 * (i % 4)) % 16) 0))

/-- MixColumns. -/
def aesMix (s : Bytes) : Bytes :=
  (List.range 16).map (fun i =>
    let a (k : Nat) : Byte := s.getD (i / 4 * 4 + (i + k) % 4) 0
    xtime (a 0) ^^^ xtime (a 1) ^^^ a 1 ^^^ a 2 ^^^ a 3)

/-- Encrypt a block under round keys. -/
def aesBlock (ks : List Bytes) (b : Bytes) : Bytes :=
  let s := ((ks.drop 1).take 13).foldl (fun s k => xorBytes (aesMix (aesSubShift s)) k) (xorBytes b (ks.getD 0 []))
  xorBytes (aesSubShift s) (ks.getD 14 [])

/-! ## GCM -/

/-- The product of two elements of GHASH's field, the first bit of a block being the highest. -/
def ghashMul (x y : Nat) : Nat :=
  ((List.range 128).foldl (fun (zv : Nat × Nat) i =>
    (if bitOf x (127 - i) then zv.1 ^^^ zv.2 else zv.1,
      if zv.2 % 2 = 1 then (zv.2 / 2) ^^^ (0xE1 * 2 ^ 120) else zv.2 / 2)) (0, y)).1

/-- The bytes of a string in blocks of `n`, the last one filled up with zeros. -/
def blocksOf (n : Nat) (bs : Bytes) : List Bytes :=
  (List.range ((bs.length + n - 1) / n)).map (fun i => slice bs (n * i) n)

/-- GHASH under the hash key `h`. -/
def ghash (h : Nat) (bs : Bytes) : Nat := (blocksOf 16 bs).foldl (fun y b => ghashMul (y ^^^ beNat b) h) 0

/-- The key stream of counters from `c` on, as long as `n` bytes. -/
def gcmStream (ks : List Bytes) (nonce : Bytes) (c n : Nat) : Bytes :=
  ((List.range ((n + 15) / 16)).flatMap (fun i => aesBlock ks (nonce ++ beBytes 4 (c + i)))).take n

/-- The tag of associated data and a ciphertext. -/
def gcmTag (ks : List Bytes) (nonce aad ct : Bytes) : Bytes :=
  let h := beNat (aesBlock ks (List.replicate 16 0))
  let y := ghash h ((blocksOf 16 aad).flatten ++ (blocksOf 16 ct).flatten ++ beBytes 8 (8 * aad.length) ++ beBytes 8 (8 * ct.length))
  xorBytes (beBytes 16 y) (aesBlock ks (nonce ++ beBytes 4 1))

/-! ## ChaCha20 and Poly1305 -/

/-- A quarter round on four words of the state. -/
def chachaQuarter (s : List Word) (i : Nat × Nat × Nat × Nat) : List Word :=
  let w (k : Nat) : Word := s.getD k 0
  let a := w i.1 + w i.2.1
  let d := (w i.2.2.2 ^^^ a).rotateLeft 16
  let c := w i.2.2.1 + d
  let b := (w i.2.1 ^^^ c).rotateLeft 12
  let a := a + b
  let d := (d ^^^ a).rotateLeft 8
  let c := c + d
  let b := (b ^^^ c).rotateLeft 7
  (((s.set i.1 a).set i.2.1 b).set i.2.2.1 c).set i.2.2.2 d

/-- The eight quarter rounds of a double round: columns, then diagonals. -/
def chachaRounds : List (Nat × Nat × Nat × Nat) :=
  [(0, 4, 8, 12), (1, 5, 9, 13), (2, 6, 10, 14), (3, 7, 11, 15), (0, 5, 10, 15), (1, 6, 11, 12), (2, 7, 8, 13), (3, 4, 9, 14)]

/-- The key stream block of a key, counter and nonce. -/
def chachaBlock (key nonce : Bytes) (c : Nat) : Bytes :=
  let ws (bs : Bytes) : List Word := (blocksOf 4 bs).map (fun b => w32 (leNat b))
  let s := [0x61707865, 0x3320646E, 0x79622D32, 0x6B206574] ++ ws (slice key 0 32) ++ [w32 c] ++ ws (slice nonce 0 12)
  let t := (List.range 10).foldl (fun s _ => chachaRounds.foldl chachaQuarter s) s
  (List.zipWith (· + ·) s t).flatMap (fun w => leBytes 4 w.toNat)

/-- The ChaCha20 key stream of counters from 1 on, as long as `n` bytes. -/
def chachaStream (key nonce : Bytes) (n : Nat) : Bytes :=
  ((List.range ((n + 63) / 64)).flatMap (fun i => chachaBlock key nonce (1 + i))).take n

/-- Poly1305 of a message whose blocks are whole, under a one-time key. -/
def poly1305 (key msg : Bytes) : Bytes :=
  let r := leAt key 0 16 &&& 0x0FFFFFFC0FFFFFFC0FFFFFFC0FFFFFFF
  let a := (blocksOf 16 msg).foldl (fun a b => (a + leNat b + 2 ^ 128) * r % (2 ^ 130 - 5)) 0
  leBytes 16 (a + leAt key 16 16)

/-- The tag of associated data and a ciphertext. -/
def chachaTag (key nonce aad ct : Bytes) : Bytes :=
  poly1305 (chachaBlock key nonce 0)
    ((blocksOf 16 aad).flatten ++ (blocksOf 16 ct).flatten ++ leBytes 8 aad.length ++ leBytes 8 ct.length)

/-! ## The two operations -/

/-- The bytes of data under an AEAD's key stream: encryption and decryption alike. Suite 1 is ChaCha20-Poly1305, the others
AES-256-GCM. -/
def aeadCrypt (suite : Nat) (key nonce bs : Bytes) : Bytes :=
  xorBytes bs (if suite = 1 then chachaStream key nonce bs.length else gcmStream (aesKeys key) nonce 2 bs.length)

/-- An AEAD's tag. -/
def aeadTag (suite : Nat) (key nonce aad ct : Bytes) : Bytes :=
  if suite = 1 then chachaTag key nonce aad ct else gcmTag (aesKeys key) nonce aad ct

/-- An AEAD's output: the ciphertext, as long as the plaintext, and 16 bytes of tag. -/
def aeadSeal (suite : Nat) (key nonce aad pt : Bytes) : Bytes :=
  let ct := aeadCrypt suite key nonce pt
  ct ++ aeadTag suite key nonce aad ct

/-- An AEAD's plaintext; none when the tag does not match. -/
def aeadOpen (suite : Nat) (key nonce aad ct : Bytes) : Option Bytes :=
  let c := ct.take (ct.length - 16)
  if 16 ≤ ct.length && aeadTag suite key nonce aad c = ct.drop (ct.length - 16) then some (aeadCrypt suite key nonce c) else none

end Sys2Proof.Machine
end

