-- ==== Sys2Proof/Machine/Tls.lean ====
section
/-! DEFINITION. The TLS 1.3 record layer's keys and records (R141 to R144): HKDF under the suite's hash, the key and IV
of a traffic secret, the next secret, and the protection of one record. -/

namespace Sys2Proof.Machine

/-- The hash of a suite: SHA-384 for suite 0, SHA-256 for suite 1 (R141). -/
def suiteHash (suite : Nat) (m : Bytes) : Bytes := if suite = 0 then sha384 m else sha256 m

/-- The block size of a suite's hash. -/
def suiteBlock (suite : Nat) : Nat := if suite = 0 then 128 else 64

/-- The length of a suite's secrets. -/
def suiteLen (suite : Nat) : Nat := if suite = 0 then 48 else 32

/-- HMAC under a suite's hash (PRESUMED: RFC 2104). -/
def hmac (suite : Nat) (key msg : Bytes) : Bytes :=
  let b := suiteBlock suite
  let k := slice (if b < key.length then suiteHash suite key else key) 0 b
  suiteHash suite (k.map (· ^^^ 0x5C) ++ suiteHash suite (k.map (· ^^^ 0x36) ++ msg))

/-- HKDF-Expand to at most one hash length (PRESUMED: RFC 5869). -/
def hkdfExpand (suite : Nat) (prk info : Bytes) (len : Nat) : Bytes := slice (hmac suite prk (info ++ [1])) 0 len

/-- The ASCII bytes of the labels the record layer uses. -/
abbrev labelKey : Bytes := [0x74, 0x6C, 0x73, 0x31, 0x33, 0x20, 0x6B, 0x65, 0x79]
/-- "tls13 iv". -/
abbrev labelIv : Bytes := [0x74, 0x6C, 0x73, 0x31, 0x33, 0x20, 0x69, 0x76]
/-- "tls13 traffic upd". -/
abbrev labelUpd : Bytes :=
  [0x74, 0x6C, 0x73, 0x31, 0x33, 0x20, 0x74, 0x72, 0x61, 0x66, 0x66, 0x69, 0x63, 0x20, 0x75, 0x70, 0x64]

/-- HKDF-Expand-Label with an empty context (PRESUMED: RFC 8446). -/
def hkdfLabel (suite : Nat) (secret label : Bytes) (len : Nat) : Bytes :=
  hkdfExpand suite secret (beBytes 2 len ++ [BitVec.ofNat 8 label.length] ++ label ++ [0]) len

/-- The record key of a traffic secret. -/
def recKey (suite : Nat) (secret : Bytes) : Bytes := hkdfLabel suite secret labelKey 32

/-- The nonce of record `num` under a traffic secret. -/
def recNonce (suite : Nat) (secret : Bytes) (num : Nat) : Bytes :=
  List.zipWith (· ^^^ ·) (hkdfLabel suite secret labelIv 12) (beBytes 12 num)

/-- The secret that follows a traffic secret (R143, R144). -/
def nextSecret (suite : Nat) (secret : Bytes) : Bytes := hkdfLabel suite secret labelUpd (suiteLen suite)

/-- A record header: the outer type, version 0x0303 and length. -/
def recHeader (type len : Nat) : Bytes := beBytes 1 type ++ [3, 3] ++ beBytes 2 len

/-- A protected record with an inner content type and no padding (R136). -/
def sealRecord (suite : Nat) (secret : Bytes) (num content : Nat) (pt : Bytes) : Bytes :=
  let h := recHeader 23 (pt.length + 17)
  h ++ aeadSeal suite (recKey suite secret) (recNonce suite secret num) h (pt ++ beBytes 1 content)

/-- The content type and content of an inner plaintext, its padding removed; none when it has no content type. -/
def innerPlain (pt : Bytes) : Option (Nat × Bytes) :=
  match pt.reverse.dropWhile (· = 0) with
  | [] => none
  | t :: r => some (t.toNat, r.reverse)

/-- Open a protected record: its header and ciphertext. -/
def openRecord (suite : Nat) (secret : Bytes) (num : Nat) (hdr ct : Bytes) : Option (Nat × Bytes) :=
  (aeadOpen suite (recKey suite secret) (recNonce suite secret num) hdr ct).bind innerPlain

/-- A delivered record: its 4-byte mark and content (R148). -/
def markEntry (content : Nat) (bs : Bytes) : Bytes := beBytes 2 bs.length ++ [BitVec.ofNat 8 content, 0] ++ bs

end Sys2Proof.Machine
end

