-- ==== Sys2Proof/Machine/SealOps.lean ====
section
/-! DEFINITION. The seal pool (R304 to R323): algorithms, slots, the checks of a command, engines and their retirement. -/

namespace Sys2Proof.Machine

/-! ## Algorithms (R314) -/

/-- The sizes of an algorithm: key material, public key or share, signature or ciphertext, secret (R314). -/
structure AlgSizes where
  l : Nat
  pub : Nat
  sig : Nat
  secret : Nat
  deriving DecidableEq, Repr

/-- The algorithm table of R314; none for a reserved code. -/
def algOf (a : Nat) : Option AlgSizes :=
  match a with
  | 0x01 => some ⟨32, 65, 64, 0⟩
  | 0x02 => some ⟨48, 97, 96, 0⟩
  | 0x03 => some ⟨32, 32, 64, 0⟩
  | 0x04 => some ⟨900, 260, 256, 0⟩
  | 0x05 => some ⟨1348, 388, 384, 0⟩
  | 0x06 => some ⟨1796, 516, 512, 0⟩
  | 0x07 => some ⟨32, 1312, 2420, 0⟩
  | 0x08 => some ⟨32, 1952, 3309, 0⟩
  | 0x09 => some ⟨32, 2592, 4627, 0⟩
  | 0x10 => some ⟨32, 32, 0, 32⟩
  | 0x11 => some ⟨32, 65, 0, 32⟩
  | 0x12 => some ⟨64, 800, 768, 32⟩
  | 0x13 => some ⟨64, 1184, 1088, 32⟩
  | 0x14 => some ⟨64, 1568, 1568, 32⟩
  | 0x15 => some ⟨96, 1216, 1120, 64⟩
  | _ => none

/-- The sizes, 0 for a reserved code. -/
def algSizes (a : Nat) : AlgSizes := (algOf a).getD ⟨0, 0, 0, 0⟩

/-- ECDSA. -/
def isEcdsa (a : Nat) : Bool := a = 1 || a = 2
/-- RSA. -/
def isRsa (a : Nat) : Bool := 4 ≤ a && a ≤ 6
/-- ML-DSA. -/
def isMldsa (a : Nat) : Bool := 7 ≤ a && a ≤ 9

/-- The algorithm accepts the op (R314). -/
def algAccepts (a op : Nat) : Bool :=
  if 2 ≤ op && op ≤ 4 then 0x10 ≤ a && a ≤ 0x15 else 1 ≤ a && a ≤ 9

/-! ## The fields of a seal command (R313) -/

/-- Op, and byte 16 whole. -/
def Job.sealOp (j : Job) : Nat := bits (j.get 16 1) 3 0
/-- Algorithm. -/
def Job.alg (j : Job) : Nat := j.get 17 1
/-- Class 1 (handshake). -/
def Job.cls (j : Job) : Nat := j.get 18 1 % 2
/-- pk_ptr. -/
def Job.pkPtr (j : Job) : Bool := bitOf (j.get 18 1) 1
/-- der. -/
def Job.der (j : Job) : Bool := bitOf (j.get 18 1) 2
/-- The option bits der, pss and hash. -/
def Job.sealFlags (j : Job) : Nat := bits (j.get 18 1) 6 2
/-- The slot. -/
def Job.keySlot (j : Job) : Nat := j.get 20 2
/-- in_len. -/
def Job.inLen (j : Job) : Nat := j.get 24 4
/-- out_len. -/
def Job.outLen (j : Job) : Nat := j.get 28 4
/-- ctx_len. -/
def Job.ctxLen (j : Job) : Nat := j.get 19 1

/-- The capacity a signature needs: DER ECDSA at most 8 bytes more (R314). -/
def sigCap (j : Job) : Nat := (algSizes j.alg).sig + (if j.der then 8 else 0)

/-- The digest length an RSA hash code demands. -/
def rsaDigest (j : Job) : Nat := if bits (j.get 18 1) 6 4 = 1 then 48 else 32

/-- Euclid's steps from two remainders and the coefficients that belong to them: the coefficient of the last remainder. -/
def euclid : Nat → Nat → Nat → Int → Int → Int
  | 0, _, _, x, _ => x
  | f + 1, r, t, x, y => if t = 0 then x else euclid f t (r % t) y (x - (r / t : Nat) * y)

/-- The inverse of `a` modulo `m`, of at most 2,048 bits. -/
def modInv (a m : Nat) : Nat := (euclid 3200 m (a % m) 0 1 % m).toNat

/-- The material of an RSA key with primes `p` and `q` of `h` bytes (R309): n, e, p, q, dp, dq and qinv, e being 65537 (R306). -/
def rsaMaterial (h p q : Nat) : Bytes :=
  beBytes (2 * h) (p * q) ++ beBytes 4 65537 ++ beBytes h p ++ beBytes h q ++ beBytes h (modInv 65537 (p - 1))
    ++ beBytes h (modInv 65537 (q - 1)) ++ beBytes h (modInv q p)

/-- Fresh key material; of RSA the two primes are what is fresh. -/
def freshKey (a v : Nat) : Bytes :=
  if isRsa a then
    let h := ((algSizes a).pub - 4) / 2
    let x := Config.newKey a v
    rsaMaterial h (beAt x 0 h) (beAt x h h)
  else slice (Config.newKey a v) 0 (algSizes a).l

/-- The public key or share of private key material: of RSA the n and e that it begins with (R309, R314); of the hybrid group the
ML-KEM-768 part, then the X25519 part (R306). -/
def pubKey (a : Nat) (key : Bytes) : Bytes :=
  if isRsa a then slice key 0 (algSizes a).pub
  else if a = 0x15 then slice (Config.publicKey 0x13 (slice key 0 64)) 0 1184 ++ slice (Config.publicKey 0x10 (slice key 64 32)) 0 32
  else slice (Config.publicKey a key) 0 (algSizes a).pub

/-- The initiator's shared secret, of the hybrid group in the same order (R306). -/
def kexInit (a : Nat) (key answer : Bytes) : Bytes :=
  if a = 0x15 then slice (Config.kexDerive 0x13 (slice key 0 64) (slice answer 0 1088)) 0 32
    ++ slice (Config.kexDerive 0x10 (slice key 64 32) (slice answer 1088 32)) 0 32
  else slice (Config.kexDerive a key answer) 0 (algSizes a).secret

/-- The responder's share or ciphertext and shared secret for the peer's share, drawn from `v`; of the hybrid group in the
same order (R306). -/
def kexAnswer (a : Nat) (peer : Bytes) (v : Nat) : Bytes × Bytes :=
  let part (a : Nat) (p : Bytes) : Bytes × Bytes :=
    let z := algSizes a
    (slice (Config.kexShare a p v) 0 (if z.sig = 0 then z.pub else z.sig), slice (Config.kexSecret a p v) 0 z.secret)
  if a = 0x15 then
    let m := part 0x13 (slice peer 0 1184)
    let x := part 0x10 (slice peer 1184 32)
    (m.1 ++ x.1, m.2 ++ x.2)
  else part a peer

/-- What GENERATE, KEX_GEN and UNWRAP write for a blob. -/
def blobLen (a : Nat) : Nat := 64 + (algSizes a).l

/-- Pointers a command uses, with their lengths. -/
def Job.sealPtrs (j : Job) : List (Ptr × Nat) :=
  let z := algSizes j.alg
  let ctx := if isMldsa j.alg then [(j.ptr 56, j.ctxLen)] else []
  match j.sealOp with
  | 0 => [(j.ptr 32, j.inLen), (j.ptr 40, j.outLen), (j.ptr 48, 16)] ++ ctx
  | 1 => [(j.ptr 32, j.inLen), (j.ptr 40, j.outLen)] ++ (if j.pkPtr then [(j.ptr 48, z.pub)] else []) ++ ctx
  | 2 => [(j.ptr 40, j.outLen), (j.ptr 56, blobLen j.alg)]
  | 3 => [(j.ptr 32, j.inLen), (j.ptr 40, z.secret), (j.ptr 48, blobLen j.alg)]
  | 4 => [(j.ptr 32, j.inLen), (j.ptr 40, j.outLen), (j.ptr 56, z.secret)]
  | 5 => [(j.ptr 32, j.inLen), (j.ptr 40, j.outLen), (j.ptr 56, blobLen j.alg)]
  | 6 => [(j.ptr 32, j.inLen)]
  | 7 => [(j.ptr 32, j.inLen), (j.ptr 56, blobLen j.alg)]
  | _ => []

/-- A field the op does not use is not 0 (R313). -/
def Job.sealUnused (j : Job) : Bool :=
  let op := j.sealOp
  let signs := op = 0 || op = 1
  let usesSlot := op = 0 || op = 6 || (op = 1 && !j.pkPtr)
  let usesIn := op ≠ 2
  let usesOut := op ≠ 6 && op ≠ 7
  let usesOutLen := usesOut && op ≠ 3
  let usesAux := op = 0 || op = 3 || (op = 1 && j.pkPtr)
  let usesAux2 := op = 2 || op = 4 || op = 5 || op = 7 || (signs && isMldsa j.alg)
  (!usesSlot && j.keySlot ≠ 0) || (!usesIn && (j.inLen ≠ 0 || j.get 32 8 ≠ 0)) || (!usesOut && j.get 40 8 ≠ 0)
    || (!usesOutLen && j.outLen ≠ 0) || (!usesAux && j.get 48 8 ≠ 0) || (!usesAux2 && j.get 56 8 ≠ 0)
    || (!signs && (j.sealFlags ≠ 0 || j.ctxLen ≠ 0)) || (op ≠ 1 && j.pkPtr)

/-- Options outside their algorithms (R315). -/
def Job.sealOptions (j : Job) : Bool :=
  let f := j.get 18 1
  (j.ctxLen ≠ 0 && !isMldsa j.alg) || (bitOf f 2 && !isEcdsa j.alg) || (bits f 6 3 ≠ 0 && !isRsa j.alg)
    || 2 < bits f 6 4

/-- in_len or a capacity is wrong for the op (R313, R315). -/
def Job.sealLengths (j : Job) : Bool :=
  let z := algSizes j.alg
  let message : Bool := if isEcdsa j.alg then j.inLen = 32 || j.inLen = 48
    else if isRsa j.alg then j.inLen = rsaDigest j else j.inLen ≤ 65536
  !(match j.sealOp with
    | 0 => message && sigCap j ≤ j.outLen
    | 1 => message
    | 2 => z.pub ≤ j.outLen
    | 3 => j.inLen = (if z.sig = 0 then z.pub else z.sig)
    | 4 => j.inLen = z.pub && (if z.sig = 0 then z.pub else z.sig) ≤ j.outLen
    | 5 => j.inLen = 24 && z.pub ≤ j.outLen
    | 6 => j.inLen = blobLen j.alg
    | _ => j.inLen = 1620 + z.l)

/-! ## Slots -/

/-- The record of a slot; none when EMPTY. -/
def Dev.keySlot (d : Dev) (n : Nat) : Option KeySlot := spFind d.pool.slots n

/-- Set the record of a slot. -/
def Dev.setKeySlot (d : Dev) (n : Nat) (k : KeySlot) : Dev := d.onPool (fun p => { p with slots := spPut p.slots n k })

/-- The slots of the key store (R307). -/
def Dev.slotCount (d : Dev) : Nat := d.ioFld R.sealKeystore 16 0

/-- The address of a slot's 2 KiB area. -/
def Dev.slotArea (d : Dev) (n : Nat) : Nat := d.pool.storeBase + 2048 * n

/-- The key-encryption key (R310). -/
def Dev.kek (d : Dev) : Bytes := Config.kek d.pool.owner

/-- The key material of a blob; none when its tag fails (R309). -/
def Dev.openBlob (d : Dev) (b : Bytes) : Option Bytes :=
  aeadOpen 0 d.kek (slice b 32 12) (b.take 48) (b.drop 48)

/-- A blob of key material with bytes 8 to 31 from a template, of which bytes 21 to 23 are 0 (R309); the nonce is open. -/
def Dev.makeBlob (d : Dev) (alg : Nat) (template key : Bytes) : Bytes :=
  let head := leBytes 4 0x4B57584B ++ [1, BitVec.ofNat 8 alg, 0, 0] ++ slice template 0 13 ++ [0, 0, 0]
    ++ slice template 16 8
    ++ (List.range 12).map (fun i => Config.freeByte d.free i) ++ leBytes 4 (algSizes alg).l
  head ++ aeadSeal 0 d.kek (slice head 32 12) head (slice key 0 (algSizes alg).l)

/-- The blob of a slot, from the key store. -/
def Dev.slotBlob (d : Dev) (n alg : Nat) : Bytes := d.memBytes d.pool.storeDram (d.slotArea n) (blobLen alg)

/-- A line of a slot's area is poisoned (R407). -/
def Dev.slotPoisoned (d : Dev) (n alg : Nat) : Bool := d.memPoisoned d.pool.storeDram (d.slotArea n) (blobLen alg)

/-- The policy of a slot in a generation. -/
def Dev.policy (d : Dev) (gen p : Nat) : Nat := d.at gen (R.sealPolicy + 4 * p)

/-- The slot's policy and state permit the command (R308, R315). -/
def Dev.slotPermits (d : Dev) (j : Job) (k : KeySlot) : Bool :=
  let w := d.policy j.gen k.policy
  bitOf w (if j.sealOp = 0 then 0 else 1) && bitOf w (if j.cls = 0 then 3 else 4) && bitOf w (16 + j.tid.g)
    && !(j.sealOp = 0 && k.suspended)

/-- The command works on a key in a slot. -/
def Job.slotted (j : Job) : Bool := j.sealOp = 0 || (j.sealOp = 1 && !j.pkPtr)

/-! ## Engines -/

/-- Engine `e`. -/
def Dev.eng (d : Dev) (e : Nat) : SealEng := d.pool.engs.getD e (SealEng.init 103)

/-- Set engine `e`. -/
def Dev.setEng (d : Dev) (e : Nat) (v : SealEng) : Dev := d.onPool (fun p => { p with engs := p.engs.set e v })

/-- The ACTIVE engines, rising. -/
def Dev.activeEngs (d : Dev) : List Nat := (List.range 104).filter (fun e => (d.eng e).state = .active)

/-- The engines of the handshake set are the active ones with the highest numbers (R317); it is formed anew when the SEAL
group flips and when Service begins. -/
def Dev.formSets (d : Dev) : Dev :=
  let a := d.activeEngs
  let hs := a.drop (a.length - d.liveFld R.sealCfg 6 0)
  d.onPool (fun p => { p with engs := p.engs.mapIdx (fun e v => { v with hs := hs.contains e }) })

/-- A counter of the pool. -/
def Dev.sealCount (d : Dev) (i : Nat) : Dev := d.bump (R.sealCnt + 4 * i)

/-! ## The checks when the pool takes a command (R315) -/

/-- The version of a blob or envelope at `in` or `aux` is wrong. -/
def Dev.sealVersion (d : Dev) (j : Job) : Bool :=
  match j.sealOp with
  | 3 => (d.ptrBytes j (j.ptr 48) 5).drop 4 ≠ [1]
  | 6 => (d.ptrBytes j (j.ptr 32) 5).drop 4 ≠ [1]
  | 7 => (d.ptrBytes j (j.ptr 32) 5).drop 4 ≠ [1]
  | _ => false

/-- The head of a blob does not fit the command: magic, algorithm, zero bytes, length. -/
def blobHeadBad (j : Job) (b : Bytes) : Bool :=
  leAt b 0 4 ≠ 0x4B57584B || leAt b 5 1 ≠ j.alg || leAt b 6 2 ≠ 0 || leAt b 21 3 ≠ 0 || leAt b 44 4 ≠ (algSizes j.alg).l

/-- The head of a blob, envelope or template the command reads is wrong. -/
def Dev.sealHeadBad (d : Dev) (j : Job) : Bool :=
  match j.sealOp with
  | 3 => blobHeadBad j (d.ptrBytes j (j.ptr 48) 64)
  | 6 => blobHeadBad j (d.ptrBytes j (j.ptr 32) 64)
  | 7 =>
    let b := d.ptrBytes j (j.ptr 32) 36
    leAt b 0 4 ≠ 0x4554584B || leAt b 5 1 ≠ j.alg || leAt b 6 2 ≠ 0 || leAt b 21 3 ≠ 0
      || leAt b 32 4 ≠ (algSizes j.alg).l
  | 5 => leAt (d.ptrBytes j (j.ptr 32) 24) 13 3 ≠ 0
  | _ => false

/-- The key material inside an envelope (R311). -/
def Dev.openEnvelope (d : Dev) (b : Bytes) : Option Bytes :=
  aeadOpen 0 (Config.transportSecret d.pool.owner (slice b 36 1568)) (List.replicate 12 0) (b.take 36) (b.drop 1604)

/-- A blob or envelope the command reads fails its tag. -/
def Dev.sealTagBad (d : Dev) (j : Job) : Bool :=
  match j.sealOp with
  | 3 => (d.openBlob (d.ptrBytes j (j.ptr 48) (blobLen j.alg))).isNone
  | 6 => (d.openBlob (d.ptrBytes j (j.ptr 32) j.inLen)).isNone
  | 7 => (d.openEnvelope (d.ptrBytes j (j.ptr 32) j.inLen)).isNone
  | _ => false

/-- The slot of the command does not exist or is not in the state the op needs. -/
def Dev.sealSlotBad (d : Dev) (j : Job) : Bool :=
  if j.slotted then match d.keySlot j.keySlot with
    | some k => d.slotCount ≤ j.keySlot || k.alg ≠ j.alg
    | none => true
  else j.sealOp = 6 && (d.slotCount ≤ j.keySlot || (d.keySlot j.keySlot).isSome)

/-- A seal command's code when the pool takes it; OK: it goes on. -/
def Dev.sealCheck (d : Dev) (j : Job) : Nat :=
  let c := d.cmdCheck j j.sealPtrs false
  if c ≠ Code.ok then c
  else
    let forbidden := j.slotted && match d.keySlot j.keySlot with
      | some k => !d.slotPermits j k
      | none => false
    if forbidden then Code.notOwner
    else if d.sealVersion j then Code.versionMismatch
    else if 7 < j.sealOp || (algOf j.alg).isNone || j.get 16 1 / 16 ≠ 0 || bitOf (j.get 18 1) 7 || j.get 22 2 ≠ 0 || !algAccepts j.alg j.sealOp || j.sealUnused
      || j.sealOptions || j.sealLengths || d.sealSlotBad j || d.sealHeadBad j then Code.reserved
    else if j.sealPtrs.any (fun x => d.ptrPoisoned x.1 x.2) then Code.poisoned
    else if d.sealTagBad j then Code.sealInvalid
    else if (j.sealOp = 0 || j.sealOp = 6) && d.activeEngs.length < 2 then Code.failEmpty
    else Code.ok

/-! ## The end of a command -/

/-- The result word of the orphan log (R316). -/
def Dev.sealResult (d : Dev) (j : Job) (count : Nat) : Nat :=
  if j.sealOp = 0 then j.keySlot * 2 ^ 48 + count % 2 ^ 48
  else j.keySlot * 2 ^ 48 + leAt (d.ptrBytes j (j.ptr 32) 16) 8 6

/-- Change every seal command in the pool. -/
def Dev.mapItems (d : Dev) (f : SealItem → SealItem) : Dev :=
  d.onPool (fun p => { p with
    queue := p.queue.map f, adj := p.adj.map f, engs := p.engs.map (fun e => { e with jobs := e.jobs.map f }) })

/-- The slot's record that a dispatched command works under: the slot's own, or the one it had when it was destroyed
(R312). -/
def Dev.itemKey (d : Dev) (it : SealItem) (j : Job) : Option KeySlot :=
  match it.gone with | some g => some g.key | none => d.keySlot j.keySlot

/-- Set the slot's record that a dispatched command works under: one of a destroyed slot is shared by the commands that were
dispatched under it, and by no other. -/
def Dev.setItemKey (d : Dev) (it : SealItem) (j : Job) (k : KeySlot) : Dev :=
  match it.gone with
  | some g => d.mapItems (fun x => match x.gone with
    | some h => if h.slot = g.slot ∧ h.drip = g.drip then { x with gone := some { h with key := k } } else x
    | none => x)
  | none => d.setKeySlot j.keySlot k

/-- A reserved use is returned (R318). -/
def Dev.returnUse (d : Dev) (it : SealItem) (j : Job) : Dev :=
  if j.sealOp ≠ 0 || it.gone.isSome then d
  else match d.keySlot j.keySlot with
    | some k => d.setKeySlot j.keySlot { k with reserved := k.reserved - 1 }
    | none => d

/-- A command ends without a signature. -/
def Dev.sealFail (d : Dev) (it : SealItem) (code : Nat) : Dev :=
  match d.job it.job with
  | some j => (d.returnUse it j).finishJob it.job code 0
  | none => d

/-- The result area of a SIGN (R316). -/
def signArea (len count slot p v : Nat) : Bytes :=
  leBytes 4 len ++ leBytes 6 count ++ leBytes 2 slot ++ leBytes 1 p ++ leBytes 1 v ++ [0, 0]

/-- A verified signature is released (R319): `p` produced it and `v` verified it. -/
def Dev.releaseSig (d : Dev) (it : SealItem) (p v : Nat) : Dev :=
  match d.job it.job with
  | none => d
  | some j =>
    match j.sealOp with
    | 0 =>
      let k := (d.itemKey it j).getD ⟨false, j.alg, 0, 0, 0, 0, 1⟩
      let count := k.count + 1
      let d := d.setItemKey it j { k with count := count, reserved := k.reserved - 1 }
      let d := d.ptrWrite j (j.ptr 40) it.sig
      let d := d.ptrWrite j (j.ptr 48) (signArea it.sig.length count j.keySlot p v)
      (d.sealCount 0).finishJob it.job Code.ok (d.sealResult j count)
    | 6 => d.onPool (fun q => { q with changes := q.changes ++ [.install it.job j.keySlot it.msg] })
    | _ =>
      let blob := d.makeBlob j.alg it.msg it.key
      let d := d.ptrWrite j (j.ptr 40) (pubKey j.alg it.key)
      (d.freeStep.ptrWrite j (j.ptr 56) blob).finishJob it.job Code.ok 0

/-! ## Retirement (R322, R323) -/

/-- The code of a retirement record for its cause. -/
def retireCode (cause : Nat) : Nat :=
  if cause ≤ 4 then Code.sealInvalid else if cause = 5 then Code.timeout else Code.orphaned

/-- A command of a retired engine as it goes back (R323): a SIGN discards its unreleased signature and is made again, by
another engine than the one that adjudication suspects; its reservation stays. -/
def SealItem.moved (it : SealItem) (j : Job) : SealItem :=
  if j.sealOp ≠ 0 then it
  else match it.stage with
    | .perform => it
    | .resign => { it with sig := [] }
    | .reverify => { it with stage := .resign, banned := [it.p1], sig := [] }
    | _ => { it with stage := .perform, banned := [], good := true, sig := [] }

/-- Jobs go back to the head of the pool queue. -/
def Dev.moveJobs (d : Dev) (its : List SealItem) : Dev :=
  let its' := its.map (fun it => match d.job it.job with | some j => it.moved j | none => it)
  let isNew (i : SealItem) : Bool := i.stage = .perform
  (d.onPool (fun p => { p with
    adj := its'.filter (fun i => !isNew i) ++ p.adj, queue := its'.filter isNew ++ p.queue })).bumpBy (R.sealCnt + 32)
      its.length

/-- The record and the count of a seal engine's retirement (R323). -/
def Dev.sealRetired (d : Dev) (e cause moved : Nat) (spare : Option Nat) : Dev :=
  (d.bump R.sealRetireCnt).incident 15 (retireCode cause) 0x100 (e + spare.getD 0x7F * 2 ^ 8 + cause * 2 ^ 16) moved

/-- An engine is retired; the next spare starts and takes its place in its set. -/
def Dev.retireSeal (d : Dev) (e cause : Nat) : Dev :=
  let v := d.eng e
  if v.state ≠ .active then d
  else
    let spare := (List.range 104).find? (fun x => (d.eng x).state = .spare)
    let d := (d.setEng e { v with state := .retired, cause := cause, hs := false, jobs := [], cache := [] }).moveJobs v.jobs
    let d := match spare with
      | some x => d.setEng x { d.eng x with state := .starting, hs := v.hs }
      | none => d
    d.sealRetired e cause v.jobs.length spare

end Sys2Proof.Machine
end

