-- ==== Sys2Proof/Machine/Seal.lean ====
section
/-! DEFINITION. The rows of chapter 12: seal commands, the arbiter, engines, slots, and the hash engines. -/

namespace Sys2Proof.Machine

/-! ## Commands enter the pool -/

/-- The pool takes a command: it joins the new commands, and waits for arbiter 24 to admit it (R415). -/
def Dev.enterPool (d : Dev) (n : Nat) (j : Job) : Dev :=
  d.onPool (fun p => { p with queue := p.queue ++ [⟨n, j.cls, .perform, [], 0, 0, 0, true, [], [], [], [], false, none, false⟩] })

/-- What the pool counts of a command it refuses: poisoned cells (R470). -/
def Dev.sealNote (d : Dev) (j : Job) (c : Nat) : Dev := if c = Code.poisoned then d.countPtrs j.sealPtrs else d

/-- A seal command with an op for which `mine` holds. -/
def Dev.sealAdmit (d : Dev) (n : Nat) (mine : Nat → Bool) : Dev :=
  d.admitJob n 0 (fun j => mine j.sealOp) Dev.sealCheck Dev.sealNote Dev.enterPool

/-- SIGN (R313); a command with a reserved op is taken here too. -/
def execSealSign (job : Nat) (s : State) : Host.Outcome State Fault Refusal :=
  s.run (fun d => d.sealAdmit job (fun op => op = 0 || 8 ≤ op))

/-- VERIFY (R313). -/
def execSealVerify (job : Nat) (s : State) : Host.Outcome State Fault Refusal :=
  s.run (fun d => d.sealAdmit job (fun op => op = 1))

/-- KEX_GEN (R313). -/
def execKexGen (job : Nat) (s : State) : Host.Outcome State Fault Refusal := s.run (fun d => d.sealAdmit job (fun op => op = 2))

/-- KEX_DERIVE (R313). -/
def execKexDerive (job : Nat) (s : State) : Host.Outcome State Fault Refusal :=
  s.run (fun d => d.sealAdmit job (fun op => op = 3))

/-- KEX_RESPOND (R313). -/
def execKexRespond (job : Nat) (s : State) : Host.Outcome State Fault Refusal :=
  s.run (fun d => d.sealAdmit job (fun op => op = 4))

/-- GENERATE (R313). -/
def execSealGenerate (job : Nat) (s : State) : Host.Outcome State Fault Refusal :=
  s.run (fun d => d.sealAdmit job (fun op => op = 5))

/-- IMPORT (R313). -/
def execKeyImport (job : Nat) (s : State) : Host.Outcome State Fault Refusal :=
  s.run (fun d => d.sealAdmit job (fun op => op = 6))

/-- UNWRAP (R311, R313). -/
def execSealUnwrap (job : Nat) (s : State) : Host.Outcome State Fault Refusal :=
  s.run (fun d => d.sealAdmit job (fun op => op = 7))

/-! ## The arbiter (R317, R318) -/

/-- The slot whose key a job uses, for the preference of engines that cache it. -/
def Dev.itemSlot (d : Dev) (it : SealItem) : Option Nat :=
  match d.job it.job with | some j => if j.slotted then some j.keySlot else none | none => none

/-- The job an engine would take next: verification first, then its set's class, then the other (R317). -/
def Dev.nextSeal (d : Dev) (e : Nat) : Option SealItem :=
  let v := d.eng e
  if v.state ≠ .active || 2 ≤ v.jobs.length then none
  else match d.pool.adj.find? (fun i => !i.banned.contains e) with
    | some i => some i
    | none =>
      let cls := b2n v.hs
      match d.pool.queue.find? (fun i => i.adm && i.cls = cls) with
      | some i => some i
      | none => d.pool.queue.find? (fun i => i.adm)

/-- The engine the arbiter chooses for a job among those that would take it: one that caches the key, else the shortest
queue; ties go to the lowest number. -/
def Dev.chooseEng (d : Dev) (it : SealItem) : Option Nat :=
  let cand := (List.range 104).filter (fun e => d.nextSeal e = some it)
  let cached := match d.itemSlot it with
    | some n => cand.filter (fun e => (d.eng e).cache.contains n)
    | none => []
  match cached with
  | e :: _ => some e
  | [] => argMin (fun e => (d.eng e).jobs.length) cand

/-- An engine caches a slot's key: 32 at most, and which one it drops is open (R305). -/
def Dev.cacheKey (d : Dev) (e : Nat) (slot : Option Nat) : Dev :=
  match slot with
  | none => d
  | some n =>
    let v := d.eng e
    if v.cache.contains n then d
    else if v.cache.length < 32 then d.setEng e { v with cache := v.cache ++ [n] }
    else (d.freeStep).setEng e { v with cache := (v.cache.eraseIdx (d.freeVal % 32)) ++ [n] }

/-- What a new command works on, read at its dispatch: key material, message, context. -/
def Dev.loadItem (d : Dev) (j : Job) (it : SealItem) : SealItem :=
  let msg := match j.sealOp with
    | 2 => []
    | _ => d.ptrBytes j (j.ptr 32) j.inLen
  let key : Bytes := match j.sealOp with
    | 0 | 1 => if j.slotted then (d.openBlob (d.slotBlob j.keySlot j.alg)).getD [] else []
    | 3 => (d.openBlob (d.ptrBytes j (j.ptr 48) (blobLen j.alg))).getD []
    | 5 => freshKey j.alg d.freeVal
    | 6 => (d.openBlob msg).getD []
    | 7 => (d.openEnvelope msg).getD []
    | _ => []
  let ctx := if j.sealOp ≤ 1 then d.ptrBytes j (j.ptr 56) j.ctxLen else []
  { it with key := key, msg := msg, ctx := ctx, loaded := true }

/-- The code a new command meets at dispatch: its slot as it is now (R312), a poisoned key store (R407), its limit
(R318). -/
def Dev.dispatchCheck (d : Dev) (j : Job) : Nat :=
  if !j.slotted then Code.ok
  else match d.keySlot j.keySlot with
    | none => Code.reserved
    | some k =>
      if j.sealOp = 0 && k.suspended then Code.notOwner
      else if d.slotPoisoned j.keySlot j.alg then Code.poisoned
      else if j.sealOp = 0 && k.limit ≠ 0xFFFFFFFF && k.limit ≤ k.count + k.reserved then Code.failEmpty
      else Code.ok

/-- What a dispatch that fails counts: a limit reached, or the poisoned lines of the slot's blob (R407). -/
def Dev.dispatchNote (d : Dev) (j : Job) (c : Nat) : Dev :=
  if c = Code.failEmpty then d.sealCount 7
  else if c = Code.poisoned then d.countRead d.pool.storeDram (d.slotArea j.keySlot) (blobLen j.alg)
  else d

/-- Place a job on an engine. -/
def Dev.placeJob (d : Dev) (e : Nat) (it : SealItem) : Dev :=
  let d := d.cacheKey e (d.itemSlot it)
  d.setEng e { d.eng e with jobs := (d.eng e).jobs ++ [it] }

/-- A new command is dispatched; a SIGN reserves a use of its slot unless it holds one already (R318, R323). -/
def Dev.dispatchNew (d : Dev) (e : Nat) (it : SealItem) : Dev :=
  match d.job it.job with
  | none => d
  | some j =>
    let first := !it.loaded
    let c := if first then d.dispatchCheck j else Code.ok
    if c ≠ Code.ok then (d.dispatchNote j c).finishJob it.job c 0
    else
      let it' := if first then d.loadItem j it else it
      let d := if first && j.sealOp = 0 then match d.keySlot j.keySlot with
        | some k => d.setKeySlot j.keySlot { k with reserved := k.reserved + 1 }
        | none => d else d
      (if first then d.freeStep else d).placeJob e it'

/-- SEAL_DISPATCH: the arbiter places the job that engine `e` is chosen for. -/
def Dev.sealDispatch (d : Dev) (e : Nat) : Dev :=
  if !d.serving then d
  else match d.nextSeal e with
    | none => d
    | some it =>
      if d.chooseEng it ≠ some e then d
      else
        let d := d.onPool (fun p => { p with adj := p.adj.erase it, queue := p.queue.erase it })
        if it.stage = .perform then d.dispatchNew e it else d.placeJob e it

/-- SEAL_DISPATCH (R317). -/
def execSealDispatch (eng : Nat) (s : State) : Host.Outcome State Fault Refusal := s.run (fun d => d.sealDispatch eng)

/-! ## An engine finishes a job (R319 to R321) -/

/-- A job joins the verification queue. -/
def Dev.toAdj (d : Dev) (it : SealItem) : Dev := d.onPool (fun p => { p with adj := p.adj ++ [it] })

/-- The policy in force for the command selects hedged signing (R308). -/
def Dev.hedged (d : Dev) (it : SealItem) (j : Job) : Bool :=
  j.sealOp = 0 && match d.itemKey it j with | some k => bitOf (d.policy j.gen k.policy) 2 | none => false

/-- A signature draws randomness: PSS its salt, ECDSA and ML-DSA when hedged (R306). -/
def Dev.drawn (d : Dev) (it : SealItem) (j : Job) : Bool :=
  if isRsa j.alg then bitOf (j.get 18 1) 3 else (isEcdsa j.alg || isMldsa j.alg) && d.hedged it j

/-- The signature a producer makes: the algorithm's, which is deterministic unless it draws randomness (R306), or open when
the producer does not work soundly. IMPORT and GENERATE sign a fixed test message. -/
def Dev.produce (d : Dev) (j : Job) (it : SealItem) (sound : Bool) : Bytes :=
  if !sound then (List.range (algSizes j.alg).sig).map (fun i => Config.freeByte d.free i)
  else
    let msg := if j.sealOp = 0 then it.msg else []
    let s := Config.sign j.alg j.sealFlags it.key msg it.ctx (if d.drawn it j then 1 + d.freeVal else 0)
    if j.der then s.take (sigCap j) else slice s 0 (algSizes j.alg).sig

/-- The verdict of an engine on a signature the pool made: a sound one finds it good when its producer was sound and the
key's parts agree. -/
def verdictOwn (j : Job) (it : SealItem) (sound : Bool) : Bool := (it.good && Config.keyPairOk j.alg it.key) == sound

/-- The verdict of an engine on a VERIFY. -/
def Dev.verdictUser (d : Dev) (j : Job) (it : SealItem) (sound : Bool) : Bool :=
  let pub := if j.pkPtr then d.ptrBytes j (j.ptr 48) (algSizes j.alg).pub else pubKey j.alg it.key
  let sig := d.ptrBytes j (j.ptr 40) j.outLen
  let fits : Bool := if j.der then j.outLen ≤ sigCap j else j.outLen = (algSizes j.alg).sig
  (fits && Config.verify j.alg j.sealFlags pub it.msg it.ctx sig) == sound

/-- A VERIFY ends with a verdict. -/
def Dev.endVerify (d : Dev) (it : SealItem) (ok : Bool) : Dev :=
  (d.sealCount 1).finishJob it.job (if ok then Code.ok else Code.sealInvalid) 0

/-- The outputs of a key exchange or an UNWRAP. -/
def Dev.kexDone (d : Dev) (j : Job) (it : SealItem) : Dev :=
  let v := d.freeVal
  match j.sealOp with
  | 2 =>
    let key := freshKey j.alg v
    let blob := d.makeBlob j.alg ((List.range 24).map (fun i => Config.freeByte d.free (12 + i))) key
    (((d.freeStep.ptrWrite j (j.ptr 40) (pubKey j.alg key)).ptrWrite j (j.ptr 56) blob).sealCount 2).finishJob it.job
      Code.ok 0
  | 3 => ((d.ptrWrite j (j.ptr 40) (kexInit j.alg it.key it.msg)).sealCount 2).finishJob it.job Code.ok 0
  | 4 =>
    let a := kexAnswer j.alg it.msg v
    (((d.freeStep.ptrWrite j (j.ptr 40) a.1).ptrWrite j (j.ptr 56) a.2).sealCount 2).finishJob it.job Code.ok 0
  | _ =>
    let blob := d.makeBlob j.alg (it.msg.drop 8) it.key
    (d.freeStep.ptrWrite j (j.ptr 56) blob).finishJob it.job Code.ok 0

/-- A command has been performed by engine `e`. -/
def Dev.performed (d : Dev) (e : Nat) (j : Job) (it : SealItem) (sound : Bool) : Dev :=
  match j.sealOp with
  | 1 =>
    let v := d.verdictUser j it sound
    if !v && bitOf (d.at j.gen R.sealCfg) 7 then
      (d.sealCount 9).toAdj { it with stage := .confirm, banned := [e], p1 := e }
    else d.endVerify it v
  | 0 | 5 | 6 =>
    d.freeStep.toAdj { it with stage := .selfVerify, banned := [e], p1 := e, good := sound, sig := d.produce j it sound }
  | _ => d.kexDone j it

/-- The key itself is at fault (R320). -/
def Dev.keyFault (d : Dev) (j : Job) (it : SealItem) : Dev :=
  let id := match j.sealOp with
    | 0 => match d.itemKey it j with | some k => k.keyId | none => 0
    | 5 => leAt it.msg 0 8
    | _ => leAt it.msg 8 8
  let d := (d.sealCount 6).incident 15 Code.sealInvalid j.owner (j.keySlot + 2 ^ 31) (id % 2 ^ 32)
  let d := if j.sealOp = 0 && it.gone.isNone then
    d.onPool (fun p => { p with changes := p.changes ++ [.fault j.keySlot] }) else d
  d.sealFail it Code.sealInvalid

/-- A verifying engine has reached its verdict (R319 to R321). -/
def Dev.verified (d : Dev) (e : Nat) (j : Job) (it : SealItem) (sound : Bool) : Dev :=
  let own := verdictOwn j it sound
  match it.stage with
  | .selfVerify =>
    if own then d.releaseSig it it.p1 e
    else
      let d := d.sealCount 3
      if d.activeEngs.length < 3 then d.sealFail it Code.sealInvalid
      else d.toAdj { it with stage := .adjVerify, v1 := e, banned := [it.p1, e] }
  | .adjVerify =>
    if own then ((d.sealCount 4).retireSeal it.v1 2).releaseSig it it.p1 e
    else ((d.sealCount 3).sealCount 8).toAdj { it with stage := .resign, banned := [it.p1] }
  | .resign =>
    d.freeStep.toAdj { it with stage := .reverify, p2 := e, banned := [it.p1, e], good := sound, sig := d.produce j it sound }
  | .reverify =>
    if own then ((d.sealCount 5).retireSeal it.p1 1).releaseSig it it.p2 e
    else (d.sealCount 3).keyFault j it
  | .confirm =>
    if d.verdictUser j it sound then d.toAdj { it with stage := .settle, v1 := e, banned := [it.p1, e] }
    else d.endVerify it false
  | _ =>
    if d.verdictUser j it sound then (d.retireSeal it.p1 3).endVerify it true
    else (d.retireSeal it.v1 3).endVerify it false

/-- SEAL_JOB_COMPLETE: the running job of engine `e` ends; `sound` says whether the engine worked correctly. -/
def Dev.sealComplete (d : Dev) (e : Nat) (sound : Bool) : Dev :=
  let v := d.eng e
  match v.jobs with
  | [] => d
  | it :: rest =>
    if v.state ≠ .active || !d.serving then d
    else
      let d := d.setEng e { v with jobs := rest }
      match d.job it.job with
      | none => d
      | some j => if it.stage = .perform then d.performed e j it sound else d.verified e j it sound

/-- SEAL_JOB_COMPLETE (R319). -/
def execSealJobComplete (eng : Nat) (sound : Bool) (s : State) : Host.Outcome State Fault Refusal :=
  s.run (fun d => d.sealComplete eng sound)

/-- SEAL_JOB_TIMEOUT: the running job of an engine exceeds its limit (R322 cause 5). -/
def execSealJobTimeout (eng : Nat) (s : State) : Host.Outcome State Fault Refusal :=
  s.run (fun d => if (d.eng eng).jobs = [] then d else d.retireSeal eng 5)

/-- SEAL_KAT: the known-answer test that is due on an active engine (R322 cause 4). -/
def Dev.sealKat (d : Dev) (e : Nat) (pass : Bool) : Dev :=
  let v := d.eng e
  if !d.serving || v.state ≠ .active || d.drip.now < v.lastKat + d.liveFld R.sealCfg 23 8 * 1024 then d
  else if pass then d.setEng e { v with lastKat := d.drip.now }
  else d.retireSeal e 4

/-- SEAL_KAT (R322). -/
def execSealKat (eng : Nat) (pass : Bool) (s : State) : Host.Outcome State Fault Refusal := s.run (fun d => d.sealKat eng pass)

/-- SEAL_SPARE_ACTIVE: a starting spare has passed its test (R323). -/
def execSealSpareActive (eng : Nat) (s : State) : Host.Outcome State Fault Refusal :=
  s.run (fun d =>
    let v := d.eng eng
    if v.state = .starting then d.setEng eng { v with state := .active, lastKat := d.drip.now } else d)

/-! ## Registers of the SEAL owner set -/

/-- A write of `v` to a write-only register of block `b`, for masters in its owner set (R55). -/
def Dev.ownDoorbell (d : Dev) (m b off width v : Nat) (act : Dev → Dev) : Dev :=
  if d.noPath m then d
  else if !d.blockOpen off || !d.owns m b then (d.refuse m off Code.notOwner).lastWrite m off Code.notOwner
  else if v / 2 ^ width ≠ 0 then (d.reservedCsr m off).lastWrite m off Code.reserved
  else act d

/-- A write of SEAL_ENG_CTL (R322 cause 7, R323). -/
def Dev.sealEngCtl (d : Dev) (m v : Nat) : Dev :=
  d.ownDoorbell m 15 R.sealEngCtl 8 v (fun d =>
    let e := bits v 6 0
    if 103 < e || (d.eng e).state ≠ .active then d.setPer m R.sealEngCtlStat Code.reserved
    else (if bitOf v 7 then d.retireSeal e 7 else d).setPer m R.sealEngCtlStat Code.ok)

/-- SEAL_ENG_RETIRE_REQUEST. -/
def execSealEngRetireRequest (m eng : Nat) (s : State) : Host.Outcome State Fault Refusal :=
  s.run (fun d => d.sealEngCtl m (eng % 128 + 128))

/-- A write of SEAL_SLOT_CTL (R307, R312): accepted for the boundary. -/
def Dev.slotCtl (d : Dev) (m v : Nat) : Dev :=
  d.ownDoorbell m 15 R.sealSlotCtl 18 v (fun d =>
    d.onPool (fun p => { p with changes := p.changes ++ [.control m (bits v 15 0) (bits v 17 16)] }))

/-- SUSPEND (R312). -/
def execSlotSuspend (m slot : Nat) (s : State) : Host.Outcome State Fault Refusal :=
  s.run (fun d => d.slotCtl m (slot % 2 ^ 16))

/-- RESUME (R312). -/
def execSlotResume (m slot : Nat) (s : State) : Host.Outcome State Fault Refusal :=
  s.run (fun d => d.slotCtl m (slot % 2 ^ 16 + 2 ^ 16))

/-- DESTROY (R312). -/
def execSlotDestroy (m slot : Nat) (s : State) : Host.Outcome State Fault Refusal :=
  s.run (fun d => d.slotCtl m (slot % 2 ^ 16 + 2 * 2 ^ 16))

/-- The change of state a master asked for, at its boundary: its code. -/
def Dev.slotControl (d : Dev) (slot op : Nat) : Nat × Dev :=
  match d.keySlot slot with
  | none => (Code.reserved, d)
  | some k =>
    match op with
    | 0 => if k.suspended then (Code.reserved, d) else (Code.ok, d.setKeySlot slot { k with suspended := true })
    | 1 => if k.suspended then (Code.ok, d.setKeySlot slot { k with suspended := false }) else (Code.reserved, d)
    | 2 =>
      let d := d.writeMem d.pool.storeDram (d.slotArea slot) (List.replicate 2048 0)
      let d := d.mapItems (fun it => match d.job it.job with
        | some j => if it.loaded && it.gone.isNone && j.slotted && j.keySlot = slot then { it with gone := some ⟨slot, d.drip.now, k⟩ } else it
        | none => it)
      (Code.ok, d.onPool (fun p => { p with
        slots := spErase p.slots slot, engs := p.engs.map (fun e => { e with cache := e.cache.filter (· ≠ slot) }) }))
    | _ => (Code.reserved, d)

/-- The record an installed blob gives its slot (R307, R309). -/
def blobSlot (b : Bytes) : KeySlot :=
  ⟨false, leAt b 5 1, leAt b 20 1, leAt b 8 8, leAt b 16 4, leAt b 24 8, 0⟩

/-- Install a blob in a slot that is still EMPTY. -/
def Dev.installKey (d : Dev) (slot : Nat) (b : Bytes) : Dev :=
  (d.writeMem d.pool.storeDram (d.slotArea slot) b).setKeySlot slot (blobSlot b)

/-- A change of a slot at its boundary. -/
def Dev.slotChange (d : Dev) : SlotChange → Dev
  | .install n slot b =>
    match d.job n with
    | none => d
    | some _ =>
      if (d.keySlot slot).isSome then d.finishJob n Code.reserved 0
      else (d.installKey slot b).finishJob n Code.ok (slot * 2 ^ 48 + leAt b 8 6)
  | .control m slot op =>
    let (c, d) := d.slotControl slot op
    d.setPer m R.sealSlotCtlStat c
  | .fault slot => (d.slotControl slot 0).2

/-- The changes of slots take effect at the boundary, in the order of their acceptance (R307). -/
def Dev.slotChanges (d : Dev) : Dev :=
  let l := d.pool.changes
  l.foldl Dev.slotChange (d.onPool (fun p => { p with changes := [] }))

/-! ## Hash engines (R325) -/

/-- The digest of an algorithm of R325. -/
def hashOf (alg : Nat) (m : Bytes) : Bytes :=
  match alg with | 0 => sha256 m | 1 => sha384 m | _ => sha3_256 m

/-- The length of a digest. -/
def hashLen (alg : Nat) : Nat := if alg = 1 then 48 else 32

/-- The state area a hash unit writes. -/
def hashArea (alg : Nat) (m : Bytes) : Bytes := (List.range 256).map (Config.hashState alg m)

/-- What a state area stands for, if a hash unit wrote it: the newest that matches. -/
def Dev.hashFind (d : Dev) (area : Bytes) : Option (Nat × Bytes) := d.help.hashes.find? (fun h => hashArea h.1 h.2 == area)

/-- Pointers of a hash command: input, then digest, then state area. -/
def Job.hashPtrs (j : Job) : List (Ptr × Nat) :=
  let op := j.get 16 1
  let out := if op = 0 || op = 3 then [(j.ptr 40, hashLen (j.get 17 1))] else []
  let area := if op = 0 then [] else [(j.ptr 48, 256)]
  [(j.ptr 32, j.inLen)] ++ out ++ area

/-- Write the state area for what has been absorbed. -/
def Dev.hashSave (d : Dev) (j : Job) (alg : Nat) (m : Bytes) : Dev :=
  (d.ptrWrite j (j.ptr 48) (hashArea alg m)).onHelp (fun h => { h with hashes := (alg, m) :: h.hashes })

/-- A hash command (R325). A state area that no hash unit wrote gives a digest, or a state, that is open. -/
def Dev.hashCmd (d : Dev) (j : Job) : UnitAns :=
  let op := j.get 16 1
  let alg := j.get 17 1
  let c := d.cmdCheck j j.hashPtrs (3 < op || 2 < alg || 65536 < j.inLen)
  if c ≠ Code.ok then ⟨c, 0, d⟩
  else match d.poisonAns (j.hashPtrs.filter (fun x => x.1 ≠ j.ptr 40)) with
    | some a => a
    | none =>
      let input := d.ptrBytes j (j.ptr 32) j.inLen
      let done (d : Dev) : UnitAns := ⟨Code.ok, 0, d⟩
      match op with
      | 0 => done (d.ptrWrite j (j.ptr 40) (hashOf alg input))
      | 1 => done (d.hashSave j alg input)
      | _ =>
        match d.hashFind (d.ptrBytes j (j.ptr 48) 256) with
        | some (a, m) =>
          if a ≠ alg then ⟨Code.reserved, 0, d⟩
          else if op = 2 then done (d.hashSave j alg (m ++ input))
          else done (d.ptrWrite j (j.ptr 40) (hashOf alg (m ++ input)))
        | none =>
          let open_ (n : Nat) : Bytes := (List.range n).map (fun i => Config.freeByte d.free i)
          done (d.freeStep.ptrWrite j (j.ptr (if op = 2 then 48 else 40)) (open_ (if op = 2 then 256 else hashLen alg)))

/-- A hash engine that is not fenced takes a command whose op satisfies `mine`. -/
def Dev.hashTake (d : Dev) (n : Nat) (mine : Nat → Bool) : Dev :=
  if 32 ≤ d.pool.hashFenced.length then d else d.takeJob n 2 (fun j => mine (j.get 16 1)) Dev.hashCmd

/-- DIGEST (R325); a command with a reserved op is taken here too. -/
def execHashDigest (job : Nat) (s : State) : Host.Outcome State Fault Refusal :=
  s.run (fun d => d.hashTake job (fun op => op = 0 || 4 ≤ op))

/-- START (R325). -/
def execHashStart (job : Nat) (s : State) : Host.Outcome State Fault Refusal := s.run (fun d => d.hashTake job (fun op => op = 1))

/-- UPDATE (R325). -/
def execHashUpdate (job : Nat) (s : State) : Host.Outcome State Fault Refusal := s.run (fun d => d.hashTake job (fun op => op = 2))

/-- FINISH (R325). -/
def execHashFinish (job : Nat) (s : State) : Host.Outcome State Fault Refusal := s.run (fun d => d.hashTake job (fun op => op = 3))

/-- A hash engine is fenced: its incident and its step of SEAL_RETIRE_CNT (R325, R473). -/
def Dev.hashFence (d : Dev) (eng : Nat) : Dev :=
  if 32 ≤ eng || d.pool.hashFenced.contains eng then d
  else ((d.onPool (fun p => { p with hashFenced := p.hashFenced ++ [eng] })).bump R.sealRetireCnt).incident 15
    Code.sealInvalid 0x100 (eng + 0x7F * 2 ^ 8 + 8 * 2 ^ 16) 0

/-- HASH_ENGINE_FENCE (R325). -/
def execHashEngineFence (eng : Nat) (s : State) : Host.Outcome State Fault Refusal :=
  s.run (fun d => if d.serving then d.hashFence eng else d)

end Sys2Proof.Machine
end

