-- ==== Sys2Proof/Machine/Dma.lean ====
section
/-! DEFINITION. Access to the DMA space of the host (R448, R449) and of the peer (R465). -/

namespace Sys2Proof.Machine

/-- The negotiated version of the Rope; 0 outside UP (R468). -/
def Dev.ropeVer (d : Dev) : Nat := d.ioFld R.ropeStat 3 2

/-- Bus Master Enable of a function (R448). -/
def Dev.busMaster (d : Dev) (fn : Nat) : Bool := d.host.bme.getD fn false

/-- The code of a command of master `m` that needs its DMA space: NOT_OWNER while Bus Master Enable of PF0 is 0 (R448),
VERSION_MISMATCH for the peer under version 1 (R465). -/
def Dev.dmaCode (d : Dev) (m : Nat) : Nat :=
  if m = 3 && !d.busMaster 0 then Code.notOwner
  else if m = 4 && d.ropeVer < 2 then Code.versionMismatch
  else Code.ok

/-- Write into the DMA space of a master; the host's has no link while PE_PERST_N is low (R508). -/
def Dev.dmaWrite (d : Dev) (m addr : Nat) (bs : Bytes) : Dev :=
  if bs.isEmpty || (m = 3 && d.elec.perst) then d
  else if m = 4 then d.emit (.peerWrite addr bs)
  else d.emit (.hostWrite addr bs)

/-- Read from the DMA space of a master: the data arrive with HOST_READ_COMPLETION or a DMA frame. -/
def Dev.dmaRead (d : Dev) (m addr len : Nat) (use : DmaUse) : Dev :=
  let t := d.host.nextTag
  let d := d.onHost (fun h => { h with reads := spPut h.reads t ⟨m, addr, len, use⟩, nextTag := t + 1 })
  if m = 4 then d.emit (.peerRead t addr len) else if d.elec.perst then d else d.emit (.hostRead t addr len)

end Sys2Proof.Machine
end

