-- ==== Sys2Proof/Machine/SessOps.lean ====
section
/-! DEFINITION. Sessions (chapter 05): their records and profiles, the frames the session stage and egress crypto
build, acknowledgements, the send window, notifications and the abort of R139. -/

namespace Sys2Proof.Machine

/-! ## Sequence numbers of TCP -/

/-- A sequence number of 32 bits. -/
def add32 (a b : Nat) : Nat := (a + b) % 2 ^ 32

/-- The distance from `b` to `a`. -/
def sub32 (a b : Nat) : Nat := (a + 2 ^ 32 - b % 2 ^ 32) % 2 ^ 32

/-- `a` does not follow `b`. -/
def seqLe (a b : Nat) : Bool := sub32 b a < 2 ^ 31

/-- `a` precedes `b`. -/
def seqLt (a b : Nat) : Bool := a % 2 ^ 32 ≠ b % 2 ^ 32 && seqLe a b

/-! ## Records, counters and profiles -/

/-- A counter of the session stage. -/
def Dev.sessCount (d : Dev) (i : Nat) : Dev := d.bump (R.sessCnt + 4 * i)

/-- A session that is not free. -/
def Dev.ses (d : Dev) (n : Nat) : Option Session := spFind d.sess.tab n

/-- Write a session's record. -/
def Dev.setSes (d : Dev) (n : Nat) (s : Session) : Dev := d.onSess (fun x => { x with tab := spPut x.tab n s })

/-- Change a session's record, if there is one. -/
def Dev.updSes (d : Dev) (n : Nat) (f : Session → Session) : Dev :=
  match d.ses n with | some s => d.setSes n (f s) | none => d

/-- Word `w` of congestion profile `p` in generation `gen` (R140). -/
def Dev.profile (d : Dev) (gen p w : Nat) : Nat := d.at gen (R.sessCc0 + 0x10 * p + 4 * w)

/-- A session is used: it becomes the latest of the hot cache, which evicts the least recently used (R128). -/
def Dev.touchSes (d : Dev) (n : Nat) : Dev := d.onSess (fun x => { x with hot := (n :: x.hot.erase n).take 98304 })

/-- Keep a retransmission timeout within the profile's limits, in drips (R140). -/
def Dev.clampRto (d : Dev) (gen p r : Nat) : Nat :=
  let w := d.profile gen p 1
  Nat.max (16 * bits w 15 0) (Nat.min r (1024 * bits w 31 16))

/-- One second in drips: the first timeout (PRESUMED: RFC 6298). -/
def Dev.secondDrips (d : Dev) : Nat := 2000000 / 2 ^ d.ioFld R.dripCfg 1 0

/-! ## Frames -/

/-- The ones' complement sum of a byte string's 16-bit words. -/
def onesSum : Bytes → Nat
  | [] => 0
  | [a] => 256 * a.toNat
  | a :: b :: r => 256 * a.toNat + b.toNat + onesSum r

/-- The Internet checksum. -/
def inetSum (bs : Bytes) : Nat :=
  let s := onesSum bs
  let m := s % 0xFFFF
  0xFFFF - (if m = 0 ∧ s ≠ 0 then 0xFFFF else m)

/-- The Ethernet frame of a TCP segment of a session (R136). `v` is a free value: it gives the fields the manual does not
state (identification, hop limit, traffic class, window, timestamp value). -/
def Session.frame (s : Session) (v seq ack flags : Nat) (opts payload : Bytes) : Bytes :=
  let i := s.id
  let n := if i.v6 then 16 else 4
  let len := 20 + opts.length + payload.length
  let pseudo := beBytes n i.laddr ++ beBytes n i.raddr ++ beBytes 4 len ++ beBytes 4 6
  let tcp (c : Nat) : Bytes := beBytes 2 i.lport ++ beBytes 2 i.rport ++ beBytes 4 seq ++ beBytes 4 ack
    ++ beBytes 1 ((20 + opts.length) / 4 * 16) ++ beBytes 1 flags ++ beBytes 2 (v / 2 ^ 32) ++ beBytes 2 c ++ [0, 0]
    ++ opts ++ payload
  let ip4 (c : Nat) : Bytes := [0x45] ++ beBytes 1 (v / 2 ^ 26 * 4) ++ beBytes 2 (20 + len) ++ beBytes 2 v
    ++ [0, 0] ++ beBytes 1 (v / 2 ^ 16) ++ [6] ++ beBytes 2 c ++ beBytes 4 i.laddr ++ beBytes 4 i.raddr
  let ip : Bytes := if i.v6 then beBytes 4 (0x60000000 + v % 2 ^ 20) ++ beBytes 2 len ++ [6] ++ beBytes 1 (v / 2 ^ 24)
      ++ beBytes 16 i.laddr ++ beBytes 16 i.raddr
    else ip4 (inetSum (ip4 0))
  beBytes 6 i.dmac ++ beBytes 6 i.smac ++ beBytes 2 (if i.v6 then 0x86DD else 0x0800) ++ ip
    ++ tcp (inetSum (pseudo ++ tcp 0))

/-- The timestamps option, when it is in use (R130). -/
def Session.tsOpt (s : Session) (v : Nat) : Bytes :=
  if s.rx.tsOn then [1, 1, 8, 10] ++ beBytes 4 (v / 2 ^ 64) ++ beBytes 4 s.rx.tsRecent else []

/-- The isolated runs of sequence numbers held out of order, as first, end and the order of its latest segment; segments that meet
or overlap are one run. -/
def Session.oooRuns (s : Session) : List (Nat × Nat × Nat) :=
  s.rx.ooo.foldl (fun (l : List (Nat × Nat × Nat)) o =>
    let e := add32 o.seq (o.data.length + b2n o.fin)
    match l with
    | (a, b, k) :: r =>
      if seqLe o.seq b then (a, if seqLe e b then b else e, Nat.max k o.order) :: r else (o.seq, e, o.order) :: (a, b, k) :: r
    | [] => [(o.seq, e, o.order)]) []

/-- Put a run before those that grew earlier. -/
def insertRun (x : Nat × Nat × Nat) : List (Nat × Nat × Nat) → List (Nat × Nat × Nat)
  | [] => [x]
  | y :: l => if y.2.2 < x.2.2 then x :: y :: l else y :: insertRun x l

/-- The runs an acknowledgement reports, at most 3 (R130): that of the latest segment first, then the others from the one that
grew last (PRESUMED: RFC 2018). -/
def Session.sackRuns (s : Session) : List (Nat × Nat) :=
  ((s.oooRuns.foldl (fun l x => insertRun x l) []).take 3).map (fun x => (x.1, x.2.1))

/-- The SACK option, when segments are held. -/
def Session.sackOpt (s : Session) : Bytes :=
  let l := s.sackRuns
  if s.rx.sackOn && !l.isEmpty then
    [1, 1, 5, BitVec.ofNat 8 (2 + 8 * l.length)] ++ l.flatMap (fun x => beBytes 4 x.1 ++ beBytes 4 x.2)
  else []

/-- The options of a SYN or SYN-ACK: MSS, window scaling, SACK and timestamps where the session offers them (R130). -/
def Session.synOpts (s : Session) (v mss : Nat) : Bytes :=
  [2, 4] ++ beBytes 2 mss ++ [1, 3, 3, BitVec.ofNat 8 s.rx.scale] ++ (if s.rx.sackOn then [1, 1, 4, 2] else [])
    ++ s.tsOpt v

/-- A pure acknowledgement (R135). -/
def Session.ackFrame (s : Session) (v : Nat) : Bytes :=
  s.frame v s.tx.nxt s.rx.nxt 0x10 (s.tsOpt v ++ s.sackOpt) []

/-- The generation of what the session stage does of itself, outside a segment: the one last flipped, so that every group's LIVE
bank is used. -/
def Dev.sesGen (d : Dev) : Nat := d.drip.gen

/-- A frame the session stage built, of a session if it belongs to one. -/
def rawEntry (gen mac bay : Nat) (n : Option Nat) (f : Bytes) : EgPkt :=
  ⟨{ Pkt.empty with gen := gen }, bay, n.map (fun n => ⟨n, 0⟩), none, f, mac⟩

/-- A frame the session stage built enters the FIFO of its bay directly (R137). -/
def Dev.pushRaw (d : Dev) (bay : Nat) (n : Option Nat) (f : Bytes) : Dev :=
  d.setFifo bay (d.fifo bay ++ [rawEntry d.sesGen (d.bayMac bay) bay n f])

/-- A frame of session `n`, built with the next free value, enters the FIFO. -/
def Dev.pushSes (d : Dev) (n : Nat) (s : Session) (f : Nat → Bytes) : Dev := d.freeStep.pushRaw s.id.bay (some n) (f d.freeVal)

/-- A reset of a session: RST with the next number to send. -/
def Session.rstFrame (s : Session) (v : Nat) : Bytes := s.frame v s.tx.nxt s.rx.nxt 0x14 [] []

/-- An acknowledgement of generation `gen` takes the next number of the session's domain and the direct path to its bay (R135). -/
def Dev.emitAck (d : Dev) (n gen : Nat) : Dev :=
  match d.ses n with
  | none => d
  | some s =>
    let (q, d) := (d.setSes n { s with rx := { s.rx with ackPend := 0 } }).takeSeq s.id.domain
    d.reorderEnter ⟨s.id.domain, q, some { Pkt.empty with
      session := some n, domain := s.id.domain, seq := some q, bay := s.id.bay, egress := s.id.bay, gen := gen }, s.id.bay, d.drip.now, some ⟨n, 0⟩⟩

/-! ## Notifications and aborts -/

/-- The task that handles a session's handshake and its priority: its listener's in generation `gen` (R129), or that of the
OPEN's issuer. -/
def Dev.hsTask (d : Dev) (gen : Nat) (s : Session) : Option (Nat × Nat) :=
  match s.id.listener with
  | some l => let w := d.at gen (R.sessLsn1 + 8 * l); some (bits w 15 0, bits w 19 16)
  | none => s.id.task.map (fun t => (t, s.id.prio))

/-- A packet goes to the task that handles its session. The issuer of an OPEN that runs no task has it from a keeper: a thread
from that of its gallery, a master from the head keeper (assumption 53). -/
def Dev.toHandler (d : Dev) (gen : Nat) (s : Session) (p : Pkt) : Dev :=
  match d.hsTask gen s with
  | some (t, pr) => d.enqueueTask { p with task := t, prio := pr }
  | none => d.enqueueExc (match tidOfTag s.id.issuer with | some id => id.g | none => 0) p

/-- A notification task names the session and, in its argument, a cause whose code is open (R139, R143); it holds no number, and
carries the message in `c` if there is one. -/
def Dev.notifyWith (d : Dev) (n gen : Nat) (c : Chain) (len : Nat) : Dev :=
  match d.ses n with
  | none => d.freeChain c
  | some s => d.freeStep.toHandler gen s { Pkt.empty with
      chain := c, len := len, taskArg := d.freeVal % 2 ^ 16, session := some n, domain := s.id.domain, bay := s.id.bay,
      gen := d.sesGen }

/-- A notification without a message. -/
def Dev.notifySes (d : Dev) (n gen : Nat) : Dev := d.notifyWith n gen Chain.null 0

/-- Free every chain a session holds; packets that wait with it are dropped. -/
def Dev.freeSes (d : Dev) (n : Nat) : Dev :=
  match d.ses n with
  | none => d
  | some s =>
    let d := s.tx.items.foldl (fun d i => d.freeChain i.chain) d
    let d := s.tx.sendq.foldl (fun d e => d.freeChain e.pkt.chain) d
    let d := s.rx.ooo.foldl (fun d o => d.freeChain o.chain) d
    let d := s.rx.held.foldl (fun d p => d.dropPkt p.1) (d.freeChain s.rx.chain)
    d.setSes n { s with
      tx := { s.tx with items := [], sendq := [], segs := [], timer := none },
      rx := { s.rx with ooo := [], held := [], hsWait := [], chain := Chain.null, buf := [], ackPend := 0 } }

/-- A session moves to CLOSED. -/
def Dev.closeSes (d : Dev) (n : Nat) : Dev :=
  (d.freeSes n).updSes n (fun s => { s with state := .closed, closedAt := d.drip.now })

/-! ## Records sent (R144) -/

/-- The records of a plaintext, cut at `recMax`, with the KeyUpdates of R144 ahead of them; without a transmit key, or
for content type 20, the records are not protected. -/
def sealStream (rekey recMax content : Nat) : Nat → SessTls → Bytes → Bytes × SessTls
  | 0, t, _ => ([], t)
  | f + 1, t, bs =>
    if bs = [] then ([], t)
    else match (if content = 20 then none else t.txSecret) with
      | none =>
        let (r, t) := sealStream rekey recMax content f t (bs.drop recMax)
        (recHeader content (Nat.min bs.length recMax) ++ bs.take recMax ++ r, t)
      | some k =>
        if t.txPhase = 2 && 2 ^ rekey ≤ t.txNum then
          let u := sealRecord t.txSuite k t.txNum 22 [24, 0, 0, 1, 0]
          let (r, t) := sealStream rekey recMax content f { t with txSecret := some (nextSecret t.txSuite k), txNum := 0 } bs
          (u ++ r, t)
        else
          let u := sealRecord t.txSuite k t.txNum content (bs.take recMax)
          let (r, t) := sealStream rekey recMax content f { t with txNum := t.txNum + 1 } (bs.drop recMax)
          (u ++ r, t)

/-! ## Aborts -/

/-- The alert record of a description (R139, R143): protected when the session has a transmit key, and then behind the
KeyUpdate that R144 puts ahead of the next record. -/
def Dev.alert (d : Dev) (gen : Nat) (s : Session) (level desc : Nat) : Bytes × SessTls :=
  let b : Bytes := [BitVec.ofNat 8 level, BitVec.ofNat 8 desc]
  if s.tls.txSecret.isNone then (recHeader 21 2 ++ b, s.tls) else sealStream (d.atFld gen R.sessCfg 4 0) 2 21 3 s.tls b

/-- An abort (R139): a fatal alert for TLS unless `quiet`, RST, every chain freed, CLOSED, counted, and a notification.
`desc` is the alert; none: one the manual does not state. `gen` is the generation of what led to it. -/
def Dev.abortSes (d : Dev) (n gen : Nat) (quiet : Bool) (desc : Option Nat) : Dev :=
  match d.ses n with
  | none => d
  | some s =>
    if s.state = .closed then d
    else
      let (a, t) := d.alert gen s 2 (desc.getD (d.freeVal % 256))
      let s' : Session := { s with tls := t, tx := { s.tx with nxt := add32 s.tx.nxt a.length } }
      let (d, s) := if s.id.tls && !quiet && !s.isInner && s.state ≠ .syn then
          ((d.freeStep.pushSes n s (fun v => s.frame v s.tx.nxt s.rx.nxt 0x18 (s.tsOpt v) a)).setSes n s', s')
        else (d, s)
      let d := if s.isInner then d else d.pushSes n s (fun v => s.rstFrame v)
      ((d.closeSes n).sessCount 5).notifySes n gen

/-! ## Sending (R136, R137) -/

/-- The largest payload of a segment, beside the options in use. -/
def Session.segMax (s : Session) : Nat := Nat.max 1 (s.id.mss - (if s.rx.tsOn then 12 else 0))

/-- Cut a stream into segments from sequence number `seq` on. -/
def cutSegs (m : Nat) : Nat → Nat → Bytes → List TxSeg
  | 0, _, _ => []
  | f + 1, seq, bs =>
    if bs = [] then []
    else ⟨seq, Nat.min bs.length m, bs.take m, false, [], false⟩ :: cutSegs m f (add32 seq m) (bs.drop m)

/-- A stream joins what the session has to send; `c` is the chain kept until its last byte is acknowledged. -/
def Session.queueStream (s : Session) (c : Chain) (bs : Bytes) : Session :=
  let stop := add32 s.tx.top bs.length
  { s with tx := { s.tx with
      segs := s.tx.segs ++ cutSegs s.segMax bs.length s.tx.top bs, top := stop,
      items := if c.count = 0 then s.tx.items else s.tx.items ++ [⟨c, stop⟩] } }

/-- Session data is cut into records and segments (R136); data with a poisoned cell is dropped and freed (R470). -/
def Dev.cutData (d : Dev) (n : Nat) (e : EgPkt) (sd : SessData) : Dev :=
  match d.ses n with
  | none => d
  | some s =>
    if d.chainPoisoned e.pkt.chain then (d.countChain e.pkt.chain).freeChain e.pkt.chain
    else
    let bs := d.chainBytes e.pkt.chain 0 e.pkt.len
    let gen := e.pkt.gen
    let (r, t) := if s.id.tls then
        sealStream (d.atFld gen R.sessCfg 4 0) (d.atFld gen R.sessRecMax 14 0) sd.content (2 * bs.length + 2) s.tls bs
      else (bs, s.tls)
    let d := if bs = [] then d.freeChain e.pkt.chain else d
    d.setSes n ({ s with tls := t }.queueStream (if bs = [] then Chain.null else e.pkt.chain) r)

/-- Bytes the peer's window and the congestion window still allow. -/
def Session.room (s : Session) : Nat := Nat.min s.tx.cwnd s.tx.wnd - sub32 s.tx.nxt s.tx.una

/-- The first segment that has not been sent. -/
def Session.unsent (s : Session) : Option TxSeg := s.tx.segs.find? (fun g => g.frame = [])

/-- The frame a segment is first sent as. -/
def Session.segFrame (s : Session) (v : Nat) (g : TxSeg) : Bytes :=
  s.frame v g.seq s.rx.nxt (if g.fin then 0x11 else 0x18) (s.tsOpt v) g.payload

/-- Record that a segment was sent now: its frame is kept, the timer runs, and it acknowledges what was received. -/
def Session.markSent (s : Session) (now : Nat) (g : TxSeg) (f : Bytes) : Session :=
  { s with
    tx := { s.tx with
      segs := s.tx.segs.map (fun x => if x.seq = g.seq && x.fin = g.fin then { x with frame := f } else x),
      nxt := add32 g.seq g.len,
      timer := some (s.tx.timer.getD (now + s.tx.rto)),
      timed := some (s.tx.timed.getD (add32 g.seq g.len, now)) },
    rx := { s.rx with ackPend := 0 } }

/-- Send what the window allows: segments that were cut, then data that waits in the send queue, then FIN. Answers the
frames, oldest first. -/
def Dev.pump : Nat → Dev → Nat → List Bytes × Dev
  | 0, d, _ => ([], d)
  | f + 1, d, n =>
    match d.ses n with
    | none => ([], d)
    | some s =>
      match s.unsent with
      | some g =>
        if g.payload.length ≤ s.room then
          let fr := s.segFrame d.freeVal g
          let (r, d) := Dev.pump f (d.freeStep.setSes n (s.markSent d.drip.now g fr)) n
          (fr :: r, d)
        else ([], d)
      | none =>
        match s.tx.sendq with
        | e :: q =>
          if s.room = 0 then ([], d)
          else
            let d := d.setSes n { s with tx := { s.tx with sendq := q } }
            Dev.pump f (match e.sess with | some sd => d.cutData n e sd | none => d) n
        | [] =>
          if s.tx.finAsked && !s.tx.finSent then
            let g : TxSeg := ⟨s.tx.top, 1, [], true, [], false⟩
            Dev.pump f (d.setSes n { s with tx := { s.tx with
              segs := s.tx.segs ++ [g], top := add32 s.tx.top 1, finSent := true } }) n
          else ([], d)

/-- Steps a pump of session `n` can take. -/
def Dev.pumpFuel (d : Dev) (n : Nat) : Nat :=
  match d.ses n with
  | none => 0
  | some s => s.tx.segs.length + 3 + (s.tx.sendq.map (fun e => 40 * e.pkt.len + 4)).foldl (· + ·) 0

/-- What the window allows enters the FIFO of the session's bay. -/
def Dev.pumpOut (d : Dev) (n : Nat) : Dev :=
  match d.ses n with
  | none => d
  | some s =>
    let (l, d) := d.pump (d.pumpFuel n) n
    l.foldl (fun d f => d.pushRaw s.id.bay (some n) f) d

/-- The first unacknowledged segment that SACK does not cover is sent again, as it was (R137). -/
def Dev.resendFirst (d : Dev) (n : Nat) : Dev :=
  match d.ses n with
  | none => d
  | some s => match s.tx.segs.find? (fun g => g.frame ≠ [] && !g.sacked) with
    | some g => d.pushRaw s.id.bay (some n) g.frame
    | none => d

/-- Cells of data a session keeps or has queued: unacknowledged, in its send queue, in FIFOs and in the reorder stage
(R137). -/
def Dev.sendCells (d : Dev) (n : Nat) : Nat :=
  let mine (sd : Option SessData) : Bool := match sd with | some x => x.session = n && x.content ≠ 0 | none => false
  let own := match d.ses n with
    | some s => ((s.tx.items.map (fun i => i.chain.count)) ++ (s.tx.sendq.map (fun e => e.pkt.chain.count)))
    | none => []
  let fifo := d.egrs.fifos.flatMap (fun f => (f.2.filter (fun e => mine e.sess)).map (fun e => e.pkt.chain.count))
  let ro := (d.egrs.waiting.filter (fun e => mine e.sess)).map (fun e => match e.pkt with
    | some p => p.chain.count | none => 0)
  (own ++ fifo ++ ro).foldl (· + ·) 0

/-- A session whose unacknowledged and queued data exceeds snd_limit is aborted (R137). -/
def Dev.sendLimit (d : Dev) (n gen : Nat) : Dev :=
  match d.ses n with
  | none => d
  | some s => if bits (d.profile gen s.id.profile 3) 15 0 < d.sendCells n then d.abortSes n gen false none else d

end Sys2Proof.Machine
end

