-- ==== Sys2Proof/Machine/Macsec.lean ====
section
/-! DEFINITION. The timestamp units of the line MACs (R367 to R369) and MACsec on both directions (R122 to R126). -/

namespace Sys2Proof.Machine

/-! ## Stamps -/

/-- A user calibration value in picoseconds, by its STRG offset (R370). -/
def Dev.ucal (d : Dev) (o : Nat) : Int := toSigned 32 (spGet 0 d.strong.ucal o).toNat

/-- A factory delay of line-mode code `k`: unused codes hold 0 (R506). -/
def fuseDelay (base k : Nat) : Int := if k ≤ 9 then Config.fuse (base + k) else 0

/-- The stamp of MAC `m` in ns (R369): halves rounded up; `tx` adds the transmit delays, else the receive delays are
taken off. -/
def Dev.stamp (d : Dev) (m : Nat) (tx : Bool) : Nat :=
  let k := d.liveFld (R.portMacCfg + 4 * m) 24 21
  let t2 : Int := 2 * ((d.strong.time * 1000 / 256 : Nat) : Int)
  let a := d.ucal (0x3000 + 16 * m + 8)
  let x := if tx then t2 + 2 * fuseDelay 16 k + 2 * d.ucal (0x3000 + 16 * m + 4) - a
    else t2 - 2 * fuseDelay 0 k - 2 * d.ucal (0x3000 + 16 * m) - a
  ((x + 1000) / 2000).toNat % 2 ^ 64

/-- The arrival stamp of a frame; none when it is not valid (R367). -/
def Dev.rxStamp (d : Dev) (m : Nat) : Option Nat := if d.stampValid then some (d.stamp m false) else none

/-- Skip at most two VLAN tags: the offset of the EtherType that follows them. -/
def afterTags (f : Bytes) : Nat :=
  let tag (o : Nat) : Bool := beAt f o 2 = 0x8100 || beAt f o 2 = 0x88A8
  if tag 12 then (if tag 16 then 20 else 16) else 12

/-- Where the PTP header of a frame begins, for the encapsulations of R368. -/
def ptpOffset (f : Bytes) : Option Nat :=
  let o := afterTags f
  let t := beAt f o 2
  if t = 0x88F7 then some (o + 2)
  else if t = 0x0800 then
    let l := 4 * (beAt f (o + 2) 1 % 16)
    if beAt f (o + 11) 1 = 17 && beAt f (o + 2 + l + 2) 2 = 319 then some (o + 2 + l + 8) else none
  else if t = 0x86DD then
    if beAt f (o + 8) 1 = 17 && beAt f (o + 44) 2 = 319 then some (o + 50) else none
  else none

/-- The bits of a stamp-ring entry (R368). -/
def egtsEntry (t m : Nat) (f : Bytes) (o : Nat) (bad : Bool) : Bytes :=
  leBytes 8 t ++ leBytes 1 m ++ leBytes 1 (beAt f o 1 % 16) ++ leBytes 1 (beAt f (o + 4) 1) ++ leBytes 1 (b2n bad)
    ++ leBytes 2 (beAt f (o + 30) 2) ++ [0, 0]

/-- A transmitted event message writes an entry to the egress stamp ring (R368); the pointer moves at the boundary. -/
def Dev.egressStamp (d : Dev) (m : Nat) (f : Bytes) : Dev :=
  match ptpOffset f with
  | none => d
  | some o =>
    if o < f.length && beAt f o 1 % 16 ≤ 3 && d.strong.powered then
      d.onStrong (fun s => { s with
        egts := spPut s.egts ((s.egtsWp + s.egtsNew) % 4096) (egtsEntry (d.stamp m true) m f o (!d.stampValid)),
        egtsNew := s.egtsNew + 1 })
    else d

/-! ## MACsec -/

/-- A counter of a MAC's MACsec (R124). -/
def Dev.msecCount (d : Dev) (m i : Nat) : Dev := d.bump (R.ciphMsecCnt + 0x20 * m + 4 * i)

/-- The first word of a MAC's MACsec configuration, in the LIVE bank (R126). -/
def Dev.msec (d : Dev) (m : Nat) : Nat := d.live (R.ciphMsecMac0 + 8 * m)

/-- The base offset of SA record `i`. -/
def saOff (i : Nat) : Nat := 0x80 * i

/-- The valid SAs of a MAC and direction in the LIVE bank, as index and control word. -/
def Dev.macSas (d : Dev) (m : Nat) (tx : Bool) : List (Nat × Nat) :=
  (if (d.group (groupOfKey R.ciphSaCtl)).liveB then d.csr.bankB else d.csr.bankA).filterMap (fun e =>
    let w := e.2.toNat
    if R.ciphSaCtl ≤ e.1 ∧ e.1 < R.ciphSaCtl + 0x80 * 1024 ∧ (e.1 - R.ciphSaCtl) % 0x80 = 0
      ∧ bitOf w 11 ∧ bits w 5 0 = m ∧ bitOf w 6 = tx
    then some ((e.1 - R.ciphSaCtl) / 0x80, w) else none)

/-- Little-endian bytes of `n` LIVE words from offset `o`. -/
def Dev.liveBytes (d : Dev) (o n : Nat) : Bytes := (List.range n).flatMap (fun i => leBytes 4 (d.live (o + 4 * i)))

/-- The SCI of SA `i`. -/
def Dev.saSci (d : Dev) (i : Nat) : Nat := d.live (R.ciphSaSci + saOff i) + 2 ^ 32 * d.live (R.ciphSaSci + saOff i + 4)

/-- The 96-bit nonce of packet number `pn` under SA `i`: the salt with the SSCI and the number. -/
def Dev.saNonce (d : Dev) (i pn : Nat) : Bytes :=
  List.zipWith (· ^^^ ·) (d.liveBytes (R.ciphSaSsci + saOff i + 4) 3) (beBytes 4 (d.live (R.ciphSaSsci + saOff i)) ++ beBytes 8 pn)

/-- The key of SA `i`. -/
def Dev.saKey (d : Dev) (i : Nat) : Bytes := d.liveBytes (R.ciphSaSak + saOff i) 8

/-- The live next packet number of SA `i`. -/
def Dev.nextPn (d : Dev) (i : Nat) : Nat := d.io64 (R.ciphSaNextpn + saOff i)

/-- The clear bytes of secure data under a MAC's confidentiality offset and encrypt bit (R123). -/
def msecClear (w len : Nat) (encrypt : Bool) : Nat :=
  if encrypt then Nat.min len ([0, 30, 50, 0].getD (bits w 3 2) 0) else len

/-- Protect a frame with the current transmit SA (R125): the frame to send, or none when it is dropped. The next packet number,
which rises by 1, passes pn_warn_at when this frame takes that number. -/
def Dev.protectFrame (d : Dev) (m : Nat) (f : Bytes) : Option Bytes × Dev :=
  let w := d.msec m
  if !bitOf w 0 then (some f, d)
  else match (d.macSas m true).find? (fun s => bits s.2 10 9 = bits w 8 7) with
    | none => (none, d.msecCount m 4)
    | some (i, c) =>
      let pn := d.nextPn i
      if 2 ^ 64 - 1 ≤ pn then (none, d.msecCount m 4)
      else
        let body := f.drop 12
        let enc := bitOf w 4
        let tci := b2n (bitOf w 5) * 0x20 + b2n enc * 0x0C + bits c 10 9
        let tag := [0x88, 0xE5] ++ beBytes 1 tci ++ beBytes 1 (if body.length < 48 then body.length else 0) ++ beBytes 4 pn
          ++ (if bitOf w 5 then beBytes 8 (d.saSci i) else [])
        let k := msecClear w body.length enc
        let aad := f.take 12 ++ tag ++ body.take k
        let out := f.take 12 ++ tag ++ body.take k ++ aeadSeal 2 (d.saKey i) (d.saNonce i pn) aad (body.drop k)
        let d := d.setIo64 (R.ciphSaNextpn + saOff i) (pn + 1)
        let at_ := d.live (R.ciphSaWarnLo + saOff i) + 2 ^ 32 * d.live (R.ciphSaWarnHi + saOff i)
        let d := if pn = at_ then
            (d.setIoFld (R.ciphSaCtl + saOff i) 12 12 1).keeperEvent 0 Ev.dev
          else d
        (some out, d)

/-- The lowest acceptable packet number of an SA: the next expected less the replay window, at least 1 (PRESUMED: IEEE 802.1AE,
assumption 7). -/
def lowestPn (next window : Nat) : Nat := Nat.max 1 (next - window)

/-- The full packet number of a received 32-bit one under GCM-AES-XPN (PRESUMED: IEEE 802.1AE, assumption 7): the upper half of the
lowest acceptable number, one more where that number has bit 31 set and the received one has it clear. -/
def recoverPn (lowest low : Nat) : Nat :=
  lowest / 2 ^ 32 * 2 ^ 32 + low + (if bitOf lowest 31 && !bitOf low 31 then 2 ^ 32 else 0)

/-- A frame after a MACsec failure counted in counter `i`: dropped under Strict, delivered as `f` under Check (R124). -/
def Dev.msecFail (d : Dev) (m i : Nat) (f : Bytes) : Option Bytes × Dev :=
  let d := d.msecCount m i
  (if bitOf (d.msec m) 1 then none else some f, d)

/-- The parts of a frame's SecTAG and secure data (PRESUMED: IEEE 802.1AE): the octet of flags, the tag's length from the
EtherType on, the packet number's low half, the secure data and the ICV. A short length other than 0 gives the length of the
data; what follows the ICV is padding. -/
structure SecFrame where
  tci : Nat
  tl : Nat
  low : Nat
  body : Bytes
  icv : Bytes
  deriving DecidableEq, Repr

/-- Read a frame with a SecTAG; the Bool says that its tag is one that 802.1AE lets a receiver take: version 0, SC not set beside
ES or SCB, E not without C, a short length below 48, and data as long as the tag says. -/
def readSec (f : Bytes) : Bool × SecFrame :=
  let tci := beAt f 14 1
  let sl := beAt f 15 1
  let sc := bitOf tci 5
  let tl := if sc then 16 else 8
  let all := f.length - (12 + tl) - 16
  let n := if sl = 0 then all else Nat.min sl all
  let rest := f.drop (12 + tl)
  let ok := !bitOf tci 7 && !((bitOf tci 6 || bitOf tci 4) && sc) && !(bitOf tci 3 && !bitOf tci 2) && sl < 48
    && 12 + tl + 16 + (if sl = 0 then 48 else sl) ≤ f.length
  (ok, ⟨tci, tl, beAt f 16 4, rest.take n, (rest.drop n).take 16⟩)

/-- The SCI of a frame: that of its tag, or with ES set the source address and port 1; otherwise the tag leaves it open. -/
def SecFrame.sci (t : SecFrame) (f : Bytes) : Option Nat :=
  if bitOf t.tci 5 then some (beAt f 20 8)
  else if bitOf t.tci 6 then some (beAt f 6 6 * 2 ^ 16 + 1)
  else none

/-- A receive SA is that of a frame: its AN, and its SCI where the tag names one (R122). -/
def Dev.saTakes (d : Dev) (f : Bytes) (t : SecFrame) (s : Nat × Nat) : Bool :=
  bits s.2 10 9 = t.tci % 4 && (match t.sci f with | some x => d.saSci s.1 = x | none => true)

/-- Validate a received frame (R124): the frame without SecTAG and ICV, or none when it is dropped. A frame whose tag is
malformed, or whose packet number is 0, fails as one with a bad ICV does (assumption 53). -/
def Dev.validateFrame (d : Dev) (m : Nat) (f : Bytes) : Option Bytes × Dev :=
  let w := d.msec m
  if !bitOf w 0 || beAt f 12 2 = 0x888E then (some f, d)
  else if beAt f 12 2 ≠ 0x88E5 then
    if bitOf w 1 then (none, d.msecCount m 3) else (some f, d)
  else
    let (ok, t) := readSec f
    let plain := f.take 12 ++ t.body
    if !ok then d.msecFail m 0 plain
    else match (d.macSas m false).find? (d.saTakes f t) with
      | none => d.msecFail m 2 plain
      | some (i, _) =>
        let next := d.nextPn i
        let lowest := lowestPn next (d.live (R.ciphMsecMac1 + 8 * m))
        let pn := recoverPn lowest t.low
        if pn = 0 then d.msecFail m 0 plain
        else if bitOf w 6 && pn < lowest then d.msecFail m 1 plain
        else
          let k := msecClear w t.body.length (bitOf t.tci 3)
          let aad := f.take (12 + t.tl) ++ t.body.take k
          match aeadOpen 2 (d.saKey i) (d.saNonce i pn) aad (t.body.drop k ++ t.icv) with
          | none => d.msecFail m 0 plain
          | some p =>
            let d := if next ≤ pn then d.setIo64 (R.ciphSaNextpn + saOff i) (pn + 1) else d
            (some (f.take 12 ++ t.body.take k ++ p), d)

end Sys2Proof.Machine
end

