-- ==== Sys2Proof/Machine/SrOps.lean ====
section
/-! DEFINITION. The Strongroom's commands (R361, R374 to R378), its seal (R372) and its timescale (R362 to R365): the
operations that its rows and the boundary share. -/

namespace Sys2Proof.Machine

/-! ## The timescale -/

/-- Point `i` of the oscillator curve (R388): temperature in °C and deviation in ppb. -/
def curvePoint (i : Nat) : Int × Int :=
  let w := Config.srWord (0x2000 + 4 * i) % 2 ^ 32
  (toSigned 8 (w % 256), toSigned 24 (w / 256))

/-- The curve at a temperature: linear between its neighbours, the nearest end point outside (R364); the points rise in
temperature. -/
def curveAt (t : Int) : List (Int × Int) → Int
  | [] => 0
  | [p] => p.2
  | p :: q :: l =>
    if t ≤ p.1 then p.2
    else if t < q.1 then p.2 + (q.2 - p.2) * (t - p.1) / (q.1 - p.1)
    else curveAt t (q :: l)

/-- The correction in ppb at a temperature: the negated curve value (R364, assumption 59). -/
def curveCorr (t : Int) : Int := -curveAt t ((List.range 32).map curvePoint)

/-- The Strongroom enters a state of the timescale: a TIME record tells it (R382); where the error bound is open, it is
drawn. HOLDOVER begins with the correction for the last temperature, an open one before any sample (R364). -/
def Dev.timeState (d : Dev) (new : Nat) : Dev :=
  let old := d.strong.state
  if old = new then d
  else
    let v := d.freeVal
    let d := d.freeStep.onStrong (fun s => { s with
      state := new, err := v, hold := 0, near := 0, far := 0, slew := 0, corrRest := 0,
      corr := if new = 4 then curveCorr (s.dieTemp.getD (toSigned 8 (v % 256))) else 0 })
    d.hwRec 6 [] (leBytes 1 old ++ leBytes 1 new ++ [0, 0] ++ leBytes 4 (Nat.min d.strong.errNs 0xFFFFFF))

/-- The reference is lost (R363): LOCKED goes to HOLDOVER, ACQUIRING to FREERUN. -/
def Dev.loseReference (d : Dev) : Dev :=
  let d := d.onStrong (fun s => { s with good := 0, near := 0, far := 0 })
  match d.strong.state with
  | 3 => d.timeState 4
  | 2 => d.timeState 1
  | _ => d

/-- The Strongroom samples its die temperature, by which it corrects the oscillator in HOLDOVER (R364). -/
def Dev.holdTemp (d : Dev) (t : Int) : Dev :=
  if d.strong.powered then
    d.onStrong (fun s => { s with dieTemp := some t, corr := if s.state = 4 then curveCorr t else s.corr })
  else d

/-- The polarity of PPS_IN from the widths of its phases in ns (R365): true for the falling edge. -/
def ppsFalling (high low : Nat) : Bool :=
  let half (x : Nat) : Bool := 499000000 ≤ x && x ≤ 501000000
  if half high && half low then false else low < high

/-- Nanoseconds of a drip (R28). -/
def Dev.dripNs (d : Dev) : Nat := 500 * 2 ^ d.ioFld R.dripCfg 1 0

/-- What ACQUIRING slews in one drip (R363): toward zero by at most 10 µs for each second; how much of that is open. A
count that goes on by `x` is not slewed backward (R362). -/
def Dev.slewBy (d : Dev) (x : Nat) : Int :=
  let s := d.strong
  let most := Nat.min (d.dripNs * 256 / 100000) s.slew.natAbs
  if s.state ≠ 2 then 0
  else if s.slew < 0 then -((d.freeVal % (Nat.min most x + 1) : Nat) : Int)
  else ((d.freeVal % (most + 1) : Nat) : Int)

/-- A drip passes in the Strongroom: the count goes on, in ACQUIRING slewed. The drip and the count follow different
clocks, so how far the count goes is open. -/
def Dev.strongTick (d : Dev) : Dev :=
  if !d.strong.powered then d
  else
    let x := d.freeVal % (512 * d.dripNs)
    let d := d.freeStep
    let y := d.slewBy x
    d.freeStep.onStrong (fun s => { s.pass ((x : Int) + y).toNat with slew := s.slew - y })

/-! ## The seal (R372) -/

/-- The seal breaks: the cause bit is fused; the first break is journalled and makes an incident. -/
def Dev.breakSeal (d : Dev) (c : Nat) : Dev :=
  if !d.strong.powered || c = 0 || 6 < c then d
  else
    let bits := d.strong.cause ||| 2 ^ c
    let first := d.strong.sealOk
    let d := d.onStrong (fun s => { s with sealOk := false, cause := bits })
    if first then (d.hwRec 4 [] (leBytes 4 bits)).incident 25 Code.sealInvalid 0 bits 0 else d

/-- SEAL_OK as the ball drives it (R372, R504). -/
def Dev.sealOkPin (d : Dev) : Bool := d.strong.powered && d.strong.sealOk

/-! ## Commands (R374, R377) -/

/-- The op of a command body. -/
def srOp (b : Bytes) : Nat := leAt b 0 1
/-- The class of a TALLY. -/
def srClass (b : Bytes) : Nat := leAt b 2 2 % 1024
/-- The count increment of a TALLY. -/
def srCount (b : Bytes) : Nat := leAt b 4 4
/-- The amount increment of a TALLY. -/
def srValue (b : Bytes) : Int := toSigned 64 (leAt b 8 8)

/-- A reserved op, field or bit of a body is set (R374, R377). -/
def srBad (b : Bytes) : Bool :=
  let op := srOp b
  4 < op || leAt b 1 1 ≠ 0 || leAt b 2 2 / 1024 ≠ 0 || (op ≠ 0 && (srClass b ≠ 0 || srCount b ≠ 0))
    || (op ≠ 0 && op ≠ 2 && leAt b 8 8 ≠ 0) || (op ≠ 3 && leAt b 16 8 ≠ 0) || leAt b 32 16 ≠ 0

/-- Who sends a command, with the owner tag or master that incident records name. -/
def Dev.srActor (d : Dev) (src : Src) : Nat :=
  match src with
  | .job n => match d.job n with | some j => j.owner | none => 0
  | .master m => if m = 1 then 0 else actorMaster m

/-- BOOK_SRACC permits the issuer the op (R374): galleries for TALLY and STAMP, masters for TOD_SET and CAL_SET, of which
the head keeper is master 2. -/
def Dev.srAllowed (d : Dev) (src : Src) (op : Nat) : Bool :=
  match src with
  | .job n => match d.job n with
    | some j =>
      let a := d.at j.gen R.bookSracc
      if op ≤ 1 then bitOf a j.tid.g else if op ≤ 3 then d.isHead j.tid && bitOf a 18 else op ≠ 4
    | none => false
  | .master m => if op ≤ 1 then false else if op ≤ 3 then bitOf (d.live R.bookSracc) (16 + m) else op ≠ 4

/-- The source of a command whose sender was reset while the Strongroom held it: nobody is told of its end (R502). -/
def Src.gone : Src := .master 0

/-- A command of the Strongroom ends: its tag, or its master's status register. -/
def Dev.srEnd (d : Dev) (src : Src) (code result : Nat) : Dev :=
  match src with
  | .job n => d.finishJob n code result
  | .master m => if m = 0 then d else d.setStat m R.bookSrcmdStat false code

/-- The result goes to the result area; a master's also to its registers (R389). -/
def Dev.srDeliver (d : Dev) (src : Src) (b : Bytes) (res : Bytes) : Dev :=
  match src with
  | .job n => match d.job n with | some j => d.ptrWrite j (j.ptr 40) res | none => d
  | .master m => if m = 0 then d else (d.dmaWrite m (leAt b 24 8) res).setPerWords m R.bookSrcmdRes (wordsOf 8 res)

/-- A refused TALLY makes an incident record (R377); every refusal ends the command. -/
def Dev.srRefuse (d : Dev) (src : Src) (b : Bytes) (code : Nat) : Dev :=
  let d := if srOp b = 0 && src ≠ Src.gone then d.incident 25 code (d.srActor src) (srClass b) 0 else d
  d.srEnd src code 0

/-! ## Calibration blocks (R376) -/

/-- The target of a block. -/
def calTarget (b : Bytes) : Nat := leAt b 20 2

/-- A block has a reserved target, field or bit, or the wrong magic or serial (R376, R377). -/
def calBad (b : Bytes) : Bool :=
  leAt b 0 4 ≠ 0x4C43584B || leAt b 5 3 ≠ 0 || slice b 8 8 ≠ srBytes 0x70 2 || 67 < calTarget b || leAt b 22 2 ≠ 0
    || (if calTarget b = 67 then leAt b 56 8 ≠ 0 else leAt b 36 28 ≠ 0) || leAt b 128 128 ≠ 0

/-- The block's signature holds under the key in force; with no key enrolled an enrolment needs none (R376). -/
def Strong.calSigned (s : Strong) (b : Bytes) : Bool :=
  match s.calKey with
  | some k => Config.verify 3 0 k (slice b 0 64) [] (slice b 64 64)
  | none => true

/-- The code of R377 for a CAL_SET block at its acceptance. -/
def Strong.calCode (s : Strong) (b : Bytes) : Nat :=
  if leAt b 4 1 ≠ 1 then Code.versionMismatch
  else if calBad b then Code.reserved
  else if leAt b 16 4 ≠ s.chg then Code.superseded
  else if !s.calSigned b || !s.sealOk then Code.sealInvalid
  else if s.chg = 0xFFFFFFFF || (s.calKey.isNone && calTarget b ≠ 67) then Code.failEmpty
  else Code.ok

/-- What a block changes (R376). -/
def Strong.calApply (s : Strong) (b : Bytes) : Strong :=
  let t := calTarget b
  let w (i : Nat) : Word := w32 (leAt b (24 + 4 * i) 4)
  let s := { s with chg := s.chg + 1, mramGen := s.mramGen + 1 }
  if t < 64 then
    let o := 0x3000 + 16 * t
    { s with ucal := spSet 0 (spSet 0 (spSet 0 s.ucal o (w 0)) (o + 4) (w 1)) (o + 8) (w 2) }
  else if t = 64 then { s with ucal := spSet 0 s.ucal 0x3400 (w 0) }
  else if t = 65 then { s with ucal := spSet 0 s.ucal 0x3404 (w 0) }
  else if t = 66 then
    let n := ((s.time : Int) + 256 * toSigned 64 (leAt b 24 8)).toNat
    { s with time := n, ppsLast := n / 256 / 10 ^ 9 }
  else { s with calKey := some (slice b 24 32) }

/-- The CALIB record of a change-counter step (R382). -/
def Dev.calRecord (d : Dev) (b : Bytes) : Dev :=
  d.hwRec 3 (sha256 (slice b 0 128)) (slice b 20 2 ++ [0, 0] ++ leBytes 4 d.strong.chg ++ slice b 24 12)

/-- An accepted CAL_SET is applied at its boundary (R373): of two that expect the same counter the first is (R377). -/
def Dev.calStep (d : Dev) (c : CalSet) : Dev :=
  if leAt c.block 16 4 ≠ d.strong.chg then d.srEnd c.src Code.superseded 0
  else
    let d := (d.onStrong (fun s => s.calApply c.block)).calRecord c.block
    d.srEnd c.src Code.ok d.strong.chg

/-- The accepted CAL_SETs, in queue order. -/
def Dev.calBoundary (d : Dev) : Dev :=
  if !d.strong.powered then d
  else
    let l := d.strong.cals
    l.foldl Dev.calStep (d.onStrong (fun s => { s with cals := [] }))

/-! ## Tallies (R375, R378) -/

/-- The register of a class after a TALLY; none when it would leave its range. -/
def Strong.tallied (s : Strong) (b : Bytes) (drip : Nat) : Option Tally :=
  let t := s.tally (srClass b)
  let n := t.count + srCount b
  let a := t.amount + srValue b
  if 2 ^ 64 ≤ n || a < -2 ^ 95 || 2 ^ 95 ≤ a then none else some ⟨n, a, drip⟩

/-- The result area of a TALLY. -/
def Tally.area (t : Tally) : Bytes := leBytes 8 t.count ++ leBytes 12 (ofSigned 96 t.amount) ++ leBytes 8 t.drip

/-- A held TALLY is applied. -/
def Dev.tallyStep (d : Dev) (c : SrCmd) : Dev :=
  match d.strong.tallied c.body d.drip.now with
  | none => d.srRefuse c.src c.body Code.reserved
  | some t =>
    let d := d.onStrong (fun s => { s with tallies := spSet Tally.init s.tallies (srClass c.body) t })
    (d.srDeliver c.src c.body t.area).srEnd c.src Code.ok (srClass c.body * 2 ^ 54 + t.count % 2 ^ 54)

/-- The TALLYs of the boundary, at most the budget of R33; the others are held, and counted. -/
def Dev.tallyBoundary (d : Dev) : Dev :=
  if !d.strong.powered then d
  else
    let n := d.ioFld R.dripBudget 23 16
    let l := d.strong.queue
    let d := (l.take n).foldl Dev.tallyStep (d.onStrong (fun s => { s with queue := l.drop n }))
    d.bumpBy R.dripOverTally (l.length - n)

/-! ## Taking a command -/

/-- A command that passed its checks: a TALLY is queued, a STAMP answered, a TOD_SET waits for its edge, a CAL_SET for
its boundary. -/
def Dev.srAccept (d : Dev) (src : Src) (b block : Bytes) : Dev :=
  match srOp b with
  | 0 =>
    if srCount b = 0 && srValue b = 0 then
      let t := d.strong.tally (srClass b)
      d.srEnd src Code.ok (srClass b * 2 ^ 54 + t.count % 2 ^ 54)
    else d.onStrong (fun s => { s with queue := s.queue ++ [⟨src, b, d.drip.now⟩] })
  | 1 =>
    let d := d.strongPass
    let n := d.strong.serial
    let v := d.freeVal
    let d := (d.freeStep.onStrong (fun s => { s with serial := n + 1 })).srDeliver src b
      (leBytes 8 d.srTime ++ leBytes 8 d.stStat ++ leBytes 8 n)
    d.srEnd src Code.ok v
  | 2 => d.onStrong (fun s => { s with todWait := s.todWait ++ [⟨src, b, d.drip.now⟩] })
  | _ => d.onStrong (fun s => { s with cals := s.cals ++ [⟨src, block⟩] })

/-- The code of a command whose issuer is permitted and whose pointers hold: R377 in its order. -/
def Dev.srCode (d : Dev) (b block : Bytes) : Nat :=
  if srOp b = 3 && leAt block 4 1 ≠ 1 then Code.versionMismatch
  else if srBad b then Code.reserved
  else if srOp b = 2 && d.strong.state ≠ 0 then Code.reserved
  else if srOp b = 3 then d.strong.calCode block
  else Code.ok

/-- The pointers a command uses: the block of a CAL_SET, the result areas of TALLY and STAMP (R374). -/
def Job.srPtrs (j : Job) : List (Ptr × Nat) :=
  match j.get 16 1 with
  | 0 => [(j.ptr 40, 28)]
  | 1 => [(j.ptr 40, 24)]
  | 3 => [(j.ptr 32, 256)]
  | _ => []

/-- The code of a thread's command: R12, with the version of a block that can be read before every reserved value. -/
def Dev.srJobCode (d : Dev) (n : Nat) (j : Job) (b block : Bytes) : Nat :=
  let c := d.cmdCheck j j.srPtrs (srBad b)
  if !d.srAllowed (.job n) (srOp b) || c = Code.notOwner then Code.notOwner
  else if srOp b = 3 && j.srPtrs.all (fun x => x.1.inSpace x.2) && leAt block 4 1 ≠ 1 then Code.versionMismatch
  else if c ≠ Code.ok then c
  else d.srCode b block

/-- The Strongroom takes a thread's command whose op satisfies `mine`. While it does not answer, the command waits for
its TIMEOUT. -/
def Dev.srJob (d : Dev) (n : Nat) (mine : Nat → Bool) : Dev :=
  match d.job n with
  | some j =>
    let b := slice j.block 16 48
    if !d.serving || j.phase ≠ .queued || j.unit ≠ 7 || !mine (srOp b) || !d.mayTakeJob n j then d
    else
      let d := (d.unqueue n j).setJob n { j with phase := .running }
      if !d.strong.powered then d.onStrong (fun s => { s with lost := s.lost ++ [⟨.job n, b, d.drip.now⟩] })
      else
        let block := if srOp b = 3 then d.ptrBytes j (j.ptr 32) 256 else []
        let c := d.srJobCode n j b block
        if c ≠ Code.ok then d.srRefuse (.job n) b c
        else match d.poisonAns (j.srPtrs.filter (fun x => x.2 = 256)) with
          | some u => u.dev.srEnd (.job n) u.code 0
          | none => d.srAccept (.job n) b block
  | none => d

/-- A master's CAL_SET still waits for its block. -/
def Dev.calAsked (d : Dev) (m : Nat) : Bool := d.strong.asked.any (fun c => c.src = .master m)

/-- The block of a master's CAL_SET has come, or will not: the command waits for it no longer. -/
def Dev.calCame (d : Dev) (m : Nat) : Dev :=
  d.onStrong (fun s => { s with asked := s.asked.filter (fun c => c.src ≠ .master m) })

/-- The data of a master's CAL_SET have arrived; after its TIMEOUT they are discarded (R361). -/
def Dev.srBlock (d : Dev) (m : Nat) (b block : Bytes) : Dev :=
  let c := d.srCode b block
  if !d.calAsked m then d
  else
  let d := d.calCame m
  if !d.strong.powered then d.onStrong (fun s => { s with lost := s.lost ++ [⟨.master m, b, d.drip.now⟩] })
  else if c ≠ Code.ok then d.srRefuse (.master m) b c
  else d.srAccept (.master m) b block

/-- The code a master's command draws before its block is read, in the order of R12. -/
def Dev.srGoCode (d : Dev) (m : Nat) (b : Bytes) : Nat :=
  let op := srOp b
  let dma := if op = 0 || op = 1 || op = 3 then d.dmaCode m else Code.ok
  if !d.srAllowed (.master m) op then Code.notOwner
  else if dma ≠ Code.ok then dma
  else if op = 3 then Code.ok
  else d.srCode b []

/-- The code of a command that finds its master's registers busy: what R12 puts before BUSY_RETRY comes first. -/
def Dev.srBusyCode (d : Dev) (m : Nat) (b : Bytes) : Nat :=
  if d.srGoCode m b ≠ Code.ok then d.srGoCode m b else if srBad b then Code.reserved else Code.busyRetry

/-- A write of 1 to BOOK_SRCMD_GO by the host or the peer whose command satisfies `mine` (R374, R389). -/
def Dev.srGo (d : Dev) (m : Nat) (mine : Nat → Bool) : Dev :=
  d.doorbell m R.bookSrcmdGo [3, 4] 1 1 (fun d =>
    let b := d.perBytes m R.bookSrcmd 12
    if !mine (srOp b) then d
    else if bitOf (d.per m R.bookSrcmdStat) 0 then d.refuse m R.bookSrcmdGo (d.srBusyCode m b)
    else
      let c := d.srGoCode m b
      let d := d.setStat m R.bookSrcmdStat true 0
      if !d.strong.powered then d.onStrong (fun s => { s with lost := s.lost ++ [⟨.master m, b, d.drip.now⟩] })
      else if c ≠ Code.ok then d.srRefuse (.master m) b c
      else if srOp b = 3 then
        (d.dmaRead m (leAt b 16 8) 256 (.cal b)).onStrong (fun s => { s with asked := s.asked ++ [⟨.master m, b, d.drip.now⟩] })
      else d.srAccept (.master m) b [])

/-- A Strongroom command of a thread or a master. -/
def Dev.srBy (d : Dev) (src : Src) (mine : Nat → Bool) : Dev :=
  match src with | .job n => d.srJob n mine | .master m => d.srGo m mine

/-- A command that the Strongroom has not completed within 64 drips ends with TIMEOUT (R361). -/
def Dev.srTimeoutEnd (d : Dev) (src : Src) : Dev :=
  ((d.bookCount 2).incident 25 Code.timeout (d.srActor src) 0 0).srEnd src Code.timeout 0

/-- The source of a queued command. -/
def SrCmd.due (c : SrCmd) (src : Src) (now : Nat) : Bool := c.src = src && c.accepted + 64 ≤ now

/-- A read is that of a master's calibration block. -/
def DmaRead.isCal (r : DmaRead) (m : Nat) : Bool := r.master = m && (match r.use with | .cal _ => true | _ => false)

/-- A CAL_SET that ended waits for its block no longer: what its read may still bring is discarded (R361). -/
def Dev.dropCal (d : Dev) (src : Src) : Dev :=
  match src with
  | .master m => d.onHost (fun h => { h with reads := h.reads.filter (fun e => !e.2.isCal m) })
  | .job _ => d

/-- SR_COMMAND_TIMEOUT for a queued or an unanswered command, or a CAL_SET whose block has not come. -/
def Dev.srTimeout (d : Dev) (src : Src) : Dev :=
  let s := d.strong
  let now := d.drip.now
  let keep (l : List SrCmd) : List SrCmd := l.filter (fun c => !c.due src now)
  if (s.queue ++ s.asked ++ s.lost).any (fun c => c.due src now) then
    let d := if s.asked.any (fun c => c.due src now) then d.dropCal src else d
    (d.onStrong (fun s => { s with queue := keep s.queue, asked := keep s.asked, lost := keep s.lost })).srTimeoutEnd src
  else d

/-- SR_COMMAND_TIMEOUT for the oldest PAGE_CLOSE that met no answer: the page stays unsealed. -/
def Dev.closeTimeout (d : Dev) : Dev :=
  match d.book.pages.find? (fun p => p.state = .waiting) with
  | some p =>
    if p.head = [] && p.close + 64 ≤ d.drip.now then
      let d := d.onBook (fun k => { k with
        pages := k.pages.map (fun q => if q.num = p.num then { q with state := .failed } else q) })
      (d.bookCount 2).incident 25 Code.timeout 0 0 0
    else d
  | none => d

end Sys2Proof.Machine
end

