-- ==== Sys2Proof/Machine/Strong.lean ====
section
/-! DEFINITION. The Strongroom (chapter 14): its registers as they are read (R388), and its rows. -/

namespace Sys2Proof.Machine

/-! ## Reading STRG space (R388) -/

/-- The word at an offset of STRG space; offsets that hold nothing read as 0. -/
def Dev.strgWord (d : Dev) (o : Nat) : Nat :=
  let s := d.strong
  let half (v : Nat) (base : Nat) : Nat := v / 2 ^ (8 * (o - base)) % 2 ^ 32
  if o < 0x24 then Config.srWord o % 2 ^ 32
  else if o = 0x24 then b2n s.sealOk + s.cause % 128 / 2 * 2
  else if o = 0x28 then s.chg % 2 ^ 32
  else if o < 0x30 then 0
  else if o < 0x38 then half d.srTime 0x30
  else if o < 0x40 then half d.stStat 0x38
  else if o < 0x48 then half s.epoch 0x40
  else if o < 0x50 then half s.page 0x48
  else if o < 0x70 then leAt s.root (o - 0x50) 4
  else if o < 0x78 then Config.srWord o % 2 ^ 32
  else if o = 0x80 then
    (s.queue.length + s.cals.length + s.todWait.length) % 2 ^ 12
      + (s.queue.filter (fun c => c.accepted < d.drip.now)).length % 2 ^ 12 * 2 ^ 12 + s.inspBad % 256 * 2 ^ 24
  else if o = 0x84 then s.egtsWp % 4096
  else if o < 0x100 then 0
  else if o < 0x120 then Config.srWord o % 2 ^ 32
  else if o < 0x200 then 0
  else if o < 0x200 + 1952 then Config.srWord o % 2 ^ 32
  else if o < 0xA00 then 0
  else if o < 0xA20 then match s.calKey with | some k => leAt k (o - 0xA00) 4 | none => 0
  else if o < 0x1000 then 0
  else if o < 0x2080 then Config.srWord o % 2 ^ 32
  else if o < 0x2100 then
    let k := (o - 0x2080) / 8
    ofSigned 32 (fuseDelay (if o % 8 = 0 then 0 else 16) k)
  else if o = 0x2100 then ofSigned 32 (Config.fuse 32)
  else if o < 0x3000 then 0
  else if o < 0x3408 then (spGet 0 s.ucal o).toNat
  else if o < 0x4000 then 0
  else if o < 0xC000 then
    let t := s.tally ((o - 0x4000) / 32)
    match o % 32 / 4 with
    | 0 | 1 => t.count / 2 ^ (8 * (o % 32)) % 2 ^ 32
    | 2 | 3 | 4 => ofSigned 96 t.amount / 2 ^ (8 * (o % 32 - 8)) % 2 ^ 32
    | 6 | 7 => t.drip / 2 ^ (8 * (o % 32 - 24)) % 2 ^ 32
    | _ => 0
  else if o < 0x10000 then 0
  else if o < 0x20000 then leAt (spGet [] s.egts ((o - 0x10000) / 16)) (o % 16) 4
  else if o < 0x40000 then 0
  else if o < 0x80000 then leNat ((List.range 4).map (fun i => Config.mramByte s.mramGen (o - 0x40000 + i)))
  else 0

/-! ## Commands (R374, R375) -/

/-- TALLY (R375); a command with a reserved op, or PAGE_CLOSE, is refused here too. -/
def execSrTally (src : Src) (s : State) : Host.Outcome State Fault Refusal :=
  s.run (fun d => d.srBy src (fun op => op = 0 || 4 ≤ op))

/-- STAMP (R375). -/
def execSrStamp (src : Src) (s : State) : Host.Outcome State Fault Refusal := s.run (fun d => d.srBy src (fun op => op = 1))

/-- TOD_SET (R375): the command waits for the next PPS edge. -/
def execSrTodSet (src : Src) (s : State) : Host.Outcome State Fault Refusal := s.run (fun d => d.srBy src (fun op => op = 2))

/-- CAL_SET (R376). -/
def execSrCalSet (src : Src) (s : State) : Host.Outcome State Fault Refusal := s.run (fun d => d.srBy src (fun op => op = 3))

/-- SR_COMMAND_TIMEOUT (R361); master 1 stands for the Cellarbook block's PAGE_CLOSE (assumption 33). -/
def execSrCommandTimeout (src : Src) (s : State) : Host.Outcome State Fault Refusal :=
  s.run (fun d => if src = .master 1 then d.closeTimeout else d.srTimeout src)

/-! ## The reference (R363, R365) -/

/-- The first waiting TOD_SET sets the time of the edge; others come too late (R375). `t` is the edge in ps on the
timescale as it stands. -/
def Dev.todEdge (d : Dev) (t : Int) : Dev :=
  match d.strong.todWait with
  | [] => d
  | c :: rest =>
    let d := d.onStrong (fun s => { s with todWait := [] })
    let d :=
      if d.strong.state ≠ 0 then d.srEnd c.src Code.reserved 0
      else
        let sec := leAt c.body 8 8
        let now := ((d.strong.time : Int) + ((sec : Int) * 10 ^ 12 - t) * 256 / 1000).toNat
        let v := d.freeVal
        ((d.freeStep.onStrong (fun s => { s with time := now, ppsLast := now / 256 / 10 ^ 9 })).timeState 1).srEnd c.src
          Code.ok v
    rest.foldl (fun d c => d.srEnd c.src Code.reserved 0) d

/-- An edge measured against the timescale: `e` is its distance in ps from the nearest second (R363). -/
def Dev.phaseEdge (d : Dev) (e : Int) : Dev :=
  let n := e.natAbs
  let d := d.onStrong (fun s => { s with
    good := s.good + 1, near := if n ≤ 20000 then s.near + 1 else 0, far := if 1000000 < n then s.far + 1 else 0,
    slew := if s.state = 2 then e * 256 / 1000 else s.slew })
  if 3 ≤ d.strong.far && (d.strong.state = 2 || d.strong.state = 3) then
    (d.onStrong (fun s => { s with ppsOk := false })).loseReference
  else if d.strong.state = 2 && 4 ≤ d.strong.near then d.timeState 3
  else d

/-- PPS_EDGE (R363, R365, R369): a reference edge `offset` ps after the time as the count stands, with the widths in ns of the two
phases of PPS_IN. The polarity is measured in Survey mode and, at every reacquisition, until the reference is valid. -/
def execPpsEdge (offset high low : Nat) (s : State) : Host.Outcome State Fault Refusal :=
  s.run (fun d =>
    if !d.strong.powered then d
    else
      let d := if d.mode = Mode.survey || !(d.strong.ppsOk && d.strong.tclkOk) then
          d.onStrong (fun s => { s with ppsPol := ppsFalling high low }) else d
      let d := d.onStrong (fun s => s.pass (offset * 256 / 1000))
      let t : Int := ((d.strong.time * 1000 / 256 : Nat) : Int) - Config.fuse 32 - d.ucal 0x3400
      let sec : Int := 10 ^ 12
      -- the count is behind the reference when the edge comes before its second
      let e : Int := sec * ((t + sec / 2) / sec) - t
      if d.strong.todWait.isEmpty then d.phaseEdge e
      else (d.todEdge t).onStrong (fun s => { s with good := s.good + 1 }))

/-- REFERENCE_LOSS (R363): cause 0 TCLK_IN absent, 1 off nominal, 2 PPS_IN absent, 3 edges far off. -/
def execReferenceLoss (cause : Nat) (s : State) : Host.Outcome State Fault Refusal :=
  s.run (fun d =>
    if !d.strong.powered || 3 < cause then d
    else (d.onStrong (fun s =>
      if cause ≤ 1 then { s with tclkOk := false } else { s with ppsOk := false })).loseReference)

/-- REFERENCE_VALID (R363): after 16 consecutive good seconds FREERUN or HOLDOVER goes to ACQUIRING. -/
def execReferenceValid (s : State) : Host.Outcome State Fault Refusal :=
  s.run (fun d =>
    if !d.strong.powered || d.strong.good < 16 then d
    else
      let d := d.onStrong (fun s => { s with tclkOk := true, ppsOk := true })
      if d.strong.state = 1 || d.strong.state = 4 then d.timeState 2 else d)

/-- The TAI second of the count advanced by the PPS_OUT advance (R365, R370). -/
def Dev.ppsSecond (d : Dev) : Nat :=
  (((d.strong.time * 1000 / 256 : Nat) : Int) + d.ucal 0x3404).toNat / 10 ^ 12

/-- PPS_OUT_PULSE (R365): PPS_OUT rises when a TAI second has come that has had no pulse. -/
def execPpsOutPulse (s : State) : Host.Outcome State Fault Refusal :=
  s.run (fun d =>
    let d := d.strongPass
    let n := d.ppsSecond
    if d.strong.powered && d.strong.ppsLast ≠ n then (d.onStrong (fun s => { s with ppsLast := n })).emit .ppsPulse else d)

/-! ## Seal and power (R371, R372, R502 to R504) -/

/-- ROM_REHASH (R371): every 2^20 drips of Service mode; `ok` says that the hash agrees. -/
def execRomRehash (ok : Bool) (s : State) : Host.Outcome State Fault Refusal :=
  s.run (fun d => if d.mode = Mode.service && d.drip.now % 2 ^ 20 = 0 && !ok then d.breakSeal 1 else d)

/-- SEAL_BREAK (R372): an event of cause 1 to 6. -/
def execSealBreak (cause : Nat) (s : State) : Host.Outcome State Fault Refusal := s.run (fun d => d.breakSeal cause)

/-- SR_POWER_UP (R378, R503, R504): the tallies come back from the newer valid checkpoint, the timescale starts UNSET;
`found` gathers the cause bits that the checks of ROM and fuses give. -/
def execSrPowerUp (newer : Bool) (found : Nat) (s : State) : Host.Outcome State Fault Refusal :=
  s.run (fun d =>
    if d.strong.powered then d
    else
      let ck (s : Strong) : Map Tally := (if newer then s.ckptNew else s.ckptOld).map (fun e => (e.1, { e.2 with drip := 0 }))
      let d := d.onStrong (fun s => { s with
        powered := true, time := 0, state := 0, tclkOk := false, ppsOk := false, good := 0, near := 0, far := 0, err := 0,
        hold := 0, corr := 0, corrRest := 0, slew := 0, tallies := ck s, serial := 0, egts := [], egtsWp := 0, egtsNew := 0,
        inspBad := 0, ppsLast := 0 })
      let d := if bitOf found 1 then d.breakSeal 1 else d
      if bitOf found 2 then d.breakSeal 2 else d)

/-- SR_POWER_LOSS (R503): the Strongroom stops and breaks nothing; what it had taken is never answered (R502). -/
def execSrPowerLoss (s : State) : Host.Outcome State Fault Refusal :=
  s.run (fun d =>
    if !d.strong.powered then d
    else
      let now := d.drip.now
      let d := d.onStrong (fun s => { s with
        powered := false, queue := [], cals := [], todWait := [], asked := [], dieTemp := none, closing := [],
        lost := s.lost ++ s.asked ++ s.queue ++ s.cals.map (fun c => ⟨c.src, [], now⟩) ++ s.todWait.map (fun c => { c with accepted := now }) })
      d.onBook (fun k => { k with
        pages := k.pages.map (fun p => if p.state = .waiting then { p with head := [] } else p) }))

/-! ## The inspection port (R387) -/

/-- INSPECTION_READ: command 0x0B at a word address, with auto-increment, whenever the island is powered. -/
def execInspectionRead (addr words : Nat) (s : State) : Host.Outcome State Fault Refusal :=
  s.run (fun d =>
    let d := d.strongPass
    if !d.strong.powered then d
    else d.emit (.inspection ((List.range words).flatMap (fun i => leBytes 4 (d.strgWord (4 * ((addr + i) % 2 ^ 24)))))))

/-- INSPECTION_BAD_COMMAND: any other command byte returns 0xFF on every following byte, and is counted. -/
def execInspectionBadCommand (cmd len : Nat) (s : State) : Host.Outcome State Fault Refusal :=
  s.run (fun d =>
    if !d.strong.powered || cmd % 256 = 0x0B then d
    else (d.onStrong (fun s => { s with inspBad := Nat.min (s.inspBad + 1) 255 })).emit
      (.inspection (List.replicate len 0xFF)))

end Sys2Proof.Machine
end

