-- ==== Sys2Proof/Machine/Book.lean ====
section
/-! DEFINITION. The Cellarbook (R379 to R386, R458): appends, the close of pages, export and acknowledgement. -/

namespace Sys2Proof.Machine

/-! ## APPEND (R381) -/

/-- Slots an APPEND finds free: 33 are kept for PAGE_END and the seal (R385). -/
def Dev.bookFull (d : Dev) : Bool := d.ringSlots < d.book.wp + 34 - d.book.ack

/-- The pointers of an APPEND. -/
def Job.bookPtrs (j : Job) : List (Ptr × Nat) :=
  [(j.ptr 32, 32), (j.ptr 48, 16)] ++ if j.get 40 8 = 0 then [] else [(j.ptr 40, 20)]

/-- A reserved op, kind, field or bit; RECONCILE is for keepers. -/
def Dev.bookBad (d : Dev) (j : Job) : Bool :=
  let k := j.get 17 1
  j.get 16 1 ≠ 0 || !(k = 1 || (k = 5 && d.isKeeper j.tid)) || bits (j.get 18 2) 14 10 ≠ 0 || j.get 24 8 ≠ 0
    || j.get 56 8 ≠ 0

/-- A refused APPEND of a full ring: counted, with an incident for the first of a page (R385). -/
def Dev.bookRefuse (d : Dev) (n : Nat) (j : Job) : Dev :=
  let d := (d.bookCount 1).finishJob n Code.failEmpty 0
  if d.book.refused then d
  else (d.onBook (fun k => { k with refused := true })).incident 17 Code.failEmpty j.owner 0 0

/-- The record of an APPEND. -/
def Dev.bookRecord (d : Dev) (j : Job) : RecBody :=
  ⟨j.get 17 1, d.ptrBytes j (j.ptr 32) 32, j.get 20 4, j.get 18 2, j.attempt, j.owner, j.task, j.domain, seqWord j.seq,
   if j.get 40 8 = 0 then [] else d.ptrBytes j (j.ptr 40) 20⟩

/-- APPEND (R381): the record is chained now, and the command completes when it becomes visible. -/
def execBookAppend (job : Nat) (s : State) : Host.Outcome State Fault Refusal :=
  s.run (fun d =>
    match d.job job with
    | some j =>
      if !d.serving || j.phase ≠ .queued || j.unit ≠ 6 || !d.mayTakeJob job j then d
      else
        let d := (d.unqueue job j).settlePage
        let c := d.cmdCheck j j.bookPtrs (d.bookBad j)
        if c ≠ Code.ok then d.finishJob job c 0
        else match d.poisonAns (j.bookPtrs.filter (fun x => x.2 ≠ 16)) with
          | some u => u.dev.finishJob job u.code 0
          | none =>
            if d.bookFull then d.bookRefuse job j
            else ((d.setJob job { j with phase := .running }).bookCount 0).chainRec (d.bookRecord j) (some job)
    | none => d)

/-- The commands whose records become visible at this boundary complete (R381). -/
def Dev.bookBoundary (d : Dev) : Dev :=
  (d.book.newRecs.foldl (fun d r =>
    match r.src with
    | some n => match d.job n with
      | some j => (d.ptrWrite j (j.ptr 48) (slice r.data 56 8 ++ leBytes 8 (leAt r.data 0 7))).finishJob n Code.ok
          (leAt r.data 56 8)
      | none => d
    | none => d) d).bookVisible

/-! ## Pages (R383) -/

/-- PAGE_END (R383): at the end of a page's last drip. -/
def execPageEnd (s : State) : Host.Outcome State Fault Refusal := s.run (fun d => d.settlePage)

/-- A seal block: its header, both signatures, zeros. -/
def sealBlock (head : Bytes) (v : Nat) : Bytes :=
  slice (head ++ slice (Config.sign 3 0 (Config.srKey 0) head [] v) 0 64 ++ slice (Config.sign 8 0 (Config.srKey 1) head [] v) 0 3309)
    0 4096

/-- SEAL_BLOCK_WRITTEN (R383, R385): the oldest page that the Strongroom signs is stored and gets its seal block; under version 2 with
m_page it is mirrored (R467). -/
def execSealBlockWritten (s : State) : Host.Outcome State Fault Refusal :=
  s.run (fun d =>
    match d.book.pages.find? (fun p => p.state = .waiting && p.head ≠ []) with
    | some p =>
      if !d.strong.powered then d
      else
        let b := sealBlock p.head d.freeVal
        let d := (d.freeStep.bookCount 3).writeMem true (d.slotAddr (p.past - 32)) (b.take (128 * (d.ringSlots - (p.past - 32) % d.ringSlots)))
        let d := d.writeMem true d.book.base (b.drop (128 * (d.ringSlots - (p.past - 32) % d.ringSlots)))
        let d := d.onBook (fun k => { k with
          pages := k.pages.map (fun q => if q.num = p.num then { q with state := .written } else q) })
        let d := d.onStrong Strong.signPage
        if d.ropeVer = 2 && bitOf (d.live R.ropeCfg) 4 then d.ropeEmit 6 0 (1 :: b) else d
    | none => d)

/-! ## Export (R386, R458) -/

/-- The sealed page the export unit sends next; pages that were never sealed are passed over. -/
def Dev.exportNext (d : Dev) : Option Page :=
  d.book.pages.find? (fun p => p.state = .written && d.book.exp ≤ p.slot)

/-- A slot as it is exported: 128 zero bytes when it is poisoned (R407). -/
def Dev.slotBytes (d : Dev) (n : Nat) : Bytes :=
  if d.memPoisoned true (d.slotAddr n) 128 then List.replicate 128 0 else d.memBytes true (d.slotAddr n) 128

/-- The export pointer stands just past a page. -/
def Dev.exported (d : Dev) (p : Page) : Dev := d.onBook (fun k => { k with exp := p.past })

/-- The selected minor version of the host interface (R451). -/
def Dev.hostMinor (d : Dev) : Nat := d.ioFld R.hostVerSel 7 0

/-- A page goes to the PF1 ring; an exp_log2 out of range suspends the export (R458). -/
def Dev.exportHost (d : Dev) (p : Page) : Dev :=
  let sz := d.ioFld R.hostExpSize 5 0
  if d.hostMinor < 2 then d
  else if sz < 27 || 36 < sz then d
  else if !d.busMaster 1 then d.setIo R.hostExpStat Code.notOwner
  else if 2 ^ sz / 128 < p.past - d.book.ack then d
  else
    let base := d.io64 R.hostExpBaseLo / 4096 * 4096
    let d := (List.range (p.past - p.slot)).foldl (fun d i =>
      (d.countRead true (d.slotAddr (p.slot + i)) 128).emit
        (.hostWrite (base + (p.slot + i) * 128 % 2 ^ sz) (d.slotBytes (p.slot + i)))) d
    let d := (d.emit (.hostWrite (d.io64 R.hostExpWpaLo / 8 * 8) (leBytes 8 p.past))).exported p
    if 3 ≤ d.hostMinor then d.msix 1 0 else d

/-- Fragment `i` of `n` of a page as an Ethernet frame (R386); its source address is open. -/
def Dev.exportFrame (d : Dev) (p : Page) (i n : Nat) : Bytes :=
  let dst := d.live R.bookExpDmacLo + 2 ^ 32 * (d.live R.bookExpDmacHi % 2 ^ 16)
  let epoch := leAt p.head 104 8
  let k := Nat.min 64 (p.past - p.slot - 64 * i)
  beBytes 6 dst ++ beBytes 6 (d.freeVal % 2 ^ 48) ++ [0x88, 0xB5] ++ leBytes 4 0x4546584B
    ++ leBytes 8 (p.num % 2 ^ 40 + epoch % 2 ^ 24 * 2 ^ 40) ++ leBytes 2 i ++ leBytes 2 n
    ++ (List.range k).flatMap (fun x => d.slotBytes (p.slot + 64 * i + x))

/-- A frame of the export unit joins the egress FIFO of the export bay, or is dropped beyond its limit (R117). -/
def Dev.exportJoin (d : Dev) (bay : Nat) (f : Bytes) : Dev :=
  if 16 * d.liveFld (R.egrsBay + 4 * bay) 19 8 < fifoCells (d.fifo bay) + (f.length + 127) / 128 then d.bump R.egrsQdrop
  else d.setFifo bay
    (d.fifo bay ++ [⟨{ Pkt.empty with domain := 65527, gen := d.drip.gen }, bay, none, none, f, d.bayMac bay⟩])

/-- A page goes to the export bay. -/
def Dev.exportBay (d : Dev) (p : Page) : Dev :=
  let bay := d.liveFld R.bookCfg 13 2
  let n := (p.past - p.slot + 63) / 64
  let d := (List.range (p.past - p.slot)).foldl (fun d i => d.countRead true (d.slotAddr (p.slot + i)) 128) d
  let d := (List.range n).foldl (fun d i => d.exportJoin bay (d.exportFrame p i n)) d
  d.freeStep.exported p

/-- EXPORT_PAGE (R386, R458). -/
def execExportPage (s : State) : Host.Outcome State Fault Refusal :=
  s.run (fun d =>
    if !d.serving then d
    else match d.exportNext with
      | some p => match d.liveFld R.bookCfg 1 0 with
        | 1 => d.exportHost p
        | 2 => d.exportBay p
        | _ => d
      | none => d)

/-- The acknowledge pointer may move to a slot: a page boundary from the pointer itself to the export pointer (R386). -/
def Dev.ackOk (d : Dev) (v : Nat) : Bool :=
  v = d.book.ack || (d.book.ack ≤ v && v ≤ d.book.exp && d.book.pages.any (fun p => p.past = v))

/-- BOOK_ACK takes a slot number (R386). -/
def Dev.bookAck (d : Dev) (v : Nat) : Dev :=
  let d := if d.book.ack < v then d.onBook (fun k => { k with ackDrip := d.drip.now }) else d
  (d.onBook (fun k => { k with ack := v, pages := k.pages.filter (fun p => v < p.past) })).setIo64 R.bookAckLo v

/-- A write of BOOK_ACK_HI by a master (R386, R389): the pair is applied. -/
def Dev.ackWrite (d : Dev) (m val : Nat) : Dev :=
  d.ownDoorbell m 17 R.bookAckHi 32 val (fun d =>
    let v := d.io R.bookAckLo + 2 ^ 32 * val
    if d.ackOk v then d.bookAck v else (d.setIo64 R.bookAckLo d.book.ack).refuse m R.bookAckHi Code.reserved)

/-- BOOK_ACK_WRITE (R386). -/
def execBookAckWrite (m val : Nat) (s : State) : Host.Outcome State Fault Refusal :=
  s.run (fun d => d.ackWrite m (val % 2 ^ 32))

/-- The outcome of an export acknowledgement of the host (R458). -/
def Dev.hostAck (d : Dev) (v : Nat) : Dev :=
  if !d.owns 3 17 then d.setIo R.hostExpStat Code.notOwner
  else if d.ackOk v then (d.bookAck v).setIo R.hostExpStat Code.ok
  else d.setIo R.hostExpStat Code.reserved

/-- EXPORT_RESEND (R386): without an acknowledgement for resend × 64 drips the unit starts again. -/
def execExportResend (s : State) : Host.Outcome State Fault Refusal :=
  s.run (fun d =>
    let k := d.book
    if d.serving && k.exp ≠ k.ack && k.ackDrip + 64 * d.liveFld R.bookCfg 21 14 ≤ d.drip.now then
      (d.bookCount 4).onBook (fun k => { k with exp := k.ack, ackDrip := d.drip.now })
    else d)

end Sys2Proof.Machine
end

