-- ==== Sys2Proof/Machine/Egress.lean ====
section
/-! DEFINITION. Egress: the deficit round robin of R117, session data on its way out (R136 to R138), links (R121, R480),
received PFC (R68, R117), and the rows of this stage. -/

namespace Sys2Proof.Machine

/-! ## Which FIFO a MAC serves -/

/-- A line MAC whose received pause stops priority `q` (R117). -/
def Dev.pausedAt (d : Dev) (mac q : Nat) : Bool :=
  match spFind d.egrs.paused (8 * mac + q) with | some e => d.drip.now < e | none => false

/-- The Rope is UP (R462). -/
def Dev.ropeUp (d : Dev) : Bool := d.ioFld R.ropeStat 1 0 = 2

/-- A MAC may transmit: it has its link, or the Rope is UP (R463, R480). -/
def Dev.macUp (d : Dev) (mac : Nat) : Bool := if mac = 64 then d.ropeUp else d.linkUp mac

/-- The bays whose FIFO a MAC can serve, rising: those with a head that leaves by it, is not paused, and does not wait for a
header cell; a MAC without a link takes such a head too, and frees it (R480). -/
def Dev.servable (d : Dev) (mac : Nat) : List Nat :=
  d.egrs.fifos.filterMap (fun f => match f.2 with
    | [] => none
    | e :: _ =>
      if e.mac ≠ mac || (e.headerWait.isSome && d.macUp mac) || d.pausedAt mac (d.liveFld (R.egrsBay + 4 * f.1) 22 20)
      then none else some f.1)

/-- Bytes a FIFO's head costs: those of its frame. Session data is cut into frames before it is served
(R117, assumption 52). -/
def EgPkt.cost (e : EgPkt) : Nat := if e.raw = [] then e.pkt.len else e.raw.length

/-- The deficit of a FIFO. -/
def Dev.deficit (d : Dev) (b : Nat) : Nat := spGet 0 d.egrs.deficit b

/-- Set the deficit of a FIFO. -/
def Dev.setDeficit (d : Dev) (b n : Nat) : Dev := d.onEgrs (fun e => { e with deficit := spSet 0 e.deficit b n })

/-- Search the round for a FIFO whose deficit covers its head, adding the quantum at each FIFO entered (R117): the bays
still to visit in this round, and those of every round. -/
def Dev.drr (all : List Nat) : Nat → List Nat → Dev → Option Nat × Dev
  | 0, _, d => (none, d)
  | f + 1, l, d =>
    match l with
    | [] => if all = [] then (none, d) else Dev.drr all f all d
    | b :: rest =>
      let d := d.setDeficit b (d.deficit b + 64 * d.liveFld (R.egrsBay + 4 * b) 7 0)
      match d.fifo b with
      | e :: _ => if e.cost ≤ d.deficit b then (some b, d) else Dev.drr all f rest d
      | [] => Dev.drr all f rest d

/-- The bay a MAC serves next: the one in service while its deficit covers its head, else the next of the round. The round runs in
rising bay number, from the bay after the one in service, after bay 0 before any; a FIFO that cannot be served is left out of it and
gains no quantum (assumption 52). -/
def Dev.nextBay (d : Dev) (mac : Nat) : Option Nat × Dev :=
  let l := d.servable mac
  let cur := spGet 0 d.egrs.serving mac
  match (if l.contains cur then d.fifo cur else []) with
  | e :: _ =>
    if e.cost ≤ d.deficit cur then (some cur, d)
    else Dev.drr l (1100 * (l.length + 1)) (l.filter (fun b => cur < b)) d
  | [] => Dev.drr l (1100 * (l.length + 1)) (l.filter (fun b => cur < b)) d

/-! ## Transmission -/

/-- A frame enters the transmit buffer of a MAC: protected, sent and stamped, so that one that MACsec drops is not stamped
(R368); or a DATA frame on the Rope (R464), with the tag its generation gives the bay (R39). -/
def Dev.transmit (d : Dev) (mac bay gen : Nat) (f : Bytes) : Dev :=
  if mac = 64 then d.ropeEmit 1 (d.atFld gen (R.portBay0 + 8 * bay) 19 8) f
  else
    let (o, d) := d.strongPass.protectFrame mac f
    match o with | some g => (d.egressStamp mac f).emit (.frame mac g) | none => d

/-- Replace the head of a FIFO. -/
def Dev.setHead (d : Dev) (b : Nat) (e : EgPkt) : Dev := d.setFifo b (e :: (d.fifo b).drop 1)

/-- The head leaves a FIFO; an empty FIFO keeps no deficit. -/
def Dev.popHead (d : Dev) (b : Nat) (cost : Nat) : Dev :=
  let l := (d.fifo b).drop 1
  (d.setFifo b l).setDeficit b (if l = [] then 0 else d.deficit b - cost)

/-- A header cell for session data, from the pool of the egress bay; it is freed once its segment has left (R136, R138). -/
def Dev.headerCell (d : Dev) (mac b gen : Nat) : Option Chain × Dev :=
  d.alloc (pipeTag (d.macPipe mac)) (d.atFld gen (R.portBay1 + 8 * b) 24 20) 1 none

/-- What session data at the head of a FIFO becomes (R136, R137): the frames of its segments, as far as the window allows; or,
for an acknowledgement, its frame. -/
def Dev.sessFrames (d : Dev) (e : EgPkt) (sd : SessData) : List Bytes × Dev :=
  match d.ses sd.session with
  | none => ([], d.freeEgress e.pkt)
  | some s =>
    if s.state = .closed then ([], d.freeEgress e.pkt)
    else if sd.content = 0 then ([s.ackFrame d.freeVal], d.freeStep)
    else if s.isInner then ([], d.freeEgress e.pkt)
    else
      let wait := s.unsent.isSome || !s.tx.sendq.isEmpty || s.room = 0 || s.state = .syn
      let timer := some (s.tx.timer.getD (d.drip.now + s.tx.rto))
      let d := if wait then d.setSes sd.session { s with tx := { s.tx with sendq := s.tx.sendq ++ [e], timer := timer } }
        else d.cutData sd.session e sd
      let d := d.sendLimit sd.session e.pkt.gen
      d.pump (d.pumpFuel sd.session) sd.session

/-- Session data at the head of a FIFO gives place to its frames, until a frame or a packet stands there. -/
def Dev.cutHead (mac b : Nat) : Nat → Dev → Dev
  | 0, d => d
  | f + 1, d =>
    match d.fifo b with
    | [] => d
    | e :: rest => match e.sess with
      | none => d
      | some sd =>
        if e.raw ≠ [] || e.mac ≠ mac then d
        else
          let (l, d) := (d.setFifo b rest).sessFrames e sd
          Dev.cutHead mac b f (d.setFifo b (l.map (rawEntry e.pkt.gen mac b (some sd.session)) ++ d.fifo b))

/-- Session data at the heads a MAC may serve is cut into frames, while the MAC has its link. -/
def Dev.cutHeads (d : Dev) (mac : Nat) : Dev :=
  if d.macUp mac then (d.servable mac).foldl (fun d b => Dev.cutHead mac b ((d.fifo b).length + 1) d) d
  else d

/-- A frame of the session stage at the head of a FIFO takes a header cell and is sent; without one it waits (R136, R138). A
frame of the export unit takes none (R386, assumption 52). -/
def Dev.sendRaw (d : Dev) (mac b : Nat) (e : EgPkt) : Dev :=
  if e.pkt.domain = 65527 then (d.popHead b e.cost).transmit mac b e.pkt.gen e.raw
  else match d.headerCell mac b e.pkt.gen with
  | (none, d) => d.setHead b { e with headerWait := some (e.headerWait.getD d.drip.now) }
  | (some c, d) => ((d.popHead b e.cost).transmit mac b e.pkt.gen e.raw).freeChain c

/-- The head of a bay's FIFO is transmitted, or freed where its MAC has no link or its data is poisoned. -/
def Dev.serveHead (d : Dev) (mac b : Nat) (e : EgPkt) : Dev :=
  if !d.macUp mac then
    let d := (d.popHead b e.cost).freeEgress e.pkt
    if mac = 64 then d.bump R.ropeCnt else d.bump (R.laneTxdown + 4 * mac)
  else if e.raw ≠ [] then d.sendRaw mac b e
  else
    let d := d.popHead b e.cost
    if d.chainPoisoned e.pkt.chain then (d.countChain e.pkt.chain).freeEgress e.pkt
    else (d.transmit mac b e.pkt.gen (d.chainBytes e.pkt.chain 0 e.pkt.len)).freeEgress e.pkt

/-- EGRESS_SERVE of a MAC: session data that heads a FIFO is cut, and the round robin chooses the head that is sent. -/
def Dev.egressServe (d : Dev) (mac : Nat) : Dev :=
  let d := d.cutHeads mac
  let (o, d') := d.nextBay mac
  match o with
  | none => d
  | some b =>
    match d'.fifo b with
    | [] => d
    | e :: _ => (d'.onEgrs (fun x => { x with serving := spSet 0 x.serving mac b })).serveHead mac b e

/-- The bays with a head that leaves by a MAC and waits for a header cell, with the head. -/
def Dev.headerWaiters (d : Dev) (mac : Nat) : List (Nat × EgPkt) :=
  d.egrs.fifos.filterMap (fun f => match f.2 with
    | e :: _ => if e.headerWait.isSome && e.mac = mac then some (f.1, e) else none
    | [] => none)

/-- The allocation of each waiting header cell is retried (R138); a head whose MAC has lost its link is freed (R480). -/
def Dev.headerRetry (d : Dev) (mac : Nat) : Dev :=
  (d.headerWaiters mac).foldl (fun d x => d.serveHead mac x.1 x.2) d

/-- A head that waited egr_wait drips of its generation for a header cell is dropped; its session is aborted, with an incident
record (R138). -/
def Dev.headerDrop (d : Dev) (b : Nat) (e : EgPkt) : Dev :=
  let d := ((d.popHead b e.cost).freeEgress e.pkt).sessCount 6
  match e.sess with
  | some sd => (d.abortSes sd.session e.pkt.gen false none).incident 10 Code.failEmpty 0 sd.session b
  | none => d

/-- Every head whose wait for a header cell has run out is dropped (R138). -/
def Dev.headerExpire (d : Dev) (mac : Nat) : Dev :=
  (d.headerWaiters mac).foldl (fun d x =>
    match x.2.headerWait with
    | some t => if t + d.atFld x.2.pkt.gen R.sessCfg 20 13 ≤ d.drip.now then d.headerDrop x.1 x.2 else d
    | none => d) d

/-! ## Lanes (R476 to R479, R507) -/

/-- The lanes of a MAC's group: those its binding names, or the four Rope lanes. -/
def Dev.macLanes (d : Dev) (mac : Nat) : List Nat :=
  if mac = 64 then [16, 17, 18, 19]
  else
    let k := R.portMacCfg + 4 * mac
    if bitOf (d.live k) 25 then (List.range (2 ^ d.liveFld k 20 19)).map (fun i => d.liveFld k 18 15 + i) else []

/-- The state of a lane: 0 DOWN, 1 TRAINING, 2 UP, 3 FENCED. -/
def Dev.laneState (d : Dev) (l : Nat) : Nat := d.ioFld (R.laneStat + 4 * l) 1 0

/-- Set field [hi:lo] of a lane's status. -/
def Dev.setLane (d : Dev) (l hi lo v : Nat) : Dev := d.setIoFld (R.laneStat + 4 * l) hi lo v

/-- A lane of a link that comes up: it carries logical lane `p`. -/
def Dev.laneUp (d : Dev) (l p : Nat) : Dev := (((d.setLane l 1 0 2).setLane l 7 6 p).setLane l 8 8 0).setLane l 9 9 0

/-- A lane begins a link-up attempt, or stays without a link, in state `st`: normal receive polarity first, the transmitter
as tx_pol has it. A fenced lane stays fenced. -/
def Dev.laneRestart (d : Dev) (st l : Nat) : Dev :=
  if d.laneState l = 3 then d
  else
    let d := ((d.setLane l 1 0 st).setLane l 4 4 0).setLane l 5 5 (b2n (d.liveFld (R.laneCfg + 4 * l) 1 0 = 2))
    d.onHlth (fun h => { h with txTried := spErase h.txTried l })

/-- The lanes of a group whose link is up, each with the logical lane it carries; without alignment lock the link does not
come up and align_fail is set (R479). -/
def Dev.groupUp (d : Dev) (ls pos : List Nat) (lock : Bool) : Dev :=
  if lock then (List.zip ls (pos ++ List.replicate 4 0)).foldl (fun d x => d.laneUp x.1 x.2) d
  else ls.foldl (fun d l => d.setLane l 8 8 1) d

/-- The lanes of a group that lost its link, each with whether it still sees a signal. -/
def Dev.groupDown (d : Dev) (ls : List Nat) (los : List Bool) : Dev :=
  (List.zip ls (los ++ List.replicate 4 false)).foldl
    (fun d x => (d.laneRestart 1 x.1).setLane x.1 9 9 (b2n x.2)) d

/-- The lanes may hold or seek a link: while serving, and in Survey mode until it fails, when every transmit lane is idle (R433). -/
def Dev.lanesLive (d : Dev) : Bool := d.serving || (d.mode = Mode.survey && d.ioFld R.loadSurvey 2 0 = 0)

/-- No lane of the group is fenced. -/
def Dev.lanesSound (d : Dev) (ls : List Nat) : Bool := ls.all (fun l => d.laneState l ≠ 3)

/-! ## Links and received PFC -/

/-- A MAC's PCS reports link up: only a MAC bound to lanes holds a link (R121), and none with a fenced lane does (R476). -/
def Dev.macLinkUp (d : Dev) (mac : Nat) (pos : List Nat) (lock : Bool) : Dev :=
  let ls := d.macLanes mac
  if d.lanesLive && mac < 64 && bitOf (d.live (R.portMacCfg + 4 * mac)) 25 && d.lanesSound ls then
    let d := d.groupUp ls pos lock
    if lock then d.onEgrs (fun e => { e with linkUp := spSet false e.linkUp mac true }) else d
  else d

/-- A link is lost: the received PFC state of the MAC is cleared (R480). -/
def Dev.macLinkDown (d : Dev) (mac : Nat) : Dev :=
  d.onEgrs (fun e => { e with
    linkUp := spSet false e.linkUp mac false, paused := e.paused.filter (fun p => p.1 / 8 ≠ mac) })

/-- Drips that `q` pause quanta of 512 bit times take at a MAC's rate, rounded up; the rate follows its line mode (R506). -/
def Dev.quantaDrips (d : Dev) (mac q : Nat) : Nat :=
  let k := d.liveFld (R.portMacCfg + 4 * mac) 24 21
  let gbps := [10, 10, 25, 25, 25, 50, 100, 100, 200, 400].getD k 10
  let ns := (q * 512 + gbps - 1) / gbps
  let drip := 500 * 2 ^ d.ioFld R.dripCfg 1 0
  (ns + drip - 1) / drip

/-- A received PFC frame: each enabled priority pauses for its time, or resumes at time 0 (R68, R117). -/
def Dev.pfcReceive (d : Dev) (mac enables : Nat) (times : List Nat) : Dev :=
  if !d.serving || 64 ≤ mac || !d.linkUp mac then d
  else (maskBits 8 enables).foldl (fun d q =>
    let t := times.getD q 0 % 2 ^ 16
    let until_ := d.drip.now + d.quantaDrips mac t
    d.onEgrs (fun e =>
      let m := if t = 0 then spErase e.paused (8 * mac + q) else spPut e.paused (8 * mac + q) until_
      { e with paused := m })) d

/-- A pause that has run out ends. -/
def Dev.pfcExpire (d : Dev) (mac q : Nat) : Dev :=
  match spFind d.egrs.paused (8 * mac + q) with
  | some e => if e ≤ d.drip.now then d.onEgrs (fun x => { x with paused := spErase x.paused (8 * mac + q) }) else d
  | none => d

/-- 32,768 quanta at the rate of MAC `m` have passed since pool `p` last sent it an XOFF (R68, assumption 50). -/
def Dev.xoffDue (d : Dev) (p m : Nat) : Bool :=
  match spFind d.ingr.xoffAt (xoffKey p m) with
  | some t => t + d.quantaDrips m 32768 ≤ d.drip.now
  | none => true

/-- A pool whose XOFF is in force has it repeated on each MAC whose interval has passed (R68). -/
def Dev.xoffRepeat (d : Dev) (p : Nat) : Dev :=
  if d.serving && spGet false d.ingr.xoff p then
    (d.pfcMacs p).foldl (fun e m => if d.linkUp m && d.xoffDue p m then e.pfcTo d p m 0xFFFF else e) d
  else d

/-! ## Rows -/

/-- EGRESS_SERVE (R117). -/
def execEgressServe (mac : Nat) (s : State) : Host.Outcome State Fault Refusal := s.run (fun d => d.egressServe mac)

/-- EGRESS_HEADER_RETRY (R138). -/
def execEgressHeaderRetry (mac : Nat) (s : State) : Host.Outcome State Fault Refusal := s.run (fun d => d.headerRetry mac)

/-- EGRESS_WAIT_EXPIRE (R138). -/
def execEgressWaitExpire (mac : Nat) (s : State) : Host.Outcome State Fault Refusal := s.run (fun d => d.headerExpire mac)

/-- LINK_UP (R121): the logical lane each lane of the group carries, and whether they align. -/
def execLinkUp (mac : Nat) (pos : List Nat) (lock : Bool) (s : State) : Host.Outcome State Fault Refusal :=
  s.run (fun d => d.macLinkUp mac pos lock)

/-- LINK_DOWN (R480): which lanes of the group have no signal. -/
def execLinkDown (mac : Nat) (los : List Bool) (s : State) : Host.Outcome State Fault Refusal :=
  s.run (fun d => if d.lanesLive && mac < 64 then (d.macLinkDown mac).groupDown (d.macLanes mac) los else d)

/-- PFC_FRAME_RECEIVE (R68, R117). -/
def execPfcFrameReceive (mac enables : Nat) (times : List Nat) (s : State) : Host.Outcome State Fault Refusal :=
  s.run (fun d => d.pfcReceive mac enables times)

/-- PFC_PAUSE_EXPIRE (R117). -/
def execPfcPauseExpire (mac prio : Nat) (s : State) : Host.Outcome State Fault Refusal :=
  s.run (fun d => d.pfcExpire mac prio)

/-- PFC_XOFF_REPEAT (R68). -/
def execPfcXoffRepeat (pool : Nat) (s : State) : Host.Outcome State Fault Refusal := s.run (fun d => d.xoffRepeat pool)

end Sys2Proof.Machine
end

