-- ==== Sys2Proof/Machine/SessRx.lean ====
section
/-! DEFINITION. The receive path of the session stage (R128 to R135, R139, R142, R143, R145, R149): a segment of a session,
its acknowledgement and data, the records it completes, and what leaves the stage. -/

namespace Sys2Proof.Machine

/-! ## Reading a segment -/

/-- A TCP segment as the session stage reads it, from the L3 and L4 marks of its packet. -/
structure Seg where
  v6 : Bool
  src : Nat
  dst : Nat
  sport : Nat
  dport : Nat
  seq : Nat
  ack : Nat
  flags : Nat
  wnd : Nat
  opts : Bytes
  payload : Bytes
  dmac : Nat
  smac : Nat
  sumOk : Bool
  deriving DecidableEq, Repr

/-- Read a packet as a TCP segment, with the verdict of its checksum; none when its L3 or L4 layer is not marked, or its version is neither 4 nor 6. -/
def Dev.readSeg (d : Dev) (p : Pkt) : Option Seg :=
  let l3 := p.mark 1
  let l4 := p.mark 2
  if l3 = 0xFFFF ∨ l4 = 0xFFFF then none
  else
    let b := d.msgBytes p
    let ver := beAt b l3 1 / 16
    let stop := if ver = 4 then l3 + beAt b (l3 + 2) 2 else l3 + 40 + beAt b (l3 + 4) 2
    let hl := 4 * (beAt b (l4 + 12) 1 / 16)
    let b' := b.take stop
    let l2 := if p.mark 0 = 0xFFFF then 0 else p.mark 0
    let n := if ver = 4 then 4 else 16
    let src := if ver = 4 then beAt b (l3 + 12) 4 else beAt b (l3 + 8) 16
    let dst := if ver = 4 then beAt b (l3 + 16) 4 else beAt b (l3 + 24) 16
    let tcp := b'.drop l4
    if ver ≠ 4 ∧ ver ≠ 6 then none
    else some {
      v6 := ver = 6, src := src, dst := dst
      sumOk := onesSum (beBytes n src ++ beBytes n dst ++ beBytes 4 tcp.length ++ beBytes 4 6 ++ tcp) % 0xFFFF = 0
      sport := beAt b l4 2, dport := beAt b (l4 + 2) 2, seq := beAt b (l4 + 4) 4, ack := beAt b (l4 + 8) 4
      flags := beAt b (l4 + 13) 1, wnd := beAt b (l4 + 14) 2
      opts := (b'.take (l4 + hl)).drop (l4 + 20), payload := b'.drop (l4 + hl)
      dmac := beAt b l2 6, smac := beAt b (l2 + 6) 6 }

/-- FIN is set. -/
def Seg.fin (g : Seg) : Bool := bitOf g.flags 0
/-- SYN is set. -/
def Seg.syn (g : Seg) : Bool := bitOf g.flags 1
/-- RST is set. -/
def Seg.rst (g : Seg) : Bool := bitOf g.flags 2
/-- ACK is set. -/
def Seg.hasAck (g : Seg) : Bool := bitOf g.flags 4

/-- The content of the first option of kind `k`. -/
def tcpOpt (k : Nat) : Nat → Bytes → Option Bytes
  | 0, _ => none
  | _ + 1, [] => none
  | f + 1, c :: r =>
    if c = 0 then none
    else if c = 1 then tcpOpt k f r
    else
      let n := beAt r 0 1
      if n < 2 then none
      else if c.toNat = k then some ((r.drop 1).take (n - 2))
      else tcpOpt k f (r.drop (n - 1))

/-- The content of a segment's option of kind `k`. -/
def Seg.opt (g : Seg) (k : Nat) : Option Bytes := tcpOpt k g.opts.length g.opts

/-- The session of a segment: the same bay, addresses and ports (R127). -/
def Dev.findSes (d : Dev) (bay : Nat) (g : Seg) : Option Nat :=
  (d.sess.tab.find? (fun e =>
    let i := e.2.id
    !e.2.isInner && i.bay = bay && i.v6 == g.v6 && i.raddr = g.src && i.laddr = g.dst && i.rport = g.sport
      && i.lport = g.dport)).map Prod.fst

/-! ## Creating a session (R131) -/

/-- The enabled listener of a bay and port in generation `gen`. -/
def Dev.findListener (d : Dev) (gen bay port : Nat) : Option Nat :=
  (List.range 256).find? (fun n =>
    let w := d.at gen (R.sessLsn0 + 8 * n)
    bitOf w 28 && bits w 11 0 = bay && bits w 27 12 = port)

/-- A free session id: which one is open. -/
def Dev.freeSes_ (d : Dev) : Nat → Nat → Option Nat
  | 0, _ => none
  | f + 1, n => if (d.ses n).isNone then some n else d.freeSes_ f ((n + 1) % d.sess.max)

/-- The next session id; none when sess_max sessions are in use. -/
def Dev.newSesId (d : Dev) : Option Nat :=
  if d.sess.tab.length < d.sess.max then d.freeSes_ (d.sess.tab.length + 1) (d.freeVal % d.sess.max) else none

/-- A sender at the start of a connection: the window of the profile (R140), no round trip measured. -/
def Dev.newTx (d : Dev) (gen : Nat) (i : SessId) (iss : Nat) : SessTx :=
  {
    una := iss, nxt := add32 iss 1, top := add32 iss 1, wnd := 0, scale := 0,
    cwnd := bits (d.profile gen i.profile 0) 7 2 * i.mss, ssthresh := 2 ^ 30, cubic := Cubic.init, dupAcks := 0, recover := none, srtt := 0,
    rttvar := 0, rto := d.clampRto gen i.profile d.secondDrips, timed := none,
    timer := some (d.drip.now + d.clampRto gen i.profile d.secondDrips), retx := 0, segs := [], items := [],
    sendq := [], finAsked := false, finSent := false }

/-- A receiver at the start of a connection; the window shift offered is open (R130 gives its range). -/
def Dev.newRx (d : Dev) (nxt : Nat) (ts sack : Bool) (tsRecent : Nat) : SessRx :=
  {
    nxt := nxt, scale := d.freeVal / 2 ^ 96 % 15, tsOn := ts, sackOn := sack, tsRecent := tsRecent, ooo := [], buf := [],
    chain := Chain.null, held := [], hsWait := [], ackPend := 0, ackDrip := 0, fin := false, heard := d.drip.now, probed := 0,
    probes := 0 }

/-- A record layer without keys. -/
def SessTls.new : SessTls := ⟨0, 0, none, none, 0, 0, 0, 0, false, [], 0, none⟩

/-- A session in state SYN whose first segment is `f`: it is listed, hot, and its segment goes to the FIFO. -/
def Dev.createSes (d : Dev) (n : Nat) (s : Session) (f : Bytes) : Dev :=
  let seg : TxSeg := ⟨s.tx.una, 1, [], false, f, false⟩
  let s := { s with tx := { s.tx with segs := [seg] } }
  ((d.setSes n s).touchSes n).pushRaw s.id.bay (some n) f

/-- A SYN that matches an enabled listener (R130, R131): answered with SYN-ACK, refused with RST, or no reply. -/
def Dev.synListen (d : Dev) (p : Pkt) (g : Seg) (l : Nat) : Dev :=
  let w0 := d.at p.gen (R.sessLsn0 + 8 * l)
  let w1 := d.at p.gen (R.sessLsn1 + 8 * l)
  let adv := 64 * bits w1 31 23
  let peer := match g.opt 2 with | some b => beNat b | none => if g.v6 then 1220 else 536
  let i : SessId := {
    bay := p.bay, listener := some l, issuer := 0, task := none, prio := 0, profile := bits w1 22 20,
    tls := bitOf w0 29, domain := p.domain, v6 := g.v6, raddr := g.src, laddr := g.dst, rport := g.sport,
    lport := g.dport, dmac := g.smac, smac := g.dmac, mss := Nat.min adv peer }
  let iss := d.freeVal / 2 ^ 128 % 2 ^ 32
  let ts := g.opt 8
  let v := d.freeVal
  let rx := d.newRx (add32 g.seq 1) ts.isSome (g.opt 4).isSome (match ts with | some b => beAt b 0 4 | none => 0)
  let rx := { rx with scale := if (g.opt 3).isSome then rx.scale else 0 }
  let tx := { d.newTx p.gen i iss with wnd := g.wnd, scale := match g.opt 3 with | some b => Nat.min 14 (beNat b) | none => 0 }
  let s : Session := ⟨.syn, i, tx, rx, SessTls.new, false, 0⟩
  if (g.opt 19).isSome || (g.opt 29).isSome then
    (d.freeStep.pushRaw p.bay none (s.frame v 0 (add32 g.seq 1) 0x14 [] [])).sessCount 9
  else match d.newSesId with
    | none => d.sessCount 0
    | some n => d.freeStep.createSes n s (s.frame v iss rx.nxt 0x12
        ([2, 4] ++ beBytes 2 adv ++ (if (g.opt 3).isSome then [1, 3, 3, BitVec.ofNat 8 rx.scale] else [])
          ++ (if rx.sackOn then [1, 1, 4, 2] else []) ++ s.tsOpt v) [])

/-- TCP is established: HANDSHAKE for TLS, else ESTABLISHED (R131). -/
def Session.up (s : Session) : Session := { s with state := if s.id.tls then .handshake else .established }

/-! ## Acknowledgements received -/

/-- The greatest number whose cube is at most `n`. -/
def cubeRoot (n : Nat) : Nat :=
  (List.range 64).foldl (fun r i => let x := r + 2 ^ (63 - i); if x ^ 3 ≤ n then x else r) 0

/-- The window of CUBIC's curve in bytes, `t` drips into its stage, with C = 0.4 (PRESUMED: RFC 9438). -/
def cubicAt (sec mss : Nat) (c : Cubic) (t : Nat) : Int :=
  let x : Int := (t : Int) - c.k
  c.wMax + 2 * mss * (x * x * x) / (5 * (sec : Int) ^ 3)

/-- CUBIC at an acknowledgement of `acked` new bytes in congestion avoidance (PRESUMED: RFC 9438, beta 0.7, windows rounded down
to bytes): a stage begins if none runs; the window follows the curve, or the estimate of NewReno where that is greater. -/
def Dev.growCubic (d : Dev) (s : Session) (acked : Nat) : SessTx :=
  let t := s.tx
  let w := t.cwnd
  let mss := s.id.mss
  let sec := d.secondDrips
  let c := match t.cubic.epoch with
    | some _ => t.cubic
    | none =>
      if w < t.cubic.wMax then
        { t.cubic with epoch := some d.drip.now, est := w, k := cubeRoot (5 * (t.cubic.wMax - w) * sec ^ 3 / (2 * Nat.max 1 mss)) }
      else { t.cubic with epoch := some d.drip.now, est := w, wMax := w, k := 0 }
  let at_ := d.drip.now - c.epoch.getD d.drip.now
  let target := Nat.max w (Nat.min (cubicAt sec mss c (at_ + t.srtt)).toNat (w * 3 / 2))
  let est := c.est + (if c.prior ≤ c.est then acked * mss / Nat.max 1 w else 9 * acked * mss / (17 * Nat.max 1 w))
  let next := if (cubicAt sec mss c at_).toNat < est then Nat.max w est else w + mss * (target - w) / Nat.max 1 w
  { t with cwnd := next, cubic := { c with est := est } }

/-- The sender with its congestion window after `acked` new bytes (R140). -/
def Dev.growCwnd (d : Dev) (gen : Nat) (s : Session) (acked : Nat) : SessTx :=
  let c := s.tx.cwnd
  match bits (d.profile gen s.id.profile 0) 1 0 with
  | 2 => s.tx
  | a =>
    if c < s.tx.ssthresh then { s.tx with cwnd := c + Nat.min acked s.id.mss }
    else if a = 1 then d.growCubic s acked
    else { s.tx with cwnd := c + Nat.max 1 (s.id.mss * s.id.mss / Nat.max 1 c) }

/-- CUBIC's state after a loss: its stage ends, and the window to come back to is the present one, or less where the window had
not come back to the last (PRESUMED: RFC 9438, fast convergence); after a timeout there is none. -/
def SessTx.lossCubic (t : SessTx) (timeout : Bool) : Cubic :=
  { t.cubic with
    epoch := none, prior := t.cwnd,
    wMax := if timeout then 0 else if t.cwnd < t.cubic.wMax then t.cwnd * 17 / 20 else t.cwnd }

/-- The slow-start threshold after a loss: half the flight, or seven tenths under CUBIC, at least two segments. -/
def Dev.lossThresh (d : Dev) (gen : Nat) (s : Session) : Nat :=
  let fl := sub32 s.tx.nxt s.tx.una
  let a := bits (d.profile gen s.id.profile 0) 1 0
  Nat.max (2 * s.id.mss) (if a = 1 then fl * 7 / 10 else fl / 2)

/-- A round-trip sample of `r` drips (PRESUMED: RFC 6298). -/
def Dev.rttSample (d : Dev) (gen : Nat) (s : Session) (r : Nat) : Session :=
  let t := s.tx
  let (srtt, var) := if t.srtt = 0 then (r, r / 2)
    else ((7 * t.srtt + r) / 8, (3 * t.rttvar + (Nat.max r t.srtt - Nat.min r t.srtt)) / 4)
  { s with tx := { t with
    srtt := Nat.max 1 srtt, rttvar := var, timed := none,
    rto := d.clampRto gen s.id.profile (srtt + Nat.max 1 (4 * var)) } }

/-- Segments that SACK blocks cover are marked. -/
def Session.sackIn (s : Session) (b : Bytes) : Session :=
  let blocks := (List.range (b.length / 8)).map (fun i => (beAt b (8 * i) 4, beAt b (8 * i + 4) 4))
  { s with tx := { s.tx with segs := s.tx.segs.map (fun g =>
      if blocks.any (fun x => seqLe x.1 g.seq && seqLe (add32 g.seq g.len) x.2) then { g with sacked := true } else g) } }

/-- A new acknowledgement up to `a`: what it covers is forgotten and freed; a fixed window stays (R140). -/
def Dev.newAck (d : Dev) (n gen : Nat) (s : Session) (a : Nat) : Dev :=
  let acked := sub32 a s.tx.una
  let s := match s.tx.timed with
    | some (q, t) => if seqLe q a then d.rttSample gen s (d.drip.now - t) else s
    | none => s
  let fixed := bits (d.profile gen s.id.profile 0) 1 0 = 2
  let tx := match s.tx.recover with
    | some r =>
      if fixed then s.tx
      else { s.tx with cwnd := if seqLe r a then s.tx.ssthresh else s.tx.cwnd - acked + s.id.mss }
    | none => d.growCwnd gen s acked
  let segs := s.tx.segs.filter (fun g => !seqLe (add32 g.seq g.len) a)
  let gone := s.tx.items.filter (fun i => seqLe i.stop a)
  let d := gone.foldl (fun d i => d.freeChain i.chain) d
  let partial_ := match s.tx.recover with | some r => !seqLe r a | none => false
  let s := { s with tx := { tx with
    una := a, segs := segs, items := s.tx.items.filter (fun i => !seqLe i.stop a), dupAcks := 0, retx := 0,
    recover := if partial_ then s.tx.recover else none,
    timer := if segs = [] && s.tx.sendq = [] then none else some (d.drip.now + s.tx.rto) } }
  let d := d.setSes n s
  if partial_ then d.resendFirst n else d

/-- A duplicate acknowledgement: the third resends the first segment (PRESUMED: RFC 5681, RFC 6582). -/
def Dev.dupAck (d : Dev) (n gen : Nat) (s : Session) : Dev :=
  let k := s.tx.dupAcks + 1
  if k = 3 ∧ s.tx.recover = none then
    let th := d.lossThresh gen s
    let fixed := bits (d.profile gen s.id.profile 0) 1 0 = 2
    (d.setSes n { s with tx := { s.tx with
      dupAcks := k, ssthresh := th, cubic := s.tx.lossCubic false, cwnd := if fixed then s.tx.cwnd else th + 3 * s.id.mss,
      recover := some s.tx.nxt, timed := none } }).resendFirst n
  else
    let grow := if s.tx.recover.isSome ∧ bits (d.profile gen s.id.profile 0) 1 0 ≠ 2 then s.id.mss else 0
    d.setSes n { s with tx := { s.tx with dupAcks := k, cwnd := s.tx.cwnd + grow } }

/-- Both FINs are acknowledged: the session is CLOSED (R131). -/
def Dev.finCheck (d : Dev) (n : Nat) : Dev :=
  match d.ses n with
  | some s => if s.rx.fin && s.tx.finSent && s.tx.una = s.tx.top then d.closeSes n else d
  | none => d

/-- The acknowledgement of a segment: new data acknowledged, a duplicate, the peer's window; then what the window now
allows is sent. -/
def Dev.ackIn (d : Dev) (n gen : Nat) (g : Seg) : Dev :=
  match d.ses n with
  | none => d
  | some s =>
    let s := match g.opt 5 with | some b => s.sackIn b | none => s
    let w := g.wnd * 2 ^ s.tx.scale
    let dup := g.ack = s.tx.una && g.payload = [] && w = s.tx.wnd && !g.fin && s.tx.segs.any (fun x => x.frame ≠ [])
    let s := { s with tx := { s.tx with wnd := w } }
    let d := if seqLt s.tx.una g.ack && seqLe g.ack s.tx.nxt then d.newAck n gen s g.ack
      else if dup then d.dupAck n gen s else d.setSes n s
    (d.pumpOut n).finCheck n

/-! ## Records received (R142, R143) -/

/-- How a run of records ends early. -/
inductive RecErr | none | auth | overflow | quiet
  deriving DecidableEq, Repr

/-- The records of a run: the record layer after it, bytes left, entries of application data and of the rest, records
skipped, close_notify seen, a record that waits for keys, and an error. -/
structure RecRun where
  tls : SessTls
  buf : Bytes
  app : Bytes
  hs : Bytes
  skips : Nat
  closing : Bool
  waits : Bool
  err : RecErr
  deriving DecidableEq, Repr

/-- The types of the handshake messages that are complete, and the bytes of the last that is not. -/
def hsScan : Nat → Bytes → List Nat × Bytes
  | 0, bs => ([], bs)
  | f + 1, bs =>
    let n := 4 + beAt bs 1 3
    if bs.length < 4 || bs.length < n then ([], bs)
    else
      let (l, r) := hsScan f (bs.drop n)
      (beAt bs 0 1 :: l, r)

/-- The record layer after the content of a handshake record: a Finished that is complete is noted (R145), and each KeyUpdate that
is complete advances the receive secret before the next record (R143). -/
def SessTls.handshake (t : SessTls) (c : Bytes) : SessTls :=
  let b := t.hsPart ++ c
  let (l, r) := hsScan b.length b
  let t := { t with hsPart := r, finished := t.finished || l.contains 20 }
  (l.filter (fun x => x = 24)).foldl (fun t _ =>
    { t with rxSecret := t.rxSecret.map (nextSecret t.rxSuite), rxNum := 0 }) t

/-- An alert: close_notify, or an abort without an alert (R143). -/
def RecRun.alert (r : RecRun) (c : Bytes) : RecRun :=
  if beAt c 1 1 = 0 then { r with closing := true } else { r with err := .quiet }

/-- A record that was opened, by its inner content type; `est` in ESTABLISHED. Records for the handshake task stand in marked
entries, as recirculated data does (R148, assumption 53). -/
def RecRun.inner (r : RecRun) (est : Bool) (t : Nat) (c : Bytes) : RecRun :=
  if t = 21 then r.alert c
  else if t = 22 then { r with hs := r.hs ++ markEntry 22 c, tls := r.tls.handshake c }
  else if !est then { r with hs := r.hs ++ markEntry t c }
  else if t = 23 then { r with app := r.app ++ markEntry 23 c }
  else r

/-- One record with header `h` and body `b`; none when it waits for keys (R145). The bytes that R142 lets it discard count each
record's header with its ciphertext (assumption 53). -/
def RecRun.one (r : RecRun) (est : Bool) (h b : Bytes) : Option RecRun :=
  let t := beAt h 0 1
  if t = 20 then some (if b = [1] then r else { r with err := .auth })
  else match r.tls.rxSecret with
    | none =>
      if t = 23 then none
      else if est then some { r with err := .auth }
      else if t = 21 then some (r.alert b)
      else some { r with hs := r.hs ++ markEntry t b }
    | some k =>
      if t ≠ 23 then some { r with err := .auth }
      else if !est && (r.tls.finished || r.tls.rxPhase = 2) then none
      else match openRecord r.tls.rxSuite k r.tls.rxNum h b with
        | some (ct, c) =>
          some (({ r with tls := { r.tls with rxNum := r.tls.rxNum + 1 } }).inner est ct c)
        | none =>
          if !est && r.tls.skipped + 5 + b.length ≤ 16384 then
            some { r with skips := r.skips + 1, tls := { r.tls with skipped := r.tls.skipped + 5 + b.length } }
          else some { r with err := .auth }

/-- Every complete record of the bytes held. -/
def RecRun.go (est : Bool) : Nat → RecRun → RecRun
  | 0, r => r
  | f + 1, r =>
    let len := beAt r.buf 3 2
    if r.buf.length < 5 then r
    else if 16640 < len then { r with err := .overflow }
    else if r.buf.length < 5 + len then r
    else match r.one est (r.buf.take 5) ((r.buf.drop 5).take len) with
      | none => { r with waits := true }
      | some x =>
        if x.err ≠ .none then x else RecRun.go est f { x with buf := r.buf.drop (5 + len) }

/-- The records of a session's bytes. -/
def Session.records (s : Session) (buf : Bytes) : RecRun :=
  RecRun.go (s.state ≠ .handshake) buf.length ⟨s.tls, buf, [], [], 0, false, false, .none⟩

/-! ## Delivery (R133, R134) -/

/-- The first `k` cells of a chain, and the rest of it. -/
def Dev.splitAt (d : Dev) (c : Chain) (k : Nat) : Chain × Chain × Dev :=
  let l := d.chainCells c
  if k = 0 then (Chain.null, c, d)
  else match l.drop k, (l.take k).getLast? with
    | h :: r, some i =>
      (⟨c.head, k⟩, ⟨h, r.length + 1⟩, d.mapCells [i] (fun x => { x with next := cellEnd }))
    | _, _ => (c, Chain.null, d)

/-- Write plaintext in place from byte 0 of a chain; the cells beyond it are freed (R134). -/
def Dev.writePlain (d : Dev) (c : Chain) (bs : Bytes) : Chain × Dev :=
  let (a, b, d) := (d.chainWrite c 0 bs).splitAt c (cellsFor bs.length)
  (a, d.freeChain b)

/-- The chains a run of records leaves of the cells it came in: application data in place from byte 0, then other records in the
cells that follow, then the cells that `rest` bytes not yet delivered need; those beyond are freed (R134, assumption 53). -/
def Dev.layOut (d : Dev) (c : Chain) (app hs : Bytes) (rest : Nat) : Chain × Chain × Chain × Dev :=
  let (a, x, d) := d.splitAt c (cellsFor app.length)
  let (b, y, d) := d.splitAt x (cellsFor hs.length)
  let (r, z, d) := d.splitAt y (cellsFor rest)
  (a, b, r, (((d.chainWrite a 0 app).chainWrite b 0 hs).freeChain z))

/-- Handshake messages to deliver now, and those that wait: messages beside application data wait for a segment whose cells hold
them too, since the stage allocates none (R134, assumption 53). -/
def hsNow (c : Chain) (app hs : Bytes) : Bytes × Bytes :=
  if cellsFor app.length + cellsFor hs.length ≤ c.count then (hs, []) else ([], hs)

/-- The packet that carries a delivery. -/
def Pkt.carrying (p : Pkt) (n : Nat) (c : Chain) (len : Nat) : Pkt :=
  { p with chain := c, len := len, dataOff := 0, session := some n }

/-- An abort for a record that failed (R143), in a segment of generation `gen`. -/
def Dev.recAbort (d : Dev) (n gen : Nat) (e : RecErr) : Dev :=
  match e with
  | .none => d
  | .auth => ((d.sessCount 3).incident 10 Code.sealInvalid 0 n 0).abortSes n gen false (some 20)
  | .overflow => d.abortSes n gen false (some 22)
  | .quiet => d.abortSes n gen true none

/-- What a run of records delivers beside application data goes to the session's handshake task: with the segment's number `p`
where it is all there is, else as a notification (R133, R143, R145). -/
def Dev.deliverHs (d : Dev) (n : Nat) (s : Session) (p : Pkt) (app hs : Bytes) (b : Chain) : Dev :=
  if hs = [] then d
  else if app = [] then d.toHandler p.gen s (p.carrying n b hs.length)
  else d.notifyWith n p.gen b hs.length

/-- Deliver what the first `k` of a session's in-order bytes complete: the packet that goes on with its action, if any; with
records of TLS it goes on as the action's type directs, also where R133 names no action of that type (assumption 53). `p` no
longer holds the cells of its segment. A record that comes before its keys waits with the packet that completed it, which has no
number of its own where the segment's number is spent (R145, R391). -/
def Dev.deliverTo (d : Dev) (n : Nat) (p : Pkt) (k : Nat) : Option Pkt × Dev :=
  match d.ses n with
  | none => (none, d.dropPkt p)
  | some s =>
    if !s.id.tls then
      if s.rx.buf = [] then
        (none, ((d.freeChain s.rx.chain).setSes n { s with rx := { s.rx with chain := Chain.null } }).dropPkt p)
      else
        let (c, d) := d.writePlain s.rx.chain s.rx.buf
        (some (p.carrying n c s.rx.buf.length), d.setSes n { s with rx := { s.rx with buf := [], chain := Chain.null } })
    else
      let r := s.records (s.rx.buf.take k)
      let buf := r.buf ++ s.rx.buf.drop k
      let (hs, later) := hsNow s.rx.chain r.app (s.rx.hsWait ++ r.hs)
      if s.rx.chain.count < cellsFor r.app.length then (none, d.dropPkt p)
      else
        let d := d.bumpBy (R.sessCnt + 16) r.skips
        let out := r.app ≠ [] || hs ≠ []
        let (a, b, c, d) := if out || buf = [] then d.layOut s.rx.chain r.app hs buf.length
          else (Chain.null, Chain.null, s.rx.chain, d)
        let held := if r.waits then s.rx.held ++ [(if out then { p with seq := none } else p, r.buf.length)] else s.rx.held
        let s := { s with
          tls := r.tls, state := if r.closing then .closing else s.state,
          rx := { s.rx with buf := buf, chain := c, held := held, hsWait := later } }
        let d := d.setSes n s
        let d := if r.closing then d.notifySes n p.gen else d
        let d := d.deliverHs n s p r.app hs b
        let d := if out || r.waits then d else d.dropPkt p
        (if r.app = [] then none else some (p.carrying n a r.app.length), d.recAbort n p.gen r.err)

/-- Deliver what all of a session's in-order bytes complete. -/
def Dev.deliver (d : Dev) (n : Nat) (p : Pkt) : Option Pkt × Dev :=
  d.deliverTo n p (match d.ses n with | some s => s.rx.buf.length | none => 0)

/-! ## Data in sequence (R132, R135) -/

/-- A data segment arrived: an ACK when more than ack_segs are unacknowledged (R135). -/
def Dev.countData (d : Dev) (n gen : Nat) : Dev :=
  match d.ses n with
  | none => d
  | some s =>
    let k := s.rx.ackPend + 1
    let d := d.setSes n { s with rx := { s.rx with
      ackPend := k, ackDrip := if s.rx.ackPend = 0 then d.drip.now else s.rx.ackDrip } }
    if b2n (bitOf (d.profile gen s.id.profile 0) 8) < k then d.emitAck n gen else d

/-- Put an out-of-order segment in its place among those held. -/
def insertOoo (o : OooSeg) : List OooSeg → List OooSeg
  | [] => [o]
  | x :: r => if seqLt o.seq x.seq then o :: x :: r else x :: insertOoo o r

/-- In-order bytes join the session's, with their cells. -/
def Dev.joinData (d : Dev) (n : Nat) (bs : Bytes) (c : Chain) (fin : Bool) : Dev :=
  match d.ses n with
  | none => d.freeChain c
  | some s =>
    let (j, d) := d.joinChains s.rx.chain c
    d.setSes n { s with rx := { s.rx with
      buf := s.rx.buf ++ bs, chain := j, nxt := add32 s.rx.nxt (bs.length + b2n fin), fin := s.rx.fin || fin } }

/-- Held segments that have come into sequence follow. -/
def Dev.pullOoo : Nat → Dev → Nat → Dev
  | 0, d, _ => d
  | f + 1, d, n =>
    match d.ses n with
    | none => d
    | some s => match s.rx.ooo with
      | [] => d
      | o :: rest =>
        if seqLe o.seq s.rx.nxt then
          let d := d.setSes n { s with rx := { s.rx with ooo := rest } }
          let k := sub32 s.rx.nxt o.seq
          let d := if k < o.data.length + b2n o.fin then d.joinData n (o.data.drop k) o.chain o.fin
            else d.freeChain o.chain
          Dev.pullOoo f d n
        else d

/-- Cells a session holds out of order, or while it waits for keys. -/
def Session.heldCells (s : Session) : Nat :=
  ((s.rx.ooo.map (fun o => o.chain.count)).foldl (· + ·) 0) + (if s.rx.held = [] then 0 else s.rx.chain.count)

/-- After data in sequence: a FIN that came with it, where none had come before, makes the session CLOSING and is acknowledged at
once (R131), also when the session is CLOSING already; other data is counted for its acknowledgement (R135). -/
def Dev.finIn (d : Dev) (n gen : Nat) (before data : Bool) : Dev :=
  match d.ses n with
  | some s =>
    if s.state = .closed then d
    else if s.rx.fin && !before then ((d.setSes n { s with state := .closing }).emitAck n gen).finCheck n
    else (if data then d.countData n gen else d).finCheck n
  | none => d

/-- The data and FIN of a segment. -/
def Dev.dataIn (d : Dev) (n : Nat) (p : Pkt) (g : Seg) : Option Pkt × Dev :=
  match d.ses n with
  | none => (none, d.dropPkt p)
  | some s =>
    let len := g.payload.length + b2n g.fin
    let cut := if seqLt g.seq s.rx.nxt then sub32 s.rx.nxt g.seq else 0
    let limit := bits (d.profile p.gen s.id.profile 2) 31 20
    if len = 0 then (none, d.dropPkt p)
    else if len ≤ cut then (none, (d.emitAck n p.gen).dropPkt p)
    else if (seqLt s.rx.nxt g.seq || s.rx.held ≠ []) && limit < s.heldCells + p.chain.count then
      (none, (d.sessCount 2).dropPkt p)
    else if seqLt s.rx.nxt g.seq then
      let o : OooSeg := ⟨g.seq, g.payload, p.chain, g.fin, (s.rx.ooo.map (fun x => x.order + 1)).foldl Nat.max 0⟩
      let d := d.setSes n { s with rx := { s.rx with ooo := insertOoo o s.rx.ooo } }
      let d := if g.payload = [] then d else d.countData n p.gen
      (none, d.dropPkt { p with chain := Chain.null })
    else
      let d := d.joinData n (g.payload.drop cut) p.chain g.fin
      let d := Dev.pullOoo s.rx.ooo.length d n
      let (o, d) := d.deliver n { p with chain := Chain.null }
      (o, d.finIn n p.gen s.rx.fin (g.payload ≠ []))

/-! ## A segment of a session -/

/-- A packet that the session consumes without data. -/
def Dev.consume (d : Dev) (p : Pkt) : Option Pkt × Dev := (none, d.dropPkt p)

/-- A segment for a session in state SYN: none when the session has come up and the segment goes on. -/
def Dev.synSegment (d : Dev) (n gen : Nat) (s : Session) (g : Seg) : Option Dev :=
  let good := g.hasAck && g.ack = add32 s.tx.una 1
  if g.rst then some (if good || s.id.listener.isSome then d.closeSes n else d)
  else if s.id.listener.isSome then
    if g.syn then some (d.resendFirst n) else if good then none else some d
  else if g.syn && good then
    let ts := g.opt 8
    let peer := match g.opt 2 with | some b => beNat b | none => if g.v6 then 1220 else 536
    let tx := { s.tx with
      una := g.ack, segs := [], timer := none, wnd := g.wnd,
      scale := match g.opt 3 with | some b => Nat.min 14 (beNat b) | none => 0 }
    let rx := { s.rx with
      nxt := add32 g.seq 1, tsOn := ts.isSome, sackOn := (g.opt 4).isSome,
      scale := if (g.opt 3).isSome then s.rx.scale else 0, heard := d.drip.now,
      tsRecent := match ts with | some b => beAt b 0 4 | none => 0 }
    let s := { s with tx := tx, rx := rx, id := { s.id with mss := Nat.min s.id.mss peer } }.up
    some (((d.setSes n s).emitAck n gen).pumpOut n)
  else if g.syn then some (d.pushSes n s (fun v => s.frame v 0 (add32 g.seq 1) 0x14 [] []))
  else some d

/-- A segment of a session that is hot, in admission order (R132): the packet that goes on, if any. -/
def Dev.sesSegment (d : Dev) (n : Nat) (p : Pkt) (g : Seg) : Option Pkt × Dev :=
  match d.ses n with
  | none => d.consume p
  | some s =>
    if s.state = .closed then d.consume p
    else if d.chainPoisoned p.chain then ((d.countChain p.chain).abortSes n p.gen false none).consume p
    else match (if s.state = .syn then d.synSegment n p.gen s g else none) with
      | some d => d.consume p
      | none =>
        let s := if s.state = .syn then s.up else s
        let old := s.rx.tsOn && (match g.opt 8 with | some b => seqLt (beAt b 0 4) s.rx.tsRecent | none => false)
        if g.rst then
          if g.seq = s.rx.nxt then (d.closeSes n).consume p else (d.emitAck n p.gen).consume p
        else if g.syn || old then (d.emitAck n p.gen).consume p
        else if !g.hasAck then d.consume p
        else
          let ts := match g.opt 8 with
            | some b => if s.rx.tsOn && seqLe g.seq s.rx.nxt then beAt b 0 4 else s.rx.tsRecent
            | none => s.rx.tsRecent
          let s := { s with rx := { s.rx with tsRecent := ts, heard := d.drip.now, probes := 0 } }
          let d := (d.setSes n s).ackIn n p.gen g
          d.dataIn n p g

/-- The packets that wait in a pipe's miss queue (R128). -/
def Dev.missQ (d : Dev) (pipe : Nat) : List Pkt := spGet [] d.sess.missq pipe

/-- Set a pipe's miss queue. -/
def Dev.setMissQ (d : Dev) (pipe : Nat) (l : List Pkt) : Dev :=
  d.onSess (fun x => { x with missq := spSet [] x.missq pipe l })

/-- A packet with session 1 on pass 0 at the session stage: the packet that goes on with its action, if any (R128, R131,
R132). A segment whose TCP checksum is wrong is dropped (R130). A packet that belongs to no session, and is no SYN for a
listener, goes on. -/
def Dev.sessionStage (d : Dev) (p : Pkt) : Option Pkt × Dev :=
  match d.readSeg p with
  | none => (some p, d)
  | some g =>
    match d.findSes p.bay g with
    | some n =>
      if !g.sumOk then d.consume p
      else
      let waits := (d.missQ p.pipe).any (fun q => q.session = some n)
      if d.sess.hot.contains n && !waits then (d.touchSes n).sesSegment n p g
      else
        let d := if waits then d else d.sessCount 10
        if 2048 ≤ (d.missQ p.pipe).length then (d.sessCount 1).consume p
        else (none, d.setMissQ p.pipe (d.missQ p.pipe ++ [{ p with session := some n }]))
    | none =>
      match (if g.syn && !g.hasAck then d.findListener p.gen p.bay g.dport else none) with
      | some l => (if g.sumOk then d.synListen p g l else d).consume p
      | none => (some p, d)

/-! ## The inner session (R149) -/

/-- The contents of the entries of recirculated data, joined. -/
def entryContents : Nat → Bytes → Bytes
  | 0, _ => []
  | f + 1, bs =>
    if bs.length < 4 then []
    else
      let n := beAt bs 0 2
      (bs.drop 4).take n ++ entryContents f (bs.drop (4 + n))

/-- RECIRCULATE on passes 1 to 3: the records of the inner session in the packet's data (R149), which stand in marked entries
unless the data is the payload of a session without TLS: none when the packet's session has no inner session, else the packet that
goes on, if any. The cells of an inner record that is not complete stay with the inner session. Passes 2 and 3 use the same inner
session again (assumption 53); one that was closed is no inner session any more. -/
def Dev.innerPass (d : Dev) (p : Pkt) : Option (Option Pkt × Dev) :=
  match p.session.bind d.ses with
  | none => none
  | some outer => match outer.tls.inner with
    | none => none
    | some m => match d.ses m with
      | none => none
      | some s =>
        if !s.isInner || s.state = .closed then none
        else
        let b := d.msgBytes p
        let marked := outer.id.tls || 2 ≤ p.pass
        let buf := s.rx.buf ++ (if marked then entryContents b.length b else b)
        let r := { s with state := .established }.records buf
        let (c, d) := d.joinChains s.rx.chain p.chain
        let p := { p with chain := Chain.null }
        let (hs, later) := hsNow c r.app (s.rx.hsWait ++ r.hs)
        if c.count < cellsFor r.app.length then
          some (none, (d.setSes m { s with rx := { s.rx with buf := buf, chain := c } }).dropPkt p)
        else
          let (a, h, c, d) := if r.app ≠ [] || hs ≠ [] || r.buf = [] then d.layOut c r.app hs r.buf.length
            else (Chain.null, Chain.null, c, d)
          let n := p.session.getD 0
          let d := d.setSes m { s with tls := r.tls, rx := { s.rx with buf := r.buf, chain := c, hsWait := later } }
          let d := if r.closing then d.notifySes n p.gen else d
          let d := if hs = [] then d else d.notifyWith n p.gen h hs.length
          let d := d.recAbort m p.gen r.err
          if r.app = [] then some (none, d.dropPkt p)
          else some (some { p with chain := a, len := r.app.length, dataOff := 0 }, d)

end Sys2Proof.Machine
end

