-- ==== Sys2Proof/Machine/Forward.lean ====
section
/-! DEFINITION. The forwarding stage (chapter 06): keys and hashes, lookups, source learning, and what a boundary makes of
them (R151 to R165). -/

namespace Sys2Proof.Machine

/-! ## Slots and keys (R151 to R154) -/

/-- Word `w` of a slot. -/
def slotWord (e : BitVec 256) (w : Nat) : Nat := bits e.toNat (32 * w + 31) (32 * w)

/-- A slot of the given words. -/
def slotOf (ws : List Nat) : BitVec 256 := BitVec.ofNat 256 (ws.foldr (fun w n => w % 2 ^ 32 + 2 ^ 32 * n) 0)

/-- Slot `i` = 4 × bucket + place; a slot that was never written is not valid. -/
def Dev.fslot (d : Dev) (i : Nat) : BitVec 256 := spGet 0 d.fwd.slots i

/-- Write a slot. -/
def Dev.setFslot (d : Dev) (i : Nat) (e : BitVec 256) : Dev := d.onFwd (fun f => { f with slots := spSet 0 f.slots i e })

/-- valid. -/
def slotValid (e : BitVec 256) : Bool := bitOf e.toNat 0
/-- static. -/
def slotStatic (e : BitVec 256) : Bool := bitOf e.toNat 3
/-- type. -/
def slotType (e : BitVec 256) : Nat := bits e.toNat 5 4
/-- The result bay. -/
def slotBay (e : BitVec 256) : Nat := bits e.toNat 17 6

/-- A slot with hit, stale and, when given, bay replaced. -/
def slotWith (e : BitVec 256) (hit stale : Bool) (bay : Nat) : BitVec 256 :=
  let w := slotWord e 0
  let w' := w % 2 + b2n hit * 2 + b2n stale * 4 + bits w 5 3 * 8 + bay % 2 ^ 12 * 64
  BitVec.ofNat 256 (e.toNat - w + w')

/-- A key: the entry type and the key words of its slot, for IPv6 of the head and the continuation. -/
structure FKey where
  type : Nat
  words : List Nat
  deriving DecidableEq, Repr

/-- A hash of a key (R152): a CRC-32C from the seed, over the type byte and the words. -/
def FKey.hash (k : FKey) (seed : Nat) : Nat :=
  (((leBytes 1 k.type ++ k.words.flatMap (leBytes 4)).foldl crcByte seed) ^^^ 0xFFFFFFFF) % 2 ^ 17

/-- The candidate buckets of a key, half 0 first (R151). -/
def Dev.buckets (d : Dev) (k : FKey) : List Nat :=
  [k.hash (d.io R.fwdtHashSeed0), 131072 + k.hash (d.io R.fwdtHashSeed1)]

/-- The key words of a slot that a key of `n` words compares. -/
def slotKey (e : BitVec 256) (n : Nat) : List Nat := (List.range n).map (fun i => slotWord e (1 + i))

/-- Slot `s` of bucket `b` matches a key. -/
def Dev.slotMatch (d : Dev) (k : FKey) (b s : Nat) : Bool :=
  let e := d.fslot (4 * b + s)
  if k.type = 2 then
    let c := d.fslot (4 * b + s + 1)
    s % 2 = 0 && slotValid e && slotType e = 2 && slotKey e 7 = k.words.take 7 && slotValid c && slotType c = 3
      && slotKey c 3 = k.words.drop 7
  else slotValid e && slotType e = k.type && slotKey e k.words.length = k.words

/-- The slot that matches a key: half 0 wins, then the lower slot (R155). -/
def Dev.findSlot (d : Dev) (k : FKey) : Option Nat :=
  (d.buckets k).findSome? (fun b => ((List.range 4).find? (fun s => d.slotMatch k b s)).map (fun s => 4 * b + s))

/-- A bucket is locked. -/
def Dev.bucketLocked (d : Dev) (b : Nat) : Bool := (spFind d.fwd.locks b).isSome

/-- FWDT_BAY of the ingress bay, in the packet's generation (R154). -/
def Dev.fwdBay (d : Dev) (p : Pkt) : Nat := d.at p.gen (R.fwdtBay + 4 * p.bay)

/-- The bridge key of a MAC address in a bridge domain. -/
def bridgeKey (bd mac : Nat) : FKey := ⟨0, [bd, mac % 2 ^ 32, mac / 2 ^ 32]⟩

/-- The lookup key of a packet; none when a mark its mode needs is missing (R154). Of the flow keys a packet with version 6 at
its L3 mark has the IPv6 one, any other the IPv4 one (DESIGN CHOICE, assumption 61). -/
def Dev.lookupKey (d : Dev) (p : Pkt) : Option FKey :=
  let w := d.fwdBay p
  let b := d.msgBytes p
  if !bitOf w 12 then
    if p.mark 0 = 0xFFFF then none else some (bridgeKey (bits w 11 0) (beAt b (p.mark 0) 6))
  else
    let l3 := p.mark 1
    let l4 := p.mark 2
    let ports (proto : Nat) : Option Nat :=
      if proto = 6 ∨ proto = 17 ∨ proto = 132 then
        if l4 = 0xFFFF then none else some (beAt b l4 2 + 2 ^ 16 * beAt b (l4 + 2) 2)
      else some 0
    let word (o : Nat) : Nat := beAt b o 4
    if l3 = 0xFFFF then none
    else if beAt b l3 1 / 16 = 6 then
      let pr := beAt b (l3 + 6) 1
      (ports pr).map (fun q => ⟨2, [word (l3 + 20), word (l3 + 16), word (l3 + 12), word (l3 + 8), word (l3 + 36),
        word (l3 + 32), word (l3 + 28), word (l3 + 24), q, pr]⟩)
    else
      let pr := beAt b (l3 + 9) 1
      (ports pr).map (fun q => ⟨1, [word (l3 + 12), word (l3 + 16), q, pr]⟩)

/-- A counter of the forwarding stage. -/
def Dev.fwdCount (d : Dev) (i : Nat) : Dev := d.bump (R.fwdtCnt + 4 * i)

/-- A hit is noted, to be applied at the boundary (R163). -/
def Dev.noteHit (d : Dev) (i : Nat) : Dev :=
  if d.bucketLocked (i / 4) then d else d.onFwd (fun f => { f with hits := f.hits ++ [i] })

/-- The lookup of a packet: its egress bay, or a miss (R155). -/
def Dev.fwdLookup (d : Dev) (p : Pkt) : Option Nat × Dev :=
  match (d.lookupKey p).bind d.findSlot with
  | some i => (some (slotBay (d.fslot i)), (d.noteHit i).fwdCount 0)
  | none => (none, d.fwdCount 1)

/-! ## Learning (R160 to R162) -/

/-- A unit of the learn budget is left (R33). -/
def Dev.learnLeft (d : Dev) : Bool := d.drip.learnUsed < d.ioFld R.dripBudget 7 0

/-- Take a unit of the learn budget. -/
def Dev.takeLearn (d : Dev) : Dev := d.onDrip (fun x => { x with learnUsed := x.learnUsed + 1 })

/-- A change of this drip to slot `i`. -/
def Dev.pendingLearn (d : Dev) (i : Nat) : Option Learn := d.fwd.learns.find? (fun l => l.slot = i)

/-- A reserved slot that holds key `k`. -/
def Dev.reservedFor (d : Dev) (k : FKey) : Option Learn :=
  d.fwd.learns.find? (fun l => l.insert && slotKey l.entry 3 = k.words)

/-- Put or replace a change of this drip. -/
def Dev.putLearn (d : Dev) (l : Learn) : Dev :=
  d.onFwd (fun f => { f with learns := f.learns.filter (fun x => x.slot ≠ l.slot) ++ [l] })

/-- Slot `i` is valid or reserved. -/
def Dev.slotTaken (d : Dev) (i : Nat) : Bool := slotValid (d.fslot i) || (d.pendingLearn i).isSome

/-- The slot an insert takes: of the unlocked candidate with fewer slots taken, half 0 on a tie, its lowest free one. -/
def Dev.insertSlot (d : Dev) (k : FKey) : Option Nat :=
  let used (b : Nat) : Nat := ((List.range 4).filter (fun s => d.slotTaken (4 * b + s))).length
  let cs := (d.buckets k).filter (fun b => !d.bucketLocked b && used b < 4)
  match argMin used cs with
  | some b => ((List.range 4).find? (fun s => !d.slotTaken (4 * b + s))).map (fun s => 4 * b + s)
  | none => none

/-- A learning check (R160): the device after it, and whether the frame is flooded because no slot was free. A slot reserved in
this drip is found with its own bay; a move of this drip is not visible yet, so a later check compares the bay of the table
(R161). A static entry in a locked bucket counts as a blocked move only (DESIGN CHOICE, assumption 61). -/
def Dev.learnCheck (d : Dev) (p : Pkt) : Bool × Dev :=
  let w := d.fwdBay p
  let mac := beAt (d.msgBytes p) (p.mark 0 + 6) 6
  if bitOf w 12 || !bitOf w 13 || p.pass ≠ 0 || p.mark 0 = 0xFFFF || bitOf mac 40 then (false, d)
  else
    let k := bridgeKey (bits w 11 0) mac
    match d.reservedFor k with
    | some l =>
      if slotBay l.entry = p.bay then (false, d)
      else (false, (d.putLearn { l with entry := slotWith l.entry true false p.bay }).fwdCount 5)
    | none => match d.findSlot k with
      | some i =>
        let e := d.fslot i
        if slotBay e = p.bay then (false, d.noteHit i)
        else if slotStatic e then (false, d.fwdCount 6)
        else if d.bucketLocked (i / 4) then (false, d.fwdCount 7)
        else if d.learnLeft then
          (false, (d.takeLearn.putLearn ⟨i, slotWith e true false p.bay, false⟩).fwdCount 5)
        else (false, d.bump R.dripOverLearn)
      | none => match d.insertSlot k with
        | none => (true, d.fwdCount 4)
        | some i =>
          if d.learnLeft then
            (false, (d.takeLearn.putLearn ⟨i, slotOf ((1 + 2 + p.bay * 64) :: k.words), true⟩).fwdCount 3)
          else (false, d.bump R.dripOverLearn)

/-! ## What a boundary makes visible (R161, R163, R164) -/

/-- Inserts and moves of the drip become visible (R161). -/
def Dev.learnApply (d : Dev) : Dev :=
  let ls := d.fwd.learns
  (ls.foldl (fun d l => d.setFslot l.slot l.entry) d).onFwd (fun f => { f with learns := [] })

/-- Sweep one slot (R164): a continuation follows its head. -/
def Dev.sweepSlot (d : Dev) (i : Nat) : Dev :=
  let e := d.fslot i
  if !slotValid e || slotStatic e || slotType e = 3 then d
  else if bitOf e.toNat 1 then d.setFslot i (slotWith e false false (slotBay e))
  else if !bitOf e.toNat 2 then d.setFslot i (slotWith e false true (slotBay e))
  else
    let d := (d.setFslot i 0).fwdCount 8
    if slotType e = 2 then d.setFslot (i + 1) 0 else d

/-- A slot takes part in a sweep unless a hit or a learning match of the drip keeps it (R165). -/
def Dev.sweepSlots (d : Dev) (lo hi : Nat) : Dev :=
  let is := (d.fwd.slots.map Prod.fst).filter (fun i =>
    lo ≤ i / 4 && i / 4 < hi && !d.bucketLocked (i / 4) && !d.fwd.hits.contains i
      && (d.pendingLearn i).isNone)
  is.foldl (fun d i => d.sweepSlot i) d

/-- Every sweep in progress walks its 4,096 buckets of the drip that ends, and has finished after its 64th drip (R164). -/
def Dev.sweepWalk (d : Dev) : Dev :=
  let walk (d : Dev) (s : Nat) : Dev :=
    let k := d.drip.now - s
    d.sweepSlots (4096 * k) (4096 * (k + 1))
  (d.fwd.sweeps.foldl walk d).onFwd (fun f => { f with sweeps := f.sweeps.filter (fun s => d.drip.now - s < 63) })

/-- Hits of the drip set hit and clear stale, after every other change of the boundary (R163). -/
def Dev.hitApply (d : Dev) : Dev :=
  let hs := d.fwd.hits
  (hs.foldl (fun d i =>
    let e := d.fslot i
    if slotValid e && !d.bucketLocked (i / 4) then d.setFslot i (slotWith e true false (slotBay e)) else d) d).onFwd
      (fun f => { f with hits := [] })

/-- A sweep begins at a boundary whose drip number is a non-zero multiple of the period, once; one in progress goes on
beside it (R164). -/
def Dev.sweepStart (d : Dev) : Dev :=
  let p := d.live R.fwdtSweep
  if d.serving && p ≠ 0 && d.drip.now ≠ 0 && d.drip.now % p = 0 && !d.fwd.sweeps.contains d.drip.now then
    d.onFwd (fun f => { f with sweeps := f.sweeps ++ [d.drip.now] })
  else d

/-- SWEEP_START (R164). -/
def execSweepStart (s : State) : Host.Outcome State Fault Refusal := s.run (fun d => d.sweepStart)

end Sys2Proof.Machine
end

