-- ==== Sys2Proof/Machine/Parser.lean ====
section
/-! DEFINITION. The parser (R70 to R78, R89): a walk of the passage graph over the first 256 bytes of a packet's data. -/

namespace Sys2Proof.Machine

/-- Why a field could not be read: the outcome of R77. -/
abbrev Outcome := Nat

/-- Read `width` bits from bit `bit` of byte `off` of `len` bytes of data: the value, or WINDOW or TRUNCATED (R74, R77). A
field of width 0 reads nothing. -/
def readField (data : Bytes) (len off bit width : Nat) : Except Outcome Nat :=
  if width = 0 then .ok 0
  else
    let last := (8 * off + bit + width - 1) / 8
    if 255 < last then .error 3
    else if len ≤ last then .error 4
    else
      let n := last - off + 1
      .ok (bits (beAt data off n) (8 * n - bit - 1) (8 * n - bit - width))

/-- Replace key bits [lo + width − 1 : lo] (R76). -/
def setKey (key lo width v : Nat) : Nat :=
  key - (bits key (lo + width - 1) lo) * 2 ^ lo + (v % 2 ^ width) * 2 ^ lo

/-- A walk in progress: position, marks, key, counting extractions, the last passage visited, whether a first fragment was
met, and the position of the fragment header. -/
structure Walk1 where
  pos : Nat
  marks : List Nat
  key : Nat
  exts : Nat
  last : Nat
  first : Bool
  fragAt : Option (Nat × Bool)
  deriving DecidableEq, Repr

/-- How a pass ends: an outcome of R77, or at a later fragment (R89). -/
inductive PassEnd
  | outcome (n : Outcome)
  | later
  deriving DecidableEq, Repr

/-- Word `w` of passage `n` in generation `gen` (R71). -/
def Dev.passWord (d : Dev) (gen n w : Nat) : Nat := d.at gen (R.parsPW0 + 256 * n + 4 * w)

/-- The fragment test of a passage (R89): not a fragment, a first fragment, a later one. -/
inductive FragKind | whole | first | later
  deriving DecidableEq, Repr

/-- The fragment test at position `pos` for frag 1 (IPv4) or 2 (IPv6). -/
def fragTest (data : Bytes) (len pos frag : Nat) : Except Outcome FragKind :=
  match (if frag = 1 then readField data len (pos + 6) 0 16 else readField data len pos 0 64) with
  | .error e => .error e
  | .ok v =>
    let w := if frag = 1 then v % 2 ^ 14 else bits v 47 32
    let off := if frag = 1 then w % 2 ^ 13 else w / 8
    let more := if frag = 1 then bitOf w 13 else bitOf w 0
    .ok (if off ≠ 0 then .later else if more then .first else .whole)

/-- The extractions `x` and up of a passage (R76). -/
def Dev.extract (d : Dev) (gen n len : Nat) (data : Bytes) : List Nat → Walk1 → Except (Outcome × Walk1) Walk1
  | [], w => .ok w
  | x :: xs, w =>
    let e := d.passWord gen n (35 + x)
    let width := bits e 18 11
    if width = 0 then d.extract gen n len data xs w
    else if 24 ≤ w.exts then .error (5, w)
    else match readField data len (w.pos + bits e 7 0) (bits e 10 8) width with
      | .error o => .error (o, w)
      | .ok v => d.extract gen n len data xs { w with exts := w.exts + 1, key := setKey w.key (bits e 28 19) width v }

/-- The target a selector chooses: the lowest valid edge that matches, else the default edge (R75). -/
def Dev.edge (d : Dev) (gen n sel : Nat) : Nat :=
  match (List.range 16).find? (fun e =>
    let v := d.passWord gen n (3 + 2 * e)
    bitOf (d.passWord gen n (4 + 2 * e)) 12 && (sel &&& bits v 31 16) = bits v 15 0) with
  | some e => bits (d.passWord gen n (4 + 2 * e)) 11 0
  | none => bits (d.passWord gen n 2) 11 0

/-- The passage is lost in the bank of generation `gen` (R469). -/
def Dev.passLost (d : Dev) (gen n : Nat) : Bool := spGet false d.csr.lostPass (lostKey n (d.bankAt 5 gen))

/-- The failure outcome, 1 to 5, of a walk that reaches a lost passage: which one is open (assumption 40). -/
def Dev.lostOutcome (d : Dev) (n : Nat) : Outcome := 1 + Config.freeNat (d.free + n) % 5

/-- One passage (R74): its end, or the next passage. Where two fragment passages of a walk both mark a first fragment, the
header met last gives the identity, and a packet marked as a first fragment stays one when a later fragment field cannot be
read, so it has its SLOW entry (DESIGN CHOICE, assumption 50: R89, R90 and R91 leave both open). -/
def Dev.passage (d : Dev) (gen pass n len : Nat) (data : Bytes) (w : Walk1) : Except (PassEnd × Walk1) (Nat × Walk1) :=
  let w0 := d.passWord gen n 0
  let w1 := d.passWord gen n 1
  let mk := bits w0 19 17
  let w := { w with last := n }
  if d.passLost gen n then .error (.outcome (d.lostOutcome n), w) else
  let w := if 1 ≤ mk ∧ mk ≤ 4 then { w with marks := w.marks.set (mk - 1) (Nat.min w.pos 0xFFFF) } else w
  let frag := bits w0 21 20
  match (if pass = 0 ∧ (frag = 1 ∨ frag = 2) then fragTest data len w.pos frag else .ok .whole) with
  | .error o => .error (.outcome o, w)
  | .ok .later => .error (.later, { w with fragAt := some (w.pos, frag = 2) })
  | .ok k =>
    let w := if k = .first then { w with first := true, fragAt := some (w.pos, frag = 2) } else w
    match d.extract gen n len data [0, 1, 2, 3] w with
    | .error (o, w) => .error (.outcome o, w)
    | .ok w =>
      let sw := bits w0 15 11
      match readField data len (w.pos + bits w0 7 0) (bits w0 10 8) sw with
      | .error o => .error (.outcome o, w)
      | .ok sel =>
        let t := if sw = 0 then bits (d.passWord gen n 2) 11 0 else d.edge gen n sel
        match (if bitOf w0 16 then readField data len (w.pos + bits w1 7 0) (bits w1 10 8) (bits w1 15 11) else .ok 0) with
        | .error o => .error (.outcome o, w)
        | .ok f =>
          let adv := (if bitOf w0 16 then f * bits w1 19 16 else 0) + bits w1 27 20
          .ok (t, { w with pos := w.pos + adv })

/-- The passages a pass visits, at most 32 (R70, R72, R77). -/
def Dev.walkPass (d : Dev) (gen pass len : Nat) (data : Bytes) : Nat → Nat → Walk1 → PassEnd × Walk1
  | 0, _, w => (.outcome 2, w)
  | f + 1, n, w =>
    match d.passage gen pass n len data w with
    | .error e => e
    | .ok (t, w) =>
      if t = 0x800 then (.outcome 0, w)
      else if t = 0xC00 then (.outcome 1, w)
      else d.walkPass gen pass len data f (t % 1024) w

/-- Key bits [639:608] (R78). -/
def keyMeta (bay outcome last pass : Nat) (first : Bool) : Nat :=
  bay * 2 ^ 628 + outcome * 2 ^ 624 + b2n first * 2 ^ 622 + last * 2 ^ 612 + pass * 2 ^ 610

/-- The walk of a packet's pass: how it ends, and the packet with its marks, key and outcome. -/
def Dev.parse (d : Dev) (p : Pkt) : PassEnd × Walk1 × Pkt :=
  let b1 := d.at p.gen (R.portBay1 + 8 * p.bay)
  let start := if p.pass = 0 then bits b1 9 0 else bits b1 19 10
  let data := d.chainBytes p.chain 0 (Nat.min p.len 256)
  let (e, w) := d.walkPass p.gen p.pass p.len data 32 start ⟨0, [0xFFFF, 0xFFFF, 0xFFFF, 0xFFFF], 0, 0, start, false, none⟩
  let o := match e with | .outcome n => n | .later => 0
  (e, w, { p with
    marks := w.marks, outcome := o, key := w.key % 2 ^ 608 + keyMeta p.bay o w.last p.pass w.first })

end Sys2Proof.Machine
end

