-- ==== Sys2Proof/Machine/Ingress.lean ====
section
/-! DEFINITION. Ingress (chapter 03): the port stage, admission, the classifier and its actions, exception classes and
policers, the fragment table, row access, and recirculation (R148, R150). -/

namespace Sys2Proof.Machine

/-! ## The port stage (R64 to R68) -/

/-- A port-stage counter. -/
def Dev.portCount (d : Dev) (i : Nat) : Dev := d.bump (R.portCnt + 4 * i)

/-- The enabled bay record of a MAC and tag value, LIVE (R64). -/
def Dev.bayOf (d : Dev) (mac tag : Nat) : Option Nat :=
  ((d.bayWords (d.group 3).liveB).find? (fun e => bits e.2 6 0 = mac && bitOf e.2 7 && bits e.2 19 8 = tag)).map Prod.fst

/-- The bay of untagged frames of a MAC, when there is one (R66). -/
def Dev.untaggedBay (d : Dev) (mac : Nat) : Option Nat :=
  let c := d.live (R.portMacCfg + 4 * mac)
  let b := bits c 14 3
  let w := d.live (R.portBay0 + 8 * b)
  if bitOf c 2 && bitOf w 7 && bits w 6 0 = mac then some b else none

/-- The bay of a frame on a line MAC (R65, R66). -/
def Dev.frameBay (d : Dev) (mac : Nat) (f : Bytes) : Option Nat :=
  match bits (d.live (R.portMacCfg + 4 * mac)) 1 0 with
  | 0 => d.bayOf mac 0
  | mode =>
    let tpid := if mode = 1 then 0x8100 else if mode = 2 then 0x88A8 else 0x893F
    let at_ := if mode = 3 then 16 else 14
    if f.length < 14 ∨ beAt f 12 2 ≠ tpid then d.untaggedBay mac
    else if f.length < at_ + 2 then none
    else d.bayOf mac (beAt f at_ 2 % 2 ^ 12)

/-- Take cells one at a time as a frame's bytes arrive (R68): the chain, or none once one is refused. -/
def Dev.takeFrame (d : Dev) (tag pool : Nat) : Nat → Chain → Option Chain × Dev
  | 0, c => (some c, d)
  | n + 1, c =>
    match d.alloc tag pool 1 none with
    | (none, d) => (none, d.freeChain c)
    | (some x, d) =>
      let (c, d) := d.joinChains c x
      d.takeFrame tag pool n c

/-- A frame whose bay is known is written into cells and waits for a slot (R66, R68, R69). -/
def Dev.storeFrame (d : Dev) (mac bay : Nat) (f : Bytes) (stamp : Option Nat) : Dev :=
  let pool := d.liveFld (R.portBay1 + 8 * bay) 24 20
  match d.takeFrame (pipeTag (d.macPipe mac)) pool (cellsFor (Nat.min f.length 10240)) Chain.null with
  | (none, d) => d.portCount 3
  | (some c, d) =>
    if 10240 < f.length then (d.freeChain c).portCount 2
    else (d.chainWrite c 0 f).onIngr (fun i => { i with queue := i.queue ++ [⟨mac, bay, c, f.length, stamp⟩] })

/-- A frame at the ingress port stage, with the bay its MAC finds (R66). -/
def Dev.portFrame (d : Dev) (mac : Nat) (bay : Option Nat) (f : Bytes) (stamp : Option Nat) : Dev :=
  if f = [] then d.portCount 1
  else match bay with
    | none => d.portCount 0
    | some b => d.storeFrame mac b f stamp

/-- A frame arrives on a line MAC: MAC Control frames end at the MAC (R68), MACsec follows (R124), then the port stage. A PFC frame
too short for its fields counts as another MAC Control frame (assumption 50). -/
def Dev.frameReceive (d : Dev) (mac : Nat) (f : Bytes) : Dev :=
  if !d.serving || 64 ≤ mac || !d.linkUp mac then d
  else if 14 ≤ f.length ∧ beAt f 12 2 = 0x8808 then
    if 34 ≤ f.length ∧ beAt f 14 2 = 0x0101 then
      d.pfcReceive mac (beAt f 17 1) ((List.range 8).map (fun q => beAt f (18 + 2 * q) 2))
    else d.portCount 4
  else
    let d := d.strongPass
    let stamp := d.rxStamp mac
    match d.validateFrame mac f with
    | (none, d) => d
    | (some g, d) => d.portFrame mac (d.frameBay mac g) g stamp

/-- FRAME_RECEIVE (R66). -/
def execFrameReceive (mac : Nat) (data : Bytes) (s : State) : Host.Outcome State Fault Refusal :=
  s.run (fun d => d.frameReceive mac data)

/-! ## Exception classes (R87, R88) -/

/-- The capacity of a class's bucket, LIVE. -/
def Dev.bucketCap (d : Dev) (c : Nat) : Nat := 65536 * 2 ^ d.liveFld (R.clasExcCfg + 8 * c) 11 8

/-- What a bucket gains at a boundary (R88). -/
def Dev.bucketGain (d : Dev) (c : Nat) : Nat :=
  d.liveFld (R.clasExcRate + 8 * c) 23 0 * 2 ^ d.ioFld R.dripCfg 1 0 * 65536 / 2000000

/-- A packet enters an exception class by a route (R87): admitted with its number and queued to the keeper, or dropped. -/
def Dev.exception (d : Dev) (p : Pkt) (c route : Nat) : Dev :=
  let b := spGet 0 d.ingr.bucket c
  if d.liveFld (R.clasExcRate + 8 * c) 23 0 = 0 ∨ b < 65536 then (d.bump (R.clasExcDrop + 8 * c)).dropPkt p
  else
    let d := (d.onIngr (fun i => { i with bucket := spSet 0 i.bucket c (b - 65536) })).bump (R.clasExcDeliv + 8 * c)
    let w := d.at p.gen (R.clasExcCfg + 8 * c)
    let (p, d) := match p.seq with
      | some _ => (p, d)
      | none =>
        let dom := bits w 27 12
        let (q, d) := d.takeSeq dom
        ({ p with domain := dom, seq := some q }, d)
    d.enqueueExc (bits w 3 0) { p with excClass := c, route := route, prio := bits w 7 4, attempt := 0 }

/-! ## The classifier (R80 to R84) -/

/-- The valid rows of a bank, rising. -/
def Dev.validRows (d : Dev) (b : Bool) : List Nat :=
  (if b then d.csr.bankB else d.csr.bankA).filterMap (fun e =>
    if 0x10000000 ≤ e.1 ∧ e.1 % 64 = 44 ∧ bitOf e.2.toNat 0 then some ((e.1 - 0x10000000) / 64) else none)

/-- The number that `n` words of a row spell from word `w`. -/
def Dev.rowNum (d : Dev) (b : Bool) (r w n : Nat) : Nat :=
  ((List.range n).map (fun i => d.bankWord b (rowKey r (w + i)) * 2 ^ (32 * i))).foldl (· + ·) 0

/-- A valid row matches a key (R80). -/
def Dev.rowMatch (d : Dev) (b : Bool) (key r : Nat) : Bool := (key &&& d.rowNum b r 20 20) = d.rowNum b r 0 20

/-- The winning row of a key in generation `gen`, if one matches (R80). -/
def Dev.searchRows (d : Dev) (gen key : Nat) : Option Nat :=
  let b := d.bankAt 6 gen
  (d.validRows b).find? (d.rowMatch b key)

/-- The order domain of an action (R84): its field, or the flow hash. -/
def Dev.actionDomain (d : Dev) (gen key act : Nat) : Nat :=
  if bitOf act 16 then bits act 47 32
  else
    let base := R.clasHashProf + 0x80 * bits act 19 17
    let mask := ((List.range 20).map (fun i => d.at gen (base + 4 * i) * 2 ^ (32 * i))).foldl (· + ·) 0
    crc32c (beBytes 80 (key &&& mask)) % 2 ^ 16

/-- The type of an action (R81). -/
def actType (a : Nat) : Nat := bits a 3 0

/-- A key that matched no row, where an action is recorded. -/
def actMiss : Nat := 2 ^ 128

/-! ## Steps 6 to 8 (R83, R156, R148 to R150) -/

/-- The session bit of an action on a packet's pass: on passes 1 to 3 that of a DIRECT or TASK is ignored (R150). -/
def Pkt.sessBit (p : Pkt) (a : Nat) : Bool := bitOf a 4 && (p.pass = 0 || !(actType a = 1 || actType a = 2))

/-- The forwarding stage floods a packet, and counts it: one without a member bay is dropped (R158). -/
def Dev.floodOut (d : Dev) (p : Pkt) : Pkt × Dev :=
  let none_ := (d.floodMembers p).isEmpty
  let d := d.fwdCount 2
  ({ p with flood := true, missDrop := none_ }, if none_ then d.fwdCount 9 else d)

/-- Forwarding and learning as the action asks (R156, R160): the packet with its forwarding result, discarded where the session
stage decides egress. A flow miss with miss_act 0 drops the packet; its action stays what it was (R157). A frame that no slot
could be found for floods only where the forwarding stage decides its egress (DESIGN CHOICE, assumption 61). -/
def Dev.forward (d : Dev) (p : Pkt) : Pkt × Dev :=
  let a := p.action
  let p := { p with egress := bits a 59 48 }
  if !bitOf a 5 then (p, d)
  else
    let (floods, d) := if bitOf a 6 then d.learnCheck p else (false, d)
    let w := d.fwdBay p
    let bridge := !bitOf w 12
    let group := bridge && p.mark 0 ≠ 0xFFFF && bitOf (beAt (d.msgBytes p) (p.mark 0) 6) 40
    let (hit, d) := if group then (none, d) else d.fwdLookup p
    if p.sessBit a then (p, d)
    else
      let p := { p with fwdValid := !group, fwdHit := hit.isSome, egress := hit.getD p.egress }
      if actType a ≠ 1 then (p, d)
      else if floods then d.floodOut p
      else if hit.isSome then (p, d)
      else if bridge then d.floodOut p
      else if bitOf w 15 then ({ p with egress := bits w 27 16 }, d)
      else ({ p with missDrop := true }, d)

/-- A recirculated packet waits for its pipe (R148). -/
def Dev.recirculate (d : Dev) (p : Pkt) : Dev := d.onIngr (fun i => { i with recirc := i.recirc ++ [p] })

/-- RECIRCULATE on a pass (R149, R150): refused at max_pass; on passes 1 to 3 the inner session's records follow. -/
def Dev.actRecirc (d : Dev) (p : Pkt) : Dev :=
  let cfg := d.at p.gen R.sessCfg
  if bits cfg 6 5 ≤ p.pass then (d.sessCount 7).exception p (bits cfg 9 7) 4
  else if p.pass = 0 then d.recirculate p
  else match d.innerPass p with
    | none => (d.sessCount 8).exception p (bits cfg 12 10) 4
    | some (none, d) => d
    | some (some q, d) => d.recirculate q

/-- The end of an action, after the session stage (R83). What the forwarding stage drops releases its number empty (R85). -/
def Dev.finishAction (d : Dev) (p : Pkt) : Dev :=
  if p.missDrop then d.dropPkt p
  else match actType p.action with
  | 1 => match p.seq with
    | some q => d.reorderEnter ⟨p.domain, q, some p, p.egress, d.drip.now, none⟩
    | none => d
  | 2 => d.enqueueTask p
  | 3 => d.exception p (bits p.action 10 8) 2
  | 4 => d.actRecirc p
  | _ => d.dropPkt p

/-- The session stage where the action asks for it on pass 0, then the end of the action. -/
def Dev.afterForward (d : Dev) (p : Pkt) : Dev :=
  if p.pass = 0 && bitOf p.action 4 && actType p.action ≠ 0 then
    match d.sessionStage p with
    | (some q, d) => d.finishAction q
    | (none, d) => d
  else d.finishAction p

/-- The fields a packet takes from its action (R81). -/
def Pkt.withAction (p : Pkt) (a : Nat) : Pkt :=
  { p with action := a, task := bits a 79 64, taskArg := bits a 95 80, prio := bits a 15 12, cookie := bits a 127 96 }

/-- An action whose packet takes the action's order domain: DIRECT, TASK or RECIRCULATE (R84). -/
def actOrders (a : Nat) : Bool := actType a = 1 || actType a = 2 || actType a = 4

/-- On pass 0 the packet takes its domain and number (R84). -/
def Dev.order (d : Dev) (p : Pkt) : Pkt × Dev :=
  if p.pass = 0 && actOrders p.action then
    let dom := d.actionDomain p.gen p.key p.action
    let (q, d) := d.takeSeq dom
    ({ p with domain := dom, seq := some q }, d)
  else (p, d)

/-- Act on a winning action (R83). -/
def Dev.act (d : Dev) (p : Pkt) (a : Nat) : Dev :=
  let p := p.withAction a
  if actOrders a then
    let (p, d) := d.order p
    let (p, d) := d.forward p
    d.afterForward p
  else d.finishAction p

/-- Note the hit of a row, visible at the boundary. -/
def Dev.noteRow (d : Dev) (r : Nat) : Dev := d.onIngr (fun i => { i with hits := r :: i.hits })

/-- The action a searched key gives: a row's, or a miss, counted. -/
def Dev.lookupAction (d : Dev) (p : Pkt) : Nat × Dev :=
  match d.searchRows p.gen p.key with
  | some r => (d.rowNum (d.bankAt 6 p.gen) r 40 4, d.noteRow r)
  | none => (actMiss, d.bump R.clasMissCnt)

/-- A searched key's action takes effect; a miss goes to its class. -/
def Dev.actOrMiss (d : Dev) (p : Pkt) (a : Nat) : Dev :=
  if a = actMiss then d.exception p (d.atFld p.gen R.clasMissCfg 2 0) 1 else d.act p a

/-- A pass that ended in a failure outcome (R77). -/
def Dev.failPass (d : Dev) (p : Pkt) (o : Nat) : Dev :=
  let w := d.at p.gen R.parsFailClass
  d.exception p (bits w (3 * o - 1) (3 * o - 3)) 0

/-! ## The fragment table (R89 to R91) -/

/-- A counter of the fragment table: 0 FULL, 1 HOLD_OVF, 2 EXPIRE, 3 DUP, 4 SESSION. -/
def Dev.fragCount (d : Dev) (i : Nat) : Dev := d.bump (R.parsFragCnt + 4 * i)

/-- The identity of a fragment whose header starts at `pos` (R90), as one number. The addresses of an IPv6 packet are read at its L3
mark, and bytes beyond the data read 0 (assumption 50). -/
def Dev.fragIdent (d : Dev) (p : Pkt) (pos : Nat) (v6 : Bool) : Nat :=
  let b := d.msgBytes p
  if v6 then
    let l3 := p.mark 1
    (((p.bay * 2 ^ 128 + beAt b (l3 + 8) 16) * 2 ^ 128 + beAt b (l3 + 24) 16) * 2 ^ 32 + beAt b (pos + 4) 4) * 2 + 1
  else
    ((((p.bay * 2 ^ 32 + beAt b (pos + 12) 4) * 2 ^ 32 + beAt b (pos + 16) 4) * 2 ^ 8 + beAt b (pos + 9) 1) * 2 ^ 16
      + beAt b (pos + 4) 2) * 2

/-- The set of an identity. -/
def fragSet (ident : Nat) : Nat := Config.fragHash ident % 1024

/-- The key of the entry of an identity. -/
def Dev.fragKey (d : Dev) (ident : Nat) : Option Nat :=
  (d.ingr.frags.find? (fun e => e.2.ident = ident && e.2.set = fragSet ident)).map Prod.fst

/-- A free way of an identity's set. -/
def Dev.freeWay (d : Dev) (ident : Nat) : Option Nat :=
  ((List.range 4).map (fun w => 4 * fragSet ident + w)).find? (fun k => (spFind d.ingr.frags k).isNone)

/-- Write an entry. -/
def Dev.setFrag (d : Dev) (k : Nat) (f : Frag) : Dev := d.onIngr (fun i => { i with frags := spPut i.frags k f })

/-- The slow path (R91). -/
def Dev.slowPath (d : Dev) (p : Pkt) : Dev := d.exception p (d.atFld p.gen R.parsFragCfg 2 0) 3

/-- Fragments go to the slow path in arrival order. -/
def Dev.slowAll (d : Dev) (l : List Pkt) : Dev := l.foldl (fun d p => d.slowPath p) d

/-- A fragment follows a recorded decision: its action, domain and forwarding result (R91, R157). -/
def Dev.followFrag (d : Dev) (p m : Pkt) : Dev :=
  let a := m.action
  if a = actMiss then d.exception p (d.atFld p.gen R.clasMissCfg 2 0) 1
  else
    let p := { p.withAction a with
      egress := m.egress, fwdValid := m.fwdValid, fwdHit := m.fwdHit, missDrop := m.missDrop, domain := m.domain }
    let (p, d) := if m.flood then d.floodOut p else (p, d)
    if actOrders a then
      let (q, d) := d.takeSeq m.domain
      d.finishAction { p with seq := some q }
    else d.finishAction p

/-- A first fragment that is searched: its action is decided, recorded and followed; held fragments come after it. A miss is
recorded as one (assumption 50). -/
def Dev.firstFrag (d : Dev) (p : Pkt) (ident k : Nat) (held : List Pkt) (created : Nat) : Dev :=
  let (a, d) := d.lookupAction p
  let entry (s : FragState) (m : Pkt) : Frag := ⟨fragSet ident, ident, s, created, m, []⟩
  if a ≠ actMiss && p.sessBit a then
    (((d.fragCount 4).setFrag k (entry .slow Pkt.empty)).slowPath p).slowAll held
  else if a = actMiss || !actOrders a then
    let m := { Pkt.empty with action := a }
    held.foldl (fun d q => d.followFrag q m) (((d.setFrag k (entry .decided m)).actOrMiss p a))
  else
    let (p, d) := d.order (p.withAction a)
    let (p, d) := d.forward p
    held.foldl (fun d q => d.followFrag q p) ((d.setFrag k (entry .decided p)).finishAction p)

/-- A first fragment (R91): `o` is the outcome of its pass. One whose pass fails and that finds its set full goes to the failure
class, and PARS_FRAG_FULL does not count it (assumption 50). -/
def Dev.fragFirst (d : Dev) (p : Pkt) (ident o : Nat) : Dev :=
  match d.fragKey ident with
  | some k => match spFind d.ingr.frags k with
    | none => d.dropPkt p
    | some f => match f.state with
      | .slow => d.slowPath p
      | .decided => (d.fragCount 3).followFrag p f.model
      | .holding =>
        if o ≠ 0 then
          ((((d.fragCount 4).setFrag k { f with state := .slow, held := [] }).failPass p o)).slowAll f.held
        else d.firstFrag p ident k f.held f.created
  | none => match d.freeWay ident with
    | none => if o ≠ 0 then d.failPass p o else (d.fragCount 0).slowPath p
    | some k =>
      if o ≠ 0 then
        ((d.fragCount 4).setFrag k ⟨fragSet ident, ident, .slow, d.drip.now, Pkt.empty, []⟩).failPass p o
      else d.firstFrag p ident k [] d.drip.now

/-- A later fragment (R91). -/
def Dev.fragLater (d : Dev) (p : Pkt) (ident : Nat) : Dev :=
  match d.fragKey ident with
  | some k => match spFind d.ingr.frags k with
    | none => d.dropPkt p
    | some f => match f.state with
      | .slow => d.slowPath p
      | .decided => d.followFrag p f.model
      | .holding =>
        if f.held.length < 16 then d.setFrag k { f with held := f.held ++ [p] }
        else (((d.fragCount 1).setFrag k { f with state := .slow, held := [] }).slowAll f.held).slowPath p
  | none => match d.freeWay ident with
    | none => (d.fragCount 0).slowPath p
    | some k => d.setFrag k ⟨fragSet ident, ident, .holding, d.drip.now, Pkt.empty, [p]⟩

/-- FRAG_ENTRY_EXPIRE: an entry becomes FREE 512 drips after its creation (R90, R91). -/
def Dev.fragExpire (d : Dev) (set way : Nat) : Dev :=
  let k := 4 * set + way
  match spFind d.ingr.frags k with
  | none => d
  | some f =>
    if d.drip.now < f.created + 512 then d
    else
      let d := d.onIngr (fun i => { i with frags := spErase i.frags k })
      if f.state = .holding then (d.fragCount 2).slowAll f.held else d

/-- FRAG_ENTRY_EXPIRE (R90). -/
def execFragEntryExpire (set way : Nat) (s : State) : Host.Outcome State Fault Refusal :=
  s.run (fun d => d.fragExpire set way)

/-! ## Admission (R32, R69, R74, R79) -/

/-- The ingress slots of one pipe in a drip (R27, R32). -/
def Dev.slotsPerDrip (d : Dev) : Nat := 625 * 2 ^ d.ioFld R.dripCfg 1 0

/-- The pipe has a slot left in the drip. -/
def Dev.slotLeft (d : Dev) (pipe : Nat) : Bool := spGet 0 d.drip.slotsUsed pipe < d.slotsPerDrip

/-- Take an ingress slot. -/
def Dev.takeSlot (d : Dev) (pipe : Nat) : Dev :=
  d.onDrip (fun x => { x with slotsUsed := spUpd 0 x.slotsUsed pipe (· + 1) })

/-- At level 3 new packets take only the even clocks of a drip (R484); they are counted beside the pipe's slots. -/
def Dev.newLeft (d : Dev) (pipe : Nat) : Bool :=
  d.ioFld R.hlthTdie 17 16 < 3 || spGet 0 d.drip.slotsUsed (2 + pipe) < (d.slotsPerDrip + 1) / 2

/-- A new packet is counted. -/
def Dev.countNew (d : Dev) (pipe : Nat) : Dev :=
  d.onDrip (fun x => { x with slotsUsed := spUpd 0 x.slotsUsed (2 + pipe) (· + 1) })

/-- The cells the parser reads: those of bytes 0 to 255 (R74). -/
def Dev.viewCells (d : Dev) (p : Pkt) : List Nat := (d.chainCells p.chain).take (cellsFor (Nat.min p.len 256))

/-- A packet passes the parser and the classifier (R74, R77, R80, R89); one with a poisoned cell among those the parser reads is
dropped (R470). -/
def Dev.classify (d : Dev) (p : Pkt) : Dev :=
  if (d.viewCells p).any d.cellPoisoned then (d.countCells (d.viewCells p)).dropPkt p
  else
    let (e, w, p) := d.parse p
    match e, w.fragAt with
    | .later, some (pos, v6) => d.fragLater p (d.fragIdent p pos v6)
    | .later, none => d.dropPkt p
    | .outcome o, some (pos, v6) =>
      let d := if o = 0 then d else d.bump (R.parsOut + 4 * (o - 1))
      if w.first then d.fragFirst p (d.fragIdent p pos v6) o
      else if o = 0 then (d.lookupAction p |> fun x => x.2.actOrMiss p x.1) else d.failPass p o
    | .outcome o, none =>
      if o = 0 then (d.lookupAction p |> fun x => x.2.actOrMiss p x.1)
      else (d.bump (R.parsOut + 4 * (o - 1))).failPass p o

/-- A recirculated packet that may re-enter a pipe now (R148). -/
def Dev.recircReady (d : Dev) (pipe : Nat) : Option (Pkt × List Pkt) :=
  takeFirst (fun p => p.pipe = pipe && p.admitted < d.drip.now) d.ingr.recirc

/-- The MACs of a pipe with a waiting frame, in the order of the round robin (R69): rising MAC number from the one after the last
admitted, and from the lowest before any admission (assumption 50). -/
def Dev.waitingMacs (d : Dev) (pipe : Nat) : List Nat :=
  let last := spGet 65 d.ingr.lastMac pipe
  let has (m : Nat) : Bool := d.macPipe m = pipe && d.ingr.queue.any (fun f => f.mac = m)
  let l := (List.range 65).filter has
  if last = 65 then l else l.filter (fun m => last < m) ++ l.filter (fun m => m ≤ last)

/-- PACKET_ADMIT: the oldest frame of the next MAC takes a slot (R32, R69), its drip tag and generation (R29, R39). A
recirculated packet that waits goes first. -/
def Dev.admitNext (d : Dev) (pipe : Nat) : Dev :=
  if !d.serving || !d.slotLeft pipe || !d.newLeft pipe || (d.recircReady pipe).isSome then d
  else match d.waitingMacs pipe with
    | [] => d
    | m :: _ => match takeFirst (fun f => f.mac = m) d.ingr.queue with
      | none => d
      | some (f, rest) =>
        let d := ((d.takeSlot pipe).countNew pipe).onIngr (fun i => { i with queue := rest, lastMac := spSet 65 i.lastMac pipe m })
        let p := { Pkt.empty with
          chain := f.chain, len := f.len, bay := f.bay, pipe := pipe, dripTag := d.drip.now % 2 ^ 16,
          gen := d.drip.gen, stamp := f.stamp, admitted := d.drip.now }
        (d.setFlight f.chain (some p.gen)).classify p

/-- RECIRC_ADMIT: a recirculated packet re-enters its pipe as the next pass (R148). -/
def Dev.recircAdmit (d : Dev) (pipe : Nat) : Dev :=
  if !d.serving || !d.slotLeft pipe then d
  else match d.recircReady pipe with
    | none => d
    | some (p, rest) =>
      let d := (d.takeSlot pipe).onIngr (fun i => { i with recirc := rest })
      d.classify { p with pass := p.pass + 1, admitted := d.drip.now, flood := false, missDrop := false }

/-- PACKET_ADMIT (R69). -/
def execPacketAdmit (pipe : Nat) (s : State) : Host.Outcome State Fault Refusal := s.run (fun d => d.admitNext pipe)

/-- RECIRC_ADMIT (R148). -/
def execRecircAdmit (pipe : Nat) (s : State) : Host.Outcome State Fault Refusal := s.run (fun d => d.recircAdmit pipe)

/-! ## Row access (R86) -/

/-- The 45 words of a master's row buffer. -/
def Dev.rowBuffer (d : Dev) (m : Nat) : List Nat := d.perWords m R.clasRowBuf rowWords

/-- A write of CLAS_ROW_CMD for row `r`: refused while busy, else `act`. -/
def Dev.rowCmd (d : Dev) (m r : Nat) (act : Dev → Dev) : Dev :=
  d.doorbell m R.clasRowCmd [] 15 r (fun d =>
    if bitOf (d.per m R.clasRowStat) 0 then d.refuse m R.clasRowCmd Code.busyRetry else act d)

/-- WRITE: one staged write of the row, which completes at the boundary. A master outside the owner set is refused before its
busy bit is looked at (R12). -/
def Dev.rowWrite (d : Dev) (m r : Nat) : Dev :=
  if !d.noPath m && d.blockOpen R.clasRowCmd && !d.owns m 6 then
    d.refuseOwner m R.clasRowCmd R.clasRowStat
  else d.rowCmd m r (fun d =>
      let ws := (d.rowBuffer m).map w32
      (d.onDrip (fun x => { x with writes := x.writes ++ [⟨m, .row r, ws⟩] })).setStat m R.clasRowStat true 0)

/-- READ_STAGED and READ_LIVE: the row is sampled now into the buffer. -/
def Dev.rowRead (d : Dev) (m r : Nat) (live : Bool) : Dev :=
  d.rowCmd m r (fun d =>
    let ws := (List.range rowWords).map (fun w => if live then d.live (rowKey r w) else d.staged (rowKey r w))
    (d.setPerWords m R.clasRowBuf ws).setStat m R.clasRowStat false Code.ok)

/-- CLAS_ROW_WRITE (R86). -/
def execClasRowWrite (m row : Nat) (s : State) : Host.Outcome State Fault Refusal := s.run (fun d => d.rowWrite m row)

/-- CLAS_ROW_READ_STAGED (R43, R86). -/
def execClasRowReadStaged (m row : Nat) (s : State) : Host.Outcome State Fault Refusal :=
  s.run (fun d => d.rowRead m row false)

/-- CLAS_ROW_READ_LIVE (R86). -/
def execClasRowReadLive (m row : Nat) (s : State) : Host.Outcome State Fault Refusal :=
  s.run (fun d => d.rowRead m row true)

end Sys2Proof.Machine
end

