-- ==== Sys2Proof/Machine/Cores.lean ====
section
/-! DEFINITION. Stillness (R195, R196), and the retirement of cores (R108, R201 to R204). -/

namespace Sys2Proof.Machine

/-! ## Stillness -/

/-- still_mode of a gallery: one domain for the whole gallery. -/
def Dev.stillWhole (d : Dev) (g : Nat) : Bool := bitOf (d.live (R.gallCfg + 0x40000 * g)) 1

/-- The stillness domains of a gallery: 0 to 7 its logical cores, or 8 the gallery. -/
def Dev.stillDomains (d : Dev) (g : Nat) : List Nat := if d.stillWhole g then [8] else List.range 8

/-- The threads of a domain; keepers belong to none. -/
def Dev.domainThreads (d : Dev) (g m : Nat) : List Tid :=
  (List.range 8).flatMap (fun l => if m = 8 || m = l then
    (List.range 8).filterMap (fun t => if l = 0 && t = 0 then none else d.tidAt g l t) else [])

/-- A channel is internal to a domain (R195). -/
def Dev.chanInternal (d : Dev) (g m c : Nat) : Bool :=
  m = 8 || match d.chanRx g c with
    | some r => d.domainOf r = some m && bitOf (d.chanCfg g c) 7 && m ≠ 0
    | none => false

/-- Every enabled channel whose receiver is the thread is internal. -/
def Dev.chansInternal (d : Dev) (m : Nat) (id : Tid) : Bool :=
  (List.range 256).all (fun c => d.chanRx id.g c ≠ some id || d.chanInternal id.g m c)

/-- An enabled event bit counts as internal (R195). -/
def Dev.bitInternal (d : Dev) (m : Nat) (id : Tid) (bit : Nat) : Bool :=
  bit = Ev.sevl || (bit = Ev.chrx && d.chansInternal m id) || (bit = Ev.chtx && m = 8)

/-- A thread lets its domain be still. -/
def Dev.threadStill (d : Dev) (m : Nat) (id : Tid) : Bool :=
  let t := d.thr id
  t.state = .waiting && !t.outstanding && match t.wait.kind with
    | .wfe => (t.evp.toNat &&& t.ev.toNat) = 0 && (maskBits 15 t.ev.toNat).all (fun b => d.bitInternal m id b)
    | .chrecv => d.chanInternal id.g m t.wait.what
    | .chsend => match d.chanRx id.g t.wait.what with
      | some r => d.domainOf r = some m
      | none => false
    | _ => false

/-- A domain is still now. -/
def Dev.domainStill (d : Dev) (g m : Nat) : Bool :=
  let ts := d.domainThreads g m
  !ts.isEmpty && ts.all (fun id => d.threadStill m id)

/-- The detector's test of one domain at a boundary: its run of still boundaries begins, goes on or ends. -/
def Dev.stillTest (d : Dev) (g m : Nat) : Dev :=
  let G := d.gal g
  let e := (spFind G.still m).getD ⟨none, false, 0⟩
  if bitOf (d.live (R.gallCfg + 0x40000 * g)) 0 && d.domainStill g m then
    d.setGal g { G with still := spPut G.still m { e with since := some (e.since.getD d.drip.now) } }
  else d.setGal g { G with still := if e.bit then spPut G.still m { e with since := none } else spErase G.still m }

/-- Runs of domains that the still_mode in force does not have end; a bit that is set stays until a thread clears it. -/
def Dev.stillForget (d : Dev) (g : Nat) : Dev :=
  d.setGal g { d.gal g with still := (d.gal g).still.filterMap (fun e =>
    if (d.stillDomains g).contains e.1 then some e
    else if e.2.bit then some (e.1, { e.2 with since := none }) else none) }

/-- The tests of every gallery at a boundary (R195). -/
def Dev.stillTests (d : Dev) : Dev :=
  (List.range 16).foldl (fun d g => (d.stillDomains g).foldl (fun d m => d.stillTest g m) (d.stillForget g)) d

/-- STILLNESS_DETECT (R196). -/
def Dev.stillness (d : Dev) (g m : Nat) : Dev :=
  let period := bits (d.live (R.gallCfg + 0x40000 * g)) 9 2
  match spFind (d.gal g).still m, d.keeper g with
  | some e, some k =>
    if d.serving && g < 16 && (d.stillDomains g).contains m && !e.bit && e.rearm ≤ d.drip.now
        && e.since.any (fun b => b + period ≤ d.drip.now) then
      let d := d.setGal g { d.gal g with still := spPut (d.gal g).still m { e with bit := true } }
      ((d.bump (R.gallStillCnt + 0x40000 * g)).incident 14 Code.timeout (ownerTag k) (g + m * 2 ^ 4) period).event k Ev.still
    else d
  | _, _ => d

/-- STILLNESS_DETECT (R196). -/
def execStillnessDetect (gallery domain : Nat) (s : State) : Host.Outcome State Fault Refusal :=
  s.run (fun d => d.stillness gallery domain)

/-! ## Retirement -/

/-- A thread runs a task that a retirement starts again: one whose RELEASE was not accepted (R111, R202). A thread parked by a fault
or a kill runs none, though its descriptor is kept (assumption 51). -/
def Thread.current (t : Thread) : Option Pkt := if t.running && !t.spent then t.desc else none

/-- A thread of a retired core stops: nothing it waited for continues (R202). A keeper, which is never IDLE (R180), waits for the
core that takes its place (DESIGN CHOICE, assumption 54). -/
def Dev.retireThread (d : Dev) (id : Tid) : Dev :=
  let d := (d.unstill id).stopThread id
  (d.updThr id (fun t => { t with
    state := if d.isKeeper id then .waiting else .idle, wait := Wait.idle, tags := [], macroRun := none, repAt := none,
    haltReq := false, stepping := false, armed := none, chtx := none })).discardStaging id

/-- The sweep of one thread's cells (R108, R204): of the chain of its current task the cells that still carry its tag go to `heir`,
the rest of its cells are freed. -/
def Dev.sweepThread (d : Dev) (id : Tid) (heir : Option Nat) : Dev :=
  let keep := match (d.thr id).current, heir with
    | some p, some _ => d.lard.lead (ownerTag id) p.chain.count p.chain.head
    | _, _ => []
  let d := match heir with | some h => d.mapCells keep (fun c => { c with owner := h }) | none => d
  let d := d.mapCells keep.getLast?.toList (fun c => { c with next := cellEnd })
  let rest := (d.cellsOf (ownerTag id)).filter (fun i => !keep.contains i)
  (d.freeList rest).bumpBy R.lardRetireFreed rest.length

/-- The threads of a physical core. -/
def coreThreads (g p : Nat) : List Tid := (List.range 8).map (fun t => ⟨g, p, t⟩)

/-- The threads of a core that is retired stop together: all leave the queues they wait in before any Latch is orphaned (R272). -/
def Dev.retireThreads (d : Dev) (ids : List Tid) : Dev :=
  ids.foldl (fun d id => d.retireThread id) (ids.foldl (fun d id => (d.leaveSenders id).leaveLatches (ownerTag id)) d)

/-- A reset generation rises by one (R181). -/
def Thread.raise (t : Thread) : Thread := { t with rgen := (t.rgen + 1) % 2 ^ 16 }

/-- A task of a core that is gone goes back to its level's head (R204), or to the hold queue of its pipe while the gallery holds its
4,096 entries (R296, R298, assumption 54); in Limp mode it becomes a passage. -/
def Dev.requeueTask (d : Dev) (g : Nat) (p : Pkt) : Dev :=
  let q := { p with attempt := (p.attempt + 1) % 256, requeued := true }
  if d.mode = Mode.limp then d.limpPassage q
  else if d.queuedIn g < 4096 then d.placeEntry g q true else d.holdEntry q

/-- The threads of a core leave it without a spare: their tasks are requeued, the chains held by the keeper. Answers the
number of tasks (R204). Reset generations rise where the core is `retired` (R181), not where it takes over logical core 0. -/
def Dev.dissolveCore (d : Dev) (g p : Nat) (heir : Option Nat) (retired : Bool) : Nat × Dev :=
  let ids := coreThreads g p
  let d := d.retireThreads ids
  let d := if retired then ids.foldl (fun d id => d.updThr id Thread.raise) d else d
  let tasks := ids.filterMap (fun id => (d.thr id).current)
  let d := ids.foldl (fun d id => d.sweepThread id heir) d
  let d := tasks.foldl (fun d q => d.requeueTask g q) d
  let d := ids.foldl (fun d id => d.updThr id (fun t => { Thread.init with rgen := t.rgen, mem := t.mem })) d
  (tasks.length, d)

/-- The highest-numbered logical core but 0 that a gallery still has. -/
def Dev.lastLogical (d : Dev) (g : Nat) : Option Nat :=
  ((List.range 8).reverse).find? (fun l => l ≠ 0 && (d.physOf g l).isSome && !d.retiringCore g l)

/-- Logical core `l` has no physical core any more. -/
def Dev.unmapCore (d : Dev) (g l : Nat) : Dev :=
  d.setGal g { d.gal g with coreMap := (d.gal g).coreMap.set l 9 }

/-- A core is retired where the spare is already in use (R204): the gallery goes on with one core fewer, and core 0 moves to
the highest-numbered one that remains. -/
def Dev.retireShrink (d : Dev) (g p l : Nat) : Nat × Dev :=
  if l ≠ 0 then
    let (n, d) := d.dissolveCore g p ((d.keeper g).map ownerTag) true
    (n, d.unmapCore g l)
  else match d.lastLogical g, (d.lastLogical g).bind (fun h => d.physOf g h) with
    | some h, some ph =>
      let k : Tid := ⟨g, ph, 0⟩
      let (n, d) := d.dissolveCore g p (some (ownerTag k)) true
      let (n', d) := d.dissolveCore g ph (some (ownerTag k)) false
      let d := d.setGal g { d.gal g with coreMap := ((d.gal g).coreMap.set 0 ph).set h 9 }
      (n + n', d.startKeeper k (2 ^ Ev.retire))
    | _, _ =>
      let (n, d) := d.dissolveCore g p none true
      (n, d.unmapCore g 0)

/-- A core is retired with a spare to replace it: its threads stop, the sweep runs, and the spare starts at a later
boundary, where the reset generations rise (R202). -/
def Dev.retireSpare (d : Dev) (g p l : Nat) : Nat × Dev :=
  let ids := coreThreads g p
  let spare := (d.gal g).spare
  let d := d.retireThreads ids
  let d := ids.foldl (fun d id => d.sweepThread id (some (ownerTag { id with c := spare }))) d
  let n := (ids.filter (fun id => ((d.thr id).current).isSome)).length
  (n, d.setGal g { d.gal g with
    spare := 9, retiring := (d.gal g).retiring ++ [⟨l, p, spare, d.drip.now⟩] })

/-- A physical core is retired (R201 to R204). -/
def Dev.retireCore (d : Dev) (g p : Nat) : Dev :=
  match d.logicalOf g p with
  | none => d
  | some l =>
    if d.retiringCore g l then d
    else
      let spare := (d.gal g).spare
      let d := d.setGal g { d.gal g with retired := (d.gal g).retired ++ [p] }
      let (n, d) := if spare < 9 then d.retireSpare g p l else d.retireShrink g p l
      let d := d.incident 14 Code.orphaned (ownerTag ⟨g, p, 0⟩)
        (g + p * 2 ^ 4 + (if spare < 9 then spare else 15) * 2 ^ 8) n
      let d := d.bump (R.gallRetireCnt + 0x40000 * g)
      if l = 0 then d else d.keeperEvent g Ev.retire

/-- ISSUE_WATCHDOG (R201): a core with a READY thread has issued nothing for 4,096 core clocks. -/
def execIssueWatchdog (gallery core : Nat) (s : State) : Host.Outcome State Fault Refusal :=
  s.run (fun d =>
    if d.serving && gallery < 16 && (coreThreads gallery core).any (fun id => (d.thr id).state = .ready)
    then d.retireCore gallery core else d)

/-- A write of GALL_CORE_CTL (R201). -/
def Dev.coreCtl (d : Dev) (m g v : Nat) : Dev :=
  d.doorbell m (R.gallCoreCtl + 0x40000 * g) [2, 3] 5 v (fun d =>
    match d.logicalOf g (bits v 4 1) with
      | some l => if d.retiringCore g l then d.refuse m (R.gallCoreCtl + 0x40000 * g) Code.reserved
                  else if bitOf v 0 then d.retireCore g (bits v 4 1) else d
      | none => d.refuse m (R.gallCoreCtl + 0x40000 * g) Code.reserved)

/-- CORE_RETIRE_REQUEST: retire = 1 with the named core. -/
def execCoreRetireRequest (m gallery core : Nat) (s : State) : Host.Outcome State Fault Refusal :=
  s.run (fun d => if gallery < 16 then d.coreCtl m gallery (1 + core % 16 * 2) else d)

/-- CORE_RETIRE: a fault of the core is detected (R201, R202). -/
def execCoreRetire (gallery core : Nat) (s : State) : Host.Outcome State Fault Refusal :=
  s.run (fun d => if d.serving && gallery < 16 then d.retireCore gallery core else d)

/-- The key of a byte of a logical core's load copy (R174). -/
def loadKey (g l a : Nat) : Nat := 65536 * (8 * g + l) + a

/-- The spare's common memory is loaded from the load copy of a logical core. -/
def Dev.loadCommon (d : Dev) (g l spare : Nat) : Dev :=
  let lo := 65536 * (8 * g + l)
  let base := 65536 * (9 * g + spare)
  d.onCores (fun c =>
    let kept := c.common.filter (fun e => !(base ≤ e.1 && e.1 < base + 65536))
    let new := (c.loadCopy.filter (fun e => lo ≤ e.1 && e.1 < lo + 65536)).foldl
      (fun m e => spSet 0 m (base + (e.1 - lo)) e.2) kept
    { c with common := new })

/-- A thread of the spare takes the place of a thread of the retired core (R202, R208). -/
def Dev.startOnSpare (d : Dev) (r : Retiring) (g t : Nat) : Dev :=
  let old : Tid := ⟨g, r.phys, t⟩
  let new : Tid := ⟨g, r.spare, t⟩
  let o := d.thr old
  let d := d.setThr old { Thread.init with rgen := o.raise.rgen }
  let d := d.setThr new { Thread.init with rgen := o.raise.rgen }
  if r.logical = 0 && t = 0 then d.startKeeper new (2 ^ Ev.retire)
  else match o.current with
    | some p =>
      let q := { p with attempt := (p.attempt + 1) % 256 }
      (d.startTask new q true).traceRec 2 g q.task (ownerTag new) q.prio 0
    | none => d

/-- The spare of a retirement starts. -/
def Dev.spareStart (d : Dev) (g : Nat) (r : Retiring) : Dev :=
  let G := d.gal g
  let d := (d.setGal g { G with
    coreMap := G.coreMap.set r.logical r.spare, retiring := G.retiring.erase r }).loadCommon g r.logical r.spare
  (List.range 8).foldl (fun d t => d.startOnSpare r g t) d

/-- SPARE_START: at the first boundary after the sweep and the load (R202). -/
def execSpareStart (gallery core : Nat) (s : State) : Host.Outcome State Fault Refusal :=
  s.run (fun d => match (d.gal gallery).retiring.find? (fun r => r.phys = core && r.since < d.drip.now) with
    | some r => d.spareStart gallery r
    | none => d)

end Sys2Proof.Machine
end

