-- ==== Sys2Proof/Machine/HostOps.lean ====
section
/-! DEFINITION. What the host and the partner are told: MSI-X vectors (R457), completions of commit slots and views
(R53, R454, R465), and frames of the Rope (R460). -/

namespace Sys2Proof.Machine

/-! ## MSI-X vectors -/

/-- The moderation in force: drips between two signals of a vector (R457). -/
def Dev.msixMod (d : Dev) : Nat := if 1 ≤ d.hostMinor then d.ioFld R.hostMsixMod 7 0 else 0

/-- A vector may be signalled at this boundary (R457). -/
def Dev.vecOpen (d : Dev) (v : Nat) : Bool :=
  match spFind d.host.vecLast v with
  | none => true
  | some x => x + Nat.max 1 d.msixMod ≤ d.drip.now

/-- A vector of PF0 is signalled; while PE_PERST_N is low there is no link to signal it on (R508). -/
def Dev.sendVec (d : Dev) (v : Nat) : Dev :=
  if d.elec.perst then d
  else (d.onHost (fun h => { h with
    vecLast := spPut h.vecLast v d.drip.now, vecWait := spErase h.vecWait v })).msix 0 v

/-- A vector's condition holds at this boundary: it is signalled, or waits until the limit allows (R457). -/
def Dev.signal (d : Dev) (v : Nat) : Dev :=
  if d.vecOpen v then d.sendVec v
  else if spFind d.host.vecLast v = some d.drip.now then d
  else d.onHost (fun h => { h with vecWait := spPut h.vecWait v true })

/-- The pending vectors of a function that is no longer masked are sent: `key` is 64 × the function plus the vector. -/
def Dev.msixPending (d : Dev) (key : Nat) : Dev :=
  if spGet false d.host.pba key && !d.host.fnMask.getD (key / 64) false && !d.elec.perst then
    (d.onHost (fun h => { h with pba := spSet false h.pba key false })).emit (.msix (key / 64) (key % 64))
  else d

/-- MSIX_DEFERRED_SIGNAL (R457): a condition that the limit suppressed, or a pending bit of an unmasked function. -/
def execMsixDeferredSignal (vec : Nat) (s : State) : Host.Outcome State Fault Refusal :=
  s.run (fun d => if spGet false d.host.vecWait vec && d.vecOpen vec then d.sendVec vec else d.msixPending vec)

/-! ## Frames of the Rope -/

/-- Send a frame of a type on the Rope, which carries it in UP (R463); MIRROR and DMA need version 2. The layout of
payloads the manual does not give is the model's own (assumption 9). -/
def Dev.ropeSend (d : Dev) (type : Nat) (data : Bytes) : Dev :=
  if d.ropeUp && (type < 6 || d.ropeVer = 2) then d.ropeEmit type 0 data else d

/-- A NOTIFY frame (R465): kind 0 a commit slot, 1 a view buffer. -/
def Dev.ropeNotify (d : Dev) (kind i : Nat) : Dev := d.ropeSend 4 (leBytes 1 kind ++ leBytes 1 i)

/-! ## Completions -/

/-- A commit slot's holder learns of its entry into WAITING or DONE (R53, R182, R454, R465). -/
def Dev.slotPost (d : Dev) (s : Nat) : Dev :=
  match (d.slot s).holder with
  | 2 => d.keeperEvent 0 Ev.dev
  | 3 => (d.setIoBit R.hostCdone s).signal 1
  | 4 => d.ropeNotify 0 s
  | _ => d

/-- A view buffer's holder learns that it is READY (R454, R465). -/
def Dev.viewPost (d : Dev) (v holder : Nat) : Dev :=
  match holder with
  | 3 => (d.setIoBit R.hostVdone v).signal 2
  | 4 => d.ropeNotify 1 v
  | _ => d

/-- The device's mode changes at a boundary (R434), which signals vector 5 (R457). -/
def Dev.setMode (d : Dev) (m : Nat) : Dev := if d.mode = m then d else (d.setIoFld R.loadStat 2 0 m).signal 5

end Sys2Proof.Machine
end

