-- ==== Sys2Proof/Machine/FwdDma.lean ====
section
/-! DEFINITION. Forwarding DMA commands and bucket locks (R166 to R168). -/

namespace Sys2Proof.Machine

/-- Buckets of the forwarding table (R151). -/
def numBuckets : Nat := 262144

/-- The 128 bytes of a bucket: its four slots in order. -/
def Dev.bucketBytes (d : Dev) (b : Nat) : Bytes := (List.range 4).flatMap (fun s => leBytes 32 (d.fslot (4 * b + s)).toNat)

/-- The buckets of a range. -/
def bucketRange (first count : Nat) : List Nat := (List.range count).map (fun i => first + i)

/-- Master `m` holds the lock of a bucket. -/
def Dev.holdsBucket (d : Dev) (m b : Nat) : Bool := spFind d.fwd.locks b = some m

/-- Set the command of a master. -/
def Dev.setFwdCmd (d : Dev) (m : Nat) (c : Option FwdCmd) : Dev :=
  d.onFwd (fun f => { f with cmds := match c with | some x => spPut f.cmds m x | none => spErase f.cmds m })

/-- A command of a master completes. -/
def Dev.fwdEnd (d : Dev) (m code : Nat) : Dev := (d.setFwdCmd m none).setStat m R.fwdtDmaStat false code

/-- The head keeper's address names table SRAM or its common memory as R284 lays pointers out (assumption 10). -/
def headAddrOk (a n : Nat) : Bool := let p := ptrOf a; p.space < 2 && p.inSpace n

/-- Read memory at the head keeper's address. -/
def Dev.headRead (d : Dev) (a n : Nat) : Bytes :=
  let p := ptrOf a
  if p.space = 1 then d.memBytes false p.place n
  else match d.keeper 0 with | some id => d.localBytes id p.place n | none => List.replicate n 0

/-- Memory at the head keeper's address holds poison. -/
def Dev.headPoisoned (d : Dev) (a n : Nat) : Bool := let p := ptrOf a; p.space = 1 && d.memPoisoned false p.place n

/-- Write memory at the head keeper's address. -/
def Dev.headWrite (d : Dev) (a : Nat) (bs : Bytes) : Dev :=
  let p := ptrOf a
  if p.space = 1 then d.masterMem false p.place bs
  else match d.keeper 0 with | some id => d.setLocalBytes id p.place bs | none => d

/-- A write of 1 to FWDT_DMA_GO whose buffer holds `op`: 0 READ, 1 WRITE, 2 LOCK, 3 UNLOCK (R166). Its checks stand in the order
of R12, with BUSY_RETRY last. -/
def Dev.fwdGo (d : Dev) (m op : Nat) : Dev :=
  if !d.noPath m && d.blockOpen R.fwdtDmaGo && !d.owns m 7 then d.refuseOwner m R.fwdtDmaGo R.fwdtDmaStat
  else d.ownDoorbell m 7 R.fwdtDmaGo 1 1 (fun d =>
    let w := d.per m R.fwdtDmaCmd
    let first := bits w 17 0
    let count := d.per m R.fwdtDmaCnt
    let addr := d.per m R.fwdtDmaAddrLo + 2 ^ 32 * d.per m R.fwdtDmaAddrHi
    let moves := op < 2
    let c : FwdCmd := ⟨op, first, count, addr, d.drip.now, .accepted, 0, []⟩
    let busy := bitOf (d.per m R.fwdtDmaStat) 0
    let refused (code : Nat) : Dev := if busy then d.refuse m R.fwdtDmaGo code else d.fwdEnd m code
    if bits w 19 18 ≠ op then d
    else if moves && count ≠ 0 && d.dmaCode m ≠ Code.ok then refused (d.dmaCode m)
    else if 4096 < count || numBuckets < first + count then refused Code.reserved
    else if moves && m = 2 && count ≠ 0 && !headAddrOk addr (128 * count) then refused Code.reserved
    else if busy then refused Code.busyRetry
    else if count = 0 then d.fwdEnd m Code.ok
    else if op = 1 && m = 2 && d.headPoisoned addr (128 * count) then d.fwdEnd m Code.poisoned
    else
      let d := d.setStat m R.fwdtDmaStat true 0
      if op ≠ 1 then d.setFwdCmd m (some c)
      else if m = 2 then d.setFwdCmd m (some { c with phase := .moved, data := d.headRead addr (128 * count) })
      else (d.setFwdCmd m (some { c with phase := .moving })).dmaRead m addr (128 * count) .fwdt)

/-- FWDT_LOCK (R167). -/
def execFwdtLock (m : Nat) (s : State) : Host.Outcome State Fault Refusal := s.run (fun d => d.fwdGo m 2)

/-- FWDT_UNLOCK (R167). -/
def execFwdtUnlock (m : Nat) (s : State) : Host.Outcome State Fault Refusal := s.run (fun d => d.fwdGo m 3)

/-- FWDT_READ (R166). -/
def execFwdtRead (m : Nat) (s : State) : Host.Outcome State Fault Refusal := s.run (fun d => d.fwdGo m 0)

/-- FWDT_WRITE (R166). -/
def execFwdtWrite (m : Nat) (s : State) : Host.Outcome State Fault Refusal := s.run (fun d => d.fwdGo m 1)

/-! ## At the boundary -/

/-- A LOCK's record after its master released some buckets. -/
def LockRec.release (r : LockRec) (m : Nat) (bs : List Nat) : LockRec :=
  if r.holder = m then { r with held := r.held.filter (fun b => !bs.contains b) } else r

/-- A master's locks of some buckets are released, with the records of the LOCKs that hold no bucket any more. -/
def Dev.releaseBuckets (d : Dev) (m : Nat) (bs : List Nat) : Dev :=
  d.onFwd (fun f => { f with
    locks := f.locks.filter (fun e => !(e.2 = m && bs.contains e.1)),
    lockRecs := (f.lockRecs.map (fun r => r.release m bs)).filter (fun r => !r.held.isEmpty) })

/-- A LOCK at its boundary: granted whole, or refused (R167). -/
def Dev.lockAt (d : Dev) (m : Nat) (c : FwdCmd) : Dev :=
  let bs := bucketRange c.first c.count
  let others := bs.filterMap (fun b => match spFind d.fwd.locks b with
    | some h => if h = m then none else some h
    | none => none)
  let fresh (h : Nat) : Bool := d.fwd.lockRecs.any (fun r =>
    r.holder = h && r.since = d.drip.now && r.first < c.first + c.count && c.first < r.first + r.count)
  if others.isEmpty then
    let d := d.onFwd (fun f => { f with
      locks := bs.foldl (fun l b => spPut l b m) f.locks,
      lockRecs := f.lockRecs ++ [⟨m, c.first, c.count, d.drip.now, false, bs⟩] })
    d.fwdEnd m Code.ok
  else if others.all fresh then d.fwdEnd m Code.superseded
  else d.fwdEnd m Code.notHolder

/-- A LOCK, UNLOCK or READ accepted in an earlier drip takes effect; a READ whose last byte has landed completes (R166). -/
def Dev.fwdCommand (d : Dev) (m : Nat) : Dev :=
  match spFind d.fwd.cmds m with
  | none => d
  | some c =>
    let bs := bucketRange c.first c.count
    if d.drip.now ≤ c.drip then d
    else match c.op, c.phase with
      | 0, .accepted => d.setFwdCmd m (some { c with phase := .moving, data := bs.flatMap d.bucketBytes })
      | 0, .moved => d.fwdEnd m c.code
      | 2, _ => d.lockAt m c
      | 3, _ => if bs.all (d.holdsBucket m) then (d.releaseBuckets m bs).fwdEnd m Code.ok else d.fwdEnd m Code.notHolder
      | _, _ => d

/-- The commands of a boundary, in the precedence of R54. -/
def Dev.fwdBoundary (d : Dev) : Dev := [2, 3, 4].foldl (fun d m => d.fwdCommand m) d

/-- FWDT_READ_DONE (R166): the bytes land at the issuer's address; the command completes at the boundary after. -/
def execFwdtReadDone (m : Nat) (s : State) : Host.Outcome State Fault Refusal :=
  s.run (fun d => match spFind d.fwd.cmds m with
    | some c =>
      if c.op = 0 && c.phase = .moving then
        let code := d.dmaCode m
        let d := if code ≠ Code.ok then d else if m = 2 then d.headWrite c.addr c.data else d.dmaWrite m c.addr c.data
        d.setFwdCmd m (some { c with phase := .moved, drip := d.drip.now, code := code })
      else d
    | none => d)

/-! ## A WRITE is applied -/

/-- The bits of each word of a slot of a type that R153 names; a type 3 slot has its ports in word 2, as the list of R153 says
where its table says word 3 (DESIGN CHOICE, assumption 61). -/
def slotBits (type : Nat) : List Nat :=
  let w0 := 0x3FFFF
  let all := 0xFFFFFFFF
  match type with
  | 0 => [w0, 0xFFF, all, 0xFFFF, 0, 0, 0, 0]
  | 1 => [w0, all, all, all, 0xFF, 0, 0, 0]
  | 2 => [w0, all, all, all, all, all, all, all]
  | _ => [w0, all, all, 0xFF, 0, 0, 0, 0]

/-- A slot has no reserved bit set. -/
def slotClean (e : BitVec 256) : Bool :=
  ((List.range 8).zip (slotBits (slotType e))).all (fun p => slotWord e p.1 &&& (0xFFFFFFFF - p.2) = 0)

/-- The slots of a bucket as a WRITE gives them. -/
def bucketSlots (bs : Bytes) : List (BitVec 256) := (List.range 4).map (fun s => BitVec.ofNat 256 (leAt bs (32 * s) 32))

/-- A bucket a WRITE may hold (R167): clean slots, and IPv6 heads in slots 0 and 2 each with its continuation. -/
def bucketOk (bs : Bytes) : Bool :=
  let ss := bucketSlots bs
  let is (i t : Nat) : Bool := let e := ss.getD i 0; slotValid e && slotType e = t
  ss.all slotClean && !is 1 2 && !is 3 2 && is 0 2 = is 1 3 && is 2 2 = is 3 3 && !is 0 3 && !is 2 3

/-- The buckets of a WRITE, in order. -/
def writeBuckets (bs : Bytes) (count : Nat) : List Bytes := (List.range count).map (fun i => slice bs (128 * i) 128)

/-- FWDT_WRITE_APPLY (R166, R167): at the boundary after the last byte arrived. -/
def execFwdtWriteApply (m : Nat) (s : State) : Host.Outcome State Fault Refusal :=
  s.run (fun d => match spFind d.fwd.cmds m with
    | some c =>
      let bks := writeBuckets c.data c.count
      if c.op = 1 && c.phase = .moved && c.drip < d.drip.now then
        if !bks.all bucketOk then d.fwdEnd m Code.reserved
        else if !(bucketRange c.first c.count).all (d.holdsBucket m) then d.fwdEnd m Code.notHolder
        else
          let put (d : Dev) (p : Nat × Bytes) : Dev :=
            ((List.range 4).zip (bucketSlots p.2)).foldl (fun d q => d.setFslot (4 * (c.first + p.1) + q.1) q.2) d
          (((List.range c.count).zip bks).foldl put d).fwdEnd m Code.ok
      else d
    | none => d)

/-- LOCK_HOLD_REPORT (R168): a LOCK has held a bucket of its range for 64 drips. -/
def execLockHoldReport (bucket : Nat) (s : State) : Host.Outcome State Fault Refusal :=
  s.run (fun d =>
    let due (r : LockRec) : Bool :=
      !r.reported && r.since + 64 ≤ d.drip.now && r.held.contains bucket
    match d.fwd.lockRecs.find? due with
    | some r =>
      let d := d.onFwd (fun f => { f with lockRecs := f.lockRecs.map (fun x => if x = r then { x with reported := true } else x) })
      d.incident 7 Code.timeout (actorMaster r.holder) r.first r.count
    | none => d)

/-! ## Reads of a DMA space that fail (R449, R463) -/

/-- The command that awaited a read's data fails with a code; nothing is applied. -/
def Dev.readFails (d : Dev) (tag code : Nat) : Dev :=
  match spFind d.host.reads tag with
  | none => d
  | some r =>
    let d := d.onHost (fun h => { h with reads := spErase h.reads tag })
    match r.use with
    | .cal b => if d.calAsked r.master then (d.calCame r.master).srRefuse (.master r.master) b code else d
    | .fwdt => d.fwdEnd r.master code
    | .image => (d.setIo (R.loadAtt + 16) code).onLoad (fun l => { l with enrol := false })

end Sys2Proof.Machine
end

