-- ==== Sys2Proof/Machine/RopeOps.lean ====
section
/-! DEFINITION. The state of the Rope (R461 to R463). -/

namespace Sys2Proof.Machine

/-- The states of ROPE_STAT. -/
abbrev RopeSt.down : Nat := 0
/-- HELLO. -/
abbrev RopeSt.hello : Nat := 1
/-- UP. -/
abbrev RopeSt.up : Nat := 2
/-- TALK_ONLY. -/
abbrev RopeSt.talkOnly : Nat := 3

/-- The state the Rope is in. -/
def Dev.ropeSt (d : Dev) : Nat := d.ioFld R.ropeStat 1 0

/-- A counter of the Rope. -/
def Dev.ropeCount (d : Dev) (i : Nat) : Dev := d.bump (R.ropeCnt + 4 * i)

/-- Set the state, version and reason of ROPE_STAT; a change signals vector 6 (R457). -/
def Dev.setRope (d : Dev) (st ver reason : Nat) : Dev :=
  let old := d.ioFld R.ropeStat 5 0
  let new := st + 4 * ver + 16 * reason
  if old = new then d else (d.setIoFld R.ropeStat 5 0 new).vector 6

/-- Every outstanding request completes with ORPHANED when the Rope leaves UP; reads of the peer's DMA space that await
data end so too, and an MBOX message that awaits its CPL will be sent again (R463). -/
def Dev.ropeLeave (d : Dev) : Dev :=
  if d.ropeSt ≠ RopeSt.up then d
  else
    let d := d.rope.reqs.foldl (fun d e => d.setStat e.1 R.ropeReqStat false Code.orphaned) d
    let d := (d.host.reads.filter (fun e => e.2.master = 4)).foldl (fun d e => d.readFails e.1 Code.orphaned) d
    d.onRope (fun r => { r with reqs := [], mboxSent := false })

/-- The Rope enters HELLO: the decision waits for a HELLO sent and one received from now on (R462). -/
def Dev.ropeHello (d : Dev) : Dev :=
  (d.ropeLeave.setRope RopeSt.hello 0 0).onRope (fun r => { r with sentHello := false, gotHello := false })

/-- The versions this device offers: bit 0 is never offered (R461, R468). -/
def Dev.ropeMask (d : Dev) : Nat := d.liveFld R.ropeCfg 2 0

/-- The 64 bytes of a HELLO payload (R461). -/
def Dev.helloBytes (d : Dev) : Bytes :=
  leBytes 2 d.ropeMask ++ leBytes 2 0 ++ srBytes 0x70 2 ++ (d.load.fuse.getD (List.replicate 32 0)) ++ leBytes 1 (d.ioFld R.dripCfg 1 0)
    ++ leBytes 3 0 ++ leBytes 8 d.drip.now ++ leBytes 4 d.rope.helloSeq ++ leBytes 4 0

/-- The device sends a HELLO. -/
def Dev.sendHello (d : Dev) : Dev :=
  (d.ropeEmit 0 0 d.helloBytes).onRope (fun r => { r with
    sentHello := true, helloAt := d.drip.now, helloSeq := (r.helloSeq + 1) % 2 ^ 32 })

/-- The link is lost (R462). -/
def Dev.ropeLoss (d : Dev) : Dev :=
  if d.ropeSt = RopeSt.down then d
  else
    let d := ((d.ropeLeave.setRope RopeSt.down 0 0).ropeCount 4).incident 22 Code.timeout 0 0 0
    d.onRope (fun r => { r with sentHello := false, gotHello := false, peer := none })

/-- A flip of ver_mask returns the Rope to HELLO and sends one (R461, R462). -/
def Dev.ropeFlip (d old : Dev) : Dev :=
  if d.ropeMask = old.ropeMask || d.ropeSt = RopeSt.down then d else d.ropeHello.sendHello

end Sys2Proof.Machine
end

