-- ==== Sys2Proof/Machine/Valid.lean ====
section
/-! DEFINITION. Commit validation (R49, R52): the content of the groups a commit names, and every failure of a field, of a
table entry and of a rule between fields. -/

namespace Sys2Proof.Machine

/-! ## Content (R49) -/

/-- What a validation looks at: the device, the groups named, the words of their content that differ from the Reset
column, and for each named group whether the loader's tables of its STAGED bank belong to it. -/
structure Content where
  dev : Dev
  mask : Nat
  words : Map Word

/-- The content of one group: its staged copy with the queued writes applied at or before the seal. -/
def Dev.groupWords (d : Dev) (g : Nat) (lim : Option Nat) : Map Word :=
  let G := d.group g
  let bank := if (if G.other = .staged then !G.liveB else G.liveB) then d.csr.bankB else d.csr.bankA
  let base := bank.filter (fun e => groupOfKey e.1 = g)
  (d.drip.queue.filter (fun q => q.group = g && withinSeal lim q.applied)).foldl
    (fun m q => (List.zip q.target.keys q.words).foldl (fun m p => spSet (resetWord p.1) m p.1 p.2) m) base

/-- The content of the groups of a mask, each with the boundary of its seal. -/
def Dev.content (d : Dev) (mask : Nat) (lim : Nat → Option Nat) : Content :=
  let ws := (groupBits.filter (fun g => bitOf mask g)).flatMap (fun g => d.groupWords g (lim g))
  ⟨d, mask, ws.filter (fun e => e.1 < 0x10000000) ++ ws.filter (fun e => 0x10000000 ≤ e.1)⟩

/-- A group is named. -/
def Content.named (c : Content) (g : Nat) : Bool := bitOf c.mask g

/-- The word at a key: content of a named group, LIVE value of another. -/
def Content.get (c : Content) (k : Nat) : Nat :=
  if c.named (groupOfKey k) then (spGet (resetWord k) c.words k).toNat else c.dev.live k

/-- Field [hi:lo] of the word at a key. -/
def Content.fld (c : Content) (k hi lo : Nat) : Nat := bits (c.get k) hi lo

/-- The listed keys from `a` to below `b` of a named group. -/
def Content.keys (c : Content) (a b : Nat) : List Nat := (c.words.map Prod.fst).filter (fun k => a ≤ k && k < b)

/-- The bank of the loader's tables: the STAGED bank's where GALL is named, else the LIVE bank's. -/
def Content.gallB (c : Content) : Bool :=
  let G := c.dev.group 14
  if c.named 14 && G.other = .staged then !G.liveB else G.liveB

/-- A table of the directory. -/
def Content.table (c : Content) (id : Nat) : TabEnt := spGet TabEnt.none (if c.gallB then c.dev.cores.dirB else c.dev.cores.dirA) id

/-- A DATA table of 32-byte entries, at least 4,096 of them (R291, R456). -/
def Content.recordTable (c : Content) (id : Nat) : Bool :=
  let t := c.table id
  id < 0xF0 && t.kind = .data && t.size = 32 && 4096 ≤ t.count

/-- The gallery mask of a task; 0 when it is undefined (R293). -/
def Content.taskMask (c : Content) (task : Nat) : Nat :=
  leNat ((List.range 2).map (fun i => c.dev.tabByte c.gallB (0x400000 + 8 * task + 4 + i)))

/-! ## Failures -/

/-- A failure: the first group it fails, the item it is reported at, its detail, and the groups it fails. -/
structure Bad where
  grp : Nat
  place : Nat
  detail : Nat
  groups : Nat
  deriving DecidableEq, Repr

/-- A failure of one field or entry of its own group. -/
def bad (k detail : Nat) : Bad := ⟨groupOfKey k, k, detail, 2 ^ groupOfKey k⟩

/-- A failure of a rule between fields at the keys given: of the named groups among them, reported at the first (R52). -/
def Content.rule (c : Content) (keys : List Nat) : List Bad :=
  match keys.filter (fun k => c.named (groupOfKey k)) with
  | [] => []
  | k :: ks =>
    let low := ks.foldl (fun a b => if groupOfKey b < groupOfKey a || (groupOfKey b = groupOfKey a && b < a) then b else a) k
    [⟨groupOfKey low, low, 3, (k :: ks).foldl (fun m x => m ||| 2 ^ groupOfKey x) 0⟩]

/-! ## Fields (detail 1) and entries (detail 2) -/

/-- A target of R72 is not reserved. -/
def targetOk (t : Nat) : Bool := t < 1024 || t = 0x800 || t = 0xC00

/-- Word `o / 4` of a passage breaks R73 by itself. -/
def passageWordBad (o v : Nat) : Bool :=
  if o = 0 then 16 < bits v 15 11 || 4 < bits v 19 17 || bits v 21 20 = 3 || bits v 31 22 ≠ 0
  else if o = 4 then 16 < bits v 15 11 || bits v 31 28 ≠ 0
  else if o = 8 then !targetOk (bits v 11 0) || bits v 31 12 ≠ 0
  else if 156 ≤ o then v ≠ 0
  else if 140 ≤ o then 128 < bits v 18 11 || 607 < bits v 28 19 || 608 < bits v 28 19 + bits v 18 11 || bits v 31 29 ≠ 0
  else o % 8 = 0 && (bits v 31 13 ≠ 0 || (bitOf v 12 && !targetOk (bits v 11 0)))

/-- Word `o / 4 mod 4` of a dictionary entry holds a reserved field value (R335, R337). -/
def dictWordBad (o v : Nat) : Bool :=
  match o % 16 with
  | 0 => 5 < bits v 2 0 || 4 < bits v 5 3 || 5 < bits v 8 6 || bits v 11 9 = 7 || bits v 13 12 = 3 || bits v 31 16 ≠ 0
  | 8 => bits v 31 20 ≠ 0
  | 12 => bits v 31 14 ≠ 0
  | _ => false

/-- Word `o / 4 mod 4` of a program header has a reserved bit or value (R330, R337, R339). -/
def progWordBad (o v : Nat) : Bool :=
  match o % 16 with
  | 0 => bits v 30 7 ≠ 0 || 5 < bits v 2 0 || 5 < bits v 5 3
  | 4 => bits v 31 24 ≠ 0
  | 8 => bits v 31 27 ≠ 0 || bits v 15 14 ≠ 0
  | _ => bits v 31 14 ≠ 0

/-- A word of a step is reserved (R340); a FUNC step needs the other word, and is a rule of its own. -/
def stepWordBad (o v : Nat) : Bool := if o % 8 = 0 then 8 < bits v 7 0 else bits v 31 16 ≠ 0

/-- The detail with which the word `v` at key `k` fails by itself: 1 a field, 2 a table entry, 3 a rule within it. -/
def wordBad (k v : Nat) : Option Nat :=
  let one (p : Bool) : Option Nat := if p then some 1 else none
  let two (p : Bool) : Option Nat := if p then some 2 else none
  let three (p : Bool) : Option Nat := if p then some 3 else none
  if k < R.portPfcPool then one (R.portMacCfg ≤ k && (bits v 20 19 = 3 || 9 < bits v 24 21))
  else if k < R.portPfcPool + 128 then three (bits v 15 0 ≤ bits v 31 16)
  else if R.portBay0 ≤ k && k < R.laneCfg then one (k % 8 = 0 && 64 < bits v 6 0)
  else if k < R.laneCfg + 80 then one (bits v 1 0 = 3)
  else if R.parsPW0 ≤ k && k < R.clasRowCmd then two (passageWordBad (k % 256) v)
  else if k = R.fwdtSweep then one (0 < v && v < 64)
  else if R.fwdtBay ≤ k && k < R.lodeStat then three (bitOf v 12 && bitOf v 14)
  else if R.lardPoolCfg0 ≤ k && k < R.lardPoolCfg0 + 256 then one (786432 < bits v 19 0)
  else if k = R.sessCfg then one (bits v 4 0 < 16 || 24 < bits v 4 0 || bits v 6 5 = 0 || bits v 20 13 = 0)
  else if k = R.sessRecMax then one (v < 256 || 16384 < v)
  else if R.sessCc0 ≤ k && k < R.sessCc0 + 128 then
    match k % 16 with
    | 0 => one (bits v 1 0 = 3 || bits v 7 2 = 0)
    | 4 => if bits v 15 0 = 0 || bits v 31 16 = 0 then some 1 else three (bits v 31 16 * 1024 < bits v 15 0 * 16)
    | 8 => one (bits v 19 16 = 0 || bits v 31 20 = 0 || 256 < bits v 31 20)
    | _ => one (v = 0 || 32768 < v)
  else if R.ciphMsecMac0 ≤ k && k < R.ciphMsecMac0 + 512 then one (k % 8 = 0 && bits v 3 2 = 3)
  else if k = R.dispCfg then one (bits v 3 0 = 0)
  else if R.ltchGrp0 ≤ k && k < R.ltchGrp0 + 512 then one (k % 8 = 4 && bits v 31 16 = 0)
  else if R.gallCfg ≤ k && k < R.sealCfg then one (k % 0x40000 = 0x10 && (bits v 9 2 = 0 || bits v 13 10 = 0))
  else if k = R.sealCfg then one (48 < bits v 6 0 || bits v 23 8 = 0)
  else if R.sealPolicy ≤ k && k < R.sealPolicy + 1024 then one (bits v 15 5 ≠ 0)
  else if k = R.fmteCfg then one (bits v 16 1 = 0)
  else if R.fmteProg ≤ k && k < R.fmteCur then two (progWordBad k v)
  else if R.fmteCur ≤ k && k < R.fmteEbcdic then two (bits v 30 27 ≠ 0 || 4 < bits v 26 24)
  else if R.fmteDict ≤ k && k < R.fmteName then two (dictWordBad k v)
  else if R.fmteStep ≤ k && k < R.bookCfg then two (stepWordBad k v)
  else if k = R.bookCfg then one (bits v 1 0 = 3 || bits v 21 14 = 0)
  else if k = R.egrsHoleCfg then one (v = 0 || 16384 < v)
  else if R.egrsBay ≤ k && k < R.arbsQry then one (bits v 7 0 = 0)
  else if R.arbsWin ≤ k && k < R.arbsQuota then one (v < 63)
  else if R.arbsQuota ≤ k && k < R.dramGeom then three (v ≠ 0 && !arbServed ((k - R.arbsQuota) / 128) (k % 128 / 4))
  else if k = R.dramSched then
    if bits v 7 0 = 0 || bits v 14 8 = 0 || 64 < bits v 14 8 || 63 < bits v 22 16 then some 1
    else three (bits v 14 8 ≤ bits v 22 16)
  else if k = R.dramScrub then one (bits v 7 0 = 0 || bits v 23 8 = 0)
  else if k = R.dramSr then one (v = 0)
  else if k = R.ropeCfg then one (bitOf v 0)
  else if k = R.hlthBistCfg then one (v = 0)
  else none
where
  /-- The requesters an arbiter serves (R415). -/
  arbServed (a r : Nat) : Bool :=
    if a ≤ 7 then r ≤ 25 else if a ≤ 23 then r ≤ 20 || r = 23 || r = 24 else if a = 24 then r ≤ 15 else r ≤ 24

/-- Failures of words by themselves. -/
def Content.words1 (c : Content) : List Bad :=
  c.words.filterMap (fun e => if 0x10000000 ≤ e.1 then none else (wordBad e.1 e.2.toNat).map (bad e.1))

/-! ## PORT and PARS -/

/-- The lanes of a mode of R506. -/
def modeLanes (k : Nat) : Nat := if k = 6 || k = 9 then 4 else if k = 8 then 2 else 1

/-- The lanes a MAC with a link would take: none when they break R507 or its width does not suit its mode (R121). -/
def macLanes (v : Nat) : Option (List Nat) :=
  let n := 2 ^ bits v 20 19
  let b := bits v 18 15
  if b % n ≠ 0 || 16 < b + n || modeLanes (bits v 24 21) ≠ n then none else some ((List.range n).map (fun i => b + i))

/-- The rules on lanes (R121), MAC by MAC with the lanes already taken; only MACs with link_en 1 take lanes. -/
def Content.laneRules (c : Content) : List Nat → List Nat → List Bad
  | _, [] => []
  | taken, m :: ms =>
    let k := R.portMacCfg + 4 * m
    let v := c.get k
    if bits v 20 19 = 3 || 9 < bits v 24 21 then c.laneRules taken ms
    else match macLanes v with
      | none => bad k 3 :: c.laneRules taken ms
      | some l => if !bitOf v 25 then c.laneRules taken ms else (if l.any taken.contains then [bad k 3] else []) ++ c.laneRules (taken ++ l) ms

/-- The rules on bay records (R67), with the (MAC, tag) pairs already met. -/
def Content.bayRules (c : Content) : List (Nat × Nat) → List Nat → List Bad
  | _, [] => []
  | seen, k :: ks =>
    let v := c.get k
    let mac := bits v 6 0
    let tag := bits v 19 8
    if !bitOf v 7 || 64 < mac then c.bayRules seen ks
    else
      let mode := mac < 64 && c.fld (R.portMacCfg + 4 * mac) 1 0 = 0 && tag ≠ 0
      (if mode || seen.contains (mac, tag) then [bad k 3] else []) ++ c.bayRules ((mac, tag) :: seen) ks

/-- The rules of PORT. -/
def Content.portRules (c : Content) : List Bad :=
  c.laneRules [] (List.range 64)
    ++ c.bayRules [] ((c.keys R.portBay0 (R.portBay0 + 8 * 4096)).filter (fun k => k % 8 = 0))

/-- The rules of R73 between words of a passage: adv_mode 0, and edges. -/
def Content.parsRules (c : Content) : List Bad :=
  let ns := ((c.keys R.parsPW0 (R.parsPW0 + 256 * 1024)).map (fun k => (k - R.parsPW0) / 256)).eraseDups
  ns.flatMap (fun n =>
    let p := R.parsPW0 + 256 * n
    let w0 := c.get p
    let adv := if !bitOf w0 16 && bits (c.get (p + 4)) 19 0 ≠ 0 then [bad p 2] else []
    adv ++ (List.range 16).flatMap (fun e =>
      let v := c.get (p + 12 + 8 * e)
      let mask := bits v 31 16
      if bitOf (c.get (p + 16 + 8 * e)) 12 && ((bits v 15 0 ||| mask) ≠ mask || 2 ^ bits w0 15 11 ≤ mask)
      then [bad (p + 12 + 8 * e) 2] else []))

/-! ## Classifier rows (R80, R82, R293) -/

/-- A wide field of a row of the content. -/
def Content.rowWide (c : Content) (r w n : Nat) : Nat :=
  ((List.range n).map (fun i => c.get (rowKey r (w + i)) * 2 ^ (32 * i))).foldl (· + ·) 0

/-- A row's failure: `detail` at row `r`. -/
def badRow (r detail : Nat) : Bad := ⟨6, 0x08000000 + r, detail, 2 ^ 6⟩

/-- Reserved bits of an action (R81). -/
def actionReserved (a : Nat) : Bool :=
  4 < bits a 3 0 || bitOf a 7 || bitOf a 11 || bits a 31 20 ≠ 0 || bits a 63 60 ≠ 0

/-- A valid row breaks R80 or R82, or names an undefined task. -/
def Content.rowBad (c : Content) (r : Nat) : List Bad :=
  if !bitOf (c.get (rowKey r 44)) 0 then []
  else
    let v := c.rowWide r 0 20
    let m := c.rowWide r 20 20
    let a := c.rowWide r 40 4
    if (v ||| m) ≠ m || actionReserved a then [badRow r 2]
    else if (bits a 3 0 = 4 && !bitOf a 4) || (bitOf a 6 && !bitOf a 5) || (bits a 3 0 = 2 && c.taskMask (bits a 79 64) = 0)
    then [badRow r 3] else []

/-- The rows of the content. -/
def Content.clasRules (c : Content) : List Bad :=
  (((c.keys 0x10000000 (0x10000000 + 64 * 32768)).map (fun k => (k - 0x10000000) / 64)).eraseDups).flatMap c.rowBad

/-! ## FWDT, LARD, SESS and CIPH -/

/-- A bridge domain with more than 64 flooding bays (R159), by the count of each domain so far. -/
def Content.floodRules (c : Content) : Map Nat → List Nat → List Bad
  | _, [] => []
  | n, k :: ks =>
    let v := c.get k
    if !bitOf v 14 then c.floodRules n ks
    else
      let bd := bits v 11 0
      (if 64 ≤ spGet 0 n bd then [bad k 3] else []) ++ c.floodRules (spSet 0 n bd (spGet 0 n bd + 1)) ks

/-- The rules between pool fields (R99), with the sum of the lower-numbered pools. -/
def Content.poolRules (c : Content) : Nat → List Nat → List Bad
  | _, [] => []
  | sum, p :: ps =>
    let k := R.lardPoolCfg0 + 8 * p
    let mn := c.fld k 19 0
    let s := sum + mn
    (if c.fld (k + 4) 19 0 < mn then [bad k 3] else if sum ≤ 786432 && 786432 < s then [bad k 3] else [])
      ++ c.poolRules s ps

/-- The rules on listeners: bay and port are used once, an enabled one names a defined task (R293). -/
def Content.lsnRules (c : Content) : List Nat → List Nat → List Bad
  | _, [] => []
  | seen, k :: ks =>
    let v := c.get k
    if !bitOf v 28 then c.lsnRules seen ks
    else
      let id := bits v 27 0
      (if seen.contains id then [bad k 3] else []) ++ (if c.taskMask (c.fld (k + 4) 15 0) = 0 then [bad (k + 4) 3] else [])
        ++ c.lsnRules (id :: seen) ks

/-- The fields of an SA that R126 compares: MAC, direction, channel and association number, and its SCI. -/
def Content.saKey (c : Content) (k : Nat) : Nat × Nat := (c.fld k 10 0, c.get (k + 4) + 2 ^ 32 * c.get (k + 8))

/-- The rules on valid SAs (R126), with those already met. -/
def Content.saRules (c : Content) : List (Nat × Nat) → List Nat → List Bad
  | _, [] => []
  | seen, k :: ks =>
    let x := c.saKey k
    let tx := bitOf x.1 6
    let sc := bits x.1 8 7
    let clash := seen.any (fun y => y.1 = x.1 || (!tx && y.1 % 512 = x.1 % 512 && y.2 ≠ x.2))
    (if (tx && sc ≠ 0) || clash then [bad k 3] else []) ++ c.saRules (x :: seen) ks

/-- The rules of CIPH. -/
def Content.ciphRules (c : Content) : List Bad :=
  let sas := (c.keys R.ciphSaCtl (R.ciphSaCtl + 0x80 * 1024)).filter (fun k => k % 0x80 = 0 && bitOf (c.get k) 11)
  let macs := (c.keys R.ciphMsecMac0 (R.ciphMsecMac0 + 512)).filter (fun k => k % 8 = 0 && bitOf (c.get k) 0)
  c.saRules [] sas ++ macs.flatMap (fun k =>
    let an := c.fld k 8 7
    let mac := (k - R.ciphMsecMac0) / 8
    if sas.any (fun s => bits (c.get s) 6 0 = mac + 64 && c.fld s 10 9 = an) then [] else [bad k 3])

/-! ## FMTE (R337, R339, R340) -/

/-- The word of definition `n`. -/
def Content.dict (c : Content) (n w : Nat) : Nat := c.get (R.fmteDict + 16 * n + 4 * w)

/-- The kind of a definition. -/
def Content.dictKind (c : Content) (n : Nat) : Nat := bits (c.dict n 0) 2 0

/-- The defined definitions. -/
def Content.defs (c : Content) : List Nat :=
  ((c.keys R.fmteDict (R.fmteDict + 16 * 4096)).filter (fun k => k % 16 = 0 && bits (c.get k) 2 0 ≠ 0)).map
    (fun k => (k - R.fmteDict) / 16)

/-- The valid programs. -/
def Content.progs (c : Content) : List Nat :=
  ((c.keys R.fmteProg (R.fmteProg + 16 * 256)).filter (fun k => k % 16 = 0 && bitOf (c.get k) 31)).map
    (fun k => (k - R.fmteProg) / 16)

/-- The roots that the valid programs name, with whether the root is the destination of a text syntax. -/
def Content.roots (c : Content) : List (Nat × Bool) :=
  c.progs.flatMap (fun p =>
    let k := R.fmteProg + 16 * p
    [(c.fld (k + 4) 11 0, false), (c.fld (k + 4) 23 12, 3 ≤ c.fld k 5 3)])

/-- The roots at and above a definition, as far as a chain of parents may reach (R337). -/
def Content.rootsOf (c : Content) (roots : List Nat) : Nat → Nat → List Nat
  | 0, _ => []
  | f + 1, n =>
    let above := c.rootsOf roots f (bits (c.dict n 2) 19 8)
    if roots.contains n then n :: above else above

/-- The name of a definition: its length byte and letters. -/
def Content.defName (c : Content) (n : Nat) : List Nat :=
  let b (i : Nat) : Nat := bits (c.get (R.fmteName + 64 * n + i / 4 * 4)) (i % 4 * 8 + 7) (i % 4 * 8)
  (List.range (Nat.min (b 0) 63 + 1)).map b

/-- Two siblings carry the same bit number, name or tag (R337); a de of 0 is no bit number, but of a BITMAP. -/
def Content.sibling (c : Content) (a b : Nat) : Bool :=
  let de (n : Nat) : Nat := bits (c.dict n 2) 7 0
  (de a = de b && (de a ≠ 0 || (c.dictKind a = 2 && c.dictKind b = 2))) || c.defName a = c.defName b
    || bits (c.dict a 3) 13 0 = bits (c.dict b 3) 13 0

/-- The checks of one definition, among the definitions of lower number. -/
def Content.defBad (c : Content) (roots : List (Nat × Bool)) (before : List Nat) (n : Nat) : List Bad :=
  let k := R.fmteDict + 16 * n
  let w := c.dict n 0
  let kind := bits w 2 0
  let de := bits (c.dict n 2) 7 0
  let mn := bits (c.dict n 1) 15 0
  let mx := bits (c.dict n 1) 31 16
  let p := bits (c.dict n 2) 19 8
  let rs := roots.map Prod.fst
  let above := c.rootsOf rs 17 n
  let text := above.any (fun r => roots.contains (r, true))
  let len := bits (c.get (R.fmteName + 64 * n)) 7 0
  (if (kind = 1 || kind = 3) && (de = 1 || 192 < de) then [bad (k + 8) 2] else [])
    ++ (if kind = 2 && !(de = 0 || de = 1 || de = 65) then [bad (k + 8) 2] else [])
    ++ (if len = 0 || 63 < len then [bad (R.fmteName + 64 * n) 2] else [])
    ++ (if (bits w 11 9 = 0 && mn ≠ mx) || mx < mn then [bad k 3] else [])
    ++ (if (bits w 5 3 = 2 && !(bits w 8 6 = 0 || bits w 8 6 = 4)) || (bits w 5 3 = 4 && !text) then [bad k 3] else [])
    ++ (if !rs.contains n && ((c.dictKind p ≠ 3 && c.dictKind p ≠ 1) || above = []) then [bad (k + 8) 3]
        else if n ≠ p && (c.dictKind p = 3 || c.dictKind p = 1)
            && before.any (fun b => bits (c.dict b 2) 19 8 = p && b ≠ p && c.sibling b n) then [bad k 3]
        else [])

/-- The checks of every definition, in order. -/
def Content.defsBad (c : Content) (roots : List (Nat × Bool)) : List Nat → List Nat → List Bad
  | _, [] => []
  | before, n :: ns => c.defBad roots before n ++ c.defsBad roots (before ++ [n]) ns

/-- The checks of a valid program (R339): its count, its steps' places, its last step END. -/
def Content.progBad (c : Content) (p : Nat) : List Bad :=
  let k := R.fmteProg + 16 * p
  let first := c.fld (k + 8) 13 0
  let count := c.fld (k + 8) 26 16
  if count = 0 || 1024 < count then [bad (k + 8) 2]
  else if 16384 < first + count || bits (c.get (R.fmteStep + 8 * (first + count - 1))) 7 0 ≠ 0 then [bad (k + 8) 3]
  else []

/-- The EBCDIC table of the content. -/
def Content.ebcdic (c : Content) : List Nat :=
  (List.range 256).map (fun i => bits (c.get (R.fmteEbcdic + i / 4 * 4)) (i % 4 * 8 + 7) (i % 4 * 8))

/-- The rules of FMTE. -/
def Content.fmteRules (c : Content) : List Bad :=
  let e := c.ebcdic
  c.defsBad c.roots [] c.defs ++ c.progs.flatMap c.progBad
    ++ (if (List.range 256).all e.contains then [] else [bad R.fmteEbcdic 3])
    ++ (c.keys R.fmteStep (R.fmteStep + 8 * 16384)).flatMap (fun k =>
      if k % 8 = 0 && bits (c.get k) 7 0 = 3 && 6 < c.fld (k + 4) 3 0 then [bad k 2] else [])

/-! ## ARBS, and rules between groups -/

/-- A quota above its window (R417). -/
def Content.arbsRules (c : Content) : List Bad :=
  (List.range 33).flatMap (fun a =>
    let w := c.fld (R.arbsWin + 4 * a) 15 0 + 1
    if (List.range 32).any (fun r => w < c.get (R.arbsQuota + 128 * a + 4 * r)) then [bad (R.arbsWin + 4 * a) 3] else [])

/-- Channel `n` of gallery `g` is enabled, with thread 0 of logical core 0 as its receiver where that is asked. -/
def Content.chanOk (c : Content) (g n : Nat) (keeper : Bool) : Bool :=
  let v := c.get (R.gallChan + 0x40000 * g + 4 * n)
  bitOf v 0 && (!keeper || bits v 6 1 = 0)

/-- The rules between DISP, HOST, ROPE and GALL: the keepers' channels (R299), the mailboxes' (R453, R466), and the
tables of R291 and R456. -/
def Content.chanRules (c : Content) : List Bad :=
  let key (g n : Nat) : Nat := R.gallChan + 0x40000 * g + 4 * n
  let kc := c.fld R.dispCfg 11 4
  let dn := c.fld R.hostCfg 7 0
  let up := c.fld R.hostCfg 15 8
  let tx := c.fld R.ropeCfg 12 5
  let rx := c.fld R.ropeCfg 20 13
  (List.range 16).flatMap (fun g => if c.chanOk g kc true then [] else c.rule [R.dispCfg, key g kc])
    ++ (if c.chanOk 0 dn true then [] else c.rule [R.hostCfg, key 0 dn])
    ++ (if bitOf (c.get R.hostCfg) 16 then
          (if up = dn then c.rule [R.hostCfg] else []) ++ (if c.chanOk 0 up false then [] else c.rule [R.hostCfg, key 0 up])
        else [])
    ++ (if c.chanOk 0 rx true then [] else c.rule [R.ropeCfg, key 0 rx])
    ++ (if bitOf (c.get R.ropeCfg) 21 then
          (if tx = rx then c.rule [R.ropeCfg] else []) ++ (if c.chanOk 0 tx false then [] else c.rule [R.ropeCfg, key 0 tx])
        else [])
    ++ (if c.recordTable (c.fld R.dispCfg 19 12) then [] else c.rule [R.dispCfg])
    ++ (if c.recordTable (c.fld R.hostCfg 24 17) then [] else c.rule [R.hostCfg])

/-- Every failure of a content. -/
def Content.failures (c : Content) : List Bad :=
  let g (n : Nat) (l : Content → List Bad) : List Bad := if c.named n then l c else []
  c.words1 ++ g 3 Content.portRules ++ g 5 Content.parsRules ++ g 6 Content.clasRules
    ++ g 7 (fun c => c.floodRules [] (c.keys R.fwdtBay (R.fwdtBay + 4 * 4096)))
    ++ g 9 (fun c => c.poolRules 0 (List.range 32))
    ++ g 10 (fun c => c.lsnRules [] ((c.keys R.sessLsn0 (R.sessLsn0 + 2048)).filter (fun k => k % 8 = 0)))
    ++ g 11 Content.ciphRules ++ g 16 Content.fmteRules ++ g 19 Content.arbsRules ++ c.chanRules

/-- The first of the failures that fail a group of `mask`, in group-bit order and then in address order (R49). -/
def firstBad (l : List Bad) (mask : Nat) : Option Bad :=
  (l.filter (fun b => b.groups &&& mask ≠ 0)).foldl (fun a b =>
    match a with
    | none => some b
    | some x => if b.grp < x.grp || (b.grp = x.grp && b.place < x.place) then some b else a) none

end Sys2Proof.Machine
end

