-- ==== Sys2Proof/Machine/Commit.lean ====
section
/-! DEFINITION. Commit slots, flips and banks (R35 to R53). -/

namespace Sys2Proof.Machine

/-! ## Writes to the slot registers (R45, R46, R56) -/

/-- Offset of register `reg` of slot `s`: 0 MASK, 1 TGTL, 2 TGTH, 3 CTL. -/
def csOff (s reg : Nat) : Nat := R.dripCsMask + 0x20 * s + 4 * reg

/-- The slot with one of its three registers written. -/
def Slot.put (v : Slot) (reg val : Nat) : Slot :=
  match reg with
  | 0 => { v with mask := val }
  | 1 => { v with target := v.target / 2 ^ 32 * 2 ^ 32 + val }
  | _ => { v with target := v.target % 2 ^ 32 + bits val 23 0 * 2 ^ 32, waitLimit := bits val 27 24 }

/-- A write to the mask or target registers of a slot. -/
def Dev.slotWrite (d : Dev) (m s reg val : Nat) : Dev :=
  if 15 < s || 2 < reg then d
  else d.ownDoorbell m 1 (csOff s reg) (if reg = 2 then 28 else 32) (val % 2 ^ 32) (fun d =>
    let v := d.slot s
    let val := val % 2 ^ 32
    match v.state with
    | .free => d.setSlot s { Slot.init.put reg val with state := .opened, holder := m }
    | .opened => if v.holder = m then d.setSlot s (v.put reg val) else d.refuse m (csOff s reg) Code.notHolder
    | _ => d.refuse m (csOff s reg) (if v.holder = m then Code.reserved else Code.notHolder))

/-- A write to the control register of a slot: bit 0 arm, bit 1 release. -/
def Dev.slotCtrl (d : Dev) (m s val : Nat) : Dev :=
  if 15 < s then d
  else d.ownDoorbell m 1 (csOff s 3) 2 val (fun d =>
    let v := d.slot s
    if v.state = .free || v.holder ≠ m then d.refuse m (csOff s 3) Code.notHolder
    else if val = 0 then d
    else if val = 1 && v.state = .opened then d.setSlot s { v with state := .armed, armDrip := d.drip.now }
    else if val = 2 && (v.state = .opened || v.state = .done) then d.setSlot s Slot.init
    else d.refuse m (csOff s 3) Code.reserved)

/-- COMMIT_SLOT_CLAIM (R45). -/
def execCommitSlotClaim (m slot reg val : Nat) (s : State) : Host.Outcome State Fault Refusal :=
  s.run (fun d => d.slotWrite m slot reg val)

/-- ARM (R46). -/
def execCommitArm (m slot : Nat) (s : State) : Host.Outcome State Fault Refusal := s.run (fun d => d.slotCtrl m slot 1)

/-- COMMIT_SLOT_RELEASE (R46). -/
def execCommitSlotRelease (m slot : Nat) (s : State) : Host.Outcome State Fault Refusal :=
  s.run (fun d => d.slotCtrl m slot 2)

/-! ## The end of a commit -/

/-- The groups a mask names. -/
def groupsOf (mask : Nat) : List Nat := groupBits.filter (fun g => bitOf mask g)

/-- A commit ends in DONE: its groups are unsealed, writes held back reach the STAGED banks (R42, R50), and its holder is
told (R53). A slot whose host was reset is then released (R450). -/
def Dev.slotDone (d : Dev) (s code detail gen loc : Nat) : Dev :=
  let v := d.slot s
  let d := d.setSlot s { v with state := .done, code := code, detail := detail, gen := gen, loc := loc % 2 ^ 28 }
  let d := (groupsOf v.mask).foldl Dev.drainGroup d
  let d := d.slotPost s
  if v.hostReset then d.setSlot s Slot.init else d

/-- The owner check of an arm: the holder is in the owner set of every block the mask names (R47). -/
def Dev.armOwner (d : Dev) (v : Slot) : Bool := (groupsOf v.mask).all (fun g => d.owns v.holder g)

/-- The first failed check of an arm, with its detail (R47, R442). -/
def Dev.armFailure (d : Dev) (v : Slot) : Option (Nat × Nat) :=
  if d.mode = Mode.limp && v.mask ≠ 0 then some (Code.reserved, 6)
  else if !d.armOwner v then some (Code.notOwner, 0)
  else if v.mask &&& reservedMask ≠ 0 then some (Code.reserved, 5)
  else if v.target < v.armDrip + 2 || v.armDrip + 2 ^ 32 < v.target then some (Code.reserved, 4)
  else none

/-- The arm checks of a boundary: of every slot armed in the drip before. -/
def Dev.armChecks (d : Dev) : Dev :=
  (List.range 16).foldl (fun d s =>
    let v := d.slot s
    if v.state = .armed && v.armDrip + 1 = d.drip.now then
      match d.armFailure v with
      | some (c, det) => d.slotDone s c det 0 0
      | none => d
    else d) d

/-- Limp mode ends every commit with a non-zero mask (R442). -/
def Dev.limpCommits (d : Dev) : Dev :=
  (List.range 16).foldl (fun d s =>
    let v := d.slot s
    if (v.state = .armed || v.state = .sealed || v.state = .waiting) && v.mask ≠ 0 then d.slotDone s Code.reserved 6 0 0
    else d) d

/-! ## The seal (R48, R49) -/

/-- COMMIT_SEAL: at the boundary that begins T − 1, of a slot whose arm check (R47) a boundary has made. -/
def execCommitSeal (slot : Nat) (s : State) : Host.Outcome State Fault Refusal :=
  s.run (fun d =>
    let v := d.slot slot
    if d.serving && slot < 16 && v.state = .armed && v.armDrip < d.drip.now && v.target = d.drip.now + 1 then
      d.setSlot slot { v with state := .sealed, sealDrip := d.drip.now }
    else d)

/-! ## Flips (R37 to R40, R50 to R52) -/

/-- A Handover holds every group, from its seal until the old generation has drained (R440). -/
def Dev.hoHolds (d : Dev) : Bool := d.drip.hoSeal.isSome || d.ioFld R.loadHoStat 2 0 = 5

/-- Group `g` has a STAGED bank that a commit can flip (R37, R440). -/
def Dev.hasStaged (d : Dev) (g : Nat) : Bool := (d.group g).other = .staged && !d.hoHolds

/-- Every group of a mask has a STAGED bank. -/
def Dev.allStaged (d : Dev) (mask : Nat) : Bool := (groupsOf mask).all d.hasStaged

/-- A waiting commit stands at the boundary after its last named group became STAGED (R51). -/
def Dev.waitReady (d : Dev) (v : Slot) : Bool :=
  v.state = .waiting && d.allStaged v.mask && match v.readyDrip with | some x => x < d.drip.now | none => false

/-- The commits whose turn this boundary is: SEALED with target T now, or ready after a wait. -/
def Dev.turnNow (d : Dev) : List Nat :=
  (List.range 16).filter (fun s =>
    let v := d.slot s
    (v.state = .sealed && v.target = d.drip.now) || d.waitReady v)

/-- The union of the masks of slots. -/
def Dev.unionMask (d : Dev) (l : List Nat) : Nat := l.foldl (fun m s => m ||| (d.slot s).mask) 0

/-- The latest seal of group `g` among slots: the content of a set of commits reaches to it (R49, R52). -/
def Dev.lastSeal (d : Dev) (l : List Nat) (g : Nat) : Option Nat :=
  some ((l.filter (fun s => bitOf (d.slot s).mask g)).foldl (fun x s => Nat.max x (d.slot s).sealDrip) 0)

/-- The failures of the content of commits that flip together (R49, R52). -/
def Dev.failuresOf (d : Dev) (l : List Nat) : List Bad := (d.content (d.unionMask l) (d.lastSeal l)).failures

/-- Validate commits that flip together: each that names a failing group ends with the first failure of its groups; the
others are validated again without it. The commits that remain (R49, R52). -/
def Dev.validate : Nat → Dev → List Nat → List Nat × Dev
  | 0, d, l => (l, d)
  | n + 1, d, l =>
    let bad := d.failuresOf l
    let hit := l.filter (fun s => (firstBad bad (d.slot s).mask).isSome)
    if hit.isEmpty then (l, d)
    else
      let e := hit.foldl (fun e s => match firstBad bad (d.slot s).mask with
        | some b => e.slotDone s Code.reserved b.detail 0 b.place
        | none => e) d
      Dev.validate n e (l.filter (fun s => !hit.contains s))

/-- A flip would keep the generations in flight to 16 (R40). -/
def Dev.flipAllowed (d : Dev) : Bool := d.gensInFlight.length < 16

/-- One group flips: its STAGED bank becomes LIVE with generation `gen`, and its LIVE bank TRAILING (R37). -/
def Dev.flipGroup (d : Dev) (gen g : Nat) : Dev :=
  let G := d.group g
  d.setGroup g { G with liveB := !G.liveB, other := .trailing, genOther := G.genLive, genLive := gen }

/-- Queued writes of a group applied at or before `lim` go into its STAGED bank (R49). -/
def Dev.drainTo (d : Dev) (g : Nat) (lim : Option Nat) : Dev :=
  let G := d.group g
  let mine (q : QueuedWrite) : Bool := q.group = g && withinSeal lim q.applied
  let d := (d.drip.queue.filter mine).foldl (fun d q => d.writeBank (!G.liveB) q.target.keys q.words) d
  d.onDrip (fun p => { p with queue := p.queue.filter (fun q => !mine q) })

/-! ### What a flip makes happen -/

/-- A waiting CHSEND or CHRECV that the new configuration no longer permits completes with NOT_OWNER (R190). -/
def Dev.chanFlip (d : Dev) : Dev :=
  d.cores.threads.foldl (fun d e =>
    let id := tidOfKey e.1
    let t := d.thr id
    if t.state ≠ .waiting then d
    else match t.wait.kind with
      | .chsend => if d.maySend id t.wait.what then d
        else ((d.leaveSenders id).setCode id Code.notOwner false).endWait id
      | .chrecv => if d.chanRx id.g t.wait.what = some id then d
        else (d.setCode id Code.notOwner false).endWait id
      | _ => d) d

/-- A flip of the GALL group sends CODE to every keeper (R193). -/
def Dev.codeEvents (d : Dev) : Dev := (List.range 16).foldl (fun d g => d.keeperEvent g Ev.code) d

/-- A flip of the CLAS group caps the policer buckets (R88). -/
def Dev.capBuckets (d : Dev) : Dev :=
  d.onIngr (fun i => { i with bucket := i.bucket.filterMap (fun e =>
    let v := Nat.min e.2 (d.bucketCap e.1)
    if v = 0 then none else some (e.1, v)) })

/-- A flip of the PORT group binds and unbinds lanes: a MAC whose binding changes loses its link, its old lanes are DOWN and
its new ones begin to train (R121). -/
def Dev.bindLanes (d old : Dev) : Dev :=
  let ms := (List.range 64).filter (fun m =>
    d.liveFld (R.portMacCfg + 4 * m) 25 15 ≠ old.liveFld (R.portMacCfg + 4 * m) 25 15)
  let d := ms.foldl (fun d m => (old.macLanes m).foldl (fun d l => d.laneRestart 0 l) (d.macLinkDown m)) d
  ms.foldl (fun d m => (d.macLanes m).foldl (fun d l => d.laneRestart 1 l) d) d

/-- A flip of the LANE group: a transmitter set to one polarity takes it (R478). -/
def Dev.lanePolarity (d : Dev) : Dev :=
  (List.range 20).foldl (fun d l => match d.liveFld (R.laneCfg + 4 * l) 1 0 with
    | 1 => d.setLane l 5 5 0
    | 2 => d.setLane l 5 5 1
    | _ => d) d

/-- The words of a secure association that make it another one when they change: all but its warning threshold. -/
def saWords (i : Nat) : List Nat :=
  ((List.range 18).filter (fun w => w ≠ 3)).map (fun w => R.ciphSaCtl + 0x80 * i + 4 * w)

/-- A flip of the CIPH group starts each secure association it changes at its init_pn (R126). -/
def Dev.startSas (d old : Dev) : Dev :=
  let touched := ((d.csr.bankA ++ d.csr.bankB).map Prod.fst).filter (fun k => R.ciphSaCtl ≤ k && k < R.ciphSaCtl + 0x80 * 1024)
  let sas := (touched.map (fun k => (k - R.ciphSaCtl) / 0x80)).eraseDups
  sas.foldl (fun d i =>
    if (saWords i).all (fun k => d.live k = old.live k) then d
    else
      let o := R.ciphSaCtl + 0x80 * i
      (d.setIo (o + 0x48) (d.live (o + 0x40))).setIo (o + 0x4C) (d.live (o + 0x44))) d

/-- The Latch groups whose policy is HOLDER_OR_KEEPER. -/
def Dev.strictGroups (d : Dev) : List Nat := (List.range 64).filter (fun g => d.latchStrict (64 * g))

/-- What the flip of the groups of a mask makes happen; `old` is the device before it. -/
def Dev.afterFlip (d old : Dev) (mask : Nat) : Dev :=
  let on (g : Nat) (f : Dev → Dev) (d : Dev) : Dev := if bitOf mask g then f d else d
  let d := on 3 (fun d => d.bindLanes old) d
  let d := on 4 Dev.lanePolarity d
  let d := on 6 Dev.capBuckets d
  let d := on 11 (fun d => d.startSas old) d
  let d := on 13 (fun d => d.latchFlip old.strictGroups) d
  let d := if bitOf mask 14 || bitOf mask 21 || bitOf mask 22 then d.chanFlip else d
  let d := if bitOf mask 14 || bitOf mask 22 then d.ropeCommit 0 (d.liveFld R.ropeCfg 20 13) else d
  let d := on 14 Dev.codeEvents d
  let d := on 15 Dev.formSets d
  on 22 (fun d => d.ropeFlip old) d

/-- Commits that passed flip their groups together with the next generation (R37, R38, R52). -/
def Dev.flipAll (d : Dev) (l : List Nat) : Dev :=
  let mask := d.unionMask l
  let gen := nextGen d.drip.gen
  let e := (groupsOf mask).foldl (fun e g => e.drainTo g (d.lastSeal l g)) d
  let e := (groupsOf mask).foldl (fun e g => e.flipGroup gen g) e
  let e := (e.onDrip (fun p => { p with gen := gen })).afterFlip d mask
  l.foldl (fun e s => e.slotDone s Code.ok 0 gen 0) e

/-- A SEALED commit that cannot flip enters WAITING (R50). -/
def Dev.slotWait (d : Dev) (s : Nat) : Dev :=
  let v := d.slot s
  if v.state = .sealed then
    (d.setSlot s { v with
      state := .waiting, code := Code.commitWait,
      readyDrip := if d.allStaged v.mask then some d.drip.now else none }).slotPost s
  else d

/-- The commits whose turn this boundary is are validated, and flip, fail or wait (R50 to R52); an empty mask completes
with OK and flips nothing (R48). -/
def Dev.commitTurn (d : Dev) : Dev :=
  let turn := d.turnNow
  let bare := turn.filter (fun s => (d.slot s).mask = 0)
  let d := bare.foldl (fun d s => d.slotDone s Code.ok 0 0 0) d
  let named := turn.filter (fun s => !bare.contains s)
  let ready := named.filter (fun s => d.allStaged (d.slot s).mask)
  let late := named.filter (fun s => !d.allStaged (d.slot s).mask)
  let (ready, d) := Dev.validate 16 d ready
  let d := late.foldl (fun d s => (Dev.validate 1 d [s]).2) d
  let d := if !ready.isEmpty && d.flipAllowed then d.flipAll ready else d
  named.foldl Dev.slotWait d

/-- COMMIT_FLIP (R50): at the boundary that begins T. -/
def execCommitFlip (slot : Nat) (s : State) : Host.Outcome State Fault Refusal :=
  s.run (fun d =>
    if d.serving && (d.slot slot).state = .sealed && d.turnNow.contains slot then d.commitTurn else d)

/-- COMMIT_WAIT_FLIP (R51). -/
def execCommitWaitFlip (slot : Nat) (s : State) : Host.Outcome State Fault Refusal :=
  s.run (fun d =>
    if d.serving && (d.slot slot).state = .waiting && d.turnNow.contains slot then d.commitTurn else d)

/-- COMMIT_WAIT_TIMEOUT (R51): not flipped by the boundary that begins T plus the wait limit. -/
def execCommitWaitTimeout (slot : Nat) (s : State) : Host.Outcome State Fault Refusal :=
  s.run (fun d =>
    let v := d.slot slot
    if d.serving && v.state = .waiting && v.target + 256 * 2 ^ v.waitLimit ≤ d.drip.now
        && !(d.waitReady v && d.flipAllowed) then
      d.slotDone slot Code.timeout 0 0 0
    else d)

/-- The groups of a mask without a STAGED bank. -/
def Dev.missingBanks (d : Dev) (mask : Nat) : Nat :=
  (groupsOf mask).foldl (fun n g => if d.hasStaged g then n else n + 2 ^ g) 0

/-- A waiting commit's record is due: T plus a multiple of 4,096 drips, at a boundary that neither flips it nor ends its wait,
once (R51). -/
def Dev.reportDue (d : Dev) (v : Slot) : Bool :=
  d.serving && v.state = .waiting && v.target < d.drip.now && (d.drip.now - v.target) % 4096 = 0
    && d.drip.now < v.target + 256 * 2 ^ v.waitLimit && !(d.waitReady v && d.flipAllowed) && v.reportDrip ≠ some d.drip.now

/-- The record of a commit slot that waits (R51). -/
def Dev.slotReport (d : Dev) (slot : Nat) : Dev :=
  let v := d.slot slot
  if d.reportDue v then
    (d.setSlot slot { v with reportDrip := some d.drip.now }).incident 1 Code.commitWait (actorMaster v.holder) slot
      (d.missingBanks v.mask)
  else d

/-! ## Banks (R37, R176) -/

/-- No packet in flight, and for GALL no thread, uses a generation before the LIVE one (R37, R176). -/
def Dev.drained (d : Dev) (g : Nat) : Bool :=
  let live := (d.group g).genLive
  d.gensInFlight.all (fun n => !serialBefore n live)
    && (g ≠ 14 || d.cores.threads.all (fun e =>
      !((e.2.state = .ready || e.2.state = .waiting || e.2.state = .halted) && serialBefore e.2.codeGen live)))

/-- BANK_CATCHUP (R37). -/
def execBankCatchup (group : Nat) (s : State) : Host.Outcome State Fault Refusal :=
  s.run (fun d =>
    let G := d.group group
    if d.serving && groupBits.contains group && G.other = .trailing && d.drained group then
      d.setGroup group { G with other := .catchup, catchupDrip := d.drip.now }
    else d)

/-- Drips a copy of `n` lines takes (R37). -/
def copyDrips (n : Nat) : Nat := Nat.max 1 ((n + 16383) / 16384)

/-- Copies of a register. -/
def RegDef.copies (r : RegDef) : Nat := r.dims.foldl (fun n x => n * x.2) 1

/-- The 64-byte lines of a bank of a group: its ST registers, the classifier rows (180 bytes each), the loader's tables of
GALL (R175, R293, R523). -/
def bankLines (g : Nat) : Nat :=
  ((regTable.filter (fun r => groupOf r.base = some g && r.fields.any (fun f => f.acc == .st))).map
    (fun r => (4 * r.copies + 63) / 64)).foldl (· + ·) 0
    + (if g = 6 then 32768 * 180 / 64 else if g = 14 then (0x240000 + 0x80000) / 64 else 0)

/-- The lines of a group that were written since its last flip: a classifier row is three of them. -/
def Group.lines (G : Group) (g : Nat) : Nat :=
  if G.whole then bankLines g
  else (G.dirty.map (fun e => if 0x10000000 ≤ 64 * e.1 then 3 else 1)).foldl (· + ·) 0

/-- Of the passages copied, those lost in the LIVE bank are lost in the other one, and no more (R469). -/
def Dev.copyLost (d : Dev) (copied : Nat → Bool) : Dev :=
  let live := (d.group 5).liveB
  d.onCsr (fun c => { c with lostPass := (List.range 1024).foldl (fun m n =>
    if copied n then spSet false m (lostKey n (!live)) (spGet false m (lostKey n live)) else m) c.lostPass })

/-- The written lines of a group are copied from its LIVE bank into its other one. -/
def Dev.copyLines (d : Dev) (g : Nat) : Dev :=
  let G := d.group g
  let mine (k : Nat) : Bool := groupOfKey k = g && (G.whole || spGet false G.dirty (k / 64))
  let keys := ((d.csr.bankA ++ d.csr.bankB).map Prod.fst).filter mine
  let d := keys.foldl (fun d k => d.setBankWord (!G.liveB) k (d.bankWord G.liveB k)) d
  let d := if g = 5 then d.copyLost (fun n => (List.range 4).any (fun i => mine (R.parsPW0 + 256 * n + 64 * i))) else d
  if g ≠ 14 then d
  else d.onCores (fun c =>
    if G.liveB then { c with tabA := c.tabB, dirA := c.dirB, keeperEntry := c.keeperEntry.set 0 (c.keeperEntry.getD 1 0) }
    else { c with tabB := c.tabA, dirB := c.dirA, keeperEntry := c.keeperEntry.set 1 (c.keeperEntry.getD 0 0) })

/-- Waiting commits whose last named group is `g` note the boundary at which it became STAGED (R51). -/
def Dev.noteReady (d : Dev) (g : Nat) : Dev :=
  (List.range 16).foldl (fun d s =>
    let v := d.slot s
    if v.state = .waiting && bitOf v.mask g && d.allStaged v.mask then d.setSlot s { v with readyDrip := some d.drip.now } else d) d

/-- A bank becomes STAGED: it equals LIVE, takes the queued writes that belong to it, and waiting commits take note. -/
def Dev.bankStaged (d : Dev) (g : Nat) : Dev :=
  let d := d.copyLines g
  let G := d.group g
  ((d.setGroup g { G with other := .staged, genOther := 0, dirty := [], whole := false }).drainGroup g).noteReady g

/-- BANK_STAGED (R37): at the boundary after the copy finishes. -/
def execBankStaged (group : Nat) (s : State) : Host.Outcome State Fault Refusal :=
  s.run (fun d =>
    let G := d.group group
    if d.serving && groupBits.contains group && G.other = .catchup
        && G.catchupDrip + copyDrips (G.lines group) ≤ d.drip.now then d.bankStaged group
    else d)

end Sys2Proof.Machine
end

