-- ==== Sys2Proof/Machine/Format.lean ====
section
/-! DEFINITION. What a format engine computes (R330 to R342, R344): the field dictionary, values and their logical form, the
parsers of the six syntaxes. A logical value is a list of characters, or of bytes for class b. -/

namespace Sys2Proof.Machine

/-- A logical value (R336). -/
abbrev FVal := List Nat

/-- A definition of the field dictionary (R335) with its name. -/
structure FDef where
  kind : Nat
  enc : Nat
  cls : Nat
  ltype : Nat
  lenc : Nat
  pad : Bool
  rjust : Bool
  min : Nat
  max : Nat
  de : Nat
  parent : Nat
  tag : Nat
  name : Bytes
  deriving DecidableEq, Repr

/-- What a command translates with: the definitions in use by id, the EBCDIC table, and the valid currency entries. -/
structure FEnv where
  defs : List (Nat × FDef)
  ebc : Bytes
  cur : List (Nat × Nat)
  deriving DecidableEq, Repr

/-- A failure: reason (R344), definition, how many input bytes were left, and the bitmaps received before it. -/
structure FErr where
  reason : Nat
  id : Nat
  left : Nat
  maps : List Nat
  deriving DecidableEq, Repr

/-- No definition is involved. -/
abbrev noId : Nat := 0xFFFF

/-- A parse failure before the bytes `rest`. -/
def fail {α : Type} (reason id : Nat) (rest : Bytes) : Except FErr α := .error ⟨reason, id, rest.length, []⟩

/-- A definition by its id. -/
def FEnv.get (e : FEnv) (n : Nat) : Option FDef := (e.defs.find? (fun x => x.1 = n)).map Prod.snd

/-- The children of a definition, in rising id. -/
def FEnv.kids (e : FEnv) (p : Nat) : List (Nat × FDef) := e.defs.filter (fun x => x.2.parent = p && x.1 ≠ p)

/-! ## The tables of a generation (R329, R335, R338, R339) -/

/-- The definition whose words begin at `o`. -/
def Dev.fdefAt (d : Dev) (gen n : Nat) : FDef :=
  let o := R.fmteDict + 16 * n
  let w0 := d.at gen o
  let w1 := d.at gen (o + 4)
  let w2 := d.at gen (o + 8)
  let nm := R.fmteName + 64 * n
  let bytes := (List.range 16).flatMap (fun i => leBytes 4 (d.at gen (nm + 4 * i)))
  ⟨bits w0 2 0, bits w0 5 3, bits w0 8 6, bits w0 11 9, bits w0 13 12, bitOf w0 14, bitOf w0 15, bits w1 15 0,
   bits w1 31 16, bits w2 7 0, bits w2 19 8, bits (d.at gen (o + 12)) 13 0, (bytes.drop 1).take (leAt bytes 0 1)⟩

/-- The ids of the definitions in use. -/
def Dev.fdefIds (d : Dev) (gen : Nat) : List Nat :=
  (if d.bankAt 16 gen then d.csr.bankB else d.csr.bankA).filterMap (fun e =>
    let n := (e.1 - R.fmteDict) / 16
    if R.fmteDict ≤ e.1 ∧ n < 4096 ∧ (e.1 - R.fmteDict) % 16 = 0 ∧ fld e.2 2 0 ≠ 0 then some n else none)

/-- The tables of a generation. -/
def Dev.fmtEnv (d : Dev) (gen : Nat) : FEnv :=
  ⟨(d.fdefIds gen).map (fun n => (n, d.fdefAt gen n)),
   (List.range 64).flatMap (fun i => leBytes 4 (d.at gen (R.fmteEbcdic + 4 * i))),
   (List.range 1000).filterMap (fun c =>
     let w := d.at gen (R.fmteCur + 4 * c)
     if bitOf w 31 then some (c, w) else none)⟩

/-- `n` bytes of the constant pool from `o`. -/
def Dev.fmtPool (d : Dev) (gen o n : Nat) : Bytes :=
  (List.range n).map (fun i =>
    let a := (o + i) % 0x4000
    BitVec.ofNat 8 (d.at gen (R.fmteConst + a / 4 * 4) / 2 ^ (8 * (a % 4))))

/-- The constant at `o`: a length byte, then its bytes. -/
def Dev.fmtConst (d : Dev) (gen o : Nat) : Bytes := d.fmtPool gen (o + 1) (leNat (d.fmtPool gen o 1))

/-! ## Characters -/

/-- The UTF-8 bytes of a Unicode scalar. -/
def utf8Char (c : Nat) : Bytes :=
  let b (n : Nat) : Byte := BitVec.ofNat 8 n
  let t (n : Nat) : Byte := BitVec.ofNat 8 (0x80 + n % 64)
  if c < 0x80 then [b c]
  else if c < 0x800 then [b (0xC0 + c / 64), t c]
  else if c < 0x10000 then [b (0xE0 + c / 4096), t (c / 64), t c]
  else [b (0xF0 + c / 262144), t (c / 4096), t (c / 64), t c]

/-- The UTF-8 bytes of a string. -/
def utf8 (v : FVal) : Bytes := v.flatMap utf8Char

/-- A Unicode scalar value. -/
def isScalar (c : Nat) : Bool := c < 0xD800 || (0xE000 ≤ c && c < 0x110000)

/-- A continuation byte's bits. -/
def utf8Tail (b : Byte) : Option Nat := if bits b.toNat 7 6 = 2 then some (b.toNat % 64) else none

/-- The first scalar of a byte string and the rest; none where it is not well-formed UTF-8. -/
def utf8Head : Bytes → Option (Nat × Bytes)
  | [] => none
  | a :: r =>
    let n := a.toNat
    if n < 0x80 then some (n, r)
    else match (if n < 0xC0 then 0 else if n < 0xE0 then 1 else if n < 0xF0 then 2 else if n < 0xF8 then 3 else 0), r with
      | 1, b :: r => match utf8Tail b with
        | some x => let c := n % 32 * 64 + x; if c < 0x80 then none else some (c, r)
        | none => none
      | 2, b :: b' :: r => match utf8Tail b, utf8Tail b' with
        | some x, some y => let c := n % 16 * 4096 + x * 64 + y; if c < 0x800 || !isScalar c then none else some (c, r)
        | _, _ => none
      | 3, b :: b' :: b'' :: r => match utf8Tail b, utf8Tail b', utf8Tail b'' with
        | some x, some y, some z =>
          let c := n % 8 * 262144 + x * 4096 + y * 64 + z; if c < 0x10000 || !isScalar c then none else some (c, r)
        | _, _, _ => none
      | _, _ => none

/-- Decode UTF-8; `n` bounds the characters. -/
def utf8Decode : Nat → Bytes → Option FVal
  | _, [] => some []
  | 0, _ => none
  | n + 1, bs => match utf8Head bs with
    | some (c, r) => (utf8Decode n r).map (fun l => c :: l)
    | none => none

/-- A digit. -/
def isDigit (c : Nat) : Bool := 48 ≤ c && c ≤ 57
/-- An ASCII letter. -/
def isLetter (c : Nat) : Bool := (65 ≤ c && c ≤ 90) || (97 ≤ c && c ≤ 122)

/-- The characters of a class (R335). -/
def clsOk (cls c : Nat) : Bool :=
  match cls with
  | 0 => isDigit c
  | 1 => isDigit c || isLetter c
  | 2 => 0x20 ≤ c && c ≤ 0x7E
  | 3 => c < 256
  | 4 => isDigit c || c = 0x3D || c = 0x44
  | _ => isScalar c

/-- The characters an encoding can carry. -/
def encOk (e : FEnv) (f : FDef) (c : Nat) : Bool :=
  match f.enc with
  | 0 => c < 128 || f.cls = 3
  | 1 => e.ebc.any (fun b => b.toNat = c)
  | 3 => c < 256
  | _ => true

/-- A value's characters and length fit a definition: OK, or the reason. -/
def fitCheck (e : FEnv) (f : FDef) (v : FVal) : Option Nat :=
  if v.length < f.min || f.max < v.length then some 4
  else if v.all (fun c => clsOk f.cls c && encOk e f c) then none
  else some 3

/-! ## Values of ISO 8583 fields (R335, R336) -/

/-- Two packed digits of a byte, as the characters of classes n and z. -/
def nibbleChar (n : Nat) : Option Nat := if n < 10 then some (48 + n) else if n = 13 then some 0x44 else none

/-- All of a list of options, or none. -/
def allSome {α : Type} : List (Option α) → Option (List α)
  | [] => some []
  | x :: xs => match x, allSome xs with | some a, some l => some (a :: l) | _, _ => none

/-- `n` packed digits; the pad nibble of an odd length must be the one pad names. -/
def unpackBcd (pad : Bool) (n : Nat) (bs : Bytes) : Option FVal :=
  let ns := bs.flatMap (fun b => [b.toNat / 16, b.toNat % 16])
  if n % 2 = 0 then allSome (ns.map nibbleChar)
  else if pad then (if ns.getLast? = some 15 then allSome (ns.dropLast.map nibbleChar) else none)
  else (if ns.head? = some 0 then allSome (ns.tail.map nibbleChar) else none)

/-- The characters of `bs` through the EBCDIC table. -/
def FEnv.fromEbcdic (e : FEnv) (bs : Bytes) : FVal := bs.map (fun b => (e.ebc.getD b.toNat 0).toNat)

/-- The bytes `n` units of a field occupy, except UTF-8. -/
def FDef.bytesFor (f : FDef) (n : Nat) : Nat := if f.enc = 2 then (n + 1) / 2 else n

/-- The digits of a length prefix. -/
def digitsOf (v : FVal) : Option Nat :=
  if v.all isDigit then some (v.foldl (fun n c => 10 * n + (c - 48)) 0) else none

/-- The length of a field in its units, and the bytes after the prefix. -/
def isoLen (e : FEnv) (id : Nat) (f : FDef) (bs : Bytes) : Except FErr (Nat × Bytes) :=
  match f.ltype with
  | 0 => .ok (f.min, bs)
  | 5 => match bs with | b :: r => .ok (b.toNat, r) | [] => fail 2 id bs
  | 6 => match bs with | b :: c :: r => .ok (256 * b.toNat + c.toNat, r) | _ => fail 2 id bs
  | k =>
    let n := if f.lenc = 2 then (k + 1) / 2 else k
    if bs.length < n then fail 2 id bs
    else
      let p := bs.take n
      let v : Option FVal := match f.lenc with
        | 2 => unpackBcd false k p
        | 1 => some (e.fromEbcdic p)
        | _ => some (p.map BitVec.toNat)
      match v.bind digitsOf with
      | some l => .ok (l, bs.drop n)
      | none => fail 3 id bs

/-- The raw bytes of a field of `n` units, and the rest. -/
def isoRaw (id : Nat) (f : FDef) (n : Nat) (bs : Bytes) : Except FErr (Bytes × Bytes) :=
  let k := if f.enc = 4 then
      bs.length - ((List.range n).foldl (fun (r : Bytes) _ => match utf8Head r with | some (_, r) => r | none => r) bs).length
    else f.bytesFor n
  if bs.length < k then fail 2 id bs else .ok (bs.take k, bs.drop k)

/-- The logical value of a field's raw bytes. -/
def FEnv.isoDecode (e : FEnv) (f : FDef) (n : Nat) (raw : Bytes) : Option FVal :=
  let v : Option FVal := match f.enc with
    | 1 => if f.cls = 3 then some (raw.map BitVec.toNat) else some (e.fromEbcdic raw)
    | 2 => unpackBcd f.pad n raw
    | 4 => utf8Decode raw.length raw
    | _ => some (raw.map BitVec.toNat)
  v.bind (fun v => if v.length = n ∧ v.all (fun c => clsOk f.cls c && (f.cls = 3 || f.enc ≠ 0 || c < 128)) then some v else none)

/-- Parsed fields: definitions present with their values; a group has none. -/
abbrev FVals := List (Nat × FVal)

/-- An element of an ISO 8583 message, its composite parts with it (R335); `fuel` bounds the depth. -/
def isoElem (e : FEnv) : Nat → Nat → FDef → Bytes → Except FErr (FVals × Bytes)
  | 0, id, _, bs => fail 12 id bs
  | k + 1, id, f, bs =>
    match isoLen e id f bs with
    | .error x => .error x
    | .ok (n, r) =>
      if n < f.min || f.max < n then fail 4 id bs
      else match isoRaw id f n r with
        | .error x => .error x
        | .ok (raw, rest) =>
          let kids := (e.kids id).filter (fun x => x.2.kind = 1 || x.2.kind = 3)
          if f.kind = 3 || kids.any (fun x => x.2.kind = 3) then
            let step (a : Except FErr (FVals × Bytes)) (x : Nat × FDef) : Except FErr (FVals × Bytes) :=
              match a with
              | .error z => .error z
              | .ok (vs, left) => match isoElem e k x.1 x.2 left with
                | .error z => .error { z with left := z.left + rest.length }
                | .ok (ws, left) => .ok (vs ++ ws, left)
            match kids.foldl step (.ok ([(id, (e.isoDecode f n raw).getD [])], raw)) with
            | .error z => .error z
            | .ok (vs, []) => .ok (vs, rest)
            | .ok (_, _ :: _) => fail 14 id rest
          else match e.isoDecode f n raw with
            | some v => .ok ([(id, v)], rest)
            | none => fail 3 id r

/-- The bits set in a bitmap whose first bit is bit `base` + 1 (R331). -/
def bitmapBits (base : Nat) (v : FVal) : List Nat :=
  ((List.range (8 * v.length)).filter (fun i => bitOf (v.getD (i / 8) 0) (7 - i % 8))).map (fun i => base + i + 1)

/-- A child of the root of a kind with a bit number. -/
def FEnv.child (e : FEnv) (root kind de : Nat) : Option (Nat × FDef) :=
  (e.kids root).find? (fun x => x.2.kind = kind && x.2.de = de)

/-- What parsing leaves: the fields, and the bitmaps of an ISO 8583 source as received. -/
structure FParsed where
  vals : FVals
  maps : FVal
  deriving DecidableEq, Repr

/-- A failure after bitmaps were received. -/
def withMaps {α : Type} (m : FVal) (r : Except FErr α) : Except FErr α := r.mapError (fun x => { x with maps := m })

/-- The fields of the bits that remain, in rising order; a further bitmap adds its bits. -/
def isoFields (e : FEnv) (root : Nat) : Nat → List Nat → FParsed → Bytes → Except FErr (FParsed × Bytes)
  | _, [], p, bs => .ok (p, bs)
  | 0, _ :: _, p, bs => withMaps p.maps (fail 12 noId bs)
  | k + 1, b :: todo, p, bs =>
    let bm := if b = 1 then e.child root 2 1 else if b = 65 then e.child root 2 65 else none
    match bm with
    | some (id, f) => match withMaps p.maps (isoElem e 17 id f bs) with
      | .error x => .error x
      | .ok (vs, r) =>
        let m := (vs.map Prod.snd).headD []
        isoFields e root k (todo ++ bitmapBits (if b = 1 then 64 else 128) m)
          { vals := p.vals ++ vs, maps := if b = 1 then p.maps ++ m else p.maps } r
    | none =>
      match (e.kids root).find? (fun x => (x.2.kind = 1 || x.2.kind = 3) && x.2.de = b) with
      | none => withMaps p.maps (fail 5 noId bs)
      | some (id, f) => match withMaps p.maps (isoElem e 17 id f bs) with
        | .error x => .error x
        | .ok (vs, r) => isoFields e root k todo { p with vals := p.vals ++ vs } r

/-- Parse an ISO 8583 message with version digit `ver` (R331). -/
def isoParse (e : FEnv) (ver root : Nat) (bs : Bytes) : Except FErr FParsed :=
  match (e.kids root).find? (fun x => x.2.kind = 5), e.child root 2 0 with
  | some (mi, mf), some (bi, bf) =>
    match isoElem e 17 mi mf bs with
    | .error x => .error x
    | .ok (mv, r) =>
      if ((mv.map Prod.snd).headD []).head? ≠ some (48 + ver) then fail 7 mi bs
      else match isoElem e 17 bi bf r with
        | .error x => .error x
        | .ok (bv, r) =>
          let m := (bv.map Prod.snd).headD []
          match isoFields e root 200 (bitmapBits 0 m) ⟨mv ++ bv, m⟩ r with
          | .error x => .error x
          | .ok (p, []) => .ok p
          | .ok (p, r) => withMaps p.maps (fail 14 noId r)
  | _, _ => fail 5 noId bs

/-! ## Text syntaxes -/

/-- The logical value of a field's text, by the field's class and encoding: OK or the reason. -/
def textValue (e : FEnv) (f : FDef) (bs : Bytes) : Except Nat FVal :=
  match if f.cls = 3 then some (bs.map BitVec.toNat) else utf8Decode bs.length bs with
  | none => .error 3
  | some v => match fitCheck e f v with
    | some r => .error r
    | none => .ok v

/-- Whitespace of XML and JSON. -/
def isWs (b : Byte) : Bool := b = 0x20 || b = 0x09 || b = 0x0A || b = 0x0D

/-- Drop leading whitespace. -/
def skipWs : Bytes → Bytes
  | [] => []
  | b :: r => if isWs b then skipWs r else b :: r

/-- Drop a literal from the front. -/
def eat (lit : List Nat) (bs : Bytes) : Option Bytes :=
  if (bs.take lit.length).map BitVec.toNat = lit then some (bs.drop lit.length) else none

/-- ASCII bytes of a literal. -/
def ascii (s : String) : List Nat := s.toList.map Char.toNat

/-- The letters and digits at the front, and the rest. -/
def takeName : Bytes → Bytes × Bytes
  | [] => ([], [])
  | b :: r => if isLetter b.toNat || isDigit b.toNat then let (n, r) := takeName r; (b :: n, r) else ([], b :: r)

/-- The bytes before the first `q`, and what follows it. -/
def takeUntil (q : Byte) : Bytes → Option (Bytes × Bytes)
  | [] => none
  | b :: r => if b = q then some ([], r) else (takeUntil q r).map (fun x => (b :: x.1, x.2))

/-- A hexadecimal digit's value. -/
def hexVal (c : Nat) : Option Nat :=
  if isDigit c then some (c - 48) else if 65 ≤ c ∧ c ≤ 70 then some (c - 55) else if 97 ≤ c ∧ c ≤ 102 then some (c - 87) else none

/-- A number in a base. -/
def numIn (base : Nat) (v : List Nat) : Option Nat :=
  if v = [] then none
  else (allSome (v.map hexVal)).bind (fun l => if l.all (fun x => x < base) then some (l.foldl (fun n x => base * n + x) 0) else none)

/-- The character of an entity or character reference (R332), given the bytes between & and ;. -/
def entity (n : Bytes) : Option Nat :=
  let v := n.map BitVec.toNat
  if v = ascii "amp" then some 38
  else if v = ascii "lt" then some 60
  else if v = ascii "gt" then some 62
  else if v = ascii "quot" then some 34
  else if v = ascii "apos" then some 39
  else match v with
    | 35 :: 120 :: h => (numIn 16 h).bind (fun c => if isScalar c && c ≠ 0 then some c else none)
    | 35 :: h => (numIn 10 h).bind (fun c => if isScalar c && c ≠ 0 then some c else none)
    | _ => none

/-- Replace the references in an attribute value; `n` bounds the bytes. -/
def unescape : Nat → Bytes → Option Bytes
  | _, [] => some []
  | 0, _ => none
  | n + 1, b :: r =>
    if b = 0x26 then match takeUntil 0x3B r with
      | some (x, r) => match entity x, unescape n r with
        | some c, some l => some (utf8Char c ++ l)
        | _, _ => none
      | none => none
    else if b = 0x3C then none
    else (unescape n r).map (fun l => b :: l)

/-- The attributes of a start tag in order, up to > or />: the attributes, whether the element is empty, the rest. -/
def xmlAttrs : Nat → Bytes → Option (List (Bytes × Bytes) × Bool × Bytes)
  | 0, _ => none
  | k + 1, bs =>
    match eat [0x3E] (skipWs bs), eat [0x2F, 0x3E] (skipWs bs) with
    | some r, _ => some ([], false, r)
    | _, some r => some ([], true, r)
    | _, _ =>
      if (bs.head?.map isWs) ≠ some true then none
      else
        let (n, r) := takeName (skipWs bs)
        match eat [0x3D] (skipWs r) with
        | none => none
        | some r =>
          match skipWs r with
          | q :: r =>
            if n = [] || (q ≠ 0x22 && q ≠ 0x27) then none
            else match takeUntil q r with
              | none => none
              | some (raw, r) => match unescape raw.length raw, xmlAttrs k r with
                | some v, some (as, e, r) => if as.any (fun a => a.1 == n) then none else some ((n, v) :: as, e, r)
                | _, _ => none
          | [] => none

/-- An open element: its definition and the text met so far. -/
structure XFrame where
  id : Nat
  f : FDef
  text : Bytes
  deriving DecidableEq, Repr

/-- The attributes of an element as values; a namespace declaration is allowed on the root alone, with the program's value. -/
def xmlBind (e : FEnv) (id : Nat) (ns : Option Bytes) (root : Bool) (rest : Bytes) :
    List (Bytes × Bytes) → Except FErr FVals
  | [] => .ok []
  | (n, v) :: as =>
    if n.map BitVec.toNat = ascii "xmlns" then
      if root && ns = some v then xmlBind e id ns root rest as else fail 6 id rest
    else match (e.kids id).find? (fun x => x.2.kind = 4 && x.2.name == n) with
      | none => fail 5 id rest
      | some (a, f) => match textValue e f v, xmlBind e id ns root rest as with
        | .error r, _ => fail r a rest
        | _, .error x => .error x
        | .ok w, .ok l => .ok ((a, w) :: l)

/-- The value of an element that closes. -/
def xmlClose (e : FEnv) (x : XFrame) (rest : Bytes) : Except FErr FVals :=
  if x.f.kind = 3 then if x.text.all isWs then .ok [(x.id, [])] else fail 6 x.id rest
  else match textValue e x.f x.text with
    | .error r => fail r x.id rest
    | .ok v => .ok [(x.id, v)]

/-- A start tag after its <: the frame it opens, whether it is empty, its attributes, the rest. -/
def xmlOpen (e : FEnv) (ns : Option Bytes) (parent : Option Nat) (root : Nat) (bs : Bytes) :
    Except FErr (XFrame × Bool × FVals × Bytes) :=
  let (n, r) := takeName bs
  let found : Option (Nat × FDef) := match parent with
    | none => (e.get root).bind (fun f => if f.name == n then some (root, f) else none)
    | some p => (e.kids p).find? (fun x => (x.2.kind = 1 || x.2.kind = 3) && x.2.name == n)
  if n = [] then fail 6 noId bs
  else match found with
    | none => fail 5 noId bs
    | some (id, f) => match xmlAttrs r.length r with
      | none => fail 6 id r
      | some (as, empty, rest) => match xmlBind e id ns parent.isNone r as with
        | .error x => .error x
        | .ok vs => .ok (⟨id, f, []⟩, empty, vs, rest)

/-- The content of the open elements, innermost first, until the root closes. -/
def xmlBody (e : FEnv) (ns : Option Bytes) (root : Nat) : Nat → List XFrame → FVals → Bytes → Except FErr (FVals × Bytes)
  | _, [], vs, bs => .ok (vs, bs)
  | 0, _ :: _, _, bs => fail 2 noId bs
  | k + 1, x :: st, vs, bs =>
    match bs with
    | [] => fail 2 x.id bs
    | b :: r =>
      if b = 0x3C then
        match eat [0x2F] r with
        | some r =>
          let (n, r') := takeName r
          match eat [0x3E] (skipWs r') with
          | some r' =>
            if n ≠ x.f.name then fail 6 x.id bs
            else match xmlClose e x bs with
              | .error z => .error z
              | .ok l => xmlBody e ns root k st (vs ++ l) r'
          | none => fail 6 x.id bs
        | none =>
          match xmlOpen e ns (some x.id) root r with
          | .error z => .error z
          | .ok (y, empty, as, r) =>
            if 16 ≤ st.length + 1 then fail 12 y.id bs
            else if empty then match xmlClose e y bs with
              | .error z => .error z
              | .ok l => xmlBody e ns root k (x :: st) (vs ++ as ++ l) r
            else xmlBody e ns root k (y :: x :: st) (vs ++ as) r
      else if b = 0x26 then
        match takeUntil 0x3B r with
        | some (n, r) => match entity n with
          | some c => xmlBody e ns root k ({ x with text := x.text ++ utf8Char c } :: st) vs r
          | none => fail 6 x.id bs
        | none => fail 6 x.id bs
      else xmlBody e ns root k ({ x with text := x.text ++ [b] } :: st) vs r

/-- The optional XML declaration (R332). -/
def xmlDecl (bs : Bytes) : Option Bytes :=
  match eat (ascii "<?xml") bs with
  | none => some bs
  | some r =>
    let q (lit : String) (r : Bytes) : Option Bytes :=
      match eat (34 :: ascii lit ++ [34]) r with | some x => some x | none => eat (39 :: ascii lit ++ [39]) r
    let attr (name lit : String) (r : Bytes) : Option Bytes :=
      if (r.head?.map isWs) ≠ some true then none
      else ((eat (ascii name) (skipWs r)).bind (fun r => eat [0x3D] (skipWs r))).bind (fun r => q lit (skipWs r))
    ((attr "version" "1.0" r).bind (attr "encoding" "UTF-8")).bind (fun r => eat (ascii "?>") (skipWs r))

/-- Parse an XML message (R332). -/
def xmlParse (e : FEnv) (ns : Option Bytes) (root : Nat) (bs : Bytes) : Except FErr FParsed :=
  if (utf8Decode bs.length bs).isNone then fail 3 noId bs
  else match xmlDecl bs with
    | none => fail 6 noId bs
    | some r => match eat [0x3C] (skipWs r) with
      | none => fail 6 noId r
      | some r => match xmlOpen e ns none root r with
        | .error x => .error x
        | .ok (x, empty, as, r) =>
          let body := if empty then (xmlClose e x r).map (fun l => (as ++ l, r)) else xmlBody e ns root (r.length + 1) [x] as r
          match body with
          | .error z => .error z
          | .ok (vs, r) => match skipWs r with
            | [] => .ok ⟨vs, []⟩
            | b :: r => if b = 0x3C then fail 6 noId (b :: r) else fail 14 noId (b :: r)

/-! ## JSON (R333) -/

/-- Four hexadecimal digits. -/
def hex4 (bs : Bytes) : Option Nat := if bs.length < 4 then none else numIn 16 ((bs.take 4).map BitVec.toNat)

/-- The characters of a JSON string after its opening quote, and the rest. -/
def jsonStr : Nat → Bytes → Option (FVal × Bytes)
  | 0, _ => none
  | k + 1, bs =>
    match utf8Head bs with
    | none => none
    | some (c, r) =>
      let more (c : Nat) (r : Bytes) : Option (FVal × Bytes) := (jsonStr k r).map (fun x => (c :: x.1, x.2))
      if c = 34 then some ([], r)
      else if c < 0x20 then none
      else if c ≠ 92 then more c r
      else match r with
        | [] => none
        | b :: r =>
          match b.toNat with
          | 34 => more 34 r
          | 92 => more 92 r
          | 47 => more 47 r
          | 98 => more 8 r
          | 102 => more 12 r
          | 110 => more 10 r
          | 114 => more 13 r
          | 116 => more 9 r
          | 117 => match hex4 r with
            | none => none
            | some h =>
              if isScalar h then more h (r.drop 4)
              else match (eat [92, 117] (r.drop 4)).bind hex4 with
                | some l => if h < 0xDC00 && 0xDC00 ≤ l && l < 0xE000
                    then more (0x10000 + (h - 0xD800) * 1024 + (l - 0xDC00)) (r.drop 10) else none
                | none => none
          | _ => none

/-- The child a member names: any child of a group, an attribute of a field. -/
def jsonChild (e : FEnv) (ctx : Nat) (group : Bool) (name : FVal) : Option (Nat × FDef) :=
  (e.kids ctx).find? (fun x => (if group then x.2.kind ≠ 0 else x.2.kind = 4) && x.2.name.map BitVec.toNat == name)

/-- An object of a field ends: it holds the field's content under the name _ (R333). -/
def jsonWhole (f : FDef) (seen : List FVal) : Bool := f.kind ≠ 1 || seen.contains [95]

/-- The members of an object that describes `ctx`, from the next one on; `seen` holds the names met, and `depth` is the
element's, 1 for the root (R330). -/
def jsonMembers (e : FEnv) : Nat → Nat → FDef → Nat → List FVal → Bytes → Except FErr (FVals × Bytes)
  | 0, ctx, _, _, _, bs => fail 12 ctx bs
  | k + 1, ctx, f, depth, seen, bs =>
    match eat [0x22] (skipWs bs) with
    | none => match eat [0x7D] (skipWs bs) with
      | some r => if seen = [] && jsonWhole f seen then .ok ([], r) else fail 6 ctx bs
      | none => fail (if skipWs bs = [] then 2 else 6) ctx bs
    | some r => match jsonStr (r.length + 1) r with
      | none => fail 6 ctx bs
      | some (name, r) =>
        if seen.contains name then fail 6 ctx bs
        else match eat [0x3A] (skipWs r) with
          | none => fail 6 ctx r
          | some r =>
            let own : Bool := f.kind = 1 && name == [95]
            let target := if own then some (ctx, f) else jsonChild e ctx (f.kind = 3) name
            let value : Except FErr (FVals × Bytes) := match target with
              | none => fail 5 ctx bs
              | some (id, g) =>
                match eat [0x22] (skipWs r), eat [0x7B] (skipWs r) with
                | some s, _ => match jsonStr (s.length + 1) s with
                  | none => fail 6 id r
                  | some (v, s) =>
                    if g.kind = 3 then fail 6 id r
                    else if !own && g.kind ≠ 4 && 16 ≤ depth then fail 12 id r
                    else match textValue e g (utf8 v) with
                      | .error x => fail x id r
                      | .ok w => .ok ([(id, w)], s)
                | none, some s =>
                  if own || g.kind = 4 then fail 6 id r
                  else if 16 ≤ depth then fail 12 id r
                  else match jsonMembers e k id g (depth + 1) [] s with
                    | .error x => .error x
                    | .ok (vs, s) => .ok (if g.kind = 3 then ((id, []) :: vs, s) else (vs, s))
                | none, none => fail (if skipWs r = [] then 2 else 6) id r
            match value with
            | .error x => .error x
            | .ok (vs, r) => match eat [0x7D] (skipWs r), eat [0x2C] (skipWs r) with
              | some r', _ => if jsonWhole f (name :: seen) then .ok (vs, r') else fail 6 ctx r
              | none, some r => match jsonMembers e k ctx f depth (name :: seen) r with
                | .error x => .error x
                | .ok (ws, r) => .ok (vs ++ ws, r)
              | none, none => fail (if skipWs r = [] then 2 else 6) ctx r

/-- Parse a JSON message. -/
def jsonParse (e : FEnv) (root : Nat) (bs : Bytes) : Except FErr FParsed :=
  if (utf8Decode bs.length bs).isNone then fail 3 noId bs
  else match e.get root, eat [0x7B] (skipWs bs) with
    | some f, some r => match jsonMembers e (bs.length + 1) root { f with kind := 3 } 1 [] r with
      | .error x => .error x
      | .ok (vs, r) => if skipWs r = [] then .ok ⟨vs, []⟩ else fail 14 noId r
    | _, _ => fail 6 noId bs

/-! ## Compact binary (R334) -/

/-- A leaf's length and the rest. -/
def bxLen (bs : Bytes) : Option (Nat × Bytes) :=
  match bs with
  | b :: r =>
    if b.toNat < 128 then some (b.toNat, r)
    else match r with
      | c :: r => let n := (b.toNat - 128) * 256 + c.toNat; if n < 128 then none else some (n, r)
      | [] => none
  | [] => none

/-- The items inside the open elements, innermost first. -/
def bxItems (e : FEnv) : Nat → List (Nat × FDef) → FVals → Bytes → Except FErr (FVals × Bytes)
  | _, [_], vs, [] => .ok (vs, [])
  | _, [], vs, bs => .ok (vs, bs)
  | 0, _, _, bs => fail 12 noId bs
  | k + 1, (ctx, f) :: st, vs, bs =>
    match bs with
    | a :: b :: r =>
      let h := a.toNat * 256 + b.toNat
      let tag := h % 2 ^ 14
      match h / 2 ^ 14 with
      | 0 =>
        let own : Bool := f.kind = 1 && tag = f.tag
        let target := if own then some (ctx, f)
          else (e.kids ctx).find? (fun x => (x.2.kind = 4 || (f.kind = 3 && x.2.kind = 1)) && x.2.tag = tag)
        match target with
        | none => fail 5 noId bs
        | some (id, g) => if !own && g.kind = 1 && 16 ≤ st.length + 1 then fail 12 id bs else match bxLen r with
          | none => fail (if r.length < 2 then 2 else 6) id r
          | some (n, r) =>
            if r.length < n then fail 2 id r
            else match textValue e g (r.take n) with
              | .error x => fail x id r
              | .ok v =>
                -- an element with attributes closes after its own leaf (R334)
                if own then match (r.drop n) with
                  | a :: b :: r' =>
                    if a.toNat * 256 + b.toNat = 2 ^ 15 + tag then bxItems e k st (vs ++ [(id, v)]) r' else fail 6 id (r.drop n)
                  | _ => fail 2 id (r.drop n)
                else bxItems e k ((ctx, f) :: st) (vs ++ [(id, v)]) (r.drop n)
      | 1 => match (e.kids ctx).find? (fun x => (x.2.kind = 1 || x.2.kind = 3) && x.2.tag = tag) with
        | none => fail 5 noId bs
        | some (id, g) =>
          if 16 ≤ st.length + 1 then fail 12 id bs
          else bxItems e k ((id, g) :: (ctx, f) :: st) (if g.kind = 3 then vs ++ [(id, [])] else vs) r
      | 2 => if st = [] || tag ≠ f.tag || f.kind = 1 then fail 6 ctx bs else bxItems e k st vs r
      | _ => fail 6 noId bs
    | _ => fail 2 ctx bs

/-- Parse a compact binary message. -/
def bxParse (e : FEnv) (root : Nat) (bs : Bytes) : Except FErr FParsed :=
  match e.get root, bs with
  | some f, a :: b :: _ :: z :: r =>
    if a ≠ 0x4B || b ≠ 0x42 || z ≠ 0 then fail 6 noId bs
    else (bxItems e (bs.length + 1) [(root, { f with kind := 3 })] [] r).map (fun x => ⟨x.1, []⟩)
  | _, _ => fail 2 noId bs

/-- Parse a message of a source syntax; more than 512 fields and attributes are too many (R330). -/
def FEnv.parse (e : FEnv) (src root : Nat) (ns : Option Bytes) (bs : Bytes) : Except FErr FParsed :=
  let r := match src with
    | 3 => xmlParse e ns root bs
    | 4 => bxParse e root bs
    | 5 => jsonParse e root bs
    | v => isoParse e v root bs
  match r with
  | .error x => .error x
  | .ok p =>
    if 512 < (p.vals.filter (fun v => match e.get v.1 with | some f => f.kind = 1 || f.kind = 4 | none => false)).length
    then withMaps p.maps (fail 12 noId []) else .ok p

end Sys2Proof.Machine
end

