-- ==== Sys2Proof/Machine/FormatRun.lean ====
section
/-! DEFINITION. Mapping programs (R339 to R342): functions, the writers of the six syntaxes, the steps, and the result of a
format command (R344). -/

namespace Sys2Proof.Machine

/-! ## Values for a destination (R336) -/

/-- A value padded to a fixed destination. -/
def padTo (f : FDef) (v : FVal) : FVal :=
  if f.ltype ≠ 0 || f.min ≤ v.length then v
  else
    let n := f.min - v.length
    match f.cls with
    | 0 => List.replicate n 48 ++ v
    | 1 | 2 => if f.rjust then List.replicate n 32 ++ v else v ++ List.replicate n 32
    | _ => v

/-- A value made to fit a definition, or the reason it does not; a space that pads an or ans is not checked against the
class. -/
def fitTo (e : FEnv) (f : FDef) (v : FVal) : Except Nat FVal :=
  if !v.all (fun c => clsOk f.cls c) then .error 3
  else
    let w := padTo f v
    if w.length < f.min || f.max < w.length then .error 4
    else if w.all (fun c => encOk e f c) then .ok w else .error 3

/-- COPY between two definitions. -/
def copyTo (e : FEnv) (s f : FDef) (v : FVal) : Except Nat FVal :=
  if (s.cls = 3) ≠ (f.cls = 3) then .error 10 else fitTo e f v

/-! ## Functions (R342) -/

/-- Decimal digits of a number. -/
def decDigits (n : Nat) : FVal := (Nat.toDigits 10 n).map Char.toNat

/-- A number in exactly `k` digits, more when it needs them. -/
def decPad (k n : Nat) : FVal := let v := decDigits n; List.replicate (k - v.length) 48 ++ v

/-- The entry of a numeric currency code. -/
def FEnv.currency (e : FEnv) (v : FVal) : Option Nat :=
  if v = [] then none
  else (digitsOf v).bind (fun c => (e.cur.find? (fun x => x.1 = c)).map Prod.snd)

/-- Minor units as decimal text (R342). -/
def amountText (exp : Nat) (v : FVal) : Option FVal :=
  (digitsOf v).map (fun n =>
    decDigits (n / 10 ^ exp) ++ (if exp = 0 then [] else 46 :: decPad exp (n % 10 ^ exp)))

/-- Decimal text as minor units; none where it is not such or has too many fraction digits. -/
def amountMinor (exp : Nat) (v : FVal) : Option FVal :=
  let i := v.takeWhile (fun c => c ≠ 46)
  let r := v.drop i.length
  let fr := r.drop 1
  if i = [] || !i.all isDigit || !fr.all isDigit || (r ≠ [] && fr = []) || exp < fr.length then none
  else (digitsOf (i ++ fr ++ List.replicate (exp - fr.length) 48)).map decDigits

/-- The days of a month. -/
def monthDays (y m : Nat) : Nat :=
  if m = 2 then (if (y % 4 = 0 ∧ y % 100 ≠ 0) ∨ y % 400 = 0 then 29 else 28)
  else if m = 4 ∨ m = 6 ∨ m = 9 ∨ m = 11 then 30 else 31

/-- A date exists. -/
def dateOk (y m d : Nat) : Bool := 1 ≤ m && m ≤ 12 && 1 ≤ d && d ≤ monthDays y m

/-- The year that a two-digit year names, with the pivot (R342). -/
def fullYear (pivot yy : Nat) : Nat := if yy < pivot then 2000 + yy else 1900 + yy

/-- DATE, in the direction the text's form implies. -/
def dateConv (pivot : Nat) (v : FVal) : Option FVal :=
  if v.length = 6 then
    (digitsOf v).bind (fun n =>
      let y := fullYear pivot (n / 10000)
      let m := n / 100 % 100
      let d := n % 100
      if dateOk y m d then some (decPad 4 y ++ [45] ++ decPad 2 m ++ [45] ++ decPad 2 d) else none)
  else if v.length = 10 ∧ v.getD 4 0 = 45 ∧ v.getD 7 0 = 45 then
    match digitsOf (v.take 4), digitsOf ((v.drop 5).take 2), digitsOf (v.drop 8) with
    | some y, some m, some d =>
      if dateOk y m d && fullYear pivot (y % 100) = y then some (decPad 2 (y % 100) ++ (decPad 2 m ++ decPad 2 d)) else none
    | _, _, _ => none
  else none

/-- An upper-case hexadecimal digit. -/
def hexDigit (n : Nat) : Nat := if n < 10 then 48 + n else 55 + n

/-- The bytes of upper-case hexadecimal text. -/
def unhex : FVal → Option FVal
  | [] => some []
  | a :: b :: r =>
    if (97 ≤ a) || (97 ≤ b) then none
    else match hexVal a, hexVal b, unhex r with
      | some x, some y, some l => some ((16 * x + y) :: l)
      | _, _, _ => none
  | _ => none

/-- Drop trailing spaces. -/
def trimEnd (v : FVal) : FVal := (v.reverse.dropWhile (fun c => c = 32)).reverse

/-- The reason of a step that the spec does not let be, which names none for it: open, and not the 0 of OK. -/
def openReason : Nat := 1 + Config.stepReason % 15

/-- FUNC: the value for the destination, or the reason of the failure (R342). `second` is the second source's value. -/
def funcTo (e : FEnv) (arg : Nat) (s f : FDef) (v : FVal) (second : Option FVal) : Except Nat FVal :=
  let late (r : Except Nat FVal) : Except Nat FVal := match r with | .error 4 => .error 15 | x => x
  let orVal (o : Option FVal) : Except Nat FVal := match o with | some w => fitTo e f w | none => .error 15
  let k := arg % 16
  -- a byte string becomes digits or characters, or they one, by HEX alone (R336)
  if 1 ≤ k ∧ k ≤ 4 ∧ (s.cls = 3 ∨ f.cls = 3) ∨ k = 6 ∧ (s.cls = 3 ↔ f.cls = 3) then .error 10
  else match k with
  | 0 => copyTo e s f v
  | 1 => match second.bind e.currency with
    | none => .error 10
    | some w =>
      let exp := bits w 26 24
      if s.cls = 0 then late (orVal (amountText exp v)) else late (orVal (amountMinor exp v))
  | 2 => match e.currency v with
    | none => .error 10
    | some w => fitTo e f [bits w 7 0, bits w 15 8, bits w 23 16]
  | 3 => match e.cur.find? (fun x => [bits x.2 7 0, bits x.2 15 8, bits x.2 23 16] = v) with
    | some x => fitTo e f (decPad 3 x.1)
    | none => .error 10
  | 4 => orVal (dateConv (bits arg 15 8) v)
  | 5 => copyTo e s f (trimEnd v)
  | 6 =>
    if s.cls = 3 then fitTo e f (v.flatMap (fun b => [hexDigit (b / 16), hexDigit (b % 16)]))
    else if v.length % 2 = 1 then .error 4
    else match unhex v with
      | some w => fitTo e f w
      | none => .error 3
  | _ => .error openReason

/-! ## Writers -/

/-- Text of a value. -/
def valText (f : FDef) (v : FVal) : Bytes := if f.cls = 3 then v.map (BitVec.ofNat 8) else utf8 v

/-- A literal's bytes. -/
def lit (s : String) : Bytes := (ascii s).map (BitVec.ofNat 8)

/-- XML text with the escapes of R332; quotation marks are escaped in attribute values. -/
def xmlText (attr : Bool) (bs : Bytes) : Bytes :=
  bs.flatMap (fun b =>
    if b = 0x26 then lit "&amp;" else if b = 0x3C then lit "&lt;" else if attr && b = 0x22 then lit "&quot;" else [b])

/-- The letter of a JSON escape of two characters, if the character has one (RFC 8259). -/
def jsonLetter (c : Nat) : Option Nat :=
  match c with
  | 8 => some 98
  | 9 => some 116
  | 10 => some 110
  | 12 => some 102
  | 13 => some 114
  | 34 => some 34
  | 92 => some 92
  | _ => none

/-- The escape of a character: its two-character form, or its code in four hexadecimal digits; RFC 8259 leaves the choice
between the two, and of the case of letters (assumption 58). -/
def jsonEsc (c : Nat) : Bytes :=
  let hex (n : Nat) : Byte := BitVec.ofNat 8 (if n < 10 then 48 + n else if Config.jsonUpper then 55 + n else 87 + n)
  match jsonLetter c, Config.jsonShort c with
  | some l, true => [0x5C, BitVec.ofNat 8 l]
  | _, _ => [0x5C, 0x75, 0x30, 0x30, hex (c / 16), hex (c % 16)]

/-- A JSON string: control characters, quotation marks and backslashes are escaped. -/
def jsonText (bs : Bytes) : Bytes :=
  [0x22] ++ bs.flatMap (fun b => if b.toNat < 0x20 || b = 0x22 || b = 0x5C then jsonEsc b.toNat else [b]) ++ [0x22]

/-- A compact binary item header. -/
def bxHead (kind tag : Nat) : Bytes := beBytes 2 (kind * 2 ^ 14 + tag)

/-- A compact binary leaf. -/
def bxLeaf (tag : Nat) (bs : Bytes) : Bytes :=
  bxHead 0 tag ++ (if bs.length < 128 then [BitVec.ofNat 8 bs.length] else beBytes 2 (2 ^ 15 + bs.length)) ++ bs

/-- Attributes to write, in step order: name, tag and text. -/
abbrev FAttrs := List (FDef × Bytes)

/-- A comma before a member that is not the first of its object. -/
def jsonComma (buf : Bytes) : Bytes := if buf.getLast? = some 0x7B then [] else [0x2C]

/-- An element with content. -/
def writeLeaf (dst : Nat) (buf : Bytes) (f : FDef) (as : FAttrs) (t : Bytes) : Bytes :=
  match dst with
  | 3 =>
    buf ++ [0x3C] ++ f.name ++ as.flatMap (fun a => [0x20] ++ a.1.name ++ lit "=\"" ++ xmlText true a.2 ++ [0x22]) ++ [0x3E]
      ++ xmlText false t ++ lit "</" ++ f.name ++ [0x3E]
  | 5 =>
    let m := buf ++ jsonComma buf ++ jsonText f.name ++ [0x3A]
    if as = [] then m ++ jsonText t
    else m ++ [0x7B] ++ as.flatMap (fun a => jsonText a.1.name ++ [0x3A] ++ jsonText a.2 ++ [0x2C]) ++ lit "\"_\":"
      ++ jsonText t ++ [0x7D]
  | _ =>
    if as = [] then buf ++ bxLeaf f.tag t
    else buf ++ bxHead 1 f.tag ++ as.flatMap (fun a => bxLeaf a.1.tag a.2) ++ bxLeaf f.tag t ++ bxHead 2 f.tag

/-- The start of a group. -/
def writeOpen (dst : Nat) (buf : Bytes) (f : FDef) (ns : Option Bytes) (as : FAttrs) : Bytes :=
  match dst with
  | 3 =>
    buf ++ [0x3C] ++ f.name ++ (match ns with | some n => lit " xmlns=\"" ++ xmlText true n ++ [0x22] | none => [])
      ++ as.flatMap (fun a => [0x20] ++ a.1.name ++ lit "=\"" ++ xmlText true a.2 ++ [0x22]) ++ [0x3E]
  | 5 =>
    let m := buf ++ jsonComma buf ++ jsonText f.name ++ lit ":" ++ [0x7B]
    match as with
    | [] => m
    | a :: r => r.foldl (fun m a => m ++ [0x2C] ++ jsonText a.1.name ++ [0x3A] ++ jsonText a.2)
        (m ++ jsonText a.1.name ++ [0x3A] ++ jsonText a.2)
  | _ => buf ++ bxHead 1 f.tag ++ as.flatMap (fun a => bxLeaf a.1.tag a.2)

/-- The end of a group. -/
def writeClose (dst : Nat) (buf : Bytes) (f : FDef) : Bytes :=
  match dst with
  | 3 => buf ++ lit "</" ++ f.name ++ [0x3E]
  | 5 => buf ++ [0x7D]
  | _ => buf ++ bxHead 2 f.tag

/-- The start of the message: the root element, the outer object, or the header of the compact form. -/
def writeRoot (dst : Nat) (f : FDef) (ns : Option Bytes) (as : FAttrs) : Bytes :=
  match dst with
  | 3 => writeOpen 3 [] f ns as
  | 5 => match as with
    | [] => [0x7B]
    | a :: r => r.foldl (fun m a => m ++ [0x2C] ++ jsonText a.1.name ++ [0x3A] ++ jsonText a.2)
        ([0x7B] ++ jsonText a.1.name ++ [0x3A] ++ jsonText a.2)
  | _ => [0x4B, 0x42, 1, 0] ++ as.flatMap (fun a => bxLeaf a.1.tag a.2)

/-- The end of the message. -/
def writeEnd (dst : Nat) (buf : Bytes) (f : FDef) : Bytes :=
  match dst with
  | 3 => writeClose 3 buf f
  | 5 => buf ++ [0x7D]
  | _ => buf

/-! ## ISO 8583 output (R331) -/

/-- Packed digits with the pad nibble of an odd length. -/
def packBcd (pad : Bool) (v : FVal) : Bytes :=
  let ns := v.map (fun c => if isDigit c then c - 48 else 13)
  let ns := if ns.length % 2 = 0 then ns else if pad then ns ++ [15] else 0 :: ns
  (List.range (ns.length / 2)).map (fun i => BitVec.ofNat 8 (16 * ns.getD (2 * i) 0 + ns.getD (2 * i + 1) 0))

/-- The EBCDIC byte of a character. -/
def FEnv.toEbcdic (e : FEnv) (c : Nat) : Byte := BitVec.ofNat 8 (e.ebc.findIdx (fun b => b.toNat = c))

/-- A length prefix of `n` units. -/
def isoPrefix (e : FEnv) (f : FDef) (n : Nat) : Option Bytes :=
  match f.ltype with
  | 0 => some []
  | 5 => if n < 256 then some [BitVec.ofNat 8 n] else none
  | 6 => if n < 65536 then some (beBytes 2 n) else none
  | k =>
    let v := decPad k n
    if v.length ≠ k then none
    else some (match f.lenc with
      | 2 => packBcd false v
      | 1 => v.map e.toEbcdic
      | _ => v.map (BitVec.ofNat 8))

/-- The bytes of a value. -/
def isoBody (e : FEnv) (f : FDef) (v : FVal) : Bytes :=
  match f.enc with
  | 1 => if f.cls = 3 then v.map (BitVec.ofNat 8) else v.map e.toEbcdic
  | 2 => packBcd f.pad v
  | 4 => utf8 v
  | _ => v.map (BitVec.ofNat 8)

/-- A definition or one below it has been set. -/
def isoSet (e : FEnv) (vals : FVals) : Nat → Nat → Bool
  | 0, _ => false
  | k + 1, id => vals.any (fun v => v.1 = id) || (e.kids id).any (fun x => isoSet e vals k x.1)

/-- An element of an ISO 8583 message from the values set; the reason and definition of a failure. A composite FIELD is
built from its children, or from its own value when none of them is set (assumption 58). -/
def isoWrite (e : FEnv) (vals : FVals) : Nat → Nat → FDef → Except (Nat × Nat) Bytes
  | 0, id, _ => .error (12, id)
  | k + 1, id, f =>
    let kids := (e.kids id).filter (fun x => x.2.kind = 1 || x.2.kind = 3)
    let put (n : Nat) (b : Bytes) : Except (Nat × Nat) Bytes :=
      if n < f.min || f.max < n then .error (4, id)
      else match isoPrefix e f n with | some p => .ok (p ++ b) | none => .error (4, id)
    let own := vals.find? (fun v => v.1 = id)
    if f.kind = 3 || (kids.any (fun x => x.2.kind = 3) && (own.isNone || kids.any (fun x => isoSet e vals k x.1))) then
      let step (a : Except (Nat × Nat) Bytes) (x : Nat × FDef) : Except (Nat × Nat) Bytes :=
        match a with
        | .error z => .error z
        | .ok b => match isoWrite e vals k x.1 x.2 with | .error z => .error z | .ok c => .ok (b ++ c)
      match kids.foldl step (.ok []) with
      | .error z => .error z
      | .ok b => put (if f.enc = 2 then 2 * b.length else b.length) b
    else
      -- a value that was set fits already
      let value : Except Nat FVal := match own with | some v => .ok v.2 | none => fitTo e f []
      match value with
      | .error r => .error (r, id)
      | .ok v => put v.length (isoBody e f v)

/-- Eight bytes of a bitmap for the bits above `base`. -/
def mapBytes (base : Nat) (bs : List Nat) : FVal :=
  (List.range 8).map (fun i => (List.range 8).foldl (fun n j => n + b2n (bs.contains (base + 8 * i + j + 1)) * 2 ^ (7 - j)) 0)

/-- The whole message: MTI, bitmaps, and the fields in rising bit number. -/
def isoMessage (e : FEnv) (root : Nat) (vals : FVals) : Except (Nat × Nat) Bytes :=
  match (e.kids root).find? (fun x => x.2.kind = 5), e.child root 2 0 with
  | some (mi, mf), some (bi, bf) =>
    if !vals.any (fun v => v.1 = mi) then .error (8, mi)
    else
      let top := (e.kids root).filter (fun x => (x.2.kind = 1 || x.2.kind = 3) && isoSet e vals 17 x.1)
      let third := (e.child root 2 65).isSome && top.any (fun x => 128 < x.2.de)
      let ds := (top.map (fun x => x.2.de)) ++ (if third then [65] else [])
      let ds := if ds.any (fun k => 64 < k) then 1 :: ds else ds
      let sec := (e.child root 2 1).map (fun x => (1, x.1, x.2, mapBytes 64 ds))
      let thd := (e.child root 2 65).map (fun x => (65, x.1, x.2, mapBytes 128 ds))
      let piece (k : Nat) : Except (Nat × Nat) Bytes :=
        let mapAt := if k = 1 then sec else if k = 65 && third then thd else none
        match mapAt with
        | some (_, id, f, m) => isoWrite e [(id, m)] 17 id f
        | none => match top.find? (fun x => x.2.de = k) with
          | some x => isoWrite e vals 17 x.1 x.2
          | none => if k = 1 then .error (5, noId) else .ok []
      let order := (List.range 193).filter (fun k => ds.contains k)
      match top.find? (fun x => 128 < x.2.de && (e.child root 2 65).isNone) with
      -- no bitmap can announce it
      | some x => .error (5, x.1)
      | none => match isoWrite e vals 17 mi mf, isoWrite e [(bi, mapBytes 0 ds)] 17 bi bf with
      | .error z, _ => .error z
      | _, .error z => .error z
      | .ok a, .ok b => order.foldl (fun r k => match r, piece k with
          | .error z, _ => .error z
          | _, .error z => .error z
          | .ok x, .ok y => .ok (x ++ y)) (.ok (a ++ b))
  | _, _ => .error (5, noId)

/-! ## Steps (R340, R341) -/

/-- The program header of a command (R339). -/
structure FProg where
  src : Nat
  dst : Nat
  ns : Option Bytes
  srcRoot : Nat
  dstRoot : Nat
  first : Nat
  count : Nat
  deriving DecidableEq, Repr

/-- The output under construction: values set (ISO 8583), text written, open groups innermost first, attributes that wait
for their parents, whether the root is written and whether it is closed, and the fields and attributes written. -/
structure FOut where
  vals : FVals
  buf : Bytes
  open_ : List Nat
  pend : List (Nat × FVal)
  begun : Bool
  ended : Bool
  n : Nat
  deriving DecidableEq, Repr

/-- What a step failed with: reason and definition. -/
abbrev FBad := Nat × Nat

/-- The waiting attributes of a parent. -/
def FOut.attrs (o : FOut) (e : FEnv) (parent : Nat) : FAttrs :=
  o.pend.filterMap (fun a => match e.get a.1 with
    | some f => if f.parent = parent then some (f, valText f a.2) else none
    | none => none)

/-- The attributes that wait for other parents. -/
def FOut.others (o : FOut) (e : FEnv) (parent : Nat) : List (Nat × FVal) :=
  o.pend.filter (fun a => match e.get a.1 with | some f => f.parent ≠ parent | none => true)

/-- The root is written before the first element. -/
def FOut.begin_ (o : FOut) (e : FEnv) (p : FProg) : FOut :=
  if o.begun || p.dst < 3 then o
  else match e.get p.dstRoot with
    | none => { o with begun := true }
    | some f => { o with
        begun := true, buf := writeRoot p.dst f p.ns (o.attrs e p.dstRoot), pend := o.others e p.dstRoot }

/-- The output is within the capacity. -/
def FOut.within (o : FOut) (cap id : Nat) : Except FBad FOut :=
  if cap < o.buf.length then .error (9, id) else if 512 < o.n then .error (12, id) else .ok o

/-- The depth of the innermost open element; the root has depth 1 (R330, assumption 58). -/
def FOut.depth (o : FOut) (p : FProg) : Nat := 1 + (o.open_.filter (fun g => g ≠ p.dstRoot)).length

/-- The fields and attributes present once a destination is set: a field of an ISO 8583 message that was set before is no further one,
and its MTI is none (R330). -/
def FOut.more (o : FOut) (p : FProg) (dst : Nat) (f : FDef) : Nat :=
  o.n + b2n ((f.kind = 1 && !(p.dst < 3 && o.vals.any (fun x => x.1 = dst))) || f.kind = 4)

/-- Set a destination to a value that fits it (R341): an attribute waits for its parent, an ISO 8583 field for the end; a
step after the close of the root is malformed (assumption 58). -/
def FOut.set (o : FOut) (e : FEnv) (p : FProg) (cap dst : Nat) (f : FDef) (v : FVal) : Except FBad FOut :=
  let t := valText f v
  if o.ended then .error (6, dst)
  else if p.dst = 4 && 32767 < t.length then .error (4, dst)
  else if f.kind = 4 then FOut.within { o with pend := o.pend ++ [(dst, v)], n := o.more p dst f } cap dst
  else if p.dst < 3 then FOut.within { o with
    vals := (o.vals.filter (fun x => x.1 ≠ dst)) ++ [(dst, v)], pend := o.others e dst, n := o.more p dst f } cap dst
  else if 16 ≤ o.depth p then .error (12, dst)
  else
    let o := o.begin_ e p
    FOut.within { o with
      buf := writeLeaf p.dst o.buf f (o.attrs e dst) t, pend := o.others e dst, n := o.more p dst f } cap dst

/-- OPEN: the destination is a GROUP; another kind fails with an open reason (assumption 58). -/
def FOut.openGroup (o : FOut) (e : FEnv) (p : FProg) (cap dst : Nat) : Except FBad FOut :=
  match e.get dst with
  | none => .error (5, dst)
  | some f =>
    if f.kind ≠ 3 then .error (openReason, dst)
    else if o.ended then .error (6, dst)
    else if p.dst < 3 then .ok { o with open_ := dst :: o.open_ }
    else if dst = p.dstRoot && !o.open_.contains dst then
      let o := o.begin_ e p
      FOut.within { o with open_ := o.open_ ++ [dst] } cap dst
    else if 16 ≤ o.depth p then .error (12, dst)
    else
      let o := o.begin_ e p
      FOut.within { o with
        buf := writeOpen p.dst o.buf f none (o.attrs e dst), pend := o.others e dst, open_ := dst :: o.open_ } cap dst

/-- CLOSE; that of the root ends the message. -/
def FOut.closeGroup (o : FOut) (e : FEnv) (p : FProg) (cap dst : Nat) : Except FBad FOut :=
  match o.open_, e.get dst with
  | g :: r, some f =>
    if g ≠ dst then .error (6, dst)
    else if p.dst < 3 then .ok { o with open_ := r }
    else if r = [] && dst = p.dstRoot then
      FOut.within { o with buf := writeEnd p.dst o.buf f, open_ := [], ended := true } cap dst
    else FOut.within { o with buf := writeClose p.dst o.buf f, open_ := r } cap dst
  | _, _ => .error (6, dst)

/-- END: every group still open is closed; a waiting attribute fails. -/
def FOut.finish (o : FOut) (e : FEnv) (p : FProg) (cap : Nat) : Except FBad Bytes :=
  match o.pend with
  | a :: _ => .error (11, a.1)
  | [] =>
    if p.dst < 3 then match isoMessage e p.dstRoot o.vals with
      | .error z => .error z
      | .ok b => if cap < b.length then .error (9, noId) else .ok b
    else
      let o := o.begin_ e p
      let inner := if o.open_.getLast? = some p.dstRoot then o.open_.dropLast else o.open_
      let buf := inner.foldl (fun b g => match e.get g with | some f => writeClose p.dst b f | none => b) o.buf
      match e.get p.dstRoot with
      | some f => let b := if o.ended then buf else writeEnd p.dst buf f; if cap < b.length then .error (9, noId) else .ok b
      | none => .error (5, p.dstRoot)

/-- The value of a source definition; which of several occurrences is open. -/
def srcVal (vs : FVals) (id : Nat) : Option FVal :=
  let l := vs.filter (fun v => v.1 = id)
  if l = [] then none else (l.map Prod.snd)[Config.repeatPick l.length % l.length]?

/-- The value of a second source, which is no byte string (R336). -/
def FEnv.second (e : FEnv) (vs : FVals) (id : Nat) : Option FVal :=
  match e.get id with | some f => if f.cls = 3 then none else srcVal vs id | none => none

/-- A step that sets a destination from a source. A value the source cannot give the destination (reasons 10 and 15) names
the source, as in the example of chapter 13; a class or length it does not meet names the destination (assumption 58). -/
def setFrom (e : FEnv) (p : FProg) (cap : Nat) (vs : FVals) (o : FOut) (src dst : Nat)
    (conv : FDef → FDef → FVal → Except Nat FVal) : Except FBad FOut :=
  match srcVal vs src with
  | none => .ok o
  | some v => match e.get src, e.get dst with
    | some s, some f => match conv s f v with
      | .error r => .error (r, if r = 10 || r = 15 then src else dst)
      | .ok w => o.set e p cap dst f w
    | _, _ => .error (5, dst)

/-- Run the steps from `i` on; the output, or the failing step with its reason and definition. `steps` answers the words of
a step, `consts` a constant. -/
def runSteps (e : FEnv) (p : FProg) (cap : Nat) (vs : FVals) (steps : Nat → Nat × Nat) (consts : Nat → Bytes) :
    Nat → Nat → FOut → Except (Nat × FBad) Bytes
  | 0, i, o => (o.finish e p cap).mapError (fun z => (i, z))
  | k + 1, i, o =>
    if p.first + p.count ≤ i then (o.finish e p cap).mapError (fun z => (i, z))
    else
      let (w0, w1) := steps i
      let src := bits w0 19 8
      let dst := bits w0 31 20
      let arg := bits w1 15 0
      let next (r : Except FBad FOut) : Except (Nat × FBad) Bytes := match r with
        | .error z => .error (i, z)
        | .ok o => runSteps e p cap vs steps consts k (i + 1) o
      match bits w0 7 0 with
      | 0 => (o.finish e p cap).mapError (fun z => (i, z))
      | 1 => next (setFrom e p cap vs o src dst (copyTo e))
      | 2 => match e.get dst with
        | none => .error (i, (5, dst))
        | some f =>
          let c := consts (arg % 2 ^ 14)
          match if f.cls = 3 then some (c.map BitVec.toNat) else utf8Decode c.length c with
          | none => .error (i, (3, dst))
          | some v => match fitTo e f v with
            | .error r => .error (i, (r, dst))
            | .ok v => next (o.set e p cap dst f v)
      | 3 => next (setFrom e p cap vs o src dst (fun s f v => funcTo e arg s f v (e.second vs (bits arg 15 4))))
      | 4 => next (o.openGroup e p cap dst)
      | 5 => next (o.closeGroup e p cap dst)
      | 6 => runSteps e p cap vs steps consts k (i + 1 + (if (srcVal vs src).isNone then arg else 0)) o
      | 7 => runSteps e p cap vs steps consts k (i + 1 + (if (srcVal vs src).isSome then arg else 0)) o
      | 8 => if (srcVal vs src).isSome then next (.ok o) else .error (i, (8, src))
      | _ => .error (i, (openReason, dst))

/-! ## A command (R343, R344) -/

/-- The result of a translation: the output, or the failure; and what the result area reports. -/
structure FRes where
  out : Option Bytes
  step : Nat
  id : Nat
  reason : Nat
  off : Nat
  maps : FVal
  deriving DecidableEq, Repr

/-- Program `n` of a generation. -/
def Dev.fmtProg (d : Dev) (gen n : Nat) : Option FProg :=
  let w (i : Nat) : Nat := d.at gen (R.fmteProg + 16 * n + 4 * i)
  if !bitOf (w 0) 31 then none
  else some ⟨bits (w 0) 2 0, bits (w 0) 5 3, if bitOf (w 0) 6 then some (d.fmtConst gen (bits (w 3) 13 0)) else none,
    bits (w 1) 11 0, bits (w 1) 23 12, bits (w 2) 13 0, bits (w 2) 26 16⟩

/-- Parse the input and run the program (R341). -/
def Dev.translate (d : Dev) (gen cap : Nat) (p : FProg) (input : Bytes) : FRes :=
  let e := d.fmtEnv gen
  match e.parse p.src p.srcRoot p.ns input with
  | .error x => ⟨none, 0xFFFF, x.id, x.reason, input.length - x.left, if p.src < 3 then x.maps else []⟩
  | .ok f =>
    let maps := if p.src < 3 then f.maps else []
    let steps (i : Nat) : Nat × Nat := (d.at gen (R.fmteStep + 8 * i), d.at gen (R.fmteStep + 8 * i + 4))
    match runSteps e p cap f.vals steps (d.fmtConst gen) (p.count + 1) p.first ⟨[], [], [], [], false, false, 0⟩ with
    | .error (i, r, id) => ⟨none, i, id, r, input.length, maps⟩
    | .ok b => ⟨some b, 0xFFFF, noId, 0, input.length, maps⟩

/-- The 32 bytes of the result area. -/
def FRes.area (r : FRes) : Bytes :=
  leBytes 4 ((r.out.map List.length).getD 0) ++ leBytes 2 r.step ++ leBytes 2 r.id ++ leBytes 1 r.reason ++ [0, 0, 0]
    ++ leBytes 4 r.off ++ slice (r.maps.map (BitVec.ofNat 8)) 0 16

end Sys2Proof.Machine
end

