-- ==== Sys2Proof/Machine/FormatPool.lean ====
section
/-! DEFINITION. The format pool (R328, R343 to R348): commands, the arbiter, cross-checks, engines and their retirement. -/

namespace Sys2Proof.Machine

/-- A counter of the format pool. -/
def Dev.fmtCount (d : Dev) (i : Nat) : Dev := d.bump (R.fmteCnt + 4 * i)

/-- Format engine `e`. -/
def Dev.fmtEng (d : Dev) (e : Nat) : FmtEng := d.fmt.engs.getD e (FmtEng.init 17)

/-- Set format engine `e`. -/
def Dev.setFmtEng (d : Dev) (e : Nat) (v : FmtEng) : Dev := d.onFmt (fun p => { p with engs := p.engs.set e v })

/-- The ACTIVE format engines, rising. -/
def Dev.activeFmt (d : Dev) : List Nat := (List.range 18).filter (fun e => (d.fmtEng e).state = .active)

/-! ## Commands -/

/-- Byte 17: the program. -/
def Job.prog (j : Job) : Nat := j.get 17 1

/-- VALIDATE writes no output. -/
def Job.validates (j : Job) : Bool := j.op4 = 1

/-- The result pointer is valid under R285. -/
def Dev.fmtResOk (d : Dev) (j : Job) : Bool :=
  let p := j.ptr 48
  !d.ptrForeign p 32 && p.inSpace 32 && !d.ptrNotHeld j.owner p

/-- A format command completes with a code, and its result area is written (R344). -/
def Dev.fmtEnd (d : Dev) (n : Nat) (j : Job) (code : Nat) (r : FRes) : Dev :=
  let d := if d.fmtResOk j then d.ptrWrite j (j.ptr 48) r.area else d
  let d := if code = Code.failFormat then (d.fmtCount 1).bump (R.fmteReason + 4 * (r.reason - 1))
    else if code = Code.failEmpty then d.fmtCount 4 else if code = Code.ok then d.fmtCount 0 else d
  d.finishJob n code 0

/-- The result of a command that was not translated. -/
def FRes.none (reason : Nat) : FRes := ⟨Option.none, 0xFFFF, noId, reason, 0, []⟩

/-- The pointers of a format command. -/
def Job.fmtPtrs (j : Job) : List (Ptr × Nat) :=
  [(j.ptr 32, j.inLen), (j.ptr 48, 32)] ++ (if j.op4 = 0 then [(j.ptr 40, j.outLen)] else [])

/-- A format command's code when the pool takes it, with the reason of a FAIL_FORMAT. -/
def Dev.fmtCheck (d : Dev) (j : Job) : Nat × Nat :=
  let c := d.cmdCheck j j.fmtPtrs false
  if c ≠ Code.ok then (c, 0)
  else
    let prog := d.fmtProg j.gen j.prog
    let bx := match prog with | some p => p.src = 4 | none => false
    if bx && 3 ≤ j.inLen && (d.ptrBytes j (j.ptr 32) 3).drop 2 ≠ [1] then (Code.versionMismatch, 0)
    else
      let cap : Bool := if j.validates then j.outLen = 0 && j.get 40 8 = 0 else 16 ≤ j.outLen && j.outLen ≤ 65536
      if 1 < j.op4 || j.get 16 1 / 16 ≠ 0 || j.get 18 6 ≠ 0 || j.get 56 8 ≠ 0 || prog.isNone || 65536 < j.inLen || !cap then
        (Code.reserved, 0)
      else if d.ptrPoisoned (j.ptr 32) j.inLen then (Code.poisoned, 0)
      else if j.inLen = 0 then (Code.failFormat, 1)
      else if d.activeFmt = [] then (Code.failEmpty, 0)
      else (Code.ok, 0)

/-- The pool takes a command whose op satisfies `mine`. -/
def Dev.fmtAdmit (d : Dev) (n : Nat) (mine : Nat → Bool) : Dev :=
  match d.job n with
  | some j =>
    if !d.serving || j.phase ≠ .queued || j.unit ≠ 1 || !mine j.op4 || !d.mayTakeJob n j then d
    else
      let d := d.unqueue n j
      match d.fmtCheck j with
      | (0, _) => (d.setJob n { j with phase := .running }).onFmt (fun p => { p with queue := p.queue ++ [⟨n, [], []⟩] })
      | (c, r) => (if c = Code.poisoned then d.countPtrs [(j.ptr 32, j.inLen)] else d).fmtEnd n j c (FRes.none r)
  | none => d

/-- TRANSLATE (R343); a command with a reserved op is taken here too. -/
def execFmtTranslate (job : Nat) (s : State) : Host.Outcome State Fault Refusal :=
  s.run (fun d => d.fmtAdmit job (fun op => op ≠ 1))

/-- VALIDATE (R343). -/
def execFmtValidate (job : Nat) (s : State) : Host.Outcome State Fault Refusal :=
  s.run (fun d => d.fmtAdmit job (fun op => op = 1))

/-! ## The arbiter (R346) -/

/-- The engine a job goes to: the active one with the fewest jobs. -/
def Dev.chooseFmt (d : Dev) (it : FmtItem) : Option Nat :=
  argMin (fun e => (d.fmtEng e).jobs.length)
    (d.activeFmt.filter (fun e => (d.fmtEng e).jobs.length < 2 && !it.banned.contains e))

/-- FORMAT_DISPATCH: the oldest job for which an engine has room goes to engine `e`, if that is the one chosen. -/
def Dev.fmtDispatch (d : Dev) (e : Nat) : Dev :=
  match takeFirst (fun it => (d.chooseFmt it).isSome) d.fmt.queue with
  | some (it, rest) =>
    if d.chooseFmt it ≠ some e || !d.serving then d
    else
      let v := d.fmtEng e
      (d.onFmt (fun p => { p with queue := rest })).setFmtEng e { v with jobs := v.jobs ++ [it] }
  | none => d

/-- FORMAT_DISPATCH (R346). -/
def execFormatDispatch (eng : Nat) (s : State) : Host.Outcome State Fault Refusal := s.run (fun d => d.fmtDispatch eng)

/-! ## Retirement (R348) -/

/-- The incident code of a cause. -/
def fmtCauseCode (cause : Nat) : Nat :=
  if cause = 1 || cause = 4 then Code.failFormat else if cause = 2 then Code.timeout else Code.orphaned

/-- The record and the count of a format engine's retirement (R348). -/
def Dev.fmtRetired (d : Dev) (e cause moved : Nat) (spare : Option Nat) : Dev :=
  (d.bump R.fmteRetireCnt).incident 16 (fmtCauseCode cause) 0x101 (e + spare.getD 0x1F * 2 ^ 8 + cause * 2 ^ 16) moved

/-- A format engine is retired; its jobs return to the head of the queue and the next spare starts. -/
def Dev.retireFmt (d : Dev) (e cause : Nat) : Dev :=
  let v := d.fmtEng e
  if v.state ≠ .active then d
  else
    let spare := (List.range 18).find? (fun x => (d.fmtEng x).state = .spare)
    let d := d.setFmtEng e { v with state := .retired, cause := cause, jobs := [] }
    let d := (d.onFmt (fun p => { p with queue := v.jobs ++ p.queue })).bumpBy (R.fmteCnt + 8) v.jobs.length
    let d := match spare with | some x => d.setFmtEng x { d.fmtEng x with state := .starting } | none => d
    d.fmtRetired e cause v.jobs.length spare

/-! ## Completion (R344, R347) -/

/-- The translation stands: output and result area are written in one step. -/
def Dev.fmtWrite (d : Dev) (n : Nat) (j : Job) (sound : Bool) : Dev :=
  match d.fmtProg j.gen j.prog with
  | none => d.fmtEnd n j Code.reserved (FRes.none 0)
  | some p =>
    let r := d.translate j.gen (if j.validates then 65536 else j.outLen) p (d.ptrBytes j (j.ptr 32) j.inLen)
    match r.out with
    | none => d.fmtEnd n j Code.failFormat r
    | some b =>
      -- an engine that errs undetected leaves output that is open
      let b' := if sound then b else (List.range b.length).map (fun i => Config.freeByte d.free i)
      let d := if sound then d else d.freeStep
      (if j.validates then d else d.ptrWrite j (j.ptr 40) b').fmtEnd n j Code.ok r

/-- No majority (R347). -/
def Dev.fmtDisagree (d : Dev) (n : Nat) (j : Job) : Dev := (d.fmtCount 3).fmtEnd n j Code.failFormat (FRes.none 13)

/-- A run of a cross-checked command has ended. -/
def Dev.fmtRun (d : Dev) (n : Nat) (j : Job) (it : FmtItem) : Dev :=
  let again (d : Dev) : Dev := d.onFmt (fun p => { p with queue := { it with banned := it.runs.map Prod.fst } :: p.queue })
  match it.runs with
  | [_] => again d
  | [a, b] =>
    if a.2 && b.2 then d.fmtWrite n j true
    else if d.activeFmt.length < 3 then d.fmtDisagree n j
    else again d
  | rs =>
    if 2 ≤ (rs.filter Prod.snd).length then
      ((rs.filter (fun r => !r.2)).foldl (fun d r => d.retireFmt r.1 4) d).fmtWrite n j true
    else d.fmtDisagree n j

/-- FORMAT_JOB_COMPLETE: the running job of engine `e` ends; `sound` says whether the engine worked correctly. -/
def Dev.fmtComplete (d : Dev) (e : Nat) (sound : Bool) : Dev :=
  let v := d.fmtEng e
  match v.jobs with
  | [] => d
  | it :: rest =>
    if v.state ≠ .active || !d.serving then d
    else
      let d := d.setFmtEng e { v with jobs := rest }
      match d.job it.job with
      | none => d
      | some j =>
        if bitOf (d.at j.gen R.fmteCfg) 0 then d.fmtRun it.job j { it with runs := it.runs ++ [(e, sound)] }
        else d.fmtWrite it.job j sound

/-- FORMAT_JOB_COMPLETE (R344). -/
def execFormatJobComplete (eng : Nat) (sound : Bool) (s : State) : Host.Outcome State Fault Refusal :=
  s.run (fun d => d.fmtComplete eng sound)

/-- FORMAT_JOB_TIMEOUT (R348 cause 2). -/
def execFormatJobTimeout (eng : Nat) (s : State) : Host.Outcome State Fault Refusal :=
  s.run (fun d => if (d.fmtEng eng).jobs = [] then d else d.retireFmt eng 2)

/-- FORMAT_KAT: the known-answer translation that is due (R348 cause 1). -/
def Dev.fmtKat (d : Dev) (e : Nat) (pass : Bool) : Dev :=
  let v := d.fmtEng e
  if !d.serving || v.state ≠ .active || d.drip.now < v.lastKat + d.liveFld R.fmteCfg 16 1 * 1024 then d
  else if pass then d.setFmtEng e { v with lastKat := d.drip.now }
  else d.retireFmt e 1

/-- FORMAT_KAT (R348). -/
def execFormatKat (eng : Nat) (pass : Bool) (s : State) : Host.Outcome State Fault Refusal := s.run (fun d => d.fmtKat eng pass)

/-- FORMAT_SPARE_ACTIVE (R348). -/
def execFormatSpareActive (eng : Nat) (s : State) : Host.Outcome State Fault Refusal :=
  s.run (fun d =>
    let v := d.fmtEng eng
    if v.state = .starting then d.setFmtEng eng { v with state := .active, lastKat := d.drip.now } else d)

/-- A write of FMTE_ENG_CTL (R348 cause 5). -/
def Dev.fmtEngCtl (d : Dev) (m v : Nat) : Dev :=
  d.ownDoorbell m 16 R.fmteEngCtl 6 v (fun d =>
    let e := bits v 4 0
    if 17 < e || (d.fmtEng e).state ≠ .active then d.setPer m R.fmteEngCtlStat Code.reserved
    else (if bitOf v 5 then d.retireFmt e 5 else d).setPer m R.fmteEngCtlStat Code.ok)

/-- FMTE_ENG_RETIRE_REQUEST (R348). -/
def execFmteEngRetireRequest (m eng : Nat) (s : State) : Host.Outcome State Fault Refusal :=
  s.run (fun d => d.fmtEngCtl m (eng % 32 + 32))

end Sys2Proof.Machine
end

