-- ==== Sys2Proof/Machine/Latches.lean ====
section
/-! DEFINITION. The Latch rows (R267 to R277): MOVs that name the ACQ or TRY word, the reads and writes of the host and
the peer, the wait limit and the hold watchdog. -/

namespace Sys2Proof.Machine

/-- A thread acquires through the ACQ word, or with one attempt through the TRY word (R268, R269, R273). -/
def Dev.issueAcquire (d : Dev) (id : Tid) (off : Nat) : Dev :=
  d.issueWith id 0x01 (fun d0 i =>
    if !latchReads i off then d0
    else d0.withOps id i [] 0 i.op (fun d evs b => d.latchEffect id i evs b (fun d => d.advance id i.len)))

/-- A thread writes the ACQ word with a value for which `mine` holds (R274). -/
def Dev.issueRelease (d : Dev) (id : Tid) (mine : Nat → Bool) : Dev :=
  d.issueWith id 0x01 (fun d0 i =>
    if !latchWrites i then d0
    else d0.withOps id i [] 0 i.op (fun d evs b =>
      if mine (latchValue i evs) then d.latchEffect id i evs b (fun d => d.advance id i.len) else d0))

/-- LATCH_ACQUIRE (R269). -/
def execLatchAcquire (id : Tid) (s : State) : Host.Outcome State Fault Refusal :=
  s.run (fun d => d.issueAcquire id 0)

/-- LATCH_TRY (R273). -/
def execLatchTry (id : Tid) (s : State) : Host.Outcome State Fault Refusal :=
  s.run (fun d => d.issueAcquire id 4)

/-- LATCH_RELEASE (R274); a write with a reserved op is taken here too. -/
def execLatchRelease (id : Tid) (s : State) : Host.Outcome State Fault Refusal :=
  s.run (fun d => d.issueRelease id (fun v => v % 4 ≠ 1))

/-- LATCH_FORCE (R274). -/
def execLatchForce (id : Tid) (s : State) : Host.Outcome State Fault Refusal :=
  s.run (fun d => d.issueRelease id (fun v => v % 4 = 1))

/-! ## The wait limit and the hold watchdog -/

/-- The wait of a requester on a Latch whose limit is reached. -/
def Dev.overdueLatch (d : Dev) (tag : Nat) : Option (Nat × LWaiter) :=
  d.latches.findSome? (fun e => (e.2.waiters.find? (fun w => w.tag = tag && w.deadline ≤ d.drip.now)).map
    (fun w => (e.1, w)))

/-- The owner tag of a thread or a master. -/
def whoTag (w : Who) : Nat := match w with | .thread id => ownerTag id | .master m => masterTag m

/-- LATCH_WAIT_TIMEOUT: the wait completes with TIMEOUT (R269, R277). -/
def Dev.latchTimeoutBy (d : Dev) (who : Who) : Dev :=
  match d.overdueLatch (whoTag who) with
  | some (n, w) => (d.latchCount 1).endLatchWait n w Code.timeout
  | none => d

/-- LATCH_WAIT_TIMEOUT (R269). -/
def execLatchWaitTimeout (who : Who) (s : State) : Host.Outcome State Fault Refusal :=
  s.run (fun d => d.latchTimeoutBy who)

/-- LATCH_HOLD_WATCHDOG: one report for each hold (R276). -/
def Dev.holdWatchdog (d : Dev) (n : Nat) : Dev :=
  let l := d.latch n
  if l.state = .held && !l.reported && l.granted + d.latchHold n ≤ d.drip.now then
    ((d.latchCount 9).incident 13 Code.timeout l.holder n (d.latchHold n)).setLatch n { l with reported := true }
  else d

/-- LATCH_HOLD_WATCHDOG (R276). -/
def execLatchHoldWatchdog (latch : Nat) (s : State) : Host.Outcome State Fault Refusal :=
  s.run (fun d => d.holdWatchdog latch)

/-! ## Host and peer (R277) -/

/-- The host and the peer reach the Latches while the device is in service. -/
def Dev.latchMaster (d : Dev) (m : Nat) : Bool := (m = 3 || m = 4) && d.serving

/-- The Latch a master's accesses name. -/
def Dev.hostLatch (d : Dev) (m : Nat) : Nat := bits (d.per m R.ltchHostSel) 11 0

/-- A read of LTCH_HOST_ACQ or LTCH_HOST_TRY: the code is the data read, at once or when the wait ends. -/
def Dev.hostAcquire (d : Dev) (m : Nat) (try_ : Bool) : Dev :=
  let n := d.hostLatch m
  match d.latchAcquire n (masterTag m) (d.drip.now + Nat.min (d.latchTimeout n) 16) try_ with
  | (some code, d) => d.onCsr (fun c => { c with rdata := spSet 0 c.rdata m (w32 code) })
  | (none, d) => d

/-- A write of `v` to LTCH_HOST_REL: its outcome stands in LTCH_HOST_RSTAT. -/
def Dev.hostRelease (d : Dev) (m v : Nat) : Dev :=
  d.doorbell m R.ltchHostRel [3, 4] 2 v (fun d =>
    let (code, d) := d.latchRelease (d.hostLatch m) (masterTag m) v
    d.setPer m R.ltchHostRstat code)

/-- HOST_LATCH_ACQUIRE. -/
def execHostLatchAcquire (m : Nat) (s : State) : Host.Outcome State Fault Refusal :=
  s.run (fun d => if d.latchMaster m then d.hostAcquire m false else d)

/-- HOST_LATCH_TRY. -/
def execHostLatchTry (m : Nat) (s : State) : Host.Outcome State Fault Refusal :=
  s.run (fun d => if d.latchMaster m then d.hostAcquire m true else d)

/-- HOST_LATCH_RELEASE. -/
def execHostLatchRelease (m : Nat) (s : State) : Host.Outcome State Fault Refusal :=
  s.run (fun d => d.hostRelease m 0)

/-- HOST_LATCH_FORCE: it completes with NOT_OWNER. -/
def execHostLatchForce (m : Nat) (s : State) : Host.Outcome State Fault Refusal :=
  s.run (fun d => d.hostRelease m 1)

end Sys2Proof.Machine
end

