-- ==== Sys2Proof/Machine/Views.lean ====
section
/-! DEFINITION. Views (R59 to R61, R522): requests, releases and captures. -/

namespace Sys2Proof.Machine

/-- A view buffer. -/
def Dev.view (d : Dev) (v : Nat) : ViewBuf := spGet ViewBuf.init d.drip.views v

/-- Change a view buffer. -/
def Dev.setView (d : Dev) (v : Nat) (b : ViewBuf) : Dev := d.onDrip (fun p => { p with views := spSet ViewBuf.init p.views v b })

/-- A write of DRIP_VIEW_REQ (R56, R61): bits [1:0] the buffer, bit 2 release, bits [15:8] the delay. -/
def Dev.viewReq (d : Dev) (m val : Nat) : Dev :=
  let off := R.dripViewReq
  d.ownDoorbell m 1 off 16 (val % 2 ^ 32) (fun d =>
    let v := bits val 1 0
    let b := d.view v
    let mine := b.state ≠ .free && b.holder = m
    if bits val 7 3 ≠ 0 then d.reservedCsr m off
    else if bitOf val 2 then if mine then d.setView v ViewBuf.init else d.refuse m off Code.notHolder
    else if b.state ≠ .free && !mine then d.refuse m off Code.notHolder
    else if b.state = .pending then d.refuse m off Code.reserved
    else d.setView v ⟨.pending, m, d.drip.now + 1 + bits val 15 8⟩)

/-- VIEW_REQUEST (R61). -/
def execViewRequest (m buf delay : Nat) (s : State) : Host.Outcome State Fault Refusal :=
  s.run (fun d => if buf < 4 && delay < 256 then d.viewReq m (buf + delay * 2 ^ 8) else d)

/-- VIEW_RELEASE (R61). -/
def execViewRelease (m buf : Nat) (s : State) : Host.Outcome State Fault Refusal :=
  s.run (fun d => if buf < 4 then d.viewReq m (buf + 4) else d)

/-- A buffer's capture falls at this boundary; there are four buffers. -/
def Dev.captureDue (d : Dev) (v : Nat) : Bool :=
  v < 4 && d.serving && (d.view v).state = .pending && (d.view v).drip = d.drip.now

/-- The buffer becomes READY, and its holder is told (R454). -/
def Dev.viewReady (d : Dev) (v : Nat) : Dev :=
  let b := d.view v
  (d.setView v { b with state := .ready }).viewPost v b.holder

/-- VIEW_CAPTURE (R59): the buffer keeps the device as it stands at its boundary; what the device has sent out is no part
of a view. -/
def execViewCapture (buf : Nat) (s : State) : Host.Outcome State Fault Refusal :=
  if s.dev.captureDue buf then
    .next { s with dev := s.dev.viewReady buf, copies := spPut s.copies buf { s.dev with out := [] } }
  else .next s

end Sys2Proof.Machine
end

