-- ==== Sys2Proof/Machine/CsrRead.lean ====
section
/-! DEFINITION. Reads of the CSR window (R7, R8, R60, R388, R430, R451, R515, R519, R522). -/

namespace Sys2Proof.Machine

/-! ## Records the host interface shows -/

/-- The 32 bytes of an incident record (R455). -/
def Incident.bytes (i : Incident) : Bytes :=
  leBytes 7 i.drip ++ leBytes 1 i.block ++ leBytes 1 i.code ++ leBytes 1 (b2n i.mirrored) ++ leBytes 2 i.actor
    ++ leBytes 4 i.arg0 ++ leBytes 4 i.arg1 ++ leBytes 4 i.serial ++ leBytes 8 i.time

/-- Word `w` of entry `i` of the incident queue; an entry nothing has been written to reads 0. -/
def Dev.incWord (d : Dev) (i w : Nat) : Nat :=
  match spFind d.host.incRing i with | some r => leAt r.bytes (4 * w) 4 | none => 0

/-- The messages the host sees in the up mailbox (R453). -/
def Dev.upMsgs (d : Dev) : List Msg :=
  if bitOf (d.live R.hostCfg) 16 then d.chan 0 (d.liveFld R.hostCfg 15 8) else []

/-! ## Numbers of states -/

/-- The state of a group's other bank as DRIP_GRP_STAT shows it. -/
def OtherBank.num : OtherBank → Nat | .staged => 0 | .trailing => 1 | .catchup => 2
/-- The state of a slot. -/
def SlotState.num : SlotState → Nat | .free => 0 | .opened => 1 | .armed => 2 | .sealed => 3 | .waiting => 4 | .done => 5
/-- The state of a view buffer. -/
def ViewState.num : ViewState → Nat | .free => 0 | .pending => 1 | .ready => 2
/-- The state of a thread (R180). -/
def TState.num : TState → Nat | .idle => 0 | .ready => 1 | .waiting => 2 | .parked => 3 | .halted => 4
/-- The wait of a thread as GALL_THR_STAT shows it; a wait for a unit's answer within an instruction is an operand stall. -/
def WaitKind.num : WaitKind → Nat
  | .none => 0 | .wfe => 1 | .waittD => 2 | .waittC => 2 | .chsend => 3 | .chrecv => 4 | .hwait => 5 | .hcmd => 5
  | .sess => 5
  | .latch => 6 | .tend => 7
/-- The state of an engine (R327). -/
def EngState.num : EngState → Nat | .active => 0 | .spare => 1 | .retired => 2 | .starting => 3

/-- The word of GALL_THR_STAT of thread `t` of logical core `l` of gallery `g`. -/
def Dev.thrStat (d : Dev) (g l t : Nat) : Nat :=
  match d.tidAt g l t with
  | none => 0
  | some id =>
    let x := d.thr id
    x.state.num + (if x.state = .waiting then x.wait.kind.num else 0) * 2 ^ 3 + b2n x.killed * 2 ^ 6 + b2n (d.isKeeper id) * 2 ^ 7
      + x.rgen * 2 ^ 16

/-- The word of GALL_CORE_MAP: a logical core that no physical core carries reads 15. -/
def Dev.coreMapWord (d : Dev) (g : Nat) : Nat :=
  (List.range 8).foldl (fun n i => let p := (d.gal g).coreMap.getD i 9; n + (if p < 9 then p else 15) * 16 ^ i) 0

/-- The word of GALL_CORE_STAT. -/
def Dev.coreStatWord (d : Dev) (g : Nat) : Nat :=
  let G := d.gal g
  let sp := if G.spare < 9 then G.spare else 15
  G.retired.eraseDups.foldl (fun n p => n + 2 ^ p) 0 + sp * 2 ^ 12 + (G.coreMap.filter (fun p => p < 9)).length * 2 ^ 16

/-- Word `w` of the record of a key slot (R307). -/
def Dev.slotWordAt (d : Dev) (n w : Nat) : Nat :=
  match d.keySlot n with
  | none => 0
  | some k => match w with
    | 0 => (if k.suspended then 2 else 1) + k.alg * 2 ^ 8 + k.policy * 2 ^ 16
    | 1 => k.keyId % 2 ^ 32
    | 2 => k.keyId / 2 ^ 32
    | 3 => k.limit
    | 5 => k.count % 2 ^ 32
    | 6 => k.count / 2 ^ 32
    | _ => 0

/-- The thread a master's DBUG_SEL names. -/
def Dev.dbugThread (d : Dev) (m : Nat) : Option Tid :=
  let w := d.per m R.dbugSel
  d.tidAt (bits w 3 0) (bits w 6 4) (bits w 9 7)

/-- An op of the debugger has not taken effect on the thread: a HALT before the end of its instruction, a STEP before its
instruction has run, or has begun to wait (R517). -/
def Thread.debugLate (t : Thread) : Bool := t.haltReq || (t.stepping && t.state = .ready)

/-- The last op of a master has not taken effect (R517). -/
def Dev.dbugBusy (d : Dev) (m : Nat) : Bool :=
  match spFind d.cores.halting m with | some id => (d.thr id).debugLate | none => false

/-- The code DBUG_STAT shows a master: OK once an op that it waited for has taken effect. -/
def Dev.dbugCode (d : Dev) (m : Nat) : Nat :=
  if (spFind d.cores.halting m).isSome && !d.dbugBusy m then Code.ok else bits (d.per m R.dbugStat) 15 8

/-- What HLTH_GPIO_IN senses (R481): the level an output drives; what stands on any other pin is open. -/
def Dev.gpioIn (d : Dev) : Nat :=
  (List.range 16).foldl (fun n i =>
    let driven := bitOf (d.io R.hlthGpioDir) i && !spGet false d.hlth.highZ i
    n + (if driven then d.ioFld R.hlthGpioOut i i else bits d.freeVal i i) * 2 ^ i) 0

/-! ## Registers whose value is formed at the read -/

/-- Word `i` of a register of consecutive copies from `base`, if `o` is one of the first `n`. -/
def idxOf (base stride n o : Nat) : Option Nat :=
  if base ≤ o && (o - base) % stride = 0 && (o - base) / stride < n then some ((o - base) / stride) else none

/-- Registers of DRIP (chapter 02). While a view buffer is PENDING, DRIP_VIEW_DLO and DRIP_VIEW_DHI read the drip its capture is set
for (assumption 49). -/
def Dev.dripReg (d : Dev) (o : Nat) : Option Nat :=
  if o = R.dripNowLo then some (d.drip.now % 2 ^ 32)
  else if o = R.dripGenLast then some d.drip.gen
  else if o = R.dripStageq then some d.queueUsed
  else if let some g := idxOf R.dripGrpLive 4 32 o then some (d.group g).genLive
  else if let some g := idxOf R.dripGrpTrail 4 32 o then some (d.group g).genOther
  else if let some g := idxOf R.dripGrpStat 4 32 o then
    let G := d.group g
    some (G.other.num + b2n G.liveB * 4 + b2n (groupBits.contains g && d.groupSealed g) * 8)
  else if R.dripCsMask ≤ o && o < R.dripCsMask + 0x200 then
    let v := d.slot ((o - R.dripCsMask) / 0x20)
    some (match (o - R.dripCsMask) % 0x20 / 4 with
      | 0 => v.mask
      | 1 => v.target % 2 ^ 32
      | 2 => v.target / 2 ^ 32 % 2 ^ 24 + v.waitLimit * 2 ^ 24
      | 4 => v.state.num + v.holder * 2 ^ 4 + v.code * 2 ^ 8 + v.detail * 2 ^ 16
      | 5 => v.gen
      | 6 => v.loc
      | _ => 0)
  else if let some v := idxOf R.dripViewStat 4 4 o then some ((d.view v).state.num + (d.view v).holder * 2 ^ 4)
  else if let some v := idxOf R.dripViewDlo 8 4 o then some ((d.view v).drip % 2 ^ 32)
  else if let some v := idxOf R.dripViewDhi 8 4 o then some ((d.view v).drip / 2 ^ 32)
  else none

/-- Registers of the blocks from PARS to LTCH. -/
def Dev.midReg (d : Dev) (m o : Nat) (view : Bool) : Option Nat :=
  if o = R.parsFragUsed then some d.ingr.frags.length
  else if o = R.fwdtEntries then some (d.fwd.slots.filter (fun e => slotValid e.2)).length
  else if o = R.fwdtLockStat then
    some (match spFind d.fwd.locks (d.per m R.fwdtLockQry) with | some h => 1 + h * 2 | none => 0)
  else if o = R.lodeStat then some (d.ioFld R.lodeStat 17 0 + d.lode.updates.length % 2 ^ 13 * 2 ^ 18)
  else if let some p := idxOf R.lardPoolUse 4 32 o then some (d.poolUse p)
  else if o = R.lardFree then some d.freeCells
  else if o = R.lardReserve then some d.reserve
  else if o = R.lardCellLnkLo || o = R.lardCellLnkHi then
    let i := d.per m R.lardCellQry
    some (if numCells ≤ i then 0 else if o = R.lardCellLnkLo then d.linkEntry i % 2 ^ 32 else d.linkEntry i / 2 ^ 32)
  else if o = R.sessActive then some d.sess.tab.length
  else if let some g := idxOf R.dispGalStat 4 16 o then
    some (d.queuedIn g % 2 ^ 13 + (d.pendingSlots g).length % 2 ^ 7 * 2 ^ 16 + spGet 0 d.disp.orphNext g * 2 ^ 24)
  else if let some n := idxOf R.dispHold 4 2 o then some (d.holdQ n).length
  else if o = R.ltchHostAcq || o = R.ltchHostTry then some (if view then 0 else (spGet 0 d.csr.rdata m).toNat)
  else if let some n := idxOf R.ltchStat 4 4096 o then some (d.latchStatus n)
  else none

/-- Registers of the galleries (chapter 07). -/
def Dev.gallReg (d : Dev) (o : Nat) : Option Nat :=
  let g := (o - R.gallCoreMap) / 0x40000
  let x := o - 0x40000 * g
  if o < R.gallCoreMap || 15 < g then none
  else if x = R.gallCoreMap then some (d.coreMapWord g)
  else if x = R.gallCoreStat then some (d.coreStatWord g)
  else if x = R.gallStill then
    some ((d.gal g).still.foldl (fun n e => if e.2.bit then n + 2 ^ e.1 else n) 0)
  else if let some k := idxOf R.gallThrStat 4 64 x then some (d.thrStat g (k / 8) (k % 8))
  else if let some c := idxOf R.gallChanStat 4 256 x then
    some ((d.chan g c).length + (d.senders g c).length * 2 ^ 3)
  else none

/-- Registers of the engines, the Cellarbook and egress (chapters 04, 12, 13, 14). -/
def Dev.poolReg (d : Dev) (m o : Nat) : Option Nat :=
  if o = R.sealPoolStat then
    some (d.activeEngs.length + ((List.range 104).filter (fun e => (d.eng e).state = .spare)).length * 2 ^ 8
      + (d.pool.adj.length + d.pool.queue.length) % 2 ^ 12 * 2 ^ 16)
  else if o = R.sealHashStat then some (32 - d.pool.hashFenced.length)
  else if let some w := idxOf R.sealSlotW 4 8 o then some (d.slotWordAt (d.per m R.sealSlotQry) w)
  else if let some e := idxOf R.sealEngStat 4 104 o then
    let v := d.eng e
    some (v.state.num + v.jobs.length % 4 * 2 ^ 2 + v.cause * 2 ^ 4 + b2n v.hs * 2 ^ 8)
  else if let some w := idxOf R.sealXportPub 4 392 o then some (leAt (Config.transportKey d.pool.owner) (4 * w) 4)
  else if o = R.fmtePoolStat then
    some (d.activeFmt.length + ((List.range 18).filter (fun e => (d.fmtEng e).state = .spare)).length * 2 ^ 8
      + d.fmt.queue.length % 2 ^ 11 * 2 ^ 16)
  else if let some e := idxOf R.fmteEngStat 4 18 o then
    let v := d.fmtEng e
    some (v.state.num + v.jobs.length % 4 * 2 ^ 2 + v.cause * 2 ^ 4)
  else if o = R.bookWpLo then some (d.book.wp % 2 ^ 32)
  else if o = R.bookWpHi then some (d.book.wp / 2 ^ 32)
  else if o = R.bookExpLo then some (d.book.exp % 2 ^ 32)
  else if o = R.bookExpHi then some (d.book.exp / 2 ^ 32)
  else if o = R.egrsWaiting then some (d.egrs.waiting.filter (fun e => e.pkt.isSome)).length
  else if o = R.egrsDomNext then
    let x := d.per m R.egrsDomQry
    some (d.nextSeq x + b2n (spFind d.egrs.holes x).isSome * 2 ^ 24)
  else none

/-- Registers of the host interface and the debugger (chapters 18 and 21). -/
def Dev.hostReg (d : Dev) (m o : Nat) : Option Nat :=
  if let some w := idxOf R.hostMboxUp 4 16 o then
    some (match d.upMsgs with | x :: _ => leAt x.data (4 * w) 4 | [] => 0)
  else if o = R.hostMboxUpStat then some d.upMsgs.length
  else if o = R.hostIncWp then some d.host.incWp
  else if let some k := idxOf R.hostIncEnt 4 32768 o then some (d.incWord (k / 8) (k % 8))
  else if o = R.dbugStat then
    let st := match d.dbugThread m with | some id => (d.thr id).state.num | none => 0
    some (b2n (d.dbugBusy m) + st * 2 + d.dbugCode m * 2 ^ 8)
  else if o = R.hlthGpioIn then some d.gpioIn
  else if o = R.dbugPc then
    some (match d.dbugThread m with
      | some id => let t := d.thr id; if t.state = .halted || t.state = .parked then t.pc.toNat else 0
      | none => 0)
  else none

/-- The value of a register that is formed at the read by master `m`. -/
def Dev.formedReg (d : Dev) (m o : Nat) (view : Bool) : Option Nat :=
  if o < 0x200000 then d.dripReg o
  else if o < 0x3800000 then d.midReg m o view
  else if o < 0x4000000 then d.gallReg o
  else if o < 0x5800000 then d.poolReg m o
  else d.hostReg m o

/-! ## Reads -/

/-- The minor version that adds a register of the host interface (R451). -/
def hostSince (o : Nat) : Nat :=
  if o = R.hostMsixMod then 1
  else if o = R.hostExpAckLo || o = R.hostExpAckHi then 3
  else if R.hostExpBaseLo ≤ o && o < R.hostExpBaseLo + 0x30 then 2
  else 0

/-- The register belongs to a feature above the selected version (R451). -/
def Dev.hostHidden (d : Dev) (o : Nat) : Bool := d.hostMinor < hostSince o

/-- The bits of a register kept in its own word: all but ST and WO fields. -/
def storedBits (a : Access) : Bool := a != .st && a != .wo

/-- The value of the register at `o` for master `m`; in a view an ST field shows its LIVE value (R59). -/
def Dev.regValue (d : Dev) (m o : Nat) (view : Bool) : Nat :=
  if !d.blockOpen o || d.hostHidden o then 0
  else match d.formedReg m o view with
    | some v => v % 2 ^ 32
    | none => match regAt o with
      | none => 0
      | some r =>
        let own := if r.perMaster then d.per m o else d.io o
        let st := if view then d.live o else d.staged o
        let stm := if R.ciphSaSak ≤ o && o < R.ciphSaSak + 0x80 * 1024 && 0x20 ≤ o % 0x80 && o % 0x80 < 0x40 then 0
          else r.maskOf (fun a => a == .st)
        ((w32 own &&& r.maskOf storedBits) ||| (w32 st &&& stm)).toNat

/-- The word of STRG space at an offset; blocks other than GCTL and LOAD read 0 until Survey ends (R430). -/
def Dev.strgValue (d : Dev) (o : Nat) : Nat := if d.serving && d.strong.powered then d.strgWord o else 0

/-- The bits of a register that a read clears. -/
def Dev.clearRc (d : Dev) (o : Nat) : Dev :=
  match regAt o with
  | some r => d.setIo o (w32 (d.io o) &&& ~~~(r.maskOf (fun a => a == .rc))).toNat
  | none => d

/-- Note the word a master's read returned. -/
def Dev.answer (d : Dev) (m v : Nat) : Dev := d.onCsr (fun c => { c with rdata := spSet 0 c.rdata m (w32 v) })

/-- A read of one word by master `m` (R515), below the view alias: RC fields clear, the _LO reads latch, and the Latch
registers acquire (R277). -/
def Dev.csrRead (d : Dev) (m o : Nat) : Dev :=
  if o % 4 ≠ 0 then d
  else if 0xF000000 ≤ o then
    let x := o - 0xF000000
    let hi := (spGet 0 d.strong.timeLatch m).toNat
    let d := if x = 0x30 then d.strongPass else d
    if x = 0x30 then (d.answer m (d.strgValue 0x30)).onStrong (fun s =>
      { s with timeLatch := spSet 0 s.timeLatch m (w32 (d.strgValue 0x34)) })
    else d.answer m (if x = 0x34 then hi else d.strgValue x)
  else if o = R.ltchHostAcq && d.latchMaster m then d.hostAcquire m false
  else if o = R.ltchHostTry && d.latchMaster m then d.hostAcquire m true
  else
    let e := d.answer m (d.regValue m o false)
    let e := if o = R.hlthGpioIn then e.freeStep else e
    let e := if d.blockOpen o && !d.hostHidden o then e.clearRc o else e
    if o = R.dripNowLo && d.serving then e.setPer m R.dripNowHi (d.drip.now / 2 ^ 32) else e

/-- What a read of a word of the view alias returns (R60, R522): the captured value of the buffer the master selects. -/
def State.viewRead (s : State) (m o : Nat) : Nat :=
  let d := s.dev
  let v := d.ioFld (R.dripViewSel + 4 * m) 1 0
  match spFind s.copies v with
  | some c =>
    if (d.view v).state ≠ .ready then 0
    else if 0xF800000 ≤ o then c.strgValue (o - 0xF800000)
    else if o - 0x8000000 = R.dripNowHi then c.drip.now / 2 ^ 32
    else c.regValue m (o - 0x8000000) true
  | none => 0

/-- A read of any word of the window by master `m`. -/
def State.csrRead (s : State) (m o : Nat) : State :=
  let view := (0x8000000 ≤ o && o < 0xF000000) || 0xF800000 ≤ o
  if view then { s with dev := s.dev.answer m (s.viewRead m (o / 4 * 4)) } else { s with dev := s.dev.csrRead m o }

/-- Masters with a path to the window: the head keeper, the host and the peer (R54). -/
def reader (m : Nat) : Bool := 2 ≤ m && m ≤ 4

/-- COUNTER_READ_CLEAR (R8): a read of a register with an RC field. -/
def execCounterReadClear (m addr : Nat) (s : State) : Host.Outcome State Fault Refusal :=
  match regAt addr with
  | some r =>
    if reader m && r.maskOf (fun a => a == .rc) != 0 && !s.dev.noPath m then s.run (fun d => d.csrRead m addr)
    else .next s
  | none => .next s

/-- DRIP_NOW_READ (R29). -/
def execDripNowRead (m : Nat) (s : State) : Host.Outcome State Fault Refusal :=
  s.run (fun d => if reader m && !d.noPath m then d.csrRead m R.dripNowLo else d)

/-- STRG_TIME_READ (R388). -/
def execStrgTimeRead (m : Nat) (s : State) : Host.Outcome State Fault Refusal :=
  s.run (fun d => if reader m && !d.noPath m then d.csrRead m 0xF000030 else d)

end Sys2Proof.Machine
end

