-- ==== Sys2Proof/Machine/Debug.lean ====
section
/-! DEFINITION. The debugger (R517, R518): HALT, RESUME, STEP and KILL of the thread a master selects. -/

namespace Sys2Proof.Machine

/-- A waiting thread is stopped in its wait: it leaves the waiters of a channel, a Latch or a unit's queue, and its PC stays
at the instruction (R249, R272, R287). -/
def Dev.haltWait (d : Dev) (id : Tid) : Dev :=
  let d := (d.leaveSenders id).leaveLatches (ownerTag id)
  let d := d.onHelp (fun h => { h with retries := h.retries.filter (fun r => r.id ≠ id) })
  d.updThr id (fun t => { t with state := .halted, wait := Wait.idle, stepping := false, haltReq := false })

/-- HALT: none where it is not permitted. A thread within an instruction halts after it. -/
def Dev.haltThread (d : Dev) (id : Tid) : Option Dev :=
  let t := d.thr id
  let late := d.updThr id (fun t => { t with haltReq := true })
  match t.state with
  | .idle => some (d.updThr id (fun t => { t with state := .halted }))
  | .ready => some (if t.macroRun.isSome then late else d.updThr id (fun t => { t with state := .halted, stepping := false }))
  | .waiting => some (if t.wait.kind = .sess || t.macroRun.isSome then late else d.haltWait id)
  | _ => none

/-- RESUME: none where it is not permitted. -/
def Dev.resumeThread (d : Dev) (id : Tid) : Option Dev :=
  let t := d.thr id
  if t.state = .halted then
    some (d.updThr id (fun t => { t with state := if t.running || d.isKeeper id then .ready else .idle }))
  else none

/-- STEP: none where it is not permitted. -/
def Dev.stepThread (d : Dev) (id : Tid) : Option Dev :=
  if (d.thr id).state = .halted then some (d.updThr id (fun t => { t with state := .ready, stepping := true })) else none

/-- The effect of an op on a thread, by the table of R517. A HALT or a STEP of the thread that issues it is refused: master 2
is the head keeper. -/
def Dev.dbugEffect (d : Dev) (m op : Nat) (id : Tid) : Option Dev :=
  let self := m = 2 && d.isHead id
  match op with
  | 0 => if self then none else d.haltThread id
  | 1 => d.resumeThread id
  | 2 => if self then none else d.stepThread id
  | _ => if (d.thr id).state = .parked then none else some (d.killThread id)

/-- A write of DBUG_CTL: its code goes to the master's DBUG_STAT when the op has taken effect, until when the master is busy. A set
reserved bit is a reserved write (R9) and answers RESERVED_VALUE (R518), and that code comes before BUSY_RETRY (R12). -/
def Dev.dbugCtl (d : Dev) (m v : Nat) : Dev :=
  d.doorbell m R.dbugCtl [] 32 v (fun d =>
    let busy := d.dbugBusy m
    let d := if busy then d
      else (d.setPer m R.dbugStat (d.dbugCode m * 2 ^ 8)).onCores (fun c => { c with halting := spErase c.halting m })
    let done (d : Dev) (code : Nat) : Dev := d.setPer m R.dbugStat (code * 2 ^ 8)
    if v / 4 ≠ 0 then done (d.reservedCsr m R.dbugCtl) Code.reserved
    else match d.dbugThread m with
      | none => done d Code.reserved
      | some id => match d.dbugEffect m (v % 4) id with
        | none => done d Code.reserved
        | some e =>
          if busy then done d Code.busyRetry
          else if (e.thr id).debugLate then e.onCores (fun c => { c with halting := spPut c.halting m id })
          else done e Code.ok)

/-- HALT (R517). -/
def execDbgHalt (m : Nat) (s : State) : Host.Outcome State Fault Refusal := s.run (fun d => d.dbugCtl m 0)

/-- RESUME (R517). -/
def execDbgResume (m : Nat) (s : State) : Host.Outcome State Fault Refusal := s.run (fun d => d.dbugCtl m 1)

/-- STEP (R517). -/
def execDbgStep (m : Nat) (s : State) : Host.Outcome State Fault Refusal := s.run (fun d => d.dbugCtl m 2)

end Sys2Proof.Machine
end

