-- ==== Sys2Proof/Machine/Dram.lean ====
section
/-! DEFINITION. The DRAM controllers (R399 to R412): training results, errors, scrubbing, self-refresh, scheduling, failed
channels; and the arbiters (R414 to R419). -/

namespace Sys2Proof.Machine

/-! ## Channels -/

/-- Channel `c`. -/
def Dev.dchan (d : Dev) (c : Nat) : Chan := spGet Chan.init d.dctl.chans c

/-- Change channel `c`. -/
def Dev.updChan (d : Dev) (c : Nat) (f : Chan → Chan) : Dev :=
  d.onDctl (fun k => { k with chans := spSet Chan.init k.chans c (f (spGet Chan.init k.chans c)) })

/-- Counter `i` of channel `c` (R413). -/
def Dev.chanCount (d : Dev) (c i : Nat) : Dev := d.bump (chanOff c R.dramChCnt + 4 * i)

/-- Set the state of a channel. -/
def Dev.setChanState (d : Dev) (c v : Nat) : Dev := d.setIoFld (chanOff c R.dramChStat) 2 0 v

/-- The incident record of a mapped-out or failed channel (R401, R412). -/
def Dev.chanIncident (d : Dev) (c cause : Nat) : Dev :=
  d.incident 20 Code.orphaned 0 (c + cause * 2 ^ 4) (d.io (chanOff c R.dramChStat))

/-- A live channel fails (R412): its queues are emptied, since reads complete as poisoned and writes are discarded. -/
def Dev.failChan (d : Dev) (c cause : Nat) : Dev :=
  if !d.serving || 7 < c || !(d.chanState c = 2 || d.chanState c = 4) then d
  else (((d.setChanState c 5).setIoFld (chanOff c R.dramChStat) 7 4 cause).updChan c (fun k => { k with
    subs := [SubCh.init, SubCh.init] })).chanIncident c cause

/-- The widest run of set bits among the `n` lowest of a mask, the lowest of equals: its first bit and its length. -/
def widestRun (n mask : Nat) : Nat × Nat :=
  ((List.range n).foldl (fun (x : (Nat × Nat) × Nat) i =>
    let k := if bitOf mask i then x.2 + 1 else 0
    (if x.1.2 < k then (i + 1 - k, k) else x.1, k)) ((0, 0), 0)).1

/-- The middle of a run, rounded down. -/
def runMid (r : Nat × Nat) : Nat := r.1 + (r.2 - 1) / 2

/-- A lane's setting after a sweep (R400): 128 delay steps by 48 Vref steps. -/
structure LaneFit where
  delay : Nat
  vref : Nat
  width : Nat
  height : Nat
  deriving DecidableEq, Repr

/-- The fit of a sweep: the Vref with the widest passing window, the lowest of equals, gives the delay; the widest passing range
of Vref at that delay gives the Vref. None when nothing passes (R400; assumption 63). -/
def laneFit (sweep : List Nat) : Option LaneFit :=
  let rows := sweep.take 48
  let best := rows.foldl (fun (x : Nat × Nat) m => if x.2 < (widestRun 128 m).2 then widestRun 128 m else x) (0, 0)
  let d := runMid best
  let r := widestRun 48 (((rows.zipIdx.filter (fun x => bitOf x.1 d)).map (fun x => 2 ^ x.2)).foldl (· + ·) 0)
  if best.2 = 0 then none else some ⟨d, runMid r, best.2, r.2⟩

/-- A word of DRAM_TRN. -/
def LaneFit.word (f : LaneFit) : Nat := f.delay + f.vref * 2 ^ 8 + f.width * 2 ^ 16 + f.height * 2 ^ 24

/-- The margin of R399, step 7. -/
def LaneFit.sound (f : LaneFit) : Bool := 16 ≤ f.width && 6 ≤ f.height

/-- What DQ `q` shows in the DQ test (R401): none where it reads what was written; else its kind. -/
def dqKind (l : List (Nat × Nat)) (q : Nat) : Option Nat :=
  let follows (j : Nat) : Bool :=
    l.any (fun x => bitOf x.1 j != bitOf x.1 q) && l.all (fun x => bitOf x.1 j == bitOf x.1 q || bitOf x.2 j == bitOf x.2 q)
  if l.all (fun x => bitOf x.1 q == bitOf x.2 q) then none
  else if l.all (fun x => !bitOf x.2 q) then some 0
  else if l.all (fun x => bitOf x.2 q) then some 1
  else if (List.range 40).any (fun j => j ≠ q && follows j) then some 3
  else some 2

/-- The first deviating DQ: its subchannel, number and kind. -/
def trainFault (t : Training) : Option (Nat × Nat × Nat) :=
  [0, 1].findSome? (fun s => (List.range 40).findSome? (fun q => (dqKind (t.tests.getD s []) q).map (fun k => (s, q, k))))

/-- The fits of `n` lanes. -/
def laneFits (n : Nat) (l : List (List Nat)) : List (Option LaneFit) := (List.range n).map (fun k => laneFit (l.getD k []))

/-- The cause a channel of `n` lanes is mapped out with, the first step that fails; 0: trained (R399). -/
def trainCause (t : Training) (n : Nat) : Nat :=
  let fits := laneFits n t.reads ++ laneFits n t.writes
  if !t.responds then 1 else if !t.caOk then 2 else if !t.leveled || fits.contains none then 3
  else if (trainFault t).isSome then 4
  else if fits.all (fun f => match f with | some f => f.sound | none => false) then 0 else 3

/-- Lanes of a channel. -/
def Dev.laneCount (d : Dev) : Nat := 20 * (d.ioFld R.dramGeom 3 3 + 1)

/-- The words of DRAM_TRN that a sweep leaves, from its word 0 or 1; a lane with no passing point keeps 0. -/
def Dev.recordFits (d : Dev) (ch first : Nat) (l : List (Option LaneFit)) : Dev :=
  l.zipIdx.foldl (fun d x => match x.1 with
    | some f => d.setIo (chanOff ch R.dramTrn + 8 * x.2 + 4 * first) f.word
    | none => d) d

/-- Training of one channel in Survey mode (R399 to R401): the widths and heights of the sweeps it reaches are recorded, and it is
live or mapped out with its cause. -/
def Dev.trainChan (d : Dev) (t : Training) : Dev :=
  let o := chanOff t.ch R.dramChStat
  let n := d.laneCount
  let swept := t.responds && t.caOk && t.leveled
  let d := if swept then d.recordFits t.ch 0 (laneFits n t.reads) else d
  let d := if swept && !(laneFits n t.reads).contains none then d.recordFits t.ch 1 (laneFits n t.writes) else d
  let c := trainCause t n
  if c = 0 then (d.setIo o 2).setIoFld R.dramGeom (16 + t.ch) (16 + t.ch) 1
  else
    let dq := match c, trainFault t with | 4, some (s, q, k) => s * 2 ^ 8 + q * 2 ^ 9 + k * 2 ^ 16 | _, _ => 0
    (d.setIo o (3 + c * 2 ^ 4 + dq)).chanIncident t.ch c

/-- The channels the image populates. -/
def Dev.presentChans (d : Dev) : List Nat := maskBits 8 (d.ioFld R.dramGeom 15 8)

/-- Survey mode starts to train every present channel. -/
def Dev.chansTrain (d : Dev) : Dev := d.presentChans.foldl (fun d c => d.setChanState c 1) d

/-- Every present channel is trained; one of which no result comes has not responded. -/
def Dev.trainChans (d : Dev) (l : List Training) : Dev :=
  d.presentChans.foldl (fun d c =>
    d.trainChan ((l.find? (fun t => t.ch = c)).getD ⟨c, false, false, false, [], [], []⟩)) d

/-- A region has no live channel, or the shares on a live channel exceed its capacity (R396). -/
def Dev.dramShort (d : Dev) : Bool :=
  (List.range 8).any (fun r => (d.region r).size ≠ 0 && (d.region r).chans = []) ||
    (maskBits 8 (d.ioFld R.dramGeom 23 16)).any (fun c => d.chanCap < d.shareBase 8 c)

/-! ## Errors (R406, R407) -/

/-- What the eight groups of a line decode to: a value per group, 0 clean, 1 to 10 the device named, else undecodable. -/
inductive LineVerdict | clean | device (n : Nat) | uncorrectable
  deriving DecidableEq, Repr

/-- The verdict on a line (R406). -/
def lineVerdict (errs : List Nat) : LineVerdict :=
  match errs.filter (fun e => e ≠ 0) with
  | [] => .clean
  | e :: l => if e ≤ 10 && l.all (fun x => x = e) then .device (e - 1) else .uncorrectable

/-- Channel, subchannel, rank and a flag, as incident records of R407 and R408 give them. -/
def Dev.lineArg (d : Dev) (ch ca bit8 : Nat) : Nat := ch + d.subOf ca * 2 ^ 3 + d.rankOf ca * 2 ^ 4 + bit8 * 2 ^ 8

/-- A device corrected once more: counted, and reported once in a pass at the threshold (R408). -/
def Dev.deviceCe (d : Dev) (ch ca dev : Nat) : Dev :=
  let k := 20 * d.rankOf ca + 10 * d.subOf ca + dev
  let o := chanOff ch R.dramDevCe + 4 * k
  let n := Nat.min (d.io o + 1) 0xFFFF
  let d := (d.chanCount ch 0).setIo o n
  if d.liveFld R.dramScrub 23 8 ≤ n && !spGet false (d.dchan ch).told k then
    (d.updChan ch (fun c => { c with told := spSet false c.told k true })).incident 20 Code.poisoned 0
      (d.lineArg ch ca 0 + dev * 2 ^ 12) n
  else d

/-- A line is poisoned from now on. -/
def Dev.poisonLine (d : Dev) (ch ca : Nat) : Dev :=
  match d.dramUnmap ch ca with
  | some a => d.onDmem (fun m => { m with poison := spSet false m.poison (a / 64) true })
  | none => d.updChan ch (fun k => { k with bad := spSet false k.bad (ca / 64) true })

/-- A line turns out uncorrectable (R407): poisoned, counted, recorded; 64 within 1,024 drips fail the channel (R412). -/
def Dev.lineUe (d : Dev) (ch ca reader : Nat) : Dev :=
  let d := d.poisonLine ch ca
  let l := (d.dchan ch).ue.filter (fun t => d.drip.now < t + 1024) ++ [d.drip.now]
  let d := ((d.chanCount ch 1).updChan ch (fun c => { c with ue := l })).incident 20 Code.poisoned (reader % 2 ^ 12)
    (d.lineArg ch ca 1) (bits ca 35 6)
  if 64 ≤ l.length then d.failChan ch 11 else d

/-- A line read, with what its groups decode to. -/
def Dev.lineRead (d : Dev) (ch ca reader : Nat) (errs : List Nat) : Dev :=
  match lineVerdict errs with
  | .clean => d
  | .device n => d.deviceCe ch ca n
  | .uncorrectable => d.lineUe ch ca reader

/-- The line at a channel-local address is poisoned. -/
def Dev.linePoisoned (d : Dev) (ch ca : Nat) : Bool :=
  match d.dramUnmap ch ca with
  | some a => spGet false d.dmem.poison (a / 64)
  | none => spGet false (d.dchan ch).bad (ca / 64)

/-- The session that a read by the session stage fails: the one whose record holds the address, or, in the index behind the
records, the one it was looking for (R127, R407). -/
def Dev.sesAt (d : Dev) (a session : Nat) : Option Nat :=
  if d.sess.base ≤ a && a < d.sess.base + 512 * d.sess.max then some ((a - d.sess.base) / 512)
  else if d.sess.base ≤ a && a < d.sess.base + 528 * d.sess.max then some session
  else none

/-- DRAM_READ_COMPLETE (R406, R407): a read of the line at a DRAM address by a reader, with what its groups decode to. A
poisoned line counts in POISON_READ; the session stage aborts the session whose record or index entry it read. -/
def execDramReadComplete (addr : Nat) (reader : LineReader) (errs : List Nat) (s : State) : Host.Outcome State Fault Refusal :=
  s.run (fun d =>
    match d.dramMap addr with
    | none => d
    | some (ch, ca) =>
      if d.chanState ch ≠ 2 && d.chanState ch ≠ 5 then d
      else
        let bad := d.linePoisoned ch ca || d.chanState ch = 5
        let d := if bad then d.chanCount ch 2 else d.lineRead ch ca reader.tag errs
        if (bad || lineVerdict errs = .uncorrectable) && (reader.tag = 1 || reader.tag = 2) then
          match d.sesAt addr reader.session with | some n => d.abortSes n d.sesGen false none | none => d
        else d)

/-- DRAM_SCRUB_READ (R408): the next line of a live channel; poisoned lines are passed over. -/
def execDramScrubRead (ch : Nat) (errs : List Nat) (s : State) : Host.Outcome State Fault Refusal :=
  s.run (fun d =>
    if 7 < ch || d.chanState ch ≠ 2 then d
    else
      let ca := 64 * (d.dchan ch).scrubAt
      let d := if d.linePoisoned ch ca then d else d.lineRead ch ca 0 errs
      let next := (d.dchan ch).scrubAt + 1
      if 64 * next < d.chanCap then d.updChan ch (fun c => { c with scrubAt := next })
      else
        let d := (d.chanCount ch 3).updChan ch (fun c => { c with scrubAt := 0, told := [] })
        (List.range 40).foldl (fun d k => d.setIo (chanOff ch R.dramDevCe + 4 * k) 0) d)

/-- CHANNEL_FAIL (R412): cause 8 to 11. -/
def execChannelFail (ch cause : Nat) (s : State) : Host.Outcome State Fault Refusal :=
  s.run (fun d => if 8 ≤ cause && cause ≤ 11 then d.failChan ch cause else d)

/-- A lane's measurement is due: none was taken in the last 16,384 drips, or since training or waking (R402, R410). -/
def Dev.oscDue (d : Dev) (ch lane : Nat) : Bool :=
  let t := spGet 0 (d.dchan ch).oscAt lane
  t = 0 || t + 16383 ≤ d.drip.now

/-- DQS_OSC_MEASURE (R402): a lane's drift moves its write delay by at most one step; beyond 8 steps it is reported once,
beyond 16 the channel fails. The record's code is open. -/
def execDqsOscMeasure (ch lane : Nat) (drift : Int) (s : State) : Host.Outcome State Fault Refusal :=
  s.run (fun d =>
    if 7 < ch || d.laneCount ≤ lane || !d.serving || d.chanState ch ≠ 2 || !d.oscDue ch lane then d
    else
      let d := d.updChan ch (fun c => { c with oscAt := spSet 0 c.oscAt lane (d.drip.now + 1) })
      let old := spGet 0 (d.dchan ch).drift lane
      let new := if 0 < drift then old + 1 else if drift < 0 then old - 1 else old
      if 16 < new.natAbs then d.failChan ch 9
      else
        let told := spGet false (d.dchan ch).drifted lane
        let d := d.updChan ch (fun c => { c with drift := spSet 0 c.drift lane new })
        if 8 < new.natAbs && !told then
          ((d.updChan ch (fun c => { c with drifted := spSet false c.drifted lane true })).chanCount ch 9).freeStep.incident 20
            (d.freeVal % 16) 0 ch lane
        else d)

/-! ## Self-refresh (R409, R410, R484) -/

/-- Every region with a share on the channel is parked. -/
def Dev.chanParked (d : Dev) (ch : Nat) : Bool :=
  (List.range 8).all (fun r => !((d.region r).chans.contains ch && 0 < (d.region r).share) || bitOf (d.io (R.dramRgnPark + 16 * r)) 0)

/-- A region has a share on the channel. -/
def Dev.chanShared (d : Dev) (ch : Nat) : Bool := 0 < d.shareBase 8 ch

/-- Idle drips before self-refresh: sr_idle, or 16 from thermal level 2 (R484). -/
def Dev.srIdle (d : Dev) : Nat := if 2 ≤ d.ioFld R.hlthTdie 17 16 then 16 else d.liveFld R.dramSr 15 0

/-- SELF_REFRESH_ENTER (R409). -/
def execSelfRefreshEnter (ch : Nat) (s : State) : Host.Outcome State Fault Refusal :=
  s.run (fun d =>
    let c := d.dchan ch
    let idle := c.subs.all (fun s => s.reads.isEmpty && s.writes.isEmpty)
    if ch ≤ 7 && d.serving && d.chanState ch = 2 && idle && d.chanParked ch && (!d.chanShared ch || c.last + d.srIdle ≤ d.drip.now)
    then d.setChanState ch 4 else d)

/-- SELF_REFRESH_WAKE (R410): a request that waits wakes the channel; every lane is measured anew. -/
def execSelfRefreshWake (ch : Nat) (s : State) : Host.Outcome State Fault Refusal :=
  s.run (fun d =>
    let asked := (d.dchan ch).subs.any (fun q => !q.reads.isEmpty || !q.writes.isEmpty)
    if ch ≤ 7 && d.chanState ch = 4 && asked then
      ((d.setChanState ch 2).chanCount ch 8).updChan ch (fun c => { c with last := d.drip.now, oscAt := [] })
    else d)

/-- The segments of each device that partial-array self-refresh refreshes (R409). -/
def Dev.refreshedSegments (d : Dev) (ch : Nat) : List Nat :=
  (List.range 8).filter (fun s => s * (d.chanCap / 8) < d.shareBase 8 ch)

/-! ## Scheduling (R403 to R405) -/

/-- The time in ns of an event `ns` after the last boundary. -/
def Dev.nsAt (d : Dev) (ns : Nat) : Nat := d.drip.now * (500 * 2 ^ d.ioFld R.dripCfg 1 0) + ns

/-- REFRESH (R405): a rank's all-bank refresh comes due. -/
def execDramRefresh (ch rank : Nat) (s : State) : Host.Outcome State Fault Refusal :=
  s.run (fun d =>
    if ch ≤ 7 && rank ≤ d.ioFld R.dramGeom 3 3 && d.chanState ch = 2 then
      d.updChan ch (fun c => { c with owed := spSet 0 c.owed rank (spGet 0 c.owed rank + 1) })
    else d)

/-- A refresh of a rank is issued: one less owed, its rows closed. -/
def Chan.refresh (c : Chan) (rank : Nat) : Chan :=
  { c with
    owed := spSet 0 c.owed rank (spGet 0 c.owed rank - 1),
    subs := c.subs.map (fun s => { s with rows := s.rows.filter (fun e => e.1 / 32 ≠ rank) }) }

/-- The mode of a subchannel at a command opportunity (R403). -/
def SubCh.mode (s : SubCh) (hi : Nat) : Bool :=
  if s.writing then !s.writes.isEmpty else hi ≤ s.writes.length || (s.reads.isEmpty && !s.writes.isEmpty)

/-- A request a subchannel serves: whether it is a write, and whether it was its age that chose it (R403). -/
structure DramPick where
  write : Bool
  req : DramReq
  aged : Bool
  deriving DecidableEq, Repr

/-- The writes that may be issued: none passes a read of its line that came before it (R404). -/
def SubCh.freeWrites (s : SubCh) : List DramReq := s.writes.filter (fun x => !s.reads.any (fun y => y.line = x.line))

/-- The reads that need an access. -/
def SubCh.freeReads (s : SubCh) : List DramReq := s.reads.filter (fun x => !x.fwd)

/-- The request a subchannel serves: the oldest that has reached the age cap, else the oldest row hit of the mode, else the
oldest of the mode (R403). The queues stand in order of age. -/
def SubCh.pick (s : SubCh) (w : Bool) (cap now : Nat) : Option DramPick :=
  let old (l : List DramReq) : Option DramReq := l.find? (fun r => cap ≤ now - r.since)
  match old s.freeReads, old s.freeWrites with
  | some a, some b => if a.since ≤ b.since then some ⟨false, a, true⟩ else some ⟨true, b, true⟩
  | some a, none => some ⟨false, a, true⟩
  | none, some b => some ⟨true, b, true⟩
  | none, none =>
    let k := w && s.freeWrites ≠ []
    let q := if k then s.freeWrites else s.freeReads
    match q.find? (fun r => spFind s.rows r.bank = some r.row) with
    | some r => some ⟨k, r, false⟩
    | none => q.head?.map (fun r => ⟨k, r, false⟩)

/-- Serve a request: it leaves its queue, and with the first reads of a line those that a queued write answers; its row is open;
write mode ends at wq_lo. -/
def SubCh.serve (s : SubCh) (w : Bool) (lo : Nat) (p : DramPick) : SubCh :=
  let ws := if p.write then s.writes.erase p.req else s.writes
  let rs := if p.write then s.reads else s.reads.erase p.req
  let rs := rs.filter (fun x => !x.fwd || rs.any (fun y => !y.fwd && y.line = x.line))
  { reads := rs, writes := ws, writing := w && lo < ws.length, rows := spPut s.rows p.req.bank p.req.row }

/-- DRAM_COMMAND_ISSUE (R403, R405, R412): the scheduler of a subchannel serves the first that exists, `ns` after the last
boundary; `alerts` of its issues draw ALERT_n. While requests wait up to four refreshes are postponed. -/
def execDramCommandIssue (ch sub ns alerts : Nat) (s : State) : Host.Outcome State Fault Refusal :=
  s.run (fun d =>
    if 7 < ch || 1 < sub || d.chanState ch ≠ 2 then d
    else
      let c := d.dchan ch
      let d := d.bumpBy (chanOff ch R.dramChCnt + 40) (Nat.min alerts 3)
      if 4 ≤ alerts then d.failChan ch 8
      else
        let q := c.subs.getD sub SubCh.init
        let waits := !q.reads.isEmpty || !q.writes.isEmpty
        let due (n : Nat) := [0, 1].find? (fun r => n ≤ spGet 0 c.owed r)
        match due 5 with
        | some r => (d.updChan ch (fun c => c.refresh r)).chanCount ch 7
        | none =>
          if !waits then match due 1 with | some r => d.updChan ch (fun c => c.refresh r) | none => d
          else
            let w := q.mode (d.liveFld R.dramSched 14 8)
            match q.pick w (100 * d.liveFld R.dramSched 7 0) (d.nsAt ns) with
            | none => d
            | some p =>
              let hit := spFind q.rows p.req.bank = some p.req.row
              let d := d.updChan ch (fun c => { c with
                subs := c.subs.set sub (q.serve w (d.liveFld R.dramSched 22 16) p) })
              let d := d.chanCount ch (if hit then 4 else 5)
              if p.aged then d.chanCount ch 6 else d)

/-- The time a request counts its age from: no queue lists a request before one that is younger. -/
def SubCh.stamp (q : SubCh) (t : Nat) : Nat := (q.reads ++ q.writes).foldl (fun m r => Nat.max m r.since) t

/-- A request enters a subchannel (R404): writes to one line merge; a read of a line with a queued write needs no access, and
waits only for the reads of the line before it. -/
def SubCh.enter (q : SubCh) (write : Bool) (line bank row t : Nat) : SubCh :=
  let r : DramReq := ⟨line, bank, row, q.stamp t, false⟩
  let held := q.writes.any (fun x => x.line = line)
  if write then if held then q else { q with writes := q.writes ++ [r] }
  else if !held then { q with reads := q.reads ++ [r] }
  else if q.reads.any (fun x => x.line = line) then { q with reads := q.reads ++ [{ r with fwd := true }] }
  else q

/-- The lines of a burst: up to 4 of one granule, from that of `ca`. -/
def burstLines (ca lines : Nat) : List Nat :=
  ((List.range (Nat.min lines 4)).map (fun i => ca / 64 * 64 + 64 * i)).filter (fun a => a / 256 = ca / 256)

/-- A granted burst enters the queues of a channel (R404, R415). -/
def Dev.enqueue (d : Dev) (ch : Nat) (write : Bool) (ca lines ns : Nat) : Dev :=
  (burstLines ca lines).foldl (fun d a =>
    let sub := d.subOf a
    d.updChan ch (fun c => { c with
      subs := c.subs.set sub ((c.subs.getD sub SubCh.init).enter write (a / 64) (d.bankOf a) (d.rowOf a) (d.nsAt ns)),
      last := d.drip.now })) d

/-- A channel's queues, of 64 entries each, take a burst (R403). -/
def Dev.chanRoom (d : Dev) (ch : Nat) (write : Bool) (ca lines ns : Nat) : Bool :=
  ((d.enqueue ch write ca lines ns).dchan ch).subs.all (fun q => q.reads.length ≤ 64 && q.writes.length ≤ 64)

/-! ## Arbiters (R414 to R419) -/

/-- The requesters an arbiter serves (R415). -/
def arbServes (a r : Nat) : Bool :=
  if a ≤ 7 then r ≤ 25
  else if a ≤ 23 then r ≤ 20 || r = 23 || r = 24
  else if a = 24 then r ≤ 15
  else a ≤ 32 && r ≤ 24

/-- Arbiter `a`. -/
def Dev.arb (d : Dev) (a : Nat) : Arb := spGet Arb.init d.dctl.arbs a

/-- Set arbiter `a`. -/
def Dev.setArb (d : Dev) (a : Nat) (v : Arb) : Dev := d.onDctl (fun k => { k with arbs := spSet Arb.init k.arbs a v })

/-- The window and quotas the LIVE bank gives an arbiter. -/
def Dev.arbCap (d : Dev) (a : Nat) : Nat × List Nat :=
  (d.liveFld (R.arbsWin + 4 * a) 15 0 + 1, (List.range 32).map (fun r => d.liveFld (R.arbsQuota + 128 * a + 4 * r) 16 0))

/-- The tier of a requester (R416), from 0. -/
def Arb.tier (v : Arb) (quota : List Nat) (r : Nat) : Nat :=
  let q := quota.getD r 0
  if q = 0 then 1 else if spGet 0 v.taken r < q then 0 else 2

/-- The round robin of a tier: the first requester after the one granted last, from the lowest before any grant
(assumption 60). -/
def roundRobin (last : Nat) (l : List Nat) : Option Nat :=
  match l.find? (fun r => last < r) with | some r => some r | none => l.head?

/-- The requester granted, with its tier. -/
def Arb.choose (v : Arb) (quota : List Nat) (pending : List Nat) : Option (Nat × Nat) :=
  [0, 1, 2].findSome? (fun t => (roundRobin (v.last.getD t 31) (pending.filter (fun r => v.tier quota r = t))).map (fun r => (r, t)))

/-- The counters of a requester after a wait of `n` clocks (R418). -/
def Arb.waited (n : Nat) (v : Arb) (r : Nat) : Arb :=
  { v with
    wait := spSet 0 v.wait r ((spGet 0 v.wait r + n) % 2 ^ 48), waiting := spSet 0 v.waiting r (spGet 0 v.waiting r + n) }

/-- A grant to a requester of a tier: counted; the window ends after its last grant (R417). -/
def Arb.grant (v : Arb) (cap : Nat × List Nat) (r t : Nat) : Arb :=
  let w := spGet 0 v.waiting r
  let v := { v with
    last := v.last.set t r, cap := some cap, count := v.count + 1, taken := spSet 0 v.taken r (spGet 0 v.taken r + 1),
    grants := spSet 0 v.grants r ((spGet 0 v.grants r + 1) % 2 ^ 48),
    longest := spSet 0 v.longest r (Nat.max (spGet 0 v.longest r) (Nat.min w 0xFFFFFFFF)), waiting := spSet 0 v.waiting r 0 }
  if cap.1 ≤ v.count then { v with count := 0, taken := [], cap := none } else v

/-- A command of gallery `g` that waits for arbiter 24 (R415). -/
def Dev.sealAsks (d : Dev) (g : Nat) : Option SealItem :=
  d.pool.queue.find? (fun i => !i.adm && (match d.job i.job with | some j => j.tid.g = g | none => false))

/-- Arbiter 24 admits a gallery's first waiting command: it is younger than those admitted before it (R415, R317). -/
def Dev.sealGranted (d : Dev) (g : Nat) : Dev :=
  match d.sealAsks g with
  | some i => d.onPool (fun p => { p with queue := p.queue.erase i ++ [{ i with adm := true }] })
  | none => d

/-- The requesters an arbiter may grant, of those that are pending, each with the clocks it has been pending without a grant since
the grant before. The Seal pool's commands are in State; only a gallery with one waiting asks arbiter 24. -/
def Dev.arbAsks (d : Dev) (arb : Nat) (pending : List (Nat × Nat)) : List Nat :=
  (List.range 32).filter (fun r =>
    pending.any (fun x => x.1 = r) && arbServes arb r && (arb ≠ 24 || (d.sealAsks r).isSome))

/-- What a grant lets its requester do: a burst enters a live or self-refreshed channel's queues, a seal command its pool. At a
failed channel reads complete as poisoned and writes are discarded (R412). -/
def Dev.granted (d : Dev) (arb r ns : Nat) (write : Bool) (ca lines : Nat) : Dev :=
  if arb ≤ 7 then if d.chanState arb = 5 then d else d.enqueue arb write ca lines ns
  else if arb = 24 then d.sealGranted r else d

/-- An arbiter can grant now: a DRAM channel's only while the channel takes requests and has room. -/
def Dev.arbOpen (d : Dev) (arb ns : Nat) (write : Bool) (ca lines : Nat) : Bool :=
  arb ≤ 32 && d.serving && (7 < arb || d.chanState arb = 5 ||
    ((d.chanState arb = 2 || d.chanState arb = 4) && d.chanRoom arb write ca lines ns))

/-- ARBITER_GRANT (R416 to R418): an arbiter grants one of the requesters pending, each of which has waited its own number of
`clocks`. For a DRAM channel the burst is a write or read of `lines` lines from `ca`. -/
def execArbiterGrant (arb : Nat) (clocks : List Nat) (ns : Nat) (pending : List Nat) (write : Bool) (ca lines : Nat) (s : State) :
    Host.Outcome State Fault Refusal :=
  s.run (fun d =>
    let waits := pending.zip clocks
    let l := d.arbAsks arb waits
    if !d.arbOpen arb ns write ca lines then d
    else
      let v := l.foldl (fun v r => v.waited (spGet 0 waits r) r) (d.arb arb)
      let cap := match v.cap with | some c => c | none => d.arbCap arb
      match v.choose cap.2 l with
      | none => d
      | some (r, t) => (d.setArb arb (v.grant cap r t)).granted arb r ns write ca lines)

/-- A write of ARBS_QRY (R419). -/
def Dev.arbsQuery (d : Dev) (m val : Nat) : Dev :=
  let a := bits val 5 0
  let r := bits val 12 8
  if bits val 31 17 ≠ 0 || bits val 15 13 ≠ 0 || bits val 7 6 ≠ 0 then
    (d.reservedCsr m R.arbsQry).lastWrite m R.arbsQry Code.reserved
  else if !arbServes a r then d.setPer m R.arbsQryCode Code.reserved
  else
    let v := d.arb a
    let g := spGet 0 v.grants r
    let w := spGet 0 v.wait r
    let d := d.setPerWords m R.arbsQryGrantLo [g % 2 ^ 32, g / 2 ^ 32, w % 2 ^ 32, w / 2 ^ 32, spGet 0 v.longest r]
    let d := d.setPer m R.arbsQryCode Code.ok
    if bitOf val 16 then d.setArb a { v with
      grants := spSet 0 v.grants r 0, wait := spSet 0 v.wait r 0, longest := spSet 0 v.longest r 0 }
    else d

/-- A write of ARBS_QRY by a master. -/
def Dev.arbsQryWrite (d : Dev) (m val : Nat) : Dev := d.doorbell m R.arbsQry [] 32 val (fun d => d.arbsQuery m val)

/-- ARBS_QRY (R419): a write with clear 0. -/
def execArbsQry (m val : Nat) (s : State) : Host.Outcome State Fault Refusal :=
  s.run (fun d => if bitOf val 16 then d else d.arbsQryWrite m val)

/-- ARBS_QRY_CLEAR (R419): a write with clear 1. -/
def execArbsQryClear (m val : Nat) (s : State) : Host.Outcome State Fault Refusal :=
  s.run (fun d => if bitOf val 16 then d.arbsQryWrite m val else d)

end Sys2Proof.Machine
end

