-- ==== Sys2Proof/Machine/Lode.lean ====
section
/-! DEFINITION. The Lode (R350 to R358): rows, commands of threads and masters, slots, the temperature's W allowance,
updates at the boundary, and the scrubber. -/

namespace Sys2Proof.Machine

/-- A counter of the Lode. -/
def Dev.lodeCount (d : Dev) (i : Nat) : Dev := d.bump (R.lodeCnt + 4 * i)

/-- Row `r`. -/
def Dev.lodeRow (d : Dev) (r : Nat) : LodeRow := spGet LodeRow.none d.lode.rows r

/-- Set row `r`. -/
def Dev.setLodeRow (d : Dev) (r : Nat) (v : LodeRow) : Dev :=
  d.onLode (fun l => { l with rows := spSet LodeRow.none l.rows r v })

/-- The 80 bytes of a row image (R350). -/
def LodeRow.image (r : LodeRow) : Bytes :=
  leBytes 36 r.value ++ leBytes 36 r.mask ++ leBytes 2 (r.prio % 2 ^ 12 + b2n r.valid * 2 ^ 15) ++ [0, 0] ++ leBytes 4 r.result

/-- The row a row image describes. -/
def rowOfImage (b : Bytes) : LodeRow :=
  ⟨leAt b 0 36, leAt b 36 36, leAt b 72 2 % 2 ^ 12, bitOf (leAt b 72 2) 15, leAt b 76 4⟩

/-- A row image has a reserved bit set, or a value bit where its mask bit is clear (R356). -/
def rowImageBad (b : Bytes) : Bool :=
  bits (leAt b 72 2) 14 12 ≠ 0 || leAt b 74 2 ≠ 0 || (leAt b 0 36 ||| leAt b 36 36) ≠ leAt b 36 36

/-! ## Searches (R351) -/

/-- A bank takes part in a search. -/
def Dev.bankTakes (d : Dev) (gen bank pf : Nat) (w : Bool) : Bool :=
  let c := d.at gen (R.lodeBank0 + 8 * bank)
  bitOf c 17 && bitOf c 16 == w && (w || (pf &&& bits c 15 8) = bits c 7 0)

/-- A row matches a key. -/
def LodeRow.matches (r : LodeRow) (key : Nat) : Bool := r.valid && (key &&& r.mask) = r.value

/-- The rows that match, rising. -/
def Dev.lodeMatches (d : Dev) (gen key pf : Nat) (w : Bool) : List (Nat × LodeRow) :=
  d.lode.rows.filter (fun e => e.2.matches key && d.bankTakes gen (e.1 / 1024) pf w && !d.lode.hurt.contains e.1)

/-- The winner: the highest priority, the lowest number among equals. -/
def lodeBest : List (Nat × LodeRow) → Option (Nat × LodeRow)
  | [] => none
  | x :: xs => match lodeBest xs with
    | some y => if x.2.prio < y.2.prio then some y else some x
    | none => some x

/-- The 16 bytes of a search result (R355). -/
def Dev.lodeResult (d : Dev) (ms : List (Nat × LodeRow)) : Bytes :=
  let tail := leBytes 1 (Nat.min ms.length 255) ++ [0] ++ leBytes 4 d.drip.now
  match lodeBest ms with
  | some (r, v) => leBytes 4 v.result ++ leBytes 4 (r + 2 ^ 31) ++ leBytes 2 v.prio ++ tail
  | none => List.replicate 10 0 ++ tail

/-! ## Commands -/

/-- A command completes: its tag, or its master's status register. -/
def Dev.lodeEnd (d : Dev) (who : Src) (code result : Nat) : Dev :=
  match who with
  | .job n => d.finishJob n code result
  | .master m => d.setStat m R.lodeHstat false code

/-- Deliver a result: where the command's pointer names, or in its master's registers from `o`. -/
def Dev.lodeDeliver (d : Dev) (who : Src) (o : Nat) (bs : Bytes) : Dev :=
  match who with
  | .job n => match d.job n with | some j => d.ptrWrite j (j.ptr 40) bs | none => d
  | .master m => d.setPerWords m o (wordsOf (bs.length / 4) bs)

/-- A Lode command as the unit sees it. -/
structure LodeAsk where
  op : Nat
  row : Nat
  pf : Nat
  data : Bytes
  gen : Nat
  allowed : Bool
  bad : Bool
  deriving DecidableEq, Repr

/-- The bytes of key or row image an op takes in, and those it gives out. -/
def lodeIn (op : Nat) : Nat := if op ≤ 1 then 36 else if op = 2 then 80 else 0
/-- The bytes an op gives out. -/
def lodeOut (op : Nat) : Nat := if op ≤ 1 then 16 else if op = 4 then 80 else 0

/-- The pointers of a Lode command. -/
def Job.lodePtrs (j : Job) : List (Ptr × Nat) :=
  [(j.ptr 32, lodeIn j.op4), (j.ptr 40, lodeOut j.op4)].filter (fun x => x.2 ≠ 0)

/-- The command of a thread (R355). -/
def Dev.lodeAskJob (d : Dev) (j : Job) : LodeAsk :=
  let op := j.op4
  let row := j.get 20 4
  let upd := op = 2 || op = 3
  ⟨op, row, j.get 17 1, d.ptrBytes j (j.ptr 32) (lodeIn op), j.gen,
   !upd || 2 ^ 18 ≤ row || bitOf (d.at j.gen (R.lodeBank1 + 8 * (row / 1024))) j.tid.g,
   j.get 16 1 / 16 ≠ 0 || j.get 18 2 ≠ 0 || j.get 24 8 ≠ 0 || j.get 48 16 ≠ 0 || 2 ^ 18 ≤ row
     || (lodeIn op = 0 && j.get 32 8 ≠ 0) || (lodeOut op = 0 && j.get 40 8 ≠ 0)⟩

/-- The command of a master (R358). -/
def Dev.lodeAskMaster (d : Dev) (m : Nat) : LodeAsk :=
  let c := d.per m R.lodeHcmd
  let op := bits c 21 18
  ⟨op, bits c 17 0, bits c 29 22, d.perBytes m R.lodeHrow (lodeIn op / 4), (d.group 8).genLive,
   !(op = 2 || op = 3) || d.owns m 8, bits c 31 30 ≠ 0⟩

/-- The code of R356 for a command. -/
def LodeAsk.code (a : LodeAsk) : Nat :=
  if !a.allowed then Code.notOwner
  else if a.bad || 4 < a.op || (a.op ≠ 0 && a.pf ≠ 0) || (a.op = 2 && rowImageBad a.data) then Code.reserved
  else Code.ok

/-- A command that passed the checks: a READ is answered, a search waits for its slot, an update is held. -/
def Dev.lodeAccept (d : Dev) (who : Src) (a : LodeAsk) : Dev :=
  let c : LodeCmd := ⟨who, a.op, a.row, a.pf, a.data, a.gen, d.drip.now⟩
  match a.op with
  | 4 => (d.lodeDeliver who R.lodeHrow (d.lodeRow a.row).image).lodeEnd who Code.ok 0
  | 2 | 3 => d.onLode (fun l => { l with updates := l.updates ++ [c] })
  | _ => d.onLode (fun l => { l with searches := l.searches ++ [c] })

/-- The Lode takes a thread's command whose op satisfies `mine`. -/
def Dev.lodeJob (d : Dev) (n : Nat) (mine : Nat → Bool) : Dev :=
  match d.job n with
  | some j =>
    if !d.serving || j.phase ≠ .queued || j.unit ≠ 4 || !mine j.op4 || !d.mayTakeJob n j then d
    else
      let d := d.unqueue n j
      let c := d.cmdCheck j j.lodePtrs false
      if c ≠ Code.ok then d.finishJob n c 0
      else
        let a := d.lodeAskJob j
        if a.code ≠ Code.ok then d.finishJob n a.code 0
        else match d.poisonAns (j.lodePtrs.filter (fun x => x.1 ≠ j.ptr 40)) with
          | some u => u.dev.finishJob n u.code 0
          | none => (d.setJob n { j with phase := .running }).lodeAccept (.job n) a
  | none => d

/-- A write of 1 to LODE_HGO by the host or the peer whose command satisfies `mine`; what R356 refuses comes before BUSY_RETRY
(R12). -/
def Dev.lodeGo (d : Dev) (m : Nat) (mine : Nat → Bool) : Dev :=
  d.doorbell m R.lodeHgo [3, 4] 1 1 (fun d =>
    let a := d.lodeAskMaster m
    if !mine a.op then d
    else if bitOf (d.per m R.lodeHstat) 0 then d.refuse m R.lodeHgo (if a.code = Code.ok then Code.busyRetry else a.code)
    else if a.code ≠ Code.ok then d.setStat m R.lodeHstat false a.code
    else (d.setStat m R.lodeHstat true 0).lodeAccept (.master m) a)

/-- A Lode command of a thread or a master. -/
def Dev.lodeBy (d : Dev) (src : Src) (mine : Nat → Bool) : Dev :=
  match src with | .job n => d.lodeJob n mine | .master m => d.lodeGo m mine

/-- SEARCH_T (R351); a command with a reserved op is taken here too. -/
def execSearchT (src : Src) (s : State) : Host.Outcome State Fault Refusal :=
  s.run (fun d => d.lodeBy src (fun op => op = 0 || 5 ≤ op))

/-- SEARCH_W (R351). -/
def execSearchW (src : Src) (s : State) : Host.Outcome State Fault Refusal :=
  s.run (fun d => d.lodeBy src (fun op => op = 1))

/-- LODE_WRITE (R354). -/
def execLodeWrite (src : Src) (s : State) : Host.Outcome State Fault Refusal :=
  s.run (fun d => d.lodeBy src (fun op => op = 2))

/-- LODE_INVALIDATE (R354). -/
def execLodeInvalidate (src : Src) (s : State) : Host.Outcome State Fault Refusal :=
  s.run (fun d => d.lodeBy src (fun op => op = 3))

/-- LODE_READ (R355). -/
def execLodeRead (src : Src) (s : State) : Host.Outcome State Fault Refusal :=
  s.run (fun d => d.lodeBy src (fun op => op = 4))

/-! ## Slots (R352, R353) -/

/-- Slots in a drip: 1,000 for each microsecond. -/
def Dev.lodeSlots (d : Dev) : Nat := 500 * 2 ^ d.ioFld R.dripCfg 1 0

/-- Temperature as a signed number. -/
def temp8 (v : Nat) : Int := toSigned 8 v

/-- The W rate of the thermal curve at a temperature (R353). -/
def Dev.wRate (d : Dev) (t : Int) : Nat :=
  let n := d.ioFld R.lodeWcurveCnt 4 0
  let pts := (List.range n).map (fun i => d.io (R.lodeWcurve + 4 * i))
  match (pts.filter (fun p => temp8 p ≤ t)).getLast? with
  | some p => bits p 25 16
  | none => bits (d.io R.lodeWcurve) 25 16

/-- W searches allowed in a drip. -/
def Dev.wAllowance (d : Dev) : Nat := d.ioFld R.lodeStat 17 8 * 2 ^ d.ioFld R.dripCfg 1 0 / 2

/-- A waiting search may run in this drip. -/
def Dev.mayRun (d : Dev) (c : LodeCmd) : Bool := c.op ≠ 1 || d.lode.wUsed < d.wAllowance

/-- Run a search. -/
def Dev.lodeSearch (d : Dev) (c : LodeCmd) : Dev :=
  let w := c.op = 1
  let ms := d.lodeMatches c.gen (leNat c.data) c.pf w
  let d := (d.lodeCount (b2n w)).lodeCount (if ms = [] then 3 else 2)
  let d := d.onLode (fun l => { l with
    wUsed := l.wUsed + b2n w, hits := l.hits ++ (match lodeBest ms with | some x => [x.1] | none => []) })
  (d.lodeDeliver c.who R.lodeHres (d.lodeResult ms)).lodeEnd c.who Code.ok 0

/-- LODE_SLOT: the next slot of the drip performs one update or one search. -/
def Dev.lodeSlot (d : Dev) : Dev :=
  let l := d.lode
  if !d.serving || d.lodeSlots ≤ l.slot then d
  else
    let d := d.onLode (fun l => { l with slot := l.slot + 1 })
    match l.slot % 8 = 7 && d.drip.lodeUsed < d.ioFld R.dripBudget 15 8, l.updates with
    | true, u :: rest =>
      (d.onDrip (fun p => { p with lodeUsed := p.lodeUsed + 1 })).onLode (fun l => { l with updates := rest, done := l.done ++ [u] })
    | _, _ => match takeFirst d.mayRun l.searches with
      | some (c, rest) => (d.onLode (fun l => { l with searches := rest })).lodeSearch c
      | none => d

/-- LODE_SLOT (R352). -/
def execLodeSlot (s : State) : Host.Outcome State Fault Refusal := s.run (fun d => d.lodeSlot)

/-- LODE_W_TIMEOUT: a W search that has waited 1,024 drips (R353). -/
def Dev.lodeTimeout (d : Dev) (who : Src) : Dev :=
  match takeFirst (fun c => c.who = who && c.op = 1 && c.since + 1024 ≤ d.drip.now) d.lode.searches with
  | some (c, rest) =>
    ((d.onLode (fun l => { l with searches := rest })).lodeCount 6).lodeEnd c.who Code.timeout 0
  | none => d

/-- LODE_W_TIMEOUT (R353). -/
def execLodeWTimeout (src : Src) (s : State) : Host.Outcome State Fault Refusal := s.run (fun d => d.lodeTimeout src)

/-! ## The boundary -/

/-- The result word of an update (R355). Its fields row, [17:0], and op, [19:16], share two bits, which are open (assumption 64). -/
def Dev.updateWord (d : Dev) (c : LodeCmd) : Nat :=
  c.row % 2 ^ 16 + d.freeVal % 4 * 2 ^ 16 + c.op / 4 * 2 ^ 18 + d.drip.now % 2 ^ 32 * 2 ^ 32

/-- An update changes its row and completes (R354). -/
def Dev.lodeApply (d : Dev) (c : LodeCmd) : Dev :=
  let r := d.lodeRow c.row
  let d := (d.setLodeRow c.row (if c.op = 2 then rowOfImage c.data else { r with valid := false })).lodeCount 4
  let d := if c.op = 2 then d.onLode (fun l => { l with hurt := l.hurt.filter (· ≠ c.row) }) else d
  d.freeStep.lodeEnd c.who Code.ok (d.updateWord c)

/-- A row won a search: its bit is set. -/
def Dev.lodeHit (d : Dev) (r : Nat) : Dev := d.setIoBit (R.lodeHit + r / 32 * 4) (r % 32)

/-- A row with an uncorrectable error becomes invalid (R357). -/
def Dev.lodeHurt (d : Dev) (r : Nat) : Dev := d.setLodeRow r { d.lodeRow r with valid := false }

/-- The temperature is taken: the highest sensor reading, and the W rate it allows (R353). -/
def Dev.lodeTemp (d : Dev) (t : Nat) : Dev := (d.setIoFld R.lodeStat 7 0 t).setIoFld R.lodeStat 17 8 (d.wRate (temp8 t))

/-- The Lode's part of a boundary: what did not fit is counted, updates are applied, hits shown, a new drip of slots
begins. -/
def Dev.lodeBoundary (d : Dev) : Dev :=
  let l := d.lode
  let deferred := if d.wAllowance ≤ l.wUsed then (l.searches.filter (fun c => c.op = 1)).length else 0
  let d := (d.bumpBy R.dripOverLode l.updates.length).bumpBy (R.lodeCnt + 20) deferred
  let d := l.hurt.foldl Dev.lodeHurt d
  let d := l.done.foldl Dev.lodeApply d
  let d := l.hits.foldl Dev.lodeHit d
  d.onLode (fun l => { l with done := [], hits := [], hurt := [], slot := 0, wUsed := 0 })

/-! ## The scrubber (R357) -/

/-- The scrubber reads a row: nothing (0), a correctable error (1) or an uncorrectable one (2). -/
def Dev.lodeScrub (d : Dev) (row outcome : Nat) : Dev :=
  if !d.serving || 2 ^ 18 ≤ row then d
  else match outcome with
    | 1 => d.lodeCount 8
    | 2 =>
      if d.lode.hurt.contains row then d
      else ((d.lodeCount 7).incident 8 Code.orphaned 0x104 row (row / 1024)).onLode (fun l => { l with hurt := l.hurt ++ [row] })
    | _ => d

/-- LODE_SCRUB (R357). -/
def execLodeScrub (row outcome : Nat) (s : State) : Host.Outcome State Fault Refusal := s.run (fun d => d.lodeScrub row outcome)

end Sys2Proof.Machine
end

