-- ==== Sys2Proof/Machine/Image.lean ====
section
/-! DEFINITION. The Pranik image (R420 to R425): its header, sections and records, the checks of R427, and the records'
application. -/

namespace Sys2Proof.Machine

/-- Why an image is rejected (R427): reason, code, detail, and the image offset of the failure. -/
structure ImgFail where
  reason : Nat
  code : Nat
  detail : Nat
  place : Nat
  deriving DecidableEq, Repr

/-- A CONTENT failure (R427): its detail, as in R49, or 7 for a load check. -/
def ImgFail.content (detail place : Nat) : ImgFail := ⟨11, Code.reserved, detail, place⟩

/-! ## Header and directory (R420 to R422) -/

/-- Length of the header block. -/
def headLen : Nat := 5632

/-- The image's format. -/
def imgFormat (b : Bytes) : Nat := leAt b 4 2
/-- Directory entries. -/
def imgCount (b : Bytes) : Nat := leAt b 14 2
/-- The length the header states. -/
def imgLen (b : Bytes) : Nat := leAt b 16 4
/-- The end of the directory. -/
def dirEnd (b : Bytes) : Nat := headLen + 64 * imgCount b
/-- The signed message (R421). -/
def imgMsg (b : Bytes) : Bytes := slice b 0 2048 ++ slice b headLen (64 * imgCount b)
/-- The owner hash (R421). -/
def imgOwner (b : Bytes) : Bytes := sha256 (slice b 64 1984)
/-- The image digest (R421). -/
def imgDigest (b : Bytes) : Bytes := sha256 (imgMsg b)

/-- A directory entry (R422), with its own offset in the image. -/
structure Sect where
  place : Nat
  id : Nat
  version : Nat
  flags : Nat
  resv : Nat
  off : Nat
  size : Nat
  digest : Bytes
  deriving DecidableEq, Repr

/-- The directory. -/
def imgSects (b : Bytes) : List Sect :=
  (List.range (imgCount b)).map (fun i =>
    let o := headLen + 64 * i
    ⟨o, leAt b o 2, leAt b (o + 2) 2, leAt b (o + 4) 1, leAt b (o + 5) 3, leAt b (o + 8) 4, leAt b (o + 12) 4, slice b (o + 16) 48⟩)

/-- A payload, as far as the image reaches. -/
def Sect.payload (s : Sect) (b : Bytes) : Bytes := (b.drop s.off).take s.size

/-- The digest of a payload matches its directory entry (R422). -/
def Sect.digestOk (s : Sect) (b : Bytes) : Bool :=
  if imgFormat b = 1 then sha256 (s.payload b) == s.digest.take 32 else sha384 (s.payload b) == s.digest

/-- The section of an id, when the image has it. -/
def imgSect (b : Bytes) (id : Nat) : Option Sect := (imgSects b).find? (fun s => s.id = id)

/-- Stepping B0 knows the section (R423). -/
def Sect.known (s : Sect) : Bool := 1 ≤ s.id && s.id ≤ 7 && s.version = 1

/-- Bytes of the image that are not all zero. -/
def notZero (b : Bytes) (off n : Nat) : Bool := (slice b off n).any (fun x => x ≠ 0)

/-- The first header field out of range (R420, R427 reason 7); `cap` is how many bytes the source holds. -/
def headBad (b : Bytes) (cap : Nat) : Option Nat :=
  ([(6, notZero b 6 2), (8, leAt b 8 2 ≠ 0x4B58), (10, leAt b 10 2 ≠ 0x8400), (13, notZero b 13 1),
    (14, imgCount b = 0 || 256 < imgCount b),
    (16, imgLen b < dirEnd b || 2 ^ 28 < imgLen b || cap < imgLen b),
    (20, notZero b 20 4), (32, notZero b 32 32), (5421, notZero b 5421 211)].find? Prod.snd).map Prod.fst

/-- Stages 0 to 2 (R427); `owner` is the hash the image must carry (none: reason OWNER is skipped). -/
def headFail (b : Bytes) (owner : Option (Option Bytes)) : Option ImgFail :=
  if leAt b 0 4 ≠ 0x4950584B then some ⟨3, Code.failFormat, 0, 0⟩
  else if !owner.all (fun h => h == some (imgOwner b)) then some ⟨4, Code.notOwner, 0, 64⟩
  else if imgFormat b = 0 || 2 < imgFormat b then some ⟨5, Code.versionMismatch, 0, 4⟩
  else if 0xB0 < leAt b 12 1 then some ⟨6, Code.versionMismatch, 0, 12⟩
  else match headBad b b.length with
    | some o => some ⟨7, Code.reserved, 0, o⟩
    | none =>
      if !Config.verify 3 0 (slice b 64 32) (imgMsg b) [] (slice b 2048 64) then some ⟨8, Code.sealInvalid, 0, 2048⟩
      else if !Config.verify 8 0 (slice b 96 1952) (imgMsg b) [] (slice b 2112 3309) then some ⟨8, Code.sealInvalid, 0, 2112⟩
      else none

/-- Stage 3: a payload that fails its digest (R427 reason 9). -/
def digestFail (b : Bytes) : Option ImgFail :=
  ((imgSects b).find? (fun s => !s.digestOk b)).map (fun s => ⟨9, Code.sealInvalid, 0, s.off⟩)

/-- Two byte ranges share a byte. -/
def overlap (a n c m : Nat) : Bool := 0 < n && 0 < m && a < c + m && c < a + n

/-- A directory entry breaks R422, or is an unknown mandatory section (R423). -/
def Sect.bad (s : Sect) (b : Bytes) (before : List Sect) : Bool :=
  2 ≤ s.flags || s.resv ≠ 0 || s.off % 64 ≠ 0 || s.off < dirEnd b || imgLen b < s.off + s.size
    || (imgFormat b = 1 && (s.digest.drop 32).any (fun x => x ≠ 0))
    || before.any (fun t => t.id = s.id || overlap t.off t.size s.off s.size)
    || (!s.known && s.flags = 1)

/-- The first bad directory entry. -/
def badSect (b : Bytes) : List Sect → List Sect → Option Sect
  | _, [] => none
  | before, s :: l => if s.bad b before then some s else badSect b (s :: before) l

/-- Reason 10 of stage 4; an image that lacks CONFIG, DRAM or GALLERY is rejected for it too (R423). -/
def sectFail (b : Bytes) : Option ImgFail :=
  match badSect b [] (imgSects b) with
  | some s => some ⟨10, Code.versionMismatch, 0, s.place⟩
  | none =>
    if [1, 2, 4].all (fun i => (imgSects b).any (fun s => s.id = i && s.known)) then none
    else some ⟨10, Code.versionMismatch, 0, headLen⟩

/-! ## The board (R429) -/

/-- The board id of an EEPROM record; none when the record fails and the EEPROM counts as absent. -/
def boardId (rec : Option Bytes) : Option Nat :=
  match rec with
  | some r => if r.length = 20 && leAt r 0 4 = 0x4442584B && leAt r 16 4 = crc32c (r.take 16) then some (leAt r 4 4) else none
  | none => none

/-- The board is one the image accepts. -/
def boardFail (b : Bytes) (board : Option Nat) : Option ImgFail :=
  match (imgSects b).find? (fun s => s.id = 7 && s.known) with
  | none => none
  | some s =>
    let p := s.payload b
    let pass := match board with
      | some i => (List.range (s.size / 8)).any (fun k =>
        i &&& leAt p (8 * k + 4) 4 = leAt p (8 * k) 4 &&& leAt p (8 * k + 4) 4)
      | none => false
    if pass then none else some ⟨12, Code.notOwner, 0, s.off⟩

/-- A BOARD section that does not hold 1 to 64 pairs (R429). -/
def boardBad (b : Bytes) : Option ImgFail :=
  match (imgSects b).find? (fun s => s.id = 7 && s.known) with
  | none => none
  | some s => if s.size % 8 ≠ 0 || s.size = 0 || 512 < s.size then some (ImgFail.content 1 s.off) else none

/-! ## Records (R424) -/

/-- A record: the section that holds it, its space, address, image offset and data. -/
structure Rec where
  sect : Nat
  space : Nat
  addr : Nat
  place : Nat
  data : Bytes
  deriving DecidableEq, Repr

/-- The records of a payload from byte `o` on, the payload starting at image offset `base`. -/
def parseRecs (sect base : Nat) (p : Bytes) : Nat → Nat → Except ImgFail (List Rec)
  | 0, _ => .ok []
  | f + 1, o =>
    if p.length ≤ o then .ok []
    else
      let n := leAt p (o + 4) 4
      let stop := o + 16 + (n + 7) / 8 * 8
      if p.length < stop || leAt p (o + 1) 3 ≠ 0 || notZero p (o + 16 + n) (stop - (o + 16 + n)) then
        .error (ImgFail.content 1 (base + o))
      else match parseRecs sect base p f stop with
        | .error e => .error e
        | .ok l => .ok (⟨sect, leAt p o 1, leAt p (o + 8) 8, base + o, slice p (o + 16) n⟩ :: l)

/-- The spaces a section's records may write (R423). -/
def sectSpaces (id : Nat) : List Nat :=
  match id with
  | 1 => [0, 1, 2, 5, 6]
  | 3 => [3]
  | 4 => [2, 4]
  | 5 => [2]
  | 6 => [7]
  | _ => []

/-- The records of a section of records; none of them when the image lacks it. -/
def sectRecs (b : Bytes) (id : Nat) : Except ImgFail (List Rec) :=
  match (imgSects b).find? (fun s => s.id = id && s.known) with
  | none => .ok []
  | some s => parseRecs id s.off (s.payload b) (s.size + 1) 0

/-- The records of several sections, those sections in the order in which the directory lists them. -/
def imgRecs (b : Bytes) (ids : List Nat) : Except ImgFail (List Rec) :=
  ((imgSects b).filter (fun s => ids.contains s.id && s.known)).foldl (fun r s =>
    match r, sectRecs b s.id with
    | .ok l, .ok m => .ok (l ++ m)
    | .error e, _ => .error e
    | _, .error e => .error e) (.ok [])

/-! ### Places the image gives (assumption 11) -/

/-- The place of the code store in table SRAM; the macro area follows it (R523). -/
def codeBase (b : Bytes) : Nat := Config.imageItem b 0
/-- The place of the task directory (R293). -/
def taskBase (b : Bytes) : Nat := Config.imageItem b 1
/-- sess_max (R127). -/
def imgSessMax (b : Bytes) : Nat := Config.imageItem b 2 % (2 ^ 22 + 1)

/-- An entry of the table directory (R216). -/
def imgTable (b : Bytes) (id : Nat) : TabEnt :=
  let f (i : Nat) : Nat := Config.imageItem b (16 + 4 * id + i)
  if f 2 = 0 then TabEnt.none
  else ⟨f 3 / 2 % 2 = 1, f 0, 2 ^ (3 + f 1 % 10), f 2, if f 3 % 2 = 1 then .config else .data⟩

/-- The table directory of an image. -/
def imgTables (b : Bytes) : Map TabEnt :=
  (List.range 0xF0).foldl (fun m i => spSet TabEnt.none m i (imgTable b i)) []

/-- The key in the GALL banks of a byte of table SRAM or DRAM; none when the byte is single copy. -/
def bankKey (b : Bytes) (tabs : Map TabEnt) (dram : Bool) (a : Nat) : Option Nat :=
  if !dram && codeBase b ≤ a && a < codeBase b + 0x240000 then some (a - codeBase b)
  else if !dram && taskBase b ≤ a && a < taskBase b + 0x80000 then some (0x400000 + (a - taskBase b))
  else if tabs.any (fun e => e.2.kind = .config && e.2.dram = dram && e.2.base ≤ a && a < e.2.base + e.2.size * e.2.count) then
    some (configKey dram a)
  else none

/-! ### Space 0 (R425) -/

/-- The bits of RO fields that the image sets, by register (R27, R33, R55, R152, R303, R307, R353, R385, R441, R467,
R484). -/
def imageRo (o : Nat) : Nat :=
  if o = R.dripCfg || o = R.dripBudget || (R.dripOwn ≤ o && o < R.dripOwn + 4 * 26 && o % 4 = 0) || o = R.loadLimpCfg
    || o = R.fwdtHashSeed0 || o = R.fwdtHashSeed1 || o = R.lodeWcurveCnt || (R.lodeWcurve ≤ o && o < R.lodeWcurve + 64)
    || o = R.sealKeystore || o = R.dispTraceBaseLo || o = R.dispTraceBaseHi || o = R.bookRing || o = R.ropeSealBaseLo
    || o = R.ropeSealBaseHi || o = R.hlthThermCfg then
    match regAt o with
    | some r => (r.maskOf (fun a => a == .ro)).toNat
    | none => 0
  else 0

/-- The bits of a register that a space-0 record may set. -/
def imageBits (o : Nat) : Nat :=
  match regAt o with
  | some r => if r.perMaster || r.ownedFrom.isSome || r.doorbell then 0
    else (r.maskOf (fun a => a == .st || a == .rw)).toNat ||| imageRo o
  | none => 0

/-- A register of RO fields of which the image sets none, DRIP_OWN_26 to DRIP_OWN_31 among them: a record that writes it,
whatever the value, rejects the image (R55, R425). -/
def roOnly (o : Nat) : Bool :=
  imageBits o = 0 && match regAt o with | some r => (r.maskOf (fun a => a == .ro)).toNat ≠ 0 | none => false

/-- A word of a space-0 record is not one the image may write: its detail. -/
def wordFail (o v : Nat) : Option Nat :=
  if 0x7000000 ≤ o || roOnly o then some 1
  else if R.dripOwn + 4 * 25 = o then none
  else if R.dripOwn ≤ o && o < R.dripOwn + 4 * 25 && v % 4 ≠ 0 then some 7
  else if v ||| imageBits o ≠ imageBits o then some 1
  else none

/-- The words of a record's data with their offsets. -/
def Rec.words (r : Rec) : List (Nat × Nat) :=
  (List.range (r.data.length / 4)).map (fun i => (r.addr + 4 * i, leAt r.data (4 * i) 4))

/-! ### Records that the loader rejects -/

/-- Pieces of a record's data of `n` bytes. -/
def Rec.pieces (r : Rec) (n : Nat) : List Bytes := (List.range (r.data.length / n)).map (fun i => slice r.data (n * i) n)

/-- The detail of a record that breaks R423 to R425; `slots` is the number of key slots. -/
def Rec.bad (r : Rec) (b : Bytes) (slots : Nat) : Option Nat :=
  let n := r.data.length
  if !(sectSpaces r.sect).contains r.space then some 1
  else match r.space with
    | 0 => if r.addr % 4 ≠ 0 || n % 4 ≠ 0 then some 1 else (r.words.filterMap (fun w => wordFail w.1 w.2)).head?
    | 1 => if 2 ^ 15 ≤ r.addr || n ≠ 180 then some 1 else if 2 ≤ leAt r.data 176 4 then some 2 else none
    | 2 =>
      if r.sect = 5 && !(codeBase b + 0x200000 ≤ r.addr && r.addr + n ≤ codeBase b + 0x240000) then some 7
      else if 2 ^ 26 < r.addr + n then some 1 else none
    | 3 => if 2 ^ 40 < r.addr + n then some 1 else none
    | 4 =>
      let a := r.addr / 2 ^ 32
      if bits r.addr 31 7 ≠ 0 || !(a + n ≤ 0x6000 || (0x10000 ≤ a && a + n ≤ 0x20000)) then some 1 else none
    | 5 => if n % 80 ≠ 0 || 2 ^ 18 < r.addr + n / 80 then some 1 else if (r.pieces 80).any rowImageBad then some 2 else none
    | 6 => if n % 128 ≠ 0 || numBuckets < r.addr + n / 128 then some 1
           else if (r.pieces 128).any (fun x => !bucketOk x) then some 2 else none
    | _ => if slots ≤ r.addr then some 1 else none

/-! ## Application (R425, R436) -/

/-- The banks of a group that the loader writes: both in Load mode, the STAGED one in a Handover (R55). -/
def Dev.loadBanks (d : Dev) (both : Bool) (g : Nat) : List Bool :=
  if both then [false, true] else [!(d.group g).liveB]

/-- A word of a space-0 record: banked fields into the banks; RW fields and the RO fields the image sets only in Load mode. -/
def Dev.loadWord (d : Dev) (both : Bool) (o v : Nat) : Dev :=
  match regAt o with
  | none => d
  | some r =>
    let st := (r.maskOf (fun a => a == .st)).toNat
    let io := (imageBits o) &&& (0xFFFFFFFF - st)
    let d := if st = 0 then d
      else (d.loadBanks both (groupOfKey o)).foldl (fun d b => d.setBankWord b o (v &&& st)) d
    if both && io ≠ 0 && o ≠ R.dripOwn + 4 * 25 then d.setIo o (v &&& io) else d

/-- Bytes of the banked tables of GALL. -/
def Dev.loadTabs (d : Dev) (both : Bool) (l : List (Nat × Byte)) : Dev :=
  let put (m : Map Byte) : Map Byte := l.foldl (fun m e => spSet 0 m e.1 e.2) m
  (d.loadBanks both 14).foldl (fun d b => d.onCores (fun c =>
    if b then { c with tabB := put c.tabB } else { c with tabA := put c.tabA })) d

/-- Bytes of table SRAM or DRAM: banked places into the banks, single-copy places only where `data` allows. -/
def Dev.loadBytes (d : Dev) (b : Bytes) (tabs : Map TabEnt) (both data dram : Bool) (a : Nat) (bs : Bytes) : Dev :=
  let at_ := bs.zipIdx.map (fun x => (a + x.2, x.1))
  let d := d.loadTabs both (at_.filterMap (fun x => (bankKey b tabs dram x.1).map (fun k => (k, x.2))))
  if !data then d
  else (at_.foldl (fun d x => if (bankKey b tabs dram x.1).isSome then d else d.setMemByte dram x.1 x.2) d).clearPoison dram a bs.length

/-- A record of space 4: a byte of common memory, with its load copy, or of the shelf of every thread of the core; in a
Handover only the load copy (R439). -/
def Dev.loadLocal (d : Dev) (both : Bool) (g l a : Nat) (v : Byte) : Dev :=
  let d := if 0x10000 ≤ a then d.onCores (fun c => { c with loadCopy := spSet 0 c.loadCopy (65536 * (8 * g + l) + (a - 0x10000)) v })
           else d
  if !both then d
  else match d.physOf g l with
    | none => d
    | some p => if 0x10000 ≤ a then d.setLocalByte ⟨g, p, 0⟩ a v
                else (List.range 8).foldl (fun d t => d.setLocalByte ⟨g, p, t⟩ a v) d

/-- A record applied; `both` in Load mode, when single-copy state is written too. -/
def Dev.loadRec (d : Dev) (b : Bytes) (tabs : Map TabEnt) (both : Bool) (r : Rec) : Dev :=
  match r.space with
  | 0 => r.words.foldl (fun d w => d.loadWord both w.1 w.2) d
  | 1 => (List.range rowWords).foldl (fun d w =>
      (d.loadBanks both 6).foldl (fun d k => d.setBankWord k (rowKey r.addr w) (leAt r.data (4 * w) 4)) d) d
  | 2 => d.loadBytes b tabs both both false r.addr r.data
  | 3 => d.loadBytes b tabs both true true r.addr r.data
  | 4 => r.data.zipIdx.foldl (fun d x =>
      d.loadLocal both (bits r.addr 3 0) (bits r.addr 6 4) (r.addr / 2 ^ 32 + x.2) x.1) d
  | 5 => if both then (r.pieces 80).zipIdx.foldl (fun d x => d.setLodeRow (r.addr + x.2) (rowOfImage x.1)) d else d
  | 6 => if both then (r.pieces 128).zipIdx.foldl (fun d x =>
      (bucketSlots x.1).zipIdx.foldl (fun d e => d.setFslot (4 * (r.addr + x.2) + e.2) e.1) d) d else d
  | _ => d

/-! ## The DRAM section (R392 to R394, R398, R423) -/

/-- The registers the DRAM section states, in the order of its words. -/
def dramOffs : List Nat :=
  [R.dramGeom] ++ (List.range 6).flatMap (fun j => [R.dramHashLo + 8 * j, R.dramHashHi + 8 * j])
    ++ (List.range 8).flatMap (fun r => [R.dramRgnStart + 16 * r, R.dramRgnSize + 16 * r, R.dramRgnChans + 16 * r])

/-- The DRAM section's words. -/
def dramWords (b : Bytes) : List (Nat × Nat) :=
  match imgSect b 2 with
  | some s => dramOffs.zipIdx.map (fun e => (e.1, leAt (s.payload b) (4 * e.2) 4))
  | none => []

/-- The detail of a DRAM section that does not state each register once, in its fields' bits. -/
def dramSectBad (b : Bytes) : Option ImgFail :=
  match imgSect b 2 with
  | none => none
  | some s =>
    if s.size ≠ 4 * dramOffs.length then some (ImgFail.content 1 s.off)
    else match (dramWords b).zipIdx.find? (fun e => match regAt e.1.1 with
      | some r => e.1.2 ||| (r.maskOf (fun a => a == .ro)).toNat ≠ (r.maskOf (fun a => a == .ro)).toNat
          || (e.1.1 = R.dramGeom && bits e.1.2 23 16 ≠ 0)
      | none => true) with
      | some e => some (ImgFail.content 1 (s.off + 4 * e.2))
      | none => none

/-- The DRAM section's registers are set. -/
def Dev.loadDram (d : Dev) (b : Bytes) : Dev := (dramWords b).foldl (fun d w => d.setIo w.1 w.2) d

/-- A configuration R392 does not list. -/
def Dev.dramConfigBad (d : Dev) : Bool :=
  let rate := d.ioFld R.dramGeom 1 0
  let ranks := d.ioFld R.dramGeom 3 3
  rate = 3 || (d.ioFld R.dramGeom 2 2 = 1 && ranks = 1) || (rate = 2 && ranks = 1)

/-- The start and size of a region in MiB. -/
def Dev.rgnMib (d : Dev) (r : Nat) : Nat × Nat := (d.io (R.dramRgnStart + 16 * r), d.io (R.dramRgnSize + 16 * r))

/-- A region breaks R394. -/
def Dev.rgnBad (d : Dev) (r : Nat) : Bool :=
  let (a, n) := d.rgnMib r
  let chans := d.io (R.dramRgnChans + 16 * r)
  let present := d.ioFld R.dramGeom 15 8
  n ≠ 0 && (2 ^ 19 < a + n || chans ||| present ≠ present
    || (List.range r).any (fun q => let (c, m) := d.rgnMib q; overlap a n c m))

/-- A mask breaks R398. -/
def Dev.hashBad (d : Dev) (j : Nat) : Bool :=
  let h := d.io64 (R.dramHashLo + 8 * j)
  bits h 13 8 ≠ 2 ^ j || h % 64 ≠ 0 || d.chanCap ≤ h

/-- The area lies in one region. -/
def Dev.inRegion (d : Dev) (a n : Nat) : Bool :=
  n = 0 || (List.range 8).any (fun r => let (s, m) := d.rgnMib r; s * 2 ^ 20 ≤ a && a + n ≤ (s + m) * 2 ^ 20)

/-- The DRAM areas that an image gives to other chapters: the trace ring, the Cellarbook and peer-seal rings, session
records with their index, the key store, and tables. -/
def Dev.dramAreas (d : Dev) : List (Nat × Nat) :=
  [(d.io64 R.dispTraceBaseLo, 2 ^ 20),
   (d.book.base, 2 ^ d.ioFld R.bookRing 5 0),
   (d.io64 R.ropeSealBaseLo, 2 ^ 20),
   (d.sess.base, 528 * d.sess.max),
   (d.pool.storeBase, if d.pool.storeDram then 2048 * d.slotCount else 0)]
    ++ d.cores.dirA.map (fun e => (e.2.base, if e.2.dram then e.2.size * e.2.count else 0))

/-! ## Load checks (R425) -/

/-- Points of the thermal curve: temperatures rise strictly, rates do not rise (R353). -/
def curveBad (temp rate : Nat → Int) (n : Nat) : Bool :=
  (List.range (n - 1)).any (fun i => temp (i + 1) ≤ temp i || rate i < rate (i + 1))

/-- The slot of a micro-step holds one whole instruction of the groups 0x00 to 0x6F, then zeros (R523). -/
def slotBad (bs : Bytes) : Bool :=
  match decodeBytes bs true false (fun _ _ => none) with
  | .error _ => true
  | .ok i => 16 < i.len || (bs.drop i.len).any (fun x => x ≠ 0)

/-- A directory entry of the macro area breaks R223 or R523. -/
def macroEntryBad (e : Bytes) : Bool :=
  let count := leAt e 2 1
  let ops := leAt e 3 1
  if count = 0 then e.any (fun x => x ≠ 0)
  else 14336 < leAt e 0 2 + count || 64 < count || 3 < ops || notZero e 10 6
    || (List.range 3).any (fun n =>
      let w := leAt e (4 + 2 * n) 2
      if ops ≤ n then w ≠ 0 else 5 < w % 8 || bits w 7 3 ≠ 0 || bits w 15 14 ≠ 0)

/-- Sixteen bytes of a bank's macro area. -/
def Dev.macroUnit (d : Dev) (b : Bool) (a : Nat) : Bytes := (List.range 16).map (fun i => d.tabByte b (0x200000 + a + i))

/-- The definition in a directory entry breaks R523, or one of its micro-steps is not in a slot, whoever wrote that (R223). -/
def Dev.macroDefBad (d : Dev) (bank : Bool) (e : Bytes) : Bool :=
  macroEntryBad e || (List.range (leAt e 2 1)).any (fun i => slotBad (d.macroUnit bank (0x8000 + 16 * (leAt e 0 2 + i))))

/-- The first unit of the macro area that MACRO records wrote and that breaks R223 or R523. -/
def Dev.macroBad (d : Dev) (img : Bytes) (bank : Bool) (recs : List Rec) : Option Nat :=
  (recs.filter (fun r => r.sect = 5)).findSome? (fun r =>
    let a := r.addr - (codeBase img + 0x200000)
    let first := a / 16
    let last := (a + r.data.length + 15) / 16
    if (List.range (last - first)).any (fun i =>
      let u := d.macroUnit bank (16 * (first + i))
      if first + i < 2048 then d.macroDefBad bank u else slotBad u) then some r.place else none)

/-- RO values the image sets are out of their ranges. -/
def Dev.roRange (d : Dev) : Bool :=
  let limp := d.io R.loadLimpCfg
  d.ioFld R.bookRing 5 0 < 26 || 36 < d.ioFld R.bookRing 5 0 || 65536 < d.slotCount
    || d.io R.lodeWcurveCnt = 0 || 16 < d.io R.lodeWcurveCnt || (List.range 16).any (fun i => 1000 < d.ioFld (R.lodeWcurve + 4 * i) 25 16)
    || 128 < bits limp 7 0 || 96 < bits limp 14 8 || 16 < bits limp 19 15 || 32 < bits limp 25 20

/-- The load checks of R425: R34, R152, R353, R393, the Limp thresholds and R484. -/
def Dev.loadCheck (d : Dev) : Bool :=
  10 * 2 ^ d.ioFld R.dripCfg 1 0 < d.ioFld R.dripBudget 7 0
    || d.io R.fwdtHashSeed0 = d.io R.fwdtHashSeed1
    || curveBad (fun i => toSigned 8 (d.ioFld (R.lodeWcurve + 4 * i) 7 0)) (fun i => (d.ioFld (R.lodeWcurve + 4 * i) 25 16 : Int))
        (d.io R.lodeWcurveCnt)
    || d.dramConfigBad || (List.range 8).any d.rgnBad || (List.range 6).any d.hashBad
    || d.dramAreas.any (fun a => !d.inRegion a.1 a.2)
    || d.ioFld R.loadLimpCfg 14 8 < 3
    || !(d.ioFld R.hlthThermCfg 7 0 < d.ioFld R.hlthThermCfg 15 8 && d.ioFld R.hlthThermCfg 15 8 < d.ioFld R.hlthThermCfg 23 16
        && d.ioFld R.hlthThermCfg 23 16 ≤ Config.tmax + 10)

/-! ## Stage 4 as a whole -/

/-- Every record's own checks, for every section of records. -/
def recsFail (b : Bytes) (slots : Nat) (recs : List Rec) : Option ImgFail :=
  recs.findSome? (fun r => (r.bad b slots).map (fun x => ImgFail.content x r.place))

/-- The number of key slots the image's records set (R307); the reset value is 0. -/
def imgSlots (recs : List Rec) : Nat :=
  recs.foldl (fun n r => if r.space = 0 then
    r.words.foldl (fun n w => if w.1 = R.sealKeystore then w.2 else n) n else n) 0

/-- The sections of records, all of them. -/
def recSects : List Nat := [1, 3, 4, 5, 6]

/-- Stages 0 to 4 of R427 that need no application: the records, or the failure. -/
def imageCheck (b : Bytes) (owner : Option (Option Bytes)) (board : Option Nat) : Except ImgFail (List Rec) :=
  match (((headFail b owner).orElse fun _ => digestFail b).orElse fun _ => boardFail b board).orElse fun _ => sectFail b with
  | some f => .error f
  | none =>
    match (boardBad b).orElse fun _ => dramSectBad b, imgRecs b recSects with
    | some f, _ => .error f
    | none, .error f => .error f
    | none, .ok recs => match recsFail b (imgSlots recs) recs with
      | some f => .error f
      | none => .ok recs

/-- Places that the image gives and no register holds (assumption 11). -/
def Dev.loadPlaces (d : Dev) (b : Bytes) : Dev :=
  let tabs := imgTables b
  let e := Config.imageItem b 9
  let d := d.onSess (fun s => { s with max := imgSessMax b, base := Config.imageItem b 3 })
  let d := d.onPool (fun p => { p with
    storeDram := Config.imageItem b 4 % 2 = 1, storeBase := Config.imageItem b 5, owner := imgOwner b })
  let d := d.onBook (fun k => { k with base := Config.imageItem b 6 })
  let d := d.onHelp (fun h => { h with opBase := Config.imageItem b 7, opSize := Config.imageItem b 8 })
  d.onCores (fun c => { c with dirA := tabs, dirB := tabs, keeperEntry := [e, e] })

end Sys2Proof.Machine
end

