-- ==== Sys2Proof/Machine/Load.lean ====
section
/-! DEFINITION. Cold, Load and Survey mode (R426 to R435, R441), and the start of Service. -/

namespace Sys2Proof.Machine

/-! ## Cold mode (R434, R435) -/

/-- The words of LOAD_OWNER show the fused owner hash; all 0 when it is blank. -/
def Dev.setOwner (d : Dev) : Dev :=
  (List.range 8).foldl (fun d w => d.setIo (R.loadOwner + 4 * w) (leAt (d.load.fuse.getD []) (4 * w) 4)) d

/-- A command the Strongroom holds whose sender is reset. -/
def SrCmd.orphan (c : SrCmd) : SrCmd := { c with src := Src.gone, accepted := 0 }

/-- The Strongroom keeps running from its own island (R435, R502): what it has taken it goes on with, though nobody waits for it any
more, and the pages it is signing are signed. What had not reached it is gone with the blocks that sent it. -/
def Strong.island (s : Strong) : Strong :=
  { s.storePages with
    todWait := s.todWait.map SrCmd.orphan, queue := s.queue.map SrCmd.orphan,
    cals := s.cals.map (fun c => { c with src := Src.gone }), asked := [], lost := [] }

/-- Every block but the Strongroom is held in reset. DRAM is not refreshed, and what it held is gone (assumption 5). -/
def Dev.toCold (d : Dev) : Dev :=
  let e := { Dev.reset with
    out := d.out, free := d.free, elec := d.elec, strong := d.strong.island, load := { Load.init with fuse := d.load.fuse } }
  e.setOwner.setIoFld R.loadStat 2 0 Mode.cold

/-- Load mode begins when reset is released and every rail is within its window, no scan instruction holding the device. -/
def Dev.leaveCold (d : Dev) : Dev :=
  if d.mode = Mode.cold && !d.elec.resetLow && !d.elec.scanHold && d.elec.railsOut.isEmpty then
    d.setIoFld R.loadStat 2 0 Mode.load
  else d

/-- RESET_ASSERT (R499). -/
def execResetAssert (s : State) : Host.Outcome State Fault Refusal :=
  s.run (fun d => (d.onElec (fun e => { e with resetLow := true })).toCold)

/-- RESET_RELEASE (R499). -/
def execResetRelease (s : State) : Host.Outcome State Fault Refusal :=
  s.run (fun d => (d.onElec (fun e => { e with resetLow := false })).leaveCold)

/-! ## LOAD_CTL (R435) -/

/-- A write of LOAD_CTL; in Load mode only the host writes the LOAD registers (R430). Where no drip runs, the next boundary
is at once. -/
def Dev.loadCtl (d : Dev) (m v : Nat) : Dev :=
  d.doorbell m R.loadCtl (if d.mode = Mode.load then [3] else []) 18 v (fun d =>
    let limp := bitOf v 16
    let cold := bitOf v 17
    if v % 2 ^ 16 ≠ 0x4B58 || (limp && cold) then d.setPer m R.loadCtlStat Code.reserved
    else
      let d := d.setPer m R.loadCtlStat Code.ok
      if cold then (if d.serving then d.onLoad (fun l => { l with coldReq := true }) else d.toCold)
      else if limp then d.onLoad (fun l => { l with limpReq := true }) else d)

/-- LOAD_CTL_COLD: the write with the cold bit. -/
def execLoadCtlCold (m key : Nat) (s : State) : Host.Outcome State Fault Refusal :=
  s.run (fun d => d.loadCtl m (key % 2 ^ 16 + 2 ^ 17))

/-- LOAD_CTL_LIMP: the write with the limp bit. -/
def execLoadCtlLimp (m key : Nat) (s : State) : Host.Outcome State Fault Refusal :=
  s.run (fun d => d.loadCtl m (key % 2 ^ 16 + 2 ^ 16))

/-! ## An attempt to load an image (R425 to R430) -/

/-- Words of the LOAD block that tell what this stay in Load mode has found: the mode, the attempts, the owner hash, pins and board. -/
def loadFound (o : Nat) : Bool := 0x200000 ≤ o && o < R.loadLimpCfg

/-- Every field at its reset value, but for what the loader has found and what stands outside the blocks (R425). -/
def Dev.blank (d : Dev) : Dev :=
  let csr := { Csr.init with io := d.csr.io.filter (fun e => loadFound e.1), rdata := d.csr.rdata }
  { Dev.reset with
    out := d.out, free := d.free, elec := d.elec, strong := d.strong, load := d.load, host := d.host, csr := csr }

/-- LOAD_ATT_s of an attempt. -/
def Dev.setAtt (d : Dev) (s : Nat) (f : ImgFail) : Dev :=
  (d.setIo (R.loadAtt + 8 * s) (f.code + f.reason * 2 ^ 8 + f.detail * 2 ^ 16)).setIo (R.loadAttWhere + 8 * s) f.place

/-- The board id that the LOAD registers show. -/
def Dev.board (d : Dev) : Option Nat := if d.ioFld R.loadPins 14 14 = 1 then some (d.io R.loadBoardId) else none

/-- Every commit group. -/
def allGroups : Nat := 0x03FFFFF9

/-- An image that states no learn budget has 20 × the drip period in µs (R33). -/
def Dev.learnDefault (d : Dev) (recs : List Rec) : Dev :=
  if recs.any (fun r => r.space = 0 && r.words.any (fun w => w.1 = R.dripBudget)) then d
  else d.setIoFld R.dripBudget 7 0 (10 * 2 ^ d.ioFld R.dripCfg 1 0)

/-- The records of Load mode applied, with every load check and the validation of every group; the image offset of a
failure that no record states is open. -/
def Dev.loadImage (d : Dev) (b : Bytes) (recs : List Rec) : Except ImgFail Dev :=
  let now := recs.filter (fun r => r.sect = 1 || r.sect = 4 || r.sect = 5)
  let d := (d.loadPlaces b).loadDram b
  let d := (now.foldl (fun d r => d.loadRec b d.cores.dirA true r) d).learnDefault recs
  let at_ := Config.freeNat d.free
  if d.roRange then .error (ImgFail.content 1 at_)
  else match d.macroBad b false recs with
    | some o => .error (ImgFail.content 7 o)
    | none =>
      if d.loadCheck then .error (ImgFail.content 7 at_)
      else match firstBad (d.content allGroups (fun _ => none)).failures allGroups with
        | some x => .error (ImgFail.content x.detail at_)
        | none => .ok d

/-- Survey mode starts link training on the lanes that a MAC or the Rope uses (R121, R431). -/
def Dev.lanesTrain (d : Dev) : Dev :=
  (List.range 65).foldl (fun d m => (d.macLanes m).foldl (fun d l => d.laneRestart 1 l) d) d

/-- Every transmit lane is electrically idle: no MAC holds a link and the Rope is down (R433). -/
def Dev.lanesIdle (d : Dev) : Dev :=
  (List.range 20).foldl (fun d l => d.laneRestart 0 l) ((List.range 64).foldl Dev.macLinkDown d.ropeLoss)

/-- What the LOAD registers say of the image in force. -/
def Dev.imageRegs (d : Dev) (b : Bytes) (src : Nat) : Dev :=
  let d := (d.setIoFld R.loadStat 4 3 src).setIoFld R.loadStat 15 8 (imgFormat b)
  let d := (d.setIoFld R.loadStat 24 16 (imgCount b)).setIo64 R.loadBuildLo (leAt b 24 8)
  (List.range 8).foldl (fun d w => d.setIo (R.loadDigest + 4 * w) (leAt (imgDigest b) (4 * w) 4)) d

/-- An attempt from source `s` (0 NVM A, 1 NVM B, 2 host) on the bytes it gives: Survey mode, or a rejection that leaves
reset values. The change of mode signals vector 5 (R457). With `enrol` reason OWNER is skipped and the fuse is blown on success (R430). -/
def Dev.attempt (d : Dev) (s : Nat) (b : Bytes) (enrol : Bool) : Dev :=
  let d := d.blank
  let owner := if enrol then none else some d.load.fuse
  match imageCheck b owner d.board with
  | .error f => d.setAtt s f
  | .ok recs => match d.loadImage b recs with
    | .error f => d.freeStep.setAtt s f
    | .ok e =>
      let e := (e.imageRegs b (s + 1)).setIoFld R.loadStat 5 5 (if s = 1 then 1 else 0)
      let e := e.onLoad (fun l => { l with image := b, enrol := false, fuse := if enrol then some (imgOwner b) else l.fuse })
      let e := ((e.setOwner.setAtt s ⟨0, Code.ok, 0, 0⟩).setIoFld R.loadStat 2 0 Mode.survey).lanesTrain.chansTrain
      e.msix 0 5

/-- The board-identity EEPROM is read (R429): pins that fail, or a bad record, make it absent. -/
def Dev.readBoard (d : Dev) (i2c : Nat) (eeprom : Option Bytes) : Dev :=
  let d := d.setIoFld R.loadPins 13 12 i2c
  match (if i2c % 4 = 0 then boardId eeprom else none) with
  | some i => (d.setIoFld R.loadPins 14 14 1).setIo R.loadBoardId i
  | none => (d.setIoFld R.loadPins 14 14 0).setIo R.loadBoardId 0

/-- An attempt from an NVM: the pin test, the SFDP tables, the image. -/
def Dev.nvmAttempt (d : Dev) (s pins : Nat) (sfdp : Bool) (b : Bytes) : Dev :=
  let d := if s = 0 then d.setIoFld R.loadPins 5 0 pins else d.setIoFld R.loadPins 11 6 pins
  if pins % 64 ≠ 0 then d.blank.setAtt s ⟨1, Code.timeout, 0, 0⟩
  else if !sfdp then d.blank.setAtt s ⟨2, Code.failFormat, 0, 0⟩
  else d.attempt s b false

/-- The code of an attempt; 0 before it. -/
def Dev.attCode (d : Dev) (s : Nat) : Nat := d.ioFld (R.loadAtt + 8 * s) 7 0

/-- IMAGE_LOAD_ATTEMPT (R426, R427): NVM A first (`src` 1), NVM B (2) after it has failed. `pins` and `i2c` are the pins that
fail their tests, `sfdp` whether the tables advertise a quad read, `img` the bytes the NVM holds. -/
def execImageLoadAttempt (src pins : Nat) (sfdp : Bool) (img : Bytes) (i2c : Nat) (eeprom : Option Bytes) (s : State) :
    Host.Outcome State Fault Refusal :=
  s.run (fun d =>
    if d.mode = Mode.load && ((src = 1 && d.attCode 0 = 0) || (src = 2 && d.attCode 0 ≠ 0 && d.attCode 1 = 0)) then
      (d.readBoard i2c eeprom).nvmAttempt (src - 1) pins sfdp img
    else d)

/-! ### The host's image (R430) -/

/-- The host's go in Load mode, with or without enrol, which needs a blank fuse: after both NVMs have failed, the image is read from host memory; a length of 0 reads
nothing and completes with OK (R13). The codes stand in the order of R12. -/
def Dev.hostImage (d : Dev) (m : Nat) (enrol : Bool) : Dev :=
  let len := d.io R.loadHoLen
  if d.io R.loadHoSrc = 2 && len ≠ 0 && !d.busMaster 0 then d.setAtt 2 ⟨0, Code.notOwner, 0, 0⟩
  else if d.io R.loadHoSrc ≠ 2 || 2 ^ 28 < len || (enrol && d.load.fuse.isSome) then d.refuse m R.loadHoGo Code.reserved
  else if d.attCode 0 = 0 || d.attCode 1 = 0 || d.host.reads.any (fun e => e.2.use == .image) then
    d.refuse m R.loadHoGo Code.busyRetry
  else if len = 0 then d.setAtt 2 ⟨0, Code.ok, 0, 0⟩
  else (d.onLoad (fun l => { l with enrol := enrol })).dmaRead m (d.io64 R.loadHoAddrLo) len .image

/-- A write of LOAD_HO_GO in Load mode: only the host. -/
def Dev.loadGo (d : Dev) (m v : Nat) : Dev :=
  d.doorbell m R.loadHoGo [3] 3 v (fun d =>
    if bitOf v 0 then d.hostImage m (bitOf v 2)
    else if bitOf v 2 && d.load.fuse.isSome then d.refuse m R.loadHoGo Code.reserved
    else d)

/-- HOST_IMAGE_GO: go = 1. -/
def execHostImageGo (m : Nat) (s : State) : Host.Outcome State Fault Refusal :=
  s.run (fun d => if d.mode = Mode.load then d.loadGo m 1 else d)

/-- ENROL: go = 1 with enrol = 1; outside Load mode it completes with RESERVED_VALUE. -/
def execHostEnrol (m : Nat) (s : State) : Host.Outcome State Fault Refusal :=
  s.run (fun d =>
    if d.mode = Mode.load then d.loadGo m 5
    else d.ownDoorbell m 2 R.loadHoGo 3 5 (fun d => d.refuse m R.loadHoGo Code.reserved))

/-- The data of the host's image arrived. -/
def Dev.imageArrived (d : Dev) (b : Bytes) : Dev := if d.mode = Mode.load then d.attempt 2 b d.load.enrol else d

/-! ## Limp triggers (R441) -/

/-- Active cores of the device. -/
def Dev.coresActive (d : Dev) : Nat :=
  ((List.range 16).map (fun g => ((d.gal g).coreMap.filter (fun c => c ≠ 9)).length)).foldl (· + ·) 0
/-- Active format engines. -/
def Dev.fmtActive (d : Dev) : Nat := ((List.range 18).filter (fun e => (d.fmtEng e).state = .active)).length
/-- Active hash engines. -/
def Dev.hashActive (d : Dev) : Nat := 32 - d.pool.hashFenced.length

/-- The first trigger that holds. -/
def Dev.limpCause (d : Dev) : Option Nat :=
  let c := d.io R.loadLimpCfg
  if d.coresActive < bits c 7 0 then some 1
  else if (d.gal 0).coreMap.all (fun x => x = 9) then some 2
  else if d.activeEngs.length < bits c 14 8 then some 3
  else if d.fmtActive < bits c 19 15 then some 4
  else if d.hashActive < bits c 25 20 then some 5
  else if bitOf c 26 && (List.range 8).any (fun x => d.chanState x = 5) then some 6
  else if d.load.limpReq then some 7
  else none

/-- The record and the cause of an entry into Limp mode. -/
def Dev.limpRecord (d : Dev) (cause : Nat) : Dev :=
  ((d.setIo R.loadLimpStat cause).onLoad (fun l => { l with limpReq := false })).incident 2 Code.orphaned 0 cause
    (d.coresActive % 2 ^ 8 + d.activeEngs.length % 2 ^ 8 * 2 ^ 8 + d.fmtActive * 2 ^ 16)

/-! ## Survey mode (R431 to R433) -/

/-- A core that Moestest fails in Survey mode (R170, R203): the reset generations of its threads rise (R181), and the spare, if it is
sound and unused, carries its number. -/
def Dev.surveyCore (d : Dev) (g p : Nat) : Dev :=
  let G := d.gal g
  if 15 < g || 8 < p || G.retired.contains p then d
  else
    let d := (coreThreads g p).foldl (fun d id => d.updThr id Thread.raise) (d.bump (R.gallRetireCnt + 0x40000 * g))
    let rec_ (spare : Nat) (d : Dev) : Dev := d.incident 14 Code.orphaned (ownerTag ⟨g, p, 0⟩) (g + p * 2 ^ 4 + spare * 2 ^ 8) 0
    match d.logicalOf g p with
    | none => rec_ 15 (d.setGal g { G with retired := G.retired ++ [p], spare := 9 })
    | some l =>
      if G.spare < 9 then
        let d := d.setGal g { G with retired := G.retired ++ [p], spare := 9, coreMap := G.coreMap.set l G.spare }
        let d := (List.range 8).foldl (fun d t =>
          d.updThr ⟨g, G.spare, t⟩ (fun x => { x with mem := (d.thr ⟨g, p, t⟩).mem, rgen := (d.thr ⟨g, p, t⟩).rgen })) d
        rec_ G.spare (d.loadCommon g l G.spare)
      else
        let m := G.coreMap.set l 9
        let m := if l ≠ 0 then m else match ((List.range 8).reverse).find? (fun h => m.getD h 9 ≠ 9) with
          | some h => (m.set 0 (m.getD h 9)).set h 9
          | none => m
        rec_ 15 (d.setGal g { G with retired := G.retired ++ [p], coreMap := m })

/-- A spare seal engine that Moestest fails is retired, with no replacement (R20, R431). -/
def Dev.surveySeal (d : Dev) (e : Nat) : Dev :=
  if (d.eng e).state ≠ .spare then d
  else (d.setEng e { d.eng e with state := .retired, cause := 4 }).sealRetired e 4 0 none

/-- A spare format engine that Moestest fails is retired, with no replacement (R20, R431). -/
def Dev.surveyFmt (d : Dev) (e : Nat) : Dev :=
  if (d.fmtEng e).state ≠ .spare then d
  else (d.setFmtEng e { d.fmtEng e with state := .retired, cause := 1 }).fmtRetired e 1 0 none

/-- Every unit that fails is retired; spares that start have passed their test when Survey ends. -/
def Dev.surveyUnits (d : Dev) (r : Survey) : Dev :=
  let spares := r.cores.filter (fun c => c.2 = 8)
  let d := (spares ++ r.cores.filter (fun c => c.2 ≠ 8)).foldl (fun d c => d.surveyCore c.1 c.2) d
  let d := (r.sealEngs.filter (fun e => e < 104)).foldl Dev.surveySeal d
  let d := (r.fmtEngs.filter (fun e => e < 18)).foldl Dev.surveyFmt d
  let d := r.sealEngs.foldl (fun d e => if e < 104 then d.retireSeal e 4 else d) d
  let d := r.fmtEngs.foldl (fun d e => if e < 18 then d.retireFmt e 1 else d) d
  let d := r.hashEngs.foldl Dev.hashFence d
  let d := d.onPool (fun p => { p with
    engs := p.engs.map (fun e => if e.state = .starting then { e with state := .active } else e) })
  d.onFmt (fun p => { p with engs := p.engs.map (fun e => if e.state = .starting then { e with state := .active } else e) })

/-- A section as the second reading gives it still passes its digest. -/
def rereadOk (img again : Bytes) (id : Nat) : Bool :=
  match (imgSects img).find? (fun s => s.id = id && s.known) with
  | none => true
  | some s => if imgFormat img = 1 then sha256 (s.payload again) == s.digest.take 32 else sha384 (s.payload again) == s.digest

/-- Why Survey mode fails (R433), the first that holds (assumption 60). -/
def Dev.surveyFail (d : Dev) (r : Survey) : Option Nat :=
  if d.dramShort then some 1
  else if !rereadOk d.load.image r.reread 3 || !rereadOk d.load.image r.reread 6 then some 2
  else if r.sram then some 3
  else if (d.gal 0).coreMap.all (fun x => x = 9) then some 4
  else if r.pll then some 5
  else none

/-- The code of installing a blob in a slot (R315). -/
def Dev.blobCode (d : Dev) (slot : Nat) (b : Bytes) : Nat :=
  let a := leAt b 5 1
  if leAt b 4 1 ≠ 1 then Code.versionMismatch
  else if (algOf a).isNone || !algAccepts a 6 || b.length ≠ blobLen a || d.slotCount ≤ slot || (d.keySlot slot).isSome
    || leAt b 0 4 ≠ 0x4B57584B || leAt b 6 2 ≠ 0 || leAt b 21 3 ≠ 0 || leAt b 44 4 ≠ (algSizes a).l then Code.reserved
  else match d.openBlob b with
    | none => Code.sealInvalid
    | some k => if !Config.keyPairOk a k then Code.sealInvalid
                else if d.activeEngs.length < 2 then Code.failEmpty else Code.ok

/-- A KEYS record: its blob is installed, or the slot stays EMPTY and the failure is counted and recorded (R432). -/
def Dev.loadKeyRec (d : Dev) (r : Rec) : Dev :=
  let c := d.blobCode r.addr r.data
  if c = Code.ok then d.installKey r.addr r.data
  else (d.setIoFld R.loadSurvey 19 4 (Nat.min (d.ioFld R.loadSurvey 19 4 + 1) 0xFFFF)).incident 15 c 0 r.addr 0

/-- The records of a section, none when they do not parse. -/
def recsOf (b : Bytes) (id : Nat) : List Rec :=
  match sectRecs b id with
  | .ok l => l
  | .error _ => []

/-- The Cellarbook starts an epoch with its GENESIS record (R380, R382, R384, R433), then the records that were owed. -/
def Dev.genesis (d : Dev) : Dev :=
  let d := if d.strong.powered then d.onStrong (fun s => { s with
      epoch := s.epoch + 1, closed := false, mramGen := s.mramGen + 1 }) else d
  let d := d.onBook (fun k => { k with
    started := true, num := 0, chain := d.strong.root, cur := 0, slot := k.wp, first := 0, prev := d.strong.root })
  let d := d.hwRec 0 [] (leBytes 8 d.strong.epoch)
  d.strong.owed.foldl (fun d r => d.chainRec r none) (d.onStrong (fun s => { s with owed := [] }))

/-- Drip 0 begins (R28, R38): generation 1 in every group, the keepers at their entry point, exception buckets full. -/
def Dev.startService (d : Dev) : Dev :=
  let d := d.onDrip (fun p => { p with now := 0, gen := 1 })
  let d := groupBits.foldl (fun d g => d.setGroup g { Group.init with genLive := 1 }) d
  let d := d.formSets
  let d := (List.range 16).foldl (fun d g => match d.keeper g with
    | some k => d.startKeeper k 0
    | none => d) d
  let d := d.onIngr (fun i => { i with bucket := (List.range 8).foldl (fun m c => spSet 0 m c (d.bucketCap c)) [] })
  d.genesis

/-- The records that the first boundary of the new mode makes: an image found on NVM B (R427). -/
def Dev.fellBackRecord (d : Dev) : Dev :=
  if d.ioFld R.loadStat 5 5 = 1 then
    d.incident 2 (d.attCode 0) 0 (d.ioFld R.loadAtt 15 8) (d.io R.loadAttWhere)
  else d

/-- The new mode (R433): LIMP where a trigger of R441 holds, else SERVICE. -/
def Dev.firstMode (d : Dev) : Option Nat → Dev
  | some c => (d.limpRecord c).setMode Mode.limp
  | none => d.setMode Mode.service

/-- The live channels without a share enter self-refresh (R409). -/
def Dev.spareChans (d : Dev) : Dev :=
  (List.range 8).foldl (fun d c => if d.chanState c = 2 && !d.chanShared c then d.setChanState c 4 else d) d

/-- DRAM_DATA and KEYS are installed, channels without a share go to self-refresh, and drip 0 begins (R409, R431, R432). -/
def Dev.surveyDone (d : Dev) : Dev :=
  let d := ((recsOf d.load.image 3).foldl (fun d x => d.loadRec d.load.image d.cores.dirA true x) d).spareChans
  let d := (d.setIoBit R.loadSurvey 3).startService
  (recsOf d.load.image 6).foldl Dev.loadKeyRec d.fellBackRecord

/-- Survey mode has failed with a cause, or ends. -/
def Dev.surveyOut (d : Dev) : Option Nat → Dev
  | some c => d.lanesIdle.setIoFld R.loadSurvey 2 0 c
  | none => d.surveyDone.firstMode d.surveyDone.limpCause

/-- The device once every unit is trained and tested; the Strongroom's own checks break its seal under the causes 1 to 4
that they find (R371). -/
def Dev.surveyed (d : Dev) (r : Survey) : Dev :=
  (r.sealCauses.filter (· ≤ 4)).foldl Dev.breakSeal ((d.trainChans r.trainings).surveyUnits r)

/-- Survey mode ends (R432, R433). -/
def Dev.surveyEnd (d : Dev) (r : Survey) : Dev := (d.surveyed r).surveyOut ((d.surveyed r).surveyFail r)

/-- SURVEY_END (R433): not while a monitor reports its rail outside the window (R501). -/
def execSurveyEnd (r : Survey) (s : State) : Host.Outcome State Fault Refusal :=
  s.run (fun d => if d.mode = Mode.survey && d.ioFld R.loadSurvey 2 0 = 0 && d.elec.railsOut.isEmpty then d.surveyEnd r else d)

end Sys2Proof.Machine
end

