-- ==== Sys2Proof/Machine/Handover.lean ====
section
/-! DEFINITION. Handover (R436 to R440): a second image replaces the first without stopping traffic. -/

namespace Sys2Proof.Machine

/-- The states of LOAD_HO_STAT. -/
abbrev Ho.idle : Nat := 0
/-- Pass 1. -/
abbrev Ho.verify : Nat := 1
/-- Waits for every group to be STAGED. -/
abbrev Ho.prepare : Nat := 2
/-- Pass 2. -/
abbrev Ho.write : Nat := 3
/-- Validation, and the wait for the target. -/
abbrev Ho.ready : Nat := 4
/-- Flipped; the old generation drains. -/
abbrev Ho.flipped : Nat := 5
/-- Complete or aborted. -/
abbrev Ho.done : Nat := 6

/-- The state of the Handover. -/
def Dev.hoState (d : Dev) : Nat := d.ioFld R.loadHoStat 2 0

/-- Set it; a change signals vector 5 (R457), at this boundary (`now`) or at the end of the drip. -/
def Dev.setHo (d : Dev) (now : Bool) (st : Nat) : Dev :=
  if d.hoState = st then d
  else
    let d := d.setIoFld R.loadHoStat 2 0 st
    if now then d.signal 5 else d.vector 5

/-- Change the Handover's record. -/
def Dev.onHo (d : Dev) (f : Handover → Handover) : Dev := d.onLoad (fun l => { l with ho := f l.ho })

/-- The code and reason of LOAD_HO_STAT. -/
def Dev.hoCode (d : Dev) (code reason : Nat) : Dev := (d.setIoFld R.loadHoStat 15 8 code).setIoFld R.loadHoStat 23 16 reason

/-- The Handover is before its flip, and nothing is being restored. -/
def Dev.hoOpen (d : Dev) : Bool := Ho.verify ≤ d.hoState && d.hoState ≤ Ho.ready && d.load.ho.restore.isNone

/-! ## go and cancel (R436, R438) -/

/-- The target that LOAD_HO_TGT names. -/
def Dev.hoTarget (d : Dev) : Nat := d.io R.loadHoTgtLo + d.ioFld R.loadHoTgtHi 23 0 * 2 ^ 32

/-- The code and reason of a go (R436), in the order of R12. -/
def Dev.hoGoCode (d : Dev) : Nat × Nat :=
  if d.io R.loadHoSrc = 2 && d.io R.loadHoLen ≠ 0 && !d.busMaster 0 then (Code.notOwner, 0)
  else if d.mode ≠ Mode.service then (Code.reserved, 17)
  else if d.hoTarget < d.drip.now + 2 || (2 ≤ d.io R.loadHoSrc && 2 ^ 28 < d.io R.loadHoLen) then (Code.reserved, 0)
  else (Code.ok, 0)

/-- A go outside Load mode. While another Handover runs its status stays, and the refusal is recorded alone; a length of 0
from host or DRAM is done with OK and reads nothing (R13, assumption 60). -/
def Dev.hoGo (d : Dev) (m : Nat) : Dev :=
  let (code, reason) := d.hoGoCode
  let src := d.io R.loadHoSrc
  if d.hoState ≠ Ho.idle && d.hoState ≠ Ho.done then
    d.refuse m R.loadHoGo (if code = Code.ok then Code.busyRetry else code)
  else
    let d := d.setIoFld R.loadHoStat 26 24 m
    if code ≠ Code.ok then d.hoCode code reason
    else if 2 ≤ src && d.io R.loadHoLen = 0 then ((d.hoCode Code.ok 0).setHo false Ho.done).setIo R.loadHoGen 0
    else (((d.hoCode Code.ok 0).setHo false Ho.verify).setIo R.loadHoGen 0).onHo (fun _ => { Handover.init with
      target := d.hoTarget, limit := d.ioFld R.loadHoTgtHi 27 24, src := d.io R.loadHoSrc, addr := d.io64 R.loadHoAddrLo,
      len := d.io R.loadHoLen })

/-- The Handover aborts (R438): the reason, the incident record; where the groups are sealed they are restored first, else
nothing was written and it is over. -/
def Dev.hoAbort (d : Dev) (now : Bool) (code reason : Nat) : Dev :=
  let d := (d.hoCode code reason).incident 2 code 0 reason d.hoState
  if d.drip.hoSeal.isSome then
    d.onHo (fun h => { h with restore := some (d.drip.now, (groupBits.map bankLines).foldl (· + ·) 0) })
  else (d.setHo now Ho.done).onHo (fun _ => Handover.init)

/-- A cancel: it aborts a Handover before its flip. -/
def Dev.hoCancel (d : Dev) : Dev := if d.hoOpen then d.hoAbort false Code.orphaned 18 else d

/-- A write of LOAD_HO_GO (R430, R436). -/
def Dev.hoWrite (d : Dev) (m v : Nat) : Dev :=
  if d.mode = Mode.load then d.loadGo m v
  else d.ownDoorbell m 2 R.loadHoGo 3 v (fun d =>
    if bitOf v 2 then d.refuse m R.loadHoGo Code.reserved
    else
      let d := if bitOf v 1 then d.hoCancel else d
      if bitOf v 0 then d.hoGo m else d)

/-- HANDOVER_GO: go = 1. -/
def execHandoverGo (m : Nat) (s : State) : Host.Outcome State Fault Refusal :=
  s.run (fun d => if d.mode = Mode.load then d else d.hoWrite m 1)

/-- HANDOVER_CANCEL: cancel = 1. -/
def execHandoverCancel (m : Nat) (s : State) : Host.Outcome State Fault Refusal := s.run (fun d => d.hoWrite m 2)

/-! ## Pass 1 (R437) -/

/-- DRAM areas of the running generation that no DRAM_DATA record may touch: its tables, the session region, the key store,
the Cellarbook ring and the trace ring. -/
def Dev.hoAreas (d : Dev) : List (Nat × Nat) :=
  let dir := if (d.group 14).liveB then d.cores.dirB else d.cores.dirA
  [(d.io64 R.dispTraceBaseLo, 2 ^ 20), (d.book.base, 2 ^ d.ioFld R.bookRing 5 0), (d.sess.base, 528 * d.sess.max),
   (d.pool.storeBase, if d.pool.storeDram then 2048 * d.slotCount else 0)]
    ++ dir.map (fun e => (e.2.base, if e.2.dram then e.2.size * e.2.count else 0))

/-- The payload of a section, none when the image lacks it. -/
def sectBytes (b : Bytes) (id : Nat) : Option Bytes := (imgSect b id).map (fun s => s.payload b)

/-- The image is compatible with the running one (R437). -/
def Dev.hoCompat (d : Dev) (b : Bytes) (recs : List Rec) : Bool :=
  sectBytes b 2 == sectBytes d.load.image 2
    && recs.all (fun r => r.space ≠ 0 || r.words.all (fun w =>
      w.1 = R.dripOwn + 4 * 25 || w.2 &&& imageRo w.1 = d.io w.1 &&& imageRo w.1))
    && imgSessMax b = d.sess.max && Config.imageItem b 3 = d.sess.base
    && (Config.imageItem b 4 % 2 = 1) = d.pool.storeDram && Config.imageItem b 5 = d.pool.storeBase
    && Config.imageItem b 6 = d.book.base
    && recs.all (fun r => r.space ≠ 3 || d.hoAreas.all (fun a => !overlap r.addr r.data.length a.1 a.2))

/-- The bytes of a pass: from DRAM for source 3, else what the source gave, of the host's buffer as many as LOAD_HO_LEN says;
whether DRAM was poisoned. -/
def Dev.hoBytes (d : Dev) (img : Bytes) : Bytes × Bool :=
  let h := d.load.ho
  if h.src = 3 then (d.memBytes true h.addr h.len, d.memPoisoned true h.addr h.len) else (if h.src = 2 then img.take h.len else img, false)

/-- A reading that does not end: the pin test or the SFDP tables of an NVM (R426); a read of host memory without an answer or with
poison (R449), whose reason the spec does not give; a poisoned line of DRAM (R407). `fault` 1 and 2 are the first or the second
of its source's; the code and the reason, none where the reading goes on. -/
def Dev.hoReadFault (d : Dev) (fault : Nat) (poison : Bool) : Option (Nat × Nat) :=
  match d.load.ho.src, fault with
  | 3, _ => if poison then some (Code.poisoned, 14) else none
  | 2, 1 => some (Code.timeout, d.freeVal % 256)
  | 2, 2 => some (Code.poisoned, d.freeVal % 256)
  | _, 1 => some (Code.timeout, 1)
  | _, 2 => some (Code.failFormat, 2)
  | _, _ => none

/-- A pass reads its bytes; `k` goes on with them, a reading that fails aborts. -/
def Dev.hoRead (d : Dev) (fault : Nat) (img : Bytes) (k : Bytes → Dev) : Dev :=
  let (b, poison) := d.hoBytes img
  match d.hoReadFault fault poison with
  | some (code, reason) =>
    (if d.load.ho.src = 3 then d.countRead true d.load.ho.addr d.load.ho.len else d.freeStep).hoAbort true code reason
  | none => k b

/-- Pass 1 checks an image under R427, load checks and content included, and R437; nothing is written. -/
def Dev.hoVerify (d : Dev) (b : Bytes) : Dev :=
  match imageCheck b (some d.load.fuse) d.board with
  | .error f => d.hoAbort true f.code f.reason
  | .ok recs => match d.blank.loadImage b recs with
    | .error f => d.hoAbort true f.code f.reason
    | .ok _ =>
      if d.hoCompat b recs then (d.setHo true Ho.prepare).onHo (fun h => { h with image := b })
      else d.hoAbort true Code.reserved 13

/-- HANDOVER_VERIFY_DONE: at the boundary after pass 1, with what its reading gave. -/
def execHandoverVerifyDone (read : HoReading) (s : State) : Host.Outcome State Fault Refusal :=
  s.run (fun d => if d.hoState ≠ Ho.verify then d else d.hoRead read.fault read.img d.hoVerify)

/-! ## The seal and pass 2 -/

/-- The STAGED bank of every group takes its reset values. -/
def Dev.hoClear (d : Dev) (b : Bytes) : Dev :=
  let keep (bank : Bool) (e : Nat × Word) : Bool := (d.group (groupOfKey e.1)).liveB = bank
  let d := d.onCsr (fun c => { c with bankA := c.bankA.filter (keep false), bankB := c.bankB.filter (keep true) })
  let d := groupBits.foldl (fun d g => d.setGroup g { d.group g with whole := true }) d
  let tabs := imgTables b
  let e := Config.imageItem b 9
  if (d.group 14).liveB then d.onCores (fun c => { c with tabA := [], dirA := tabs, keeperEntry := c.keeperEntry.set 0 e })
  else d.onCores (fun c => { c with tabB := [], dirB := tabs, keeperEntry := c.keeperEntry.set 1 e })

/-- HANDOVER_SEAL: the first boundary with every group STAGED and no slot SEALED or WAITING. -/
def execHandoverSeal (s : State) : Host.Outcome State Fault Refusal :=
  s.run (fun d =>
    let held := (List.range 16).any (fun n => (d.slot n).state = .sealed || (d.slot n).state = .waiting)
    if d.mode = Mode.service && d.hoState = Ho.prepare && d.allStaged allGroups && !held then
      (((d.onDrip (fun p => { p with hoSeal := some d.drip.now })).hoClear d.load.ho.image).setHo true Ho.write).setMode
        Mode.handover
    else d)

/-- The new image's table directory. -/
def Dev.stagedDir (d : Dev) : Map TabEnt := if (d.group 14).liveB then d.cores.dirA else d.cores.dirB

/-- A record that a Handover skips (R437): Lode rows, buckets, shelves and common memory, DATA tables. -/
def Rec.skipped (r : Rec) (b : Bytes) (tabs : Map TabEnt) : Bool :=
  (4 ≤ r.space && r.space ≤ 6)
    || (r.space = 2 && (List.range r.data.length).all (fun i => (bankKey b tabs false (r.addr + i)).isNone))

/-- Pass 2 applied: records into the STAGED banks, DRAM_DATA, the skipped ones counted, and the content checked as R49
and R523 say. -/
def Dev.hoApply (d : Dev) (b : Bytes) (recs : List Rec) : Dev :=
  let tabs := d.stagedDir
  let recs := recs.filter (fun r => r.sect ≠ 6)
  let skip := recs.filter (fun r => r.skipped b tabs)
  let d := (recs.filter (fun r => !r.skipped b tabs)).foldl (fun d r => d.loadRec b tabs false r) d
  let d := (d.bumpBy R.loadHoSkip skip.length).setHo true Ho.ready
  let failed := match d.macroBad b (!(d.group 14).liveB) recs with
    | some _ => some (Code.reserved, 7)
    | none => (firstBad (d.content allGroups (fun _ => d.drip.hoSeal)).failures allGroups).map (fun x => (Code.reserved, x.detail))
  d.onHo (fun h => { h with ready := some d.drip.now, failed := failed })

/-- The second reading gives other bytes in a section than its digest states (R438). -/
def hoChanged (img again : Bytes) : Bool :=
  (imgSects img).any (fun s =>
    let p := s.payload again
    !(if imgFormat img = 1 then sha256 p == s.digest.take 32 else sha384 p == s.digest))

/-- Pass 2 checks every digest again, and applies the records. -/
def Dev.hoPass2 (d : Dev) (again : Bytes) : Dev :=
  if hoChanged d.load.ho.image again then d.hoAbort true Code.sealInvalid 14
  else match imgRecs d.load.ho.image recSects with
    | .ok recs => d.hoApply d.load.ho.image recs
    | .error _ => d

/-- HANDOVER_WRITE_DONE: pass 2 ends, with what its reading gave. -/
def execHandoverWriteDone (read : HoReading) (s : State) : Host.Outcome State Fault Refusal :=
  s.run (fun d => if d.hoState ≠ Ho.write || d.load.ho.restore.isSome then d else d.hoRead read.fault read.img d.hoPass2)

/-! ## The flip (R436, R439) -/

/-- The flip may happen at this boundary. -/
def Dev.hoMayFlip (d : Dev) : Bool :=
  d.hoState = Ho.ready && d.load.ho.restore.isNone && d.load.ho.failed.isNone && d.load.ho.target ≤ d.drip.now
    && (match d.load.ho.ready with | some r => r + 1 ≤ d.drip.now | none => false) && d.flipAllowed

/-- A KEYS record at the flip: installed where its slot is EMPTY, else skipped and counted. -/
def Dev.hoKey (d : Dev) (r : Rec) : Dev :=
  if (d.keySlot r.addr).isSome then d.bump R.loadHoSkip else d.loadKeyRec r

/-- Every group flips with one generation; KEYS and the load copies follow. -/
def Dev.hoFlip (d : Dev) : Dev :=
  let b := d.load.ho.image
  let old := d
  let gen := nextGen d.drip.gen
  let d := groupBits.foldl (fun d g => d.flipGroup gen g) (d.onDrip (fun p => { p with gen := gen, hoSeal := none }))
  let d := d.afterFlip old allGroups
  let d := d.onCores (fun c => { c with loadCopy := [] })
  let d := (recsOf b 4).foldl (fun d r => if r.space = 4 then d.loadRec b [] false r else d) d
  let d := (recsOf b 6).foldl Dev.hoKey d
  let src := if old.load.ho.src = 3 then d.ioFld R.loadStat 4 3 else old.load.ho.src + 1
  ((d.imageRegs b src).onLoad (fun l => { l with image := b, ho := { l.ho with gen := gen } })).setHo true Ho.flipped

/-- HANDOVER_FLIP: at the boundary that begins max(T, the boundary after validation), subject to R40. -/
def execHandoverFlip (s : State) : Host.Outcome State Fault Refusal :=
  s.run (fun d => if d.mode = Mode.handover && d.hoMayFlip then d.hoFlip else d)

/-- HANDOVER_DRAIN_DONE: at the boundary at which the old generation's banks became CATCHUP. -/
def execHandoverDrainDone (s : State) : Host.Outcome State Fault Refusal :=
  s.run (fun d =>
    if d.serving && d.hoState = Ho.flipped && groupBits.all (fun g => (d.group g).other ≠ .trailing) then
      let d := ((d.hoCode Code.ok 0).setHo true Ho.done).setIo R.loadHoGen d.load.ho.gen
      let d := d.onHo (fun _ => Handover.init)
      if d.mode = Mode.handover then d.setMode Mode.service else d
    else d)

/-! ## Aborts (R438) -/

/-- HANDOVER_WAIT_TIMEOUT: not flipped by the boundary that begins T plus the wait limit. -/
def execHandoverWaitTimeout (s : State) : Host.Outcome State Fault Refusal :=
  s.run (fun d =>
    if d.serving && d.hoOpen && d.load.ho.target + 256 * 2 ^ d.load.ho.limit ≤ d.drip.now && !d.hoMayFlip then
      d.hoAbort true Code.timeout 16
    else d)

/-- The record of a Handover that waits past its target is due, as R51 has it for a commit (R63). -/
def Dev.hoReportDue (d : Dev) : Bool :=
  let h := d.load.ho
  d.serving && d.hoOpen && h.target < d.drip.now && (d.drip.now - h.target) % 4096 = 0
    && d.drip.now < h.target + 256 * 2 ^ h.limit && !d.hoMayFlip && h.report ≠ some d.drip.now

/-- Its record: a Handover has no slot, and what arg0 holds is open; behind its seal no group lacks a STAGED bank
(assumption 60). -/
def Dev.hoReport (d : Dev) : Dev :=
  if d.hoReportDue then
    let v := d.freeVal % 16
    let miss := if d.drip.hoSeal.isSome then 0 else d.missingBanks allGroups
    (d.freeStep.onHo (fun h => { h with report := some d.drip.now })).incident 1 Code.commitWait
      (actorMaster (d.ioFld R.loadHoStat 26 24)) v miss
  else d

/-- COMMIT_WAIT_REPORT (R51, R63): still waiting after the steps of a boundary at T plus a multiple of 4,096 drips. Slot 16
stands for the Handover. -/
def execCommitWaitReport (slot : Nat) (s : State) : Host.Outcome State Fault Refusal :=
  s.run (fun d => if slot = 16 then d.hoReport else d.slotReport slot)

/-- At a boundary: content that failed validation in the drip before aborts the Handover. -/
def Dev.hoBoundary (d : Dev) : Dev :=
  match d.load.ho.failed, d.load.ho.ready with
  | some (c, _), some r => if d.hoOpen && d.hoState = Ho.ready && r + 1 ≤ d.drip.now then d.hoAbort true c 11 else d
  | _, _ => d

/-- HANDOVER_RESTORE_DONE: every STAGED bank equals its LIVE bank again, and the groups are unsealed. -/
def execHandoverRestoreDone (s : State) : Host.Outcome State Fault Refusal :=
  s.run (fun d => match d.load.ho.restore with
    | none => d
    | some (t, n) =>
      if d.drip.now < t + copyDrips n then d
      else
        let d := d.onDrip (fun p => { p with hoSeal := none })
        let d := groupBits.foldl (fun d g => d.bankStaged g) d
        let d := (d.setHo true Ho.done).onHo (fun _ => Handover.init)
        if d.mode = Mode.handover then d.setMode Mode.service else d)

end Sys2Proof.Machine
end

