-- ==== Sys2Proof/Machine/Package.lean ====
section
/-! DEFINITION. The package (R10, R491 to R497, R501, R503): which net each ball carries, the rails, and the windows in which
their monitors hold them. No command changes any of it. -/

namespace Sys2Proof.Machine

/-! ## Rails (R497, R501, R503) -/

/-- The rails, in the order of R497; VSS is `Net.vss`. -/
inductive Rail | core | sram | sds | sdsHigh | pll | ddr | vddq | io18 | island | islandIo
  deriving DecidableEq, Repr

/-- Nominal voltage in mV. -/
def Rail.nominal : Rail → Nat
  | .core => 750
  | .sram => 800
  | .sds => 800
  | .sdsHigh => 1200
  | .pll => 800
  | .ddr => 800
  | .vddq => 1100
  | .io18 => 1800
  | .island => 800
  | .islandIo => 1800

/-- Tolerance in percent. -/
def Rail.tolerance : Rail → Nat
  | .pll => 2
  | .io18 => 5
  | _ => 3

/-- Balls of the rail. -/
def Rail.balls : Rail → Nat
  | .core => 448
  | .sram => 76
  | .sds => 30
  | .sdsHigh => 24
  | .pll => 6
  | .ddr => 38
  | .vddq => 76
  | .io18 => 12
  | .island => 4
  | .islandIo => 2

/-- The group in which a rail rises (R498); 0 for the island's, which follow no other rail (R502). -/
def Rail.group : Rail → Nat
  | .io18 => 1
  | .sdsHigh => 3
  | .vddq => 3
  | .island => 0
  | .islandIo => 0
  | _ => 2

/-- A level in mV lies within `pct` percent of the rail's nominal voltage. -/
def Rail.near (r : Rail) (pct mv : Nat) : Bool :=
  100 * mv ≤ (100 + pct) * r.nominal && (100 - pct) * r.nominal ≤ 100 * mv

/-- The level is within the tolerance that the integrator keeps (R497). -/
def Rail.inTolerance (r : Rail) (mv : Nat) : Bool := r.near r.tolerance mv

/-- The level is inside the monitor's window (R501): 6 % about nominal. -/
def Rail.inWindow (r : Rail) (mv : Nat) : Bool := r.near 6 mv

/-- Seal window (low, high), brown-out and overvoltage of an island rail in mV (R503). -/
def Rail.sealLevels : Rail → Option (Nat × Nat × Nat × Nat)
  | .island => some (760, 840, 700, 900)
  | .islandIo => some (1710, 1890, 1500, 2000)
  | _ => none

/-- A level that breaks the seal under cause 5 when it lasts (R503): above brown-out but outside the seal window for more than
2 ms, or above overvoltage for 1 µs. -/
def Rail.sealBreaks (r : Rail) (mv us : Nat) : Bool :=
  match r.sealLevels with
  | some (lo, hi, brown, high) => (brown < mv && (mv < lo || hi < mv) && 2000 < us) || (high < mv && 1 ≤ us)
  | none => false

/-! ## Nets and balls (R10, R492 to R496) -/

/-- What a ball carries: ground, a rail, a signal of the package, with its index where it has one, or a signal of a DRAM
channel: of one subchannel (false A, true B) or of both. -/
inductive Net
  | vss
  | rail (r : Rail)
  | pin (name : String) (i : Nat)
  | dram (channel : Nat) (b : Bool) (name : String) (i : Nat)
  | dramBoth (channel : Nat) (name : String)
  deriving DecidableEq, Repr

/-- The letters of a row position, 1 to 54 (R10). -/
def rowName (p : Nat) : String :=
  let l := ["A", "B", "C", "D", "E", "F", "G", "H", "J", "K", "L", "M", "N", "P", "T", "U", "V", "W", "Y"]
  if p ≤ 19 then l.getD (p - 1) "" else if p ≤ 38 then "A" ++ l.getD (p - 20) "" else "B" ++ l.getD (p - 39) ""

/-- The name of a ball: row, then column. -/
def ballName (p c : Nat) : String := rowName p ++ toString c

/-- Signal `k` of a subchannel's 72 (R494). -/
def subNet (ch : Nat) (b : Bool) (k : Nat) : Net :=
  if k < 40 then .dram ch b "DQ" k
  else if k < 60 then .dram ch b (if k % 2 = 0 then "DQS_P" else "DQS_N") ((k - 40) / 2)
  else if k < 67 then .dram ch b "CA" (k - 60)
  else if k = 67 then .dram ch b "PAR" 0
  else if k < 70 then .dram ch b "CS_N" (k - 68)
  else .dram ch b (if k = 70 then "CK_P" else "CK_N") 0

/-- Place `k` of a channel's block of 156 (R494), from 0. -/
def blockNet (ch k : Nat) : Net :=
  if k < 72 then subNet ch false k
  else if k < 144 then subNet ch true (k - 72)
  else match k with
    | 144 => .dramBoth ch "ALERT_N"
    | 145 => .dramBoth ch "RESET_N"
    | 146 => .dramBoth ch "ZQ"
    | _ => .vss

/-- The top strip (R493): rows 1 to 4, columns 13 to 42. -/
def topNet (p c : Nat) : Net :=
  let four (l : List String) (i : Nat) : Net := .pin (l.getD (p - 1) "") i
  if c < 29 then four ["LN_TX_P", "LN_TX_N", "LN_RX_P", "LN_RX_N"] (c - 13)
  else if c = 29 then four ["LN_REFCLK0_P", "LN_REFCLK0_N", "LN_REFCLK1_P", "LN_REFCLK1_N"] 0
  else if 31 ≤ c && c < 35 then four ["RP_TX_P", "RP_TX_N", "RP_RX_P", "RP_RX_N"] (c - 31)
  else if c = 35 then four ["RP_REFCLK_P", "RP_REFCLK_N", "LN_RCAL", "RP_RCAL"] 0
  else if c = 37 then four ["MG_TX_P", "MG_TX_N", "MG_RX_P", "MG_RX_N"] 0
  else if c = 38 && p ≤ 2 then four ["MG_REFCLK_P", "MG_REFCLK_N"] 0
  else .vss

/-- The SerDes, DDR, core and I/O power regions (R496): rows 5 to 50, columns 13 to 42. -/
def powerNet (p c : Nat) : Net :=
  if p ≤ 8 then match p with
    | 5 => .rail .sds
    | 7 => if c ≤ 36 then .rail .sdsHigh else .rail .pll
    | _ => .vss
  else if p ≤ 46 then
    if c = 13 || c = 42 then .rail .vddq
    else if c = 14 || c = 41 then if p % 2 = 0 then .rail .ddr else .vss
    else if (p + c) % 2 = 1 then .vss
    else if c ≤ 16 || 39 ≤ c then .rail .sram
    else .rail .core
  else match p with
    | 47 => if c ≤ 24 then .rail .io18 else .vss
    | 49 => .rail .core
    | _ => .vss

/-- A column of the bottom strip from 29 on (R495): rows BN, BP, BT, BU; an empty name is VSS. -/
def bottomCols : List (List String) :=
  [["", "", "SPI0_SCK", "SPI1_SCK"], ["PE_REFCLK_P", "SYS_REFCLK_P", "SPI0_CS_N", "SPI1_CS_N"],
   ["PE_REFCLK_N", "SYS_REFCLK_N", "SPI0_IO0", "SPI1_IO0"], ["PE_RCAL", "RESET_N", "SPI0_IO1", "SPI1_IO1"],
   ["PE_PERST_N", "I2C_SCL", "SPI0_IO2", "SPI1_IO2"], ["", "I2C_SDA", "SPI0_IO3", "SPI1_IO3"],
   ["TCLK_IN", "THERM_ALERT_N", "XTEMP0_P", "XTEMP1_P"], ["", "THERMTRIP_N", "XTEMP0_N", "XTEMP1_N"],
   ["PPS_IN", "SR_INSP_SCK", "TCK", ""], ["PPS_OUT", "SR_INSP_CS_N", "TMS", ""], ["SEAL_OK", "SR_INSP_MOSI", "TDI", ""],
   ["VDD_SR", "SR_INSP_MISO", "TDO", ""], ["VIO_SR", "VIO_SR", "TRST_N", ""], ["VDD_SR", "VDD_SR", "VDD_SR", ""]]

/-- The bottom strip (R495): rows 51 to 54, columns 13 to 42. -/
def bottomNet (p c : Nat) : Net :=
  if c < 29 then
    let n := (c - 13) / 2
    match p with
    | 51 => .pin (if c % 2 = 1 then "PE_RX_P" else "PE_RX_N") n
    | 53 => .pin "GPIO" (c - 13)
    | 54 => .pin (if c % 2 = 1 then "PE_TX_P" else "PE_TX_N") n
    | _ => .vss
  else match (bottomCols.getD (c - 29) []).getD (p - 51) "" with
    | "" => .vss
    | "VDD_SR" => .rail .island
    | "VIO_SR" => .rail .islandIo
    | s => .pin s 0

/-- The net of the ball at row position `p` and column `c`, each 1 to 54 (R492). -/
def ballNet (p c : Nat) : Net :=
  if 13 ≤ c && c ≤ 42 then if p ≤ 4 then topNet p c else if p ≤ 50 then powerNet p c else bottomNet p c
  else if 53 ≤ p then .vss
  else
    let west : Bool := c ≤ 12
    blockNet ((p - 1) / 13 + (if west then 0 else 4)) ((p - 1) % 13 * 12 + (if west then c - 1 else 54 - c))

/-- The balls that the island's I/O rail powers (R502), which no scan instruction reaches (R510). -/
def islandBall (n : Net) : Bool :=
  match n with
  | .pin s _ => ["TCLK_IN", "PPS_IN", "PPS_OUT", "SEAL_OK", "SR_INSP_SCK", "SR_INSP_CS_N", "SR_INSP_MOSI", "SR_INSP_MISO"].contains s
  | _ => false

end Sys2Proof.Machine
end

