-- ==== Sys2Proof/Machine/HostIf.lean ====
section
/-! DEFINITION. The host interface (R446 to R459): versions, mailboxes, acknowledgements, Function Level Reset, and the data
of reads of host memory. -/

namespace Sys2Proof.Machine

/-! ## Version negotiation (R451) -/

/-- The registers of versions above `v` return to their reset values. -/
def Dev.hostRegsReset (d : Dev) (v : Nat) : Dev :=
  d.onCsr (fun c => { c with io := c.io.filter (fun e => hostSince e.1 ≤ v) })

/-- A write of HOST_VER_SEL. -/
def Dev.verSelect (d : Dev) (m val : Nat) : Dev :=
  d.ownDoorbell m 21 R.hostVerSel 8 val (fun d =>
    if 3 < val then d.setIoFld R.hostVerSel 31 24 Code.versionMismatch
    else ((d.setIo R.hostVerSel val).hostRegsReset val))

/-- HOST_VER_SELECT. -/
def execHostVerSelect (m val : Nat) (s : State) : Host.Outcome State Fault Refusal :=
  s.run (fun d => d.verSelect m (val % 2 ^ 32))

/-! ## Mailboxes (R452, R453) -/

/-- A trying send of the host's 16 words into dn_chan of gallery 0; a channel that is not enabled is one the host may not
send on (R187). -/
def Dev.mailDown (d : Dev) (m : Nat) : Dev :=
  let c := d.liveFld R.hostCfg 7 0
  if !d.chanOn 0 c then d.setPer m R.hostMboxDnStat Code.notOwner
  else if (d.chan 0 c).length < 4 then
    (d.setPer m R.hostMboxDnStat Code.ok).chanPush 0 c ⟨d.perBytes m R.hostMboxDn 16, 0x200, 0⟩
  else (d.setPer m R.hostMboxDnStat Code.failEmpty).onHost (fun h => { h with dnWaiting := true })

/-- A write of HOST_MBOX_DN_GO. -/
def Dev.mailGo (d : Dev) (m v : Nat) : Dev := d.doorbell m R.hostMboxDnGo [3] 1 v (fun d => if v = 1 then d.mailDown m else d)

/-- MBOX_DOWN_SEND: go = 1. -/
def execMboxDownSend (m : Nat) (s : State) : Host.Outcome State Fault Refusal := s.run (fun d => d.mailGo m 1)

/-- A write of HOST_MBOX_UP_POP; a pop with nothing there counts as a reserved write. -/
def Dev.mailPop (d : Dev) (m v : Nat) : Dev :=
  d.doorbell m R.hostMboxUpPop [3] 1 v (fun d =>
    if v = 0 then d
    else if d.upMsgs.isEmpty then d.reservedCsr m R.hostMboxUpPop
    else d.chanPop 0 (d.liveFld R.hostCfg 15 8))

/-- MBOX_UP_POP: pop = 1. -/
def execMboxUpPop (m : Nat) (s : State) : Host.Outcome State Fault Refusal := s.run (fun d => d.mailPop m 1)

/-! ## Export acknowledgements (R458) -/

/-- A write of HOST_EXP_ACK_HI: the pair is applied; below version 1.3 it is a reserved write unless it is 0 (R451). -/
def Dev.expAck (d : Dev) (m val : Nat) : Dev :=
  d.doorbell m R.hostExpAckHi [3] 32 val (fun d =>
    if d.hostHidden R.hostExpAckHi then (if val = 0 then d else d.reservedCsr m R.hostExpAckHi)
    else d.hostAck (d.io R.hostExpAckLo + 2 ^ 32 * val))

/-- HOST_EXP_ACK. -/
def execHostExpAck (m val : Nat) (s : State) : Host.Outcome State Fault Refusal :=
  s.run (fun d => d.expAck m (val % 2 ^ 32))

/-! ## Function Level Reset (R450, R508) -/

/-- The host's commit slots: OPEN and DONE ones are released, others when they are DONE. -/
def Dev.flrSlots (d : Dev) : Dev :=
  (List.range 16).foldl (fun d s =>
    let v := d.slot s
    if v.holder ≠ 3 || v.state = .free then d
    else if v.state = .opened || v.state = .done then d.setSlot s Slot.init
    else d.setSlot s { v with hostReset := true }) d

/-- The host's view buffers are released. -/
def Dev.flrViews (d : Dev) : Dev :=
  (List.range 4).foldl (fun d v => if (d.view v).holder = 3 then d.setView v ViewBuf.init else d) d

/-- The host's mailbox buffer is cleared. -/
def Dev.flrMail (d : Dev) : Dev :=
  ((List.range 16).foldl (fun d w => d.setPer 3 (R.hostMboxDn + 4 * w) 0) d).setPer 3 R.hostMboxDnStat 0

/-- The Latches the host holds become ORPHANED (R275). -/
def Dev.flrLatches (d : Dev) : Dev := d.orphanLatches (masterTag 3)

/-- A reset of PF0. -/
def Dev.flr0 (d : Dev) : Dev :=
  let d := ((d.setIo R.hostVerSel 0).hostRegsReset 0).flrMail
  let d := (d.setIo R.hostCdone 0).setIo R.hostVdone 0
  d.flrSlots.flrViews.flrLatches.onHost (fun h => { h with unlock := true, dnWaiting := false })

/-- A reset of PF1: the export registers. -/
def Dev.flr1 (d : Dev) : Dev :=
  d.onCsr (fun c => { c with io := c.io.filter (fun e => e.1 < R.hostExpBaseLo || R.hostExpBaseLo + 0x30 ≤ e.1) })

/-- PCIE_FLR of a function. -/
def execPcieFlr (fn : Nat) (s : State) : Host.Outcome State Fault Refusal :=
  s.run (fun d => if d.mode = Mode.cold then d else match fn with
    | 0 => d.flr0
    | 1 => d.flr1
    | _ => d)

/-- PE_PERST: while it is low both functions stand as after a reset. -/
def execPePerst (low : Bool) (s : State) : Host.Outcome State Fault Refusal :=
  s.run (fun d =>
    let d := d.onElec (fun e => { e with perst := low })
    if low && d.mode ≠ Mode.cold then d.flr0.flr1 else d)

/-! ## The data of a read (R449) -/

/-- The data that a command read from its issuer's memory arrived. -/
def Dev.readArrived (d : Dev) (tag : Nat) (r : DmaRead) (bs : Bytes) : Dev :=
  let d := d.onHost (fun h => { h with reads := spErase h.reads tag })
  match r.use with
  | .cal b => d.srBlock r.master b bs
  | .fwdt => match spFind d.fwd.cmds r.master with
    | some c => d.setFwdCmd r.master (some { c with phase := .moved, data := bs, drip := d.drip.now })
    | none => d
  | .image => d.imageArrived bs

/-- HOST_READ_COMPLETION: outcome 0 data, 1 Unsupported Request, 2 Completer Abort, 3 poison. -/
def execHostReadCompletion (tag outcome : Nat) (data : Bytes) (s : State) : Host.Outcome State Fault Refusal :=
  s.run (fun d => match spFind d.host.reads tag with
    | none => d
    | some r =>
      if r.master ≠ 3 || d.elec.perst then d
      else match outcome with
        | 0 => if data.length = r.len then d.readArrived tag r data else d
        | 1 => d.readFails tag Code.timeout
        | 2 => d.readFails tag Code.timeout
        | 3 => d.readFails tag Code.poisoned
        | _ => d)

/-- HOST_READ_TIMEOUT: no completion within 50 ms. -/
def execHostReadTimeout (tag : Nat) (s : State) : Host.Outcome State Fault Refusal :=
  s.run (fun d => match spFind d.host.reads tag with
    | some r => if r.master = 3 then d.readFails tag Code.timeout else d
    | none => d)

end Sys2Proof.Machine
end

