-- ==== Sys2Proof/Machine/Rope.lean ====
section
/-! DEFINITION. The Rope (R460 to R467): link and HELLO, requests, notices, DMA frames, mailbox and mirror. What a frame
carries is the command's operands (assumption 9). -/

namespace Sys2Proof.Machine

/-! ## Link and HELLO (R461, R462) -/

/-- ROPE_LINK_UP: HELLO, and one is sent; without alignment lock, or with a fenced lane, there is no link (R476, R479). -/
def execRopeLinkUp (pos : List Nat) (lock : Bool) (s : State) : Host.Outcome State Fault Refusal :=
  s.run (fun d =>
    let ls := d.macLanes 64
    if !d.lanesLive || d.ropeSt ≠ RopeSt.down || !d.lanesSound ls then d
    else
      let d := d.groupUp ls pos lock
      if lock then (d.ropeHello.onRope (fun r => { r with heard := d.drip.now })).sendHello else d)

/-- ROPE_LINK_DOWN: which lanes have no signal. -/
def execRopeLinkDown (los : List Bool) (s : State) : Host.Outcome State Fault Refusal :=
  s.run (fun d => if !d.lanesLive then d else d.ropeLoss.groupDown (d.macLanes 64) los)

/-- HELLO_SEND: every 256 drips. -/
def execHelloSend (s : State) : Host.Outcome State Fault Refusal :=
  s.run (fun d => if d.serving && d.ropeSt ≠ RopeSt.down && d.rope.helloAt + 256 ≤ d.drip.now then d.sendHello else d)

/-- HELLO_TIMEOUT: no HELLO for 1,024 drips. -/
def execHelloTimeout (s : State) : Host.Outcome State Fault Refusal :=
  s.run (fun d => if d.serving && d.rope.heard + 1024 ≤ d.drip.now then d.ropeLoss else d)

/-- What a HELLO says of its sender is recorded. -/
def Dev.helloRecord (d : Dev) (p : Bytes) : Dev :=
  let mask := leAt p 0 2 % 8
  let d := if d.ioFld R.ropeStat 10 8 = mask then d else (d.setIoFld R.ropeStat 10 8 mask).vector 6
  let d := (d.setIo64 R.ropePeerSerialLo (leAt p 4 8)).ropeCount 3
  d.onRope (fun r => { r with heard := d.drip.now, peer := some (leAt p 0 2 &&& 6, slice p 12 32) })

/-- HELLO_RECEIVE: a HELLO whose mask or owner hash changed returns the state to HELLO; one that leaves UP is answered. -/
def execHelloReceive (payload : Bytes) (s : State) : Host.Outcome State Fault Refusal :=
  s.run (fun d =>
    let p := payload
    let st := d.ropeSt
    if p.length ≠ 64 || st = RopeSt.down then d
    else
      let changed := match d.rope.peer with
        | some x => x ≠ (leAt p 0 2 &&& 6, slice p 12 32)
        | none => false
      let d := d.helloRecord p
      let d := if changed && st = RopeSt.up then d.ropeHello.sendHello
        else if changed && st = RopeSt.talkOnly then d.ropeHello else d
      d.onRope (fun r => { r with gotHello := true }))

/-- The highest version of a mask. -/
def topVersion (c : Nat) : Nat := if bitOf c 2 then 2 else if bitOf c 1 then 1 else 0

/-- The decision of R462: state, version and reason. -/
def Dev.ropeDecide (d : Dev) (mask : Nat) (owner : Bytes) : Nat × Nat × Nat :=
  if owner ≠ slice (d.load.fuse.getD []) 0 32 then (RopeSt.talkOnly, 0, 2)
  else match topVersion (d.ropeMask &&& mask) with
    | 0 => (RopeSt.talkOnly, 0, 1)
    | v => (RopeSt.up, v, 0)

/-- ROPE_NEGOTIATE: the first boundary after a HELLO was sent and one received. -/
def execRopeNegotiate (s : State) : Host.Outcome State Fault Refusal :=
  s.run (fun d => match d.rope.peer with
    | some (mask, owner) =>
      if d.serving && d.ropeSt = RopeSt.hello && d.rope.sentHello && d.rope.gotHello then
        let (st, v, r) := d.ropeDecide mask owner
        (d.setIoFld R.ropeStat 5 0 (st + 4 * v + 16 * r)).signal 6
      else d
    | none => d)

/-! ## Frames in UP (R463) -/

/-- A frame of a type: acted on in UP at the negotiated version that carries the type, dropped and counted in UP otherwise,
not accepted outside UP. -/
def Dev.ropeFrame (d : Dev) (type ver : Nat) (f : Dev → Dev) : Dev :=
  if !d.ropeUp then d
  else if ver ≠ d.ropeVer || (6 ≤ type && ver < 2) then d.ropeCount 1
  else f d

/-- ROPE_DATA_RECEIVE (R464): a DATA frame, type 1, enters as MAC 64 with its chan as tag. A frame of a reserved type is dropped
and counted (R463); the other types have commands of their own. -/
def execRopeDataReceive (head : RopeHead) (chan : Nat) (frame : Bytes) (s : State) : Host.Outcome State Fault Refusal :=
  s.run (fun d =>
    if 8 ≤ head.type then d.ropeFrame head.type head.ver (fun d => d.ropeCount 1)
    else if head.type ≠ 1 then d
    else d.ropeFrame 1 head.ver (fun d =>
      if d.serving then d.portFrame 64 (d.bayOf 64 (chan % 2 ^ 12)) frame none else d))

/-! ## Requests to the partner (R465) -/

/-- A write of `v` to ROPE_REQ_GO by a master whose buffer holds an op that satisfies `mine`. -/
def Dev.ropeGo (d : Dev) (m v : Nat) (mine : Nat → Bool) : Dev :=
  d.ownDoorbell m 22 R.ropeReqGo 1 v (fun d =>
    let a := d.per m R.ropeReqAddr
    let op := bits a 28 28
    if v = 0 || !mine op then d
    else if bitOf (d.per m R.ropeReqStat) 0 then d.refuse m R.ropeReqGo Code.busyRetry
    else if !d.ropeUp then d.setStat m R.ropeReqStat false Code.orphaned
    else
      let d := (d.setStat m R.ropeReqStat true 0).onRope (fun r => { r with reqs := spPut r.reqs m ⟨op, d.drip.now⟩ })
      d.ropeSend 2 (leBytes 1 m ++ leBytes 4 a ++ leBytes 4 (d.per m R.ropeReqData)))

/-- ROPE_REQ_READ. -/
def execRopeReqRead (m : Nat) (s : State) : Host.Outcome State Fault Refusal := s.run (fun d => d.ropeGo m 1 (fun op => op = 0))

/-- ROPE_REQ_WRITE. -/
def execRopeReqWrite (m : Nat) (s : State) : Host.Outcome State Fault Refusal := s.run (fun d => d.ropeGo m 1 (fun op => op = 1))

/-- A request of a master ends. -/
def Dev.ropeReqEnd (d : Dev) (m code : Nat) : Dev :=
  (d.setStat m R.ropeReqStat false code).onRope (fun r => { r with reqs := spErase r.reqs m })

/-- A CPL of a request: the code, and for a read the value. -/
def Dev.ropeCpl (d : Dev) (m code data : Nat) : Dev :=
  match spFind d.rope.reqs m with
  | none => d
  | some q => (if q.op = 0 then d.setPer m R.ropeReqRdata data else d).ropeReqEnd m (code % 2 ^ 8)

/-- A CPL of an MBOX message: the next may be sent (R466). -/
def Dev.mboxDone (d : Dev) (serial : Nat) : Dev :=
  match d.rope.mbox with
  | some (n, _) => if n = serial then d.onRope (fun r => { r with mbox := none, mboxSent := false }) else d
  | none => d

/-- ROPE_CPL_RECEIVE: for a request of master `who`, or for the MBOX message with serial `who`. -/
def execRopeCplReceive (ver : Nat) (mbox : Bool) (who code data : Nat) (s : State) : Host.Outcome State Fault Refusal :=
  s.run (fun d => d.ropeFrame 3 ver (fun d => if mbox then d.mboxDone who else d.ropeCpl who code data))

/-- ROPE_REQ_TIMEOUT: no CPL within 64 drips. -/
def execRopeReqTimeout (m : Nat) (s : State) : Host.Outcome State Fault Refusal :=
  s.run (fun d => match spFind d.rope.reqs m with
    | some q => if q.sent + 64 ≤ d.drip.now then d.ropeReqEnd m Code.timeout else d
    | none => d)

/-- ROPE_NOTIFY_RECEIVE: kind 0 a commit slot, 1 a view buffer that this device holds at the partner. -/
def execRopeNotifyReceive (ver kind i : Nat) (s : State) : Host.Outcome State Fault Refusal :=
  s.run (fun d => d.ropeFrame 4 ver (fun d =>
    if kind = 0 && i < 16 then (d.setIoBit R.ropePeerCdone i).vector 6
    else if kind = 1 && i < 4 then (d.setIoBit R.ropePeerVdone i).vector 6
    else d))

/-- ROPE_DMA_RECEIVE: kind 0 a read of this device's DRAM, which is answered; 1 a write; 2 the data of a read this device
made for a command of the peer; 3 such a read that met poison. -/
def execRopeDmaReceive (ver kind tag addr len : Nat) (data : Bytes) (s : State) : Host.Outcome State Fault Refusal :=
  s.run (fun d => d.ropeFrame 7 ver (fun d => match kind with
    | 0 => if 2 ^ 40 < addr + len then d
           else if d.memPoisoned true addr len then (d.countRead true addr len).ropeSend 7 ([3] ++ leBytes 4 tag)
           else d.ropeSend 7 ([2] ++ leBytes 4 tag ++ d.memBytes true addr len)
    | 1 => if 2 ^ 40 < addr + data.length then d else d.masterMem true addr data
    | 2 => match spFind d.host.reads tag with
      | some r => if r.master = 4 && data.length = r.len then d.readArrived tag r data else d
      | none => d
    | 3 => match spFind d.host.reads tag with
      | some r => if r.master = 4 then d.readFails tag Code.poisoned else d
      | none => d
    | _ => d))

/-! ## Messages of the head keeper (R466) -/

/-- mbox_en. -/
def Dev.mboxOn (d : Dev) : Bool := bitOf (d.live R.ropeCfg) 21

/-- Send the MBOX message that is due: the one kept from the last UP, or the head of tx_chan. -/
def Dev.mboxSend (d : Dev) : Dev :=
  if !d.ropeUp || !d.serving then d
  else match d.rope.mbox with
    | some (n, b) =>
      if d.rope.mboxSent then d else (d.ropeSend 5 (leBytes 4 n ++ b)).onRope (fun r => { r with mboxSent := true })
    | none =>
      let c := d.liveFld R.ropeCfg 12 5
      match d.chan 0 c with
      | [] => d
      | x :: _ =>
        if !d.mboxOn then d
        else
          let n := d.rope.mboxNext
          let d := (d.chanPop 0 c).onRope (fun r => { r with
            mbox := some (n, x.data), mboxSent := true, mboxNext := (n + 1) % 2 ^ 32 })
          d.ropeSend 5 (leBytes 4 n ++ x.data)

/-- ROPE_MBOX_SEND. -/
def execRopeMboxSend (s : State) : Host.Outcome State Fault Refusal := s.run (fun d => d.mboxSend)

/-- A message of the partner: committed to rx_chan, held while that is full, or discarded when its serial has been committed;
dropped while mbox_en is 0 (R467). -/
def Dev.mboxReceive (d : Dev) (serial : Nat) (data : Bytes) : Dev :=
  if !d.mboxOn then d.ropeCount 5
  else if d.rope.mboxSeen = some serial then d.ropeSend 3 (mboxCpl serial)
  else if d.rope.mboxHeld.any (fun h => h.1 = serial) then d
  else (d.onRope (fun r => { r with mboxHeld := r.mboxHeld ++ [(serial, data)] })).ropeCommit 0 (d.liveFld R.ropeCfg 20 13)

/-- ROPE_MBOX_RECEIVE. -/
def execRopeMboxReceive (ver serial : Nat) (data : Bytes) (s : State) : Host.Outcome State Fault Refusal :=
  s.run (fun d => d.ropeFrame 5 ver (fun d => if data.length = 64 && serial < 2 ^ 32 then d.mboxReceive serial data else d))

/-! ## Mirrors (R467) -/

/-- A mirrored incident record joins the records of this drip; it is never mirrored again. -/
def Dev.mirrorIncident (d : Dev) (b : Bytes) : Dev :=
  d.onHost (fun h => { h with incPending := h.incPending ++
    [⟨leAt b 0 7, leAt b 7 1, leAt b 8 1, true, leAt b 10 2, leAt b 12 4, leAt b 16 4, 0, 0⟩] })

/-- A mirrored seal block goes into the next slot of the peer-seal ring. -/
def Dev.mirrorSeal (d : Dev) (b : Bytes) : Dev :=
  let slot := (d.ioFld R.ropeSealWp 7 0 + d.rope.sealNew) % 256
  (d.writeMem true (d.io64 R.ropeSealBaseLo + 4096 * slot) b).onRope (fun r => { r with sealNew := r.sealNew + 1 })

/-- ROPE_MIRROR_RECEIVE: kind 0 an incident record, 1 a seal block; dropped and counted while its condition is off. -/
def execRopeMirrorReceive (ver kind : Nat) (data : Bytes) (s : State) : Host.Outcome State Fault Refusal :=
  s.run (fun d => d.ropeFrame 6 ver (fun d => match kind with
    | 0 => if !bitOf (d.live R.ropeCfg) 3 then d.ropeCount 5 else if data.length = 32 then d.mirrorIncident data else d
    | 1 => if !bitOf (d.live R.ropeCfg) 4 then d.ropeCount 5 else if data.length = 4096 then d.mirrorSeal data else d
    | _ => d))

end Sys2Proof.Machine
end

