-- ==== Sys2Proof/Machine/Health.lean ====
section
/-! DEFINITION. Faults and health (chapter 19): memory protection, spares, lanes, pins, temperature; rails and boundary
scan (chapter 20). -/

namespace Sys2Proof.Machine

/-! ## Memory protection (R469) -/

/-- The first word of passage `n`. -/
def passageKey (n : Nat) : Nat := R.parsPW0 + 256 * n

/-- A row becomes invalid in one bank; a passage, which has no valid bit, is marked, and its 39 words are lost (R469). -/
def Dev.loseRow (d : Dev) (passage : Bool) (n : Nat) (b : Bool) : Dev :=
  if passage then
    let x := d.free
    ((List.range 39).foldl (fun (d : Dev) w => d.setBankWord b (passageKey n + 4 * w) (Config.freeNat (x + w)))
      { d with free := x + 39 }).onCsr (fun c => { c with lostPass := spPut c.lostPass (lostKey n b) true })
  else d.setBankWord b (rowKey n 44) 0

/-- An uncorrectable error of memory `u` at `place`: a cell, a 64-byte line, a physical core numbered 9 × gallery + core, a
row (a passage from 65,536 on) of one bank. The memories of engines, which R469 does not number, are 7 seal, 8 format and 9
hash engines (assumption 57): the engine is retired (R322, R348) or fenced (R325). -/
def Dev.memFail (d : Dev) (u place : Nat) (bank : Bool) : Dev :=
  match u with
  | 0 => d.onLard (fun l => { l with poison := spSet false l.poison place true })
  | 1 =>
    if (spFind d.lard.cells place).isSome then d.onLard (fun l => { l with linkBad := spSet false l.linkBad place true })
    else if spGet false d.lard.fenced place then d
    else d.testFreed place 1
  | 2 => d.onCores (fun c => { c with sramPoison := spSet false c.sramPoison place true })
  | 3 => d.retireCore (place / 9) (place % 9)
  | 5 =>
    let n := place % 65536
    let passage := 65536 ≤ place
    (d.loseRow passage n bank).incident (if passage then 5 else 6) Code.poisoned 0 n (b2n bank)
  | 7 => d.retireSeal place 6
  | 8 => d.retireFmt place 3
  | 9 => if d.serving then d.hashFence place else d
  | _ => d

/-- The place exists in memory `u`. -/
def memPlace (u place : Nat) : Bool :=
  match u with
  | 0 => place < numCells
  | 1 => place < numCells
  | 3 => place < 144
  | 4 => place / 2 ^ 40 < 144
  | 5 => place < 32768 || (65536 ≤ place && place < 65536 + 1024)
  | 7 => place < 104
  | 8 => place < 18
  | 9 => place < 32
  | u => u < 7

/-- An error of an instruction-cache line (place: core × 2^40 + line): a second one within 1,024 drips retires the core. -/
def Dev.icacheError (d : Dev) (place : Nat) : Dev :=
  let again : Bool := match spFind d.hlth.icErr place with | some t => d.drip.now < t + 1024 | none => false
  let d := d.onHlth (fun h => { h with icErr := spPut h.icErr place d.drip.now })
  let core := place / 2 ^ 40
  if again then (d.bump (R.hlthEccUe + 32)).retireCore (core / 9) (core % 9) else d.bump (R.hlthEccCe + 32)

/-- A memory finds an error; `bad` says that it cannot be corrected. A vote of three copies always yields a value; a word
of the Strongroom's private memory (number 10) that fails in both copies breaks the seal. -/
def Dev.memError (d : Dev) (u place : Nat) (bad : Bool) (bank : Bool) : Dev :=
  if u = 10 then (if bad then d.breakSeal 3 else d)
  else if d.mode = Mode.cold || !memPlace u place then d
  else if u = 4 then d.icacheError place
  else if 7 ≤ u then (if bad then d.memFail u place bank else d)
  else if bad && u ≠ 6 then (d.bump (R.hlthEccUe + 8 * u)).memFail u place bank
  else d.bump (R.hlthEccCe + 8 * u)

/-- MEMORY_ERROR (R469). -/
def execMemoryError (u place : Nat) (bad : Bool) (bank : Nat) (s : State) : Host.Outcome State Fault Refusal :=
  s.run (fun d => d.memError u place bad (bank = 1))

/-- MEMORY_SCRUB (R472): a pass over memory `u` and the errors it finds; what it corrects reads as before. -/
def execMemoryScrub (u : Nat) (errs : List (Nat × Bool × Nat)) (s : State) : Host.Outcome State Fault Refusal :=
  s.run (fun d => errs.foldl (fun d e => d.memError u e.1 e.2.1 (e.2.2 = 1)) d)

/-! ## Replicated units (R474, R475) -/

/-- The registers HLTH_CAP_ENTRY, HLTH_BIST_PASS and HLTH_SPARE_FAIL. -/
abbrev R.hlthCapEntry : Nat := R.hlthCnt
/-- HLTH_BIST_PASS. -/
abbrev R.hlthBistPass : Nat := R.hlthCnt + 4
/-- HLTH_SPARE_FAIL. -/
abbrev R.hlthSpareFail : Nat := R.hlthCnt + 8

/-- A failed spare is counted and recorded: the unit's block and its physical number. -/
def Dev.spareFailed (d : Dev) (block number : Nat) : Dev :=
  (d.bump R.hlthSpareFail).incident block Code.orphaned 0 number 0

/-- A spare fails its test: unit 0 the core of a gallery, 1 a seal engine, 2 a format engine. -/
def Dev.spareFail (d : Dev) (unit number : Nat) : Dev :=
  match unit with
  | 0 =>
    let G := d.gal number
    if 15 < number || 8 < G.spare then d
    else (d.setGal number { G with spare := 9, retired := G.retired ++ [G.spare] }).spareFailed 14 (9 * number + G.spare)
  | 1 =>
    if number < 104 && (d.eng number).state = .spare then
      (d.setEng number { d.eng number with state := .retired }).spareFailed 15 number
    else d
  | 2 =>
    if number < 18 && (d.fmtEng number).state = .spare then
      (d.setFmtEng number { d.fmtEng number with state := .retired }).spareFailed 16 number
    else d
  | _ => d

/-- A spare of the kind stands there: unit 0 the core of a gallery, 1 a seal engine, 2 a format engine. -/
def Dev.isSpare (d : Dev) (unit number : Nat) : Bool :=
  match unit with
  | 0 => number < 16 && (d.gal number).spare ≤ 8
  | 1 => number < 104 && (d.eng number).state = .spare
  | 2 => number < 18 && (d.fmtEng number).state = .spare
  | _ => false

/-- bist_period × 1,024 drips have passed since the spare's last test. -/
def Dev.spareDue (d : Dev) (unit number : Nat) : Bool :=
  spGet 0 d.hlth.spareTest (256 * unit + number) + d.liveFld R.hlthBistCfg 15 0 * 1024 ≤ d.drip.now

/-- SPARE_BIST (R474): a spare's turn, once in each period. -/
def execSpareBist (unit number : Nat) (pass : Bool) (s : State) : Host.Outcome State Fault Refusal :=
  s.run (fun d =>
    if d.serving && d.isSpare unit number && d.spareDue unit number then
      let d := d.onHlth (fun h => { h with spareTest := spSet 0 h.spareTest (256 * unit + number) d.drip.now })
      if pass then d else d.spareFail unit number
    else d)

/-- CORE_BIST (R475): a pass is counted, a failure retires the core. -/
def execCoreBist (gallery core : Nat) (pass : Bool) (s : State) : Host.Outcome State Fault Refusal :=
  s.run (fun d =>
    if d.serving && gallery < 16 && (d.logicalOf gallery core).isSome then
      if pass then d.bump R.hlthBistPass else d.retireCore gallery core
    else d)

/-! ## Lanes (R476 to R478, R488) -/

/-- The MAC that uses a lane: 64 for the Rope. -/
def Dev.laneMac (d : Dev) (l : Nat) : Option Nat :=
  if 16 ≤ l then some 64 else (List.range 64).find? (fun m => (d.macLanes m).contains l)

/-- A lane's driver is switched off for good, and its MAC has no link; what the receivers see stays as it was. Of a lane that no MAC uses, what arg1 reads is open. -/
def Dev.fenceLane (d : Dev) (l fault : Nat) : Dev :=
  let mac := d.laneMac l
  let los (ls : List Nat) : List Bool := ls.map (fun l => bitOf (d.io (R.laneStat + 4 * l)) 9)
  let d := match mac with
    | some 64 => d.ropeLoss.groupDown (d.macLanes 64) (los (d.macLanes 64))
    | some m => (d.macLinkDown m).groupDown (d.macLanes m) (los (d.macLanes m))
    | none => d
  let d := (d.setLane l 1 0 3).setLane l 3 2 fault
  match mac with
  | some m => d.incident 4 Code.orphaned 0 (l + fault * 2 ^ 8) m
  | none => d.freeStep.incident 4 Code.orphaned 0 (l + fault * 2 ^ 8) d.freeVal

/-- LANE_FENCE (R476): in Survey mode and while serving. -/
def execLaneFence (lane fault : Nat) (s : State) : Host.Outcome State Fault Refusal :=
  s.run (fun d =>
    if d.lanesLive && lane < 20 && 1 ≤ fault && fault ≤ 3 && d.laneState lane ≠ 3 then
      d.fenceLane lane fault
    else d)

/-- A lane without lock, of a group that seeks its link. -/
def Dev.laneSeeks (d : Dev) (l : Nat) : Bool :=
  d.lanesLive && l < 20 && d.laneState l < 2 && (d.laneMac l).isSome

/-- RX_POLARITY_TRY (R477): the other polarity is tried. -/
def execRxPolarityTry (lane : Nat) (s : State) : Host.Outcome State Fault Refusal :=
  s.run (fun d =>
    if d.laneSeeks lane then
      (d.setLane lane 1 0 1).setLane lane 4 4 (1 - d.ioFld (R.laneStat + 4 * lane) 4 4)
    else d)

/-- TX_POLARITY_INVERT (R478): under AUTO, once in an attempt. -/
def execTxPolarityInvert (lane : Nat) (s : State) : Host.Outcome State Fault Refusal :=
  s.run (fun d =>
    if d.laneSeeks lane && d.liveFld (R.laneCfg + 4 * lane) 1 0 = 0 && !spGet false d.hlth.txTried lane then
      let d := (d.setLane lane 1 0 1).setLane lane 5 5 (1 - d.ioFld (R.laneStat + 4 * lane) 5 5)
      d.onHlth (fun h => { h with txTried := spPut h.txTried lane true })
    else d)

/-- EYE_MARGIN_CHECK (R488): every 2^20 drips the height is shown; one record for each fall below margin_min. -/
def execEyeMarginCheck (lane height : Nat) (s : State) : Host.Outcome State Fault Refusal :=
  s.run (fun d =>
    if d.serving && lane < 20 && spGet 0 d.hlth.eyeTest lane + 2 ^ 20 ≤ d.drip.now then
      let d := (d.setLane lane 23 16 height).onHlth (fun x => { x with eyeTest := spSet 0 x.eyeTest lane d.drip.now })
      let h := height % 2 ^ 8
      let min := d.liveFld (R.laneCfg + 4 * lane) 9 2
      if h < min && !spGet false d.hlth.eyeLow lane then
        (d.onHlth (fun x => { x with eyeLow := spPut x.eyeLow lane true })).incident 4 Code.timeout 0 lane h
      else if min < h then d.onHlth (fun x => { x with eyeLow := spErase x.eyeLow lane })
      else d
    else d)

/-! ## Pins (R481, R482) -/

/-- A pin drives: GPIO as its direction says; THERM_ALERT_N and THERMTRIP_N always. -/
def Dev.pinDrives (d : Dev) (pin : Nat) : Bool := pin = 16 || pin = 17 || (pin < 16 && bitOf (d.io R.hlthGpioDir) pin)

/-- The level a pin drives: THERM_ALERT_N is low from level 1 on, THERMTRIP_N once latched. -/
def Dev.pinLevel (d : Dev) (pin : Nat) : Nat :=
  if pin = 16 then b2n (d.ioFld R.hlthTdie 17 16 = 0)
  else if pin = 17 then 1 - d.ioFld R.hlthTdie 18 18
  else d.ioFld R.hlthGpioOut pin pin

/-- GPIO_SHORT (R481). -/
def execGpioShort (pin : Nat) (s : State) : Host.Outcome State Fault Refusal :=
  s.run (fun d =>
    if d.mode ≠ Mode.cold && d.pinDrives pin && !spGet false d.hlth.highZ pin then
      ((d.onHlth (fun h => { h with highZ := spPut h.highZ pin true })).setIoBit R.hlthGpioFault pin).incident 23 Code.orphaned 0
        pin (d.pinLevel pin)
    else d)

/-- A write of HLTH_GPIO_FAULT: each 1 clears its bit and enables its driver again. -/
def Dev.faultClear (d : Dev) (m v : Nat) : Dev :=
  d.doorbell m R.hlthGpioFault [] 18 v (fun d =>
    (maskBits 18 v).foldl (fun d pin =>
      (d.setIoFld R.hlthGpioFault pin pin 0).onHlth (fun h => { h with highZ := spErase h.highZ pin })) d)

/-- GPIO_FAULT_CLEAR (R481). -/
def execGpioFaultClear (m val : Nat) (s : State) : Host.Outcome State Fault Refusal := s.run (fun d => d.faultClear m val)

/-- XTEMP_FAULT (R482): fault 1 OPEN, 2 SHORT. -/
def execXtempFault (x fault : Nat) (s : State) : Host.Outcome State Fault Refusal :=
  s.run (fun d =>
    let o := R.hlthXtemp + 4 * x
    if d.mode ≠ Mode.cold && x < 2 && (fault = 1 || fault = 2) && d.ioFld o 9 8 ≠ fault then
      (d.setIoFld o 9 8 fault).incident 23 Code.orphaned 0 (18 + x) fault
    else d)

/-! ## Temperature (R483, R484) -/

/-- One reading of an on-die sensor; one that fails its range check is recorded once. -/
def Dev.sensorRead (d : Dev) (s : Nat) (t : Option Int) : Dev :=
  let o := R.hlthTemp + 4 * s
  match t with
  | some v => (d.setIo o (ofSigned 8 v + 2 ^ 8)).onHlth (fun h => { h with bad := spErase h.bad s })
  | none =>
    let d := d.setIoFld o 8 8 0
    if spGet false d.hlth.bad s then d
    else (d.onHlth (fun h => { h with bad := spPut h.bad s true })).incident 23 Code.orphaned 0 (32 + s) 0

/-- One reading of an external input. -/
def Dev.xtempRead (d : Dev) (x : Nat) (t : Option Int) : Dev :=
  let o := R.hlthXtemp + 4 * x
  match t with
  | some v => ((d.setIoFld o 7 0 (ofSigned 8 v)).setIoFld o 9 8 0).onHlth (fun h => { h with seen := spPut h.seen x true })
  | none => d

/-- SENSOR_SAMPLE (R483): sensors 0 to 39, then the external inputs; `sr` is the Strongroom's own (R364). -/
def execSensorSample (temps : List (Option Int)) (sr : Int) (s : State) : Host.Outcome State Fault Refusal :=
  s.run (fun d =>
    let d := d.holdTemp sr
    if d.mode = Mode.cold then d
    else (List.zip (List.range 42) temps).foldl
      (fun d x => if x.1 < 40 then d.sensorRead x.1 x.2 else d.xtempRead (x.1 - 40) x.2) d)

/-- The valid readings with their sensors: on-die, and the external inputs whose xcap is 1. -/
def Dev.readings (d : Dev) : List (Nat × Int) :=
  (List.range 42).filterMap (fun s =>
    if s < 40 then
      let w := d.io (R.hlthTemp + 4 * s)
      if bitOf w 8 then some (s, toSigned 8 w) else none
    else
      let o := R.hlthXtemp + 4 * (s - 40)
      if bitOf (d.live o) 10 && d.ioFld o 9 8 = 0 && spGet false d.hlth.seen (s - 40) then some (s, toSigned 8 (d.io o)) else none)

/-- The highest reading, of the lowest sensor that gives it. -/
def hottest (l : List (Nat × Int)) : Option (Nat × Int) :=
  l.foldl (fun a x => match a with | some y => if y.2 < x.2 then some x else a | none => some x) none

/-- The threshold at which a level is entered. -/
def Dev.levelAt (d : Dev) (level : Nat) : Int := (d.ioFld R.hlthThermCfg (8 * level - 1) (8 * level - 8) : Nat)

/-- The highest level whose threshold, less `less`, the temperature reaches. -/
def Dev.levelFor (d : Dev) (t less : Int) : Nat :=
  if d.levelAt 3 - less ≤ t then 3 else if d.levelAt 2 - less ≤ t then 2 else if d.levelAt 1 - less ≤ t then 1 else 0

/-- A change of level (R484). -/
def Dev.setLevel (d : Dev) (new code : Nat) : Dev :=
  let w := d.io R.hlthTdie
  let d := (d.setIoFld R.hlthTdie 17 16 new).onHlth (fun h => { h with cool := 0 })
  d.incident 23 code 0 (new + bits w 17 16 * 2 ^ 2) (bits w 13 8 + bits w 7 0 * 2 ^ 8)

/-- The temperature bin of T_die (R487). -/
def tjBin (t : Int) : Nat := if t < 55 then 0 else if 115 ≤ t then 7 else ((t - 45) / 10).toNat

/-- One drip more in a bin, in units of 2^20 drips. -/
def Dev.countTj (d : Dev) (i : Nat) : Dev :=
  let n := spGet 0 d.hlth.bins i + 1
  let d := d.onHlth (fun h => { h with bins := spSet 0 h.bins i (n % 2 ^ 20) })
  if n = 2 ^ 20 then d.bump (R.hlthTjBin + 4 * i) else d

/-- What a boundary does with the readings: T_die, the trip, a rise of the level, the run of cool boundaries, the bins. -/
def Dev.thermalBoundary (d : Dev) : Dev :=
  match hottest d.readings with
  | none => d
  | some (s, t) =>
    let d := (d.setIoFld R.hlthTdie 7 0 (ofSigned 8 t)).setIoFld R.hlthTdie 13 8 s
    let trip : Bool := (Config.tmax : Int) + 15 ≤ t && d.ioFld R.hlthTdie 18 18 = 0
    let d := if trip then (d.setIoFld R.hlthTdie 18 18 1).emit .thermtrip else d
    let now := d.ioFld R.hlthTdie 17 16
    let new := d.levelFor t 0
    let d := if now < new then (d.setLevel new Code.timeout).bump R.hlthCapEntry
      else d.onHlth (fun h => { h with cool := if now ≠ 0 && t < d.levelAt now - 3 then h.cool + 1 else 0 })
    d.countTj (tjBin t)

/-- THERMAL_LEVEL_DROP (R484): at the 1,024th consecutive boundary below the level's threshold less 3 °C. -/
def execThermalLevelDrop (s : State) : Host.Outcome State Fault Refusal :=
  s.run (fun d =>
    if d.serving && 1024 ≤ d.hlth.cool then
      d.setLevel (d.levelFor (toSigned 8 (d.io R.hlthTdie)) 3) Code.ok
    else d)

/-! ## Rails and boundary scan (R498, R501, R510) -/

/-- RAIL_RAMP: a rail of R498's groups, numbered as R497 lists them, enters its monitor window (`Rail.inWindow`) or
leaves it: its monitor then reports it outside. -/
def execRailRamp (rail : Nat) (within : Bool) (s : State) : Host.Outcome State Fault Refusal :=
  s.run (fun d =>
    if 8 ≤ rail then d
    else if within then (d.onElec (fun e => { e with railsOut := spErase e.railsOut rail })).leaveCold
    else d.onElec (fun e => { e with railsOut := spPut e.railsOut rail true }))

/-- RAIL_MONITOR_TRIP (R501): the rail has lain outside its window for 2 µs. -/
def execRailMonitorTrip (rail : Nat) (s : State) : Host.Outcome State Fault Refusal :=
  s.run (fun d => if rail < 8 then (d.onElec (fun e => { e with railsOut := spPut e.railsOut rail true })).toCold else d)

/-- A scan instruction at Update-IR: its code and what its data register captures. -/
def Dev.scan (d : Dev) (code : Nat) (dr : Option Nat) : Dev := d.onElec (fun e => { e with tap := code, dr := dr })

/-- A scan instruction that holds the device in Cold mode. -/
def Dev.scanCold (d : Dev) (code : Nat) (dr : Option Nat) : Dev :=
  ((d.scan code dr).onElec (fun e => { e with scanHold := true })).toCold

/-- EXTEST. -/
def execJtagExtest (s : State) : Host.Outcome State Fault Refusal := s.run (fun d => d.scanCold 0 none)
/-- SAMPLE/PRELOAD. -/
def execJtagSamplePreload (s : State) : Host.Outcome State Fault Refusal := s.run (fun d => d.scan 1 none)
/-- IDCODE. -/
def execJtagIdcode (s : State) : Host.Outcome State Fault Refusal := s.run (fun d => d.scan 2 (some idcode))
/-- CLAMP: the data register is the bypass register (IEEE 1149.1). -/
def execJtagClamp (s : State) : Host.Outcome State Fault Refusal := s.run (fun d => d.scanCold 3 (some 0))
/-- HIGHZ: the data register is the bypass register (IEEE 1149.1). -/
def execJtagHighz (s : State) : Host.Outcome State Fault Refusal := s.run (fun d => d.scanCold 4 (some 0))
/-- EXTEST_PULSE. -/
def execJtagExtestPulse (s : State) : Host.Outcome State Fault Refusal := s.run (fun d => d.scanCold 5 none)
/-- EXTEST_TRAIN. -/
def execJtagExtestTrain (s : State) : Host.Outcome State Fault Refusal := s.run (fun d => d.scanCold 6 none)

/-- BYPASS: code 0xF, and the reserved codes, which act as it. -/
def execJtagBypass (code : Nat) (s : State) : Host.Outcome State Fault Refusal :=
  s.run (fun d => if 7 ≤ code && code < 16 then d.scan code (some 0) else d)

/-- TEST_LOGIC_RESET: no scan instruction holds the device any more, which goes on as after a rise of RESET_N. -/
def execJtagTestLogicReset (s : State) : Host.Outcome State Fault Refusal :=
  s.run (fun d => ((d.scan 2 (some idcode)).onElec (fun e => { e with scanHold := false })).leaveCold)

end Sys2Proof.Machine
end

