-- ==== Sys2Proof/Machine/LarderCmd.lean ====
section
/-! DEFINITION. The Larder's commands (R101 to R107, R111, R119, R147, R300, R390): the checks in the order of R12 and R103,
and the effect of each operation, for threads, the host and the peer. -/

namespace Sys2Proof.Machine

/-- The answer of a Larder command: its code, the resulting handle (0: none), and the device. -/
structure LardAns where
  code : Nat
  res : Nat
  dev : Dev
  deriving DecidableEq, Repr

/-- A refusal that counts nothing. -/
def Dev.lardNo (d : Dev) (code : Nat) : LardAns := ⟨code, 0, d⟩

/-- An owner tag that names a holder (R96): not 0x000, no reserved form. -/
def ownerTagOk (t : Nat) : Bool :=
  t = 1 || t = 2 || t = tagHost || t = tagPeer || (0x100 ≤ t && t ≤ 0x107) || (0x800 ≤ t && t < 0x1000 && bits t 6 3 ≤ 8)

/-- The requester may force the release of what thread tag `t` holds: the keeper of its gallery, or the head keeper
(R102). -/
def Dev.forcing (d : Dev) (tag t : Nat) : Bool :=
  match tidOfTag tag, tidOfTag t with
  | some k, some x => d.isKeeper k && (k.g = x.g || k.g = 0)
  | _, _ => false

/-- A word or field that the operation does not use is set (R103). -/
def lardUnused (op w0 w1 w2 w3 : Nat) : Bool :=
  w3 ≠ 0 || w0 / 2 ^ 19 ≠ 0 || (op ≠ 0 && bits w0 18 4 ≠ 0) || ((op = 0 || op = 5) && w1 ≠ 0)
    || ((op = 0 || op = 1) && w2 ≠ 0)

/-- The walk of a chain before it is changed (R107): its cells, or the refusal with what it counts and records. -/
def Dev.lardWalk (d : Dev) (tag h : Nat) (c : Chain) : Except LardAns (List Nat) :=
  if c.count = 0 then .ok []
  else match d.lard.walk c.count c.head with
    | .cells l => .ok l
    | .bad => .error ⟨Code.reserved, 0, (d.bump R.lardChainBad).incident 9 Code.reserved tag h 0⟩
    | .free i => .error ⟨Code.doubleFree, 0, (d.bump R.lardDfree).incident 9 Code.doubleFree tag h i⟩

/-- The walks of two chains: of two refusals the one that R103 puts first. -/
def Dev.lardWalk2 (d : Dev) (tag ha hb : Nat) (a b : Chain) : Except LardAns (List Nat × List Nat) :=
  match d.lardWalk tag ha a, d.lardWalk tag hb b with
  | .ok la, .ok lb => .ok (la, lb)
  | .error x, .ok _ => .error x
  | .ok _, .error y => .error y
  | .error x, .error y => .error (if y.code < x.code then y else x)

/-- A refusal with NOT_HOLDER, counted (R102). -/
def Dev.lardNotHolder (d : Dev) : LardAns := ⟨Code.notHolder, 0, d.bump R.lardNotHolder⟩

/-- Every cell is held by one owner, and the requester is that owner or may force it. -/
def Dev.mayTake (d : Dev) (tag : Nat) (l : List Nat) (force : Bool) : Bool :=
  d.allOwned tag l || (force && match l.head? with
    | some i => match spFind d.lard.cells i with
      | some c => d.allOwned c.owner l && d.forcing tag c.owner
      | none => false
    | none => false)

/-! ## The operations -/

/-- ALLOC. -/
def Dev.lardAlloc (d : Dev) (tag w0 w1 w2 w3 : Nat) : LardAns :=
  let n := bits w0 18 9
  if 6 ≤ w0 % 16 || lardUnused 0 w0 w1 w2 w3 || 512 < n then d.lardNo Code.reserved
  else match d.alloc tag (bits w0 8 4) n none with
    | (some c, d) => ⟨Code.ok, c.handle, d⟩
    | (none, d) => ⟨Code.failEmpty, 0, d⟩

/-- FREE. -/
def Dev.lardFree (d : Dev) (tag w0 w1 w2 w3 : Nat) : LardAns :=
  match (if lardUnused 1 w0 w1 w2 w3 then none else chainOf w1) with
  | none => d.lardNo Code.reserved
  | some c => match d.lardWalk tag w1 c with
    | .error a => a
    | .ok l => if d.mayTake tag l true then ⟨Code.ok, 0, d.freeList l⟩ else d.lardNotHolder

/-- TRANSFER: it answers the handle it was given (assumption 51). -/
def Dev.lardTransfer (d : Dev) (tag w0 w1 w2 w3 : Nat) : LardAns :=
  match (if lardUnused 2 w0 w1 w2 w3 || w2 / 2 ^ 12 ≠ 0 || !ownerTagOk w2 then none else chainOf w1) with
  | none => d.lardNo Code.reserved
  | some c => match d.lardWalk tag w1 c with
    | .error a => a
    | .ok l =>
      if d.mayTake tag l true then
        ⟨Code.ok, if c.count = 0 then 0 else w1, d.mapCells l (fun x => { x with owner := w2 })⟩
      else d.lardNotHolder

/-- JOIN. -/
def Dev.lardJoin (d : Dev) (tag w0 w1 w2 w3 : Nat) : LardAns :=
  match (if lardUnused 3 w0 w1 w2 w3 then none else chainOf w1), chainOf w2 with
  | some a, some b =>
    if a.count ≠ 0 ∧ b.count ≠ 0 ∧ (a.head = b.head ∨ 512 < a.count + b.count) then d.lardNo Code.reserved
    else match d.lardWalk2 tag w1 w2 a b with
      | .error x => x
      | .ok (la, lb) =>
        if d.mayTake tag la false && d.mayTake tag lb false then
          let (c, d) := d.joinChains a b
          ⟨Code.ok, c.handle, d⟩
        else d.lardNotHolder
  | _, _ => d.lardNo Code.reserved

/-- RECLAIM. A gallery keeper that names a thread of another gallery is refused with NOT_OWNER (assumption 51). -/
def Dev.lardReclaim (d : Dev) (tag w0 w1 w2 w3 : Nat) : LardAns :=
  let t := w2 % 2 ^ 12
  let keeper := match tidOfTag tag with
    | some k => d.isKeeper k && (k.g = 0 || t < 0x800 || bits t 10 7 = k.g)
    | none => false
  if !keeper then d.lardNo Code.notOwner
  else match (if lardUnused 5 w0 w1 w2 w3 || w2 / 2 ^ 12 ≠ 0 then none else tidOfTag t) with
    | none => d.lardNo Code.reserved
    | some id =>
      if (d.thr id).state ≠ .parked ∧ (d.thr id).state ≠ .halted then d.lardNo Code.reserved
      else
        let l := d.cellsOf t
        ⟨Code.ok, 0, (d.freeList l).bumpBy R.lardRetireFreed l.length⟩

/-! ## RELEASE -/

/-- What a RELEASE spends: the packet whose domain and number it takes, whether the number is still to spend, and a
keeper's pending slot. -/
structure RelBase where
  pkt : Pkt
  seq : Option Nat
  slot : Option Nat
  deriving DecidableEq, Repr

/-- The task or pending slot a RELEASE works for; none: NOT_OWNER (R102, R300). A handle that names no chain (`none`) is no
pending slot's, and a slot that is free has no chain. -/
def Dev.relBase (d : Dev) (id : Tid) (a : Option Chain) (w2 : Nat) : Option RelBase :=
  let null := match a with | some c => c.count = 0 | none => false
  let isOf (q : Pkt) : Bool := match a with | some c => c.count ≠ 0 && c.head = q.chain.head | none => false
  if d.isKeeper id then
    if bitOf w2 13 then
      match d.pendingAt id.g (bits w2 21 16) with
      | some q => if null || isOf q then some ⟨q, q.seq, some (bits w2 21 16)⟩ else none
      | none => if null then some ⟨Pkt.empty, none, none⟩ else none
    else (d.pendingSlots id.g).findSome? (fun e => if isOf e.2 then some ⟨e.2, e.2.seq, some e.1⟩ else none)
  else
    let t := d.thr id
    t.desc.map (fun p => ⟨p, if t.spent then none else p.seq, none⟩)

/-- Session data named by the shelf at the acceptance of a RELEASE (R390, R295): none for an ordinary packet, an error
where the values are refused. In HANDSHAKE only the content of flights, of type 22, is released (R145, assumption 53). -/
def Dev.relSession (d : Dev) (id : Tid) (bay : Nat) : Except Unit (Option SessData) :=
  let w := d.localVal id (descAt + 0x24) 4
  let ct := d.localVal id (descAt + 0x34) 1
  if !bitOf w 31 then .ok none
  else match d.ses (w % 2 ^ 22) with
    | none => .error ()
    | some s =>
      let ready := s.state = .established || (s.state = .handshake && ct = 22)
      if !ready || s.id.bay ≠ bay || ct < 20 || 23 < ct then .error () else .ok (some ⟨w % 2 ^ 22, ct⟩)

/-- The number of the RELEASE is spent, and a keeper's slot freed. -/
def Dev.spendNumber (d : Dev) (id : Tid) (b : RelBase) : Dev :=
  match b.slot with
  | some p => d.freePending id.g p
  | none => if d.isKeeper id then d else d.updThr id (fun t => { t with spent := true })

/-- Hand the chain over to the reorder stage (R97, R111, R112). -/
def Dev.handOver (d : Dev) (id : Tid) (b : RelBase) (a : Chain) (bay len : Nat) (sd : Option SessData) : Dev :=
  let gen := if b.pkt.chain.count = 0 && b.pkt.seq.isNone then d.drip.gen else b.pkt.gen
  let d := (d.mapCells (d.chainCells a) (fun c => { c with
    owner := pipeTag (d.macPipe (d.bayMac bay)), flight := some gen })).spendNumber id b
  let dom := match b.seq, sd with
    | none, some x => match d.ses x.session with | some s => s.id.domain | none => b.pkt.domain
    | _, _ => b.pkt.domain
  let (q, d) := match b.seq with | some q => (q, d) | none => d.takeSeq dom
  let p := { b.pkt with
    chain := a, len := len, egress := bay, gen := gen, domain := dom, seq := some q, flood := false,
    session := sd.map (fun x => x.session) }
  let d := d.reorderEnter ⟨dom, q, some p, bay, d.drip.now, sd⟩
  match sd with | some x => d.sendLimit x.session gen | none => d

/-- RELEASE by a thread. -/
def Dev.lardRelease (d : Dev) (tag w0 w1 w2 w3 : Nat) : LardAns :=
  match tidOfTag tag with
  | none => d.lardNo Code.notOwner
  | some id =>
    let bad := lardUnused 4 w0 w1 w2 w3 || bits w2 15 14 ≠ 0 || w2 / 2 ^ 22 ≠ 0
      || (!bitOf w2 13 && bits w2 21 16 ≠ 0) || (bitOf w2 13 && !d.isKeeper id)
    match d.relBase id (chainOf w1) w2, chainOf w1 with
    | none, _ => d.lardNo Code.notOwner
    | some _, none => d.lardNo Code.reserved
    | some b, some a =>
        let empty := bitOf w2 12
        let bay := bits w2 11 0
        let hands := !empty && a.count ≠ 0
        let len := d.localVal id winLength 4
        match (if hands then d.relSession id bay else .ok none) with
        | .error _ => d.lardNo Code.reserved
        | .ok sd =>
          let number := b.seq.isSome || (hands && sd.isSome && b.slot.isNone && !d.isKeeper id)
          if bad || !number || (hands && 128 * a.count < len) then d.lardNo Code.reserved
          else match d.lardWalk tag w1 a with
            | .error x => x
            | .ok l =>
              if !d.mayTake tag l false then d.lardNotHolder
              else if empty then
                let d := (d.freeList l).spendNumber id b
                ⟨Code.ok, 0, match b.seq with | some q => d.releaseEmpty b.pkt.domain q | none => d⟩
              else if a.count = 0 then ⟨Code.ok, 0, d⟩
              else ⟨Code.ok, 0, d.handOver id b a bay len sd⟩

/-! ## Who issues -/

/-- A Larder operation. -/
abbrev LardOp := Dev → Nat → Nat → Nat → Nat → Nat → LardAns

/-- A thread's LARD instruction whose op is one of `ops` (R258). -/
def Dev.issueLard (d : Dev) (id : Tid) (mine : Nat → Bool) (f : LardOp) : Dev :=
  d.issueWith id 0xE4 (fun d i => d.withOps id i [] 0 i.op (fun d evs b =>
    match evs with
    | [s, e] =>
      let w (k : Nat) : Nat := bits s.val (32 * k + 31) (32 * k)
      if !mine (w 0 % 16) then d
      else
        let a := f (d.setBases id b) (ownerTag id) (w 0) (w 1) (w 2) (w 3)
        (a.dev.putOp id i.op i.width (classOf i.op) e (a.code + a.res * 2 ^ 32)).finishCode id i b a.code false
    | _ => d))

/-- A write of 1 to LARD_CMD_GO by the host or the peer whose buffer holds one of `ops` (R119). -/
def Dev.goLard (d : Dev) (m : Nat) (mine : Nat → Bool) (f : LardOp) : Dev :=
  d.doorbell m R.lardCmdGo [3, 4] 1 1 (fun d =>
    let w (k : Nat) : Nat := d.per m (R.lardCmd + 4 * k)
    if !mine (w 0 % 16) then d
    else
      let a := f d (masterTag m) (w 0) (w 1) (w 2) (w 3)
      (a.dev.setPer m R.lardCmdRes a.res).setStat m R.lardCmdStat false a.code)

/-- A Larder command of a thread or a master. -/
def Dev.lardBy (d : Dev) (who : Who) (mine : Nat → Bool) (f : LardOp) : Dev :=
  match who with
  | .thread id => d.issueLard id mine f
  | .master m => d.goLard m mine f

/-- LARDER_ALLOC (R98, R102); a command with a reserved op is taken here too. -/
def execLarderAlloc (who : Who) (s : State) : Host.Outcome State Fault Refusal :=
  s.run (fun d => d.lardBy who (fun op => op = 0 || 6 ≤ op) Dev.lardAlloc)

/-- LARDER_FREE (R102, R106). -/
def execLarderFree (who : Who) (s : State) : Host.Outcome State Fault Refusal :=
  s.run (fun d => d.lardBy who (fun op => op = 1) Dev.lardFree)

/-- LARDER_TRANSFER (R102). -/
def execLarderTransfer (who : Who) (s : State) : Host.Outcome State Fault Refusal :=
  s.run (fun d => d.lardBy who (fun op => op = 2) Dev.lardTransfer)

/-- LARDER_JOIN (R102). -/
def execLarderJoin (who : Who) (s : State) : Host.Outcome State Fault Refusal :=
  s.run (fun d => d.lardBy who (fun op => op = 3) Dev.lardJoin)

/-- LARDER_RELEASE (R111). -/
def execLarderRelease (who : Who) (s : State) : Host.Outcome State Fault Refusal :=
  s.run (fun d => d.lardBy who (fun op => op = 4) Dev.lardRelease)

/-- LARDER_RECLAIM (R102). -/
def execLarderReclaim (who : Who) (s : State) : Host.Outcome State Fault Refusal :=
  s.run (fun d => d.lardBy who (fun op => op = 5) Dev.lardReclaim)

/-- CELL_SCRUB_DONE: a cell freed from a scrubbing pool has been zeroed and can be allocated (R95). -/
def Dev.scrubDone (d : Dev) (i : Nat) : Dev :=
  if spGet false d.lard.scrub i then
    d.onLard (fun l => { l with scrub := spSet false l.scrub i false, fill := spSet 1 l.fill i 0 })
  else d

/-- CELL_SCRUB_DONE (R95). -/
def execCellScrubDone (cell : Nat) (s : State) : Host.Outcome State Fault Refusal := s.run (fun d => d.scrubDone cell)

end Sys2Proof.Machine
end

