-- ==== Sys2Proof/Machine/Sess.lean ====
section
/-! DEFINITION. SESS commands (R129, R145, R146) and the timers and events of the session stage (R128, R131, R135, R137,
R140). -/

namespace Sys2Proof.Machine

/-! ## Keys take effect -/

/-- A packet that waited for keys is delivered with the records its segment completes (R145, R391): `k` in-order bytes had come
with it. One without a number takes the next of the session's domain when it delivers (assumption 53). -/
def Dev.heldLive (d : Dev) (n : Nat) (p : Pkt) (k : Nat) : Dev :=
  match d.deliverTo n p k with
  | (some q, d) =>
    if q.seq.isSome then d.finishAction q
    else
      let dom := match d.ses n with | some s => s.id.domain | none => q.domain
      let (x, d) := d.takeSeq dom
      d.finishAction { q with domain := dom, seq := some x }
  | (none, d) => d

/-- Packets that waited for keys are delivered one after the other; each is as far into the bytes held as when it came, less what
those before it took away. -/
def Dev.keysLive (d : Dev) (n : Nat) : Dev :=
  match d.ses n with
  | none => d
  | some s =>
    let bytes (d : Dev) : Nat := match d.ses n with | some s => s.rx.buf.length | none => 0
    (s.rx.held.foldl (fun (x : Nat × Dev) q =>
      let e := x.2.heldLive n q.1 (q.2 - x.1)
      (x.1 + (bytes x.2 - bytes e), e)) (0, d.setSes n { s with rx := { s.rx with held := [] } })).2

/-- Install a secret in one direction: record numbers start again at 0 (R141). -/
def SessTls.install (t : SessTls) (tx : Bool) (suite phase : Nat) (k : Bytes) : SessTls :=
  if tx then { t with txSuite := suite, txSecret := some k, txNum := 0, txPhase := phase }
  else { t with rxSuite := suite, rxSecret := some k, rxNum := 0, rxPhase := phase, hsPart := [] }

/-- A session whose application secrets are both in effect is ESTABLISHED (R145). -/
def Session.settle (s : Session) : Session :=
  if s.state = .handshake && s.tls.rxPhase = 2 && s.tls.txPhase = 2 then { s with state := .established } else s

/-! ## The commands -/

/-- The result of a SESS command: its code, word 1, and the device. -/
structure SessAns where
  code : Nat
  res : Nat
  dev : Dev
  deriving DecidableEq, Repr

/-- A refusal. -/
def Dev.sessNo (d : Dev) (code : Nat) : SessAns := ⟨code, 0, d⟩

/-- Word `i` of a command. -/
def SessCmd.word (c : SessCmd) (i : Nat) : Nat := c.words.getD i 0

/-- The owner tag of a command's issuer. -/
def SessCmd.tag (c : SessCmd) : Nat := match c.who with | .thread id => ownerTag id | .master m => masterTag m

/-- The issuer is a keeper. -/
def Dev.sessKeeper (d : Dev) (c : SessCmd) : Bool :=
  match c.who with | .thread id => d.isKeeper id | .master m => m = 2

/-- The issuer may command session `n`: any issuer for an OPEN's session; for a listener's, a keeper, or its owner thread, which is
the thread whose task names the session (R146, assumption 53). -/
def Dev.maySess (d : Dev) (c : SessCmd) (n : Nat) (s : Session) : Bool :=
  s.id.listener.isNone || d.sessKeeper c
    || match c.who with
      | .thread id => (match (d.thr id).desc with | some p => p.session = some n | none => false)
      | .master _ => false

/-- A local port no session of the bay uses with the same addresses and remote port. -/
def Dev.portFree (d : Dev) (i : SessId) (port : Nat) : Bool :=
  !d.sess.tab.any (fun e =>
    let x := e.2.id
    !e.2.isInner && x.bay = i.bay && x.v6 == i.v6 && x.raddr = i.raddr && x.laddr = i.laddr && x.rport = i.rport
      && x.lport = port)

/-- The local port of an OPEN: the one named, or the lowest free one from 49,152 up. -/
def Dev.openPort (d : Dev) (i : SessId) (port : Nat) : Option Nat :=
  if port ≠ 0 then some port else ((List.range 16384).map (· + 49152)).find? (fun p => d.portFree i p)

/-- OPEN (R130, R131, R146). -/
def Dev.sessOpen (d : Dev) (c : SessCmd) : SessAns :=
  let w := c.word
  let v6 := bitOf (w 7) 16
  let addr (o : Nat) : Nat :=
    if v6 then w o + 2 ^ 32 * w (o + 1) + 2 ^ 64 * w (o + 2) + 2 ^ 96 * w (o + 3) else w o
  let high (o : Nat) : Bool := w (o + 1) ≠ 0 || w (o + 2) ≠ 0 || w (o + 3) ≠ 0
  let t : Option (Nat × Nat) := match c.who with
    | .thread id => (d.thr id).desc.map (fun p => (p.task, p.prio))
    | .master _ => none
  let i : SessId := {
    bay := bits (w 1) 11 0, listener := none, issuer := c.tag, task := t.map Prod.fst, prio := (t.map Prod.snd).getD 0,
    profile := bits (w 1) 14 12, tls := bitOf (w 1) 15, domain := bits (w 6) 31 16, v6 := v6, raddr := addr 2,
    laddr := addr 8, rport := bits (w 1) 31 16, lport := 0, dmac := w 12 + 2 ^ 32 * bits (w 13) 15 0,
    smac := bits (w 13) 31 16 + 2 ^ 16 * w 14, mss := bits (w 6) 15 0 }
  if w 7 / 2 ^ 17 ≠ 0 || (!v6 && (high 2 || high 8)) then d.sessNo Code.reserved
  else match d.openPort i (bits (w 7) 15 0) with
    | none => d.sessNo Code.failEmpty
    | some port =>
      if !d.portFree i port then d.sessNo Code.reserved
      else match d.newSesId with
        | none => d.sessNo Code.failEmpty
        | some n =>
          let i := { i with lport := port }
          let gen := (d.group 10).genLive
          let iss := d.freeVal / 2 ^ 128 % 2 ^ 32
          let rx := d.newRx 0 true true 0
          let s : Session := ⟨.syn, i, d.newTx gen i iss, rx, SessTls.new, false, 0⟩
          ⟨Code.ok, n, d.freeStep.createSes n s (s.frame d.freeVal iss 0 0x02 (s.synOpts d.freeVal i.mss) [])⟩

/-- INSTALL_KEYS of a session. -/
def Dev.sessInstall (d : Dev) (c : SessCmd) (n : Nat) (s : Session) : SessAns :=
  let w := c.word 0
  let phase := bits w 27 26
  if !s.id.tls || s.state = .syn || s.state = .closed || c.secret = [] then d.sessNo Code.reserved
  else
    let s := { s with tls := s.tls.install (bitOf w 28) (b2n (bitOf w 29)) (phase + 1) c.secret }.settle
    ⟨Code.ok, 0, (d.setSes n s).keysLive n⟩

/-- INSTALL_KEYS of an inner session (R149): it is created by its first secret, and linked to the outer session. An inner session
takes no inner session of its own (assumption 53). -/
def Dev.sessInner (d : Dev) (c : SessCmd) (n : Nat) : SessAns :=
  let w := c.word 0
  let o := bits (c.word 7) 21 0
  let phase := bits w 27 26
  match d.ses o with
  | none => d.sessNo Code.reserved
  | some outer =>
    let fresh : Session := ⟨.established, { outer.id with tls := true },
      { d.newTx (d.group 10).genLive outer.id 0 with timer := none }, d.newRx 0 false false 0, SessTls.new, true, 0⟩
    let inner := (d.ses n).getD fresh
    if c.word 7 / 2 ^ 22 ≠ 0 || outer.isInner || !inner.isInner || d.sess.max ≤ n || c.secret = [] then d.sessNo Code.reserved
    else if (d.ses n).isNone && d.sess.max ≤ d.sess.tab.length then d.sessNo Code.failEmpty
    else if !d.maySess c o outer then d.sessNo Code.notHolder
    else
      let inner := { inner with tls := inner.tls.install (bitOf w 28) (b2n (bitOf w 29)) (phase + 1) c.secret }
      ⟨Code.ok, 0, (d.setSes n inner).setSes o { outer with tls := { outer.tls with inner := some n } }⟩

/-- KEYUPDATE: a KeyUpdate is sent and the transmit secret advances (R143). -/
def Dev.sessKeyUpdate (d : Dev) (n : Nat) (s : Session) : SessAns :=
  match s.tls.txSecret with
  | some k =>
    if s.tls.txPhase ≠ 2 ∨ s.isInner ∨ s.state = .closed then d.sessNo Code.reserved
    else
      let u := sealRecord s.tls.txSuite k s.tls.txNum 22 [24, 0, 0, 1, 0]
      let s := { s with tls := { s.tls with txSecret := some (nextSecret s.tls.txSuite k), txNum := 0 } }
      ⟨Code.ok, 0, (d.setSes n (s.queueStream Chain.null u)).pumpOut n⟩
  | none => d.sessNo Code.reserved

/-- CLOSE: close_notify for TLS, then FIN (R131, R146). -/
def Dev.sessClose (d : Dev) (n : Nat) (s : Session) : SessAns :=
  if s.state = .closed then d.sessNo Code.reserved
  else if s.state = .syn || s.isInner then ⟨Code.ok, 0, d.closeSes n⟩
  else
    let (a, t) := d.alert d.sesGen s 1 0
    let s := { s with tls := t, state := .closing, tx := { s.tx with finAsked := true } }
    let s := if s.id.tls && s.tls.txSecret.isSome then s.queueStream Chain.null a else s
    ⟨Code.ok, 0, (d.setSes n s).pumpOut n⟩

/-- ABORT (R139). -/
def Dev.sessAbort (d : Dev) (n : Nat) (s : Session) : SessAns :=
  if s.state = .closed then d.sessNo Code.reserved else ⟨Code.ok, 0, d.abortSes n d.sesGen false none⟩

/-- A reserved op, phase, bit or word of a command is set (R146). -/
def SessCmd.bad (c : SessCmd) : Bool :=
  let w := c.word 0
  5 ≤ w % 16 || bitOf w 31 || c.word 15 ≠ 0 || (w % 16 = 1 && 1 < bits w 27 26)

/-- A command at its boundary (R129); what is reserved is refused before the holder is tested (R12). -/
def Dev.sessDo (d : Dev) (c : SessCmd) : SessAns :=
  let w := c.word 0
  let op := w % 16
  let n := bits w 25 4
  if c.bad then d.sessNo Code.reserved
  else if op = 0 then d.sessOpen c
  else if op = 1 && bitOf w 30 then d.sessInner c n
  else match d.ses n with
    | none => d.sessNo Code.reserved
    | some s =>
      if !d.maySess c n s then d.sessNo Code.notHolder
      else match op with
        | 1 => d.sessInstall c n s
        | 2 => d.sessKeyUpdate n s
        | 3 => d.sessClose n s
        | _ => d.sessAbort n s

/-- Post a command's completion: to the waiting thread, or in the master's registers (R146, R258). -/
def Dev.sessPost (d : Dev) (who : Who) (code res : Nat) : Dev :=
  match who with
  | .thread id =>
    let t := d.thr id
    if t.wait.kind = .sess then
      ((d.writeLoc id t.codeGen 8 (code + res * 2 ^ 32) t.wait.dst).setCode id code false).endWait id
    else d
  | .master m => (d.setPer m R.sessCmdRes res).setStat m R.sessCmdStat false code

/-- The commands accepted in the drip take effect, in order, and complete. -/
def Dev.sessCommands (d : Dev) : Dev :=
  let cs := d.sess.cmds
  cs.foldl (fun d c =>
    let a := d.sessDo c
    a.dev.sessPost c.who a.code a.res) (d.onSess (fun x => { x with cmds := [] }))

/-! ## Acceptance -/

/-- The secret an INSTALL_KEYS points to, read at acceptance: bits [31:30] of the pointer name its space as bits [63:62] of
R284 do; empty when the pointer names no such place. -/
def Dev.readSecret (d : Dev) (who : Who) (words : List Nat) : Bytes :=
  let p := words.getD 1 0
  let n := suiteLen (b2n (bitOf (words.getD 0 0) 29))
  match bits p 31 30, who with
  | 0, .thread id =>
    let a := bits p 29 0
    if 0x10000 ≤ a ∧ a + n ≤ 0x20000 then d.localBytes id a n else []
  | 0, .master 2 => match d.keeper 0 with
    | some id =>
      let a := bits p 29 0
      if 0x10000 ≤ a ∧ a + n ≤ 0x20000 then d.localBytes id a n else []
    | none => []
  | 1, _ =>
    let a := bits p 29 0
    if a + n ≤ 2 ^ 26 then d.memBytes false a n else []
  | _, _ => []

/-- Accept a command for the boundary. -/
def Dev.sessAccept (d : Dev) (who : Who) (words : List Nat) : Dev :=
  d.onSess (fun x => { x with cmds := x.cmds ++ [⟨who, words, d.readSecret who words⟩] })

/-- A thread's SESS instruction with one of the ops `mine` (R258). -/
def Dev.issueSess (d : Dev) (id : Tid) (mine : Nat → Bool) : Dev :=
  d.issueWith id 0xE5 (fun d i => d.withOps id i [] 0 i.op (fun d evs b =>
    match evs with
    | [s, e] =>
      let ws := (List.range 16).map (fun k => bits s.val (32 * k + 31) (32 * k))
      if !mine (ws.getD 0 0 % 16) then d
      else (d.sessAccept (.thread id) ws).startWait id
        ⟨.sess, e.loc, .imm 0, 0, 0, 0, d.nextPc id i, d.drip.now, b⟩
    | _ => d))

/-- A write of 1 to SESS_CMD_GO by the head keeper or the host with one of the ops `mine` in its buffer; what is reserved comes
before BUSY_RETRY (R12). -/
def Dev.goSess (d : Dev) (m : Nat) (mine : Nat → Bool) : Dev :=
  d.doorbell m R.sessCmdGo [2, 3] 1 1 (fun d =>
    let ws := d.perWords m R.sessCmd 16
    if !mine (ws.getD 0 0 % 16) then d
    else if bitOf (d.per m R.sessCmdStat) 0 then
      d.refuse m R.sessCmdGo (if (SessCmd.mk (.master m) ws []).bad then Code.reserved else Code.busyRetry)
    else (d.sessAccept (.master m) ws).setStat m R.sessCmdStat true 0)

/-- A SESS command of a thread or a master. -/
def Dev.sessBy (d : Dev) (who : Who) (mine : Nat → Bool) : Dev :=
  match who with
  | .thread id => d.issueSess id mine
  | .master m => d.goSess m mine

/-- OPEN (R146); a command with a reserved op is taken here too. -/
def execSessOpen (who : Who) (s : State) : Host.Outcome State Fault Refusal :=
  s.run (fun d => d.sessBy who (fun op => op = 0 || 5 ≤ op))

/-- INSTALL_KEYS (R141). -/
def execSessInstallKeys (who : Who) (s : State) : Host.Outcome State Fault Refusal :=
  s.run (fun d => d.sessBy who (fun op => op = 1))

/-- KEYUPDATE (R143). -/
def execSessKeyUpdate (who : Who) (s : State) : Host.Outcome State Fault Refusal :=
  s.run (fun d => d.sessBy who (fun op => op = 2))

/-- CLOSE (R146). -/
def execSessClose (who : Who) (s : State) : Host.Outcome State Fault Refusal :=
  s.run (fun d => d.sessBy who (fun op => op = 3))

/-- ABORT (R139, R146). -/
def execSessAbort (who : Who) (s : State) : Host.Outcome State Fault Refusal :=
  s.run (fun d => d.sessBy who (fun op => op = 4))

/-! ## Events of a session -/

/-- SESSION_CACHE_FILL: the record is hot, and the segments that waited for it are processed in order (R128). -/
def Dev.cacheFill (d : Dev) (n : Nat) : Dev :=
  let mine (p : Pkt) : Bool := p.session = some n
  let ps := (d.missQ 0).filter mine ++ (d.missQ 1).filter mine
  if (d.ses n).isNone || (ps = [] && d.sess.hot.contains n) then d
  else
    let d := ((d.setMissQ 0 ((d.missQ 0).filter (fun p => !mine p))).setMissQ 1 ((d.missQ 1).filter (fun p => !mine p))).touchSes n
    ps.foldl (fun d p => match d.readSeg p with
      | none => d.dropPkt p
      | some g => match d.sesSegment n p g with
        | (some q, d) => d.finishAction q
        | (none, d) => d) d

/-- DELAYED_ACK: at the first boundary after unacknowledged data arrived (R135). -/
def Dev.delayedAck (d : Dev) (n : Nat) : Dev :=
  match d.ses n with
  | some s => if s.rx.ackPend ≠ 0 && s.rx.ackDrip < d.drip.now then d.emitAck n d.sesGen else d
  | none => d

/-- SESSION_ID_RECYCLE: the id of a CLOSED session becomes free 2 × rto_max × 1,024 drips later (R131). -/
def Dev.recycle (d : Dev) (n : Nat) : Dev :=
  match d.ses n with
  | some s =>
    let m := bits (d.profile (d.group 10).genLive s.id.profile 1) 31 16
    if s.state = .closed && s.closedAt + 2 * m * 1024 ≤ d.drip.now then
      d.onSess (fun x => { x with tab := spErase x.tab n, hot := x.hot.erase n })
    else d
  | none => d

/-- A frame without data whose number lies before the first unacknowledged one: it draws an acknowledgement. -/
def Session.probe (s : Session) (v : Nat) : Bytes := s.frame v (sub32 s.tx.una 1) s.rx.nxt 0x10 (s.tsOpt v) []

/-- RETRANSMISSION_TIMEOUT (R137, R140): the first segment is sent again as it was, and the timeout doubles; after
max_retx retransmissions the session is aborted. With nothing in flight the window is probed. -/
def Dev.rtxTimeout (d : Dev) (n : Nat) : Dev :=
  match d.ses n with
  | none => d
  | some s => match s.tx.timer with
    | none => d
    | some t =>
      let gen := (d.group 10).genLive
      if d.drip.now < t || s.state = .closed then d
      else if bits (d.profile gen s.id.profile 2) 19 16 ≤ s.tx.retx then d.abortSes n d.sesGen false none
      else
        let rto := d.clampRto gen s.id.profile (2 * s.tx.rto)
        let flight := s.tx.segs.any (fun g => g.frame ≠ [])
        let fixed := bits (d.profile gen s.id.profile 0) 1 0 = 2
        let tx := { s.tx with
          rto := rto, timer := some (d.drip.now + rto), retx := s.tx.retx + b2n flight, timed := none, recover := none,
          ssthresh := if flight then d.lossThresh gen s else s.tx.ssthresh,
          cubic := if flight then s.tx.lossCubic true else s.tx.cubic,
          cwnd := if flight && !fixed then s.id.mss else s.tx.cwnd,
          segs := s.tx.segs.map (fun g => { g with sacked := false }) }
        let s := { s with tx := tx }
        if flight then (d.setSes n s).resendFirst n else (d.setSes n s).pushSes n s s.probe

/-- KEEPALIVE: a session idle for ka_idle × 65,536 drips sends a probe; one that leaves max_retx probes unanswered is
aborted (R140). -/
def Dev.keepalive (d : Dev) (n : Nat) : Dev :=
  match d.ses n with
  | none => d
  | some s =>
    let w := d.profile (d.group 10).genLive s.id.profile 2
    let idle := bits w 15 0 * 65536
    if idle = 0 || s.isInner || s.state = .syn || s.state = .closed
      || d.drip.now < Nat.max s.rx.heard s.rx.probed + idle then d
    else if bits w 19 16 ≤ s.rx.probes then d.abortSes n d.sesGen false none
    else
      (d.setSes n { s with rx := { s.rx with probed := d.drip.now, probes := s.rx.probes + 1 } }).pushSes n s s.probe

/-- SESSION_CACHE_FILL (R128). -/
def execSessionCacheFill (session : Nat) (s : State) : Host.Outcome State Fault Refusal := s.run (fun d => d.cacheFill session)

/-- DELAYED_ACK (R135). -/
def execDelayedAck (session : Nat) (s : State) : Host.Outcome State Fault Refusal := s.run (fun d => d.delayedAck session)

/-- SESSION_ID_RECYCLE (R131). -/
def execSessionIdRecycle (session : Nat) (s : State) : Host.Outcome State Fault Refusal := s.run (fun d => d.recycle session)

/-- RETRANSMISSION_TIMEOUT (R137). -/
def execRetransmissionTimeout (session : Nat) (s : State) : Host.Outcome State Fault Refusal :=
  s.run (fun d => d.rtxTimeout session)

/-- KEEPALIVE (R140). -/
def execSessKeepalive (session : Nat) (s : State) : Host.Outcome State Fault Refusal := s.run (fun d => d.keepalive session)

end Sys2Proof.Machine
end

