-- ==== Sys2Proof/Machine/CsrWrite.lean ====
section
/-! DEFINITION. Writes of the CSR window (R7, R9, R42, R54 to R58, R515, R521): a register whose write performs an action,
and any other register, field by field. The partner's requests (R465) come the same way. -/

namespace Sys2Proof.Machine

/-! ## Registers whose write performs an action -/

/-- A write to a go register of bit 0: `act` on 1. -/
def Dev.goWrite (d : Dev) (m off v : Nat) (named : List Nat) (act : Dev → Dev) : Dev :=
  d.doorbell m off named 1 v (fun d => if v = 1 then act d else d)

/-- CLAS_ROW_CMD (R86). -/
def Dev.rowCmdWrite (d : Dev) (m v : Nat) : Dev :=
  d.doorbell m R.clasRowCmd [] 18 v (fun d =>
    let row := v % 2 ^ 15
    if bitOf v 15 then d.reservedCsr m R.clasRowCmd
    else match bits v 17 16 with
      | 0 => d.rowWrite m row
      | 1 => d.rowRead m row false
      | 2 => d.rowRead m row true
      | _ => if bitOf (d.per m R.clasRowStat) 0 then d.refuse m R.clasRowCmd Code.reserved
        else d.setStat m R.clasRowStat false Code.reserved)

/-- LARD_CMD_GO: the operation that the buffer names (R101, R119). -/
def Dev.lardGo (d : Dev) (m : Nat) : Dev :=
  let every : Nat → Bool := fun _ => true
  match d.per m R.lardCmd % 16 with
  | 1 => d.goLard m every Dev.lardFree
  | 2 => d.goLard m every Dev.lardTransfer
  | 3 => d.goLard m every Dev.lardJoin
  | 4 => d.goLard m every Dev.lardRelease
  | 5 => d.goLard m every Dev.lardReclaim
  | _ => d.goLard m every Dev.lardAlloc

/-- A gallery register `base` at `o`: its gallery. -/
def gallIdx (base o : Nat) : Option Nat := idxOf base 0x40000 16 o

/-- Actions of the blocks from DRIP to LTCH. -/
def Dev.actionLow (d : Dev) (m o v : Nat) : Option Dev :=
  let every : Nat → Bool := fun _ => true
  if R.dripCsMask ≤ o && o < R.dripCsMask + 0x200 then
    let s := (o - R.dripCsMask) / 0x20
    match (o - R.dripCsMask) % 0x20 / 4 with
    | 0 => some (d.slotWrite m s 0 v)
    | 1 => some (d.slotWrite m s 1 v)
    | 2 => some (d.slotWrite m s 2 v)
    | 3 => some (d.slotCtrl m s v)
    | _ => none
  else if o = R.dripViewReq then some (d.viewReq m v)
  else if o = R.loadCtl then some (d.loadCtl m v)
  else if o = R.loadHoGo then some (d.hoWrite m v)
  else if o = R.clasRowCmd then some (d.rowCmdWrite m v)
  else if o = R.fwdtDmaGo then some (d.goWrite m o v [] (fun d => d.fwdGo m (bits (d.per m R.fwdtDmaCmd) 19 18)))
  else if o = R.lodeHgo then some (d.goWrite m o v [3, 4] (fun d => d.lodeGo m every))
  else if o = R.lardCmdGo then some (d.goWrite m o v [3, 4] (fun d => d.lardGo m))
  else if o = R.sessCmdGo then some (d.goWrite m o v [2, 3] (fun d => d.goSess m every))
  else if o = R.ltchHostRel then some (d.hostRelease m v)
  else none

/-- Actions of the blocks from GALL to DBUG. -/
def Dev.actionHigh (d : Dev) (m o v : Nat) : Option Dev :=
  let every : Nat → Bool := fun _ => true
  if let some g := gallIdx R.gallSev o then some (d.gallSev m g v)
  else if let some g := gallIdx R.gallCoreCtl o then some (d.coreCtl m g v)
  else if let some g := gallIdx R.gallThrCtl o then some (d.thrCtlWrite m g v)
  else if o = R.sealEngCtl then some (d.sealEngCtl m v)
  else if o = R.sealSlotCtl then some (d.slotCtl m v)
  else if o = R.fmteEngCtl then some (d.fmtEngCtl m v)
  else if o = R.bookSrcmdGo then some (d.goWrite m o v [3, 4] (fun d => d.srGo m every))
  else if o = R.bookAckHi then some (d.ackWrite m v)
  else if o = R.arbsQry then some (d.arbsQryWrite m v)
  else if o = R.hostVerSel then some (d.verSelect m v)
  else if o = R.hostMboxDnGo then some (d.mailGo m v)
  else if o = R.hostMboxUpPop then some (d.mailPop m v)
  else if o = R.hostExpAckHi then some (d.expAck m v)
  else if o = R.ropeReqGo then some (d.ropeGo m v every)
  else if o = R.hlthGpioFault then some (d.faultClear m v)
  else if o = R.dbugCtl then some (d.dbugCtl m v)
  else none

/-! ## Other registers, field by field -/

/-- The fields a write changes. -/
def writable (a : Access) : Bool := a == .rw || a == .st || a == .w1c || a == .wo

/-- The fields an owner set governs (R55). -/
def owned (a : Access) : Bool := a == .rw || a == .st

/-- Master `m` may write register `r` at `o`: its own copy, one its chapter names it for, or one of a block in whose owner
set it is (R55, R521); the host and the head keeper park a region, where the owner set lets them (R409). In Load mode only the host writes the LOAD registers (R430). -/
def Dev.mayWrite (d : Dev) (r : RegDef) (m o : Nat) : Bool :=
  let block := (groupOf o).getD 0
  if block = 2 && d.mode = Mode.load then m = 3
  else match r.ownedFrom with
    | some k => (o - r.base) / 4 + k = m
    | none =>
      if !r.masters.isEmpty then r.masters.contains m && (r.base ≠ R.dramRgnPark || d.owns m block)
      else r.perMaster || r.maskOf owned = 0 || d.owns m block

/-- A value with the bits of `mask` taken from `v`. -/
def merge (old mask v : Word) : Nat := ((old &&& ~~~mask) ||| (v &&& mask)).toNat

/-- Write the fields of a register: RW at once (R58), W1C cleared by ones, ST held until the boundary (R42). -/
def Dev.writeFields (d : Dev) (r : RegDef) (m o v : Nat) : Dev :=
  let rw := r.maskOf (fun a => a == .rw || a == .wo)
  let w1c := r.maskOf (fun a => a == .w1c)
  let st := r.maskOf (fun a => a == .st)
  let w := w32 v
  let d := if rw = 0 then d
    else if r.perMaster then d.setPer m o (merge (w32 (d.per m o)) rw w)
    else d.setIo o (merge (w32 (d.io o)) rw w)
  let d := if w1c = 0 then d else d.setIo o (w32 (d.io o) &&& ~~~(w &&& w1c)).toNat
  if st = 0 then d else d.onDrip (fun p => { p with writes := p.writes ++ [⟨m, .reg o, [w &&& st]⟩] })

/-- A write of exp_log2 leaves its outcome in HOST_EXP_STAT (R458). -/
def Dev.expConfig (d : Dev) (o v : Nat) : Dev :=
  if o = R.hostExpSize then d.setIo R.hostExpStat (if v % 64 < 27 || 36 < v % 64 then Code.reserved else Code.ok) else d

/-- A write of a register without an action of its own (R9, R55, R430, R451); one to a closed block is NOT_OWNER, whatever it would
write there (R12). Of the words of a passage that hold no field, only a
write of a non-zero value is a reserved write (R71). -/
def Dev.plainWrite (d : Dev) (m o v : Nat) : Dev :=
  if !d.blockOpen o then d.refuse m o Code.notOwner
  else match regAt o with
  | none => d.reservedCsr m o
  | some r =>
    let mask := r.maskOf writable
    if mask = 0 && (r.base ≠ R.parsPRsvd || v ≠ 0) then d.reservedCsr m o
    else if !d.mayWrite r m o then d.refuse m o Code.notOwner
    else if d.hostHidden o then (if v = 0 then d else d.reservedCsr m o)
    else if w32 v &&& ~~~mask ≠ 0 then d.reservedCsr m o
    else (d.writeFields r m o v).expConfig o v

/-- A write of one word of the window by master `m`: the view alias takes none (R60), STRG space only the Strongroom's
(R360). -/
def Dev.csrWrite (d : Dev) (m o v : Nat) : Dev :=
  if d.noPath m then d
  else if 0xF000000 ≤ o && o < 0xF800000 then d.refuse m o Code.notOwner
  else if 0x8000000 ≤ o then d.reservedCsr m o
  else match d.actionLow m o v with
    | some e => e
    | none => match d.actionHigh m o v with
      | some e => e
      | none => d.plainWrite m o v

/-- A write whose byte enables are `be` (R515): one that does not enable all four bytes is discarded, counted as a reserved write, and
completes with RESERVED_VALUE where the register's chapter gives a place for the code. -/
def Dev.beWrite (d : Dev) (m o v be : Nat) : Dev :=
  if d.noPath m then d
  else if be % 16 = 15 then d.csrWrite m o v
  else if !d.blockOpen o then d.refuse m o Code.notOwner
  else (d.reservedCsr m o).lastWrite m o Code.reserved

/-- Masters that write the window by CSR_WRITE: the head keeper and the host. The partner's writes come as ROPE_REQ_RECEIVE (R465). -/
def writer (m : Nat) : Bool := m = 2 || m = 3

/-- The offset that an address of a master names: its own, or, from 2^28 up, that of the host in PF1 BAR0, which aliases the export
registers (R447). -/
def windowAt (m addr : Nat) : Nat :=
  if m = 3 && 2 ^ 28 ≤ addr && addr < 2 ^ 28 + 0x10000 then 0x5840000 + (addr - 2 ^ 28) else addr

/-- CSR_WRITE (R7, R447, R515). -/
def execCsrWrite (m addr val be : Nat) (s : State) : Host.Outcome State Fault Refusal :=
  s.run (fun d =>
    let o := windowAt m addr
    if !writer m || o % 4 ≠ 0 || 2 ^ 28 ≤ o then d else d.beWrite m o (val % 2 ^ 32) be)

/-! ## Requests of the partner (R465) -/

/-- The code a write of master 4 completes with: what its refusal records (R521), RESERVED_VALUE for a reserved write (R9, R515). -/
def Dev.peerCode (d : Dev) (o v be : Nat) : Nat :=
  let w := R.dripWfail + 8 * 4
  let e := ((d.setIo w 0).setIo R.gctlRsvdWr 0).beWrite 4 o v be
  if bits (e.io w) 31 8 ≠ 0 then bits (e.io w) 7 0 else if e.io R.gctlRsvdWr ≠ 0 then Code.reserved else Code.ok

/-- A write by the partner's master `peer`: its CPL goes now, or at the boundary for a write that is staged. -/
def Dev.peerWrite (d : Dev) (peer o v be : Nat) : Dev :=
  let e := d.beWrite 4 o v be
  if d.drip.writes.length < e.drip.writes.length then
    match e.drip.writes.getLast? with
    | some w => e.onRope (fun r => { r with cpls := r.cpls ++ [⟨peer, w.target⟩] })
    | none => e
  else e.ropeSend 3 (reqCpl peer (d.peerCode o v be) 0)

/-- A read by the partner's master `peer`: its CPL carries the value; of an acquire that waits, when the wait ends (R277). -/
def State.peerRead (s : State) (peer o : Nat) : State :=
  let s' := s.csrRead 4 o
  let n := s.dev.hostLatch 4
  let old := (s.dev.latch n).waiters
  let new := (s'.dev.latch n).waiters
  if old.length < new.length then
    let w := new.getLastD ⟨0, 0, 0⟩
    { s' with dev := s'.dev.onRope (fun r => { r with latchPeer := r.latchPeer ++ [⟨n, w.deadline, peer⟩] }) }
  else { s' with dev := s'.dev.ropeSend 3 (reqCpl peer Code.ok (spGet 0 s'.dev.csr.rdata 4).toNat) }

/-- ROPE_REQ_RECEIVE: a read or write by master 4, in the drip of its arrival; each counts in ROPE_REQ_RX (R468). -/
def execRopeReqReceive (ver peer : Nat) (write : Bool) (off : Nat) (data : ReqData) (s : State) : Host.Outcome State Fault Refusal :=
  let o := off % 2 ^ 28 / 4 * 4
  if write || !s.dev.ropeUp || ver ≠ s.dev.ropeVer then
    s.run (fun d => d.ropeFrame 2 ver (fun d => (d.ropeCount 2).peerWrite (peer % 8) o (data.value % 2 ^ 32) data.be))
  else .next ({ s with dev := s.dev.ropeCount 2 }.peerRead (peer % 8) o)

end Sys2Proof.Machine
end

