-- ==== Sys2Proof/Machine/DripBoundary.lean ====
section
/-! DEFINITION. The drip boundary (R30, R31): the effects of the drip that ends, staged writes resolved (R42 to R44, R57),
arm checks (R47), incident records (R456) and vectors (R457), Limp triggers (R441). Seals, flips, captures and the other
rows of a boundary follow as commands of their own. -/

namespace Sys2Proof.Machine

/-! ## The drip that ends -/

/-- Effects of the drip that ends that are formed before the next begins: CAL_SETs, TALLYs, records, the sweep, learning,
hits, the Lode. -/
def Dev.endDrip (d : Dev) : Dev :=
  (((d.tallyBoundary.calBoundary.bookBoundary.sweepWalk).learnApply).hitApply).lodeBoundary

/-- The boundary that begins drip `n` (R28, R31). -/
def Dev.nextDrip (d : Dev) (n : Nat) : Dev := d.onDrip (fun p => { p with now := n, cycle := n * d.dripCycles })

/-- Cells fenced in the drip that ended no longer count as FREE (R471). -/
def Dev.fencesCount (d : Dev) : Dev := d.onLard (fun l => { l with fencedNew := 0 })

/-- Drip `n` begins, once the boundary's steps are done, with every budget full (R33). -/
def Dev.openDrip (d : Dev) (n : Nat) : Dev :=
  d.onDrip (fun p => { p with now := n, learnUsed := 0, lodeUsed := 0, tallyUsed := 0, slotsUsed := [] })

/-- The policer of each exception class gains its tokens (R88). -/
def Dev.refillBuckets (d : Dev) : Dev :=
  let gain (b : Map Nat) (c : Nat) : Map Nat := spSet 0 b c (Nat.min (spGet 0 b c + d.bucketGain c) (d.bucketCap c))
  d.onIngr (fun i => { i with bucket := (List.range 8).foldl gain i.bucket })

/-- The Strongroom's drip: its time, and the egress stamps of the drip become visible (R370). -/
def Dev.strongDrip (d : Dev) : Dev :=
  d.strongTick.onStrong (fun s => { s with egtsWp := s.egtsWp + s.egtsNew, egtsNew := 0 })

/-! ## Incident records (R455, R456) -/

/-- Consumer `i` (0 the head keeper, 1 the host) is moved past record `s - 4096`, which record `s` overwrites. -/
def Dev.incEvict (d : Dev) (s i : Nat) : Dev :=
  let old := (s - 4096) % 2 ^ 32
  let rp := d.io (R.hostIncRp + 4 * i)
  if 4096 ≤ s && bitOf (d.io R.hostIncCfg) i && (old + 2 ^ 32 - rp) % 2 ^ 32 < 2 ^ 31 then
    (d.setIo (R.hostIncRp + 4 * i) ((old + 1) % 2 ^ 32)).bump (R.hostIncLost + 4 * i)
  else d

/-- A record enters the queue and inc_table; under m_inc a record of the device's own is mirrored (R467). -/
def Dev.incWrite (d : Dev) (x : Incident) : Dev :=
  let s := d.host.incWp
  let r := { x with serial := s % 2 ^ 32, time := if d.stampValid then d.srTime else 0 }
  let d := (d.incEvict s 0).incEvict s 1
  let d := d.onHost (fun h => { h with incRing := spPut h.incRing (s % 4096) r, incWp := s + 1 })
  let gen := (d.group 14).genLive
  let t := d.liveFld R.hostCfg 24 17
  let d := if d.tabDefined gen t then d.setEntBytes gen t (s % 4096) 0 r.bytes else d
  if d.ropeVer = 2 && bitOf (d.live R.ropeCfg) 3 && !r.mirrored then d.ropeEmit 6 0 (0 :: r.bytes) else d

/-- The records of the drip become visible: vector 0, and DEV for the head keeper (R182, R457). -/
def Dev.incFlush (d : Dev) : Dev :=
  match d.host.incPending with
  | [] => d
  | l => ((l.foldl Dev.incWrite (d.onHost (fun h => { h with incPending := [] }))).signal 0).keeperEvent 0 Ev.dev

/-- Insert a record behind those of its block and of lower ones. -/
def incInsert (x : Incident) : List Incident → List Incident
  | [] => [x]
  | y :: l => if x.block < y.block then x :: y :: l else y :: incInsert x l

/-- Records of one clock stand in block order (R456): those that the boundary itself makes. -/
def Dev.incOrder (d : Dev) : Dev :=
  d.onHost (fun h => { h with incPending := h.incPending.foldl (fun l x => incInsert x l) [] })

/-! ## Staged writes (R42 to R44, R57) -/

/-- The block of a target. -/
def WUnit.block : WUnit → Nat
  | .reg o => (groupOf o).getD 0
  | .row _ => 6

/-- The CSR offset of the write that targets it. -/
def WUnit.addr : WUnit → Nat
  | .reg o => o
  | .row _ => R.clasRowCmd

/-- arg0 of the incident of a discarded write (R57). -/
def WUnit.lostArg (t : WUnit) (winner : Nat) : Nat :=
  match t with
  | .reg o => o % 2 ^ 28 + winner * 2 ^ 28
  | .row r => r + winner * 2 ^ 28 + 2 ^ 31

/-- arg1 of that incident: the value, or the CRC-32C of the entry. -/
def StagedWrite.lostVal (w : StagedWrite) : Nat :=
  match w.target with
  | .reg _ => (w.words.headD 0).toNat
  | .row _ => crc32c (w.words.flatMap (fun x => leBytes 4 x.toNat))

/-- A master's last write to a target. -/
def lastStaged (ws : List StagedWrite) (t : WUnit) (m : Nat) : Option StagedWrite :=
  (ws.filter (fun w => w.target = t && w.master = m)).getLast?

/-- Apply a write to the STAGED bank, or queue it; false when the stage queue is full (R42, R44). -/
def Dev.applyStaged (d : Dev) (w : StagedWrite) : Bool × Dev :=
  let g := w.target.block
  let G := d.group g
  if G.other = .staged && !d.groupSealed g then (true, d.writeBank (!G.liveB) w.target.keys w.words)
  else if d.queueUsed + w.target.entries ≤ 16384 then
    (true, d.onDrip (fun p => { p with queue := p.queue ++ [⟨g, w.target, w.words, d.drip.now⟩] }))
  else (false, d)

/-- A staged write completes: a refused one is recorded (R521), a row WRITE posts its code (R86), a partner's write is
answered (R465). -/
def Dev.stagedEnd (d : Dev) (w : StagedWrite) (code : Nat) : Dev :=
  let d := if code = Code.ok then d else d.refuse w.master w.target.addr code
  let d := match w.target with | .row _ => d.setStat w.master R.clasRowStat false code | .reg _ => d
  if w.master = 4 then
    (d.rope.cpls.filter (fun c => c.target = w.target)).foldl (fun d c => d.ropeSend 3 (reqCpl c.peer code 0)) d
  else d

/-- The writes to one target are resolved: the highest precedence wins, and a write of another value is discarded whole with
SUPERSEDED and an incident (R57). -/
def Dev.resolve (d : Dev) (ws : List StagedWrite) (t : WUnit) : Dev :=
  let last := [1, 2, 3, 4].filterMap (lastStaged ws t)
  match last with
  | [] => d
  | win :: _ =>
    let (ok, d) := d.applyStaged win
    last.foldl (fun d w =>
      if w.words = win.words then d.stagedEnd w (if ok then Code.ok else Code.busyRetry)
      else (d.stagedEnd w Code.superseded).incident t.block Code.superseded (actorMaster w.master) (t.lostArg win.master)
        w.lostVal) d

/-- The staged writes of the drip, target by target in order of arrival. -/
def Dev.resolveStaged (d : Dev) : Dev :=
  let ws := d.drip.writes
  let d := (ws.map (fun w => w.target)).eraseDups.foldl (fun d t => d.resolve ws t) (d.onDrip (fun p => { p with writes := [] }))
  d.onRope (fun r => { r with cpls := [] })

/-! ## Records and signals of the other blocks -/

/-- A scheduling-trace record (R303). -/
def TraceRec.bytes (r : TraceRec) : Bytes :=
  leBytes 8 (r.drip % 2 ^ 56 + r.kind * 2 ^ 56 + r.gallery * 2 ^ 60) ++ leBytes 2 r.task
    ++ leBytes 2 (r.thread + r.prio * 2 ^ 12) ++ leBytes 4 (Nat.min r.wait (2 ^ 32 - 1))

/-- DISP_TRACE_WP after one more record: its wraps saturate (R303). -/
def traceNext (wp : Nat) : Nat :=
  if wp % 65536 = 65535 then Nat.min (wp / 65536 + 1) 0xFFFF * 65536 else wp + 1

/-- The trace records of the drip enter their ring. -/
def Dev.traceFlush (d : Dev) : Dev :=
  let base := d.io64 R.dispTraceBaseLo
  let d' := d.disp.trace.foldl (fun d r =>
    let wp := d.io R.dispTraceWp
    (d.writeMem true (base + 16 * (wp % 65536)) r.bytes).setIo R.dispTraceWp (traceNext wp)) d
  d'.onDisp (fun s => { s with trace := [] })

/-- Row hits of the drip set their bits in CLAS_HIT (R86). -/
def Dev.rowHits (d : Dev) : Dev :=
  (d.ingr.hits.foldl (fun d r => d.setIoBit (R.clasHit + 4 * (r / 32)) (r % 32)) d).onIngr (fun i => { i with hits := [] })

/-- The hottest valid Lode sensor sets the W rate (R353, R483). -/
def Dev.lodeSensors (d : Dev) : Dev :=
  match hottest (d.readings.filter (fun x => 22 ≤ x.1 && x.1 ≤ 25)) with
  | some (_, t) => d.lodeTemp (ofSigned 8 t)
  | none => d

/-- Vector 3 for messages that came up, vector 4 for room in the down channel, and the other conditions of the drip. -/
def Dev.signals (d : Dev) : Dev :=
  let d := if d.host.upArrived then (d.onHost (fun h => { h with upArrived := false })).signal 3 else d
  let d := if d.host.dnWaiting && (d.chan 0 (d.liveFld R.hostCfg 7 0)).length < 4 then
      (d.onHost (fun h => { h with dnWaiting := false })).signal 4
    else d
  (d.host.vecCond.map Prod.fst).foldl (fun d v => d.signal v) (d.onHost (fun h => { h with vecCond := [] }))

/-- Bucket locks of a host that was reset are released (R450). -/
def Dev.hostUnlock (d : Dev) : Dev :=
  if d.host.unlock then
    (d.releaseBuckets 3 (d.fwd.locks.map Prod.fst)).onHost (fun h => { h with unlock := false })
  else d

/-- Mirrored seal blocks of the drip move ROPE_SEAL_WP (R467). -/
def Dev.mirrorSeals (d : Dev) : Dev :=
  (d.setIoFld R.ropeSealWp 7 0 (d.ioFld R.ropeSealWp 7 0 + d.rope.sealNew)).onRope (fun r => { r with sealNew := 0 })

/-- The triggers of Limp mode (R441, R442). -/
def Dev.limpTest (d : Dev) : Dev :=
  if d.mode = Mode.limp then d
  else match d.limpCause with
    | none => d
    | some c =>
      let d := if d.hoOpen then d.hoAbort true Code.orphaned 15 else d
      ((d.limpRecord c).setMode Mode.limp).limpCommits.limpAll

/-! ## The boundary -/

/-- The boundary of a device that stays in its mode or enters Limp. -/
def Dev.boundary (d : Dev) : Dev :=
  let n := (d.drip.now + 1) % 2 ^ 56
  let d := (d.endDrip.nextDrip n).fencesCount.settlePage.strongDrip.refillBuckets
  let d := d.incFlush.fwdBoundary.reorderRelease.openHoles
  let d := d.rowHits.traceFlush.slotChanges.sessCommands
  let d := d.orphanVisible.stillTests.mirrorSeals.hostUnlock
  let d := d.thermalBoundary.lodeSensors
  let d := d.resolveStaged.armChecks
  let d := d.hoBoundary.limpTest
  d.signals.incOrder.openDrip n

/-- DRIP_BOUNDARY (R31): boundaries occur from Service mode on; a LOAD_CTL cold takes effect at the next one (R435). -/
def execDripBoundary (s : State) : Host.Outcome State Fault Refusal :=
  s.run (fun d => if !d.serving then d else if d.load.coldReq then d.toCold else d.boundary)

end Sys2Proof.Machine
end

