-- ==== Sys2Proof/Machine/NerbinAlu.lean ====
section
/-! DEFINITION. The instructions of groups 0x00 to 0x6F (R232 to R240), each issued with its computation. -/

namespace Sys2Proof.Machine

/-- MOV; one that acquires or releases a Latch is the Latch rows'. -/
def execMov (id : Tid) (s : State) : Host.Outcome State Fault Refusal :=
  s.run (fun d => d.issueWith id 0x01 (fun d i =>
    if latchMov i then d else d.perform id i [] 0 i.op (aluSem aluMov) (fun d => d.advance id i.len)))

/-- XCHG (R233). -/
def execXchg (id : Tid) (s : State) : Host.Outcome State Fault Refusal := s.run (fun d => d.issueAlu id 0x02 aluXchg)

/-- BSWAP (R232). -/
def execBswap (id : Tid) (s : State) : Host.Outcome State Fault Refusal := s.run (fun d => d.issueAlu id 0x03 aluBswap)

/-- LEA (R234). -/
def execLea (id : Tid) (s : State) : Host.Outcome State Fault Refusal := s.run (fun d => d.issueAlu id 0x04 aluLea)

/-- BIN2BCD (R235). -/
def execBin2bcd (id : Tid) (s : State) : Host.Outcome State Fault Refusal := s.run (fun d => d.issueAlu id 0x08 aluBin2bcd)

/-- BCD2BIN (R235). -/
def execBcd2bin (id : Tid) (s : State) : Host.Outcome State Fault Refusal := s.run (fun d => d.issueAlu id 0x09 aluBcd2bin)

/-- ADD (R236). -/
def execAdd (id : Tid) (s : State) : Host.Outcome State Fault Refusal := s.run (fun d => d.issueAlu id 0x20 aluAdd)

/-- ADC (R236). -/
def execAdc (id : Tid) (s : State) : Host.Outcome State Fault Refusal := s.run (fun d => d.issueAlu id 0x21 aluAdc)

/-- SUB (R236). -/
def execSub (id : Tid) (s : State) : Host.Outcome State Fault Refusal := s.run (fun d => d.issueAlu id 0x22 aluSub)

/-- SBB (R236). -/
def execSbb (id : Tid) (s : State) : Host.Outcome State Fault Refusal := s.run (fun d => d.issueAlu id 0x23 aluSbb)

/-- NEG (R236). -/
def execNeg (id : Tid) (s : State) : Host.Outcome State Fault Refusal := s.run (fun d => d.issueAlu id 0x24 aluNeg)

/-- INC (R236). -/
def execInc (id : Tid) (s : State) : Host.Outcome State Fault Refusal := s.run (fun d => d.issueAlu id 0x25 aluInc)

/-- DEC (R236). -/
def execDec (id : Tid) (s : State) : Host.Outcome State Fault Refusal := s.run (fun d => d.issueAlu id 0x26 aluDec)

/-- CMP (R236). -/
def execCmp (id : Tid) (s : State) : Host.Outcome State Fault Refusal := s.run (fun d => d.issueAlu id 0x27 aluCmp)

/-- MULU (R237). -/
def execMulu (id : Tid) (s : State) : Host.Outcome State Fault Refusal := s.run (fun d => d.issueAlu id 0x28 aluMulu)

/-- MULS (R237). -/
def execMuls (id : Tid) (s : State) : Host.Outcome State Fault Refusal := s.run (fun d => d.issueAlu id 0x29 aluMuls)

/-- MULHU (R237). -/
def execMulhu (id : Tid) (s : State) : Host.Outcome State Fault Refusal := s.run (fun d => d.issueAlu id 0x2A aluMulhu)

/-- MULHS (R237). -/
def execMulhs (id : Tid) (s : State) : Host.Outcome State Fault Refusal := s.run (fun d => d.issueAlu id 0x2B aluMulhs)

/-- DIVU (R238). -/
def execDivu (id : Tid) (s : State) : Host.Outcome State Fault Refusal := s.run (fun d => d.issueAlu id 0x2C aluDivu)

/-- DIVS (R238). -/
def execDivs (id : Tid) (s : State) : Host.Outcome State Fault Refusal := s.run (fun d => d.issueAlu id 0x2D aluDivs)

/-- REMU (R238). -/
def execRemu (id : Tid) (s : State) : Host.Outcome State Fault Refusal := s.run (fun d => d.issueAlu id 0x2E aluRemu)

/-- REMS (R238). -/
def execRems (id : Tid) (s : State) : Host.Outcome State Fault Refusal := s.run (fun d => d.issueAlu id 0x2F aluRems)

/-- MINU (R236). -/
def execMinu (id : Tid) (s : State) : Host.Outcome State Fault Refusal := s.run (fun d => d.issueAlu id 0x30 aluMinu)

/-- MAXU (R236). -/
def execMaxu (id : Tid) (s : State) : Host.Outcome State Fault Refusal := s.run (fun d => d.issueAlu id 0x31 aluMaxu)

/-- MINS (R236). -/
def execMins (id : Tid) (s : State) : Host.Outcome State Fault Refusal := s.run (fun d => d.issueAlu id 0x32 aluMins)

/-- MAXS (R236). -/
def execMaxs (id : Tid) (s : State) : Host.Outcome State Fault Refusal := s.run (fun d => d.issueAlu id 0x33 aluMaxs)

/-- AND (R207). -/
def execAnd (id : Tid) (s : State) : Host.Outcome State Fault Refusal := s.run (fun d => d.issueAlu id 0x50 aluAnd)

/-- OR (R207). -/
def execOr (id : Tid) (s : State) : Host.Outcome State Fault Refusal := s.run (fun d => d.issueAlu id 0x51 aluOr)

/-- XOR (R207). -/
def execXor (id : Tid) (s : State) : Host.Outcome State Fault Refusal := s.run (fun d => d.issueAlu id 0x52 aluXor)

/-- ANDN (R207). -/
def execAndn (id : Tid) (s : State) : Host.Outcome State Fault Refusal := s.run (fun d => d.issueAlu id 0x53 aluAndn)

/-- NOT (R207). -/
def execNot (id : Tid) (s : State) : Host.Outcome State Fault Refusal := s.run (fun d => d.issueAlu id 0x54 aluNot)

/-- TST (R207). -/
def execTst (id : Tid) (s : State) : Host.Outcome State Fault Refusal := s.run (fun d => d.issueAlu id 0x55 aluTst)

/-- SHL (R239). -/
def execShl (id : Tid) (s : State) : Host.Outcome State Fault Refusal := s.run (fun d => d.issueAlu id 0x58 aluShl)

/-- SHR (R239). -/
def execShr (id : Tid) (s : State) : Host.Outcome State Fault Refusal := s.run (fun d => d.issueAlu id 0x59 aluShr)

/-- SAR (R239). -/
def execSar (id : Tid) (s : State) : Host.Outcome State Fault Refusal := s.run (fun d => d.issueAlu id 0x5A aluSar)

/-- ROL (R239). -/
def execRol (id : Tid) (s : State) : Host.Outcome State Fault Refusal := s.run (fun d => d.issueAlu id 0x5B aluRol)

/-- ROR (R239). -/
def execRor (id : Tid) (s : State) : Host.Outcome State Fault Refusal := s.run (fun d => d.issueAlu id 0x5C aluRor)

/-- EXT (R240). -/
def execExt (id : Tid) (s : State) : Host.Outcome State Fault Refusal := s.run (fun d => d.issueAlu id 0x60 aluExt)

/-- INS (R240). -/
def execIns (id : Tid) (s : State) : Host.Outcome State Fault Refusal := s.run (fun d => d.issueAlu id 0x61 aluIns)

/-- POPC (R239). -/
def execPopc (id : Tid) (s : State) : Host.Outcome State Fault Refusal := s.run (fun d => d.issueAlu id 0x62 aluPopc)

/-- CLZ (R239). -/
def execClz (id : Tid) (s : State) : Host.Outcome State Fault Refusal := s.run (fun d => d.issueAlu id 0x63 aluClz)

/-- CTZ (R239). -/
def execCtz (id : Tid) (s : State) : Host.Outcome State Fault Refusal := s.run (fun d => d.issueAlu id 0x64 aluCtz)

/-- BTST (R240). -/
def execBtst (id : Tid) (s : State) : Host.Outcome State Fault Refusal := s.run (fun d => d.issueAlu id 0x65 aluBtst)

/-- BSET (R240). -/
def execBset (id : Tid) (s : State) : Host.Outcome State Fault Refusal := s.run (fun d => d.issueAlu id 0x66 aluBset)

/-- BCLR (R240). -/
def execBclr (id : Tid) (s : State) : Host.Outcome State Fault Refusal := s.run (fun d => d.issueAlu id 0x67 aluBclr)

end Sys2Proof.Machine
end

