-- ==== Sys2Proof/Machine/Dispatch.lean ====
section
/-! DEFINITION. One arm per command: each is one call of the command's meaning. -/

namespace Sys2Proof.Machine

/-- The effect of a command on everything but the queue. -/
def exec (i : Instr) (s : State) : Host.Outcome State Fault Refusal :=
  match i with
  | .dripBoundary => Sys2Proof.Machine.execDripBoundary s
  | .csrWrite m addr val be => Sys2Proof.Machine.execCsrWrite m addr val be s
  | .counterReadClear m addr => Sys2Proof.Machine.execCounterReadClear m addr s
  | .dripNowRead m => Sys2Proof.Machine.execDripNowRead m s
  | .strgTimeRead m => Sys2Proof.Machine.execStrgTimeRead m s
  | .commitSlotClaim m slot reg val => Sys2Proof.Machine.execCommitSlotClaim m slot reg val s
  | .commitArm m slot => Sys2Proof.Machine.execCommitArm m slot s
  | .commitSlotRelease m slot => Sys2Proof.Machine.execCommitSlotRelease m slot s
  | .commitSeal slot => Sys2Proof.Machine.execCommitSeal slot s
  | .commitFlip slot => Sys2Proof.Machine.execCommitFlip slot s
  | .commitWaitFlip slot => Sys2Proof.Machine.execCommitWaitFlip slot s
  | .commitWaitTimeout slot => Sys2Proof.Machine.execCommitWaitTimeout slot s
  | .commitWaitReport slot => Sys2Proof.Machine.execCommitWaitReport slot s
  | .bankCatchup group => Sys2Proof.Machine.execBankCatchup group s
  | .bankStaged group => Sys2Proof.Machine.execBankStaged group s
  | .viewRequest m buf delay => Sys2Proof.Machine.execViewRequest m buf delay s
  | .viewRelease m buf => Sys2Proof.Machine.execViewRelease m buf s
  | .viewCapture buf => Sys2Proof.Machine.execViewCapture buf s
  | .frameReceive mac data => Sys2Proof.Machine.execFrameReceive mac data s
  | .pfcXoffRepeat pool => Sys2Proof.Machine.execPfcXoffRepeat pool s
  | .pfcFrameReceive mac enables times => Sys2Proof.Machine.execPfcFrameReceive mac enables times s
  | .pfcPauseExpire mac prio => Sys2Proof.Machine.execPfcPauseExpire mac prio s
  | .packetAdmit pipe => Sys2Proof.Machine.execPacketAdmit pipe s
  | .fragEntryExpire set way => Sys2Proof.Machine.execFragEntryExpire set way s
  | .sessionCacheFill session => Sys2Proof.Machine.execSessionCacheFill session s
  | .delayedAck session => Sys2Proof.Machine.execDelayedAck session s
  | .recircAdmit pipe => Sys2Proof.Machine.execRecircAdmit pipe s
  | .sessionIdRecycle session => Sys2Proof.Machine.execSessionIdRecycle session s
  | .retransmissionTimeout session => Sys2Proof.Machine.execRetransmissionTimeout session s
  | .sessKeepalive session => Sys2Proof.Machine.execSessKeepalive session s
  | .larderAlloc who => Sys2Proof.Machine.execLarderAlloc who s
  | .larderFree who => Sys2Proof.Machine.execLarderFree who s
  | .larderTransfer who => Sys2Proof.Machine.execLarderTransfer who s
  | .larderJoin who => Sys2Proof.Machine.execLarderJoin who s
  | .larderRelease who => Sys2Proof.Machine.execLarderRelease who s
  | .larderReclaim who => Sys2Proof.Machine.execLarderReclaim who s
  | .cellScrubDone cell => Sys2Proof.Machine.execCellScrubDone cell s
  | .holeSkip domain => Sys2Proof.Machine.execHoleSkip domain s
  | .egressServe mac => Sys2Proof.Machine.execEgressServe mac s
  | .egressHeaderRetry mac => Sys2Proof.Machine.execEgressHeaderRetry mac s
  | .egressWaitExpire mac => Sys2Proof.Machine.execEgressWaitExpire mac s
  | .clasRowWrite m row => Sys2Proof.Machine.execClasRowWrite m row s
  | .clasRowReadStaged m row => Sys2Proof.Machine.execClasRowReadStaged m row s
  | .clasRowReadLive m row => Sys2Proof.Machine.execClasRowReadLive m row s
  | .linkUp mac pos lock => Sys2Proof.Machine.execLinkUp mac pos lock s
  | .linkDown mac los => Sys2Proof.Machine.execLinkDown mac los s
  | .sessOpen who => Sys2Proof.Machine.execSessOpen who s
  | .sessInstallKeys who => Sys2Proof.Machine.execSessInstallKeys who s
  | .sessKeyUpdate who => Sys2Proof.Machine.execSessKeyUpdate who s
  | .sessClose who => Sys2Proof.Machine.execSessClose who s
  | .sessAbort who => Sys2Proof.Machine.execSessAbort who s
  | .sweepStart => Sys2Proof.Machine.execSweepStart s
  | .fwdtLock m => Sys2Proof.Machine.execFwdtLock m s
  | .fwdtUnlock m => Sys2Proof.Machine.execFwdtUnlock m s
  | .fwdtRead m => Sys2Proof.Machine.execFwdtRead m s
  | .fwdtReadDone m => Sys2Proof.Machine.execFwdtReadDone m s
  | .fwdtWrite m => Sys2Proof.Machine.execFwdtWrite m s
  | .fwdtWriteApply m => Sys2Proof.Machine.execFwdtWriteApply m s
  | .lockHoldReport bucket => Sys2Proof.Machine.execLockHoldReport bucket s
  | .mov id => Sys2Proof.Machine.execMov id s
  | .xchg id => Sys2Proof.Machine.execXchg id s
  | .bswap id => Sys2Proof.Machine.execBswap id s
  | .lea id => Sys2Proof.Machine.execLea id s
  | .bin2bcd id => Sys2Proof.Machine.execBin2bcd id s
  | .bcd2bin id => Sys2Proof.Machine.execBcd2bin id s
  | .add id => Sys2Proof.Machine.execAdd id s
  | .adc id => Sys2Proof.Machine.execAdc id s
  | .sub id => Sys2Proof.Machine.execSub id s
  | .sbb id => Sys2Proof.Machine.execSbb id s
  | .neg id => Sys2Proof.Machine.execNeg id s
  | .inc id => Sys2Proof.Machine.execInc id s
  | .dec id => Sys2Proof.Machine.execDec id s
  | .cmp id => Sys2Proof.Machine.execCmp id s
  | .mulu id => Sys2Proof.Machine.execMulu id s
  | .muls id => Sys2Proof.Machine.execMuls id s
  | .mulhu id => Sys2Proof.Machine.execMulhu id s
  | .mulhs id => Sys2Proof.Machine.execMulhs id s
  | .divu id => Sys2Proof.Machine.execDivu id s
  | .divs id => Sys2Proof.Machine.execDivs id s
  | .remu id => Sys2Proof.Machine.execRemu id s
  | .rems id => Sys2Proof.Machine.execRems id s
  | .minu id => Sys2Proof.Machine.execMinu id s
  | .maxu id => Sys2Proof.Machine.execMaxu id s
  | .mins id => Sys2Proof.Machine.execMins id s
  | .maxs id => Sys2Proof.Machine.execMaxs id s
  | .and id => Sys2Proof.Machine.execAnd id s
  | .or id => Sys2Proof.Machine.execOr id s
  | .xor id => Sys2Proof.Machine.execXor id s
  | .andn id => Sys2Proof.Machine.execAndn id s
  | .not id => Sys2Proof.Machine.execNot id s
  | .tst id => Sys2Proof.Machine.execTst id s
  | .shl id => Sys2Proof.Machine.execShl id s
  | .shr id => Sys2Proof.Machine.execShr id s
  | .sar id => Sys2Proof.Machine.execSar id s
  | .rol id => Sys2Proof.Machine.execRol id s
  | .ror id => Sys2Proof.Machine.execRor id s
  | .ext id => Sys2Proof.Machine.execExt id s
  | .ins id => Sys2Proof.Machine.execIns id s
  | .popc id => Sys2Proof.Machine.execPopc id s
  | .clz id => Sys2Proof.Machine.execClz id s
  | .ctz id => Sys2Proof.Machine.execCtz id s
  | .btst id => Sys2Proof.Machine.execBtst id s
  | .bset id => Sys2Proof.Machine.execBset id s
  | .bclr id => Sys2Proof.Machine.execBclr id s
  | .beq id => Sys2Proof.Machine.execBeq id s
  | .bne id => Sys2Proof.Machine.execBne id s
  | .bltu id => Sys2Proof.Machine.execBltu id s
  | .bgeu id => Sys2Proof.Machine.execBgeu id s
  | .bgtu id => Sys2Proof.Machine.execBgtu id s
  | .bleu id => Sys2Proof.Machine.execBleu id s
  | .blt id => Sys2Proof.Machine.execBlt id s
  | .bge id => Sys2Proof.Machine.execBge id s
  | .bgt id => Sys2Proof.Machine.execBgt id s
  | .ble id => Sys2Proof.Machine.execBle id s
  | .bmi id => Sys2Proof.Machine.execBmi id s
  | .bpl id => Sys2Proof.Machine.execBpl id s
  | .bvs id => Sys2Proof.Machine.execBvs id s
  | .bvc id => Sys2Proof.Machine.execBvc id s
  | .bok id => Sys2Proof.Machine.execBok id s
  | .bnok id => Sys2Proof.Machine.execBnok id s
  | .jmp id => Sys2Proof.Machine.execJmp id s
  | .call id => Sys2Proof.Machine.execCall id s
  | .ret id => Sys2Proof.Machine.execRet id s
  | .dbnz id => Sys2Proof.Machine.execDbnz id s
  | .bw id => Sys2Proof.Machine.execBw id s
  | .bnw id => Sys2Proof.Machine.execBnw id s
  | .tend id => Sys2Proof.Machine.execTend id s
  | .wfe id => Sys2Proof.Machine.execWfe id s
  | .sev id => Sys2Proof.Machine.execSev id s
  | .gallSevWrite m gallery val => Sys2Proof.Machine.execGallSevWrite m gallery val s
  | .waittD id => Sys2Proof.Machine.execWaittD id s
  | .waittC id => Sys2Proof.Machine.execWaittC id s
  | .waittDeadline id => Sys2Proof.Machine.execWaittDeadline id s
  | .evtake id => Sys2Proof.Machine.execEvtake id s
  | .chsend id => Sys2Proof.Machine.execChsend id s
  | .chsendt id => Sys2Proof.Machine.execChsendt id s
  | .chrecv id => Sys2Proof.Machine.execChrecv id s
  | .chrecvt id => Sys2Proof.Machine.execChrecvt id s
  | .movsRead id => Sys2Proof.Machine.execMovsRead id s
  | .movsWrite id => Sys2Proof.Machine.execMovsWrite id s
  | .nop id => Sys2Proof.Machine.execNop id s
  | .fence id => Sys2Proof.Machine.execFence id s
  | .yield id => Sys2Proof.Machine.execYield id s
  | .repIteration id => Sys2Proof.Machine.execRepIteration id s
  | .macroInstruction id => Sys2Proof.Machine.execMacroInstruction id s
  | .microStep id => Sys2Proof.Machine.execMicroStep id s
  | .hcmd id => Sys2Proof.Machine.execHcmd id s
  | .hcmdAccept id => Sys2Proof.Machine.execHcmdAccept id s
  | .hcmdRetryLimit id => Sys2Proof.Machine.execHcmdRetryLimit id s
  | .hwait id => Sys2Proof.Machine.execHwait id s
  | .hsave id => Sys2Proof.Machine.execHsave id s
  | .hrestore id => Sys2Proof.Machine.execHrestore id s
  | .helperCompletion job => Sys2Proof.Machine.execHelperCompletion job s
  | .thrKill who gallery val => Sys2Proof.Machine.execThrKill who gallery val s
  | .thrUnpark who gallery val => Sys2Proof.Machine.execThrUnpark who gallery val s
  | .stillnessDetect gallery domain => Sys2Proof.Machine.execStillnessDetect gallery domain s
  | .issueWatchdog gallery core => Sys2Proof.Machine.execIssueWatchdog gallery core s
  | .coreRetireRequest m gallery core => Sys2Proof.Machine.execCoreRetireRequest m gallery core s
  | .coreRetire gallery core => Sys2Proof.Machine.execCoreRetire gallery core s
  | .spareStart gallery core => Sys2Proof.Machine.execSpareStart gallery core s
  | .latchAcquire id => Sys2Proof.Machine.execLatchAcquire id s
  | .latchTry id => Sys2Proof.Machine.execLatchTry id s
  | .latchRelease id => Sys2Proof.Machine.execLatchRelease id s
  | .latchForce id => Sys2Proof.Machine.execLatchForce id s
  | .latchWaitTimeout who => Sys2Proof.Machine.execLatchWaitTimeout who s
  | .latchHoldWatchdog latch => Sys2Proof.Machine.execLatchHoldWatchdog latch s
  | .hostLatchAcquire m => Sys2Proof.Machine.execHostLatchAcquire m s
  | .hostLatchTry m => Sys2Proof.Machine.execHostLatchTry m s
  | .hostLatchRelease m => Sys2Proof.Machine.execHostLatchRelease m s
  | .hostLatchForce m => Sys2Proof.Machine.execHostLatchForce m s
  | .fAdd job => Sys2Proof.Machine.execFAdd job s
  | .fAnd job => Sys2Proof.Machine.execFAnd job s
  | .fOr job => Sys2Proof.Machine.execFOr job s
  | .fXor job => Sys2Proof.Machine.execFXor job s
  | .cas job => Sys2Proof.Machine.execCas job s
  | .binc job => Sys2Proof.Machine.execBinc job s
  | .dispDispatch gallery => Sys2Proof.Machine.execDispDispatch gallery s
  | .holdPlace pipe => Sys2Proof.Machine.execHoldPlace pipe s
  | .exceptionDeliver gallery => Sys2Proof.Machine.execExceptionDeliver gallery s
  | .dispRequeue job => Sys2Proof.Machine.execDispRequeue job s
  | .dispSubmit job => Sys2Proof.Machine.execDispSubmit job s
  | .sealSign job => Sys2Proof.Machine.execSealSign job s
  | .sealVerify job => Sys2Proof.Machine.execSealVerify job s
  | .kexGen job => Sys2Proof.Machine.execKexGen job s
  | .kexDerive job => Sys2Proof.Machine.execKexDerive job s
  | .kexRespond job => Sys2Proof.Machine.execKexRespond job s
  | .sealGenerate job => Sys2Proof.Machine.execSealGenerate job s
  | .keyImport job => Sys2Proof.Machine.execKeyImport job s
  | .sealUnwrap job => Sys2Proof.Machine.execSealUnwrap job s
  | .sealDispatch eng => Sys2Proof.Machine.execSealDispatch eng s
  | .sealJobComplete eng sound => Sys2Proof.Machine.execSealJobComplete eng sound s
  | .sealJobTimeout eng => Sys2Proof.Machine.execSealJobTimeout eng s
  | .sealKat eng pass => Sys2Proof.Machine.execSealKat eng pass s
  | .sealSpareActive eng => Sys2Proof.Machine.execSealSpareActive eng s
  | .sealEngRetireRequest m eng => Sys2Proof.Machine.execSealEngRetireRequest m eng s
  | .slotSuspend m slot => Sys2Proof.Machine.execSlotSuspend m slot s
  | .slotResume m slot => Sys2Proof.Machine.execSlotResume m slot s
  | .slotDestroy m slot => Sys2Proof.Machine.execSlotDestroy m slot s
  | .hashDigest job => Sys2Proof.Machine.execHashDigest job s
  | .hashStart job => Sys2Proof.Machine.execHashStart job s
  | .hashUpdate job => Sys2Proof.Machine.execHashUpdate job s
  | .hashFinish job => Sys2Proof.Machine.execHashFinish job s
  | .hashEngineFence eng => Sys2Proof.Machine.execHashEngineFence eng s
  | .fmtTranslate job => Sys2Proof.Machine.execFmtTranslate job s
  | .fmtValidate job => Sys2Proof.Machine.execFmtValidate job s
  | .formatDispatch eng => Sys2Proof.Machine.execFormatDispatch eng s
  | .formatJobComplete eng sound => Sys2Proof.Machine.execFormatJobComplete eng sound s
  | .formatJobTimeout eng => Sys2Proof.Machine.execFormatJobTimeout eng s
  | .formatKat eng pass => Sys2Proof.Machine.execFormatKat eng pass s
  | .formatSpareActive eng => Sys2Proof.Machine.execFormatSpareActive eng s
  | .fmteEngRetireRequest m eng => Sys2Proof.Machine.execFmteEngRetireRequest m eng s
  | .searchT src => Sys2Proof.Machine.execSearchT src s
  | .searchW src => Sys2Proof.Machine.execSearchW src s
  | .lodeWrite src => Sys2Proof.Machine.execLodeWrite src s
  | .lodeInvalidate src => Sys2Proof.Machine.execLodeInvalidate src s
  | .lodeRead src => Sys2Proof.Machine.execLodeRead src s
  | .lodeSlot => Sys2Proof.Machine.execLodeSlot s
  | .lodeWTimeout src => Sys2Proof.Machine.execLodeWTimeout src s
  | .lodeScrub row outcome => Sys2Proof.Machine.execLodeScrub row outcome s
  | .srTally src => Sys2Proof.Machine.execSrTally src s
  | .srStamp src => Sys2Proof.Machine.execSrStamp src s
  | .srTodSet src => Sys2Proof.Machine.execSrTodSet src s
  | .srCalSet src => Sys2Proof.Machine.execSrCalSet src s
  | .srCommandTimeout src => Sys2Proof.Machine.execSrCommandTimeout src s
  | .ppsEdge offset high low => Sys2Proof.Machine.execPpsEdge offset high low s
  | .referenceLoss cause => Sys2Proof.Machine.execReferenceLoss cause s
  | .referenceValid => Sys2Proof.Machine.execReferenceValid s
  | .ppsOutPulse => Sys2Proof.Machine.execPpsOutPulse s
  | .romRehash ok => Sys2Proof.Machine.execRomRehash ok s
  | .sealBreak cause => Sys2Proof.Machine.execSealBreak cause s
  | .bookAppend job => Sys2Proof.Machine.execBookAppend job s
  | .pageEnd => Sys2Proof.Machine.execPageEnd s
  | .sealBlockWritten => Sys2Proof.Machine.execSealBlockWritten s
  | .exportPage => Sys2Proof.Machine.execExportPage s
  | .bookAckWrite m val => Sys2Proof.Machine.execBookAckWrite m val s
  | .exportResend => Sys2Proof.Machine.execExportResend s
  | .inspectionRead addr words => Sys2Proof.Machine.execInspectionRead addr words s
  | .inspectionBadCommand cmd len => Sys2Proof.Machine.execInspectionBadCommand cmd len s
  | .srPowerUp newer found => Sys2Proof.Machine.execSrPowerUp newer found s
  | .srPowerLoss => Sys2Proof.Machine.execSrPowerLoss s
  | .dqsOscMeasure ch lane drift => Sys2Proof.Machine.execDqsOscMeasure ch lane drift s
  | .dramCommandIssue ch sub ns alerts => Sys2Proof.Machine.execDramCommandIssue ch sub ns alerts s
  | .dramRefresh ch rank => Sys2Proof.Machine.execDramRefresh ch rank s
  | .dramReadComplete addr reader errs => Sys2Proof.Machine.execDramReadComplete addr reader errs s
  | .dramScrubRead ch errs => Sys2Proof.Machine.execDramScrubRead ch errs s
  | .selfRefreshEnter ch => Sys2Proof.Machine.execSelfRefreshEnter ch s
  | .selfRefreshWake ch => Sys2Proof.Machine.execSelfRefreshWake ch s
  | .channelFail ch cause => Sys2Proof.Machine.execChannelFail ch cause s
  | .arbiterGrant arb clocks ns pending write ca lines => Sys2Proof.Machine.execArbiterGrant arb clocks ns pending write ca lines s
  | .arbsQry m val => Sys2Proof.Machine.execArbsQry m val s
  | .arbsQryClear m val => Sys2Proof.Machine.execArbsQryClear m val s
  | .resetAssert => Sys2Proof.Machine.execResetAssert s
  | .resetRelease => Sys2Proof.Machine.execResetRelease s
  | .imageLoadAttempt src pins sfdp img i2c eeprom => Sys2Proof.Machine.execImageLoadAttempt src pins sfdp img i2c eeprom s
  | .hostImageGo m => Sys2Proof.Machine.execHostImageGo m s
  | .hostEnrol m => Sys2Proof.Machine.execHostEnrol m s
  | .surveyEnd r => Sys2Proof.Machine.execSurveyEnd r s
  | .loadCtlCold m key => Sys2Proof.Machine.execLoadCtlCold m key s
  | .loadCtlLimp m key => Sys2Proof.Machine.execLoadCtlLimp m key s
  | .handoverGo m => Sys2Proof.Machine.execHandoverGo m s
  | .handoverCancel m => Sys2Proof.Machine.execHandoverCancel m s
  | .handoverVerifyDone read => Sys2Proof.Machine.execHandoverVerifyDone read s
  | .handoverSeal => Sys2Proof.Machine.execHandoverSeal s
  | .handoverWriteDone read => Sys2Proof.Machine.execHandoverWriteDone read s
  | .handoverFlip => Sys2Proof.Machine.execHandoverFlip s
  | .handoverDrainDone => Sys2Proof.Machine.execHandoverDrainDone s
  | .handoverWaitTimeout => Sys2Proof.Machine.execHandoverWaitTimeout s
  | .handoverRestoreDone => Sys2Proof.Machine.execHandoverRestoreDone s
  | .hostVerSelect m val => Sys2Proof.Machine.execHostVerSelect m val s
  | .mboxDownSend m => Sys2Proof.Machine.execMboxDownSend m s
  | .mboxUpPop m => Sys2Proof.Machine.execMboxUpPop m s
  | .msixDeferredSignal vec => Sys2Proof.Machine.execMsixDeferredSignal vec s
  | .hostExpAck m val => Sys2Proof.Machine.execHostExpAck m val s
  | .pcieFlr fn => Sys2Proof.Machine.execPcieFlr fn s
  | .pePerst low => Sys2Proof.Machine.execPePerst low s
  | .ropeLinkUp pos lock => Sys2Proof.Machine.execRopeLinkUp pos lock s
  | .ropeLinkDown los => Sys2Proof.Machine.execRopeLinkDown los s
  | .helloSend => Sys2Proof.Machine.execHelloSend s
  | .helloReceive payload => Sys2Proof.Machine.execHelloReceive payload s
  | .ropeNegotiate => Sys2Proof.Machine.execRopeNegotiate s
  | .helloTimeout => Sys2Proof.Machine.execHelloTimeout s
  | .ropeDataReceive head chan frame => Sys2Proof.Machine.execRopeDataReceive head chan frame s
  | .ropeReqRead m => Sys2Proof.Machine.execRopeReqRead m s
  | .ropeReqWrite m => Sys2Proof.Machine.execRopeReqWrite m s
  | .ropeReqReceive ver peer write off data => Sys2Proof.Machine.execRopeReqReceive ver peer write off data s
  | .ropeCplReceive ver mbox who code data => Sys2Proof.Machine.execRopeCplReceive ver mbox who code data s
  | .ropeReqTimeout m => Sys2Proof.Machine.execRopeReqTimeout m s
  | .ropeNotifyReceive ver kind index => Sys2Proof.Machine.execRopeNotifyReceive ver kind index s
  | .ropeDmaReceive ver kind tag addr len data => Sys2Proof.Machine.execRopeDmaReceive ver kind tag addr len data s
  | .ropeMboxSend => Sys2Proof.Machine.execRopeMboxSend s
  | .ropeMboxReceive ver serial data => Sys2Proof.Machine.execRopeMboxReceive ver serial data s
  | .ropeMirrorReceive ver kind data => Sys2Proof.Machine.execRopeMirrorReceive ver kind data s
  | .memoryError u place bad bank => Sys2Proof.Machine.execMemoryError u place bad bank s
  | .memoryScrub u errs => Sys2Proof.Machine.execMemoryScrub u errs s
  | .spareBist unit number pass => Sys2Proof.Machine.execSpareBist unit number pass s
  | .coreBist gallery core pass => Sys2Proof.Machine.execCoreBist gallery core pass s
  | .laneFence lane fault => Sys2Proof.Machine.execLaneFence lane fault s
  | .rxPolarityTry lane => Sys2Proof.Machine.execRxPolarityTry lane s
  | .txPolarityInvert lane => Sys2Proof.Machine.execTxPolarityInvert lane s
  | .gpioShort pin => Sys2Proof.Machine.execGpioShort pin s
  | .gpioFaultClear m val => Sys2Proof.Machine.execGpioFaultClear m val s
  | .xtempFault x fault => Sys2Proof.Machine.execXtempFault x fault s
  | .sensorSample temps sr => Sys2Proof.Machine.execSensorSample temps sr s
  | .thermalLevelDrop => Sys2Proof.Machine.execThermalLevelDrop s
  | .eyeMarginCheck lane height => Sys2Proof.Machine.execEyeMarginCheck lane height s
  | .railRamp rail within => Sys2Proof.Machine.execRailRamp rail within s
  | .railMonitorTrip rail => Sys2Proof.Machine.execRailMonitorTrip rail s
  | .jtagExtest => Sys2Proof.Machine.execJtagExtest s
  | .jtagSamplePreload => Sys2Proof.Machine.execJtagSamplePreload s
  | .jtagIdcode => Sys2Proof.Machine.execJtagIdcode s
  | .jtagClamp => Sys2Proof.Machine.execJtagClamp s
  | .jtagHighz => Sys2Proof.Machine.execJtagHighz s
  | .jtagExtestPulse => Sys2Proof.Machine.execJtagExtestPulse s
  | .jtagExtestTrain => Sys2Proof.Machine.execJtagExtestTrain s
  | .jtagBypass code => Sys2Proof.Machine.execJtagBypass code s
  | .jtagTestLogicReset => Sys2Proof.Machine.execJtagTestLogicReset s
  | .dbgHalt m => Sys2Proof.Machine.execDbgHalt m s
  | .dbgResume m => Sys2Proof.Machine.execDbgResume m s
  | .dbgStep m => Sys2Proof.Machine.execDbgStep m s
  | .hostReadCompletion tag outcome data => Sys2Proof.Machine.execHostReadCompletion tag outcome data s
  | .hostReadTimeout tag => Sys2Proof.Machine.execHostReadTimeout tag s

end Sys2Proof.Machine
end

