-- ==== Sys2Proof/Safety.lean ====
section
/-! DEFINITION. What claims about the device are stated in: the invariant of the captured views, canonical memories, and when a
thread issues an instruction. -/

namespace Sys2Proof.Machine

/-- The state whose device is `d`, with the captured views and the queue of `s`: what a command that changes the device only
leads to. -/
abbrev State.withDev (s : State) (d : Dev) : State := { s with dev := d }

/-- The canonical form of a memory whose unlisted bytes read as 0. -/
def Memory.wf (m : Map Byte) : Bool := spWf 0 m

/-- Every memory of the device that is a byte array has its canonical form: DRAM, table SRAM, common memories with their load
copies, the loader-written tables, every thread's shelf; and the cells list each byte once. -/
def Dev.memoriesWf (d : Dev) : Bool :=
  Memory.wf d.dmem.bytes && Memory.wf d.cores.sram && Memory.wf d.cores.common && Memory.wf d.cores.loadCopy
    && Memory.wf d.cores.tabA && Memory.wf d.cores.tabB && d.cores.threads.all (fun e => Memory.wf e.2.mem)
    && spSorted d.lard.bytes

/-- The captured views (R59 to R61): at most one for each of the four buffers, listed by buffer, and none holds what the device
has sent out. -/
def State.viewsOk (s : State) : Bool := spSorted s.copies && s.copies.all (fun e => e.1 < 4 && e.2.out.isEmpty)

/-! ## When a thread issues -/

/-- Thread `id` issues instruction `i` (R177): the device is in service, the thread READY with no macro under way, and the bytes
at its PC decode to `i`, which no REP repeats. -/
def Dev.issues (d : Dev) (id : Tid) (i : Dec) : Prop :=
  d.serving = true ∧ (d.thr id).state = .ready ∧ (d.thr id).macroRun = none ∧ d.decodeAt id = .ok i ∧ i.rep = none

/-- The device on which thread `id` evaluates the operands of `i`: its domain has issued, and the clocks that it reads have
moved on. -/
def Dev.atIssue (d : Dev) (id : Tid) (i : Dec) : Dev := (d.unstill id).clockPass i.op i.ops

/-- Thread `id` issues `i` on device `e`, where a free value that an operand took is used up; its operands evaluate without a
fault to `evs` and leave the base registers `b`. -/
def Dev.issuesOn (d : Dev) (id : Tid) (i : Dec) (e : Dev) (evs : List Ev1) (b : Map Word) : Prop :=
  d.issues id i ∧ e = (d.atIssue id i).leaPass i.op i.ops ∧ (d.atIssue id i).operandsOf id i.op [] i.ops = .ok (evs, b)

/-- The thread is within a repeated instruction at its PC (R220). -/
def Dev.repAtPc (d : Dev) (id : Tid) : Bool := (d.thr id).repAt = some (d.thr id).pc.toNat

/-- Command `n` is the block `j`, and unit `unit` may take it now (R286). -/
def Dev.takes (d : Dev) (n : Nat) (j : Job) (unit : Nat) : Bool :=
  d.serving && d.job n = some j && j.phase = .queued && j.unit = unit && d.mayTakeJob n j

/-! ## Rows of one shape -/

/-- The Larder's commands: the row, its op, its operation (R102). -/
def larderRows : List ((Who → Instr) × Nat × LardOp) :=
  [(.larderAlloc, 0, Dev.lardAlloc), (.larderFree, 1, Dev.lardFree), (.larderTransfer, 2, Dev.lardTransfer),
   (.larderJoin, 3, Dev.lardJoin), (.larderRelease, 4, Dev.lardRelease), (.larderReclaim, 5, Dev.lardReclaim)]

/-- The SESS commands: the row and its op (R146). -/
def sessRows : List ((Who → Instr) × Nat) :=
  [(.sessOpen, 0), (.sessInstallKeys, 1), (.sessKeyUpdate, 2), (.sessClose, 3), (.sessAbort, 4)]

/-- The commands of FWDT_DMA_GO: the row and its op (R166). -/
def fwdRows : List ((Nat → Instr) × Nat) := [(.fwdtRead, 0), (.fwdtWrite, 1), (.fwdtLock, 2), (.fwdtUnlock, 3)]

/-- The instructions of groups 0x00 to 0x6F: the row, its opcode, its computation. -/
def aluRows : List ((Tid → Instr) × Nat × Alu) :=
  [(.mov, 0x01, aluMov), (.xchg, 0x02, aluXchg), (.bswap, 0x03, aluBswap), (.lea, 0x04, aluLea),
   (.bin2bcd, 0x08, aluBin2bcd), (.bcd2bin, 0x09, aluBcd2bin), (.add, 0x20, aluAdd), (.adc, 0x21, aluAdc),
   (.sub, 0x22, aluSub), (.sbb, 0x23, aluSbb), (.neg, 0x24, aluNeg), (.inc, 0x25, aluInc), (.dec, 0x26, aluDec),
   (.cmp, 0x27, aluCmp), (.mulu, 0x28, aluMulu), (.muls, 0x29, aluMuls), (.mulhu, 0x2A, aluMulhu),
   (.mulhs, 0x2B, aluMulhs), (.divu, 0x2C, aluDivu), (.divs, 0x2D, aluDivs), (.remu, 0x2E, aluRemu),
   (.rems, 0x2F, aluRems), (.minu, 0x30, aluMinu), (.maxu, 0x31, aluMaxu), (.mins, 0x32, aluMins),
   (.maxs, 0x33, aluMaxs), (.and, 0x50, aluAnd), (.or, 0x51, aluOr), (.xor, 0x52, aluXor), (.andn, 0x53, aluAndn),
   (.not, 0x54, aluNot), (.tst, 0x55, aluTst), (.shl, 0x58, aluShl), (.shr, 0x59, aluShr), (.sar, 0x5A, aluSar),
   (.rol, 0x5B, aluRol), (.ror, 0x5C, aluRor), (.ext, 0x60, aluExt), (.ins, 0x61, aluIns), (.popc, 0x62, aluPopc),
   (.clz, 0x63, aluClz), (.ctz, 0x64, aluCtz), (.btst, 0x65, aluBtst), (.bset, 0x66, aluBset), (.bclr, 0x67, aluBclr)]

/-- The branches that write nothing: the row, its opcode, the condition of FLAGS (R241). -/
def branchRows : List ((Tid → Instr) × Nat × (Word → Bool)) :=
  [(.beq, 0x70, branchCond 0), (.bne, 0x71, branchCond 1), (.bltu, 0x72, branchCond 2), (.bgeu, 0x73, branchCond 3),
   (.bgtu, 0x74, branchCond 4), (.bleu, 0x75, branchCond 5), (.blt, 0x76, branchCond 6), (.bge, 0x77, branchCond 7),
   (.bgt, 0x78, branchCond 8), (.ble, 0x79, branchCond 9), (.bmi, 0x7A, branchCond 10), (.bpl, 0x7B, branchCond 11),
   (.bvs, 0x7C, branchCond 12), (.bvc, 0x7D, branchCond 13), (.bok, 0x7E, branchCond 14), (.bnok, 0x7F, branchCond 15),
   (.jmp, 0x80, fun _ => true), (.bw, 0x84, flagW), (.bnw, 0x85, fun f => !flagW f)]

/-- The operations of the atomic unit: the row and its op (R279). -/
def atomRows : List ((Nat → Instr) × Nat) :=
  [(.fAdd, 0), (.fAnd, 1), (.fOr, 2), (.fXor, 3), (.cas, 4), (.binc, 5)]

/-- The seal commands: the row and its op (R313). -/
def sealRows : List ((Nat → Instr) × Nat) :=
  [(.sealSign, 0), (.sealVerify, 1), (.kexGen, 2), (.kexDerive, 3), (.kexRespond, 4), (.sealGenerate, 5), (.keyImport, 6),
   (.sealUnwrap, 7)]

/-- The commands of SEAL_SLOT_CTL: the row and its op (R312). -/
def slotRows : List ((Nat → Nat → Instr) × Nat) := [(.slotSuspend, 0), (.slotResume, 1), (.slotDestroy, 2)]

/-- The hash commands: the row and its op (R325). -/
def hashRows : List ((Nat → Instr) × Nat) := [(.hashDigest, 0), (.hashStart, 1), (.hashUpdate, 2), (.hashFinish, 3)]

/-- The Lode's commands: the row and its op (R355). -/
def lodeRows : List ((Src → Instr) × Nat) :=
  [(.searchT, 0), (.searchW, 1), (.lodeWrite, 2), (.lodeInvalidate, 3), (.lodeRead, 4)]

/-- The Strongroom's commands: the row and its op (R374). -/
def srRows : List ((Src → Instr) × Nat) := [(.srTally, 0), (.srStamp, 1), (.srTodSet, 2), (.srCalSet, 3)]

/-- The commands that reach the Strongroom (R360, R374): its own commands, its reference, power, seal and inspection. -/
def reachesStrongroom : Instr → Bool
  | .srTally _ | .srStamp _ | .srTodSet _ | .srCalSet _ | .srCommandTimeout _ => true
  | .ppsEdge _ _ _ | .referenceLoss _ | .referenceValid | .ppsOutPulse => true
  | .romRehash _ | .sealBreak _ | .inspectionRead _ _ | .inspectionBadCommand _ _ => true
  | .srPowerUp _ _ | .srPowerLoss => true
  | _ => false

/-! ## Where an instruction stores -/

/-- A byte that a thread can store to: of its local memory, of the cells (128 × index + offset), of table SRAM or DRAM. -/
inductive Place
  | loc (a : Nat)
  | cell (a : Nat)
  | mem (dram : Bool) (a : Nat)
  deriving DecidableEq, Repr

/-- A write of `n` bytes to an operand at `l` stores to `p`. -/
def Dev.stores (d : Dev) (id : Tid) (n : Nat) (l : Loc) (p : Place) : Bool :=
  match l, p with
  | .mem x, .loc a => x ≤ a && a < x + n
  | .window h len off, .cell a => match d.windowCells id h len off n with
    | .ok cs => (List.range n).any (fun i =>
        a = 128 * cs.getD ((off % 128 + i) / 128) 0 + (off % 128 + i) % 128)
    | .error _ => false
  | .table t idx off, .mem dram a =>
    let e := d.tabEnt (d.thrGen id) t
    e.dram = dram && e.place idx off ≤ a && a < e.place idx off + n
  | _, _ => false

/-- The results of an instruction, written in order, store to `p`: each is placed as the device stands when it is
written. -/
def Dev.storesAny (d : Dev) (id : Tid) (i : Dec) (evs : List Ev1) (p : Place) : List (Nat × Nat) → Bool
  | [] => false
  | (k, v) :: rest => match evs[k]? with
    | some e => d.stores id (sizeBytes e.o.size) e.loc p
        || (d.putOp id i.op i.width (classOf i.op) e v).storesAny id i evs p rest
    | none => d.storesAny id i evs p rest

/-- Flags `g` have the given z, n, c and v, and every other bit of `f` (R207). -/
def flagsAre (f g : Word) (z n c v : Bool) : Prop :=
  flagZ g = z ∧ flagN g = n ∧ flagC g = c ∧ flagV g = v ∧ g.toNat / 16 = f.toNat / 16

end Sys2Proof.Machine
end

