-- ==== Sys2Proof/Certificates/Slice0/Obligations.lean ====
section
/-! DEFINITION. The statements for the provers. -/

open Sys2Proof Sys2Proof.Machine

/-! ## The machine as a whole -/

/-- A step runs the command at the front of the queue on the state with the queue's rest; with an empty queue the block idles
(assumption 1). -/
def Obligations.FrontCommandRuns : Prop :=
  (∀ (s : State) (c : Instr) (rest : List Instr), s.pending = c :: rest → step s = exec c { s with pending := rest })
  ∧ (∀ s : State, s.pending = [] → step s = .next s)

/-- Every step answers a next state, whatever the state and the command, and takes one command off the queue and adds none. That
every command answers a next state is the model's choice of assumption 17, and that an empty queue idles that of assumption 1;
of it the spec (file 95) says only that each step is whole and indivisible. -/
def Obligations.EveryStepAnswers : Prop :=
  ∀ s : State, ∃ t, step s = .next t ∧ t.pending = s.pending.tail

/-- Every step keeps the captured views in order: at most one for each of the four buffers (R59), none with what the device has
sent out. -/
def Obligations.StepKeepsViewsOk : Prop :=
  ∀ s t : State, s.viewsOk = true → step s = .next t → t.viewsOk = true

/-! ## Registers (R7, R8, R29, R42, R58, R388) -/

/-- CSR_WRITE of a register without an action of its own, by a master with a path to the window, that enables all four bytes.
One to a closed block is refused with NOT_OWNER (R12, R430); one to an address that no register has, or to a register without a
writable field, is a reserved write (R9); a master outside the owner set is refused with NOT_OWNER, and the write changes
nothing else (R55, R521); one that sets a reserved bit is a reserved write (R9). Any other takes its effect: RW fields hold the
value at once (R58), in the master's own copy where the register has one for each master; each 1 of a W1C field clears its bit;
ST fields hold the write until the drip ends (R42); a register with several of these does all of them, and no other register and
no bank changes. CSR_WRITE that does not enable all four bytes writes nothing; in an open block it is a reserved write (R9,
R515). A reserved write is counted in GCTL_RSVD_WR with its place and master (R516), and a refused one in its master's
DRIP_WFAIL with its code and place (R521). Beside the rules, it follows the model's choices of assumption 18. -/
def Obligations.CsrWrites : Prop :=
  ((∀ (s : State) (m addr val : Nat),
      writer m = true → addr % 4 = 0 → addr < 0x8000000 → val < 2 ^ 32 → s.dev.noPath m = false →
      s.dev.actionLow m addr val = none → s.dev.actionHigh m addr val = none →
      (s.dev.blockOpen addr = false →
        exec (.csrWrite m addr val 15) s = .next (s.withDev (s.dev.refuse m addr Code.notOwner)))
      ∧ (s.dev.blockOpen addr = true →
        (regAt addr = none → exec (.csrWrite m addr val 15) s = .next (s.withDev (s.dev.reservedCsr m addr)))
        ∧ (∀ r, regAt addr = some r →
          (r.maskOf writable = 0 → (r.base ≠ R.parsPRsvd ∨ val ≠ 0) →
            exec (.csrWrite m addr val 15) s = .next (s.withDev (s.dev.reservedCsr m addr)))
          ∧ (r.maskOf writable ≠ 0 → s.dev.mayWrite r m addr = false →
            exec (.csrWrite m addr val 15) s = .next (s.withDev (s.dev.refuse m addr Code.notOwner)))
          ∧ (r.maskOf writable ≠ 0 → s.dev.mayWrite r m addr = true → s.dev.hostHidden addr = false →
            (w32 val &&& ~~~(r.maskOf writable) ≠ 0 →
              exec (.csrWrite m addr val 15) s = .next (s.withDev (s.dev.reservedCsr m addr)))
            ∧ (w32 val &&& ~~~(r.maskOf writable) = 0 →
              let rw := r.maskOf (fun a => a == .rw || a == .wo)
              let w1c := r.maskOf (fun a => a == .w1c)
              let st := r.maskOf (fun a => a == .st)
              ∃ t, exec (.csrWrite m addr val 15) s = .next t
                ∧ (r.perMaster = false → addr ≠ R.hostExpStat →
                  t.dev.io addr = ((if rw = 0 then w32 (s.dev.io addr) else w32 (merge (w32 (s.dev.io addr)) rw (w32 val)))
                    &&& ~~~(w32 val &&& w1c)).toNat
                  ∧ t.dev.csr.per = s.dev.csr.per)
                ∧ (r.perMaster = true → rw ≠ 0 → t.dev.per m addr = merge (w32 (s.dev.per m addr)) rw (w32 val)
                  ∧ ∀ n b, perKey n b ≠ perKey m addr → t.dev.per n b = s.dev.per n b)
                ∧ t.dev.drip.writes = s.dev.drip.writes ++ (if st = 0 then [] else [⟨m, .reg addr, [w32 val &&& st]⟩])
                ∧ (∀ b, b ≠ addr → b ≠ R.hostExpStat → t.dev.io b = s.dev.io b)
                ∧ t.dev.csr.bankA = s.dev.csr.bankA ∧ t.dev.csr.bankB = s.dev.csr.bankB ∧ t.dev.csr.groups = s.dev.csr.groups)))))
    ∧ (∀ (d : Dev) (r : RegDef) (m addr : Nat), (groupOf addr).getD 0 ≠ 2 → r.ownedFrom = none → r.masters = [] →
      r.perMaster = false → r.maskOf owned ≠ 0 →
      d.mayWrite r m addr = bitOf (d.io (R.dripOwn + 4 * (groupOf addr).getD 0)) m))
  ∧ ((∀ (s : State) (m addr val be : Nat),
      writer m = true → addr % 4 = 0 → addr < 2 ^ 28 → val < 2 ^ 32 → s.dev.noPath m = false → be % 16 ≠ 15 →
      exec (.csrWrite m addr val be) s = .next (s.withDev
        (if s.dev.blockOpen addr then (s.dev.reservedCsr m addr).lastWrite m addr Code.reserved
         else s.dev.refuse m addr Code.notOwner)))
    ∧ (∀ (d : Dev) (m addr code : Nat),
      d.reservedCsr m addr = ((d.bump R.gctlRsvdWr).setIo R.gctlRsvdLast addr).setIo R.gctlRsvdWho m
      ∧ d.refuse m addr code = (d.setIo (R.dripWfail + 8 * m)
          (code + Nat.min (bits (d.io (R.dripWfail + 8 * m)) 31 8 + 1) 0xFFFFFF * 2 ^ 8)).setIo (R.dripWfadr + 8 * m) addr))

/-- The reads with a side effect: an RC counter answers its value and its RC bits are cleared (R8), DRIP_NOW_LO answers the low
bits of the drip number and latches the high ones for that master (R29), STRG_TIME_LO answers and latches the Strongroom's time,
which has moved on within the drip (R388). Beside the rules, it follows the model's choices of assumption 2. -/
def Obligations.LatchingReads : Prop :=
  ∀ (s : State) (m : Nat), reader m = true → s.dev.noPath m = false →
    (∀ addr r, addr % 4 = 0 → addr < 0xF000000 → regAt addr = some r → r.maskOf (fun a => a == .rc) ≠ 0 →
      addr ∉ [R.ltchHostAcq, R.ltchHostTry, R.hlthGpioIn, R.dripNowLo] → s.dev.blockOpen addr = true →
      s.dev.hostHidden addr = false →
      exec (.counterReadClear m addr) s = .next (s.withDev
        ((s.dev.answer m (s.dev.regValue m addr false)).setIo addr
          (w32 (s.dev.io addr) &&& ~~~(r.maskOf (fun a => a == .rc))).toNat)))
    ∧ (s.dev.serving = true → ∃ t, exec (.dripNowRead m) s = .next t
        ∧ t.dev.csr.rdata = spSet 0 s.dev.csr.rdata m (w32 s.dev.drip.now)
        ∧ t.dev.csr.per = spSet (resetWord R.dripNowHi) s.dev.csr.per (perKey m R.dripNowHi) (w32 (s.dev.drip.now / 2 ^ 32))
        ∧ t.dev.drip = s.dev.drip)
    ∧ exec (.strgTimeRead m) s = .next (s.withDev
        ((s.dev.strongPass.answer m (s.dev.strongPass.strgValue 0x30)).onStrong (fun x =>
          { x with timeLatch := spSet 0 x.timeLatch m (w32 (s.dev.strongPass.strgValue 0x34)) })))

/-! ## Commits, banks and views (chapter 02) -/

/-- Writes of the slot registers by a master in the owner set of DRIP: a write to a FREE slot claims it (R45), one of its holder
to an OPEN slot updates it, arm moves an OPEN slot to ARMED, and release of an OPEN or DONE slot returns every register of the
slot to its reset value (R46); every other write of arm or release by its holder is refused with RESERVED. A write of a slot
register by a master that does not hold the slot changes no slot and is recorded with NOT_HOLDER (R45, R46, R521). Beside the
rules, it follows the model's choices of assumption 18. -/
def Obligations.CommitSlotWrites : Prop :=
  (∀ (s : State) (m n : Nat), n < 16 → s.dev.noPath m = false → s.dev.owns m 1 = true → s.dev.serving = true →
      (∀ reg val, reg < 3 → val < 2 ^ (if reg = 2 then 28 else 32) → (s.dev.slot n).state = .free →
        exec (.commitSlotClaim m n reg val) s = .next (s.withDev
          (s.dev.setSlot n { Slot.init.put reg val with state := .opened, holder := m })))
      ∧ (∀ reg val, reg < 3 → val < 2 ^ (if reg = 2 then 28 else 32) → (s.dev.slot n).state = .opened →
        (s.dev.slot n).holder = m →
        exec (.commitSlotClaim m n reg val) s = .next (s.withDev (s.dev.setSlot n ((s.dev.slot n).put reg val))))
      ∧ ((s.dev.slot n).holder = m → (s.dev.slot n).state ≠ .free →
        exec (.commitArm m n) s = .next (s.withDev
          (if (s.dev.slot n).state = .opened then
             s.dev.setSlot n { s.dev.slot n with state := .armed, armDrip := s.dev.drip.now }
           else s.dev.refuse m (csOff n 3) Code.reserved))
        ∧ exec (.commitSlotRelease m n) s = .next (s.withDev
          (if (s.dev.slot n).state = .opened ∨ (s.dev.slot n).state = .done then s.dev.setSlot n Slot.init
           else s.dev.refuse m (csOff n 3) Code.reserved))))
  ∧ (∀ (s : State) (m n : Nat), n < 16 → s.dev.noPath m = false → s.dev.owns m 1 = true → s.dev.serving = true →
      (s.dev.slot n).holder ≠ m → (s.dev.slot n).state ≠ .free →
      (∀ reg val, reg < 3 → val < 2 ^ (if reg = 2 then 28 else 32) →
        exec (.commitSlotClaim m n reg val) s = .next (s.withDev (s.dev.refuse m (csOff n reg) Code.notHolder)))
      ∧ exec (.commitArm m n) s = .next (s.withDev (s.dev.refuse m (csOff n 3) Code.notHolder))
      ∧ exec (.commitSlotRelease m n) s = .next (s.withDev (s.dev.refuse m (csOff n 3) Code.notHolder)))

/-- What commits do at a boundary. COMMIT_SEAL: at T − 1 an ARMED commit whose arm check has passed seals (R47, R49).
COMMIT_FLIP of a commit sealed for T, and COMMIT_WAIT_FLIP of one whose last bank became STAGED at an earlier boundary, alone at
its boundary: with an empty mask it ends with OK and no group changes (R48); content that fails ends it with RESERVED_VALUE, the
detail and place of the first failure (R49, R50); with every named group STAGED and the generations in flight below 16 its
groups flip to the next generation and it ends with OK (R37, R38, R50, R51); else a sealed one waits with COMMIT_WAIT (R50).
COMMIT_WAIT_TIMEOUT ends a wait that reached its limit with TIMEOUT (R51). COMMIT_WAIT_REPORT makes the record of a commit that
still waits at T plus a multiple of 4,096 drips, with the banks it misses (R51). Beside the rules, it follows the model's
choices of assumptions 21 and 60. -/
def Obligations.CommitBoundaries : Prop :=
  ∀ (s : State) (n : Nat), n < 16 → s.dev.serving = true →
    let v := s.dev.slot n
    (v.state = .armed → v.armDrip < s.dev.drip.now → v.target = s.dev.drip.now + 1 →
      exec (.commitSeal n) s = .next (s.withDev (s.dev.setSlot n { v with state := .sealed, sealDrip := s.dev.drip.now })))
    ∧ (∀ row : Instr, (row = .commitFlip n ∧ v.state = .sealed ∧ v.target = s.dev.drip.now)
        ∨ (row = .commitWaitFlip n ∧ s.dev.waitReady v = true) →
      s.dev.turnNow = [n] → v.hostReset = false →
      let bad := firstBad (s.dev.failuresOf [n]) v.mask
      ∃ t, exec row s = .next t ∧ t.pending = s.pending ∧ t.copies = s.copies
        ∧ (v.mask = 0 → t.dev.slot n = { v with state := .done, code := Code.ok, detail := 0, gen := 0, loc := 0 }
          ∧ t.dev.csr.groups = s.dev.csr.groups ∧ t.dev.csr.bankA = s.dev.csr.bankA ∧ t.dev.csr.bankB = s.dev.csr.bankB)
        ∧ (∀ b, v.mask ≠ 0 → bad = some b →
          t.dev.slot n = { v with
            state := .done, code := Code.reserved, detail := b.detail, gen := 0, loc := b.place % 2 ^ 28 }
          ∧ ∀ g, (t.dev.group g).liveB = (s.dev.group g).liveB ∧ (t.dev.group g).genLive = (s.dev.group g).genLive)
        ∧ (v.mask ≠ 0 → bad = none → s.dev.allStaged v.mask = true → s.dev.flipAllowed = true →
          t.dev.slot n = { v with
            state := .done, code := Code.ok, detail := 0, gen := nextGen s.dev.drip.gen, loc := 0 }
          ∧ t.dev.drip.gen = nextGen s.dev.drip.gen
          ∧ (∀ g ∈ groupBits, bitOf v.mask g = true →
            (t.dev.group g).liveB = !(s.dev.group g).liveB ∧ (t.dev.group g).genLive = nextGen s.dev.drip.gen
            ∧ (t.dev.group g).other = .trailing ∧ (t.dev.group g).genOther = (s.dev.group g).genLive)
          ∧ ∀ g, bitOf v.mask g = false →
            (t.dev.group g).liveB = (s.dev.group g).liveB ∧ (t.dev.group g).genLive = (s.dev.group g).genLive)
        ∧ (v.mask ≠ 0 → bad = none → v.state = .sealed → ¬(s.dev.allStaged v.mask = true ∧ s.dev.flipAllowed = true) →
          t.dev.slot n = { v with
            state := .waiting, code := Code.commitWait, readyDrip := if s.dev.allStaged v.mask then some s.dev.drip.now else none }
          ∧ t.dev.csr.groups = s.dev.csr.groups ∧ t.dev.drip.gen = s.dev.drip.gen))
    ∧ (v.state = .waiting → (s.dev.waitReady v = false ∨ s.dev.flipAllowed = false) →
      v.target + 256 * 2 ^ v.waitLimit ≤ s.dev.drip.now → v.hostReset = false →
      ∃ t, exec (.commitWaitTimeout n) s = .next t ∧ t.dev.slot n = { v with
          state := .done, code := Code.timeout, detail := 0, gen := 0, loc := 0 }
        ∧ ∀ g, (t.dev.group g).liveB = (s.dev.group g).liveB ∧ (t.dev.group g).genLive = (s.dev.group g).genLive)
    ∧ (∀ k, v.state = .waiting → (s.dev.waitReady v = false ∨ s.dev.flipAllowed = false) → 0 < k →
      s.dev.drip.now = v.target + 4096 * k → s.dev.drip.now < v.target + 256 * 2 ^ v.waitLimit →
      v.reportDrip ≠ some s.dev.drip.now →
      exec (.commitWaitReport n) s = .next (s.withDev
        ((s.dev.setSlot n { v with reportDrip := some s.dev.drip.now }).incident 1 Code.commitWait (actorMaster v.holder) n
          (s.dev.missingBanks v.mask))))

/-- A flip: the STAGED bank of every named group becomes LIVE with the next generation, the LIVE bank becomes TRAILING and keeps
its own (R37, R38). The banks after a flip (R37): a TRAILING bank that no packet in flight and no thread uses becomes CATCHUP,
and a CATCHUP bank whose written lines have been copied becomes STAGED, equal to LIVE in them where no queued write waits for
the group. Beside the rules, it follows the model's choices of assumption 22. -/
def Obligations.BankProgress : Prop :=
  (∀ (d : Dev) (gen g : Nat),
      ((d.flipGroup gen g).group g).liveB = !(d.group g).liveB
      ∧ ((d.flipGroup gen g).group g).genLive = gen
      ∧ ((d.flipGroup gen g).group g).genOther = (d.group g).genLive
      ∧ ((d.flipGroup gen g).group g).other = .trailing
      ∧ (∀ h, h ≠ g → (d.flipGroup gen g).group h = d.group h)
      ∧ (d.flipGroup gen g).csr.bankA = d.csr.bankA ∧ (d.flipGroup gen g).csr.bankB = d.csr.bankB)
  ∧ (∀ (s : State) (g : Nat), s.dev.serving = true → g ∈ groupBits →
      ((s.dev.group g).other = .trailing → s.dev.drained g = true →
        exec (.bankCatchup g) s = .next (s.withDev
          (s.dev.setGroup g { s.dev.group g with other := .catchup, catchupDrip := s.dev.drip.now })))
      ∧ ((s.dev.group g).other = .catchup →
        (s.dev.group g).catchupDrip + copyDrips ((s.dev.group g).lines g) ≤ s.dev.drip.now →
        ∃ t, exec (.bankStaged g) s = .next t ∧ (t.dev.group g).other = .staged
          ∧ (t.dev.group g).liveB = (s.dev.group g).liveB ∧ (t.dev.group g).genLive = (s.dev.group g).genLive
          ∧ ((∀ q ∈ s.dev.drip.queue, q.group ≠ g) → ∀ k, groupOfKey k = g →
            ((s.dev.group g).whole || spGet false (s.dev.group g).dirty (k / 64)) = true →
            t.dev.bankWord (!(s.dev.group g).liveB) k = s.dev.bankWord (s.dev.group g).liveB k)))

/-- The generation counter (R38): the next value skips 0, and of two values less than 2^31 apart the earlier precedes the later
and not the other way round. -/
def Obligations.GenerationOrder : Prop :=
  (∀ g, g < 2 ^ 32 → nextGen g ≠ 0 ∧ nextGen g < 2 ^ 32 ∧ nextGen g = if g = 2 ^ 32 - 1 then 1 else g + 1)
  ∧ (∀ a k, a < 2 ^ 32 → 1 ≤ k → k ≤ 2 ^ 31 - 1 →
      serialBefore a ((a + k) % 2 ^ 32) = true ∧ serialBefore ((a + k) % 2 ^ 32) a = false)

/-- View buffers (R59, R61): a request of a master in the owner set of DRIP for a FREE buffer, or a READY one that it holds,
sets the capture 1 + delay boundaries ahead; a release by the holder frees the buffer; at its boundary the buffer keeps the
device as it stands and becomes READY. Nothing but its own VIEW_CAPTURE changes what a view buffer has captured. The rules say
so of a buffer that is READY (R59, R60); that the copy also stays, unreadable, through a release and through Cold mode is the
model's choice of assumption 24. Beside the rules, it follows the model's choices of assumptions 24 and 49. -/
def Obligations.ViewBuffers : Prop :=
  (∀ (s : State) (m v : Nat), v < 4 → s.dev.serving = true →
      (s.dev.owns m 1 = true → s.dev.noPath m = false →
        (∀ delay, delay < 256 → (s.dev.view v).state = .free ∨ ((s.dev.view v).state = .ready ∧ (s.dev.view v).holder = m) →
          exec (.viewRequest m v delay) s = .next (s.withDev
            (s.dev.setView v ⟨.pending, m, s.dev.drip.now + 1 + delay⟩)))
        ∧ ((s.dev.view v).state ≠ .free → (s.dev.view v).holder = m →
          exec (.viewRelease m v) s = .next (s.withDev (s.dev.setView v ViewBuf.init))))
      ∧ ((s.dev.view v).state = .pending → (s.dev.view v).drip = s.dev.drip.now →
        ∃ t, exec (.viewCapture v) s = .next t ∧ t.dev = s.dev.viewReady v
          ∧ spFind t.copies v = some { s.dev with out := [] } ∧ t.pending = s.pending))
  ∧ (∀ (c : Instr) (s t : State) (v : Nat), c ≠ .viewCapture v → exec c s = .next t → spFind t.copies v = spFind s.copies v)

/-! ## Ingress (chapter 03) -/

/-- FRAME_RECEIVE in service on a line MAC with a link (R64 to R69): a frame that is no MAC Control frame, and that the MACsec
stage passes on as `g`, takes cells of its bay's pool, is written into them and waits for an ingress slot of its pipe; without a
bay, or without cells, it is dropped and counted. A MAC Control frame other than PFC is discarded and counted (R68).
PACKET_ADMIT (R29, R32, R39, R69): with a slot left and no recirculated packet waiting, the oldest frame of the next MAC of the
round takes a slot, becomes a packet with the drip's tag and the current generation, keeps that generation in flight, and passes
the parser and the classifier. RECIRC_ADMIT (R148): a recirculated packet takes a slot and re-enters its pipe as its next pass.
FRAG_ENTRY_EXPIRE (R90, R91): an entry 512 drips old becomes FREE; the fragments it holds go to the slow path in order. What the
parser, the classifier and MACsec compute. A field that ends beyond byte 255 is WINDOW, one that ends beyond the data TRUNCATED,
and any other is read most significant bit first (R74, R77). The lowest valid edge that matches gives the target, else the
default edge (R75). 0x800 ends a pass with ACCEPT, 0xC00 with REJECT, a 33rd passage with HOP_LIMIT, and any other target is the
next passage (R70, R72, R77). Of the valid rows that match a key the one with the lowest number wins (R80), and DROP, DIRECT,
TASK and EXCEPTION end as R83 says. A packet that is no fragment goes the way its pass ends (R77, R83). MACsec passes every
frame where it is off, and EAPOL frames; a frame without a SecTAG is dropped under Strict and passed under Check; one whose SA
is missing is counted so; one that opens is delivered without tag and ICV (R122, R124). Beside the rules, it follows the model's
choices of assumptions 7, 14, 25, 40, 50 and 53. -/
def Obligations.IngressStages : Prop :=
  (∀ (s : State) (mac : Nat) (f : Bytes), s.dev.serving = true → mac < 64 → s.dev.linkUp mac = true →
      (14 ≤ f.length → beAt f 12 2 = 0x8808 → (34 ≤ f.length → beAt f 14 2 ≠ 0x0101) →
        exec (.frameReceive mac f) s = .next (s.withDev (s.dev.bump (R.portCnt + 16))))
      ∧ (∀ g d, ¬(14 ≤ f.length ∧ beAt f 12 2 = 0x8808) → s.dev.strongPass.validateFrame mac f = (some g, d) → g ≠ [] →
        (d.frameBay mac g = none → exec (.frameReceive mac f) s = .next (s.withDev (d.bump R.portCnt)))
        ∧ (∀ b, d.frameBay mac g = some b →
          (∀ e, d.takeFrame (pipeTag (d.macPipe mac)) (d.liveFld (R.portBay1 + 8 * b) 24 20)
              (cellsFor (Nat.min g.length 10240)) Chain.null = (none, e) →
            exec (.frameReceive mac f) s = .next (s.withDev (e.bump (R.portCnt + 12))))
          ∧ (∀ c e, g.length ≤ 10240 → d.takeFrame (pipeTag (d.macPipe mac)) (d.liveFld (R.portBay1 + 8 * b) 24 20)
              (cellsFor g.length) Chain.null = (some c, e) →
            exec (.frameReceive mac f) s = .next (s.withDev ((e.chainWrite c 0 g).onIngr (fun i =>
              { i with queue := i.queue ++ [⟨mac, b, c, g.length, s.dev.strongPass.rxStamp mac⟩] })))))))
  ∧ ((∀ (s : State) (pipe : Nat), s.dev.serving = true → s.dev.slotLeft pipe = true →
        (∀ m ms f rest, s.dev.newLeft pipe = true → s.dev.recircReady pipe = none → s.dev.waitingMacs pipe = m :: ms →
          takeFirst (fun f => f.mac = m) s.dev.ingr.queue = some (f, rest) →
          exec (.packetAdmit pipe) s = .next (s.withDev
            (((((s.dev.takeSlot pipe).countNew pipe).onIngr (fun i =>
              { i with queue := rest, lastMac := spSet 65 i.lastMac pipe m })).setFlight f.chain (some s.dev.drip.gen)).classify
              { Pkt.empty with
                chain := f.chain, len := f.len, bay := f.bay, pipe := pipe, dripTag := s.dev.drip.now % 2 ^ 16,
                gen := s.dev.drip.gen, stamp := f.stamp, admitted := s.dev.drip.now })))
        ∧ (∀ p rest, s.dev.recircReady pipe = some (p, rest) →
          exec (.recircAdmit pipe) s = .next (s.withDev
            (((s.dev.takeSlot pipe).onIngr (fun i => { i with recirc := rest })).classify
              { p with pass := p.pass + 1, admitted := s.dev.drip.now, flood := false, missDrop := false }))))
    ∧ (∀ (s : State) (set way : Nat) (f : Frag), spFind s.dev.ingr.frags (4 * set + way) = some f →
        f.created + 512 ≤ s.dev.drip.now →
        let freed := s.dev.onIngr (fun i => { i with frags := spErase i.frags (4 * set + way) })
        exec (.fragEntryExpire set way) s = .next (s.withDev
          (if f.state = .holding then (freed.fragCount 2).slowAll f.held else freed))))
  ∧ (∀ (d : Dev),
      (∀ data len off bit width, width ≠ 0 →
        let last := (8 * off + bit + width - 1) / 8
        let n := last - off + 1
        readField data len off bit width =
          if 255 < last then .error 3 else if len ≤ last then .error 4
          else .ok (bits (beAt data off n) (8 * n - bit - 1) (8 * n - bit - width)))
      ∧ (∀ gen n sel,
        let fits (e : Nat) : Prop := bitOf (d.passWord gen n (4 + 2 * e)) 12 = true
          ∧ (sel &&& bits (d.passWord gen n (3 + 2 * e)) 31 16) = bits (d.passWord gen n (3 + 2 * e)) 15 0
        (∀ e, e < 16 → fits e → (∀ f, f < e → ¬fits f) → d.edge gen n sel = bits (d.passWord gen n (4 + 2 * e)) 11 0)
        ∧ ((∀ e, e < 16 → ¬fits e) → d.edge gen n sel = bits (d.passWord gen n 2) 11 0))
      ∧ (∀ gen pass len data n w, d.walkPass gen pass len data 0 n w = (.outcome 2, w)
        ∧ ∀ f, (∀ e, d.passage gen pass n len data w = .error e → d.walkPass gen pass len data (f + 1) n w = e)
          ∧ ∀ t v, d.passage gen pass n len data w = .ok (t, v) → d.walkPass gen pass len data (f + 1) n w =
            if t = 0x800 then (.outcome 0, v) else if t = 0xC00 then (.outcome 1, v)
            else d.walkPass gen pass len data f (t % 1024) v)
      ∧ (∀ gen key, let b := d.bankAt 6 gen
        let bank := if b then d.csr.bankB else d.csr.bankA
        let valid (r : Nat) : Prop := ∃ w, spFind bank (rowKey r 44) = some w ∧ bitOf w.toNat 0 = true
        spSorted bank = true →
        (∀ r, d.searchRows gen key = some r → valid r ∧ d.rowMatch b key r = true
          ∧ ∀ q, q < r → valid q → d.rowMatch b key q = false)
        ∧ (d.searchRows gen key = none → ∀ q, valid q → d.rowMatch b key q = false))
      ∧ (∀ p, p.missDrop = false →
        (actType p.action = 0 → d.finishAction p = d.dropPkt p)
        ∧ (∀ q, actType p.action = 1 → p.seq = some q →
          d.finishAction p = d.reorderEnter ⟨p.domain, q, some p, p.egress, d.drip.now, none⟩)
        ∧ (actType p.action = 2 → d.finishAction p = d.enqueueTask p)
        ∧ (actType p.action = 3 → d.finishAction p = d.exception p (bits p.action 10 8) 2))
      ∧ (∀ p q w o, (d.viewCells p).any d.cellPoisoned = false → d.parse p = (.outcome o, w, q) → w.fragAt = none →
        d.classify p = if o = 0 then (d.lookupAction q).2.actOrMiss q (d.lookupAction q).1
          else (d.bump (R.parsOut + 4 * (o - 1))).failPass q o)
      ∧ (∀ m f,
        ((bitOf (d.msec m) 0 = false ∨ beAt f 12 2 = 0x888E) → d.validateFrame m f = (some f, d))
        ∧ (bitOf (d.msec m) 0 = true → beAt f 12 2 ≠ 0x888E → beAt f 12 2 ≠ 0x88E5 →
          d.validateFrame m f = if bitOf (d.msec m) 1 then (none, d.msecCount m 3) else (some f, d))
        ∧ (∀ t, bitOf (d.msec m) 0 = true → beAt f 12 2 = 0x88E5 → readSec f = (true, t) →
          (∀ s, d.saTakes f t s = true ↔ bits s.2 10 9 = t.tci % 4 ∧ ∀ x, t.sci f = some x → d.saSci s.1 = x)
          ∧ ((d.macSas m false).find? (d.saTakes f t) = none → d.validateFrame m f = d.msecFail m 2 (f.take 12 ++ t.body))
          ∧ (∀ i c, (d.macSas m false).find? (d.saTakes f t) = some (i, c) →
            let lowest := lowestPn (d.nextPn i) (d.live (R.ciphMsecMac1 + 8 * m))
            let pn := recoverPn lowest t.low
            let k := msecClear (d.msec m) t.body.length (bitOf t.tci 3)
            (pn ≠ 0 → bitOf (d.msec m) 6 = true → pn < lowest → d.validateFrame m f = d.msecFail m 1 (f.take 12 ++ t.body))
            ∧ (∀ x, pn ≠ 0 → (bitOf (d.msec m) 6 = false ∨ lowest ≤ pn) →
              aeadOpen 2 (d.saKey i) (d.saNonce i pn) (f.take (12 + t.tl) ++ t.body.take k) (t.body.drop k ++ t.icv) = some x →
              d.validateFrame m f = (some (f.take 12 ++ t.body.take k ++ x),
                if d.nextPn i ≤ pn then d.setIo64 (R.ciphSaNextpn + saOff i) (pn + 1) else d))))))

/-- Received PFC (R68, R117): in service, on a MAC with a link, each enabled priority pauses until its quanta have run, and a
time of 0 ends its pause; a pause that has run out ends; nothing else changes. PFC_XOFF_REPEAT: a pool whose XOFF is in force
has its PFC frame, with every priority it pauses there, sent again on each MAC with a link for which 32,768 quanta at its rate
have passed since the last, or that had none, and on no other; nothing but the frames sent and the drips of these changes.
LINK_UP and LINK_DOWN (R121, R433, R479, R480), while the lanes may hold a link: a MAC bound to sound lanes holds its link once
they align, each lane UP with the logical lane it carries, and without alignment each shows align_fail and the link is not held;
a MAC that loses its link has no link and no received pause left, and its lanes that are not fenced train again, each showing
whether it has a signal; no other lane and nothing else changes. Beside the rules, it follows the model's choices of assumptions
22 and 50. -/
def Obligations.FlowControlAndLinks : Prop :=
  (∀ (s : State),
      (∀ mac enables times, s.dev.serving = true → mac < 64 → s.dev.linkUp mac = true →
        ∃ p, exec (.pfcFrameReceive mac enables times) s = .next (s.withDev (s.dev.onEgrs (fun e => { e with paused := p })))
          ∧ (∀ q, q < 8 → bitOf enables q = true → spFind p (8 * mac + q) =
              if times.getD q 0 % 2 ^ 16 = 0 then none
              else some (s.dev.drip.now + s.dev.quantaDrips mac (times.getD q 0 % 2 ^ 16)))
          ∧ (∀ k, (∀ q, q < 8 → bitOf enables q = true → k ≠ 8 * mac + q) → spFind p k = spFind s.dev.egrs.paused k))
      ∧ (∀ mac q e, spFind s.dev.egrs.paused (8 * mac + q) = some e → e ≤ s.dev.drip.now →
        exec (.pfcPauseExpire mac q) s = .next (s.withDev
          (s.dev.onEgrs (fun x => { x with paused := spErase x.paused (8 * mac + q) }))))
      ∧ (∀ pool, s.dev.serving = true → spGet false s.dev.ingr.xoff pool = true →
        let due (m : Nat) : Bool := s.dev.linkUp m && (match spFind s.dev.ingr.xoffAt (xoffKey pool m) with
          | some t => decide (t + s.dev.quantaDrips m 32768 ≤ s.dev.drip.now)
          | none => true)
        let macs := (s.dev.pfcMacs pool).filter due
        let frame (m : Nat) : Out := .pfc m (s.dev.macSa m)
          ((((s.dev.pfcBays pool).filter (fun x => x.1 = m)).map (fun x => 2 ^ x.2)).foldl (· ||| ·) 0) 0xFFFF
        ∃ a, exec (.pfcXoffRepeat pool) s = .next (s.withDev { s.dev with
            out := (macs.map frame).reverse ++ s.dev.out, ingr := { s.dev.ingr with xoffAt := a } })
          ∧ (∀ m ∈ macs, spFind a (xoffKey pool m) = some s.dev.drip.now)
          ∧ (∀ k, (∀ m ∈ macs, k ≠ xoffKey pool m) → spFind a k = spFind s.dev.ingr.xoffAt k)))
  ∧ (∀ (s : State) (mac : Nat), mac < 64 → s.dev.lanesLive = true →
      (∀ pos, bitOf (s.dev.live (R.portMacCfg + 4 * mac)) 25 = true → s.dev.lanesSound (s.dev.macLanes mac) = true →
        (∃ io, exec (.linkUp mac pos true) s = .next (s.withDev ((s.dev.onCsr (fun c => { c with io := io })).onEgrs (fun e =>
            { e with linkUp := spSet false e.linkUp mac true })))
          ∧ (let d := s.dev.onCsr (fun c => { c with io := io })
            (∀ i l, i < 4 → (s.dev.macLanes mac)[i]? = some l → d.laneState l = 2
              ∧ d.ioFld (R.laneStat + 4 * l) 7 6 = pos.getD i 0 % 4 ∧ d.ioFld (R.laneStat + 4 * l) 9 8 = 0)
            ∧ ∀ o, (∀ l ∈ s.dev.macLanes mac, o ≠ R.laneStat + 4 * l) → d.io o = s.dev.io o))
        ∧ ∃ io, exec (.linkUp mac pos false) s = .next (s.withDev (s.dev.onCsr (fun c => { c with io := io })))
          ∧ (let d := s.dev.onCsr (fun c => { c with io := io })
            (∀ l ∈ s.dev.macLanes mac, d.ioFld (R.laneStat + 4 * l) 8 8 = 1)
            ∧ ∀ o, (∀ l ∈ s.dev.macLanes mac, o ≠ R.laneStat + 4 * l) → d.io o = s.dev.io o))
      ∧ (∀ los, ∃ io tried, exec (.linkDown mac los) s = .next (s.withDev
          (((s.dev.onCsr (fun c => { c with io := io })).onHlth (fun h => { h with txTried := tried })).onEgrs (fun e => { e with
            linkUp := spSet false e.linkUp mac false, paused := e.paused.filter (fun p => p.1 / 8 ≠ mac) })))
          ∧ (let d := s.dev.onCsr (fun c => { c with io := io })
            (∀ i l, i < 4 → (s.dev.macLanes mac)[i]? = some l →
              (s.dev.laneState l ≠ 3 → d.laneState l = 1) ∧ (s.dev.laneState l = 3 → d.laneState l = 3)
              ∧ d.ioFld (R.laneStat + 4 * l) 9 9 = b2n (los.getD i false))
            ∧ ∀ o, (∀ l ∈ s.dev.macLanes mac, o ≠ R.laneStat + 4 * l) → d.io o = s.dev.io o)))

/-- Classifier rows (R86): with the master's row command idle, WRITE by a master of the owner set of CLAS stages its 45-word
buffer as one write of the row and the command stays busy until the boundary; READ_STAGED and READ_LIVE copy the row's staged
copy or LIVE bank into the buffer and complete with OK. Beside the rules, it follows the model's choices of assumption 25. -/
def Obligations.ClassifierRows : Prop :=
  ∀ (s : State) (m r : Nat), r < 2 ^ 15 → s.dev.serving = true → s.dev.noPath m = false →
    bitOf (s.dev.per m R.clasRowStat) 0 = false →
    (s.dev.owns m 6 = true → exec (.clasRowWrite m r) s = .next (s.withDev
      ((s.dev.onDrip (fun x => { x with
        writes := x.writes ++ [⟨m, .row r, (s.dev.perWords m R.clasRowBuf 45).map w32⟩] })).setStat m R.clasRowStat true 0)))
    ∧ exec (.clasRowReadStaged m r) s = .next (s.withDev
      ((s.dev.setPerWords m R.clasRowBuf ((List.range 45).map (fun w => s.dev.staged (rowKey r w)))).setStat m
        R.clasRowStat false Code.ok))
    ∧ exec (.clasRowReadLive m r) s = .next (s.withDev
      ((s.dev.setPerWords m R.clasRowBuf ((List.range 45).map (fun w => s.dev.live (rowKey r w)))).setStat m
        R.clasRowStat false Code.ok))

/-! ## Order, egress and links (chapters 04 and 05) -/

/-- EGRESS_SERVE (R117, R480): the head of the bay that the deficit round robin gives the MAC, once session data at its heads is
cut into frames, is served: without a link, or with the Rope not UP, it leaves its FIFO, is freed and counted; a packet leaves
its FIFO, is transmitted and freed, or dropped and freed where its data is poisoned (R470); a frame of session data takes a
header cell, is transmitted and the cell freed, or waits for one (R136, R138). EGRESS_HEADER_RETRY serves every head that waits
for a header cell so; after egr_wait drips of its generation EGRESS_WAIT_EXPIRE drops such a head, aborts its session and makes
an incident record (R138). HOLE_SKIP (R114): a hole open for hole_timeout drips, its number still absent, is counted, recorded
with TIMEOUT, its domain and number, the domain goes on behind it, and the run behind it is released. Beside the rules, it
follows the model's choices of assumption 52. -/
def Obligations.EgressService : Prop :=
  ((∀ (s : State) (mac b : Nat) (d : Dev) (e : EgPkt) (l : List EgPkt),
      (s.dev.cutHeads mac).nextBay mac = (some b, d) → d.fifo b = e :: l →
      exec (.egressServe mac) s = .next (s.withDev
        ((d.onEgrs (fun x => { x with serving := spSet 0 x.serving mac b })).serveHead mac b e)))
    ∧ (∀ (d : Dev) (mac b : Nat) (e : EgPkt),
      (d.macUp mac = false → d.serveHead mac b e = (let g := (d.popHead b e.cost).freeEgress e.pkt
        if mac = 64 then g.bump R.ropeCnt else g.bump (R.laneTxdown + 4 * mac)))
      ∧ (d.macUp mac = true → e.raw = [] → (d.popHead b e.cost).chainPoisoned e.pkt.chain = false →
        d.serveHead mac b e = ((d.popHead b e.cost).transmit mac b e.pkt.gen
          ((d.popHead b e.cost).chainBytes e.pkt.chain 0 e.pkt.len)).freeEgress e.pkt)
      ∧ (d.macUp mac = true → e.raw = [] → (d.popHead b e.cost).chainPoisoned e.pkt.chain = true →
        d.serveHead mac b e = ((d.popHead b e.cost).countChain e.pkt.chain).freeEgress e.pkt)
      ∧ (d.macUp mac = true → e.raw ≠ [] → e.pkt.domain ≠ 65527 →
        (∀ g, d.headerCell mac b e.pkt.gen = (none, g) →
          d.serveHead mac b e = g.setHead b { e with headerWait := some (e.headerWait.getD g.drip.now) })
        ∧ (∀ c g, d.headerCell mac b e.pkt.gen = (some c, g) →
          d.serveHead mac b e = ((g.popHead b e.cost).transmit mac b e.pkt.gen e.raw).freeChain c)))
    ∧ (∀ (s : State) (mac : Nat),
      exec (.egressHeaderRetry mac) s = .next (s.withDev
        ((s.dev.headerWaiters mac).foldl (fun d x => d.serveHead mac x.1 x.2) s.dev))
      ∧ exec (.egressWaitExpire mac) s = .next (s.withDev ((s.dev.headerWaiters mac).foldl (fun d x =>
        match x.2.headerWait with
        | some t => if t + d.atFld x.2.pkt.gen R.sessCfg 20 13 ≤ d.drip.now then d.headerDrop x.1 x.2 else d
        | none => d) s.dev)))
    ∧ (∀ (d : Dev) (b : Nat) (e : EgPkt) (sd : SessData), e.sess = some sd →
      d.headerDrop b e = ((((d.popHead b e.cost).freeEgress e.pkt).sessCount 6).abortSes sd.session e.pkt.gen false none).incident 10
        Code.failEmpty 0 sd.session b))
  ∧ (∀ (s : State) (dom h : Nat), spFind s.dev.egrs.holes dom = some h →
      s.dev.egrs.waiting.any (fun e => e.domain = dom && e.seq = s.dev.nextSeq dom) = false →
      h + s.dev.liveFld R.egrsHoleCfg 14 0 ≤ s.dev.drip.now →
      let d := (((s.dev.bump R.egrsHoleSkip).incident 18 Code.timeout 0 dom (s.dev.nextSeq dom)).setNextSeq dom
        (s.dev.nextSeq dom + 1)).onEgrs (fun g => { g with holes := spErase g.holes dom })
      exec (.holeSkip dom) s = .next (s.withDev (d.releaseDomain dom).openHoles))

/-! ## The Larder (chapter 04) -/

/-- A Larder command runs its operation under the issuer's owner tag: of a thread, the answer goes to its result operand with
the code in FLAGS; of the host or the peer, to its result and status registers (R101, R119). CELL_SCRUB_DONE (R95): a cell
awaiting zeroing is zeroed and can be allocated again. Beside the rules, it follows the model's choices of assumption 19. -/
def Obligations.LarderCommands : Prop :=
  (∀ row ∈ larderRows, ∀ (s : State),
      (∀ id i e x y b, s.dev.issuesOn id i e [x, y] b → i.op = 0xE4 → bits x.val 31 0 % 16 = row.2.1 →
        let a := row.2.2 (e.setBases id b) (ownerTag id) (bits x.val 31 0) (bits x.val 63 32) (bits x.val 95 64)
          (bits x.val 127 96)
        exec (row.1 (.thread id)) s = .next (s.withDev
          ((a.dev.putOp id 0xE4 i.width (classOf 0xE4) y (a.code + a.res * 2 ^ 32)).finishCode id i b a.code false)))
      ∧ (∀ m, m = 3 ∨ m = 4 → s.dev.serving = true → s.dev.noPath m = false → s.dev.per m R.lardCmd % 16 = row.2.1 →
        let a := row.2.2 s.dev (masterTag m) (s.dev.per m R.lardCmd) (s.dev.per m (R.lardCmd + 4))
          (s.dev.per m (R.lardCmd + 8)) (s.dev.per m (R.lardCmd + 12))
        exec (row.1 (.master m)) s = .next (s.withDev
          ((a.dev.setPer m R.lardCmdRes a.res).setStat m R.lardCmdStat false a.code))))
  ∧ (∀ (s : State) (i : Nat), spGet false s.dev.lard.scrub i = true →
      exec (.cellScrubDone i) s = .next (s.withDev (s.dev.onLard (fun l =>
        { l with scrub := spSet false l.scrub i false, fill := spSet 1 l.fill i 0 }))))

/-- What the Larder's operations answer on a sound chain of the requester (R98, R102): ALLOC gives the new chain or FAIL_EMPTY,
FREE frees every cell, TRANSFER retags every cell, JOIN links B behind A; RECLAIM by a keeper frees every cell of a stopped
thread of its gallery; a chain that the requester does not hold is refused with NOT_HOLDER, and nothing changes but the count of
such refusals. A RELEASE with `empty` by a thread that runs a task with an unspent number and holds the chain frees the chain,
spends the number and leaves it empty in its domain; without `empty` the chain goes to the reorder stage under that number
(R111). Beside the rules, it follows the model's choices of assumptions 14 and 51. -/
def Obligations.LarderOperations : Prop :=
  (∀ (d : Dev) (tag : Nat),
      (∀ pool n, pool < 32 → n ≤ 512 →
        d.lardAlloc tag (pool * 16 + n * 2 ^ 9) 0 0 0 = (match d.alloc tag pool n none with
          | (some c, e) => ⟨Code.ok, c.handle, e⟩
          | (none, e) => ⟨Code.failEmpty, 0, e⟩))
      ∧ (∀ h c l, chainOf h = some c → c.count ≠ 0 → d.lard.walk c.count c.head = .cells l →
        (d.allOwned tag l = true →
          d.lardFree tag 1 h 0 0 = ⟨Code.ok, 0, d.freeList l⟩
          ∧ (∀ o, ownerTagOk o = true → o < 2 ^ 12 →
            d.lardTransfer tag 2 h o 0 = ⟨Code.ok, h, d.mapCells l (fun x => { x with owner := o })⟩)
          ∧ (∀ h' c' l', chainOf h' = some c' → c'.count ≠ 0 → d.lard.walk c'.count c'.head = .cells l' →
            d.allOwned tag l' = true → c.head ≠ c'.head → c.count + c'.count ≤ 512 →
            d.lardJoin tag 3 h h' 0 = ⟨Code.ok, (d.joinChains c c').1.handle, (d.joinChains c c').2⟩))
        ∧ (d.mayTake tag l true = false →
          d.lardFree tag 1 h 0 0 = ⟨Code.notHolder, 0, d.bump R.lardNotHolder⟩
          ∧ (∀ o, ownerTagOk o = true → o < 2 ^ 12 →
            d.lardTransfer tag 2 h o 0 = ⟨Code.notHolder, 0, d.bump R.lardNotHolder⟩)))
      ∧ (∀ k id, tidOfTag tag = some k → d.isKeeper k = true → k.g = id.g ∨ k.g = 0 → id.g < 16 → id.c < 9 → id.t < 8 →
        (d.thr id).state = .parked ∨ (d.thr id).state = .halted →
        d.lardReclaim tag 5 0 (ownerTag id) 0 = ⟨Code.ok, 0,
          (d.freeList (d.cellsOf (ownerTag id))).bumpBy R.lardRetireFreed (d.cellsOf (ownerTag id)).length⟩))
  ∧ (∀ (d : Dev) (id : Tid) (p : Pkt) (q h : Nat) (c : Chain) (l : List Nat),
      id.g < 16 → id.c < 9 → id.t < 8 → d.isKeeper id = false → (d.thr id).desc = some p → (d.thr id).spent = false →
      p.seq = some q → chainOf h = some c → c.count ≠ 0 → d.lard.walk c.count c.head = .cells l →
      d.allOwned (ownerTag id) l = true →
      d.lardRelease (ownerTag id) 4 h (2 ^ 12) 0 = ⟨Code.ok, 0,
        ((d.freeList l).spendNumber id ⟨p, some q, none⟩).releaseEmpty p.domain q⟩
      ∧ (∀ bay, bay < 2 ^ 12 → d.relSession id bay = .ok none → d.localVal id winLength 4 ≤ 128 * c.count →
        d.lardRelease (ownerTag id) 4 h bay 0 = ⟨Code.ok, 0,
          d.handOver id ⟨p, some q, none⟩ c bay (d.localVal id winLength 4) none⟩))

/-! ## Sessions (chapter 05) -/

/-- A SESS command is accepted for the boundary: a thread that issues one waits for its completion (R258); a master of the
command registers, not busy, sees busy, and a busy one's command is turned away with BUSY_RETRY, or RESERVED where it is
reserved (R12, R146). What an accepted SESS command does at its boundary for an issuer that may command the session (R129, R139,
R141, R143, R146): INSTALL_KEYS installs its secret in one direction with record numbers from 0; KEYUPDATE sends a record under
the old secret and takes the next; CLOSE leads to CLOSING, and of a session not yet established closes it; ABORT aborts it. A
session that does not exist, or a reserved op, phase, bit or word, draws RESERVED, an issuer that may not command it NOT_HOLDER.
How a session ends. An abort (R139) of one without TLS sends RST, frees every chain, moves it to CLOSED, steps SESS_ABORT and
notifies the task that handles it; one with TLS sends a fatal alert ahead of the RST. A CLOSED session keeps its identity, the
drip of its end and nothing else of what it held (R131). Beside the rules, it follows the model's choices of assumptions 27 and
53. -/
def Obligations.SessCommands : Prop :=
  (∀ row ∈ sessRows, ∀ (s : State),
      (∀ id i e x y b, s.dev.issuesOn id i e [x, y] b → i.op = 0xE5 → bits x.val 31 0 % 16 = row.2 →
        exec (row.1 (.thread id)) s = .next (s.withDev
          ((e.sessAccept (.thread id) ((List.range 16).map (fun k => bits x.val (32 * k + 31) (32 * k)))).startWait id
            ⟨.sess, y.loc, .imm 0, 0, 0, 0, e.nextPc id i, e.drip.now, b⟩)))
      ∧ (∀ m, m = 2 ∨ m = 3 → s.dev.serving = true → s.dev.noPath m = false → s.dev.per m R.sessCmd % 16 = row.2 →
        exec (row.1 (.master m)) s = .next (s.withDev
          (if bitOf (s.dev.per m R.sessCmdStat) 0 then s.dev.refuse m R.sessCmdGo
               (if (SessCmd.mk (.master m) (s.dev.perWords m R.sessCmd 16) []).bad then Code.reserved else Code.busyRetry)
           else (s.dev.sessAccept (.master m) (s.dev.perWords m R.sessCmd 16)).setStat m R.sessCmdStat true 0))))
  ∧ (∀ (d : Dev) (who : Who) (w n : Nat) (ws : List Nat) (secret : Bytes), bits w 25 4 = n →
      let c : SessCmd := ⟨who, w :: ws, secret⟩
      (5 ≤ w % 16 ∨ bitOf w 31 = true ∨ c.word 15 ≠ 0 ∨ (w % 16 = 1 ∧ 1 < bits w 27 26) → d.sessDo c = ⟨Code.reserved, 0, d⟩)
      ∧ (bitOf w 31 = false → c.word 15 = 0 →
          (d.ses n = none → 2 ≤ w % 16 → w % 16 ≤ 4 → d.sessDo c = ⟨Code.reserved, 0, d⟩)
      ∧ (∀ s, d.ses n = some s →
        (d.maySess c n s = false → 2 ≤ w % 16 → w % 16 ≤ 4 → d.sessDo c = ⟨Code.notHolder, 0, d⟩)
        ∧ (d.maySess c n s = true →
          (w % 16 = 1 → bitOf w 30 = false → s.id.tls = true → s.state = .handshake ∨ s.state = .established →
            secret ≠ [] → bits w 27 26 ≤ 1 →
            d.sessDo c = ⟨Code.ok, 0, (d.setSes n { s with
              tls := s.tls.install (bitOf w 28) (b2n (bitOf w 29)) (bits w 27 26 + 1) secret }.settle).keysLive n⟩)
          ∧ (∀ k, w % 16 = 2 → s.tls.txSecret = some k → s.tls.txPhase = 2 → s.isInner = false → s.state ≠ .closed →
            d.sessDo c = ⟨Code.ok, 0, (d.setSes n ({ s with
              tls := { s.tls with txSecret := some (nextSecret s.tls.txSuite k), txNum := 0 } }.queueStream Chain.null
              (sealRecord s.tls.txSuite k s.tls.txNum 22 [24, 0, 0, 1, 0]))).pumpOut n⟩)
          ∧ (w % 16 = 3 → s.state = .syn → d.sessDo c = ⟨Code.ok, 0, d.closeSes n⟩)
          ∧ (w % 16 = 3 → s.state = .established → s.isInner = false → s.id.tls = false → ∃ s',
            d.sessDo c = ⟨Code.ok, 0, (d.setSes n s').pumpOut n⟩ ∧ s'.state = .closing ∧ s'.tx.finAsked = true)
          ∧ (w % 16 = 4 → s.state ≠ .closed → d.sessDo c = ⟨Code.ok, 0, d.abortSes n d.sesGen false none⟩)))))
  ∧ (∀ (d : Dev) (n gen : Nat) (s : Session), d.ses n = some s →
      (∃ t, (d.closeSes n).ses n = some t ∧ t.state = .closed ∧ t.closedAt = d.drip.now ∧ t.id = s.id ∧ t.tls = s.tls
        ∧ t.tx.items = [] ∧ t.tx.sendq = [] ∧ t.tx.segs = [] ∧ t.tx.timer = none
        ∧ t.rx.ooo = [] ∧ t.rx.held = [] ∧ t.rx.hsWait = [] ∧ t.rx.chain = Chain.null ∧ t.rx.buf = [] ∧ t.rx.ackPend = 0)
      ∧ (s.state = .closed → ∀ quiet desc, d.abortSes n gen quiet desc = d)
      ∧ (s.state ≠ .closed → s.isInner = false → ∀ quiet desc,
        (s.id.tls = false ∨ quiet = true ∨ s.state = .syn →
          d.abortSes n gen quiet desc = (((d.pushSes n s s.rstFrame).closeSes n).bump (R.sessCnt + 20)).notifySes n gen)
        ∧ (s.id.tls = true → quiet = false → s.state ≠ .syn →
          let a := (d.alert gen s 2 (desc.getD (d.freeVal % 256))).1
          ∃ s', d.abortSes n gen quiet desc
              = (((((d.freeStep.pushSes n s (fun v => s.frame v s.tx.nxt s.rx.nxt 0x18 (s.tsOpt v) a)).setSes n s').pushSes n s'
                s'.rstFrame).closeSes n).bump (R.sessCnt + 20)).notifySes n gen
            ∧ s'.id = s.id ∧ s'.rx = s.rx ∧ s'.tx = { s.tx with nxt := add32 s.tx.nxt a.length })))

/-- Timers and events of a session. DELAYED_ACK: data unacknowledged at the boundary after it arrived draws an acknowledgement,
which takes the next number of the session's domain and the direct path to its bay (R135). SESSION_ID_RECYCLE: the id of a
CLOSED session is free 2 × rto_max × 1,024 drips later (R131). RETRANSMISSION_TIMEOUT: the first segment is sent again as it was
and the timeout doubles; after max_retx retransmissions the session is aborted (R137, R140). SESS_KEEPALIVE: an idle session
sends a probe, or is aborted with max_retx unanswered (R140). SESSION_CACHE_FILL: the record is hot, and what waited for it is
processed (R128). Beside the rules, it follows the model's choices of assumptions 12, 27 and 53. -/
def Obligations.SessionEvents : Prop :=
  ∀ (s : State) (n : Nat) (x : Session), s.dev.ses n = some x →
    (x.rx.ackPend ≠ 0 → x.rx.ackDrip < s.dev.drip.now →
      let q := spGet 0 s.dev.egrs.assign x.id.domain
      seq24 (q + 2 ^ 24 - s.dev.nextSeq x.id.domain) < 2 ^ 23 →
      exec (.delayedAck n) s = .next (s.withDev
        ((s.dev.setSes n { x with rx := { x.rx with ackPend := 0 } }).onEgrs (fun e => { e with
          assign := spSet 0 e.assign x.id.domain (seq24 (q + 1)),
          waiting := e.waiting ++ [⟨x.id.domain, q, some { Pkt.empty with
            session := some n, domain := x.id.domain, seq := some q, bay := x.id.bay, egress := x.id.bay,
            gen := s.dev.sesGen }, x.id.bay,
            s.dev.drip.now, some ⟨n, 0⟩⟩] }))))
    ∧ (x.state = .closed →
      x.closedAt + 2 * bits (s.dev.profile (s.dev.group 10).genLive x.id.profile 1) 31 16 * 1024 ≤ s.dev.drip.now →
      exec (.sessionIdRecycle n) s = .next (s.withDev (s.dev.onSess (fun t =>
        { t with tab := spErase t.tab n, hot := t.hot.erase n }))))
    ∧ (∀ t, x.tx.timer = some t → t ≤ s.dev.drip.now → x.state ≠ .closed →
      bits (s.dev.profile (s.dev.group 10).genLive x.id.profile 2) 19 16 ≤ x.tx.retx →
      exec (.retransmissionTimeout n) s = .next (s.withDev (s.dev.abortSes n s.dev.sesGen false none)))
    ∧ (∀ t g, x.tx.timer = some t → t ≤ s.dev.drip.now → x.state ≠ .closed →
      x.tx.retx < bits (s.dev.profile (s.dev.group 10).genLive x.id.profile 2) 19 16 →
      x.tx.segs.head? = some g → g.frame ≠ [] → ∃ x', exec (.retransmissionTimeout n) s = .next (s.withDev
          ((s.dev.setSes n x').pushRaw x.id.bay (some n) g.frame))
        ∧ x'.tx.rto = s.dev.clampRto (s.dev.group 10).genLive x.id.profile (2 * x.tx.rto) ∧ x'.tx.retx = x.tx.retx + 1
        ∧ x'.tx.timer = some (s.dev.drip.now + x'.tx.rto) ∧ x'.state = x.state ∧ x'.rx = x.rx ∧ x'.tls = x.tls)
    ∧ (x.isInner = false → x.state ≠ .syn → x.state ≠ .closed →
      bits (s.dev.profile (s.dev.group 10).genLive x.id.profile 2) 15 0 ≠ 0 →
      Nat.max x.rx.heard x.rx.probed + bits (s.dev.profile (s.dev.group 10).genLive x.id.profile 2) 15 0 * 65536
        ≤ s.dev.drip.now →
      exec (.sessKeepalive n) s = .next (s.withDev
        (if bits (s.dev.profile (s.dev.group 10).genLive x.id.profile 2) 19 16 ≤ x.rx.probes then
           s.dev.abortSes n s.dev.sesGen false none
         else (s.dev.setSes n { x with rx := { x.rx with probed := s.dev.drip.now, probes := x.rx.probes + 1 } }).pushSes n x
           x.probe)))
    ∧ (let mine (p : Pkt) : Bool := p.session = some n
      let d := ((s.dev.setMissQ 0 ((s.dev.missQ 0).filter (fun p => !mine p))).setMissQ 1
        ((s.dev.missQ 1).filter (fun p => !mine p))).touchSes n
      (n ∉ s.dev.sess.hot → (s.dev.missQ 0).filter mine = [] → (s.dev.missQ 1).filter mine = [] →
        exec (.sessionCacheFill n) s = .next (s.withDev d) ∧ d.sess.hot = (n :: s.dev.sess.hot).take 98304
          ∧ d.sess.tab = s.dev.sess.tab ∧ d.lard = s.dev.lard ∧ d.egrs = s.dev.egrs)
      ∧ (∀ p g, (s.dev.missQ 0).filter mine ++ (s.dev.missQ 1).filter mine = [p] → d.readSeg p = some g →
        exec (.sessionCacheFill n) s = .next (s.withDev (match d.sesSegment n p g with
         | (some q, d) => d.finishAction q
         | (none, d) => d)))
      ∧ (∀ p q g, (s.dev.missQ 0).filter mine ++ (s.dev.missQ 1).filter mine = [p, q] → d.readSeg p = some g →
        exec (.sessionCacheFill n) s = .next (s.withDev (
          let e := match d.sesSegment n p g with
            | (some r, d) => d.finishAction r
            | (none, d) => d
          match e.readSeg q with
          | none => e.dropPkt q
          | some h => match e.sesSegment n q h with
            | (some r, e) => e.finishAction r
            | (none, e) => e))))

/-! ## Reset and the drip boundary (R28, R31, R33, R42, R44, R57) -/

/-- What State.reset holds: no command waits; the device has just left Cold (assumption 8), so its mode is LOAD and no boundary
occurs; the drip number is 0 (R28); every commit slot and view buffer is FREE (R46, R59); in every group bank A is LIVE and bank
B STAGED (R37); every cell is FREE (R94) and every thread IDLE. No view is captured at reset. Beside the rules, it follows the
model's choices of assumptions 5, 6 and 8. -/
def Obligations.ResetState : Prop :=
  (State.reset.pending = [] ∧ State.reset.copies = [] ∧ State.reset.dev.mode = Mode.load ∧ State.reset.dev.serving = false
    ∧ State.reset.dev.drip.now = 0 ∧ State.reset.dev.lard.cells = []
    ∧ ∀ n, (State.reset.dev.slot n).state = .free ∧ (State.reset.dev.view n).state = .free
      ∧ (State.reset.dev.group n).liveB = false ∧ (State.reset.dev.group n).other = .staged
      ∧ State.reset.dev.io n = (resetWord n).toNat
      ∧ (∀ g c, (State.reset.dev.thr ⟨g, c, n⟩).state = .idle))
  ∧ (State.reset.viewsOk = true)

/-- DRIP_BOUNDARY: in service the boundary runs: the next drip has the next number (R28) and every budget is full: no learning
unit, Lode row update, TALLY or ingress slot of it is spent (R32, R33); no write of the drip is held any longer; the queue of
commands and the captured views stay. With a request for Cold it leads there (R435); outside service no boundary occurs. The
writes held in the drip are resolved target by target (R31 step 3) and none stays: those of one target as their contest decides,
and the one write of a drip to a group whose STAGED bank is open stands in that bank, completed. The effects of the drip become
visible: every row hit of it sets its CLAS_HIT bit (R86), and the egress stamps of it move the write pointer (R370). Beside the
rules, it follows the model's choices of assumption 47. -/
def Obligations.DripBoundaryCommand : Prop :=
  (∀ s : State, s.dev.serving = true →
    (s.dev.load.coldReq = false → ∃ t, exec .dripBoundary s = .next t ∧ t.pending = s.pending ∧ t.copies = s.copies
      ∧ t.dev.drip.now = (s.dev.drip.now + 1) % 2 ^ 56 ∧ t.dev.drip.learnUsed = 0 ∧ t.dev.drip.lodeUsed = 0
      ∧ t.dev.drip.tallyUsed = 0 ∧ t.dev.drip.slotsUsed = [] ∧ t.dev.drip.writes = [])
    ∧ (s.dev.load.coldReq = true → ∃ t, exec .dripBoundary s = .next t ∧ t.dev.mode = Mode.cold ∧ t.dev.serving = false
      ∧ t.pending = s.pending ∧ t.copies = s.copies))
  ∧ (∀ s : State, s.dev.serving = false → exec .dripBoundary s = .next s)
  ∧ (∀ d : Dev, d.resolveStaged.drip.writes = []
    ∧ (∀ t, d.drip.writes ≠ [] → (∀ w ∈ d.drip.writes, w.target = t) →
      d.resolveStaged = ((d.onDrip (fun p => { p with writes := [] })).resolve d.drip.writes t).onRope
        (fun r => { r with cpls := [] }))
    ∧ (∀ m o v, 1 ≤ m → m ≤ 3 → o < 2 ^ 28 → d.drip.writes = [⟨m, .reg o, [v]⟩] →
      (d.group (groupOfKey o)).other = .staged → d.groupSealed (groupOfKey o) = false →
      d.resolveStaged.bankWord (!(d.group (groupOfKey o)).liveB) o = v.toNat ∧ ∀ k, d.resolveStaged.live k = d.live k)
    ∧ d.rowHits.ingr.hits = []
    ∧ (∀ r ∈ d.ingr.hits, bitOf (d.rowHits.io (R.clasHit + 4 * (r / 32))) (r % 32) = true)
    ∧ d.strongDrip.strong.egtsWp = d.strong.egtsWp + d.strong.egtsNew ∧ d.strongDrip.strong.egtsNew = 0)

/-- A resolved write (R42, R44): of a group with a STAGED bank that is not sealed, the bank takes the value and no LIVE value
changes; otherwise it enters the stage queue while the queue has room for it, and with the queue full it changes nothing. A
contest of two to four masters for one target (R57): the write of the master of the highest precedence, the lowest number, is
applied whole; each other of an equal value completes as it did, and each other of another value is discarded whole with
SUPERSEDED and makes an incident record that names the winner. The winner of two device masters is shown in full: the other,
when its value differs, is recorded as refused. Beside the rules, it follows the model's choices of assumption 20. -/
def Obligations.StagedWrites : Prop :=
  (∀ (d : Dev) (m o : Nat) (v : Word), o < 2 ^ 28 →
      let w : StagedWrite := ⟨m, .reg o, [v]⟩
      let g := groupOfKey o
      ((d.group g).other = .staged → d.groupSealed g = false →
        (d.applyStaged w).1 = true ∧ (d.applyStaged w).2.bankWord (!(d.group g).liveB) o = v.toNat
        ∧ (∀ k, (d.applyStaged w).2.live k = d.live k)
        ∧ (∀ k, k ≠ o → (d.applyStaged w).2.bankWord (!(d.group g).liveB) k = d.bankWord (!(d.group g).liveB) k))
      ∧ ((d.group g).other ≠ .staged ∨ d.groupSealed g = true →
        (d.queueUsed + 1 ≤ 16384 → d.applyStaged w = (true, d.onDrip (fun p => { p with
          queue := p.queue ++ [⟨g, .reg o, [v], d.drip.now⟩] })))
        ∧ (16384 < d.queueUsed + 1 → d.applyStaged w = (false, d))))
  ∧ ((∀ (d : Dev) (ws : List StagedWrite) (t : WUnit) (win : StagedWrite) (rest : List StagedWrite), ws.Perm (win :: rest) →
      (win :: rest).Pairwise (fun a b => a.master < b.master) →
      (∀ w ∈ win :: rest, w.target = t ∧ 1 ≤ w.master ∧ w.master ≤ 4) →
      let a := d.applyStaged win
      let code := if a.1 then Code.ok else Code.busyRetry
      d.resolve ws t = rest.foldl (fun e w =>
        if w.words = win.words then e.stagedEnd w code
        else (e.stagedEnd w Code.superseded).incident t.block Code.superseded (actorMaster w.master) (t.lostArg win.master)
          w.lostVal) (a.2.stagedEnd win code))
    ∧ (∀ (d : Dev) (hi lo o : Nat) (x y : Word), 1 ≤ hi → hi < lo → lo ≤ 3 → o < 2 ^ 28 → x ≠ y →
      ∀ ws, ws = [⟨hi, .reg o, [x]⟩, ⟨lo, .reg o, [y]⟩] ∨ ws = [⟨lo, .reg o, [y]⟩, ⟨hi, .reg o, [x]⟩] →
      d.resolve ws (.reg o) =
        (let a := d.applyStaged ⟨hi, .reg o, [x]⟩
         let e := a.2.stagedEnd ⟨hi, .reg o, [x]⟩ (if a.1 then Code.ok else Code.busyRetry)
         (e.refuse lo o Code.superseded).incident (groupOfKey o) Code.superseded (actorMaster lo) (o + hi * 2 ^ 28) y.toNat))
    ∧ (∀ (d : Dev) (o : Nat) (x : Word) (code : Nat),
      d.stagedEnd ⟨4, .reg o, [x]⟩ code =
        ((if code = Code.ok then d else d.refuse 4 o code).rope.cpls.filter (fun c => c.target = .reg o)).foldl
          (fun e c => e.ropeSend 3 (reqCpl c.peer code 0)) (if code = Code.ok then d else d.refuse 4 o code))
    ∧ (∀ r w m, (WUnit.row r).lostArg w = r + w * 2 ^ 28 + 2 ^ 31
      ∧ ∀ ws, (StagedWrite.mk m (.row r) ws).lostVal = crc32c (ws.flatMap (fun x => leBytes 4 x.toNat))))

/-! ## Forwarding (chapter 06) -/

/-- The four commands of FWDT_DMA_GO (R166), written by a master of the owner set that is not busy, over a legal range: LOCK,
UNLOCK and READ wait for the boundary; WRITE asks for its data from the issuer's memory. An illegal range completes with
RESERVED_VALUE, an empty one with OK (R13), and a busy master is refused with BUSY_RETRY. Beside the rules, it follows the
model's choices of assumptions 19 and 28. -/
def Obligations.ForwardingCommands : Prop :=
  ∀ row ∈ fwdRows, ∀ (s : State) (m : Nat), m = 3 ∨ m = 4 → s.dev.serving = true → s.dev.noPath m = false → s.dev.owns m 7 = true →
    bits (s.dev.per m R.fwdtDmaCmd) 19 18 = row.2 →
    let first := bits (s.dev.per m R.fwdtDmaCmd) 17 0
    let count := s.dev.per m R.fwdtDmaCnt
    let addr := s.dev.per m R.fwdtDmaAddrLo + 2 ^ 32 * s.dev.per m R.fwdtDmaAddrHi
    (row.2 < 2 → s.dev.dmaCode m = Code.ok) →
    (bitOf (s.dev.per m R.fwdtDmaStat) 0 = true → count ≤ 4096 → first + count ≤ numBuckets →
      exec (row.1 m) s = .next (s.withDev (s.dev.refuse m R.fwdtDmaGo Code.busyRetry)))
    ∧ (bitOf (s.dev.per m R.fwdtDmaStat) 0 = false → 4096 < count ∨ numBuckets < first + count →
      exec (row.1 m) s = .next (s.withDev (s.dev.fwdEnd m Code.reserved)))
    ∧ (bitOf (s.dev.per m R.fwdtDmaStat) 0 = false → count ≤ 4096 → first + count ≤ numBuckets → count = 0 →
      exec (row.1 m) s = .next (s.withDev (s.dev.fwdEnd m Code.ok)))
    ∧ (bitOf (s.dev.per m R.fwdtDmaStat) 0 = false → count ≤ 4096 → first + count ≤ numBuckets → count ≠ 0 →
      let c : FwdCmd := ⟨row.2, first, count, addr, s.dev.drip.now, .accepted, 0, []⟩
      let d := s.dev.setStat m R.fwdtDmaStat true 0
      exec (row.1 m) s = .next (s.withDev
        (if row.2 = 1 then (d.setFwdCmd m (some { c with phase := .moving })).dmaRead m addr (128 * count) .fwdt
         else d.setFwdCmd m (some c))))

/-- What the commands do (R166, R167): READ delivers the bytes to the issuer's address; a WRITE whose buckets its issuer holds
and whose slots are legal replaces them, and one of a bucket not held changes nothing and completes with NOT_HOLDER; a LOCK of
buckets no other master holds takes them all, one of a bucket held elsewhere takes none. SWEEP_START (R164): at a boundary whose
number is a nonzero multiple of the period a sweep begins, beside one still in progress. LOCK_HOLD_REPORT (R168): a LOCK that
still holds a bucket 64 drips on makes one incident record, once; with no such LOCK nothing is reported. Beside the rules, it
follows the model's choices of assumptions 28 and 61. -/
def Obligations.ForwardingTables : Prop :=
  (∀ (s : State) (m : Nat) (c : FwdCmd), spFind s.dev.fwd.cmds m = some c →
      (c.op = 0 → c.phase = .moving → m = 3 ∨ m = 4 → s.dev.dmaCode m = Code.ok →
        exec (.fwdtReadDone m) s = .next (s.withDev ((s.dev.dmaWrite m c.addr c.data).setFwdCmd m
          (some { c with phase := .moved, drip := s.dev.drip.now, code := Code.ok }))))
      ∧ (c.op = 1 → c.phase = .moved → c.drip < s.dev.drip.now →
        ((writeBuckets c.data c.count).all bucketOk = false →
          exec (.fwdtWriteApply m) s = .next (s.withDev (s.dev.fwdEnd m Code.reserved)))
        ∧ ((writeBuckets c.data c.count).all bucketOk = true → (bucketRange c.first c.count).all (s.dev.holdsBucket m) = false →
          exec (.fwdtWriteApply m) s = .next (s.withDev (s.dev.fwdEnd m Code.notHolder)))
        ∧ (c.count = 1 → s.dev.holdsBucket m c.first = true → bucketOk (slice c.data 0 128) = true →
          ∃ t, exec (.fwdtWriteApply m) s = .next t
            ∧ (∀ i, i < 4 → t.dev.fslot (4 * c.first + i) = BitVec.ofNat 256 (leAt (slice c.data 0 128) (32 * i) 32))
            ∧ (∀ j, j < 4 * c.first ∨ 4 * c.first + 4 ≤ j → t.dev.fslot j = s.dev.fslot j)
            ∧ spFind t.dev.fwd.cmds m = none ∧ t.dev.per m R.fwdtDmaStat = 0 ∧ t.dev.fwd.locks = s.dev.fwd.locks))
      ∧ (c.op = 2 → s.dev.drip.now > c.drip →
        ((∀ b, c.first ≤ b → b < c.first + c.count → spFind s.dev.fwd.locks b = none ∨ spFind s.dev.fwd.locks b = some m) →
          ∀ b, c.first ≤ b → b < c.first + c.count → (s.dev.fwdCommand m).holdsBucket m b = true)
        ∧ ((∃ b h, c.first ≤ b ∧ b < c.first + c.count ∧ spFind s.dev.fwd.locks b = some h ∧ h ≠ m) →
          (s.dev.fwdCommand m).fwd.locks = s.dev.fwd.locks)))
  ∧ ((∀ s : State, s.dev.serving = true → s.dev.live R.fwdtSweep ≠ 0 → s.dev.drip.now ≠ 0 →
      s.dev.drip.now % s.dev.live R.fwdtSweep = 0 → s.dev.drip.now ∉ s.dev.fwd.sweeps →
      exec .sweepStart s = .next (s.withDev (s.dev.onFwd (fun f => { f with sweeps := f.sweeps ++ [s.dev.drip.now] }))))
    ∧ (∀ (s : State) (b : Nat) (pre post : List LockRec) (r : LockRec),
      let due (x : LockRec) : Bool := !x.reported && decide (x.since + 64 ≤ s.dev.drip.now) && x.held.contains b
      (s.dev.fwd.lockRecs = pre ++ r :: post → due r = true → (∀ x ∈ pre, due x = false ∧ x ≠ r) → r ∉ post →
        exec (.lockHoldReport b) s = .next (s.withDev
          ((s.dev.onFwd (fun f => { f with lockRecs := pre ++ { r with reported := true } :: post })).incident 7 Code.timeout
            (actorMaster r.holder) r.first r.count)))
      ∧ ((∀ x ∈ s.dev.fwd.lockRecs, due x = false) → exec (.lockHoldReport b) s = .next s)))

/-! ## The programming model of the threads (chapters 07 to 09) -/

/-- An instruction of groups 0x00 to 0x6F with evaluated operands and a computation that has a result: the base registers take
their updates, the results are written to the operands in order, FLAGS take the computed value, and the thread goes on past the
instruction (R209, R213). A fault of an instruction of groups 0x00 to 0x6F parks its thread with nothing else of the instruction
done (R224): an operand's fault with its class and the operand's number, or ARITHMETIC where the computation has no result
(R238). Of an operand that reads poison through the window, the poisoned cells are counted (R470). What the moves, conversions,
minima, maxima and logic compute at width w (R232 to R236, R239): MOV and XCHG carry their values and LEA the local address of
its source, which it does not read; BSWAP reverses the bytes; BIN2BCD writes the low digits, with v when there are more, and
BCD2BIN reads a digit in every nibble, with v when the number does not fit and c and 0 when a nibble is no digit; a minimum or
maximum is one of its sources, with c and v as for CMP a, b; AND, OR, XOR, ANDN and NOT act bit by bit with c = v = 0, and TST
has the FLAGS of AND and writes nothing. Beside the rules, it follows the model's choices of assumptions 55 and 56. -/
def Obligations.AluInstructions : Prop :=
  (∀ row ∈ aluRows, ∀ (s : State) (id : Tid) (i : Dec) (e : Dev) (evs : List Ev1) (b : Map Word) (out : AluOut),
      s.dev.issuesOn id i e evs b → i.op = row.2.1 → (i.op = 1 → latchMov i = false) →
      row.2.2 i.width (e.thr id).flags (evVals i evs) = some out →
      exec (row.1 id) s = .next (s.withDev
        ((((e.setBases id b).putAll id i evs out.writes).updThr id (fun t => { t with flags := out.flags })).advance id i.len)))
  ∧ (∀ row ∈ aluRows, ∀ (s : State) (id : Tid) (i : Dec),
      s.dev.issues id i → i.op = row.2.1 → (i.op = 1 → latchMov i = false) →
      let e := s.dev.atIssue id i
      (∀ cls code n, e.operandsOf id i.op [] i.ops = .error ((cls, code), n) →
        exec (row.1 id) s = .next (s.withDev ((e.countOps id i [] code).faultPark id ⟨cls, code, i.op, n, 0⟩))
        ∧ (code ≠ Code.poisoned → e.countOps id i [] code = e)
        ∧ (∀ h len off k cs, code = Code.poisoned → e.failLoc id i.op [] 0 (e.thr id).b i.ops = some (.window h len off, k) →
          e.windowCells id h len off k = .ok cs →
          e.countOps id i [] code = e.bumpBy R.hlthCntPoison (cs.filter e.cellPoisoned).length))
      ∧ (∀ evs b, e.operandsOf id i.op [] i.ops = .ok (evs, b) →
        row.2.2 i.width ((e.leaPass i.op i.ops).thr id).flags (evVals i evs) = none →
        exec (row.1 id) s = .next (s.withDev ((e.leaPass i.op i.ops).faultPark id ⟨5, Code.reserved, i.op, 0, 0⟩))))
  ∧ ((∀ (w : Nat) (f : Word) (x a b : Nat), 0 < w → a < 2 ^ w → b < 2 ^ w →
      let sa := toSigned w a
      let sb := toSigned w b
      let ovf : Bool := !(-(2 ^ (w - 1) : Int) ≤ sa - sb && sa - sb < (2 ^ (w - 1) : Int))
      let is (o : Option AluOut) (r : Nat) (c v : Bool) : Prop :=
        ∃ g, o = some ⟨[(0, r)], g⟩ ∧ flagsAre f g (r == 0) (bitOf r (w - 1)) c v
      aluMov w f [x, a] = some ⟨[(0, a)], f⟩ ∧ aluXchg w f [a, b] = some ⟨[(0, b), (1, a)], f⟩
      ∧ aluLea w f [x, a] = some ⟨[(0, a)], f⟩
      ∧ (w % 8 = 0 → ∃ r, aluBswap w f [x, a] = some ⟨[(0, r)], f⟩ ∧ r < 2 ^ w
        ∧ ∀ j < w / 8, r / 256 ^ j % 256 = a / 256 ^ (w / 8 - 1 - j) % 256)
      ∧ (w % 4 = 0 → ∀ v, ∃ r g, aluBin2bcd w f [x, v] = some ⟨[(0, r)], g⟩ ∧ r < 2 ^ w
        ∧ (∀ j < w / 4, r / 16 ^ j % 16 = v / 10 ^ j % 10) ∧ flagsAre f g (r == 0) false false (10 ^ (w / 4) ≤ v))
      ∧ (∀ v n, n < 10 ^ 32 → (∀ j < 32, v / 16 ^ j % 16 = n / 10 ^ j % 10) →
        ∃ g, aluBcd2bin w f [x, v] = some ⟨[(0, n % 2 ^ w)], g⟩ ∧ flagsAre f g (n % 2 ^ w == 0) false false (2 ^ w ≤ n))
      ∧ (∀ v j, j < 32 → 9 < v / 16 ^ j % 16 →
        ∃ g, aluBcd2bin w f [x, v] = some ⟨[(0, 0)], g⟩ ∧ flagsAre f g true false true false)
      ∧ is (aluMinu w f [x, a, b]) (min a b) (a < b) ovf ∧ is (aluMaxu w f [x, a, b]) (max a b) (a < b) ovf
      ∧ is (aluMins w f [x, a, b]) (if sa ≤ sb then a else b) (a < b) ovf
      ∧ is (aluMaxs w f [x, a, b]) (if sa ≤ sb then b else a) (a < b) ovf
      ∧ (∀ row ∈ [(aluAnd, and), (aluOr, or), (aluXor, Bool.xor), (aluAndn, fun p q => p && !q)],
        ∃ r, is (row.1 w f [x, a, b]) r false false ∧ r < 2 ^ w ∧ ∀ j < w, bitOf r j = row.2 (bitOf a j) (bitOf b j))
      ∧ (∃ r, is (aluNot w f [x, a]) r false false ∧ r < 2 ^ w ∧ ∀ j < w, bitOf r j = !bitOf a j)
      ∧ (∃ g, aluTst w f [a, b] = some ⟨[], g⟩ ∧ aluAnd w f [x, a, b] = some ⟨[(0, a &&& b)], g⟩))
    ∧ (∀ (d : Dev) (id : Tid) (b c : Map Word) (o : Opnd) (a : Nat), leaOpen 0x04 1 o = false →
      d.locate id b [] o = .ok (.mem a, c) → d.evalOne id 0x04 1 b [] (.s, o) = .ok (⟨.s, o, .mem a, a⟩, c)))

/-- The frame of groups 0x00 to 0x6F: when one completes, no other thread changes; of its own thread only the PC, FLAGS, the
base registers, the stored bytes of local memory and the state; every byte that no result is stored to reads as before; no
register, counter, loader-written table, poison mark of a cell or part of another block changes. -/
def Obligations.AluFrame : Prop :=
  ∀ row ∈ aluRows, ∀ (s t : State) (id : Tid) (i : Dec) (e : Dev) (evs : List Ev1) (b : Map Word) (out : AluOut),
    s.dev.issuesOn id i e evs b → i.op = row.2.1 → (i.op = 1 → latchMov i = false) →
    row.2.2 i.width (e.thr id).flags (evVals i evs) = some out → exec (row.1 id) s = .next t →
    let stored (p : Place) : Bool := (e.setBases id b).storesAny id i evs p out.writes
    t.pending = s.pending ∧ t.copies = s.copies
    ∧ (∀ j, tidKey j ≠ tidKey id → t.dev.thr j = s.dev.thr j)
    ∧ (∃ pc mem st hr sp, t.dev.thr id =
        { s.dev.thr id with pc := pc, flags := out.flags, b := b, mem := mem, state := st, haltReq := hr, stepping := sp })
    ∧ (∀ a, stored (.loc a) = false → t.dev.localByte id a = s.dev.localByte id a)
    ∧ (∀ k, (∀ a, 0x10000 ≤ a → stored (.loc a) = true → commonKey id a ≠ k) →
        spGet 0 t.dev.cores.common k = spGet 0 s.dev.cores.common k)
    ∧ (∀ a, stored (.cell a) = false → t.dev.lard.byteAt a = s.dev.lard.byteAt a)
    ∧ t.dev.lard.cells = s.dev.lard.cells ∧ t.dev.lard.poison = s.dev.lard.poison
    ∧ (∀ dram a, stored (.mem dram a) = false → t.dev.memByte dram a = s.dev.memByte dram a)
    ∧ t.dev.cores.tabA = s.dev.cores.tabA ∧ t.dev.cores.tabB = s.dev.cores.tabB
    ∧ t.dev.csr = s.dev.csr ∧ { t.dev.drip with cycle := 0 } = { s.dev.drip with cycle := 0 }
    ∧ { t.dev.strong with time := 0, hold := 0, corrRest := 0 } = { s.dev.strong with time := 0, hold := 0, corrRest := 0 }
    ∧ t.dev.out = s.dev.out ∧ t.dev.host = s.dev.host
    ∧ t.dev.egrs = s.dev.egrs ∧ t.dev.ingr = s.dev.ingr ∧ t.dev.latches = s.dev.latches ∧ t.dev.help = s.dev.help
    ∧ t.dev.disp = s.dev.disp ∧ t.dev.fwd = s.dev.fwd ∧ t.dev.book = s.dev.book ∧ t.dev.sess = s.dev.sess
    ∧ t.dev.pool = s.dev.pool ∧ t.dev.fmt = s.dev.fmt ∧ t.dev.lode = s.dev.lode ∧ t.dev.dctl = s.dev.dctl
    ∧ t.dev.load = s.dev.load ∧ t.dev.rope = s.dev.rope ∧ t.dev.hlth = s.dev.hlth ∧ t.dev.elec = s.dev.elec

/-- The sums and differences of R236 at width w: c is the carry out or the borrow, v that the signed result does not fit; CMP
writes no operand; the other bits of FLAGS stay (R207). -/
def Obligations.AddSubFlags : Prop :=
  ∀ (w : Nat) (f : Word) (x a b : Nat), 0 < w → a < 2 ^ w → b < 2 ^ w →
    let sa := toSigned w a
    let sb := toSigned w b
    let fits (i : Int) : Bool := -(2 ^ (w - 1) : Int) ≤ i && i < (2 ^ (w - 1) : Int)
    (∀ c, c = b2n (flagC f) →
      (∃ g, aluAdc w f [x, a, b] = some ⟨[(0, (a + b + c) % 2 ^ w)], g⟩
        ∧ flagsAre f g ((a + b + c) % 2 ^ w == 0) (bitOf ((a + b + c) % 2 ^ w) (w - 1)) (2 ^ w ≤ a + b + c)
          (!fits (sa + sb + c)))
      ∧ (∃ g, aluSbb w f [x, a, b] = some ⟨[(0, (2 * 2 ^ w + a - b - c) % 2 ^ w)], g⟩
        ∧ flagsAre f g ((2 * 2 ^ w + a - b - c) % 2 ^ w == 0) (bitOf ((2 * 2 ^ w + a - b - c) % 2 ^ w) (w - 1)) (a < b + c)
          (!fits (sa - sb - c))))
    ∧ (∃ g, aluAdd w f [x, a, b] = some ⟨[(0, (a + b) % 2 ^ w)], g⟩
      ∧ flagsAre f g ((a + b) % 2 ^ w == 0) (bitOf ((a + b) % 2 ^ w) (w - 1)) (2 ^ w ≤ a + b) (!fits (sa + sb)))
    ∧ (∃ g, aluSub w f [x, a, b] = some ⟨[(0, (2 ^ w + a - b) % 2 ^ w)], g⟩ ∧ aluCmp w f [a, b] = some ⟨[], g⟩
      ∧ flagsAre f g (a == b) (bitOf ((2 ^ w + a - b) % 2 ^ w) (w - 1)) (a < b) (!fits (sa - sb)))
    ∧ (aluNeg w f [x, b] = aluSub w f [x, 0, b]) ∧ (aluInc w f [a] = aluAdd w f [x, a, 1])
    ∧ (aluDec w f [a] = aluSub w f [x, a, 1])

/-- Products and quotients (R237, R238) at width w: c and v of a product say that it does not fit, as unsigned for MULU and as
signed for MULS; MULHU and MULHS give the high half; a quotient is rounded toward zero, and a remainder of REMS has the sign of
a; a divisor of zero raises ARITHMETIC and nothing is written; DIVS of the most negative value by −1 writes that value with v =
1, and REMS of the same operands 0 with v = 0. -/
def Obligations.AluProducts : Prop :=
  (∀ (w : Nat) (f : Word) (x a b : Nat), 0 < w → a < 2 ^ w → b < 2 ^ w →
    let p := toSigned w a * toSigned w b
    let fits : Bool := -(2 ^ (w - 1) : Int) ≤ p && p < (2 ^ (w - 1) : Int)
    (∃ g, aluMulu w f [x, a, b] = some ⟨[(0, a * b % 2 ^ w)], g⟩
      ∧ flagsAre f g (a * b % 2 ^ w == 0) (bitOf (a * b % 2 ^ w) (w - 1)) (2 ^ w ≤ a * b) (2 ^ w ≤ a * b))
    ∧ (∃ r g, aluMuls w f [x, a, b] = some ⟨[(0, r)], g⟩ ∧ r < 2 ^ w ∧ (r : Int) = p % (2 ^ w : Int)
      ∧ flagsAre f g (r == 0) (bitOf r (w - 1)) (!fits) (!fits))
    ∧ (∃ g, aluMulhu w f [x, a, b] = some ⟨[(0, a * b / 2 ^ w)], g⟩
      ∧ flagsAre f g (a * b / 2 ^ w == 0) (bitOf (a * b / 2 ^ w) (w - 1)) false false)
    ∧ (∃ r g, aluMulhs w f [x, a, b] = some ⟨[(0, r)], g⟩ ∧ r < 2 ^ w ∧ (r : Int) = p / (2 ^ w : Int) % (2 ^ w : Int)
      ∧ flagsAre f g (r == 0) (bitOf r (w - 1)) false false)
    ∧ (b ≠ 0 →
      let q := Int.tdiv (toSigned w a) (toSigned w b)
      let out : Bool := !(-(2 ^ (w - 1) : Int) ≤ q && q < (2 ^ (w - 1) : Int))
      (∃ g, aluDivu w f [x, a, b] = some ⟨[(0, a / b)], g⟩ ∧ flagsAre f g (a / b == 0) (bitOf (a / b) (w - 1)) false false)
      ∧ (∃ g, aluRemu w f [x, a, b] = some ⟨[(0, a % b)], g⟩ ∧ flagsAre f g (a % b == 0) (bitOf (a % b) (w - 1)) false false)
      ∧ (∃ r g, aluDivs w f [x, a, b] = some ⟨[(0, r)], g⟩ ∧ r < 2 ^ w ∧ (r : Int) = q % (2 ^ w : Int)
        ∧ flagsAre f g (r == 0) (bitOf r (w - 1)) false out)
      ∧ (∃ r g, aluRems w f [x, a, b] = some ⟨[(0, r)], g⟩ ∧ r < 2 ^ w
        ∧ toSigned w r = Int.tmod (toSigned w a) (toSigned w b) ∧ flagsAre f g (r == 0) (bitOf r (w - 1)) false false)))
  ∧ (∀ (w : Nat) (f : Word) (x : Nat), 1 < w →
    (∃ g, aluDivs w f [x, 2 ^ (w - 1), 2 ^ w - 1] = some ⟨[(0, 2 ^ (w - 1))], g⟩ ∧ flagsAre f g false true false true)
    ∧ (∃ g, aluRems w f [x, 2 ^ (w - 1), 2 ^ w - 1] = some ⟨[(0, 0)], g⟩ ∧ flagsAre f g true false false false))
  ∧ (∀ row ∈ [(Instr.divu, 0x2C), (.divs, 0x2D), (.remu, 0x2E), (.rems, 0x2F)], ∀ (s : State) (id : Tid) (i : Dec) (e : Dev)
      (evs : List Ev1) (b : Map Word), s.dev.issuesOn id i e evs b → i.op = row.2 → (evVals i evs).getD 2 0 = 0 →
    exec (row.1 id) s = .next (s.withDev (e.faultPark id ⟨5, Code.reserved, i.op, 0, 0⟩)))

/-- Shifts, rotations, counts and bit fields (R239, R240) at width w: a shift by the width or more gives 0, SAR copies of the
sign, with c the last bit shifted out, 0 for no shift and beyond the width; a rotation goes by k mod w, with c the last bit
moved across the end; POPC, CLZ and CTZ give their counts, w for CLZ and CTZ of 0; EXT and INS reach no bit at or above w, and a
length of 0 writes nothing and keeps FLAGS; BTST, BSET and BCLR act on bit n mod w. -/
def Obligations.AluShiftsAndFields : Prop :=
  ∀ (w : Nat) (f : Word) (x a b k : Nat), 0 < w → a < 2 ^ w → b < 2 ^ w →
    let is (o : Option AluOut) (r : Nat) (c : Bool) : Prop :=
      ∃ g, o = some ⟨[(0, r)], g⟩ ∧ flagsAre f g (r == 0) (bitOf r (w - 1)) c false
    is (aluShl w f [x, a, k]) (if w ≤ k then 0 else a * 2 ^ k % 2 ^ w) (decide (1 ≤ k ∧ k ≤ w) && bitOf a (w - k))
    ∧ is (aluShr w f [x, a, k]) (if w ≤ k then 0 else a / 2 ^ k) (decide (1 ≤ k ∧ k ≤ w) && bitOf a (k - 1))
    ∧ (∃ r, is (aluSar w f [x, a, k]) r (decide (1 ≤ k ∧ k ≤ w) && bitOf a (k - 1)) ∧ r < 2 ^ w
      ∧ ∀ j < w, bitOf r j = if j + k < w then bitOf a (j + k) else bitOf a (w - 1))
    ∧ (∃ r, is (aluRol w f [x, a, k]) r (k % w ≠ 0 && bitOf a (w - k % w)) ∧ r < 2 ^ w
      ∧ ∀ j < w, bitOf r ((j + k) % w) = bitOf a j)
    ∧ (∃ r, is (aluRor w f [x, a, k]) r (k % w ≠ 0 && bitOf a (k % w - 1)) ∧ r < 2 ^ w
      ∧ ∀ j < w, bitOf r j = bitOf a ((j + k) % w))
    ∧ is (aluPopc w f [x, a]) ((List.range w).countP (bitOf a)) false
    ∧ (∃ n, is (aluClz w f [x, a]) n false ∧ (a = 0 → n = w) ∧ (a ≠ 0 → n < w ∧ 2 ^ (w - 1 - n) ≤ a ∧ a < 2 ^ (w - n)))
    ∧ (∃ n, is (aluCtz w f [x, a]) n false ∧ (a = 0 → n = w) ∧ (a ≠ 0 → n < w ∧ bitOf a n = true ∧ a % 2 ^ n = 0))
    ∧ (bits k 15 8 = 0 → aluExt w f [x, a, k] = some ⟨[], f⟩ ∧ aluIns w f [a, b, k] = some ⟨[], f⟩)
    ∧ (bits k 15 8 ≠ 0 → let pos := bits k 7 0; let len := bits k 15 8
      (∃ r, is (aluExt w f [x, a, k]) r false ∧ r < 2 ^ w ∧ ∀ j < w, bitOf r j = (decide (j < len) && bitOf a (pos + j)))
      ∧ (∃ r, is (aluIns w f [a, b, k]) r false ∧ r < 2 ^ w
        ∧ ∀ j < w, bitOf r j = if pos ≤ j ∧ j < pos + len then bitOf b (j - pos) else bitOf a j))
    ∧ (let old := bitOf a (k % w)
      (∃ g, aluBtst w f [a, k] = some ⟨[], g⟩ ∧ flagsAre f g (!old) false old false)
      ∧ (∃ r g, aluBset w f [a, k] = some ⟨[(0, r)], g⟩ ∧ flagsAre f g (!old) false old false ∧ r < 2 ^ w
        ∧ ∀ j < w, bitOf r j = (j == k % w || bitOf a j))
      ∧ (∃ r g, aluBclr w f [a, k] = some ⟨[(0, r)], g⟩ ∧ flagsAre f g (!old) false old false ∧ r < 2 ^ w
        ∧ ∀ j < w, bitOf r j = (j != k % w && bitOf a j)))

/-- Control transfer (R241, R242): a branch whose condition of FLAGS holds goes to its target, another to the next instruction,
and the thread is READY, or HALTED if it was asked to halt; CALL writes the return address and goes to its target; RET goes to
its operand; DBNZ decrements and branches while the result is not 0. A target in mode 0 is a signed displacement from the next
instruction, another an offset. The conditions are those of the table of R242. -/
def Obligations.ControlTransfer : Prop :=
  (∀ (s : State) (id : Tid) (i : Dec) (e : Dev) (evs : List Ev1) (b : Map Word), s.dev.issuesOn id i e evs b →
    let next := addr32 ((e.thr id).pc.toNat + i.len)
    let dest (x : Ev1) : Nat := if x.o.mode = 0 then ofSigned 32 (next + toSigned x.o.bits x.o.imm) else x.val
    (∀ row ∈ branchRows, ∀ x, i.op = row.2.1 → evs = [x] →
      exec (row.1 id) s = .next (s.withDev (e.updThr id (fun t =>
        { t with b := b, pc := w32 (if row.2.2 (e.thr id).flags then dest x else next) }.after))))
    ∧ (∀ x y, i.op = 0x81 → evs = [x, y] → exec (.call id) s = .next (s.withDev
        (((e.setBases id b).putOp id 0x81 i.width (classOf 0x81) x next).updThr id (fun t =>
          { t with pc := w32 (dest y) }.after))))
    ∧ (∀ x, i.op = 0x82 → evs = [x] → exec (.ret id) s = .next (s.withDev (e.updThr id (fun t =>
        { t with b := b, pc := w32 x.val }.after))))
    ∧ (∀ x y, i.op = 0x83 → evs = [x, y] →
      let r := ofSigned x.o.bits ((x.val : Int) - 1)
      exec (.dbnz id) s = .next (s.withDev
        (((e.setBases id b).putOp id 0x83 i.width (classOf 0x83) x r).updThr id (fun t =>
          { t with pc := w32 (if r = 0 then next else dest y) }.after)))))
  ∧ (∀ f : Word, ∀ z n c v, z = bitOf f.toNat 0 → n = bitOf f.toNat 1 → c = bitOf f.toNat 2 → v = bitOf f.toNat 3 →
    (branchRows.take 16).map (fun row => row.2.2 f) =
      [z, !z, c, !c, !c && !z, c || z, n != v, n == v, !z && (n == v), z || (n != v), n, !n, v, !v,
        fld f 15 8 == 0, fld f 15 8 != 0])

/-- The system group (R205, R206, R250, R251): MOVS reads or writes a special register; NOP, FENCE and YIELD only go on. PC
reads as the offset of the next instruction; a write of FLAGS or EV keeps the bits that exist. Repeated instructions and macros
(R219, R220, R223, R260, R261): the first iteration of REP evaluates the count, and a count of 0 ends the instruction; each
iteration that completes lowers CNT and keeps the PC until CNT is 0. A macro evaluates its operands once; each micro-step acts
on them as its own instruction does, and after the last the PC goes past the macro. Beside the rules, it follows the model's
choices of assumption 2. -/
def Obligations.SystemInstructions : Prop :=
  ((∀ (s : State) (id : Tid) (i : Dec) (e : Dev) (evs : List Ev1) (b : Map Word), s.dev.issuesOn id i e evs b →
      let d := e.setBases id b
      (∀ row ∈ [(Instr.nop, 0xD2), (.fence, 0xD3), (.yield, 0xD4)], i.op = row.2 →
        exec (row.1 id) s = .next (s.withDev (e.updThr id (fun t =>
          { t with b := b, pc := w32 (t.pc.toNat + i.len) }.after))))
      ∧ (∀ x n, i.op = 0xD0 → evs = [x, n] → exec (.movsRead id) s = .next (s.withDev
          ((d.putOp id 0xD0 i.width (classOf 0xD0) x
            (d.readSpecial id (n.val % 256) (addr32 ((d.thr id).pc.toNat + i.len)))).advance id i.len)))
      ∧ (∀ n x, i.op = 0xD1 → evs = [n, x] → exec (.movsWrite id) s = .next (s.withDev
          ((d.writeSpecial id (n.val % 256) x.val).advance id i.len))))
    ∧ (∀ (d : Dev) (id : Tid) (next v k : Nat), v < 2 ^ 32 → k < 8 →
      (List.range 7).map (fun n => d.readSpecial id n next) =
        [next, (d.thr id).flags.toNat, (d.thr id).cnt.toNat, (d.thr id).ev.toNat, (d.thr id).evp.toNat, d.tidReg id,
          (d.thr id).rgen]
      ∧ d.readSpecial id (8 + k) next = baseReg (d.thr id).b k
      ∧ (v &&& 0x1FF0F = v → d.writeSpecial id 1 v = d.updThr id (fun t => { t with flags := w32 v }))
      ∧ d.writeSpecial id 2 v = d.updThr id (fun t => { t with cnt := w32 v })
      ∧ (v &&& evMask (d.isKeeper id) = v → d.writeSpecial id 3 v = d.updThr id (fun t => { t with ev := w32 v }))
      ∧ d.writeSpecial id (8 + k) v = d.updThr id (fun t => { t with b := spSet 0 t.b k (w32 v) })))
  ∧ (∀ (s : State) (id : Tid), s.dev.serving = true → (s.dev.thr id).state = .ready →
      (∀ i o sem, (s.dev.thr id).macroRun = none → s.dev.decodeAt id = .ok i → i.rep = some o → semOf i.op = some sem →
        let c := (s.dev.unstill id).clockPass 0 [(.s, o)]
        (∀ d, c.repAtPc id = false → c.repCount id o = .ok d → (d.thr id).cnt = 0 →
          exec (.repIteration id) s = .next (s.withDev (d.advance id i.len)))
        ∧ (∀ d evs b d', (c.repAtPc id = true ∧ d = c) ∨ (c.repAtPc id = false ∧ c.repCount id o = .ok d ∧ (d.thr id).cnt ≠ 0) →
          (d.atIssue id i).operandsOf id i.op [] i.ops = .ok (evs, b) →
          sem (((d.atIssue id i).leaPass i.op i.ops).setBases id b) id i evs = .ok d' →
          exec (.repIteration id) s = .next (s.withDev
            (if (d'.thr id).cnt - 1 = 0 then
               (d'.updThr id (fun t => { t with cnt := (d'.thr id).cnt - 1, repAt := none })).advance id i.len
             else d'.updThr id (fun t => { t with cnt := (d'.thr id).cnt - 1, repAt := some t.pc.toNat }.after)))))
      ∧ (∀ i m ls b, (s.dev.thr id).macroRun = none → s.dev.decodeAt id = .ok i → 0xE8 ≤ i.op → i.op ≤ 0xEF →
        s.dev.macroDef (s.dev.thr id).codeGen i.op i.fn = some m →
        let c := s.dev.unstill id
        c.macroLocs id 0 (c.thr id).b i.ops = .ok (ls, b) →
        exec (.macroInstruction id) s = .next (s.withDev (c.updThr id (fun t =>
          { t with b := b, macroRun := some ⟨t.pc.toNat + i.len, m.first, m.count, 0, ls⟩ }))))
      ∧ (∀ m i evs b, (s.dev.thr id).macroRun = some m →
        let u := s.dev.unstill id
        u.decodeMicro (u.thr id).codeGen (m.first + m.step) = .ok i →
        let c := (u.unstill id).clockPass i.op (timeOps m.ops i.ops)
        c.operandsOf id i.op m.ops i.ops = .ok (evs, b) →
        let d := c.leaPass i.op i.ops
        let done (e : Dev) : Dev := e.updThr id (fun t =>
          if m.count ≤ m.step + 1 then { t with pc := w32 m.next, macroRun := none }.after
          else { t with macroRun := some { m with step := m.step + 1 }, state := .ready })
        (∀ f out, latchMov i = false → aluOf i.op = some f → f i.width (d.thr id).flags (evVals i evs) = some out →
          exec (.microStep id) s = .next (s.withDev
            (done (((d.setBases id b).putAll id i evs out.writes).updThr id (fun t => { t with flags := out.flags })))))
        ∧ (latchMov i = true → exec (.microStep id) s = .next (s.withDev (d.latchEffect id i evs b done)))))

/-- Events and waits (R182 to R186, R244 to R246). WFE and WAITT wait; the wait completes at once when an event of its mask is
pending, or its deadline is reached, which adds TIME; a WFE has a deadline in a keeper, keeper_tick drips on. A wait that
completes writes the events it found to its destination, clears them and goes on past its instruction; an event that arrives in
the clock of its deadline is reported with TIME. EVTAKE takes the named pending events and sets z when there was none; SEV and
GALL_SEV set an event in every thread they name. Channels (R187 to R190, R247, R248): a thread that may not send, or that is not
the receiver, completes with NOT_OWNER; a send into a channel with room puts the staged message at its tail; a full channel
makes CHSENDT answer FAIL_EMPTY with w and CHSEND wait; a receive takes the head message; on an empty channel CHRECVT answers
FAIL_EMPTY with w and CHRECV waits. Beside the rules, it follows the model's choices of assumption 62. -/
def Obligations.EventsAndChannels : Prop :=
  (∀ (s : State) (id : Tid),
      (∀ i e evs b, s.dev.issuesOn id i e evs b →
        let waits (row : Instr) (w : Wait) (due : Bool) : Prop :=
          let d := e.updThr id (fun t => { t with state := .waiting, wait := w })
          exec row s = .next (s.withDev
            (if due then (d.updThr id (fun t => { t with evp := t.evp ||| w32 (2 ^ Ev.time) })).endEventWait id
             else if (e.thr id).evp.toNat &&& d.waitMask id ≠ 0 then d.endEventWait id
             else d))
        (∀ x, i.op = 0xC0 → evs = [x] → waits (.wfe id)
          ⟨.wfe, x.loc, .imm 0, e.drip.now + e.keeperTick id.g, 0, 0, e.nextPc id i, e.drip.now, b⟩
          (e.isKeeper id && e.keeperTick id.g = 0))
        ∧ (∀ x v m, i.op = 0xC2 → evs = [x, v, m] → waits (.waittD id)
          ⟨.waittD, x.loc, .imm 0, v.val, m.val, 0, e.nextPc id i, e.drip.now, b⟩ (v.val ≤ e.drip.now))
        ∧ (∀ x v m, i.op = 0xC3 → evs = [x, v, m] → waits (.waittC id)
          ⟨.waittC, x.loc, .imm 0, v.val, m.val, 0, e.nextPc id i, e.drip.now, b⟩ (v.val ≤ e.drip.cycle))
        ∧ (∀ x m, i.op = 0xC4 → evs = [x, m] →
          let d := e.setBases id b
          let v := (d.thr id).evp.toNat &&& m.val
          exec (.evtake id) s = .next (s.withDev
            (((d.updThr id (fun t => { t with evp := t.evp &&& ~~~(w32 v), flags := setFld t.flags 0 0 (b2n (v == 0)) })).putOp
              id 0xC4 i.width (classOf 0xC4) x v).advance id i.len)))
        ∧ (∀ x, i.op = 0xC1 → evs = [x] →
          let d := if bits x.val 31 16 = 0 then e.setBases id b else (e.setBases id b).reservedWrite 2 0 (ownerTag id)
          exec (.sev id) s = .next (s.withDev
            (((d.sevTargets (bits x.val 15 12) (bits x.val 10 8) (bitOf x.val 11) (bits x.val 7 0)).foldl
              (fun d t => d.event t (d.sevBit id t)) d).advance id i.len))))
      ∧ (∀ m g v, g < 16 → v < 2 ^ 12 → s.dev.serving = true → s.dev.noPath m = false →
        exec (.gallSevWrite m g v) s = .next (s.withDev
          ((s.dev.sevTargets g (bits v 10 8) (bitOf v 11) (bits v 7 0)).foldl (fun d t => d.event t Ev.sevx) s.dev)))
      ∧ ((s.dev.thr id).state = .waiting → (s.dev.thr id).wait.kind = .waittD → (s.dev.thr id).wait.value ≤ s.dev.drip.now →
        exec (.waittDeadline id) s = .next (s.withDev
          ((s.dev.updThr id (fun t => { t with evp := t.evp ||| w32 (2 ^ Ev.time) })).endEventWait id)))
      ∧ ((s.dev.thr id).state = .waiting → (s.dev.thr id).wait.kind = .wfe → s.dev.isKeeper id = true →
        (s.dev.thr id).wait.value ≤ s.dev.drip.now → exec (.waittDeadline id) s = .next (s.withDev
          ((s.dev.updThr id (fun t => { t with evp := t.evp ||| w32 (2 ^ Ev.time) })).endEventWait id)))
      ∧ ((s.dev.thr id).state = .waiting → (s.dev.thr id).wait.kind = .waittC → (s.dev.thr id).wait.value ≤ s.dev.lastCycle →
        exec (.waittDeadline id) s = .next (s.withDev
          (((s.dev.onDrip (fun p => { p with cycle := Nat.max p.cycle (s.dev.thr id).wait.value })).updThr id (fun t =>
            { t with evp := t.evp ||| w32 (2 ^ Ev.time) })).endEventWait id)))
      ∧ (∀ d : Dev,
        let t := d.thr id
        let found := t.evp.toNat &&& (d.waitMask id ||| (if d.isWaitt id then 2 ^ Ev.time else 0))
        let c := d.updThr id (fun t => { t with evp := t.evp &&& ~~~(w32 found) })
        (d.isKeeper id = false ∨ bitOf found Ev.code = false →
          (t.macroRun = none → d.endEventWait id = (c.writeLoc id t.codeGen 4 found t.wait.dst).updThr id (fun t =>
            { t with b := t.wait.b, wait := Wait.idle, repAt := none, pc := w32 t.wait.next }.after))
          ∧ (∀ a, t.wait.dst = .mem a → t.macroRun = none →
            d.endEventWait id = (c.setLocalBytes id a (leBytes 4 found)).updThr id (fun t =>
              { t with b := t.wait.b, wait := Wait.idle, repAt := none, pc := w32 t.wait.next }.after)))
        ∧ (d.isKeeper id = true → bitOf found Ev.code = true →
          d.endEventWait id = (c.setLocalBytes id 0x5FF0 (leBytes 4 found)).updThr id (fun t =>
            { t with pc := w32 (c.setLocalBytes id 0x5FF0 (leBytes 4 found)).keeperEntryLive, codeGen := (d.group 14).genLive,
                     wait := Wait.idle }.after))
        ∧ (∀ bit, bitOf (evMask (d.isKeeper id)) bit = true →
          let p := d.updThr id (fun t => { t with evp := t.evp ||| w32 (2 ^ bit) })
          ((d.thr id).eventWait = false ∨ (p.thr id).evp.toNat &&& p.waitMask id = 0 → d.event id bit = p)
          ∧ ((d.thr id).eventWait = true → (p.thr id).evp.toNat &&& p.waitMask id ≠ 0 → d.event id bit =
            (if p.deadlineReached id then p.updThr id (fun t => { t with evp := t.evp ||| w32 (2 ^ Ev.time) }) else p).endEventWait
              id))))
  ∧ (∀ (s : State) (id : Tid) (i : Dec) (e : Dev) (evs : List Ev1) (b : Map Word), s.dev.issuesOn id i e evs b →
      (∀ x (tr : Bool), evs = [x] → i.op = (if tr then 0xC9 else 0xC8) →
        let c := chanNo x
        let row : Instr := if tr then .chsendt id else .chsend id
        (e.maySend id c = false → exec row s = .next (s.withDev (e.finishCode id i b Code.notOwner false)))
        ∧ (e.maySend id c = true → (e.chan id.g c).length < 4 →
          exec row s = .next (s.withDev ((e.finishCode id i b Code.ok false).chanPush id.g c (e.staged64 id))))
        ∧ (e.maySend id c = true → 4 ≤ (e.chan id.g c).length → exec row s = .next (s.withDev
          (if tr then (e.updThr id (fun t => { t with chtx := some c })).finishCode id i b Code.failEmpty true
           else (e.startWait id ⟨.chsend, .imm 0, .imm 0, 0, 0, c, e.nextPc id i, e.drip.now, b⟩).setSenders id.g c
             (e.senders id.g c ++ [id])))))
      ∧ (∀ x y n (tr : Bool), evs = [x, y, n] → i.op = (if tr then 0xCB else 0xCA) →
        let c := chanNo n
        let row : Instr := if tr then .chrecvt id else .chrecv id
        (e.chanRx id.g c ≠ some id → exec row s = .next (s.withDev (e.finishCode id i b Code.notOwner false)))
        ∧ (e.chanRx id.g c = some id → ∀ m ms, e.chan id.g c = m :: ms → exec row s = .next (s.withDev
          (((e.recvInto id x.loc y.loc m).finishCode id i b Code.ok false).chanPop id.g c)))
        ∧ (e.chanRx id.g c = some id → e.chan id.g c = [] → exec row s = .next (s.withDev
          (if tr then e.finishCode id i b Code.failEmpty true
           else e.startWait id ⟨.chrecv, x.loc, y.loc, 0, 0, c, e.nextPc id i, e.drip.now, b⟩)))))

/-- TEND (R243) waits while a tag of the thread is outstanding, and otherwise ends the task: the thread is IDLE, or HALTED if a
halt was asked for, with no task. A fault parks its thread with the PC and the class in GALL_FAULT, a record of what faulted,
and FAULT to its keeper (R199, R227); a kill parks it with a new reset generation (R181, R198); UNPARK of a parked thread that
holds no cell makes it IDLE (R200); a keeper starts again with the events that stayed pending (R194). Thread control (R198,
R200, R259): KILL and UNPARK by a keeper on another thread of its gallery, and by the host or the head keeper through
GALL_THR_CTL; a TCTL of a thread that is no keeper raises PRIVILEGE. Beside the rules, it follows the model's choices of
assumptions 29 and 54. -/
def Obligations.ThreadControl : Prop :=
  ((∀ (s : State) (id : Tid) (i : Dec), s.dev.issues id i → i.op = 0x86 →
      ((s.dev.thr id).outstanding = true → exec (.tend id) s = .next (s.withDev
        ((s.dev.unstill id).updThr id (fun t => { t with state := .waiting, wait :=
          ⟨.tend, .imm 0, .imm 0, 0, 0, 0, (s.dev.unstill id).nextPc id i, s.dev.drip.now, t.b⟩ }))))
      ∧ ((s.dev.thr id).outstanding = false → ∃ t, exec (.tend id) s = .next t ∧ t.dev = (s.dev.unstill id).taskEnd id
        ∧ (t.dev.thr id).state = (if (s.dev.thr id).stepping || (s.dev.thr id).haltReq then .halted else .idle)
        ∧ (t.dev.thr id).desc = none ∧ (t.dev.thr id).tags = []))
    ∧ (∀ (d : Dev) (id : Tid) (f : FaultInfo),
        let t := d.thr id
        let o := R.gallFaultPc + 0x40000 * id.g + 8 * d.thrIndex id
        d.faultPark id f = ((((((d.setIo o t.pc.toNat).setIo (o + 4) (f.cls + f.opcode * 2 ^ 8)).setThr id { t with
          state := .parked, killed := false, wait := Wait.idle, running := false, macroRun := none, stepping := false,
          haltReq := false }).stopThread id).incident 14 f.code (ownerTag id) t.pc.toNat
            (f.cls + f.opcode * 2 ^ 8 + f.operand * 2 ^ 16 + f.micro * 2 ^ 20)).parkEvent id))
    ∧ (∀ (d : Dev) (id : Tid), id.g < 16 → id.c < 9 → id.t < 8 →
        ((d.killThread id).thr id).state = .parked ∧ ((d.killThread id).thr id).killed = true
        ∧ ((d.killThread id).thr id).rgen = ((d.thr id).rgen + 1) % 2 ^ 16)
    ∧ (∀ (d : Dev) (id : Tid), (d.thr id).state = .parked → d.cellsOf (ownerTag id) = [] →
        (d.unpark id).1 = Code.ok ∧ ((d.unpark id).2.thr id).desc = none
        ∧ ((d.unpark id).2.thr id).state = (if d.isKeeper id then .ready else .idle)
        ∧ (d.isKeeper id = true → ((d.unpark id).2.thr id).evp = (d.thr id).evp))
    ∧ (∀ (d : Dev) (id : Tid), (d.thr id).state ≠ .parked ∨ d.cellsOf (ownerTag id) ≠ [] → d.unpark id = (Code.reserved, d)))
  ∧ (∀ row ∈ [((fun w g v => Instr.thrKill w g v : Who → Nat → Nat → Instr), 0), (fun w g v => .thrUnpark w g v, 1)], ∀ (s : State),
      (∀ id i e x b t g v, s.dev.issuesOn id i e [x] b → i.op = 0xE6 → s.dev.isKeeper id = true →
        bits x.val 7 6 = row.2 → bits x.val 15 8 = 0 → e.tidAt id.g (bits x.val 2 0) (bits x.val 5 3) = some t → t ≠ id →
        exec (row.1 (.thread id) g v) s = .next (s.withDev
          ((e.thrControl t row.2).2.finishCode id i b (e.thrControl t row.2).1 false)))
      ∧ (∀ id i g v, s.dev.issues id i → i.op = 0xE6 → s.dev.isKeeper id = false →
        exec (row.1 (.thread id) g v) s = .next (s.withDev
          ((s.dev.unstill id).faultPark id ⟨8, Code.notOwner, 0xE6, 0, 0⟩)))
      ∧ (∀ m g v t, m = 2 ∨ m = 3 → g < 16 → v < 2 ^ 8 → s.dev.serving = true → s.dev.noPath m = false →
        bits v 7 6 = row.2 → s.dev.tidAt g (bits v 2 0) (bits v 5 3) = some t →
        exec (row.1 (.master m) g v) s = .next (s.withDev
          ((s.dev.thrControl t row.2).2.setPer m (R.gallThrCtlStat + 0x40000 * g) (s.dev.thrControl t row.2).1))))

/-! ## Helper commands and the dispatcher (chapter 11) -/

/-- HCMD and its retries (R254, R255, R286, R287): a FREE tag and room in the core's queue and the unit's limit accept the
command at once, unless an older retry of the core waits for that room; otherwise the thread retries, accepted later in order of
age or ended with BUSY_RETRY at the retry limit; a tag that is not FREE, or above 15, raises HELPER. An accepted command is last
in its core's queue with its header filled (R283), and its tag is OUTSTANDING. HWAIT, HSAVE and HRESTORE (R256, R257, R292):
HWAIT of an OUTSTANDING tag waits, of a DONE one takes its code and frees it; HSAVE of a queued or running command of a unit
with contexts saves it and frees its tag: the command leaves its queue, and the gallery holds its context, which begins with the
block; HRESTORE of a context the gallery holds resumes it under a FREE tag: the command is queued again as the restoring
thread's, and of any other context completes with RESERVED. HELPER_COMPLETION of a finished command (R288 to R291): a live
issuing thread finds its tag DONE with the code, HELP in EVP and, where it waits in HWAIT for the tag, the code in FLAGS and the
tag FREE; otherwise an effectful command is logged for the keeper, in the next entry of its gallery's orphan log, or lost with a
record where that entry is not consumed, and any other is dropped and counted. Beside the rules, it follows the model's choices
of assumptions 30 and 31. -/
def Obligations.HelperCommands : Prop :=
  (∀ (s : State) (id : Tid),
      (∀ i e x n b, s.dev.issuesOn id i e [x, n] b → i.op = 0xE0 →
        (15 < n.val ∨ (e.thr id).tag n.val ≠ .free → exec (.hcmd id) s = .next (s.withDev (e.helperFault id 0xE0)))
        ∧ (n.val ≤ 15 → (e.thr id).tag n.val = .free →
          (e.helpRoom id (x.val % 16) = true → e.nextRetry id = none → exec (.hcmd id) s = .next (s.withDev
            ((e.finishCode id i b Code.ok false).acceptJob id n.val (leBytes 64 x.val))))
          ∧ (e.helpRoom id (x.val % 16) = false ∨ e.nextRetry id ≠ none → exec (.hcmd id) s = .next (s.withDev
            ((e.startWait id ⟨.hcmd, .imm 0, .imm 0, 0, 0, n.val, e.nextPc id i, e.drip.now, b⟩).onHelp
              (fun h => { h with retries := h.retries ++ [⟨id, n.val, leBytes 64 x.val, e.drip.now⟩] }))))))
      ∧ (∀ r, s.dev.nextRetry id = some r → r.id = id → exec (.hcmdAccept id) s = .next (s.withDev
          ((s.dev.endRetry id Code.ok).acceptJob id r.tag r.block)))
      ∧ (∀ pre r post, s.dev.help.retries = pre ++ r :: post → (∀ q ∈ pre, q.id ≠ id) → r.id = id →
          exec (.hcmdRetryLimit id) s = .next (s.withDev
            (if r.since + s.dev.liveFld R.dispCfg 3 0 ≤ s.dev.drip.now then (s.dev.endRetry id Code.busyRetry).dispCount 2
             else s.dev)))
      ∧ (∀ (d : Dev) (n : Nat) (block : Bytes),
        let a := d.acceptJob id n block
        let t := d.thr id
        let att := match t.desc with | some p => p.attempt % 256 | none => 0
        (a.thr id).tag n = .outstanding ∧ a.helpQ id = d.helpQ id ++ [d.help.nextJob]
        ∧ ∃ j, a.job d.help.nextJob = some j ∧ j.phase = .queued ∧ j.owner = ownerTag id ∧ j.tag = n ∧ j.gen = d.helpGen id
          ∧ j.block = fillHeader (slice block 0 64) (d.helpGen id) (ownerTag id) n att t.rgen)
      ∧ (∀ (d : Dev) code, d.endRetry id code
        = ((d.onHelp (fun h => { h with retries := h.retries.filter (fun r => r.id ≠ id) })).setCode id code false).endWait id))
  ∧ ((∀ (s : State) (id : Tid) (i : Dec) (e : Dev) (evs : List Ev1) (b : Map Word), s.dev.issuesOn id i e evs b →
        (∀ n, i.op = 0xE1 → evs = [n] → n.val ≤ 15 →
          ((e.thr id).tag n.val = .outstanding → exec (.hwait id) s = .next (s.withDev
            (e.startWait id ⟨.hwait, .imm 0, .imm 0, 0, 0, n.val, e.nextPc id i, e.drip.now, b⟩)))
          ∧ (∀ code, (e.thr id).tag n.val = .done code → exec (.hwait id) s = .next (s.withDev
            ((e.finishCode id i b code false).setTag id n.val .free))))
        ∧ (∀ x n k j, i.op = 0xE2 → evs = [x, n] → n.val ≤ 15 → (e.thr id).tag n.val ≠ .free →
          e.jobOfTag id n.val = some (k, j) → hasContext j.unit = true → j.phase = .queued ∨ j.phase = .running →
          exec (.hsave id) s = .next (s.withDev
            (((e.finishCode id i b Code.ok false).saveContext id x.loc k j).setTag id n.val .free)))
        ∧ (∀ x n, i.op = 0xE3 → evs = [x, n] → n.val ≤ 15 → (e.thr id).tag n.val = .free →
          let mine (y : Saved) : Bool := y.gallery = id.g && y.data == leBytes 256 x.val
          (∀ k c pre post, e.help.saved = pre ++ (k, c) :: post → (∀ y ∈ pre, mine y.2 = false) → mine c = true →
            exec (.hrestore id) s = .next (s.withDev ((e.finishCode id i b Code.ok false).resumeContext id n.val k c)))
          ∧ ((∀ y ∈ e.help.saved, mine y.2 = false) →
            exec (.hrestore id) s = .next (s.withDev (e.finishCode id i b Code.reserved false))))
        ∧ (∀ (d : Dev) l k j, (d.savedOf id.g).length < 256 →
          let a := d.saveContext id l k j
          a.helpQ j.tid = (d.helpQ j.tid).erase k
          ∧ ∃ c, spFind a.help.saved d.help.nextSerial = some ⟨id.g, c, { j with phase := .saved }⟩
            ∧ c.length = 256 ∧ c.take 64 = slice j.block 0 64)
        ∧ (∀ (d : Dev) n k c,
          let a := d.resumeContext id n k c
          (a.thr id).tag n = .outstanding ∧ a.helpQ id = d.helpQ id ++ [d.help.nextJob]
          ∧ ∃ j, a.job d.help.nextJob = some j ∧ j.phase = .queued ∧ j.squashed = false ∧ j.issuer = .thread id
            ∧ j.owner = ownerTag id ∧ j.tag = n ∧ j.gen = c.job.gen))
    ∧ (∀ (s : State) (n : Nat) (j : Job), (s.dev.job n = some j → j.phase = .completed →
        exec (.helperCompletion n) s = .next (s.withDev
          (let d := s.dev.onHelp (fun h => { h with jobs := spErase h.jobs n })
           if d.jobLive j then d.tagDone j.tid j.tag j.code else if j.effectful then d.orphanLog j else d.dispCount 3)))
        ∧ (∀ (d : Dev) (id : Tid) tag code, let e := (d.setTag id tag (.done code)).event id Ev.help
          ((e.thr id).state ≠ .waiting → d.tagDone id tag code = e)
          ∧ ((e.thr id).state = .waiting → (e.thr id).wait.kind = .hwait → (e.thr id).wait.what = tag →
            d.tagDone id tag code = ((e.setTag id tag .free).setCode id code false).endWait id))
        ∧ (∀ d : Dev, let g := j.tid.g
          let at_ := 256 * g + spGet 0 d.disp.orphNext g
          (d.orphanBusy at_ = false → d.orphanLog j = (d.dispCount 4).onDisp (fun x => { x with
            orphNext := spSet 0 x.orphNext g ((spGet 0 d.disp.orphNext g + 1) % 256),
            orphWait := x.orphWait ++ [(g, at_, d.orphanBytes j)] }))
          ∧ (d.orphanBusy at_ = true → d.orphanLog j = (d.dispCount 5).incident 12 Code.orphaned j.owner
            (j.unit + j.tag * 2 ^ 4 + j.attempt * 2 ^ 8) j.result))))

/-- The atomic unit (R278 to R281): an operation on a legal, sound place of a DATA table reads the old value, writes the new one
when its rule says so, puts the result area into the issuer's common memory, and completes with OK. What the atomic operations
write (R279): the sum modulo the width, and, or, exclusive or; the swap value only where the compare value stands; the sum only
where it stays within the bound. Beside the rules, it follows the model's choices of assumption 30. -/
def Obligations.AtomicOperations : Prop :=
  (∀ row ∈ atomRows, ∀ (s : State) (n : Nat) (j : Job), s.dev.takes n j 5 = true → j.op4 = row.2 →
      let d := (s.dev.unqueue n j).bump (R.ltchCnt + 40)
      let w := 4 * 2 ^ bits (j.get 16 1) 6 4
      let x := leNat (d.entBytes j.gen (j.get 17 1) (j.get 20 4) (j.get 18 2) w)
      j.headerBad = false → bitOf (j.get 16 1) 7 = false → bits (j.get 16 1) 3 0 = row.2 →
      bits (j.get 16 1) 6 4 ≤ (if row.2 = 4 then 2 else 1) → j.get 28 4 = 0 → j.get 32 16 < 2 ^ (8 * w) →
      j.get 48 16 < 2 ^ (8 * w) → d.entOk j.gen (j.get 17 1) (j.get 20 4) (j.get 18 2) w = true →
      (d.tabEnt j.gen (j.get 17 1)).kind = .data → j.get 18 2 % w = 0 → 0x10000 ≤ j.get 24 4 → j.get 24 4 + 32 ≤ 0x20000 →
      d.memPoisoned (d.tabEnt j.gen (j.get 17 1)).dram ((d.tabEnt j.gen (j.get 17 1)).place (j.get 20 4) (j.get 18 2)) w
        = false →
      exec (row.1 n) s = .next (s.withDev
        (let y := atomOp row.2 (8 * w) x (j.get 32 16) (j.get 48 16)
         let d := if y.2 then d.setEntBytes j.gen (j.get 17 1) (j.get 20 4) (j.get 18 2) (leBytes w y.1) else d
         (d.setLocalBytes j.tid (j.get 24 4) (atomResult x y.2)).finishJob n Code.ok (x % 2 ^ 64))))
  ∧ (∀ w x a b : Nat,
      atomOp 0 w x a b = ((x + a) % 2 ^ w, true) ∧ atomOp 1 w x a b = (x &&& a, true)
      ∧ atomOp 2 w x a b = (x ||| a, true) ∧ atomOp 3 w x a b = (x ^^^ a, true)
      ∧ (x = a → atomOp 4 w x a b = (b, true)) ∧ (x ≠ a → atomOp 4 w x a b = (x, false))
      ∧ (x + b ≤ a → atomOp 5 w x a b = (x + b, true)) ∧ (a < x + b → atomOp 5 w x a b = (x, false)))

/-- The dispatcher (R296 to R299): a dispatch takes the oldest entry of the highest level to the chosen idle thread, with its
chain: the thread is READY at the task's entry point, FLAGS, CNT, EV and EVP 0 (R208); a pipe places its oldest held entry that
has a candidate gallery; the oldest keeper entry is delivered through the keeper's channel. REQUEUE and SUBMIT (R301, R302) of a
keeper: REQUEUE puts the parked thread's task back at the head of its level with its attempt stepped; SUBMIT makes a task of a
pending exception packet; each by another thread completes with NOT_OWNER. Beside the rules, it follows the model's choices of
assumption 54. -/
def Obligations.Dispatcher : Prop :=
  (∀ (s : State) (g : Nat),
      (∀ l id p rest, s.dev.dispatches = true → topLevel (s.dev.ready g) = some l → s.dev.dispatchTo g = some id →
        s.dev.ready g l = p :: rest →
        ∃ t, exec (.dispDispatch g) s = .next t
          ∧ (let d := (s.dev.setReady g l rest).retag p.chain (ownerTag id)
             t = s.withDev
               (((d.startTask id p false).dispCount 0).freeStep.traceRec 0 g p.task (ownerTag id) p.prio (d.freeVal % 2 ^ 32)))
          ∧ (t.dev.thr id).state = .ready ∧ (t.dev.thr id).desc = some p ∧ (t.dev.thr id).tags = []
          ∧ (t.dev.thr id).pc = w32 (s.dev.taskEntry (s.dev.entryGen p) p.task) ∧ (t.dev.thr id).flags = 0
          ∧ (t.dev.thr id).cnt = 0 ∧ (t.dev.thr id).ev = 0 ∧ (t.dev.thr id).evp = 0)
      ∧ (∀ pre p post h, s.dev.holdQ g = pre ++ p :: post → (∀ q ∈ pre, s.dev.holdChoice q = none) →
        s.dev.holdChoice p = some h → exec (.holdPlace g) s = .next (s.withDev
          (let d := s.dev.setHoldQ g (pre ++ post)
           if p.keeperOf.isSome then d.placeKeeper h p
           else (d.onDisp (fun x => { x with lastGal := h })).placeEntry h p p.requeued)))
      ∧ (∀ p : Pkt, p.keeperOf = none → s.dev.holdChoice p = s.dev.chooseGallery (s.dev.taskMask (s.dev.entryGen p) p.task))
      ∧ (∀ (p : Pkt) h, p.keeperOf = some h → s.dev.holdChoice p = (if s.dev.queuedIn h < 4096 then some h else none))
      ∧ (∀ l k p q rest, topLevel (s.dev.keeperReady g) = some l → s.dev.keeper g = some k →
        (List.range 64).find? (fun p => (s.dev.pendingAt g p).isNone) = some p → s.dev.keeperReady g l = q :: rest →
        s.dev.serving = true → s.dev.chanOn g (s.dev.liveFld R.dispCfg 11 4) = true →
        (s.dev.chan g (s.dev.liveFld R.dispCfg 11 4)).length < 4 →
        exec (.exceptionDeliver g) s = .next (s.withDev
          (let d := (s.dev.setKeeperReady g l rest).setLocalBytes k (0x4A00 + 80 * p) (leBytes 80 q.key)
           let d := (d.retag q.chain (ownerTag k)).onDisp (fun x => { x with pending := spPut x.pending (pendKey g p) q })
           (d.chanPush g (s.dev.liveFld R.dispCfg 11 4) ⟨q.excMsg p, 0, 0⟩).freeStep.traceRec 4 g 0xFFFF (ownerTag k) q.prio (d.freeVal % 2 ^ 32)))))
  ∧ (∀ (s : State) (n : Nat) (j : Job), s.dev.takes n j 8 = true → j.headerBad = false →
      let d := s.dev.unqueue n j
      (d.isKeeper j.tid = false → ∀ row ∈ [(Instr.dispRequeue n, 0), (Instr.dispSubmit n, 1)], j.get 16 1 = row.2 →
        exec row.1 s = .next (s.withDev (d.finishJob n Code.notOwner 0)))
      ∧ (∀ id p, d.isKeeper j.tid = true → j.get 16 1 = 0 → d.mode ≠ Mode.limp →
        d.tidAt j.tid.g (bits (j.get 17 1) 2 0) (bits (j.get 17 1) 5 3) = some id →
        (d.thr id).desc = some p → (d.thr id).state = .parked → d.chainOwned (ownerTag j.tid) p.chain = true →
        d.queuedIn j.tid.g < 4096 → ∃ (q : Pkt) (e : Dev), exec (.dispRequeue n) s = .next (s.withDev
            ((e.placeEntry j.tid.g q true).finishJob n Code.ok 0))
          ∧ q.attempt = (p.attempt + 1) % 256 ∧ q.requeued = true ∧ q.chain = p.chain ∧ q.task = p.task
          ∧ (e.thr id).desc = none ∧ e.lard = d.lard)
      ∧ (∀ q g, d.isKeeper j.tid = true → j.get 16 1 = 1 → d.mode ≠ Mode.limp → d.taskMask j.gen (j.get 18 2) ≠ 0 →
        j.get 24 2 ≤ 4095 → d.pendingAt j.tid.g (bits (j.get 17 1) 5 0) = some q →
        d.chainOwned (ownerTag j.tid) q.chain = true →
        d.chooseGallery (d.taskMask j.gen (j.get 18 2)) = some g → ∃ (p : Pkt) (e : Dev), exec (.dispSubmit n) s = .next (s.withDev
            ((e.placeEntry g p false).finishJob n Code.ok 0))
          ∧ p.task = j.get 18 2 ∧ p.taskArg = j.get 20 2 ∧ p.egress = j.get 24 2 ∧ p.attempt = 0 ∧ p.requeued = false
          ∧ p.chain = q.chain ∧ e.pendingAt j.tid.g (bits (j.get 17 1) 5 0) = none))

/-! ## Latches (chapter 10) -/

/-- A thread's access to a Latch (R267 to R269, R273, R274): MOV that reads ACQ or TRY acquires, its result the code, which
FLAGS holds too, or waits; MOV that writes ACQ releases or forces with the low 32 bits of its source, its code in FLAGS. The
host's and the peer's access to a Latch (R277): a read of ACQ or TRY answers the code; a write of REL leaves its code in RSTAT,
and a force completes with NOT_OWNER. -/
def Obligations.LatchAccess : Prop :=
  (∀ (s : State) (id : Tid) (i : Dec) (e : Dev) (x y : Ev1) (b : Map Word), s.dev.issuesOn id i e [x, y] b → i.op = 1 →
      (∀ (tr : Bool), latchWrites i = false → latchReads i (if tr then 4 else 0) = true →
        let row : Instr := if tr then .latchTry id else .latchAcquire id
        let a := e.latchAcquire y.latch (ownerTag id) (e.drip.now + e.latchTimeout y.latch) tr
        (∀ code, a.1 = some code → exec row s = .next (s.withDev
          ((((a.2.putOp id 1 i.width (classOf 1) x code).setBases id b).setCode id code false).advance id i.len)))
        ∧ (a.1 = none → exec row s = .next (s.withDev
          (a.2.updThr id (fun t => { t with state := .waiting, wait :=
            ⟨.latch, x.loc, .imm 0, sizeBytes x.o.size, 0, y.latch, a.2.nextPc id i, a.2.drip.now, b⟩ })))))
      ∧ (latchWrites i = true →
        let v := extendTo i.width 32 (opAt i.ops 0).sx ((evVals i [x, y]).getD 1 0)
        let a := e.latchRelease x.latch (ownerTag id) v
        exec (if v % 4 = 1 then .latchForce id else .latchRelease id) s = .next (s.withDev
          (((a.2.setBases id b).setCode id a.1 false).advance id i.len))))
  ∧ (∀ (s : State) (m : Nat), m = 3 ∨ m = 4 → s.dev.serving = true → s.dev.noPath m = false →
      let n := s.dev.hostLatch m
      (∀ (tr : Bool),
        let a := s.dev.latchAcquire n (masterTag m) (s.dev.drip.now + Nat.min (s.dev.latchTimeout n) 16) tr
        let row : Instr := if tr then .hostLatchTry m else .hostLatchAcquire m
        (∀ code, a.1 = some code → exec row s = .next (s.withDev
          (a.2.onCsr (fun c => { c with rdata := spSet 0 c.rdata m (w32 code) }))))
        ∧ (a.1 = none → exec row s = .next (s.withDev a.2)))
      ∧ exec (.hostLatchRelease m) s = .next (s.withDev
          ((s.dev.latchRelease n (masterTag m) 0).2.setPer m R.ltchHostRstat (s.dev.latchRelease n (masterTag m) 0).1))
      ∧ exec (.hostLatchForce m) s = .next (s.withDev (s.dev.setPer m R.ltchHostRstat Code.notOwner)))

/-- How a Latch changes (R268 to R275): a FREE Latch is granted with OK and a poisoned one with POISONED; one held by another is
refused to an attempt, refused with CYCLE to a requester that its holder waits for, and otherwise joined by the requester as its
last waiter; a release by the holder passes it to the first waiter, else frees it; a release of an ORPHANED Latch, or under
HOLDER_OR_KEEPER by another than the holder, completes with NOT_HOLDER; a force by a keeper that may passes it on poisoned. The
limits of a Latch (R269, R276): a waiter whose limit is reached leaves with TIMEOUT, which a thread's MOV stores, with the code
in FLAGS, and goes on; a Latch held for its group's hold limit makes one incident record for the hold. -/
def Obligations.LatchRules : Prop :=
  (∀ (d : Dev) (n tag dl : Nat) (tr : Bool), d.latchAccess n tag = true →
      let l := d.latch n
      (l.state = .free → ∃ e, d.latchAcquire n tag dl tr = (some Code.ok, e)
          ∧ e.latch n = ⟨.held, tag, d.rgenOf tag, [], d.drip.now, false⟩ ∧ ∀ k, k ≠ n → e.latch k = d.latch k)
      ∧ (l.state = .freePoisoned → ∃ e, d.latchAcquire n tag dl tr = (some Code.poisoned, e)
          ∧ (e.latch n).state = .held ∧ (e.latch n).holder = tag)
      ∧ (l.state = .held → tr = true → ∃ e, d.latchAcquire n tag dl tr = (some Code.timeout, e) ∧ e.latches = d.latches)
      ∧ (l.state = .held → l.holder = tag → tr = false → d.latchTimeout n ≠ 0 →
          ∃ e, d.latchAcquire n tag dl tr = (some Code.cycle, e) ∧ e.latches = d.latches)
      ∧ (l.state = .held → l.holder ≠ tag → d.waitsOn l.holder = none → tr = false → d.latchTimeout n ≠ 0 →
          ∃ e, d.latchAcquire n tag dl tr = (none, e) ∧ (e.latch n).waiters = l.waiters ++ [⟨tag, d.rgenOf tag, dl⟩]
            ∧ (e.latch n).holder = l.holder)
      ∧ (l.state = .held → l.holder = tag → l.rgen = d.rgenOf tag →
          d.latchRelease n tag 0 = (Code.ok, d.latchFree n false)
          ∧ (l.waiters = [] → ∃ (e : Dev), d.latchFree n false = e.latchEvents n ∧ e.latch n = Latch.init))
      ∧ (l.state = .free ∨ l.state = .freePoisoned → d.latchRelease n tag 0 = (Code.doubleFree, d.latchCount 6))
      ∧ (l.state = .orphaned ∨ (l.state = .held ∧ d.latchStrict n = true ∧ l.holder ≠ tag) →
          d.latchRelease n tag 0 = (Code.notHolder, d.latchCount 7))
      ∧ (l.state = .held → l.holder ≠ tag → ∀ m, d.waitsOn l.holder = some m → (d.latch m).holder = tag → tr = false →
          d.latchTimeout n ≠ 0 → ∃ e, d.latchAcquire n tag dl tr = (some Code.cycle, e) ∧ e.latches = d.latches)
      ∧ (l.state = .held → d.latchForcer n tag = true → d.latchRelease n tag 1
          = (Code.ok, ((d.latchCount 5).incident 13 Code.poisoned tag n (l.holder + l.rgen * 2 ^ 12)).latchFree n true))
      ∧ (∀ w ws p, l.waiters = w :: ws → d.latchFree n p
          = (d.latchGrant n w.tag w.rgen p ws).latchAnswer n w (if p then Code.poisoned else Code.ok)))
  ∧ (∀ (s : State) (n : Nat),
      (∀ who w x pre post, s.dev.latches = pre ++ (n, w) :: post → s.dev.latch n = w →
        (∀ y ∈ pre, ∀ z ∈ y.2.waiters, z.tag ≠ whoTag who ∨ s.dev.drip.now < z.deadline) →
        w.waiters.find? (fun x => x.tag = whoTag who && x.deadline ≤ s.dev.drip.now) = some x →
        exec (.latchWaitTimeout who) s = .next (s.withDev
          (((s.dev.latchCount 1).setLatch n { w with waiters := w.waiters.erase x }).latchAnswer n x Code.timeout)))
      ∧ ((s.dev.latch n).state = .held → (s.dev.latch n).reported = false →
        (s.dev.latch n).granted + s.dev.latchHold n ≤ s.dev.drip.now →
        exec (.latchHoldWatchdog n) s = .next (s.withDev
          (((s.dev.latchCount 9).incident 13 Code.timeout (s.dev.latch n).holder n (s.dev.latchHold n)).setLatch n
            { s.dev.latch n with reported := true })))
      ∧ (∀ (d : Dev) (x : LWaiter) (id : Tid) code, tidOfTag x.tag = some id → d.latchAnswer n x code
        = ((d.writeLoc id (d.thr id).codeGen (d.thr id).wait.value code (d.thr id).wait.dst).setCode id code false).endWait id))

/-! ## Seal and hash engines (chapter 12) -/

/-- The seal pool takes a queued command of its unit (R313, R315): one that a check refuses completes with its code, the
poisoned cells it names counted (R470); any other waits in the pool's queue for its admission. The checks of R285 come first,
then the slot's policy and state, then the version, then the reserved values, options, lengths, slot and head. Key slots (R307,
R312): SUSPEND, RESUME and DESTROY by a master of the owner set are held for the boundary; there SUSPEND of an active key and
RESUME of a suspended one act, DESTROY empties the slot, and every other completes with RESERVED. Beside the rules, it follows
the model's choices of assumption 13. -/
def Obligations.SealCommands : Prop :=
  (∀ row ∈ sealRows, ∀ (s : State) (n : Nat) (j : Job), s.dev.takes n j 0 = true → j.sealOp = row.2 →
      let d := s.dev.unqueue n j
      (d.sealCheck j ≠ Code.ok → exec (row.1 n) s = .next (s.withDev
          ((if d.sealCheck j = Code.poisoned then d.countPtrs j.sealPtrs else d).finishJob n (d.sealCheck j) 0)))
      ∧ (d.sealCheck j = Code.ok → exec (row.1 n) s = .next (s.withDev
          ((d.setJob n { j with phase := .running }).onPool (fun p => { p with
            queue := p.queue ++ [⟨n, j.cls, .perform, [], 0, 0, 0, true, [], [], [], [], false, none, false⟩] }))))
      ∧ (d.cmdCheck j j.sealPtrs false ≠ Code.ok → d.sealCheck j = d.cmdCheck j j.sealPtrs false)
      ∧ (d.cmdCheck j j.sealPtrs false = Code.ok →
        (∀ k, j.slotted = true → d.keySlot j.keySlot = some k → d.slotPermits j k = false → d.sealCheck j = Code.notOwner)
        ∧ ((∀ k, j.slotted = true → d.keySlot j.keySlot = some k → d.slotPermits j k = true) →
          (d.sealVersion j = true → d.sealCheck j = Code.versionMismatch)
          ∧ (d.sealVersion j = false → algOf j.alg = none ∨ algAccepts j.alg j.sealOp = false ∨ j.get 22 2 ≠ 0
            ∨ j.sealUnused = true ∨ j.sealOptions = true ∨ j.sealLengths = true ∨ d.sealSlotBad j = true ∨ d.sealHeadBad j = true →
            d.sealCheck j = Code.reserved))))
  ∧ ((∀ row ∈ slotRows, ∀ (s : State) (m n : Nat), n < 2 ^ 16 → s.dev.noPath m = false → s.dev.serving = true →
      s.dev.owns m 15 = true → exec (row.1 m n) s = .next (s.withDev
        (s.dev.onPool (fun p => { p with changes := p.changes ++ [.control m n row.2] }))))
    ∧ (∀ (d : Dev) (n op : Nat), op ≤ 2 →
      (d.keySlot n = none → d.slotControl n op = (Code.reserved, d))
      ∧ (∀ k, d.keySlot n = some k →
        (op = 0 → k.suspended = false → d.slotControl n op = (Code.ok, d.setKeySlot n { k with suspended := true }))
        ∧ (op = 1 → k.suspended = true → d.slotControl n op = (Code.ok, d.setKeySlot n { k with suspended := false }))
        ∧ (op < 2 → k.suspended = (op == 0) → d.slotControl n op = (Code.reserved, d))
        ∧ (op = 2 → (d.slotControl n op).1 = Code.ok ∧ (d.slotControl n op).2.keySlot n = none))))

/-- The arbiter and the engines (R317 to R319): the arbiter places a job on the engine it chooses, a new one only once it is
admitted (R415), never a verification on an engine barred from it; when an engine ends a job its result is taken up by the stage
the job is in; the job that a SIGN, GENERATE or IMPORT makes goes to verification by another engine, with nothing written. A
signature that the verifying engine finds good is released: the slot's count steps, and the signature and the result area are
written (R316, R318); a VERIFY ends with the verdict, SEAL_INVALID on a bad signature (R321). -/
def Obligations.SealPool : Prop :=
  (∀ (s : State) (e : Nat) (it : SealItem), s.dev.serving = true → s.dev.nextSeal e = some it → s.dev.chooseEng it = some e →
    exec (.sealDispatch e) s = .next (s.withDev
      (let d := s.dev.onPool (fun p => { p with adj := p.adj.erase it, queue := p.queue.erase it })
       if it.stage = .perform then d.dispatchNew e it else d.placeJob e it)))
  ∧ (∀ (d : Dev) (e : Nat) (it : SealItem), d.nextSeal e = some it → (it ∈ d.pool.queue ∧ it.adm = true) ∨ (it ∈ d.pool.adj ∧ e ∉ it.banned))
  ∧ (∀ (s : State) (e : Nat) (ok : Bool) (it : SealItem) (rest : List SealItem) (j : Job), s.dev.serving = true →
    (s.dev.eng e).state = .active → (s.dev.eng e).jobs = it :: rest → s.dev.job it.job = some j →
    exec (.sealJobComplete e ok) s = .next (s.withDev
      (let d := s.dev.setEng e { s.dev.eng e with jobs := rest }
       if it.stage = .perform then d.performed e j it ok else d.verified e j it ok)))
  ∧ (∀ (d : Dev) (e : Nat) (ok : Bool) (it : SealItem) (j : Job), j.sealOp = 0 ∨ j.sealOp = 5 ∨ j.sealOp = 6 →
    d.performed e j it ok = d.freeStep.onPool (fun p => { p with adj := p.adj ++
      [{ it with stage := .selfVerify, banned := [e], p1 := e, good := ok, sig := d.produce j it ok }] }))
  ∧ (∀ (d : Dev) (e : Nat) (ok : Bool) (it : SealItem) (j : Job), it.stage = .selfVerify → verdictOwn j it ok = true →
    d.verified e j it ok = d.releaseSig it it.p1 e)
  ∧ (∀ (d : Dev) (p v : Nat) (it : SealItem) (j : Job) (k : KeySlot), d.job it.job = some j → j.sealOp = 0 → it.gone = none →
    d.keySlot j.keySlot = some k → d.releaseSig it p v =
      ((((d.setKeySlot j.keySlot { k with count := k.count + 1, reserved := k.reserved - 1 }).ptrWrite j (j.ptr 40) it.sig).ptrWrite
        j (j.ptr 48) (leBytes 4 it.sig.length ++ leBytes 6 (k.count + 1) ++ leBytes 2 j.keySlot ++ leBytes 1 p ++ leBytes 1 v
          ++ [0, 0])).sealCount 0).finishJob it.job Code.ok (j.keySlot * 2 ^ 48 + (k.count + 1) % 2 ^ 48))
  ∧ (∀ (d : Dev) (it : SealItem) (ok : Bool),
    d.endVerify it ok = (d.sealCount 1).finishJob it.job (if ok then Code.ok else Code.sealInvalid) 0)

/-- The health of seal engines (R322, R323): a job over its limit, a failed known-answer test and a request retire an active
engine; a test that passes is noted; a spare whose test passed becomes active; a hash engine that fails is fenced and recorded
(R325). A retired engine keeps its cause and holds no job, its commands wait at the head of the queue, the spare with the lowest
number starts in its set, and a request that names no active engine completes with RESERVED_VALUE. The health of format engines
(R348): a job over its limit, a failed known-answer test and a request retire an active engine; a test that passes is noted; a
spare whose test passed becomes active. A retired engine keeps its cause, its jobs return to the head of the queue, and the
spare with the lowest number starts. -/
def Obligations.EngineHealth : Prop :=
  (∀ (s : State) (e : Nat), e < 104 →
      ((s.dev.eng e).jobs ≠ [] → exec (.sealJobTimeout e) s = .next (s.withDev (s.dev.retireSeal e 5)))
      ∧ (s.dev.serving = true → (s.dev.eng e).state = .active →
        (s.dev.eng e).lastKat + s.dev.liveFld R.sealCfg 23 8 * 1024 ≤ s.dev.drip.now →
        exec (.sealKat e true) s = .next (s.withDev (s.dev.setEng e { s.dev.eng e with lastKat := s.dev.drip.now }))
        ∧ exec (.sealKat e false) s = .next (s.withDev (s.dev.retireSeal e 4)))
      ∧ ((s.dev.eng e).state = .starting → exec (.sealSpareActive e) s = .next (s.withDev
        (s.dev.setEng e { s.dev.eng e with state := .active, lastKat := s.dev.drip.now })))
      ∧ (∀ m, s.dev.noPath m = false → s.dev.serving = true → s.dev.owns m 15 = true → (s.dev.eng e).state = .active →
        exec (.sealEngRetireRequest m e) s = .next (s.withDev ((s.dev.retireSeal e 7).setPer m R.sealEngCtlStat Code.ok)))
      ∧ (∀ m, s.dev.noPath m = false → s.dev.serving = true → s.dev.owns m 15 = true → (s.dev.eng e).state ≠ .active →
        exec (.sealEngRetireRequest m e) s = .next (s.withDev (s.dev.setPer m R.sealEngCtlStat Code.reserved)))
      ∧ (∀ (d : Dev) (c : Nat), d.pool.engs.length = 104 → (d.eng e).state = .active →
        let r := d.retireSeal e c
        (r.eng e).state = .retired ∧ (r.eng e).cause = c ∧ (r.eng e).jobs = [] ∧ (r.eng e).hs = false
        ∧ ((∀ it ∈ (d.eng e).jobs, it.stage = .perform) → r.pool.queue = (d.eng e).jobs ++ d.pool.queue)
        ∧ (∀ x, (List.range 104).find? (fun x => (d.eng x).state = .spare) = some x →
          (r.eng x).state = .starting ∧ (r.eng x).hs = (d.eng e).hs))
      ∧ (e < 32 → s.dev.serving = true → e ∉ s.dev.pool.hashFenced → exec (.hashEngineFence e) s = .next (s.withDev
        (((s.dev.onPool (fun p => { p with hashFenced := p.hashFenced ++ [e] })).bump R.sealRetireCnt).incident 15
          Code.sealInvalid 0x100 (e + 0x7F * 2 ^ 8 + 8 * 2 ^ 16) 0))))
  ∧ (∀ (s : State) (e : Nat), e < 18 →
      ((s.dev.fmtEng e).jobs ≠ [] → exec (.formatJobTimeout e) s = .next (s.withDev (s.dev.retireFmt e 2)))
      ∧ (s.dev.serving = true → (s.dev.fmtEng e).state = .active →
        (s.dev.fmtEng e).lastKat + s.dev.liveFld R.fmteCfg 16 1 * 1024 ≤ s.dev.drip.now →
        exec (.formatKat e true) s = .next (s.withDev (s.dev.setFmtEng e { s.dev.fmtEng e with lastKat := s.dev.drip.now }))
        ∧ exec (.formatKat e false) s = .next (s.withDev (s.dev.retireFmt e 1)))
      ∧ ((s.dev.fmtEng e).state = .starting → exec (.formatSpareActive e) s = .next (s.withDev
        (s.dev.setFmtEng e { s.dev.fmtEng e with state := .active, lastKat := s.dev.drip.now })))
      ∧ (∀ m, s.dev.noPath m = false → s.dev.serving = true → s.dev.owns m 16 = true → (s.dev.fmtEng e).state = .active →
        exec (.fmteEngRetireRequest m e) s = .next (s.withDev ((s.dev.retireFmt e 5).setPer m R.fmteEngCtlStat Code.ok)))
      ∧ (∀ m, s.dev.noPath m = false → s.dev.serving = true → s.dev.owns m 16 = true → (s.dev.fmtEng e).state ≠ .active →
        exec (.fmteEngRetireRequest m e) s = .next (s.withDev (s.dev.setPer m R.fmteEngCtlStat Code.reserved)))
      ∧ (∀ (d : Dev) (c : Nat), d.fmt.engs.length = 18 → (d.fmtEng e).state = .active →
        let r := d.retireFmt e c
        (r.fmtEng e).state = .retired ∧ (r.fmtEng e).cause = c ∧ (r.fmtEng e).jobs = []
        ∧ r.fmt.queue = (d.fmtEng e).jobs ++ d.fmt.queue
        ∧ (∀ x, (List.range 18).find? (fun x => (d.fmtEng x).state = .spare) = some x → (r.fmtEng x).state = .starting)))

/-- Hash commands (R325): a hash engine takes a queued command while one is not fenced; a sound DIGEST writes the digest of its
input; START and UPDATE write the state of what was absorbed. The format pool takes a queued command of its unit (R343): one
that a check refuses completes with its code and result area; any other waits for an engine, which the arbiter chooses for the
oldest that one has room for (R346). Its translation writes the output, then the result area, and completes with OK, or with
FAIL_FORMAT and no output; every end counts (R344). Beside the rules, it follows the model's choices of assumptions 7 and 58. -/
def Obligations.HashAndFormatCommands : Prop :=
  ((∀ row ∈ hashRows, ∀ (s : State) (n : Nat) (j : Job), s.dev.takes n j 2 = true → j.get 16 1 = row.2 →
      s.dev.pool.hashFenced.length < 32 →
      let a := (s.dev.unqueue n j).hashCmd j
      exec (row.1 n) s = .next (s.withDev (a.dev.finishJob n a.code a.result)))
    ∧ (∀ (d : Dev) (j : Job), j.get 17 1 ≤ 2 → j.inLen ≤ 65536 → d.cmdCheck j j.hashPtrs false = Code.ok →
      d.poisonAns (j.hashPtrs.filter (fun x => x.1 ≠ j.ptr 40)) = none →
      let input := d.ptrBytes j (j.ptr 32) j.inLen
      (j.get 16 1 = 0 → d.hashCmd j = ⟨Code.ok, 0, d.ptrWrite j (j.ptr 40) (hashOf (j.get 17 1) input)⟩)
      ∧ (j.get 16 1 = 1 → d.hashCmd j = ⟨Code.ok, 0, d.hashSave j (j.get 17 1) input⟩)
      ∧ (∀ m, j.get 16 1 = 2 → d.hashFind (d.ptrBytes j (j.ptr 48) 256) = some (j.get 17 1, m) →
        d.hashCmd j = ⟨Code.ok, 0, d.hashSave j (j.get 17 1) (m ++ input)⟩)
      ∧ (∀ m, j.get 16 1 = 3 → d.hashFind (d.ptrBytes j (j.ptr 48) 256) = some (j.get 17 1, m) →
        d.hashCmd j = ⟨Code.ok, 0, d.ptrWrite j (j.ptr 40) (hashOf (j.get 17 1) (m ++ input))⟩))
    ∧ (∀ (d : Dev) (j : Job) (alg : Nat) (m : Bytes), d.hashSave j alg m
      = (d.ptrWrite j (j.ptr 48) (hashArea alg m)).onHelp (fun h => { h with hashes := (alg, m) :: h.hashes })))
  ∧ ((∀ row ∈ [((fun n => Instr.fmtTranslate n : Nat → Instr), 0), (fun n => .fmtValidate n, 1)], ∀ (s : State) (n : Nat) (j : Job),
      s.dev.takes n j 1 = true → j.op4 = row.2 →
      let d := s.dev.unqueue n j
      (∀ c r, d.fmtCheck j = (c, r) → c ≠ 0 → exec (row.1 n) s = .next (s.withDev
          ((if c = Code.poisoned then d.countPtrs [(j.ptr 32, j.inLen)] else d).fmtEnd n j c (FRes.none r))))
      ∧ (∀ r, d.fmtCheck j = (0, r) → exec (row.1 n) s = .next (s.withDev
          ((d.setJob n { j with phase := .running }).onFmt (fun p => { p with queue := p.queue ++ [⟨n, [], []⟩] })))))
    ∧ (∀ (s : State) (e : Nat) (it : FmtItem) (pre post : List FmtItem), s.dev.serving = true →
      s.dev.fmt.queue = pre ++ it :: post → (∀ x ∈ pre, s.dev.chooseFmt x = none) → s.dev.chooseFmt it = some e →
      exec (.formatDispatch e) s = .next (s.withDev
        ((s.dev.onFmt (fun p => { p with queue := pre ++ post })).setFmtEng e
          { s.dev.fmtEng e with jobs := (s.dev.fmtEng e).jobs ++ [it] })))
    ∧ (∀ (s : State) (e : Nat) (ok : Bool) (it : FmtItem) (rest : List FmtItem) (j : Job), s.dev.serving = true →
      (s.dev.fmtEng e).state = .active → (s.dev.fmtEng e).jobs = it :: rest → s.dev.job it.job = some j →
      exec (.formatJobComplete e ok) s = .next (s.withDev
        (let d := s.dev.setFmtEng e { s.dev.fmtEng e with jobs := rest }
         if bitOf (d.at j.gen R.fmteCfg) 0 then d.fmtRun it.job j { it with runs := it.runs ++ [(e, ok)] }
         else d.fmtWrite it.job j ok)))
    ∧ (∀ (d : Dev) (n : Nat) (j : Job) (c : Nat) (r : FRes), d.fmtEnd n j c r =
        (let d := if d.fmtResOk j then d.ptrWrite j (j.ptr 48) r.area else d
         let d := if c = Code.failFormat then (d.fmtCount 1).bump (R.fmteReason + 4 * (r.reason - 1))
           else if c = Code.failEmpty then d.fmtCount 4 else if c = Code.ok then d.fmtCount 0 else d
         d.finishJob n c 0))
    ∧ (∀ (d : Dev) (n : Nat) (j : Job) (p : FProg), d.fmtProg j.gen j.prog = some p →
        let r := d.translate j.gen (if j.validates then 65536 else j.outLen) p (d.ptrBytes j (j.ptr 32) j.inLen)
        (∀ b, r.out = some b → d.fmtWrite n j true
          = (if j.validates then d else d.ptrWrite j (j.ptr 40) b).fmtEnd n j Code.ok r)
        ∧ (r.out = none → ∀ ok, d.fmtWrite n j ok = d.fmtEnd n j Code.failFormat r)))

/-! ## Formats and the Lode (chapter 13) -/

/-- The Lode takes a command of a thread, or of a master that is not busy, which passes its checks (R355, R356, R358): READ
answers the row at once, a search waits for a slot and an update for the boundary, which writes or invalidates the row; a busy
master is refused with BUSY_RETRY, or with the code of an earlier class where its command draws one (R12). Slots and limits of
the Lode (R352, R353, R357): a slot with number 7 modulo 8 takes the oldest update within the drip's budget, another the oldest
search that may run; a W search that has waited 1,024 drips ends with TIMEOUT; the scrubber counts a correctable error and
records a row with an uncorrectable one. Beside the rules, it follows the model's choices of assumptions 19 and 64. -/
def Obligations.LodeCommands : Prop :=
  (∀ row ∈ lodeRows, ∀ (s : State),
      (∀ n j, s.dev.takes n j 4 = true → j.op4 = row.2 →
        let d := s.dev.unqueue n j
        d.cmdCheck j j.lodePtrs false = Code.ok → (d.lodeAskJob j).code = Code.ok →
        d.poisonAns (j.lodePtrs.filter (fun x => x.1 ≠ j.ptr 40)) = none →
        exec (row.1 (.job n)) s = .next (s.withDev
          ((d.setJob n { j with phase := .running }).lodeAccept (.job n) (d.lodeAskJob j))))
      ∧ (∀ m, m = 3 ∨ m = 4 → s.dev.noPath m = false → s.dev.serving = true → (s.dev.lodeAskMaster m).op = row.2 →
        (bitOf (s.dev.per m R.lodeHstat) 0 = true →
          exec (row.1 (.master m)) s = .next (s.withDev (s.dev.refuse m R.lodeHgo
            (if (s.dev.lodeAskMaster m).code = Code.ok then Code.busyRetry else (s.dev.lodeAskMaster m).code))))
        ∧ (bitOf (s.dev.per m R.lodeHstat) 0 = false → (s.dev.lodeAskMaster m).code = Code.ok →
          exec (row.1 (.master m)) s = .next (s.withDev
            ((s.dev.setStat m R.lodeHstat true 0).lodeAccept (.master m) (s.dev.lodeAskMaster m))))
        ∧ (bitOf (s.dev.per m R.lodeHstat) 0 = false → (s.dev.lodeAskMaster m).code ≠ Code.ok →
          exec (row.1 (.master m)) s = .next (s.withDev
            (s.dev.setStat m R.lodeHstat false (s.dev.lodeAskMaster m).code))))
      ∧ (∀ (d : Dev) who (a : LodeAsk),
        let c : LodeCmd := ⟨who, a.op, a.row, a.pf, a.data, a.gen, d.drip.now⟩
        (a.op = 4 → d.lodeAccept who a = (d.lodeDeliver who R.lodeHrow (d.lodeRow a.row).image).lodeEnd who Code.ok 0)
        ∧ (a.op = 2 ∨ a.op = 3 → d.lodeAccept who a = d.onLode (fun l => { l with updates := l.updates ++ [c] }))
        ∧ (a.op < 2 → d.lodeAccept who a = d.onLode (fun l => { l with searches := l.searches ++ [c] })))
      ∧ (∀ (d : Dev) (c : LodeCmd),
        (c.op = 2 → (d.lodeApply c).lodeRow c.row = ⟨leAt c.data 0 36, leAt c.data 36 36, leAt c.data 72 2 % 2 ^ 12,
          bitOf (leAt c.data 72 2) 15, leAt c.data 76 4⟩)
        ∧ (c.op = 3 → (d.lodeApply c).lodeRow c.row = { d.lodeRow c.row with valid := false })
        ∧ (∀ r, r ≠ c.row → (d.lodeApply c).lodeRow r = d.lodeRow r)))
  ∧ (∀ (s : State), s.dev.serving = true →
      (∀ u us, s.dev.lode.slot < s.dev.lodeSlots → s.dev.lode.slot % 8 = 7 →
        s.dev.drip.lodeUsed < s.dev.ioFld R.dripBudget 15 8 → s.dev.lode.updates = u :: us →
        exec .lodeSlot s = .next (s.withDev
          ((s.dev.onDrip (fun p => { p with lodeUsed := p.lodeUsed + 1 })).onLode (fun l => { l with
            slot := l.slot + 1, updates := us, done := l.done ++ [u] }))))
      ∧ (∀ pre c post, s.dev.lode.slot < s.dev.lodeSlots →
        s.dev.lode.slot % 8 ≠ 7 ∨ s.dev.ioFld R.dripBudget 15 8 ≤ s.dev.drip.lodeUsed ∨ s.dev.lode.updates = [] →
        let d := s.dev.onLode (fun l => { l with slot := l.slot + 1 })
        s.dev.lode.searches = pre ++ c :: post → (∀ x ∈ pre, d.mayRun x = false) → d.mayRun c = true →
        exec .lodeSlot s = .next (s.withDev ((d.onLode (fun l => { l with searches := pre ++ post })).lodeSearch c)))
      ∧ (∀ c : LodeCmd, c.op ≠ 1 → s.dev.mayRun c = true)
      ∧ (∀ pre c post, s.dev.lode.searches = pre ++ c :: post → c.op = 1 → c.since + 1024 ≤ s.dev.drip.now →
        (∀ x ∈ pre, x.who ≠ c.who ∨ x.op ≠ 1 ∨ s.dev.drip.now < x.since + 1024) →
        exec (.lodeWTimeout c.who) s = .next (s.withDev
          (((s.dev.onLode (fun l => { l with searches := pre ++ post })).lodeCount 6).lodeEnd c.who Code.timeout 0)))
      ∧ (∀ r, r < 2 ^ 18 → exec (.lodeScrub r 0) s = .next s ∧ exec (.lodeScrub r 1) s = .next (s.withDev (s.dev.lodeCount 8))
        ∧ (r ∉ s.dev.lode.hurt → exec (.lodeScrub r 2) s = .next (s.withDev
          (((s.dev.lodeCount 7).incident 8 Code.orphaned 0x104 r (r / 1024)).onLode (fun l => { l with
            hurt := l.hurt ++ [r] }))))))

/-- A search of the Lode (R351): a row matches when it is valid and sound, its bank is enabled, of the search's class and, for
class T, admits the pre-filter, and the masked key is its value; of the matching rows, listed by number, the winner has the
highest priority and, among equals, the lowest number; with no match there is none. -/
def Obligations.LodeWinner : Prop :=
  (∀ (d : Dev) (gen key pf : Nat) (w : Bool) (x : Nat × LodeRow),
    let c := d.at gen (R.lodeBank0 + 8 * (x.1 / 1024))
    x ∈ d.lodeMatches gen key pf w ↔ x ∈ d.lode.rows ∧ d.lode.hurt.contains x.1 = false ∧ x.2.valid = true ∧ bitOf c 17 = true
      ∧ bitOf c 16 = w ∧ (w = false → pf &&& bits c 15 8 = bits c 7 0) ∧ key &&& x.2.mask = x.2.value)
  ∧ (∀ l : List (Nat × LodeRow), spSorted l = true →
    (lodeBest l = none ↔ l = [])
    ∧ (∀ x, lodeBest l = some x → x ∈ l ∧ ∀ y ∈ l, y.2.prio ≤ x.2.prio ∧ (y.2.prio = x.2.prio → x.1 ≤ y.1)))

/-! ## The Strongroom and the Cellarbook (chapter 14) -/

/-- The Strongroom's commands by a thread (R374 to R377): a command that a check refuses makes a refusal and changes no
register; an accepted TALLY with a step is queued, STAMP answers at once, TOD_SET waits for the edge and CAL_SET for its
boundary. The host and the peer are refused TALLY and STAMP with NOT_OWNER; their TOD_SET and CAL_SET are taken as a thread's,
and a command of theirs while one runs is refused with BUSY_RETRY, or with the code that stands before it in R12. A refusal of a
TALLY makes an incident; a CAL_SET is checked for its version, its reserved fields, the change counter and its signature, in
that order (R377). A TALLY adds its increments to the registers of its class, within the ranges of R377, its result area the
registers after it; a boundary applies the oldest within the drip's budget, keeps the others in their order and counts them
(R33, R375). A CAL_SET applied steps the change counter by one and sets the calibration, the time or the key that its target
names (R370, R373, R375, R376). Beside the rules, it follows the model's choices of assumptions 33 and 64. -/
def Obligations.StrongroomCommands : Prop :=
  (∀ row ∈ srRows, ∀ (s : State),
      (∀ n j, s.dev.takes n j 7 = true → srOp (slice j.block 16 48) = row.2 → s.dev.strong.powered = true →
        let d := (s.dev.unqueue n j).setJob n { j with phase := .running }
        let b := slice j.block 16 48
        let block := if row.2 = 3 then d.ptrBytes j (j.ptr 32) 256 else []
        (d.srJobCode n j b block ≠ Code.ok →
          exec (row.1 (.job n)) s = .next (s.withDev (d.srRefuse (.job n) b (d.srJobCode n j b block))))
        ∧ (d.srJobCode n j b block = Code.ok → d.poisonAns (j.srPtrs.filter (fun x => x.2 = 256)) = none →
          ∃ (e : Dev), exec (row.1 (.job n)) s = .next (s.withDev e)
            ∧ (row.2 = 0 → srCount b ≠ 0 ∨ srValue b ≠ 0 →
                e = d.onStrong (fun x => { x with queue := x.queue ++ [⟨.job n, b, d.drip.now⟩] }))
            ∧ (row.2 = 0 → srCount b = 0 → srValue b = 0 →
                e = d.finishJob n Code.ok (srClass b * 2 ^ 54 + (d.strong.tally (srClass b)).count % 2 ^ 54))
            ∧ (row.2 = 1 → ∃ v,
                e = ((d.strongPass.freeStep.onStrong (fun x => { x with serial := x.serial + 1 })).srDeliver (.job n) b
                  (leBytes 8 d.strongPass.srTime ++ leBytes 8 d.strongPass.stStat ++ leBytes 8 d.strong.serial)).finishJob n
                    Code.ok v)
            ∧ (row.2 = 2 → e = d.onStrong (fun x => { x with todWait := x.todWait ++ [⟨.job n, b, d.drip.now⟩] }))
            ∧ (row.2 = 3 → e = d.onStrong (fun x => { x with cals := x.cals ++ [⟨.job n, block⟩] }))))
      ∧ (∀ m, m = 3 ∨ m = 4 → s.dev.noPath m = false → s.dev.serving = true → s.dev.strong.powered = true →
        let d := s.dev.setStat m R.bookSrcmdStat true 0
        let b := s.dev.perBytes m R.bookSrcmd 12
        srOp b = row.2 →
        (bitOf (s.dev.per m R.bookSrcmdStat) 0 = true → exec (row.1 (.master m)) s = .next (s.withDev
          (s.dev.refuse m R.bookSrcmdGo (if s.dev.srGoCode m b ≠ Code.ok then s.dev.srGoCode m b
            else if srBad b then Code.reserved else Code.busyRetry))))
        ∧ (bitOf (s.dev.per m R.bookSrcmdStat) 0 = false →
        (row.2 ≤ 1 ∨ d.srAllowed (.master m) row.2 = false →
          exec (row.1 (.master m)) s = .next (s.withDev (d.srRefuse (.master m) b Code.notOwner)))
        ∧ (row.2 = 2 → d.srAllowed (.master m) 2 = true → srBad b = false → d.strong.state = 0 →
          exec (row.1 (.master m)) s = .next (s.withDev
            (d.onStrong (fun x => { x with todWait := x.todWait ++ [⟨.master m, b, d.drip.now⟩] }))))
        ∧ (row.2 = 2 → d.srAllowed (.master m) 2 = true → srBad b = true ∨ d.strong.state ≠ 0 →
          exec (row.1 (.master m)) s = .next (s.withDev (d.srRefuse (.master m) b Code.reserved)))
        ∧ (row.2 = 3 → d.srAllowed (.master m) 3 = true → d.dmaCode m ≠ Code.ok →
          exec (row.1 (.master m)) s = .next (s.withDev (d.srRefuse (.master m) b (d.dmaCode m))))
        ∧ (row.2 = 3 → d.srAllowed (.master m) 3 = true → d.dmaCode m = Code.ok →
          exec (row.1 (.master m)) s = .next (s.withDev ((d.dmaRead m (leAt b 16 8) 256 (.cal b)).onStrong
            (fun x => { x with asked := x.asked ++ [⟨.master m, b, d.drip.now⟩] }))))))
      ∧ (∀ (d : Dev) src b c, d.srRefuse src b c
        = (if srOp b = 0 then d.incident 25 c (d.srActor src) (srClass b) 0 else d).srEnd src c 0)
      ∧ (∀ (d : Dev) b block, srOp b = 3 → srBad b = false →
        (leAt block 4 1 ≠ 1 → d.srCode b block = Code.versionMismatch)
        ∧ (leAt block 4 1 = 1 → calBad block = true → d.srCode b block = Code.reserved)
        ∧ (leAt block 4 1 = 1 → calBad block = false → leAt block 16 4 ≠ d.strong.chg → d.srCode b block = Code.superseded)
        ∧ (leAt block 4 1 = 1 → calBad block = false → leAt block 16 4 = d.strong.chg →
          d.strong.calSigned block = false ∨ d.strong.sealOk = false → d.srCode b block = Code.sealInvalid)))
  ∧ ((∀ (x : Strong) (b : Bytes) (drip : Nat),
      let t := x.tally (srClass b)
      (t.count + srCount b < 2 ^ 64 → -2 ^ 95 ≤ t.amount + srValue b → t.amount + srValue b < 2 ^ 95 →
        x.tallied b drip = some ⟨t.count + srCount b, t.amount + srValue b, drip⟩)
      ∧ (2 ^ 64 ≤ t.count + srCount b ∨ t.amount + srValue b < -2 ^ 95 ∨ 2 ^ 95 ≤ t.amount + srValue b →
        x.tallied b drip = none))
    ∧ (∀ (x : Strong) (b : Bytes), calTarget b ≤ 67 → (x.calApply b).chg = x.chg + 1
      ∧ (calTarget b < 64 → ∀ i < 3,
          spGet 0 (x.calApply b).ucal (0x3000 + 16 * calTarget b + 4 * i) = w32 (leAt b (24 + 4 * i) 4))
      ∧ (calTarget b = 64 → spGet 0 (x.calApply b).ucal 0x3400 = w32 (leAt b 24 4))
      ∧ (calTarget b = 65 → spGet 0 (x.calApply b).ucal 0x3404 = w32 (leAt b 24 4))
      ∧ (calTarget b = 67 → (x.calApply b).calKey = some (slice b 24 32))
      ∧ (calTarget b ≠ 66 → (x.calApply b).time = x.time)
      ∧ (calTarget b = 66 → (x.calApply b).time = ((x.time : Int) + 256 * toSigned 64 (leAt b 24 8)).toNat)
      ∧ (calTarget b ≠ 67 → (x.calApply b).calKey = x.calKey))
    ∧ (∀ (d : Dev) (c : SrCmd),
      (d.strong.tallied c.body d.drip.now = none → d.tallyStep c = d.srRefuse c.src c.body Code.reserved)
      ∧ (∀ t, d.strong.tallied c.body d.drip.now = some t → d.tallyStep c
        = ((d.onStrong (fun x => { x with tallies := spSet Tally.init x.tallies (srClass c.body) t })).srDeliver c.src c.body
            (leBytes 8 t.count ++ leBytes 12 (ofSigned 96 t.amount) ++ leBytes 8 t.drip)).srEnd c.src Code.ok
            (srClass c.body * 2 ^ 54 + t.count % 2 ^ 54)))
    ∧ (∀ d : Dev, d.strong.powered = true → let n := d.ioFld R.dripBudget 23 16
      (∀ now later, d.strong.queue = now ++ later → now.length = n ∨ (now.length ≤ n ∧ later = []) → d.tallyBoundary
        = (now.foldl Dev.tallyStep (d.onStrong (fun x => { x with queue := later }))).bumpBy R.dripOverTally later.length)))

/-- The timescale (R361 to R365, R375): the states that a loss of the reference, its return and its edges lead to; the next edge
sets the time for the waiting TOD_SET; an edge measures the polarity of PPS_IN in Survey mode and while the reference is not
valid; PPS_OUT rises once for each second; a command not completed within 64 drips ends with TIMEOUT, an incident and a step of
its counter. What the Strongroom's power and seal do, and its inspection port (R371, R372, R378, R387, R503): the first cause
breaks the seal for good, with its record and incident; a re-hash that agrees changes nothing; power brings the tallies of the
newer checkpoint and state UNSET; the port reads words and counts any other command byte. Beside the rules, it follows the
model's choices of assumptions 2, 33 and 59. -/
def Obligations.StrongroomTime : Prop :=
  (∀ (s : State), s.dev.strong.powered = true →
      (∀ c ≤ 3, ∃ t, exec (.referenceLoss c) s = .next t
        ∧ t.dev.strong.state
            = (if s.dev.strong.state = 3 then 4 else if s.dev.strong.state = 2 then 1 else s.dev.strong.state)
        ∧ (if c ≤ 1 then t.dev.strong.tclkOk else t.dev.strong.ppsOk) = false)
      ∧ (16 ≤ s.dev.strong.good → ∃ t, exec .referenceValid s = .next t
        ∧ t.dev.strong.state
            = (if s.dev.strong.state = 1 ∨ s.dev.strong.state = 4 then 2 else s.dev.strong.state)
        ∧ t.dev.strong.tclkOk = true ∧ t.dev.strong.ppsOk = true)
      ∧ (∀ o h l c cs, s.dev.strong.todWait = c :: cs → s.dev.strong.state = 0 → ∃ t, exec (.ppsEdge o h l) s = .next t
        ∧ t.dev.strong.state = 1 ∧ t.dev.strong.todWait = [])
      ∧ (∀ o h l, s.dev.strong.todWait = [] → s.dev.strong.state < 2 ∨ s.dev.strong.state = 4 →
        ∃ t, exec (.ppsEdge o h l) s = .next t ∧ t.dev.strong.good = s.dev.strong.good + 1
          ∧ (s.dev.strong.state ≠ 4 → t.dev.strong.time = s.dev.strong.time + o * 256 / 1000)
          ∧ t.dev.strong.state = s.dev.strong.state
          ∧ t.dev.strong.ppsPol = (if s.dev.mode = Mode.survey ∨ s.dev.strong.ppsOk = false ∨ s.dev.strong.tclkOk = false
              then ppsFalling h l else s.dev.strong.ppsPol))
      ∧ (let d := s.dev.strongPass
         exec .ppsOutPulse s = .next (s.withDev (if d.strong.ppsLast = d.ppsSecond then d
           else (d.onStrong (fun x => { x with ppsLast := d.ppsSecond })).emit .ppsPulse)))
      ∧ (∀ src c, src ≠ .master 1 → c ∈ s.dev.strong.queue ++ s.dev.strong.asked ++ s.dev.strong.lost → c.src = src →
        c.accepted + 64 ≤ s.dev.drip.now →
        ∃ (e : Dev), exec (.srCommandTimeout src) s = .next (s.withDev
            (((e.bump (R.bookCnt + 8)).incident 25 Code.timeout (e.srActor src) 0 0).srEnd src Code.timeout 0))
          ∧ c ∉ e.strong.queue ++ e.strong.asked ++ e.strong.lost
          ∧ (c ∈ s.dev.strong.asked → ∀ m, src = .master m → ∀ x ∈ e.host.reads, x.2.isCal m = false))
      ∧ (∀ (d : Dev) n m c r, d.srEnd (.job n) c r = d.finishJob n c r
        ∧ (m ≠ 0 → m ≠ 1 → d.srEnd (.master m) c r = d.setStat m R.bookSrcmdStat false c ∧ d.srActor (.master m) = actorMaster m)))
  ∧ (∀ (s : State),
      (∀ c, 1 ≤ c → c ≤ 6 → s.dev.strong.powered = true →
        (s.dev.strong.sealOk = true →
          let k := s.dev.strong.cause ||| 2 ^ c
          let d := s.dev.onStrong (fun x => { x with sealOk := false, cause := k })
          exec (.sealBreak c) s = .next (s.withDev (((if s.dev.book.started
              then d.chainRec ⟨4, [], 0, 0, 0, 0, 0, 0, 0, leBytes 4 k⟩ none
              else d.onStrong (fun x => { x with owed := x.owed ++ [⟨4, [], 0, 0, 0, 0, 0, 0, 0, leBytes 4 k⟩] })).incident
            25 Code.sealInvalid 0 k 0))))
        ∧ (s.dev.strong.sealOk = false → exec (.sealBreak c) s = .next (s.withDev
          (s.dev.onStrong (fun x => { x with sealOk := false, cause := x.cause ||| 2 ^ c })))))
      ∧ (s.dev.mode = Mode.service → s.dev.drip.now % 2 ^ 20 = 0 →
        exec (.romRehash true) s = .next s ∧ exec (.romRehash false) s = .next (s.withDev (s.dev.breakSeal 1)))
      ∧ (∀ newer found, s.dev.strong.powered = false → ∃ t, exec (.srPowerUp newer found) s = .next t
        ∧ t.dev.strong.powered = true
        ∧ t.dev.strong.sealOk = (s.dev.strong.sealOk && !bitOf found 1 && !bitOf found 2))
      ∧ (∀ newer found, s.dev.strong.powered = false → bitOf found 1 = false → bitOf found 2 = false →
        ∃ t, exec (.srPowerUp newer found) s = .next t
        ∧ t.dev.strong.powered = true ∧ t.dev.strong.state = 0 ∧ t.dev.strong.time = 0
        ∧ t.dev.strong.sealOk = s.dev.strong.sealOk ∧ t.dev.strong.chg = s.dev.strong.chg
        ∧ t.dev.strong.calKey = s.dev.strong.calKey ∧ t.dev.strong.root = s.dev.strong.root
        ∧ t.dev.strong.tallies
            = (if newer then s.dev.strong.ckptNew else s.dev.strong.ckptOld).map (fun e => (e.1, { e.2 with drip := 0 })))
      ∧ (s.dev.strong.powered = true → ∃ t, exec .srPowerLoss s = .next t ∧ t.dev.strong.powered = false
        ∧ t.dev.strong.sealOk = s.dev.strong.sealOk ∧ t.dev.strong.cause = s.dev.strong.cause
        ∧ t.dev.strong.queue = [] ∧ t.dev.strong.asked = [] ∧ t.dev.strong.ckptNew = s.dev.strong.ckptNew)
      ∧ (∀ a n, s.dev.strong.powered = true → let d := s.dev.strongPass
        exec (.inspectionRead a n) s = .next (s.withDev
          (d.emit (.inspection ((List.range n).flatMap (fun i => leBytes 4 (d.strgWord (4 * ((a + i) % 2 ^ 24)))))))))
      ∧ (∀ c n, s.dev.strong.powered = true → c % 256 ≠ 0x0B → exec (.inspectionBadCommand c n) s = .next (s.withDev
          ((s.dev.onStrong (fun x => { x with inspBad := Nat.min (x.inspBad + 1) 255 })).emit
            (.inspection (List.replicate n 0xFF))))))

/-- A record (R380, R381): APPEND chains the record that its command gives; the chain value is the SHA3-256 of the one before
with bytes 0 to 95 of the record, and the record takes the next number and the next slot. Pages and their export (R383 to R386):
a page that is over ends with PAGE_END and 32 reserved slots; the oldest page that the Strongroom signs gets its seal block, and
the Strongroom keeps its number and root as the last that it signed; a written page goes to the target; an acknowledgement at a
page boundary moves the pointer, any other is RESERVED_VALUE; without one for the resend time the export starts again. A page
that goes to the host needs a sound ring size, the host as bus master and room, and moves the export pointer past itself (R458).
Beside the rules, it follows the model's choices of assumptions 34 and 59. -/
def Obligations.CellarbookRing : Prop :=
  ((∀ (s : State) (n : Nat) (j : Job), s.dev.takes n j 6 = true →
      let d := (s.dev.unqueue n j).settlePage
      d.cmdCheck j j.bookPtrs (d.bookBad j) = Code.ok → d.poisonAns (j.bookPtrs.filter (fun x => x.2 ≠ 16)) = none →
      (d.bookFull = false → exec (.bookAppend n) s = .next (s.withDev
        (((d.setJob n { j with phase := .running }).bookCount 0).chainRec (d.bookRecord j) (some n))))
      ∧ (d.bookFull = true → exec (.bookAppend n) s = .next (s.withDev (d.bookRefuse n j))))
    ∧ (∀ (d : Dev) (r : RecBody) (drip : Nat) (src : Option Nat),
        let e := d.chainRecAt r drip src
        e.book.chain = sha3_256 (d.book.chain ++ d.recBytes r drip)
        ∧ e.book.newRecs = d.book.newRecs ++ [⟨d.book.wp, d.recBytes r drip ++ e.book.chain, src⟩]
        ∧ e.book.num = d.book.num + 1 ∧ e.book.wp = d.book.wp + 1 ∧ e.strong = d.strong))
  ∧ (∀ (s : State),
      (s.dev.pageDue = true → ∃ t, exec .pageEnd s = .next t ∧ t.dev.book.cur = s.dev.book.cur + 1
        ∧ t.dev.book.wp = s.dev.book.wp + 33 ∧ t.dev.book.slot = t.dev.book.wp ∧ t.dev.book.num = s.dev.book.num + 1
        ∧ t.dev.book.first = t.dev.book.num ∧ t.dev.book.prev = t.dev.book.chain)
      ∧ (∀ pre p post, s.dev.book.pages = pre ++ p :: post → p.state = .waiting → p.head ≠ [] →
        (∀ q ∈ pre, q.state ≠ .waiting ∨ q.head = []) → (∀ q ∈ pre ++ post, q.num ≠ p.num) → s.dev.strong.powered = true →
        ∃ t, exec .sealBlockWritten s = .next t ∧ t.dev.book.pages = pre ++ { p with state := .written } :: post
          ∧ t.dev.book.wp = s.dev.book.wp ∧ t.dev.strong = s.dev.strong.signPage)
      ∧ (∀ (x : Strong) p r ps, x.closing = (p, r) :: ps → x.signPage.page = p ∧ x.signPage.root = r ∧ x.signPage.closing = ps)
      ∧ (∀ p, s.dev.serving = true → s.dev.exportNext = some p →
        (s.dev.liveFld R.bookCfg 1 0 = 1 → exec .exportPage s = .next (s.withDev (s.dev.exportHost p)))
        ∧ (s.dev.liveFld R.bookCfg 1 0 = 2 → exec .exportPage s = .next (s.withDev (s.dev.exportBay p))))
      ∧ (∀ m v, v < 2 ^ 32 → s.dev.noPath m = false → s.dev.serving = true → s.dev.owns m 17 = true →
        let n := s.dev.io R.bookAckLo + 2 ^ 32 * v
        (s.dev.ackOk n = true → exec (.bookAckWrite m v) s = .next (s.withDev (s.dev.bookAck n)))
        ∧ (s.dev.ackOk n = false → exec (.bookAckWrite m v) s = .next (s.withDev
            ((s.dev.setIo64 R.bookAckLo s.dev.book.ack).refuse m R.bookAckHi Code.reserved))))
      ∧ (s.dev.serving = true → s.dev.book.exp ≠ s.dev.book.ack →
        s.dev.book.ackDrip + 64 * s.dev.liveFld R.bookCfg 21 14 ≤ s.dev.drip.now →
        exec .exportResend s = .next (s.withDev
          ((s.dev.bookCount 4).onBook (fun k => { k with exp := k.ack, ackDrip := s.dev.drip.now }))))
      ∧ (∀ (d : Dev) (p : Page), 2 ≤ d.hostMinor → let z := d.ioFld R.hostExpSize 5 0
        (z < 27 ∨ 36 < z → d.exportHost p = d)
        ∧ (27 ≤ z → z ≤ 36 → d.busMaster 1 = false → d.exportHost p = d.setIo R.hostExpStat Code.notOwner)
        ∧ (27 ≤ z → z ≤ 36 → d.busMaster 1 = true → 2 ^ z / 128 < p.past - d.book.ack → d.exportHost p = d)
        ∧ (27 ≤ z → z ≤ 36 → d.busMaster 1 = true → p.past - d.book.ack ≤ 2 ^ z / 128 → (d.exportHost p).book.exp = p.past))
      ∧ (∀ (d : Dev) (p : Page), (d.exportBay p).book.exp = p.past)
      ∧ (∀ (d : Dev) v, (d.bookAck v).book.ack = v ∧ (d.bookAck v).book.pages = d.book.pages.filter (fun p => v < p.past)
        ∧ (d.book.ack < v → (d.bookAck v).book.ackDrip = d.drip.now)))

/-! ## DRAM and arbiters (chapter 16) -/

/-- Reads of DRAM (R406 to R408): a clean line changes nothing, one device in error is corrected and counted for it, more make
the line poisoned; a read of a poisoned line or of a failed channel counts as such and aborts the session whose record it holds;
the scrubber reads the next line, passes over a poisoned one and starts a new pass at the end. Beside the rules, it follows the
model's choices of assumption 35. -/
def Obligations.DramReads : Prop :=
  (∀ errs : List Nat, lineVerdict errs = .clean ↔ ∀ e ∈ errs, e = 0)
  ∧ (∀ (errs : List Nat) (n : Nat), n < 10 → (lineVerdict errs = .device n ↔
      (n + 1) ∈ errs ∧ ∀ e ∈ errs, e = 0 ∨ e = n + 1))
  ∧ (∀ (s : State) (a r ses ch ca : Nat) (errs : List Nat), s.dev.dramMap a = some (ch, ca) →
      let lost (d : Dev) : Dev := match d.sesAt a ses with
        | some n => if r = 1 ∨ r = 2 then d.abortSes n d.sesGen false none else d
        | none => d
      (s.dev.chanState ch = 2 → s.dev.linePoisoned ch ca = false →
        let d := s.dev.lineRead ch ca r errs
        exec (.dramReadComplete a ⟨r, ses⟩ errs) s = .next (s.withDev (if lineVerdict errs = .uncorrectable then lost d else d)))
      ∧ (s.dev.chanState ch = 2 ∧ s.dev.linePoisoned ch ca = true ∨ s.dev.chanState ch = 5 →
        exec (.dramReadComplete a ⟨r, ses⟩ errs) s = .next (s.withDev (lost (s.dev.chanCount ch 2)))))
  ∧ (∀ (d : Dev) (a ses : Nat),
      (∀ n k, n < d.sess.max → k < 512 → a = d.sess.base + 512 * n + k → d.sesAt a ses = some n)
      ∧ (d.sess.base + 512 * d.sess.max ≤ a → a < d.sess.base + 528 * d.sess.max → d.sesAt a ses = some ses)
      ∧ (a < d.sess.base ∨ d.sess.base + 528 * d.sess.max ≤ a → d.sesAt a ses = none))
  ∧ (∀ (d : Dev) (ch ca r : Nat) (errs : List Nat),
      (lineVerdict errs = .clean → d.lineRead ch ca r errs = d)
      ∧ (∀ n, lineVerdict errs = .device n →
        let o := chanOff ch R.dramDevCe + 4 * (20 * d.rankOf ca + 10 * d.subOf ca + n)
        let c := Nat.min (d.io o + 1) 0xFFFF
        c < d.liveFld R.dramScrub 23 8 → d.lineRead ch ca r errs = (d.chanCount ch 0).setIo o c)
      ∧ (∀ a, d.dramUnmap ch ca = some a → spGet false (d.lineUe ch ca r).dmem.poison (a / 64) = true)
      ∧ (((d.dchan ch).ue.filter (fun t => d.drip.now < t + 1024)).length < 63 →
        d.lineUe ch ca r = (((d.poisonLine ch ca).chanCount ch 1).updChan ch (fun c => { c with
          ue := ((d.poisonLine ch ca).dchan ch).ue.filter (fun t => d.drip.now < t + 1024) ++ [d.drip.now] })).incident 20
            Code.poisoned (r % 2 ^ 12) (d.lineArg ch ca 1) (bits ca 35 6)))
  ∧ (∀ (s : State) (ch : Nat) (errs : List Nat), ch ≤ 7 → s.dev.chanState ch = 2 →
      let at_ := (s.dev.dchan ch).scrubAt
      let d := if s.dev.linePoisoned ch (64 * at_) then s.dev else s.dev.lineRead ch (64 * at_) 0 errs
      (d.dchan ch).scrubAt = at_ →
        (64 * (at_ + 1) < d.chanCap →
          exec (.dramScrubRead ch errs) s = .next (s.withDev (d.updChan ch (fun c => { c with scrubAt := at_ + 1 }))))
        ∧ (d.chanCap ≤ 64 * (at_ + 1) → ∃ e : Dev, exec (.dramScrubRead ch errs) s = .next (s.withDev e)
          ∧ (e.dchan ch).scrubAt = 0 ∧ (e.dchan ch).told = []
          ∧ e.io (chanOff ch R.dramChCnt + 12) = (d.chanCount ch 3).io (chanOff ch R.dramChCnt + 12)
          ∧ ∀ k < 40, e.io (chanOff ch R.dramDevCe + 4 * k) = 0))

/-- The scheduler of a subchannel (R403 to R405, R412): a rank that owes five refreshes is refreshed first, and while nothing
waits any that is owed; of waiting requests the oldest that has reached the age limit is served, else the oldest row hit of the
mode, else the oldest of the mode; a write does not pass a read of its line that came before it, and a read that a queued write
answers needs no access; the request leaves its queue and its row stays open; four alerts fail the channel. The queues list
their requests by age, which entering and serving keep. The channels' states (R402, R405, R409, R410, R412): a refresh comes
due; an idle, parked channel enters self-refresh and a request wakes it; a failure empties the queues and is recorded; drift
moves a lane's delay by one step, is reported once beyond 8 steps and fails the channel beyond 16. Beside the rules, it follows
the model's choices of assumptions 35 and 63. -/
def Obligations.DramScheduling : Prop :=
  ((∀ (s : State) (ch sub ns alerts : Nat), ch ≤ 7 → sub ≤ 1 → s.dev.chanState ch = 2 →
      let d := s.dev.bumpBy (chanOff ch R.dramChCnt + 40) (Nat.min alerts 3)
      let c := s.dev.dchan ch
      let q := c.subs.getD sub SubCh.init
      let w := q.mode (d.liveFld R.dramSched 14 8)
      (4 ≤ alerts → exec (.dramCommandIssue ch sub ns alerts) s = .next (s.withDev (d.failChan ch 8)))
      ∧ (alerts ≤ 3 → ∀ r, [0, 1].find? (fun r => 5 ≤ spGet 0 c.owed r) = some r →
        exec (.dramCommandIssue ch sub ns alerts) s = .next (s.withDev ((d.updChan ch (fun c => c.refresh r)).chanCount ch 7)))
      ∧ (alerts ≤ 3 → (∀ k < 2, spGet 0 c.owed k < 5) → q.reads = [] → q.writes = [] →
        (∀ r, [0, 1].find? (fun r => 1 ≤ spGet 0 c.owed r) = some r →
          exec (.dramCommandIssue ch sub ns alerts) s = .next (s.withDev (d.updChan ch (fun c => c.refresh r))))
        ∧ ((∀ k < 2, spGet 0 c.owed k = 0) → exec (.dramCommandIssue ch sub ns alerts) s = .next (s.withDev d)))
      ∧ (∀ p : DramPick, alerts ≤ 3 → (∀ k < 2, spGet 0 c.owed k < 5) → q.reads ≠ [] ∨ q.writes ≠ [] →
        q.pick w (100 * d.liveFld R.dramSched 7 0) (d.nsAt ns) = some p →
        exec (.dramCommandIssue ch sub ns alerts) s = .next (s.withDev
          (let e := (d.updChan ch (fun c => { c with
              subs := c.subs.set sub (q.serve w (d.liveFld R.dramSched 22 16) p) })).chanCount ch
                (if spFind q.rows p.req.bank = some p.req.row then 4 else 5)
           if p.aged then e.chanCount ch 6 else e))))
    ∧ (∀ (q : SubCh) (hi : Nat), (q.mode hi = true ↔ q.writes ≠ [] ∧ (q.writing = true ∨ q.reads = []) ∨
        q.writing = false ∧ hi ≤ q.writes.length))
    ∧ (∀ (q : SubCh) (x : DramReq), (x ∈ q.freeWrites ↔ x ∈ q.writes ∧ ∀ y ∈ q.reads, y.line ≠ x.line)
        ∧ (x ∈ q.freeReads ↔ x ∈ q.reads ∧ x.fwd = false))
    ∧ (∀ (q : SubCh) (w : Bool) (cap now : Nat),
        q.reads.Pairwise (fun a b => a.since ≤ b.since) → q.writes.Pairwise (fun a b => a.since ≤ b.since) →
        let k := w && q.freeWrites ≠ []
        let l := if k then q.freeWrites else q.freeReads
        (l ≠ [] → q.pick w cap now ≠ none)
        ∧ ∀ p, q.pick w cap now = some p →
          (p.aged = true → p.req ∈ (if p.write then q.freeWrites else q.freeReads) ∧ cap ≤ now - p.req.since
            ∧ ∀ x ∈ q.freeReads ++ q.freeWrites, p.req.since ≤ x.since)
          ∧ (p.aged = false → p.write = k ∧ p.req ∈ l ∧ (∀ x ∈ q.freeReads ++ q.freeWrites, now - x.since < cap)
            ∧ ((∃ x ∈ l, spFind q.rows x.bank = some x.row) → spFind q.rows p.req.bank = some p.req.row
              ∧ ∀ x ∈ l, spFind q.rows x.bank = some x.row → p.req.since ≤ x.since)
            ∧ ((∀ x ∈ l, spFind q.rows x.bank ≠ some x.row) → ∀ x ∈ l, p.req.since ≤ x.since)))
    ∧ (∀ (q : SubCh) (w : Bool) (lo : Nat) (p : DramPick),
        let rs := if p.write then q.reads else q.reads.erase p.req
        let t := q.serve w lo p
        spFind t.rows p.req.bank = some p.req.row
        ∧ t.writes = (if p.write then q.writes.erase p.req else q.writes)
        ∧ (∀ x, x ∈ t.reads ↔ x ∈ rs ∧ (x.fwd = true → ∃ y ∈ rs, y.fwd = false ∧ y.line = x.line))
        ∧ (t.writing = true ↔ w = true ∧ lo < t.writes.length))
    ∧ (∀ (q t : SubCh) (w : Bool), (∃ lo p, t = q.serve w lo p) ∨ (∃ line bank row now, t = q.enter w line bank row now) →
        q.reads.Pairwise (fun a b => a.since ≤ b.since) → q.writes.Pairwise (fun a b => a.since ≤ b.since) →
        t.reads.Pairwise (fun a b => a.since ≤ b.since) ∧ t.writes.Pairwise (fun a b => a.since ≤ b.since)))
  ∧ (∀ (s : State) (ch : Nat), ch ≤ 7 →
      (∀ r, r ≤ s.dev.ioFld R.dramGeom 3 3 → s.dev.chanState ch = 2 → exec (.dramRefresh ch r) s = .next (s.withDev
        (s.dev.updChan ch (fun c => { c with owed := spSet 0 c.owed r (spGet 0 c.owed r + 1) }))))
      ∧ (s.dev.serving = true → s.dev.chanState ch = 2 → (∀ q ∈ (s.dev.dchan ch).subs, q.reads = [] ∧ q.writes = []) →
        s.dev.chanParked ch = true →
        (s.dev.chanShared ch = true → (s.dev.dchan ch).last + s.dev.srIdle ≤ s.dev.drip.now) →
        exec (.selfRefreshEnter ch) s = .next (s.withDev (s.dev.setChanState ch 4)))
      ∧ (s.dev.chanState ch = 4 → ∀ q ∈ (s.dev.dchan ch).subs, q.reads ≠ [] ∨ q.writes ≠ [] →
        exec (.selfRefreshWake ch) s = .next (s.withDev
          (((s.dev.setChanState ch 2).chanCount ch 8).updChan ch (fun c => { c with last := s.dev.drip.now, oscAt := [] }))))
      ∧ (∀ cause, 8 ≤ cause → cause ≤ 11 → s.dev.serving = true → s.dev.chanState ch = 2 ∨ s.dev.chanState ch = 4 →
        exec (.channelFail ch cause) s = .next (s.withDev
          ((((s.dev.setChanState ch 5).setIoFld (chanOff ch R.dramChStat) 7 4 cause).updChan ch (fun k => { k with
            subs := [SubCh.init, SubCh.init] })).chanIncident ch cause)))
      ∧ (∀ lane x, lane < s.dev.laneCount → s.dev.serving = true → s.dev.chanState ch = 2 →
        spGet 0 (s.dev.dchan ch).oscAt lane = 0 ∨ spGet 0 (s.dev.dchan ch).oscAt lane + 16383 ≤ s.dev.drip.now →
        let old := spGet 0 (s.dev.dchan ch).drift lane
        let new := if 0 < x then old + 1 else if x < 0 then old - 1 else old
        let d := s.dev.updChan ch (fun c => { c with oscAt := spSet 0 c.oscAt lane (s.dev.drip.now + 1) })
        (16 < new.natAbs → exec (.dqsOscMeasure ch lane x) s = .next (s.withDev (d.failChan ch 9)))
        ∧ (new.natAbs ≤ 8 ∨ (new.natAbs ≤ 16 ∧ spGet false (s.dev.dchan ch).drifted lane = true) →
          exec (.dqsOscMeasure ch lane x) s = .next (s.withDev
            (d.updChan ch (fun c => { c with drift := spSet 0 c.drift lane new }))))
        ∧ (8 < new.natAbs → new.natAbs ≤ 16 → spGet false (s.dev.dchan ch).drifted lane = false →
          ∃ code < 16, exec (.dqsOscMeasure ch lane x) s = .next (s.withDev
            (((((d.updChan ch (fun c => { c with drift := spSet 0 c.drift lane new })).updChan ch (fun c => { c with
              drifted := spSet false c.drifted lane true })).chanCount ch 9).freeStep.incident 20 code 0 ch lane))))))

/-- Arbiters (R415 to R419): a grant goes to a pending requester of the first tier that has one, and each that is pending is
charged the clocks it waited; it counts in the window, which ends after its last grant; a granted line enters the queues of its
subchannel, unless a queued write of the line answers it (R404); a granted seal command enters the pool behind those admitted
before it (R317); a query answers the requester's counters, and clears them when it asks to. Beside the rules, it follows the
model's choices of assumptions 60 and 63. -/
def Obligations.Arbiters : Prop :=
  (∀ (s : State) (a ns : Nat) (clocks pend : List Nat) (w : Bool) (ca lines r t : Nat), a ≤ 32 → s.dev.serving = true →
    (a ≤ 7 → s.dev.chanState a = 5 ∨
      (s.dev.chanState a = 2 ∨ s.dev.chanState a = 4) ∧ s.dev.chanRoom a w ca lines ns = true) →
    let waits := pend.zip clocks
    let l := s.dev.arbAsks a waits
    let v := l.foldl (fun v r => v.waited (spGet 0 waits r) r) (s.dev.arb a)
    let cap := match v.cap with | some c => c | none => s.dev.arbCap a
    v.choose cap.2 l = some (r, t) →
    exec (.arbiterGrant a clocks ns pend w ca lines) s = .next (s.withDev
      (let d := s.dev.setArb a (v.grant cap r t)
       if a ≤ 7 then if s.dev.chanState a = 5 then d else d.enqueue a w ca lines ns
       else if a = 24 then d.sealGranted r else d)))
  ∧ (∀ (d : Dev) (a r : Nat) (waits : List (Nat × Nat)), a ≤ 32 →
      (r ∈ d.arbAsks a waits ↔ r < 32 ∧ (∃ n, (r, n) ∈ waits) ∧ arbServes a r = true ∧ (a = 24 → (d.sealAsks r).isSome = true)))
  ∧ (∀ (d : Dev) (g : Nat) (pre post : List SealItem) (it : SealItem) (j : Job), d.pool.queue = pre ++ it :: post →
      (∀ x ∈ pre, x.adm = true ∨ ∀ k, d.job x.job = some k → k.tid.g ≠ g) → it ∉ pre → it.adm = false →
      d.job it.job = some j → j.tid.g = g →
      d.sealGranted g = d.onPool (fun p => { p with queue := pre ++ post ++ [{ it with adm := true }] }))
  ∧ (∀ (v : Arb) (q pend : List Nat) (r t : Nat), v.choose q pend = some (r, t) →
      r ∈ pend ∧ v.tier q r = t ∧ ∀ x ∈ pend, t ≤ v.tier q x)
  ∧ (∀ (v : Arb) (cap : Nat × List Nat) (r t : Nat),
      (cap.1 ≤ v.count + 1 → (v.grant cap r t).count = 0 ∧ (v.grant cap r t).taken = [] ∧ (v.grant cap r t).cap = none)
      ∧ (v.count + 1 < cap.1 → (v.grant cap r t).count = v.count + 1 ∧ (v.grant cap r t).cap = some cap)
      ∧ spGet 0 (v.grant cap r t).grants r = (spGet 0 v.grants r + 1) % 2 ^ 48 ∧ spGet 0 (v.grant cap r t).waiting r = 0)
  ∧ (∀ (d : Dev) (ch ca ns : Nat) (w : Bool),
      let a := ca / 64 * 64
      let q := (d.dchan ch).subs.getD (d.subOf a) SubCh.init
      let r : DramReq := ⟨a / 64, d.bankOf a, d.rowOf a, q.stamp (d.nsAt ns), false⟩
      let q' := if w then if q.writes.any (fun x => x.line = r.line) then q else { q with writes := q.writes ++ [r] }
        else if q.writes.any (fun x => x.line = r.line) then
          if q.reads.any (fun x => x.line = r.line) then { q with reads := q.reads ++ [{ r with fwd := true }] } else q
        else { q with reads := q.reads ++ [r] }
      d.enqueue ch w ca 1 ns = d.updChan ch (fun c => { c with last := d.drip.now, subs := c.subs.set (d.subOf a) q' }))
  ∧ (∀ (s : State) (m val : Nat), val < 2 ^ 17 → s.dev.noPath m = false → s.dev.serving = true →
      bits val 15 13 = 0 → bits val 7 6 = 0 → arbServes (bits val 5 0) (bits val 12 8) = true →
      let a := bits val 5 0
      let r := bits val 12 8
      let v := s.dev.arb a
      let g := spGet 0 v.grants r
      let w := spGet 0 v.wait r
      let d := (s.dev.setPerWords m R.arbsQryGrantLo
        [g % 2 ^ 32, g / 2 ^ 32, w % 2 ^ 32, w / 2 ^ 32, spGet 0 v.longest r]).setPer m R.arbsQryCode Code.ok
      (bitOf val 16 = false → exec (.arbsQry m val) s = .next (s.withDev d))
      ∧ (bitOf val 16 = true → exec (.arbsQryClear m val) s = .next (s.withDev (d.setArb a { v with
          grants := spSet 0 v.grants r 0, wait := spSet 0 v.wait r 0, longest := spSet 0 v.longest r 0 }))))

/-! ## Image, boot and the six modes (chapter 17) -/

/-- Cold and Load mode (R434, R435, R499): the reset input sends every mode to COLD, the Strongroom's time, seal, tallies and
keys unaffected; what it has taken it goes on with, though nobody waits for it any more; with reset released and every rail
within its window Load mode begins; LOAD_CTL with the key forces Limp or goes to Cold at the next boundary, which is at once
where no drip runs. Rails and boundary scan (R498, R501, R510): a rail that leaves its window is reported, and sends the device
to Cold mode once it has stayed outside for 2 µs; Load mode begins when all are within; the scan instructions that hold the
device send it to Cold; the others leave its mode; leaving Test-Logic-Reset lets it go on. Beside the rules, it follows the
model's choices of assumptions 8, 37, 42 and 64. -/
def Obligations.ModesAndPower : Prop :=
  (∀ (s : State),
      (∃ t, exec .resetAssert s = .next t ∧ t.dev.mode = Mode.cold ∧ t.dev.strong = { s.dev.strong.storePages with
          todWait := s.dev.strong.todWait.map (fun c => { c with src := Src.gone, accepted := 0 }),
          queue := s.dev.strong.queue.map (fun c => { c with src := Src.gone, accepted := 0 }),
          cals := s.dev.strong.cals.map (fun c => { c with src := Src.gone }), asked := [], lost := [] }
        ∧ t.dev.elec = { s.dev.elec with resetLow := true } ∧ t.dev.load.fuse = s.dev.load.fuse)
      ∧ (s.dev.mode = Mode.cold → s.dev.elec.scanHold = false → s.dev.elec.railsOut = [] →
        ∃ t, exec .resetRelease s = .next t ∧ t.dev.mode = Mode.load ∧ t.dev.elec.resetLow = false
          ∧ t.dev.strong = s.dev.strong)
      ∧ (s.dev.mode = Mode.cold → s.dev.elec.railsOut ≠ [] → ∃ t, exec .resetRelease s = .next t ∧ t.dev.mode = Mode.cold)
      ∧ (∀ m, s.dev.serving = true → s.dev.noPath m = false →
        let d := s.dev.setPer m R.loadCtlStat Code.ok
        exec (.loadCtlCold m 0x4B58) s = .next (s.withDev (d.onLoad (fun l => { l with coldReq := true })))
        ∧ exec (.loadCtlLimp m 0x4B58) s = .next (s.withDev (d.onLoad (fun l => { l with limpReq := true })))
        ∧ ∀ k < 2 ^ 16, k ≠ 0x4B58 → exec (.loadCtlCold m k) s = .next (s.withDev (s.dev.setPer m R.loadCtlStat Code.reserved))
          ∧ exec (.loadCtlLimp m k) s = .next (s.withDev (s.dev.setPer m R.loadCtlStat Code.reserved)))
      ∧ (s.dev.mode = Mode.load ∨ s.dev.mode = Mode.survey → s.dev.noPath 3 = false →
        ∃ t, exec (.loadCtlCold 3 0x4B58) s = .next t ∧ t.dev.mode = Mode.cold ∧ t.dev.load.fuse = s.dev.load.fuse))
  ∧ (∀ (s : State),
      (∀ r < 8, (∃ t, exec (.railRamp r false) s = .next t ∧ t.dev.mode = s.dev.mode ∧ spFind t.dev.elec.railsOut r = some true)
        ∧ (∃ t, exec (.railMonitorTrip r) s = .next t ∧ t.dev.mode = Mode.cold ∧ spFind t.dev.elec.railsOut r = some true)
        ∧ (s.dev.mode = Mode.cold → s.dev.elec.railsOut = [(r, true)] → s.dev.elec.resetLow = false → s.dev.elec.scanHold = false →
          ∃ t, exec (.railRamp r true) s = .next t ∧ t.dev.mode = Mode.load ∧ t.dev.elec.railsOut = []))
      ∧ (∀ x ∈ [(Instr.jtagExtest, 0), (.jtagClamp, 3), (.jtagHighz, 4), (.jtagExtestPulse, 5), (.jtagExtestTrain, 6)],
        ∃ t, exec x.1 s = .next t ∧ t.dev.mode = Mode.cold ∧ t.dev.elec.tap = x.2 ∧ t.dev.elec.scanHold = true
          ∧ t.dev.strong = s.dev.strong.island)
      ∧ (∀ x ∈ [(Instr.jtagSamplePreload, 1, none), (.jtagIdcode, 2, some idcode)],
        exec x.1 s = .next (s.withDev (s.dev.onElec (fun e => { e with tap := x.2.1, dr := x.2.2 }))))
      ∧ (∀ c, 7 ≤ c → c < 16 → exec (.jtagBypass c) s = .next (s.withDev (s.dev.onElec (fun e => { e with tap := c, dr := some 0 }))))
      ∧ (s.dev.mode = Mode.cold → s.dev.elec.resetLow = false → s.dev.elec.railsOut = [] →
        ∃ t, exec .jtagTestLogicReset s = .next t ∧ t.dev.mode = Mode.load ∧ t.dev.elec.tap = 2 ∧ t.dev.elec.scanHold = false))

/-- Attempts to load an image (R425 to R427, R430): NVM A is tried first, NVM B once it has failed; pins that fail and a missing
table end the attempt with TIMEOUT and FAIL_FORMAT; an image that a stage rejects leaves its reason in LOAD_ATT and every other
block with reset values; the first that passes every stage starts Survey mode. After both have failed the host's go reads its
image, with enrol only while the fuse is blank; a length of 0 is OK and reads nothing (R13), and a go before both have failed
answers BUSY_RETRY. Survey mode ends (R432, R433), while every rail is within its window: in SURVEY with the first cause that
holds, the transmit lanes idle, else, with DRAM_DATA and KEYS installed and drip 0 of generation 1 begun and the Cellarbook's
epoch started, in LIMP where a trigger of R441 holds, else in SERVICE. A DRAM_DATA record fills the bytes it names and no
others; a blob that passes its checks fills its slot, one that fails leaves the slot and is counted. Beside the rules, it
follows the model's choices of assumptions 11, 36, 38 and 60. -/
def Obligations.LoadAndSurvey : Prop :=
  (∀ (s : State), s.dev.mode = Mode.load →
      (∀ src pins img i2c ee, (src = 1 ∧ s.dev.attCode 0 = 0) ∨ (src = 2 ∧ s.dev.attCode 0 ≠ 0 ∧ s.dev.attCode 1 = 0) →
        let b := s.dev.readBoard i2c ee
        let d := (if src = 1 then b.setIoFld R.loadPins 5 0 pins else b.setIoFld R.loadPins 11 6 pins).blank
        let n := src - 1
        (pins % 64 ≠ 0 → ∀ sfdp, exec (.imageLoadAttempt src pins sfdp img i2c ee) s = .next (s.withDev
          (d.setAtt n ⟨1, Code.timeout, 0, 0⟩)))
        ∧ (pins % 64 = 0 → exec (.imageLoadAttempt src pins false img i2c ee) s = .next (s.withDev
          (d.setAtt n ⟨2, Code.failFormat, 0, 0⟩)))
        ∧ (pins % 64 = 0 → ∃ t, exec (.imageLoadAttempt src pins true img i2c ee) s = .next t ∧
          match imageCheck img (some d.load.fuse) d.board with
          | .error f => t = s.withDev (d.setAtt n f)
          | .ok recs => match d.loadImage img recs with
            | .error f => t = s.withDev (d.freeStep.setAtt n f)
            | .ok _ => t.dev.mode = Mode.survey ∧ t.dev.load.image = img ∧ t.dev.attCode n = Code.ok
              ∧ t.dev.ioFld R.loadStat 4 3 = src))
      ∧ (s.dev.noPath 3 = false → s.dev.attCode 0 ≠ 0 → s.dev.attCode 1 ≠ 0 → (∀ e ∈ s.dev.host.reads, e.2.use ≠ .image) →
        s.dev.io R.loadHoSrc = 2 →
        0 < s.dev.io R.loadHoLen → s.dev.io R.loadHoLen ≤ 2 ^ 28 → s.dev.busMaster 0 = true →
        let go (enrol : Bool) := (s.dev.onLoad (fun l => { l with enrol := enrol })).dmaRead 3 (s.dev.io64 R.loadHoAddrLo)
          (s.dev.io R.loadHoLen) .image
        exec (.hostImageGo 3) s = .next (s.withDev (go false))
        ∧ (s.dev.load.fuse = none → exec (.hostEnrol 3) s = .next (s.withDev (go true)))
        ∧ (s.dev.load.fuse ≠ none → exec (.hostEnrol 3) s = .next (s.withDev (s.dev.refuse 3 R.loadHoGo Code.reserved)))
        ∧ ∀ m, m ≠ 3 → exec (.hostImageGo m) s = .next (s.withDev (s.dev.refuse m R.loadHoGo Code.notOwner)))
      ∧ (s.dev.noPath 3 = false → s.dev.io R.loadHoSrc = 2 → s.dev.io R.loadHoLen = 0 →
        (s.dev.attCode 0 ≠ 0 → s.dev.attCode 1 ≠ 0 → (∀ e ∈ s.dev.host.reads, e.2.use ≠ .image) →
          exec (.hostImageGo 3) s = .next (s.withDev (s.dev.setAtt 2 ⟨0, Code.ok, 0, 0⟩)))
        ∧ (s.dev.attCode 0 = 0 ∨ s.dev.attCode 1 = 0 →
          exec (.hostImageGo 3) s = .next (s.withDev (s.dev.refuse 3 R.loadHoGo Code.busyRetry)))))
  ∧ ((∀ d : Dev, d.surveyDone = (recsOf d.load.image 6).foldl Dev.loadKeyRec
      ((((recsOf d.load.image 3).foldl (fun d x => d.loadRec d.load.image d.cores.dirA true x) d).spareChans.setIoBit
        R.loadSurvey 3).startService.fellBackRecord))
    ∧ (∀ (d : Dev) (b : Bytes) (tabs : Map TabEnt) (r : Rec), r.space = 3 →
        (∀ i < r.data.length, bankKey b tabs true (r.addr + i) = none ∧ d.dramFailed (r.addr + i) = false) →
        (∀ i < r.data.length, (d.loadRec b tabs true r).memByte true (r.addr + i) = r.data.getD i 0)
        ∧ ∀ a, a < r.addr ∨ r.addr + r.data.length ≤ a → (d.loadRec b tabs true r).memByte true a = d.memByte true a)
    ∧ (∀ (d : Dev) (r : Rec),
        (d.blobCode r.addr r.data = Code.ok → (d.loadKeyRec r).keySlot r.addr = some (blobSlot r.data))
        ∧ (d.blobCode r.addr r.data ≠ Code.ok → ∀ n, (d.loadKeyRec r).keySlot n = d.keySlot n)
        ∧ (d.blobCode r.addr r.data ≠ Code.ok →
          (d.loadKeyRec r).ioFld R.loadSurvey 19 4 = Nat.min (d.ioFld R.loadSurvey 19 4 + 1) 0xFFFF))
    ∧ ∀ (s : State) (r : Survey), s.dev.mode = Mode.survey → s.dev.ioFld R.loadSurvey 2 0 = 0 → s.dev.elec.railsOut = [] →
      let d := s.dev.surveyed r
      (∀ c, d.surveyFail r = some c → ∃ t, exec (.surveyEnd r) s = .next t
        ∧ t = s.withDev (d.lanesIdle.setIoFld R.loadSurvey 2 0 c) ∧ t.dev.ioFld R.loadSurvey 2 0 = c)
      ∧ (d.surveyFail r = none →
        (d.surveyDone.limpCause = none → exec (.surveyEnd r) s = .next (s.withDev (d.surveyDone.setMode Mode.service)))
        ∧ (∀ c, d.surveyDone.limpCause = some c →
          exec (.surveyEnd r) s = .next (s.withDev ((d.surveyDone.limpRecord c).setMode Mode.limp)))
        ∧ ∃ t, exec (.surveyEnd r) s = .next t ∧ t.dev.drip.now = 0 ∧ t.dev.drip.gen = 1 ∧ t.dev.book.started = true
          ∧ t.dev.mode = (if d.surveyDone.limpCause = none then Mode.service else Mode.limp))
      ∧ (d.dramShort = true → d.surveyFail r = some 1)
      ∧ (d.dramShort = false →
        (rereadOk d.load.image r.reread 3 = false ∨ rereadOk d.load.image r.reread 6 = false → d.surveyFail r = some 2)
        ∧ (rereadOk d.load.image r.reread 3 = true → rereadOk d.load.image r.reread 6 = true →
          (r.sram = true → d.surveyFail r = some 3)
          ∧ (r.sram = false → (∀ c ∈ (d.gal 0).coreMap, c = 9) → d.surveyFail r = some 4)
          ∧ (r.sram = false → (∃ c ∈ (d.gal 0).coreMap, c ≠ 9) → d.surveyFail r = if r.pll then some 5 else none))))

/-- A Handover's states (R436 to R439): an accepted go starts VERIFY, and one while another Handover runs answers BUSY_RETRY; an
image read from the host is as many bytes as LOAD_HO_LEN says, of length 0 the go is done with OK (R13); a reading that its
source fails, or a poisoned line of DRAM, aborts; a compatible image that passes every check of Load mode goes on to PREPARE;
the seal, with every group STAGED and no slot held, starts WRITE in mode HANDOVER; pass 2 writes the STAGED banks, counts the
records it skips and leads to READY with the validation's result; the flip gives every group one new generation; with the old
banks drained it is DONE with OK in SERVICE. A Handover that does not flip (R438): while it waits past its target each 4,096th
drip makes a COMMIT_WAIT record (R51, R63), whose arg0 is open; its wait limit aborts it with TIMEOUT; an abort under the seal
restores the banks and, once that is done, unseals the groups and leaves it DONE in SERVICE; an abort before the seal is DONE at
once. Beside the rules, it follows the model's choices of assumptions 11, 37 and 60. -/
def Obligations.Handovers : Prop :=
  (∀ (s : State),
      (∀ m, s.dev.mode = Mode.service → s.dev.noPath m = false → s.dev.owns m 2 = true → s.dev.hoState = 0 ∨ s.dev.hoState = 6 →
        let d := s.dev.setIoFld R.loadHoStat 26 24 m
        let target := s.dev.io R.loadHoTgtLo + s.dev.ioFld R.loadHoTgtHi 23 0 * 2 ^ 32
        let src := s.dev.io R.loadHoSrc
        let len := s.dev.io R.loadHoLen
        (src = 2 → len ≠ 0 → s.dev.busMaster 0 = false →
          exec (.handoverGo m) s = .next (s.withDev (d.hoCode Code.notOwner 0)))
        ∧ (src ≠ 2 ∨ len = 0 ∨ s.dev.busMaster 0 = true →
          (target < s.dev.drip.now + 2 → exec (.handoverGo m) s = .next (s.withDev (d.hoCode Code.reserved 0)))
          ∧ (s.dev.drip.now + 2 ≤ target → len ≤ 2 ^ 28 → 2 ≤ src → len = 0 → exec (.handoverGo m) s = .next (s.withDev
            (((d.hoCode Code.ok 0).setHo false 6).setIo R.loadHoGen 0)))
          ∧ (s.dev.drip.now + 2 ≤ target → len ≤ 2 ^ 28 → src < 2 ∨ 0 < len →
            ∃ t, exec (.handoverGo m) s = .next t ∧ t.dev.hoState = 1 ∧ t.dev.load.ho.target = target
              ∧ t.dev.load.ho.restore = none ∧ t.dev.io R.loadHoGen = 0 ∧ t.dev.ioFld R.loadHoStat 15 8 = Code.ok)))
      ∧ (∀ m, s.dev.mode = Mode.service → s.dev.noPath m = false → s.dev.owns m 2 = true → s.dev.hoGoCode.1 = Code.ok → 1 ≤ s.dev.hoState → s.dev.hoState ≤ 5 →
        exec (.handoverGo m) s = .next (s.withDev (s.dev.refuse m R.loadHoGo Code.busyRetry)))
      ∧ (∀ m, s.dev.serving = true → s.dev.noPath m = false → s.dev.owns m 2 = true → s.dev.hoOpen = true →
        exec (.handoverCancel m) s = .next (s.withDev (s.dev.hoAbort false Code.orphaned 18)))
      ∧ (let h := s.dev.load.ho
         let reads (fault : Nat) : Prop := if h.src = 3 then s.dev.memPoisoned true h.addr h.len = false else fault ≠ 1 ∧ fault ≠ 2
         let bytes (img : Bytes) : Bytes :=
           if h.src = 3 then s.dev.memBytes true h.addr h.len else if h.src = 2 then img.take h.len else img
         (∀ fault img, s.dev.hoState = 1 → reads fault →
           exec (.handoverVerifyDone ⟨fault, img⟩) s = .next (s.withDev
             (match imageCheck (bytes img) (some s.dev.load.fuse) s.dev.board with
               | .error f => s.dev.hoAbort true f.code f.reason
               | .ok recs => match s.dev.blank.loadImage (bytes img) recs with
                 | .error f => s.dev.hoAbort true f.code f.reason
                 | .ok _ =>
                   if s.dev.hoCompat (bytes img) recs then (s.dev.setHo true 2).onHo (fun h => { h with image := bytes img })
                   else s.dev.hoAbort true Code.reserved 13)))
         ∧ (∀ fault img recs, s.dev.hoState = 3 → h.restore = none → reads fault →
           (hoChanged h.image (bytes img) = true →
             exec (.handoverWriteDone ⟨fault, img⟩) s = .next (s.withDev (s.dev.hoAbort true Code.sealInvalid 14)))
           ∧ (hoChanged h.image (bytes img) = false → imgRecs h.image recSects = .ok recs →
             exec (.handoverWriteDone ⟨fault, img⟩) s = .next (s.withDev (s.dev.hoApply h.image recs))))
         ∧ (∀ fault img i, i = .handoverVerifyDone ⟨fault, img⟩ ∧ s.dev.hoState = 1
             ∨ i = .handoverWriteDone ⟨fault, img⟩ ∧ s.dev.hoState = 3 ∧ h.restore = none →
           (h.src = 3 → s.dev.memPoisoned true h.addr h.len = true → exec i s = .next (s.withDev
             ((s.dev.countRead true h.addr h.len).hoAbort true Code.poisoned 14)))
           ∧ (h.src ≠ 3 → fault = 1 ∨ fault = 2 → ∃ reason < 256, (h.src ≠ 2 → reason = fault) ∧ exec i s = .next (s.withDev
             (s.dev.freeStep.hoAbort true
               (if fault = 1 then Code.timeout else if h.src = 2 then Code.poisoned else Code.failFormat) reason)))))
      ∧ (s.dev.mode = Mode.service → s.dev.hoState = 2 → s.dev.allStaged allGroups = true →
        (∀ n < 16, (s.dev.slot n).state ≠ .sealed ∧ (s.dev.slot n).state ≠ .waiting) →
        exec .handoverSeal s = .next (s.withDev
          ((((s.dev.onDrip (fun p => { p with hoSeal := some s.dev.drip.now })).hoClear s.dev.load.ho.image).setHo true 3).setMode
            Mode.handover)))
      ∧ (∀ (d : Dev) (b : Bytes) (recs : List Rec),
        let tabs := d.stagedDir
        let l := recs.filter (fun r => r.sect ≠ 6)
        let skip (r : Rec) : Bool := r.skipped b tabs
        let e := (((l.filter (fun r => !skip r)).foldl (fun d r => d.loadRec b tabs false r) d).bumpBy R.loadHoSkip
          (l.filter skip).length).setHo true 4
        (d.hoApply b recs).hoState = 4
        ∧ d.hoApply b recs = e.onHo (fun h => { h with ready := some e.drip.now, failed :=
            if (e.macroBad b (!(e.group 14).liveB) l).isSome then some (Code.reserved, 7)
            else (firstBad (e.content allGroups (fun _ => e.drip.hoSeal)).failures allGroups).map (fun x => (Code.reserved, x.detail)) }))
      ∧ (s.dev.mode = Mode.handover → s.dev.hoMayFlip = true → ∃ t, exec .handoverFlip s = .next t ∧ t = s.withDev s.dev.hoFlip
        ∧ (∀ g ∈ groupBits, (t.dev.group g).liveB = !(s.dev.group g).liveB ∧ (t.dev.group g).genLive = nextGen s.dev.drip.gen
          ∧ (t.dev.group g).other = .trailing)
        ∧ t.dev.drip.gen = nextGen s.dev.drip.gen ∧ t.dev.drip.hoSeal = none ∧ t.dev.hoState = 5
        ∧ t.dev.load.image = s.dev.load.ho.image ∧ t.dev.load.ho.gen = nextGen s.dev.drip.gen)
      ∧ (s.dev.mode = Mode.handover → s.dev.hoState = 5 → (∀ g ∈ groupBits, (s.dev.group g).other ≠ .trailing) →
        ∃ t, exec .handoverDrainDone s = .next t ∧ t.dev.mode = Mode.service ∧ t.dev.hoState = 6
          ∧ t.dev.io R.loadHoGen = s.dev.load.ho.gen ∧ t.dev.ioFld R.loadHoStat 15 8 = Code.ok))
  ∧ (∀ (s : State),
      (s.dev.serving = true → s.dev.hoOpen = true → s.dev.hoMayFlip = false →
        s.dev.load.ho.target + 256 * 2 ^ s.dev.load.ho.limit ≤ s.dev.drip.now →
        exec .handoverWaitTimeout s = .next (s.withDev (s.dev.hoAbort true Code.timeout 16)))
      ∧ (∀ t n, s.dev.load.ho.restore = some (t, n) → t + copyDrips n ≤ s.dev.drip.now → s.dev.mode = Mode.handover →
        ∃ u, exec .handoverRestoreDone s = .next u ∧ u.dev.mode = Mode.service ∧ u.dev.hoState = 6
          ∧ u.dev.drip.hoSeal = none ∧ u.dev.load.ho.restore = none
          ∧ ∀ g ∈ groupBits, (u.dev.group g).other = .staged)
      ∧ (∀ (d : Dev) (now : Bool) (code reason : Nat), d.drip.hoSeal = none → d.hoState < 6 → code < 256 → reason < 256 →
        let e := d.hoAbort now code reason
        e.hoState = 6 ∧ e.ioFld R.loadHoStat 15 8 = code ∧ e.ioFld R.loadHoStat 23 16 = reason ∧ e.csr.bankA = d.csr.bankA
          ∧ e.csr.bankB = d.csr.bankB)
      ∧ (∀ (d : Dev) (now : Bool) (code reason t : Nat), d.drip.hoSeal = some t →
        ∃ n, (d.hoAbort now code reason).load.ho.restore = some (d.drip.now, n)
          ∧ (d.hoAbort now code reason).drip.hoSeal = some t)
      ∧ (s.dev.hoReportDue = true → ∃ v < 16, ∃ t, exec (.commitWaitReport 16) s = .next t ∧ t.dev
        = (s.dev.freeStep.onHo (fun h => { h with report := some s.dev.drip.now })).incident 1 Code.commitWait
            (actorMaster (s.dev.ioFld R.loadHoStat 26 24)) v (if s.dev.drip.hoSeal.isSome then 0 else s.dev.missingBanks allGroups))
      ∧ (s.dev.hoReportDue = false → exec (.commitWaitReport 16) s = .next s))

/-! ## The host and the Rope (chapter 18) -/

/-- The host's commands (R451 to R453, R458): a version above 3 is refused with VERSION_MISMATCH; a message goes to its channel
with OK, or ends with FAIL_EMPTY when that is full and NOT_OWNER when it is not enabled; a pop takes the oldest message; an
export acknowledgement at a page boundary between the pointer and the export pointer moves the pointer, any other is refused,
both with the outcome in HOST_EXP_STAT, as is a write of exp_log2. Vectors, resets and reads of host memory (R449, R450, R457,
R508): a vector that waited is signalled once its limit allows, while its function is masked it leaves a pending bit, which is
sent once the mask is lifted; a Function Level Reset, or PE_PERST_N low, leaves the selected version 0 and releases the host's
OPEN and DONE slots; a read's data go to its command; an error or no completion ends it with TIMEOUT, poison with POISONED.
Beside the rules, it follows the model's choices of assumptions 8 and 45. -/
def Obligations.HostInterface : Prop :=
  ((∀ (d : Dev) (v : Nat), v < 2 ^ 64 →
      (d.owns 3 17 = false → d.hostAck v = d.setIo R.hostExpStat Code.notOwner)
      ∧ (d.owns 3 17 = true →
        (v = d.book.ack ∨ d.book.ack ≤ v ∧ v ≤ d.book.exp ∧ (∃ p ∈ d.book.pages, p.past = v) →
          (d.hostAck v).book.ack = v ∧ (d.hostAck v).io64 R.bookAckLo = v ∧ (d.hostAck v).io R.hostExpStat = Code.ok
          ∧ (d.hostAck v).book.pages = d.book.pages.filter (fun p => v < p.past) ∧ (d.hostAck v).book.exp = d.book.exp)
        ∧ (v ≠ d.book.ack → v < d.book.ack ∨ d.book.exp < v ∨ (∀ p ∈ d.book.pages, p.past ≠ v) →
          d.hostAck v = d.setIo R.hostExpStat Code.reserved)))
    ∧ ∀ (s : State), s.dev.mode ≠ Mode.cold → s.dev.serving = true → s.dev.noPath 3 = false →
      (∀ m v, s.dev.owns m 21 = true → s.dev.noPath m = false →
        (v ≤ 3 → exec (.hostVerSelect m v) s = .next (s.withDev ((s.dev.setIo R.hostVerSel v).hostRegsReset v)))
        ∧ (3 < v → v < 256 → exec (.hostVerSelect m v) s = .next (s.withDev
            (s.dev.setIoFld R.hostVerSel 31 24 Code.versionMismatch))))
      ∧ (let c := s.dev.liveFld R.hostCfg 7 0
         (s.dev.chanOn 0 c = false → exec (.mboxDownSend 3) s = .next (s.withDev
            (s.dev.setPer 3 R.hostMboxDnStat Code.notOwner)))
         ∧ (s.dev.chanOn 0 c = true → (s.dev.chan 0 c).length < 4 → exec (.mboxDownSend 3) s = .next (s.withDev
            ((s.dev.setPer 3 R.hostMboxDnStat Code.ok).chanPush 0 c ⟨s.dev.perBytes 3 R.hostMboxDn 16, 0x200, 0⟩)))
         ∧ (s.dev.chanOn 0 c = true → 4 ≤ (s.dev.chan 0 c).length → exec (.mboxDownSend 3) s = .next (s.withDev
            ((s.dev.setPer 3 R.hostMboxDnStat Code.failEmpty).onHost (fun h => { h with dnWaiting := true })))))
      ∧ (s.dev.upMsgs ≠ [] → exec (.mboxUpPop 3) s = .next (s.withDev (s.dev.chanPop 0 (s.dev.liveFld R.hostCfg 15 8))))
      ∧ (s.dev.upMsgs = [] → exec (.mboxUpPop 3) s = .next (s.withDev (s.dev.reservedCsr 3 R.hostMboxUpPop)))
      ∧ (∀ v, v < 2 ^ 32 → 3 ≤ s.dev.hostMinor →
        exec (.hostExpAck 3 v) s = .next (s.withDev (s.dev.hostAck (s.dev.io R.hostExpAckLo + 2 ^ 32 * v))))
      ∧ (∀ v, v < 64 → 2 ≤ s.dev.hostMinor → ∃ t, exec (.csrWrite 3 R.hostExpSize v 15) s = .next t
        ∧ t.dev.io R.hostExpSize = v ∧ t.dev.io R.hostExpStat = if v < 27 ∨ 36 < v then Code.reserved else Code.ok)
      ∧ (∀ m, m ≠ 3 → exec (.mboxDownSend m) s = .next (s.withDev (s.dev.refuse m R.hostMboxDnGo Code.notOwner))
        ∧ exec (.mboxUpPop m) s = .next (s.withDev (s.dev.refuse m R.hostMboxUpPop Code.notOwner))
        ∧ ∀ v, exec (.hostExpAck m v) s = .next (s.withDev (s.dev.refuse m R.hostExpAckHi Code.notOwner))))
  ∧ (∀ (s : State),
      (∀ v, spGet false s.dev.host.vecWait v = true → s.dev.vecOpen v = true →
        exec (.msixDeferredSignal v) s = .next (s.withDev (s.dev.sendVec v))
        ∧ (s.dev.elec.perst = true → s.dev.sendVec v = s.dev)
        ∧ (s.dev.elec.perst = false → s.dev.sendVec v = (s.dev.onHost (fun h => { h with
            vecLast := spPut h.vecLast v s.dev.drip.now, vecWait := spErase h.vecWait v })).msix 0 v))
      ∧ (∀ (d : Dev) (fn v : Nat), d.elec.perst = false →
        (d.host.fnMask.getD fn false = false → d.msix fn v = d.emit (.msix fn v))
        ∧ (d.host.fnMask.getD fn false = true →
          d.msix fn v = d.onHost (fun h => { h with pba := spSet false h.pba (64 * fn + v) true })))
      ∧ (∀ fn v, v < 64 → spGet false s.dev.host.vecWait (64 * fn + v) = false → spGet false s.dev.host.pba (64 * fn + v) = true →
        s.dev.host.fnMask.getD fn false = false → s.dev.elec.perst = false →
        exec (.msixDeferredSignal (64 * fn + v)) s = .next (s.withDev
          ((s.dev.onHost (fun h => { h with pba := spSet false h.pba (64 * fn + v) false })).emit (.msix fn v))))
      ∧ (s.dev.mode ≠ Mode.cold → exec (.pcieFlr 0) s = .next (s.withDev s.dev.flr0)
        ∧ exec (.pcieFlr 1) s = .next (s.withDev s.dev.flr1)
        ∧ exec (.pePerst true) s = .next (s.withDev (s.dev.onElec (fun e => { e with perst := true })).flr0.flr1)
        ∧ exec (.pePerst false) s = .next (s.withDev (s.dev.onElec (fun e => { e with perst := false })))
        ∧ s.dev.flr0.hostMinor = 0 ∧ s.dev.flr0.host.unlock = true ∧ s.dev.flr0.io R.hostCdone = 0 ∧ s.dev.flr0.io R.hostVdone = 0
        ∧ (∀ n < 4, (s.dev.view n).holder = 3 → s.dev.flr0.view n = ViewBuf.init)
        ∧ ∀ n < 16, (s.dev.slot n).holder = 3 → (s.dev.slot n).state = .opened ∨ (s.dev.slot n).state = .done →
            s.dev.flr0.slot n = Slot.init)
      ∧ (∀ tag r data, spFind s.dev.host.reads tag = some r → r.master = 3 → s.dev.elec.perst = false →
        (data.length = r.len → exec (.hostReadCompletion tag 0 data) s = .next (s.withDev (s.dev.readArrived tag r data)))
        ∧ exec (.hostReadCompletion tag 1 data) s = .next (s.withDev (s.dev.readFails tag Code.timeout))
        ∧ exec (.hostReadCompletion tag 2 data) s = .next (s.withDev (s.dev.readFails tag Code.timeout))
        ∧ exec (.hostReadCompletion tag 3 data) s = .next (s.withDev (s.dev.readFails tag Code.poisoned))
        ∧ exec (.hostReadTimeout tag) s = .next (s.withDev (s.dev.readFails tag Code.timeout))
        ∧ (let d := s.dev.onHost (fun h => { h with reads := spErase h.reads tag })
           (∀ b, r.use = .cal b → s.dev.readArrived tag r data = d.srBlock 3 b data)
           ∧ (r.use = .image → s.dev.readArrived tag r data = d.imageArrived data)
           ∧ (∀ c, r.use = .fwdt → spFind s.dev.fwd.cmds 3 = some c →
              s.dev.readArrived tag r data = d.setFwdCmd 3 (some { c with phase := .moved, data := data, drip := s.dev.drip.now }))
           ∧ ∀ code, (r.use = .fwdt → s.dev.readFails tag code = d.fwdEnd 3 code)
             ∧ (r.use = .image → s.dev.readFails tag code =
                (d.setIo (R.loadAtt + 16) code).onLoad (fun l => { l with enrol := false }))
             ∧ (∀ b, r.use = .cal b → d.calAsked 3 = true →
                s.dev.readFails tag code = (d.calCame 3).srRefuse (.master 3) b code))))

/-- The Rope's link and versions (R461, R462): link up enters HELLO and sends one, loss of the link or no HELLO for 1,024 drips
enters DOWN; a HELLO is sent each 256 drips; at the first boundary after one was sent and one received the highest common
version is UP, or TALK_ONLY where there is none or the owner differs. Beside the rules, it follows the model's choices of
assumption 9. -/
def Obligations.RopeLink : Prop :=
  (∀ (s : State),
    (∀ pos, s.dev.lanesLive = true → s.dev.ropeSt = 0 → s.dev.lanesSound (s.dev.macLanes 64) = true →
      exec (.ropeLinkUp pos true) s = .next (s.withDev
        ((((s.dev.groupUp (s.dev.macLanes 64) pos true).ropeHello.onRope (fun r => { r with
          heard := s.dev.drip.now })).sendHello)))
      ∧ exec (.ropeLinkUp pos false) s = .next (s.withDev (s.dev.groupUp (s.dev.macLanes 64) pos false)))
    ∧ (∀ los, s.dev.lanesLive = true → exec (.ropeLinkDown los) s = .next (s.withDev
        (s.dev.ropeLoss.groupDown (s.dev.macLanes 64) los)))
    ∧ (s.dev.serving = true → s.dev.ropeSt ≠ 0 → s.dev.rope.helloAt + 256 ≤ s.dev.drip.now →
      exec .helloSend s = .next (s.withDev s.dev.sendHello)
      ∧ s.dev.sendHello.rope.helloAt = s.dev.drip.now ∧ s.dev.sendHello.out = .rope 0x88B6 ([0, 0, 0, 0] ++ leBytes 4 s.dev.helloBytes.length ++ s.dev.helloBytes) :: s.dev.out)
    ∧ (s.dev.serving = true → s.dev.rope.heard + 1024 ≤ s.dev.drip.now →
      exec .helloTimeout s = .next (s.withDev s.dev.ropeLoss))
    ∧ (∀ mask owner, s.dev.serving = true → s.dev.ropeSt = 1 → s.dev.rope.peer = some (mask, owner) →
      s.dev.rope.sentHello = true → s.dev.rope.gotHello = true →
      let x := s.dev.ropeDecide mask owner
      exec .ropeNegotiate s = .next (s.withDev
        ((s.dev.setIoFld R.ropeStat 5 0 (x.1 + 4 * x.2.1 + 16 * x.2.2)).signal 6)))
    ∧ (∀ p, p.length = 64 → s.dev.ropeSt ≠ 0 → s.dev.rope.peer = none → exec (.helloReceive p) s = .next (s.withDev
        ((s.dev.helloRecord p).onRope (fun r => { r with gotHello := true })))
      ∧ (s.dev.helloRecord p).rope.heard = s.dev.drip.now
      ∧ (s.dev.helloRecord p).rope.peer = some (leAt p 0 2 &&& 6, slice p 12 32)
      ∧ (s.dev.helloRecord p).io64 R.ropePeerSerialLo = leAt p 4 8)
    ∧ (∀ p x, p.length = 64 → s.dev.ropeSt = 2 → s.dev.rope.peer = some x → x ≠ (leAt p 0 2 &&& 6, slice p 12 32) →
      exec (.helloReceive p) s = .next (s.withDev
        (((s.dev.helloRecord p).ropeHello.sendHello).onRope (fun r => { r with gotHello := true })))))
  ∧ (∀ d : Dev, d.ropeSt ≠ 0 → d.ropeLoss.ropeSt = 0 ∧ d.ropeLoss.rope.peer = none ∧ d.ropeLoss.rope.reqs = (if d.ropeSt = 2 then [] else d.rope.reqs))
  ∧ (∀ (d : Dev) (mask : Nat) (owner : Bytes),
      (owner ≠ slice (d.load.fuse.getD []) 0 32 → d.ropeDecide mask owner = (3, 0, 2))
      ∧ (owner = slice (d.load.fuse.getD []) 0 32 →
        (bitOf (d.ropeMask &&& mask) 2 = true → d.ropeDecide mask owner = (2, 2, 0))
        ∧ (bitOf (d.ropeMask &&& mask) 2 = false → bitOf (d.ropeMask &&& mask) 1 = true → d.ropeDecide mask owner = (2, 1, 0))
        ∧ (bitOf (d.ropeMask &&& mask) 2 = false → bitOf (d.ropeMask &&& mask) 1 = false →
            d.ropeDecide mask owner = (3, 0, 1))))

/-- Requests on the Rope (R465): one is sent in UP and refused with BUSY_RETRY while its master's last is outstanding, with
ORPHANED outside UP; its CPL ends it with the code, a read with the value; without one within 64 drips it ends with TIMEOUT; the
partner's request counts, and is a read or write by master 4: a write is answered with its code, at the boundary where it is
staged; a read with its value, of an acquire that waits when the wait ends. Frames on the Rope (R460, R463, R464, R466, R467): a
frame is its EtherType, an 8-byte header and its payload; it is sent in UP, MIRROR and DMA under version 2, and acted on in UP
at the negotiated version only, otherwise dropped; a reserved type is dropped and counted. DATA enters as MAC 64; the message
due is sent; a message that its channel takes is committed and answered, one that finds it full stays held; notices set their
bit. Beside the rules, it follows the model's choices of assumptions 9 and 39. -/
def Obligations.RopeTraffic : Prop :=
  ((∀ (d : Dev) (peer o v be : Nat),
      let e := d.beWrite 4 o v be
      (e.drip.writes = d.drip.writes → d.peerWrite peer o v be = e.ropeSend 3 (reqCpl peer (d.peerCode o v be) 0))
      ∧ (∀ w, e.drip.writes = d.drip.writes ++ [w] →
        d.peerWrite peer o v be = e.onRope (fun r => { r with cpls := r.cpls ++ [⟨peer, w.target⟩] }))
      ∧ (d.noPath 4 = false → be % 16 ≠ 15 →
        (d.blockOpen o = false → d.peerCode o v be = Code.notOwner)
        ∧ (d.blockOpen o = true → d.peerCode o v be = Code.reserved))
      ∧ (d.noPath 4 = false → be % 16 = 15 → d.blockOpen o = true → o < 0x8000000 →
        (∀ e : Dev, e.actionLow 4 o v = none ∧ e.actionHigh 4 o v = none) →
        (regAt o = none → d.peerCode o v be = Code.reserved)
        ∧ ∀ r, regAt o = some r → r.maskOf writable ≠ 0 →
          ((∀ e : Dev, e.mayWrite r 4 o = false) → d.peerCode o v be = Code.notOwner)
          ∧ ((∀ e : Dev, e.mayWrite r 4 o = true ∧ e.hostHidden o = false) → w32 v &&& ~~~r.maskOf writable ≠ 0 →
            d.peerCode o v be = Code.reserved)))
    ∧ (∀ (s : State) (peer o : Nat),
      let t := s.csrRead 4 o
      let n := s.dev.hostLatch 4
      ((t.dev.latch n).waiters = (s.dev.latch n).waiters → s.peerRead peer o =
        { t with dev := t.dev.ropeSend 3 (reqCpl peer Code.ok (spGet 0 t.dev.csr.rdata 4).toNat) })
      ∧ (∀ w, (t.dev.latch n).waiters = (s.dev.latch n).waiters ++ [w] → s.peerRead peer o =
        { t with dev := t.dev.onRope (fun r => { r with latchPeer := r.latchPeer ++ [⟨n, w.deadline, peer⟩] }) }))
    ∧ ∀ (s : State),
      (∀ row ∈ [(Instr.ropeReqRead, 0), (Instr.ropeReqWrite, 1)], ∀ m, s.dev.noPath m = false → s.dev.serving = true →
        s.dev.owns m 22 = true → bits (s.dev.per m R.ropeReqAddr) 28 28 = row.2 →
        (bitOf (s.dev.per m R.ropeReqStat) 0 = true →
          exec (row.1 m) s = .next (s.withDev (s.dev.refuse m R.ropeReqGo Code.busyRetry)))
        ∧ (bitOf (s.dev.per m R.ropeReqStat) 0 = false → s.dev.ropeUp = false →
          exec (row.1 m) s = .next (s.withDev (s.dev.setStat m R.ropeReqStat false Code.orphaned)))
        ∧ (bitOf (s.dev.per m R.ropeReqStat) 0 = false → s.dev.ropeUp = true →
          exec (row.1 m) s = .next (s.withDev
            (((s.dev.setStat m R.ropeReqStat true 0).onRope (fun r => { r with
              reqs := spPut r.reqs m ⟨row.2, s.dev.drip.now⟩ })).ropeSend 2
                (leBytes 1 m ++ leBytes 4 (s.dev.per m R.ropeReqAddr) ++ leBytes 4 (s.dev.per m R.ropeReqData))))))
      ∧ (∀ m q code data, s.dev.ropeUp = true → spFind s.dev.rope.reqs m = some q → code < 256 →
        (q.op = 0 → exec (.ropeCplReceive s.dev.ropeVer false m code data) s = .next (s.withDev
          ((s.dev.setPer m R.ropeReqRdata data).ropeReqEnd m code)))
        ∧ (q.op ≠ 0 → exec (.ropeCplReceive s.dev.ropeVer false m code data) s = .next (s.withDev
          (s.dev.ropeReqEnd m code))))
      ∧ (∀ m code, m = 2 ∨ m = 3 → code < 256 → let d := s.dev.ropeReqEnd m code
        d.per m R.ropeReqStat = 2 ^ 8 * code ∧ spFind d.rope.reqs m = none)
      ∧ (∀ m q, spFind s.dev.rope.reqs m = some q → q.sent + 64 ≤ s.dev.drip.now →
        exec (.ropeReqTimeout m) s = .next (s.withDev (s.dev.ropeReqEnd m Code.timeout)))
      ∧ (∀ peer off data be, s.dev.ropeUp = true → peer < 8 → off < 2 ^ 28 → off % 4 = 0 → data < 2 ^ 32 →
        exec (.ropeReqReceive s.dev.ropeVer peer true off ⟨data, be⟩) s = .next (s.withDev
          ((s.dev.ropeCount 2).peerWrite peer off data be))
        ∧ exec (.ropeReqReceive s.dev.ropeVer peer false off ⟨data, be⟩) s = .next ((s.withDev (s.dev.ropeCount 2)).peerRead peer off))
      ∧ (∀ n x code data, s.dev.ropeUp = true → s.dev.rope.mbox = some (n, x) →
        exec (.ropeCplReceive s.dev.ropeVer true n code data) s = .next (s.withDev
          (s.dev.onRope (fun r => { r with mbox := none, mboxSent := false })))
        ∧ ∀ m, m ≠ n → exec (.ropeCplReceive s.dev.ropeVer true m code data) s = .next s))
  ∧ ((∀ (d : Dev) (type : Nat) (data : Bytes), d.ropeUp = true →
      ((type < 6 ∨ d.ropeVer = 2) ∧ type ≠ 0 → d.ropeSend type data = d.emit (.rope 0x88B6
        (leBytes 1 type ++ leBytes 1 d.ropeVer ++ [0, 0] ++ leBytes 4 data.length ++ data)))
      ∧ (6 ≤ type → d.ropeVer ≠ 2 → d.ropeSend type data = d))
    ∧ (∀ (d : Dev) (c n : Nat) (x : Bytes) (rest : List (Nat × Bytes)), d.rope.mboxHeld = (n, x) :: rest →
      d.liveFld R.ropeCfg 20 13 = c →
      ((d.chan 0 c).length < 4 → d.ioFld R.ropeStat 1 0 = 2 → d.ropeCommit 0 c =
        ((d.onRope (fun r => { r with mboxHeld := rest, mboxSeen := some n })).ropeEmit 3 0 (mboxCpl n)).chanPush 0 c ⟨x, 0x201, 0⟩)
      ∧ ((d.chan 0 c).length < 4 → d.ioFld R.ropeStat 1 0 ≠ 2 → d.ropeCommit 0 c =
        (d.onRope (fun r => { r with mboxHeld := rest, mboxSeen := some n })).chanPush 0 c ⟨x, 0x201, 0⟩)
      ∧ (4 ≤ (d.chan 0 c).length → d.ropeCommit 0 c = d))
    ∧ ∀ (s : State), s.dev.ropeUp = true →
      let v := s.dev.ropeVer
      (∀ ver, ver ≠ v → ∀ (i j k n : Nat) (b : Bool) (f : Bytes), ∀ c ∈ [Instr.ropeDataReceive ⟨1, ver⟩ i f, .ropeReqReceive ver i b j ⟨k, n⟩,
          .ropeCplReceive ver b i j k, .ropeNotifyReceive ver i j, .ropeDmaReceive ver i j k n f, .ropeMboxReceive ver i f,
          .ropeMirrorReceive ver i f],
        exec c s = .next (s.withDev (s.dev.ropeCount 1)))
      ∧ (v < 2 → ∀ (i j k n : Nat) (f : Bytes), ∀ c ∈ [Instr.ropeDmaReceive v i j k n f, .ropeMirrorReceive v i f],
        exec c s = .next (s.withDev (s.dev.ropeCount 1)))
      ∧ (∀ type ver ch f, 8 ≤ type → exec (.ropeDataReceive ⟨type, ver⟩ ch f) s = .next (s.withDev (s.dev.ropeCount 1)))
      ∧ (∀ ch f, ch < 4096 → s.dev.serving = true → exec (.ropeDataReceive ⟨1, v⟩ ch f) s = .next (s.withDev
          (s.dev.portFrame 64 (s.dev.bayOf 64 ch) f none)))
      ∧ (∀ i, (i < 16 → exec (.ropeNotifyReceive v 0 i) s = .next (s.withDev ((s.dev.setIoBit R.ropePeerCdone i).vector 6)))
        ∧ (i < 4 → exec (.ropeNotifyReceive v 1 i) s = .next (s.withDev ((s.dev.setIoBit R.ropePeerVdone i).vector 6))))
      ∧ (∀ tag a n data, v = 2 → a + n ≤ 2 ^ 40 → s.dev.memPoisoned true a n = false →
        exec (.ropeDmaReceive 2 0 tag a n data) s = .next (s.withDev
          (s.dev.ropeSend 7 ([2] ++ leBytes 4 tag ++ s.dev.memBytes true a n))))
      ∧ (∀ tag a n data, v = 2 → a + n ≤ 2 ^ 40 → s.dev.memPoisoned true a n = true →
        exec (.ropeDmaReceive 2 0 tag a n data) s = .next (s.withDev ((s.dev.countRead true a n).ropeSend 7 ([3] ++ leBytes 4 tag))))
      ∧ (∀ tag a n data, v = 2 → a + data.length ≤ 2 ^ 40 →
        exec (.ropeDmaReceive 2 1 tag a n data) s = .next (s.withDev (s.dev.masterMem true a data)))
      ∧ (∀ tag a n data r, v = 2 → spFind s.dev.host.reads tag = some r → r.master = 4 →
        (data.length = r.len → exec (.ropeDmaReceive 2 2 tag a n data) s = .next (s.withDev (s.dev.readArrived tag r data)))
        ∧ exec (.ropeDmaReceive 2 3 tag a n data) s = .next (s.withDev (s.dev.readFails tag Code.poisoned)))
      ∧ (∀ data, data.length = 64 → ∀ n < 2 ^ 32,
        (s.dev.mboxOn = false → exec (.ropeMboxReceive v n data) s = .next (s.withDev (s.dev.ropeCount 5)))
        ∧ (s.dev.mboxOn = true → s.dev.rope.mboxSeen = some n → exec (.ropeMboxReceive v n data) s = .next (s.withDev
            (s.dev.ropeSend 3 (mboxCpl n))))
        ∧ (s.dev.mboxOn = true → s.dev.rope.mboxSeen ≠ some n → s.dev.rope.mboxHeld = [] →
          exec (.ropeMboxReceive v n data) s = .next (s.withDev
            ((s.dev.onRope (fun r => { r with mboxHeld := [(n, data)] })).ropeCommit 0 (s.dev.liveFld R.ropeCfg 20 13)))))
      ∧ (∀ x rest, s.dev.serving = true → s.dev.mboxOn = true → s.dev.rope.mbox = none →
        s.dev.chan 0 (s.dev.liveFld R.ropeCfg 12 5) = x :: rest →
        exec .ropeMboxSend s = .next (s.withDev
          (((s.dev.chanPop 0 (s.dev.liveFld R.ropeCfg 12 5)).onRope (fun r => { r with
            mbox := some (s.dev.rope.mboxNext, x.data), mboxSent := true,
            mboxNext := (s.dev.rope.mboxNext + 1) % 2 ^ 32 })).ropeSend 5 (leBytes 4 s.dev.rope.mboxNext ++ x.data))))
      ∧ (∀ data, v = 2 →
        (data.length = 32 → bitOf (s.dev.live R.ropeCfg) 3 = true →
          exec (.ropeMirrorReceive 2 0 data) s = .next (s.withDev (s.dev.onHost (fun h => { h with incPending := h.incPending ++
            [⟨leAt data 0 7, leAt data 7 1, leAt data 8 1, true, leAt data 10 2, leAt data 12 4, leAt data 16 4, 0, 0⟩] }))))
        ∧ (data.length = 4096 → bitOf (s.dev.live R.ropeCfg) 4 = true →
          exec (.ropeMirrorReceive 2 1 data) s = .next (s.withDev
            ((s.dev.writeMem true (s.dev.io64 R.ropeSealBaseLo + 4096 * ((s.dev.ioFld R.ropeSealWp 7 0 + s.dev.rope.sealNew) % 256))
              data).onRope (fun r => { r with sealNew := r.sealNew + 1 }))))
        ∧ (bitOf (s.dev.live R.ropeCfg) 3 = false → exec (.ropeMirrorReceive 2 0 data) s = .next (s.withDev (s.dev.ropeCount 5)))
        ∧ (bitOf (s.dev.live R.ropeCfg) 4 = false → exec (.ropeMirrorReceive 2 1 data) s = .next (s.withDev (s.dev.ropeCount 5)))))

/-! ## Health, power and debugging (chapters 7, 19, 20 and 22) -/

/-- Retirement (R180, R181, R196, R201 to R204): a core that stops issuing, that fails or that a master names is retired: its
threads stop, its tasks' chains go to the spare that will replace it, the spare starts at a boundary after the retirement;
without a spare its tasks are requeued and the gallery goes on with one core fewer, logical core 0 moving to the
highest-numbered one that remains; each retirement counts, makes a record with the number of its tasks, and sends RETIRE to the
keeper. A domain still for its period makes one record and signals its keeper. Errors of memories and tests of units (R469,
R472, R474, R475): a correctable error is counted; an uncorrectable one poisons its cell or line, retires its core, or loses its
row; an error of a vote is always corrected; a pass of the scrubber is its errors in turn. Beside the rules, it follows the
model's choices of assumptions 38, 40, 54, 57 and 63. -/
def Obligations.UnitHealth : Prop :=
  (∀ (s : State) (g p : Nat), g < 16 → s.dev.serving = true →
      exec (.coreRetire g p) s = .next (s.withDev (s.dev.retireCore g p))
      ∧ (∀ t < 8, (s.dev.thr ⟨g, p, t⟩).state = .ready → exec (.issueWatchdog g p) s = .next (s.withDev (s.dev.retireCore g p)))
      ∧ (∀ m l, m = 2 ∨ m = 3 → s.dev.noPath m = false → p < 9 → s.dev.logicalOf g p = some l → s.dev.retiringCore g l = false →
        exec (.coreRetireRequest m g p) s = .next (s.withDev (s.dev.retireCore g p)))
      ∧ (∀ m, m = 2 ∨ m = 3 → s.dev.noPath m = false → p < 9 → s.dev.logicalOf g p = none →
        exec (.coreRetireRequest m g p) s = .next (s.withDev (s.dev.refuse m (R.gallCoreCtl + 0x40000 * g) Code.reserved)))
      ∧ (∀ pre post r, (s.dev.gal g).retiring = pre ++ r :: post → (∀ x ∈ pre, x.phys ≠ p) → r.phys = p → r.since < s.dev.drip.now →
        exec (.spareStart g p) s = .next (s.withDev (s.dev.spareStart g r)))
      ∧ (∀ x e k b, spFind (s.dev.gal g).still x = some e → s.dev.keeper g = some k → e.bit = false → e.rearm ≤ s.dev.drip.now →
        e.since = some b → (s.dev.stillDomains g).contains x = true →
        let period := bits (s.dev.live (R.gallCfg + 0x40000 * g)) 9 2
        let d := s.dev.setGal g { s.dev.gal g with still := spPut (s.dev.gal g).still x { e with bit := true } }
        b + period ≤ s.dev.drip.now → exec (.stillnessDetect g x) s = .next (s.withDev
          (((d.bump (R.gallStillCnt + 0x40000 * g)).incident 14 Code.timeout (ownerTag k) (g + x * 2 ^ 4) period).event k Ev.still))
          ∧ spFind (d.gal g).still x = some { e with bit := true })
      ∧ (s.dev.stillDomains g = if s.dev.stillWhole g then [8] else List.range 8)
      ∧ (s.dev.logicalOf g p = none → s.dev.retireCore g p = s.dev)
      ∧ (∀ l, s.dev.logicalOf g p = some l → s.dev.retiringCore g l = true → s.dev.retireCore g p = s.dev)
      ∧ (∀ l, s.dev.logicalOf g p = some l → s.dev.retiringCore g l = false →
        let d := s.dev.setGal g { s.dev.gal g with retired := (s.dev.gal g).retired ++ [p] }
        let ids := coreThreads g p
        let told (e : Dev) (n with_ : Nat) : Dev :=
          let f := (e.incident 14 Code.orphaned (ownerTag ⟨g, p, 0⟩) (g + p * 2 ^ 4 + with_ * 2 ^ 8) n).bump
            (R.gallRetireCnt + 0x40000 * g)
          if l = 0 then f else f.keeperEvent g Ev.retire
        ((s.dev.gal g).spare < 9 →
          let sp := (s.dev.gal g).spare
          let e := ids.foldl (fun d id => d.sweepThread id (some (ownerTag { id with c := sp }))) (d.retireThreads ids)
          s.dev.retireCore g p = told
            (e.setGal g { e.gal g with spare := 9, retiring := (e.gal g).retiring ++ [⟨l, p, sp, e.drip.now⟩] })
            (ids.filter (fun id => ((e.thr id).current).isSome)).length sp)
        ∧ (9 ≤ (s.dev.gal g).spare →
          (l ≠ 0 → let x := d.dissolveCore g p ((d.keeper g).map ownerTag) true
            s.dev.retireCore g p = told (x.2.setGal g { x.2.gal g with coreMap := (x.2.gal g).coreMap.set l 9 }) x.1 15)
          ∧ (l = 0 → ∀ h ph, d.lastLogical g = some h → d.physOf g h = some ph →
            let x := d.dissolveCore g p (some (ownerTag ⟨g, ph, 0⟩)) true
            let y := x.2.dissolveCore g ph (some (ownerTag ⟨g, ph, 0⟩)) false
            s.dev.retireCore g p = told ((y.2.setGal g { y.2.gal g with
              coreMap := ((y.2.gal g).coreMap.set 0 ph).set h 9 }).startKeeper ⟨g, ph, 0⟩ (2 ^ Ev.retire)) (x.1 + y.1) 15)
          ∧ (l = 0 → d.lastLogical g = none →
            let x := d.dissolveCore g p none true
            s.dev.retireCore g p = told (x.2.setGal g { x.2.gal g with coreMap := (x.2.gal g).coreMap.set 0 9 }) x.1 15)))
      ∧ (∀ (d : Dev) (id : Tid), ((d.retireThread id).thr id).wait = Wait.idle ∧ ((d.retireThread id).thr id).macroRun = none
        ∧ (((d.retireThread id).thr id).state = .waiting ∨ ((d.retireThread id).thr id).state = .idle))
      ∧ (∀ (d : Dev) (h : Option Nat) (b : Bool), ∀ t < 8, let x := ((d.dissolveCore g p h b).2.thr ⟨g, p, t⟩)
        x = { Thread.init with rgen := x.rgen, mem := x.mem })
      ∧ (∀ r, s.dev.spareStart g r = (List.range 8).foldl (fun d t => d.startOnSpare r g t)
          ((s.dev.setGal g { s.dev.gal g with
            coreMap := (s.dev.gal g).coreMap.set r.logical r.spare, retiring := (s.dev.gal g).retiring.erase r }).loadCommon g
              r.logical r.spare)))
  ∧ (∀ (s : State), s.dev.mode ≠ Mode.cold →
      (∀ u place bank, u < 4 ∨ u = 5 ∨ u = 6 → memPlace u place = true →
        exec (.memoryError u place false bank) s = .next (s.withDev (s.dev.bump (R.hlthEccCe + 8 * u)))
        ∧ (u ≠ 6 → exec (.memoryError u place true bank) s = .next (s.withDev
          ((s.dev.bump (R.hlthEccUe + 8 * u)).memFail u place (bank = 1))))
        ∧ (u = 6 → exec (.memoryError u place true bank) s = .next (s.withDev (s.dev.bump (R.hlthEccCe + 48)))))
      ∧ (∀ place bad bank, memPlace 4 place = true → spFind s.dev.hlth.icErr place = none →
        exec (.memoryError 4 place bad bank) s = .next (s.withDev
          ((s.dev.onHlth (fun h => { h with icErr := spPut h.icErr place s.dev.drip.now })).bump (R.hlthEccCe + 32))))
      ∧ (∀ place t0 bad bank, memPlace 4 place = true → spFind s.dev.hlth.icErr place = some t0 → s.dev.drip.now < t0 + 1024 →
        exec (.memoryError 4 place bad bank) s = .next (s.withDev
          (((s.dev.onHlth (fun h => { h with icErr := spPut h.icErr place s.dev.drip.now })).bump (R.hlthEccUe + 32)).retireCore
            (place / 2 ^ 40 / 9) (place / 2 ^ 40 % 9))))
      ∧ (∀ u place bad bank, 7 ≤ u → u ≠ 10 → memPlace u place = true → exec (.memoryError u place bad bank) s = .next (s.withDev
          (if bad then s.dev.memFail u place (bank = 1) else s.dev)))
      ∧ (∀ place bank, exec (.memoryError 10 place true bank) s = .next (s.withDev (s.dev.breakSeal 3))
        ∧ exec (.memoryError 10 place false bank) s = .next s)
      ∧ (∀ n b, s.dev.memFail 0 n b = s.dev.onLard (fun l => { l with poison := spSet false l.poison n true })
        ∧ ((spFind s.dev.lard.cells n).isSome = true →
            s.dev.memFail 1 n b = s.dev.onLard (fun l => { l with linkBad := spSet false l.linkBad n true }))
        ∧ (spFind s.dev.lard.cells n = none → spGet false s.dev.lard.fenced n = false → s.dev.memFail 1 n b = s.dev.testFreed n 1)
        ∧ s.dev.memFail 2 n b = s.dev.onCores (fun c => { c with sramPoison := spSet false c.sramPoison n true })
        ∧ s.dev.memFail 3 n b = s.dev.retireCore (n / 9) (n % 9)
        ∧ (n < 32768 → s.dev.memFail 5 n b = (s.dev.setBankWord b (rowKey n 44) 0).incident 6 Code.poisoned 0 n (b2n b))
        ∧ (n < 1024 → s.dev.memFail 5 (65536 + n) b = (s.dev.loseRow true n b).incident 5 Code.poisoned 0 n (b2n b))
        ∧ s.dev.memFail 7 n b = s.dev.retireSeal n 6
        ∧ s.dev.memFail 8 n b = s.dev.retireFmt n 3
        ∧ s.dev.memFail 9 n b = if s.dev.serving then s.dev.hashFence n else s.dev)
      ∧ (∀ u, exec (.memoryScrub u []) s = .next s)
      ∧ (∀ u x xs t, exec (.memoryError u x.1 x.2.1 x.2.2) s = .next t →
        exec (.memoryScrub u (x :: xs)) s = exec (.memoryScrub u xs) t)
      ∧ (∀ g c, s.dev.serving = true → g < 16 → (s.dev.logicalOf g c).isSome = true →
        exec (.coreBist g c true) s = .next (s.withDev (s.dev.bump R.hlthBistPass))
        ∧ exec (.coreBist g c false) s = .next (s.withDev (s.dev.retireCore g c)))
      ∧ (∀ u n, s.dev.serving = true →
        (u = 0 ∧ n < 16 ∧ (s.dev.gal n).spare ≤ 8) ∨ (u = 1 ∧ n < 104 ∧ (s.dev.eng n).state = .spare)
          ∨ (u = 2 ∧ n < 18 ∧ (s.dev.fmtEng n).state = .spare) →
        let d := s.dev.onHlth (fun h => { h with spareTest := spSet 0 h.spareTest (256 * u + n) s.dev.drip.now })
        (spGet 0 s.dev.hlth.spareTest (256 * u + n) + s.dev.liveFld R.hlthBistCfg 15 0 * 1024 ≤ s.dev.drip.now →
          exec (.spareBist u n true) s = .next (s.withDev d) ∧ exec (.spareBist u n false) s = .next (s.withDev (d.spareFail u n)))
        ∧ (s.dev.drip.now < spGet 0 s.dev.hlth.spareTest (256 * u + n) + s.dev.liveFld R.hlthBistCfg 15 0 * 1024 →
          ∀ pass, exec (.spareBist u n pass) s = .next s))
      ∧ (∀ g < 16, (s.dev.gal g).spare < 9 → s.dev.spareFail 0 g =
          ((((s.dev.setGal g { s.dev.gal g with spare := 9, retired := (s.dev.gal g).retired ++ [(s.dev.gal g).spare] }).bump
            R.hlthSpareFail).incident 14 Code.orphaned 0 (9 * g + (s.dev.gal g).spare) 0)))
      ∧ (∀ e < 104, (s.dev.eng e).state = .spare → s.dev.spareFail 1 e =
          ((((s.dev.setEng e { s.dev.eng e with state := .retired }).bump R.hlthSpareFail).incident 15 Code.orphaned 0 e 0)))
      ∧ (∀ e < 18, (s.dev.fmtEng e).state = .spare → s.dev.spareFail 2 e =
          ((((s.dev.setFmtEng e { s.dev.fmtEng e with state := .retired }).bump R.hlthSpareFail).incident 16 Code.orphaned 0 e 0))))

/-- Lanes and pins (R476 to R478, R481, R482, R488): a fenced lane stays off; a lane that seeks its link tries the other
polarity; an eye below its margin is recorded once; a shorted pin is released until its fault is cleared; a fault of an external
sensor is recorded once. Temperature (R483, R484, R487): a sample shows each reading, and one that fails its check is not valid;
the level drops once 1,024 boundaries in a row were cool; the highest reading is that of the lowest sensor that gives it, the
sensors in the order of their numbers. Beside the rules, it follows the model's choices of assumptions 22, 40 and 41. -/
def Obligations.LanesPinsAndTemperature : Prop :=
  (∀ (s : State),
      (∀ l f, s.dev.lanesLive = true → l < 20 → 1 ≤ f → f ≤ 3 → s.dev.laneState l ≠ 3 →
        exec (.laneFence l f) s = .next (s.withDev (s.dev.fenceLane l f))
        ∧ (s.dev.fenceLane l f).laneState l = 3 ∧ (s.dev.fenceLane l f).ioFld (R.laneStat + 4 * l) 3 2 = f)
      ∧ (∀ l, s.dev.laneSeeks l = true →
        exec (.rxPolarityTry l) s = .next (s.withDev
          ((s.dev.setLane l 1 0 1).setLane l 4 4 (1 - s.dev.ioFld (R.laneStat + 4 * l) 4 4))))
      ∧ (∀ l, s.dev.laneSeeks l = true → s.dev.liveFld (R.laneCfg + 4 * l) 1 0 = 0 → spGet false s.dev.hlth.txTried l = false →
        ∃ (e : Dev), exec (.txPolarityInvert l) s = .next (s.withDev
          (e.onHlth (fun h => { h with txTried := spPut h.txTried l true })))
          ∧ e.ioFld (R.laneStat + 4 * l) 5 5 = 1 - s.dev.ioFld (R.laneStat + 4 * l) 5 5 ∧ e.laneState l = 1)
      ∧ (∀ l h, s.dev.serving = true → l < 20 → s.dev.drip.now < spGet 0 s.dev.hlth.eyeTest l + 2 ^ 20 →
        exec (.eyeMarginCheck l h) s = .next s)
      ∧ (∀ l h, s.dev.serving = true → l < 20 → h < 256 → spGet 0 s.dev.hlth.eyeTest l + 2 ^ 20 ≤ s.dev.drip.now →
        let d := (s.dev.setLane l 23 16 h).onHlth (fun x => { x with eyeTest := spSet 0 x.eyeTest l s.dev.drip.now })
        (h < d.liveFld (R.laneCfg + 4 * l) 9 2 → spGet false d.hlth.eyeLow l = false →
          exec (.eyeMarginCheck l h) s = .next (s.withDev
            ((d.onHlth (fun x => { x with eyeLow := spPut x.eyeLow l true })).incident 4 Code.timeout 0 l h)))
        ∧ (h < d.liveFld (R.laneCfg + 4 * l) 9 2 → spGet false d.hlth.eyeLow l = true →
          exec (.eyeMarginCheck l h) s = .next (s.withDev d))
        ∧ (h = d.liveFld (R.laneCfg + 4 * l) 9 2 → exec (.eyeMarginCheck l h) s = .next (s.withDev d))
        ∧ (d.liveFld (R.laneCfg + 4 * l) 9 2 < h → exec (.eyeMarginCheck l h) s = .next (s.withDev
            (d.onHlth (fun x => { x with eyeLow := spErase x.eyeLow l })))))
      ∧ (∀ p, s.dev.mode ≠ Mode.cold → s.dev.pinDrives p = true → spGet false s.dev.hlth.highZ p = false →
        let v := if p = 16 then b2n (s.dev.ioFld R.hlthTdie 17 16 = 0) else if p = 17 then 1 - s.dev.ioFld R.hlthTdie 18 18
          else s.dev.ioFld R.hlthGpioOut p p
        exec (.gpioShort p) s = .next (s.withDev
          (((s.dev.onHlth (fun h => { h with highZ := spPut h.highZ p true })).setIoBit R.hlthGpioFault p).incident 23 Code.orphaned
            0 p v)))
      ∧ (∀ m p, s.dev.noPath m = false → s.dev.serving = true → p < 18 →
        exec (.gpioFaultClear m (2 ^ p)) s = .next (s.withDev
          ((s.dev.setIoFld R.hlthGpioFault p p 0).onHlth (fun h => { h with highZ := spErase h.highZ p }))))
      ∧ (∀ x f, s.dev.mode ≠ Mode.cold → x < 2 → f = 1 ∨ f = 2 → s.dev.ioFld (R.hlthXtemp + 4 * x) 9 8 ≠ f →
        exec (.xtempFault x f) s = .next (s.withDev
          ((s.dev.setIoFld (R.hlthXtemp + 4 * x) 9 8 f).incident 23 Code.orphaned 0 (18 + x) f))))
  ∧ ((∀ (s : State) (temps : List (Option Int)) (sr : Int), s.dev.mode ≠ Mode.cold →
      exec (.sensorSample temps sr) s = .next (s.withDev ((List.zip (List.range 42) temps).foldl
        (fun d x => if x.1 < 40 then d.sensorRead x.1 x.2 else d.xtempRead (x.1 - 40) x.2) (s.dev.holdTemp sr))))
    ∧ (∀ (d : Dev) (x : Nat) (t : Int), x < 40 → -128 ≤ t → t ≤ 127 →
      (d.sensorRead x (some t)).io (R.hlthTemp + 4 * x) = ofSigned 8 t + 2 ^ 8
      ∧ bitOf ((d.sensorRead x none).io (R.hlthTemp + 4 * x)) 8 = false)
    ∧ (∀ s : State, s.dev.serving = true → 1024 ≤ s.dev.hlth.cool → exec .thermalLevelDrop s = .next (s.withDev
        (s.dev.setLevel (s.dev.levelFor (toSigned 8 (s.dev.io R.hlthTdie)) 3) Code.ok)))
    ∧ (∀ (d : Dev) (n c : Nat), n < 4 → (d.setLevel n c).ioFld R.hlthTdie 17 16 = n ∧ (d.setLevel n c).hlth.cool = 0)
    ∧ (∀ (d : Dev) (t less : Int) (n : Nat), d.levelFor t less = n → n ≤ 3 ∧ (n ≠ 0 → d.levelAt n - less ≤ t)
        ∧ ∀ k, n < k → k ≤ 3 → t < d.levelAt k - less)
    ∧ (∀ (d : Dev) (x : Nat) (t : Int), x < 2 → -128 ≤ t → t ≤ 127 →
      (d.xtempRead x (some t)).ioFld (R.hlthXtemp + 4 * x) 7 0 = ofSigned 8 t
      ∧ (d.xtempRead x (some t)).ioFld (R.hlthXtemp + 4 * x) 9 8 = 0)
    ∧ (∀ (l : List (Nat × Int)) (x : Nat × Int), hottest l = some x →
        ∃ pre post, l = pre ++ x :: post ∧ (∀ y ∈ pre, y.2 < x.2) ∧ ∀ y ∈ post, y.2 ≤ x.2)
    ∧ (∀ d : Dev, d.readings.Pairwise (fun a b => a.1 < b.1))
    ∧ (∀ l : List (Nat × Int), hottest l = none ↔ l = []))

/-- The debugger (R517): HALT stops an idle, ready or waiting thread, one within a macro at its end; RESUME lets a halted one go
on, STEP lets it issue one instruction, and the op is busy until that has run; on any other state the op completes with
RESERVED_VALUE and changes no thread. Beside the rules, it follows the model's choices of assumptions 30 and 43. -/
def Obligations.Debugger : Prop :=
  ∀ (s : State) (m : Nat) (id : Tid), m = 3 ∨ m = 4 → s.dev.noPath m = false → s.dev.serving = true →
    s.dev.dbugBusy m = false → s.dev.dbugThread m = some id →
    let t := s.dev.thr id
    let d := (s.dev.setPer m R.dbugStat (s.dev.dbugCode m * 2 ^ 8)).onCores (fun c => { c with halting := spErase c.halting m })
    let done (d : Dev) (code : Nat) := d.setPer m R.dbugStat (code * 2 ^ 8)
    let late (d : Dev) := d.onCores (fun c => { c with halting := spPut c.halting m id })
    (t.state = .idle → t.haltReq = false → exec (.dbgHalt m) s = .next (s.withDev
      (done (d.updThr id (fun t => { t with state := .halted })) Code.ok)))
    ∧ (t.state = .ready → t.haltReq = false → t.macroRun = none → exec (.dbgHalt m) s = .next (s.withDev
      (done (d.updThr id (fun t => { t with state := .halted, stepping := false })) Code.ok)))
    ∧ (t.state = .waiting → t.wait.kind ≠ .sess → t.macroRun = none → exec (.dbgHalt m) s = .next (s.withDev
      (done (d.haltWait id) Code.ok)) ∧ ((d.haltWait id).thr id).state = .halted)
    ∧ (t.state = .ready ∧ t.macroRun ≠ none ∨ t.state = .waiting ∧ (t.wait.kind = .sess ∨ t.macroRun ≠ none) →
      exec (.dbgHalt m) s = .next (s.withDev (late (d.updThr id (fun t => { t with haltReq := true })))))
    ∧ (t.state = .halted →
      (t.haltReq = false → t.stepping = false → exec (.dbgResume m) s = .next (s.withDev
        (done (d.updThr id (fun t => { t with state := if t.running || s.dev.isKeeper id then .ready else .idle })) Code.ok)))
      ∧ exec (.dbgStep m) s = .next (s.withDev
        (late (d.updThr id (fun t => { t with state := .ready, stepping := true })))))
    ∧ (t.state ≠ .halted →
      exec (.dbgResume m) s = .next (s.withDev (done d Code.reserved))
      ∧ exec (.dbgStep m) s = .next (s.withDev (done d Code.reserved)))
    ∧ (t.state = .halted ∨ t.state = .parked → exec (.dbgHalt m) s = .next (s.withDev (done d Code.reserved)))

/-! ## What no command of a kind can do -/

/-- The memories keep their canonical form, addresses rising and no byte listed that reads as 0, under every command that
completes, so under every step, and under every block that a unit writes (assumption 5). -/
def Obligations.StoresKeepMemories : Prop :=
  (∀ (c : Instr) (s t : State), exec c s = .next t → s.dev.memoriesWf = true → t.dev.memoriesWf = true)
  ∧ (∀ s t : State, step s = .next t → s.dev.memoriesWf = true → t.dev.memoriesWf = true)
  ∧ (∀ (d : Dev) (j : Job) (p : Ptr) (bs : Bytes), d.memoriesWf = true → (d.ptrWrite j p bs).memoriesWf = true)

/-- A broken seal stays broken and the change counter never falls (R372, R373), whatever command completes; what reaches the
Strongroom, breaks its seal or takes its power leaves the counter as it is. -/
def Obligations.SealStaysBroken : Prop :=
  (∀ (c : Instr) (s t : State), exec c s = .next t →
    s.dev.strong.chg ≤ t.dev.strong.chg ∧ (s.dev.strong.sealOk = false → t.dev.strong.sealOk = false))
  ∧ (∀ s t : State, step s = .next t →
    s.dev.strong.chg ≤ t.dev.strong.chg ∧ (s.dev.strong.sealOk = false → t.dev.strong.sealOk = false))
  ∧ (∀ (c : Instr) (s t : State), reachesStrongroom c = true → exec c s = .next t → t.dev.strong.chg = s.dev.strong.chg)
  ∧ (∀ (place bank : Nat) (bad : Bool) (s t : State), exec (.memoryError 10 place bad bank) s = .next t →
      t.dev.strong.chg = s.dev.strong.chg)
  ∧ (∀ (s t : State), exec .resetAssert s = .next t →
      t.dev.strong.sealOk = s.dev.strong.sealOk ∧ t.dev.strong.chg = s.dev.strong.chg)
end

