-- ==== Sys2Proof/Laws/Sp.lean ====
section
/-! SUPPORT. The laws of the sparse stores: what a read gives after a write or an erasure, and that every operation keeps
the canonical form. -/

namespace Sys2Proof.Machine

variable {V : Type}

@[simp] theorem spGet_nil (d : V) (k : Nat) : spGet d [] k = d := rfl

@[simp] theorem spFind_nil (k : Nat) : spFind ([] : Map V) k = none := rfl

@[simp] theorem spSorted_nil : spSorted ([] : Map V) = true := rfl

@[simp] theorem spWf_nil [DecidableEq V] (d : V) : spWf d [] = true := rfl

/-- A read is the listed entry, or the default. -/
theorem spGet_eq_spFind (d : V) (m : Map V) (k : Nat) : spGet d m k = (spFind m k).getD d := by
  induction m with
  | nil => rfl
  | cons e m ih => obtain ⟨k', v'⟩ := e; simp only [spGet, spFind]; split <;> simp_all

/-! ## Listing a value -/

@[simp] theorem spFind_spPut_same (m : Map V) (k : Nat) (v : V) : spFind (spPut m k v) k = some v := by
  induction m with
  | nil => simp [spPut, spFind]
  | cons e m ih => obtain ⟨k', v'⟩ := e; simp only [spPut]; split <;> (try split) <;> simp_all [spFind]

theorem spFind_spPut_ne (m : Map V) (k j : Nat) (v : V) (h : j ≠ k) : spFind (spPut m k v) j = spFind m j := by
  induction m with
  | nil => simp [spPut, spFind, h]
  | cons e m ih =>
    obtain ⟨k', v'⟩ := e
    simp only [spPut]
    split
    · subst k'; simp [spFind, h]
    · split <;> simp [spFind, h, ih]

@[simp] theorem spGet_spPut_same (d : V) (m : Map V) (k : Nat) (v : V) : spGet d (spPut m k v) k = v := by
  simp [spGet_eq_spFind]

theorem spGet_spPut_ne (d : V) (m : Map V) (k j : Nat) (v : V) (h : j ≠ k) :
    spGet d (spPut m k v) j = spGet d m j := by
  simp [spGet_eq_spFind, spFind_spPut_ne m k j v h]

theorem spAbove_spPut (j : Nat) (m : Map V) (k : Nat) (v : V) (h : spAbove j m = true) (hk : j < k) :
    spAbove j (spPut m k v) = true := by
  cases m with
  | nil => simp [spPut, spAbove, hk]
  | cons e m =>
    obtain ⟨k', v'⟩ := e
    simp only [spPut]; split <;> (try split) <;> simp_all [spAbove]

theorem spSorted_spPut (m : Map V) (k : Nat) (v : V) (h : spSorted m = true) : spSorted (spPut m k v) = true := by
  induction m with
  | nil => rfl
  | cons e m ih =>
    obtain ⟨k', v'⟩ := e
    simp only [spSorted, Bool.and_eq_true] at h
    simp only [spPut]
    split
    · subst k'; simp [spSorted, h.1, h.2]
    · split
      · simp only [spSorted, Bool.and_eq_true]
        exact ⟨by simp [spAbove]; omega, h.1, h.2⟩
      · simp only [spSorted, Bool.and_eq_true]
        exact ⟨spAbove_spPut _ _ _ _ h.1 (by omega), ih h.2⟩

theorem spPut_spPut_same (m : Map V) (k : Nat) (v w : V) : spPut (spPut m k v) k w = spPut m k w := by
  induction m with
  | nil => simp [spPut]
  | cons e m ih =>
    obtain ⟨k', v'⟩ := e
    simp only [spPut]
    split
    · simp [spPut]
    · split <;> simp [spPut, *]

/-- Listing a value lists no other entry. -/
theorem mem_spPut (m : Map V) (k : Nat) (v : V) (e : Nat × V) (h : e ∈ spPut m k v) : e = (k, v) ∨ e ∈ m := by
  induction m with
  | nil => simpa [spPut] using h
  | cons x m ih =>
    obtain ⟨k', v'⟩ := x
    simp only [spPut] at h
    split at h
    · rcases List.mem_cons.mp h with h | h
      · exact .inl h
      · exact .inr (List.mem_cons_of_mem _ h)
    · split at h
      · exact (List.mem_cons.mp h).imp id id
      · rcases List.mem_cons.mp h with h | h
        · exact .inr (h ▸ List.mem_cons_self)
        · exact (ih h).imp id (List.mem_cons_of_mem _)

/-! ## Removing an entry -/

@[simp] theorem spFind_spErase_same (m : Map V) (k : Nat) : spFind (spErase m k) k = none := by
  induction m with
  | nil => rfl
  | cons e m ih => obtain ⟨k', v'⟩ := e; simp only [spErase]; split <;> simp_all [spFind]

theorem spFind_spErase_ne (m : Map V) (k j : Nat) (h : j ≠ k) : spFind (spErase m k) j = spFind m j := by
  induction m with
  | nil => rfl
  | cons e m ih =>
    obtain ⟨k', v'⟩ := e
    simp only [spErase]
    split
    · subst k'; simp [spFind, h, ih]
    · simp [spFind, ih]

@[simp] theorem spGet_spErase_same (d : V) (m : Map V) (k : Nat) : spGet d (spErase m k) k = d := by
  simp [spGet_eq_spFind]

theorem spGet_spErase_ne (d : V) (m : Map V) (k j : Nat) (h : j ≠ k) : spGet d (spErase m k) j = spGet d m j := by
  simp [spGet_eq_spFind, spFind_spErase_ne m k j h]

/-- Removing an entry lists no other. -/
theorem spErase_spPut_same (m : Map V) (k : Nat) (v : V) : spErase (spPut m k v) k = spErase m k := by
  induction m with
  | nil => simp [spPut, spErase]
  | cons e m ih =>
    obtain ⟨k', v'⟩ := e
    simp only [spPut]
    split
    · simp [spErase, *]
    · split <;> simp [spErase, *]

theorem mem_spErase (m : Map V) (k : Nat) (e : Nat × V) (h : e ∈ spErase m k) : e ∈ m := by
  induction m with
  | nil => exact h
  | cons x m ih =>
    obtain ⟨k', v'⟩ := x
    simp only [spErase] at h
    split at h
    · exact List.mem_cons_of_mem _ (ih h)
    · rcases List.mem_cons.mp h with h | h
      · exact h ▸ List.mem_cons_self
      · exact List.mem_cons_of_mem _ (ih h)

theorem spAbove_iff (j : Nat) (m : Map V) (hs : spSorted m = true) : spAbove j m = true ↔ ∀ e ∈ m, j < e.1 := by
  induction m generalizing j with
  | nil => simp [spAbove]
  | cons e m ih =>
    obtain ⟨k, v⟩ := e
    simp only [spSorted, Bool.and_eq_true] at hs
    have := (ih k hs.2).mp hs.1
    simp only [spAbove, decide_eq_true_eq, List.forall_mem_cons]
    exact ⟨fun h => ⟨h, fun e he => Nat.lt_trans h (this e he)⟩, fun h => h.1⟩

theorem spSorted_spErase (m : Map V) (k : Nat) (h : spSorted m = true) : spSorted (spErase m k) = true := by
  induction m with
  | nil => rfl
  | cons e m ih =>
    obtain ⟨k', v'⟩ := e
    simp only [spSorted, Bool.and_eq_true] at h
    simp only [spErase]
    split
    · exact ih h.2
    · simp only [spSorted, Bool.and_eq_true]
      refine ⟨(spAbove_iff _ _ (ih h.2)).mpr fun e he => ?_, ih h.2⟩
      exact (spAbove_iff _ _ h.2).mp h.1 e (mem_spErase m k e he)

/-! ## Writing a value -/

theorem spWf_iff [DecidableEq V] (d : V) (m : Map V) : spWf d m = true ↔ spSorted m = true ∧ ∀ e ∈ m, e.2 ≠ d := by
  simp [spWf]

theorem spFind_spSet_ne [DecidableEq V] (d : V) (m : Map V) (k j : Nat) (v : V) (h : j ≠ k) :
    spFind (spSet d m k v) j = spFind m j := by
  simp only [spSet]
  split
  · exact spFind_spErase_ne m k j h
  · exact spFind_spPut_ne m k j v h

@[simp] theorem spGet_spSet_same [DecidableEq V] (d : V) (m : Map V) (k : Nat) (v : V) :
    spGet d (spSet d m k v) k = v := by
  unfold spSet; split <;> simp_all

/-- Of two writes to one key the second stands, where the first lists a value. -/
theorem spSet_spSet_same [DecidableEq V] (d : V) (m : Map V) (k : Nat) (v w : V) (h : v ≠ d) :
    spSet d (spSet d m k v) k w = spSet d m k w := by
  simp only [spSet, h, if_false]
  split
  · exact spErase_spPut_same m k v
  · exact spPut_spPut_same m k v w

theorem spGet_spSet_ne [DecidableEq V] (d : V) (m : Map V) (k j : Nat) (v : V) (h : j ≠ k) :
    spGet d (spSet d m k v) j = spGet d m j := by
  unfold spSet; split
  · exact spGet_spErase_ne d m k j h
  · exact spGet_spPut_ne d m k j v h

theorem spSorted_spSet [DecidableEq V] (d : V) (m : Map V) (k : Nat) (v : V) (h : spSorted m = true) :
    spSorted (spSet d m k v) = true := by
  unfold spSet; split
  · exact spSorted_spErase m k h
  · exact spSorted_spPut m k v h

/-- A write keeps the canonical form. -/
theorem spWf_spSet [DecidableEq V] (d : V) (m : Map V) (k : Nat) (v : V) (h : spWf d m = true) :
    spWf d (spSet d m k v) = true := by
  rw [spWf_iff] at h ⊢
  refine ⟨spSorted_spSet d m k v h.1, fun e he => ?_⟩
  unfold spSet at he
  split at he
  · exact h.2 e (mem_spErase m k e he)
  · rcases mem_spPut m k v e he with rfl | he
    · assumption
    · exact h.2 e he

/-- Removing an entry keeps the canonical form. -/
theorem spWf_spErase [DecidableEq V] (d : V) (m : Map V) (k : Nat) (h : spWf d m = true) :
    spWf d (spErase m k) = true := by
  rw [spWf_iff] at h ⊢
  exact ⟨spSorted_spErase m k h.1, fun e he => h.2 e (mem_spErase m k e he)⟩

theorem spFind_of_spAbove (m : Map V) (k : Nat) (hs : spSorted m = true) (h : spAbove k m = true) : spFind m k = none := by
  induction m with
  | nil => rfl
  | cons e m ih =>
    obtain ⟨k', v'⟩ := e
    have hs' := hs
    simp only [spSorted, Bool.and_eq_true] at hs
    have h' := (spAbove_iff _ _ hs').mp h
    simp only [spFind]
    rw [if_neg (by have := h' _ List.mem_cons_self; simp only at this; omega)]
    exact ih hs.2 ((spAbove_iff _ _ hs.2).mpr fun e he => h' e (List.mem_cons_of_mem _ he))

/-- Two canonical stores that read alike are the same. -/
theorem spWf_ext [DecidableEq V] (d : V) (m n : Map V) (hm : spWf d m = true) (hn : spWf d n = true)
    (h : ∀ k, spGet d m k = spGet d n k) : m = n := by
  induction m generalizing n with
  | nil =>
    cases n with
    | nil => rfl
    | cons e n =>
      obtain ⟨k, v⟩ := e
      have := h k
      simp only [spGet, if_true] at this
      exact absurd this.symm (((spWf_iff d _).mp hn).2 _ List.mem_cons_self)
  | cons e m ih =>
    obtain ⟨k, v⟩ := e
    obtain ⟨hms, hmd⟩ := (spWf_iff d _).mp hm
    cases n with
    | nil =>
      have := h k
      simp only [spGet, if_true] at this
      exact absurd this (hmd _ List.mem_cons_self)
    | cons e' n =>
      obtain ⟨k', v'⟩ := e'
      obtain ⟨hns, hnd⟩ := (spWf_iff d _).mp hn
      have hn' := hns
      have hm' := hms
      simp only [spSorted, Bool.and_eq_true] at hms hns
      have below : ∀ {j i : Nat} {l : Map V}, spSorted l = true → spAbove i l = true → j < i → spFind l j = none :=
        fun hl ha hj => spFind_of_spAbove _ _ hl ((spAbove_iff _ _ hl).mpr fun e he =>
          Nat.lt_trans hj ((spAbove_iff _ _ hl).mp ha e he))
      have hk : k = k' := by
        rcases Nat.lt_trichotomy k k' with hlt | heq | hgt
        · have := h k
          simp only [spGet, if_true] at this
          rw [if_neg (by omega), spGet_eq_spFind, below hns.2 hns.1 hlt] at this
          exact absurd this (hmd _ List.mem_cons_self)
        · exact heq
        · have := h k'
          simp only [spGet, if_true] at this
          rw [if_neg (by omega), spGet_eq_spFind, below hms.2 hms.1 hgt] at this
          exact absurd this.symm (hnd _ List.mem_cons_self)
      subst hk
      have hv : v = v' := by have := h k; simpa [spGet] using this
      subst hv
      congr 1
      refine ih n ((spWf_iff d _).mpr ⟨hms.2, fun e he => hmd e (List.mem_cons_of_mem _ he)⟩)
        ((spWf_iff d _).mpr ⟨hns.2, fun e he => hnd e (List.mem_cons_of_mem _ he)⟩) (fun j => ?_)
      by_cases hj : j = k
      · subst hj
        rw [spGet_eq_spFind, spGet_eq_spFind, spFind_of_spAbove _ _ hms.2 hms.1, spFind_of_spAbove _ _ hns.2 hns.1]
      · have := h j
        simp only [spGet] at this
        rwa [if_neg hj, if_neg hj] at this

end Sys2Proof.Machine
end

