-- ==== Sys2Proof/Laws/State.lean ====
section
/-! SUPPORT. What each update of a part of the device does to every part, and what popping the queue leaves. -/

namespace Sys2Proof.Machine

variable (d : Dev)

/-! ## out -/

@[simp] theorem Dev.onOut_out (f : List Out → List Out) : (d.onOut f).out = f d.out := rfl
@[simp] theorem Dev.onOut_csr (f : List Out → List Out) : (d.onOut f).csr = d.csr := rfl
@[simp] theorem Dev.onOut_drip (f : List Out → List Out) : (d.onOut f).drip = d.drip := rfl
@[simp] theorem Dev.onOut_host (f : List Out → List Out) : (d.onOut f).host = d.host := rfl
@[simp] theorem Dev.onOut_lard (f : List Out → List Out) : (d.onOut f).lard = d.lard := rfl
@[simp] theorem Dev.onOut_egrs (f : List Out → List Out) : (d.onOut f).egrs = d.egrs := rfl
@[simp] theorem Dev.onOut_ingr (f : List Out → List Out) : (d.onOut f).ingr = d.ingr := rfl
@[simp] theorem Dev.onOut_cores (f : List Out → List Out) : (d.onOut f).cores = d.cores := rfl
@[simp] theorem Dev.onOut_latches (f : List Out → List Out) : (d.onOut f).latches = d.latches := rfl
@[simp] theorem Dev.onOut_help (f : List Out → List Out) : (d.onOut f).help = d.help := rfl
@[simp] theorem Dev.onOut_disp (f : List Out → List Out) : (d.onOut f).disp = d.disp := rfl
@[simp] theorem Dev.onOut_dmem (f : List Out → List Out) : (d.onOut f).dmem = d.dmem := rfl
@[simp] theorem Dev.onOut_fwd (f : List Out → List Out) : (d.onOut f).fwd = d.fwd := rfl
@[simp] theorem Dev.onOut_strong (f : List Out → List Out) : (d.onOut f).strong = d.strong := rfl
@[simp] theorem Dev.onOut_book (f : List Out → List Out) : (d.onOut f).book = d.book := rfl
@[simp] theorem Dev.onOut_sess (f : List Out → List Out) : (d.onOut f).sess = d.sess := rfl
@[simp] theorem Dev.onOut_pool (f : List Out → List Out) : (d.onOut f).pool = d.pool := rfl
@[simp] theorem Dev.onOut_fmt (f : List Out → List Out) : (d.onOut f).fmt = d.fmt := rfl
@[simp] theorem Dev.onOut_lode (f : List Out → List Out) : (d.onOut f).lode = d.lode := rfl
@[simp] theorem Dev.onOut_dctl (f : List Out → List Out) : (d.onOut f).dctl = d.dctl := rfl
@[simp] theorem Dev.onOut_load (f : List Out → List Out) : (d.onOut f).load = d.load := rfl
@[simp] theorem Dev.onOut_rope (f : List Out → List Out) : (d.onOut f).rope = d.rope := rfl
@[simp] theorem Dev.onOut_hlth (f : List Out → List Out) : (d.onOut f).hlth = d.hlth := rfl
@[simp] theorem Dev.onOut_elec (f : List Out → List Out) : (d.onOut f).elec = d.elec := rfl
@[simp] theorem Dev.onOut_free (f : List Out → List Out) : (d.onOut f).free = d.free := rfl

/-! ## csr -/

@[simp] theorem Dev.onCsr_out (f : Csr → Csr) : (d.onCsr f).out = d.out := rfl
@[simp] theorem Dev.onCsr_csr (f : Csr → Csr) : (d.onCsr f).csr = f d.csr := rfl
@[simp] theorem Dev.onCsr_drip (f : Csr → Csr) : (d.onCsr f).drip = d.drip := rfl
@[simp] theorem Dev.onCsr_host (f : Csr → Csr) : (d.onCsr f).host = d.host := rfl
@[simp] theorem Dev.onCsr_lard (f : Csr → Csr) : (d.onCsr f).lard = d.lard := rfl
@[simp] theorem Dev.onCsr_egrs (f : Csr → Csr) : (d.onCsr f).egrs = d.egrs := rfl
@[simp] theorem Dev.onCsr_ingr (f : Csr → Csr) : (d.onCsr f).ingr = d.ingr := rfl
@[simp] theorem Dev.onCsr_cores (f : Csr → Csr) : (d.onCsr f).cores = d.cores := rfl
@[simp] theorem Dev.onCsr_latches (f : Csr → Csr) : (d.onCsr f).latches = d.latches := rfl
@[simp] theorem Dev.onCsr_help (f : Csr → Csr) : (d.onCsr f).help = d.help := rfl
@[simp] theorem Dev.onCsr_disp (f : Csr → Csr) : (d.onCsr f).disp = d.disp := rfl
@[simp] theorem Dev.onCsr_dmem (f : Csr → Csr) : (d.onCsr f).dmem = d.dmem := rfl
@[simp] theorem Dev.onCsr_fwd (f : Csr → Csr) : (d.onCsr f).fwd = d.fwd := rfl
@[simp] theorem Dev.onCsr_strong (f : Csr → Csr) : (d.onCsr f).strong = d.strong := rfl
@[simp] theorem Dev.onCsr_book (f : Csr → Csr) : (d.onCsr f).book = d.book := rfl
@[simp] theorem Dev.onCsr_sess (f : Csr → Csr) : (d.onCsr f).sess = d.sess := rfl
@[simp] theorem Dev.onCsr_pool (f : Csr → Csr) : (d.onCsr f).pool = d.pool := rfl
@[simp] theorem Dev.onCsr_fmt (f : Csr → Csr) : (d.onCsr f).fmt = d.fmt := rfl
@[simp] theorem Dev.onCsr_lode (f : Csr → Csr) : (d.onCsr f).lode = d.lode := rfl
@[simp] theorem Dev.onCsr_dctl (f : Csr → Csr) : (d.onCsr f).dctl = d.dctl := rfl
@[simp] theorem Dev.onCsr_load (f : Csr → Csr) : (d.onCsr f).load = d.load := rfl
@[simp] theorem Dev.onCsr_rope (f : Csr → Csr) : (d.onCsr f).rope = d.rope := rfl
@[simp] theorem Dev.onCsr_hlth (f : Csr → Csr) : (d.onCsr f).hlth = d.hlth := rfl
@[simp] theorem Dev.onCsr_elec (f : Csr → Csr) : (d.onCsr f).elec = d.elec := rfl
@[simp] theorem Dev.onCsr_free (f : Csr → Csr) : (d.onCsr f).free = d.free := rfl

/-! ## drip -/

@[simp] theorem Dev.onDrip_out (f : Drip → Drip) : (d.onDrip f).out = d.out := rfl
@[simp] theorem Dev.onDrip_csr (f : Drip → Drip) : (d.onDrip f).csr = d.csr := rfl
@[simp] theorem Dev.onDrip_drip (f : Drip → Drip) : (d.onDrip f).drip = f d.drip := rfl
@[simp] theorem Dev.onDrip_host (f : Drip → Drip) : (d.onDrip f).host = d.host := rfl
@[simp] theorem Dev.onDrip_lard (f : Drip → Drip) : (d.onDrip f).lard = d.lard := rfl
@[simp] theorem Dev.onDrip_egrs (f : Drip → Drip) : (d.onDrip f).egrs = d.egrs := rfl
@[simp] theorem Dev.onDrip_ingr (f : Drip → Drip) : (d.onDrip f).ingr = d.ingr := rfl
@[simp] theorem Dev.onDrip_cores (f : Drip → Drip) : (d.onDrip f).cores = d.cores := rfl
@[simp] theorem Dev.onDrip_latches (f : Drip → Drip) : (d.onDrip f).latches = d.latches := rfl
@[simp] theorem Dev.onDrip_help (f : Drip → Drip) : (d.onDrip f).help = d.help := rfl
@[simp] theorem Dev.onDrip_disp (f : Drip → Drip) : (d.onDrip f).disp = d.disp := rfl
@[simp] theorem Dev.onDrip_dmem (f : Drip → Drip) : (d.onDrip f).dmem = d.dmem := rfl
@[simp] theorem Dev.onDrip_fwd (f : Drip → Drip) : (d.onDrip f).fwd = d.fwd := rfl
@[simp] theorem Dev.onDrip_strong (f : Drip → Drip) : (d.onDrip f).strong = d.strong := rfl
@[simp] theorem Dev.onDrip_book (f : Drip → Drip) : (d.onDrip f).book = d.book := rfl
@[simp] theorem Dev.onDrip_sess (f : Drip → Drip) : (d.onDrip f).sess = d.sess := rfl
@[simp] theorem Dev.onDrip_pool (f : Drip → Drip) : (d.onDrip f).pool = d.pool := rfl
@[simp] theorem Dev.onDrip_fmt (f : Drip → Drip) : (d.onDrip f).fmt = d.fmt := rfl
@[simp] theorem Dev.onDrip_lode (f : Drip → Drip) : (d.onDrip f).lode = d.lode := rfl
@[simp] theorem Dev.onDrip_dctl (f : Drip → Drip) : (d.onDrip f).dctl = d.dctl := rfl
@[simp] theorem Dev.onDrip_load (f : Drip → Drip) : (d.onDrip f).load = d.load := rfl
@[simp] theorem Dev.onDrip_rope (f : Drip → Drip) : (d.onDrip f).rope = d.rope := rfl
@[simp] theorem Dev.onDrip_hlth (f : Drip → Drip) : (d.onDrip f).hlth = d.hlth := rfl
@[simp] theorem Dev.onDrip_elec (f : Drip → Drip) : (d.onDrip f).elec = d.elec := rfl
@[simp] theorem Dev.onDrip_free (f : Drip → Drip) : (d.onDrip f).free = d.free := rfl

/-! ## host -/

@[simp] theorem Dev.onHost_out (f : HostPort → HostPort) : (d.onHost f).out = d.out := rfl
@[simp] theorem Dev.onHost_csr (f : HostPort → HostPort) : (d.onHost f).csr = d.csr := rfl
@[simp] theorem Dev.onHost_drip (f : HostPort → HostPort) : (d.onHost f).drip = d.drip := rfl
@[simp] theorem Dev.onHost_host (f : HostPort → HostPort) : (d.onHost f).host = f d.host := rfl
@[simp] theorem Dev.onHost_lard (f : HostPort → HostPort) : (d.onHost f).lard = d.lard := rfl
@[simp] theorem Dev.onHost_egrs (f : HostPort → HostPort) : (d.onHost f).egrs = d.egrs := rfl
@[simp] theorem Dev.onHost_ingr (f : HostPort → HostPort) : (d.onHost f).ingr = d.ingr := rfl
@[simp] theorem Dev.onHost_cores (f : HostPort → HostPort) : (d.onHost f).cores = d.cores := rfl
@[simp] theorem Dev.onHost_latches (f : HostPort → HostPort) : (d.onHost f).latches = d.latches := rfl
@[simp] theorem Dev.onHost_help (f : HostPort → HostPort) : (d.onHost f).help = d.help := rfl
@[simp] theorem Dev.onHost_disp (f : HostPort → HostPort) : (d.onHost f).disp = d.disp := rfl
@[simp] theorem Dev.onHost_dmem (f : HostPort → HostPort) : (d.onHost f).dmem = d.dmem := rfl
@[simp] theorem Dev.onHost_fwd (f : HostPort → HostPort) : (d.onHost f).fwd = d.fwd := rfl
@[simp] theorem Dev.onHost_strong (f : HostPort → HostPort) : (d.onHost f).strong = d.strong := rfl
@[simp] theorem Dev.onHost_book (f : HostPort → HostPort) : (d.onHost f).book = d.book := rfl
@[simp] theorem Dev.onHost_sess (f : HostPort → HostPort) : (d.onHost f).sess = d.sess := rfl
@[simp] theorem Dev.onHost_pool (f : HostPort → HostPort) : (d.onHost f).pool = d.pool := rfl
@[simp] theorem Dev.onHost_fmt (f : HostPort → HostPort) : (d.onHost f).fmt = d.fmt := rfl
@[simp] theorem Dev.onHost_lode (f : HostPort → HostPort) : (d.onHost f).lode = d.lode := rfl
@[simp] theorem Dev.onHost_dctl (f : HostPort → HostPort) : (d.onHost f).dctl = d.dctl := rfl
@[simp] theorem Dev.onHost_load (f : HostPort → HostPort) : (d.onHost f).load = d.load := rfl
@[simp] theorem Dev.onHost_rope (f : HostPort → HostPort) : (d.onHost f).rope = d.rope := rfl
@[simp] theorem Dev.onHost_hlth (f : HostPort → HostPort) : (d.onHost f).hlth = d.hlth := rfl
@[simp] theorem Dev.onHost_elec (f : HostPort → HostPort) : (d.onHost f).elec = d.elec := rfl
@[simp] theorem Dev.onHost_free (f : HostPort → HostPort) : (d.onHost f).free = d.free := rfl

/-! ## lard -/

@[simp] theorem Dev.onLard_out (f : Lard → Lard) : (d.onLard f).out = d.out := rfl
@[simp] theorem Dev.onLard_csr (f : Lard → Lard) : (d.onLard f).csr = d.csr := rfl
@[simp] theorem Dev.onLard_drip (f : Lard → Lard) : (d.onLard f).drip = d.drip := rfl
@[simp] theorem Dev.onLard_host (f : Lard → Lard) : (d.onLard f).host = d.host := rfl
@[simp] theorem Dev.onLard_lard (f : Lard → Lard) : (d.onLard f).lard = f d.lard := rfl
@[simp] theorem Dev.onLard_egrs (f : Lard → Lard) : (d.onLard f).egrs = d.egrs := rfl
@[simp] theorem Dev.onLard_ingr (f : Lard → Lard) : (d.onLard f).ingr = d.ingr := rfl
@[simp] theorem Dev.onLard_cores (f : Lard → Lard) : (d.onLard f).cores = d.cores := rfl
@[simp] theorem Dev.onLard_latches (f : Lard → Lard) : (d.onLard f).latches = d.latches := rfl
@[simp] theorem Dev.onLard_help (f : Lard → Lard) : (d.onLard f).help = d.help := rfl
@[simp] theorem Dev.onLard_disp (f : Lard → Lard) : (d.onLard f).disp = d.disp := rfl
@[simp] theorem Dev.onLard_dmem (f : Lard → Lard) : (d.onLard f).dmem = d.dmem := rfl
@[simp] theorem Dev.onLard_fwd (f : Lard → Lard) : (d.onLard f).fwd = d.fwd := rfl
@[simp] theorem Dev.onLard_strong (f : Lard → Lard) : (d.onLard f).strong = d.strong := rfl
@[simp] theorem Dev.onLard_book (f : Lard → Lard) : (d.onLard f).book = d.book := rfl
@[simp] theorem Dev.onLard_sess (f : Lard → Lard) : (d.onLard f).sess = d.sess := rfl
@[simp] theorem Dev.onLard_pool (f : Lard → Lard) : (d.onLard f).pool = d.pool := rfl
@[simp] theorem Dev.onLard_fmt (f : Lard → Lard) : (d.onLard f).fmt = d.fmt := rfl
@[simp] theorem Dev.onLard_lode (f : Lard → Lard) : (d.onLard f).lode = d.lode := rfl
@[simp] theorem Dev.onLard_dctl (f : Lard → Lard) : (d.onLard f).dctl = d.dctl := rfl
@[simp] theorem Dev.onLard_load (f : Lard → Lard) : (d.onLard f).load = d.load := rfl
@[simp] theorem Dev.onLard_rope (f : Lard → Lard) : (d.onLard f).rope = d.rope := rfl
@[simp] theorem Dev.onLard_hlth (f : Lard → Lard) : (d.onLard f).hlth = d.hlth := rfl
@[simp] theorem Dev.onLard_elec (f : Lard → Lard) : (d.onLard f).elec = d.elec := rfl
@[simp] theorem Dev.onLard_free (f : Lard → Lard) : (d.onLard f).free = d.free := rfl

/-! ## egrs -/

@[simp] theorem Dev.onEgrs_out (f : Egrs → Egrs) : (d.onEgrs f).out = d.out := rfl
@[simp] theorem Dev.onEgrs_csr (f : Egrs → Egrs) : (d.onEgrs f).csr = d.csr := rfl
@[simp] theorem Dev.onEgrs_drip (f : Egrs → Egrs) : (d.onEgrs f).drip = d.drip := rfl
@[simp] theorem Dev.onEgrs_host (f : Egrs → Egrs) : (d.onEgrs f).host = d.host := rfl
@[simp] theorem Dev.onEgrs_lard (f : Egrs → Egrs) : (d.onEgrs f).lard = d.lard := rfl
@[simp] theorem Dev.onEgrs_egrs (f : Egrs → Egrs) : (d.onEgrs f).egrs = f d.egrs := rfl
@[simp] theorem Dev.onEgrs_ingr (f : Egrs → Egrs) : (d.onEgrs f).ingr = d.ingr := rfl
@[simp] theorem Dev.onEgrs_cores (f : Egrs → Egrs) : (d.onEgrs f).cores = d.cores := rfl
@[simp] theorem Dev.onEgrs_latches (f : Egrs → Egrs) : (d.onEgrs f).latches = d.latches := rfl
@[simp] theorem Dev.onEgrs_help (f : Egrs → Egrs) : (d.onEgrs f).help = d.help := rfl
@[simp] theorem Dev.onEgrs_disp (f : Egrs → Egrs) : (d.onEgrs f).disp = d.disp := rfl
@[simp] theorem Dev.onEgrs_dmem (f : Egrs → Egrs) : (d.onEgrs f).dmem = d.dmem := rfl
@[simp] theorem Dev.onEgrs_fwd (f : Egrs → Egrs) : (d.onEgrs f).fwd = d.fwd := rfl
@[simp] theorem Dev.onEgrs_strong (f : Egrs → Egrs) : (d.onEgrs f).strong = d.strong := rfl
@[simp] theorem Dev.onEgrs_book (f : Egrs → Egrs) : (d.onEgrs f).book = d.book := rfl
@[simp] theorem Dev.onEgrs_sess (f : Egrs → Egrs) : (d.onEgrs f).sess = d.sess := rfl
@[simp] theorem Dev.onEgrs_pool (f : Egrs → Egrs) : (d.onEgrs f).pool = d.pool := rfl
@[simp] theorem Dev.onEgrs_fmt (f : Egrs → Egrs) : (d.onEgrs f).fmt = d.fmt := rfl
@[simp] theorem Dev.onEgrs_lode (f : Egrs → Egrs) : (d.onEgrs f).lode = d.lode := rfl
@[simp] theorem Dev.onEgrs_dctl (f : Egrs → Egrs) : (d.onEgrs f).dctl = d.dctl := rfl
@[simp] theorem Dev.onEgrs_load (f : Egrs → Egrs) : (d.onEgrs f).load = d.load := rfl
@[simp] theorem Dev.onEgrs_rope (f : Egrs → Egrs) : (d.onEgrs f).rope = d.rope := rfl
@[simp] theorem Dev.onEgrs_hlth (f : Egrs → Egrs) : (d.onEgrs f).hlth = d.hlth := rfl
@[simp] theorem Dev.onEgrs_elec (f : Egrs → Egrs) : (d.onEgrs f).elec = d.elec := rfl
@[simp] theorem Dev.onEgrs_free (f : Egrs → Egrs) : (d.onEgrs f).free = d.free := rfl

/-! ## ingr -/

@[simp] theorem Dev.onIngr_out (f : Ingr → Ingr) : (d.onIngr f).out = d.out := rfl
@[simp] theorem Dev.onIngr_csr (f : Ingr → Ingr) : (d.onIngr f).csr = d.csr := rfl
@[simp] theorem Dev.onIngr_drip (f : Ingr → Ingr) : (d.onIngr f).drip = d.drip := rfl
@[simp] theorem Dev.onIngr_host (f : Ingr → Ingr) : (d.onIngr f).host = d.host := rfl
@[simp] theorem Dev.onIngr_lard (f : Ingr → Ingr) : (d.onIngr f).lard = d.lard := rfl
@[simp] theorem Dev.onIngr_egrs (f : Ingr → Ingr) : (d.onIngr f).egrs = d.egrs := rfl
@[simp] theorem Dev.onIngr_ingr (f : Ingr → Ingr) : (d.onIngr f).ingr = f d.ingr := rfl
@[simp] theorem Dev.onIngr_cores (f : Ingr → Ingr) : (d.onIngr f).cores = d.cores := rfl
@[simp] theorem Dev.onIngr_latches (f : Ingr → Ingr) : (d.onIngr f).latches = d.latches := rfl
@[simp] theorem Dev.onIngr_help (f : Ingr → Ingr) : (d.onIngr f).help = d.help := rfl
@[simp] theorem Dev.onIngr_disp (f : Ingr → Ingr) : (d.onIngr f).disp = d.disp := rfl
@[simp] theorem Dev.onIngr_dmem (f : Ingr → Ingr) : (d.onIngr f).dmem = d.dmem := rfl
@[simp] theorem Dev.onIngr_fwd (f : Ingr → Ingr) : (d.onIngr f).fwd = d.fwd := rfl
@[simp] theorem Dev.onIngr_strong (f : Ingr → Ingr) : (d.onIngr f).strong = d.strong := rfl
@[simp] theorem Dev.onIngr_book (f : Ingr → Ingr) : (d.onIngr f).book = d.book := rfl
@[simp] theorem Dev.onIngr_sess (f : Ingr → Ingr) : (d.onIngr f).sess = d.sess := rfl
@[simp] theorem Dev.onIngr_pool (f : Ingr → Ingr) : (d.onIngr f).pool = d.pool := rfl
@[simp] theorem Dev.onIngr_fmt (f : Ingr → Ingr) : (d.onIngr f).fmt = d.fmt := rfl
@[simp] theorem Dev.onIngr_lode (f : Ingr → Ingr) : (d.onIngr f).lode = d.lode := rfl
@[simp] theorem Dev.onIngr_dctl (f : Ingr → Ingr) : (d.onIngr f).dctl = d.dctl := rfl
@[simp] theorem Dev.onIngr_load (f : Ingr → Ingr) : (d.onIngr f).load = d.load := rfl
@[simp] theorem Dev.onIngr_rope (f : Ingr → Ingr) : (d.onIngr f).rope = d.rope := rfl
@[simp] theorem Dev.onIngr_hlth (f : Ingr → Ingr) : (d.onIngr f).hlth = d.hlth := rfl
@[simp] theorem Dev.onIngr_elec (f : Ingr → Ingr) : (d.onIngr f).elec = d.elec := rfl
@[simp] theorem Dev.onIngr_free (f : Ingr → Ingr) : (d.onIngr f).free = d.free := rfl

/-! ## cores -/

@[simp] theorem Dev.onCores_out (f : Cores → Cores) : (d.onCores f).out = d.out := rfl
@[simp] theorem Dev.onCores_csr (f : Cores → Cores) : (d.onCores f).csr = d.csr := rfl
@[simp] theorem Dev.onCores_drip (f : Cores → Cores) : (d.onCores f).drip = d.drip := rfl
@[simp] theorem Dev.onCores_host (f : Cores → Cores) : (d.onCores f).host = d.host := rfl
@[simp] theorem Dev.onCores_lard (f : Cores → Cores) : (d.onCores f).lard = d.lard := rfl
@[simp] theorem Dev.onCores_egrs (f : Cores → Cores) : (d.onCores f).egrs = d.egrs := rfl
@[simp] theorem Dev.onCores_ingr (f : Cores → Cores) : (d.onCores f).ingr = d.ingr := rfl
@[simp] theorem Dev.onCores_cores (f : Cores → Cores) : (d.onCores f).cores = f d.cores := rfl
@[simp] theorem Dev.onCores_latches (f : Cores → Cores) : (d.onCores f).latches = d.latches := rfl
@[simp] theorem Dev.onCores_help (f : Cores → Cores) : (d.onCores f).help = d.help := rfl
@[simp] theorem Dev.onCores_disp (f : Cores → Cores) : (d.onCores f).disp = d.disp := rfl
@[simp] theorem Dev.onCores_dmem (f : Cores → Cores) : (d.onCores f).dmem = d.dmem := rfl
@[simp] theorem Dev.onCores_fwd (f : Cores → Cores) : (d.onCores f).fwd = d.fwd := rfl
@[simp] theorem Dev.onCores_strong (f : Cores → Cores) : (d.onCores f).strong = d.strong := rfl
@[simp] theorem Dev.onCores_book (f : Cores → Cores) : (d.onCores f).book = d.book := rfl
@[simp] theorem Dev.onCores_sess (f : Cores → Cores) : (d.onCores f).sess = d.sess := rfl
@[simp] theorem Dev.onCores_pool (f : Cores → Cores) : (d.onCores f).pool = d.pool := rfl
@[simp] theorem Dev.onCores_fmt (f : Cores → Cores) : (d.onCores f).fmt = d.fmt := rfl
@[simp] theorem Dev.onCores_lode (f : Cores → Cores) : (d.onCores f).lode = d.lode := rfl
@[simp] theorem Dev.onCores_dctl (f : Cores → Cores) : (d.onCores f).dctl = d.dctl := rfl
@[simp] theorem Dev.onCores_load (f : Cores → Cores) : (d.onCores f).load = d.load := rfl
@[simp] theorem Dev.onCores_rope (f : Cores → Cores) : (d.onCores f).rope = d.rope := rfl
@[simp] theorem Dev.onCores_hlth (f : Cores → Cores) : (d.onCores f).hlth = d.hlth := rfl
@[simp] theorem Dev.onCores_elec (f : Cores → Cores) : (d.onCores f).elec = d.elec := rfl
@[simp] theorem Dev.onCores_free (f : Cores → Cores) : (d.onCores f).free = d.free := rfl

/-! ## latches -/

@[simp] theorem Dev.onLatches_out (f : Map Latch → Map Latch) : (d.onLatches f).out = d.out := rfl
@[simp] theorem Dev.onLatches_csr (f : Map Latch → Map Latch) : (d.onLatches f).csr = d.csr := rfl
@[simp] theorem Dev.onLatches_drip (f : Map Latch → Map Latch) : (d.onLatches f).drip = d.drip := rfl
@[simp] theorem Dev.onLatches_host (f : Map Latch → Map Latch) : (d.onLatches f).host = d.host := rfl
@[simp] theorem Dev.onLatches_lard (f : Map Latch → Map Latch) : (d.onLatches f).lard = d.lard := rfl
@[simp] theorem Dev.onLatches_egrs (f : Map Latch → Map Latch) : (d.onLatches f).egrs = d.egrs := rfl
@[simp] theorem Dev.onLatches_ingr (f : Map Latch → Map Latch) : (d.onLatches f).ingr = d.ingr := rfl
@[simp] theorem Dev.onLatches_cores (f : Map Latch → Map Latch) : (d.onLatches f).cores = d.cores := rfl
@[simp] theorem Dev.onLatches_latches (f : Map Latch → Map Latch) : (d.onLatches f).latches = f d.latches := rfl
@[simp] theorem Dev.onLatches_help (f : Map Latch → Map Latch) : (d.onLatches f).help = d.help := rfl
@[simp] theorem Dev.onLatches_disp (f : Map Latch → Map Latch) : (d.onLatches f).disp = d.disp := rfl
@[simp] theorem Dev.onLatches_dmem (f : Map Latch → Map Latch) : (d.onLatches f).dmem = d.dmem := rfl
@[simp] theorem Dev.onLatches_fwd (f : Map Latch → Map Latch) : (d.onLatches f).fwd = d.fwd := rfl
@[simp] theorem Dev.onLatches_strong (f : Map Latch → Map Latch) : (d.onLatches f).strong = d.strong := rfl
@[simp] theorem Dev.onLatches_book (f : Map Latch → Map Latch) : (d.onLatches f).book = d.book := rfl
@[simp] theorem Dev.onLatches_sess (f : Map Latch → Map Latch) : (d.onLatches f).sess = d.sess := rfl
@[simp] theorem Dev.onLatches_pool (f : Map Latch → Map Latch) : (d.onLatches f).pool = d.pool := rfl
@[simp] theorem Dev.onLatches_fmt (f : Map Latch → Map Latch) : (d.onLatches f).fmt = d.fmt := rfl
@[simp] theorem Dev.onLatches_lode (f : Map Latch → Map Latch) : (d.onLatches f).lode = d.lode := rfl
@[simp] theorem Dev.onLatches_dctl (f : Map Latch → Map Latch) : (d.onLatches f).dctl = d.dctl := rfl
@[simp] theorem Dev.onLatches_load (f : Map Latch → Map Latch) : (d.onLatches f).load = d.load := rfl
@[simp] theorem Dev.onLatches_rope (f : Map Latch → Map Latch) : (d.onLatches f).rope = d.rope := rfl
@[simp] theorem Dev.onLatches_hlth (f : Map Latch → Map Latch) : (d.onLatches f).hlth = d.hlth := rfl
@[simp] theorem Dev.onLatches_elec (f : Map Latch → Map Latch) : (d.onLatches f).elec = d.elec := rfl
@[simp] theorem Dev.onLatches_free (f : Map Latch → Map Latch) : (d.onLatches f).free = d.free := rfl

/-! ## help -/

@[simp] theorem Dev.onHelp_out (f : Help → Help) : (d.onHelp f).out = d.out := rfl
@[simp] theorem Dev.onHelp_csr (f : Help → Help) : (d.onHelp f).csr = d.csr := rfl
@[simp] theorem Dev.onHelp_drip (f : Help → Help) : (d.onHelp f).drip = d.drip := rfl
@[simp] theorem Dev.onHelp_host (f : Help → Help) : (d.onHelp f).host = d.host := rfl
@[simp] theorem Dev.onHelp_lard (f : Help → Help) : (d.onHelp f).lard = d.lard := rfl
@[simp] theorem Dev.onHelp_egrs (f : Help → Help) : (d.onHelp f).egrs = d.egrs := rfl
@[simp] theorem Dev.onHelp_ingr (f : Help → Help) : (d.onHelp f).ingr = d.ingr := rfl
@[simp] theorem Dev.onHelp_cores (f : Help → Help) : (d.onHelp f).cores = d.cores := rfl
@[simp] theorem Dev.onHelp_latches (f : Help → Help) : (d.onHelp f).latches = d.latches := rfl
@[simp] theorem Dev.onHelp_help (f : Help → Help) : (d.onHelp f).help = f d.help := rfl
@[simp] theorem Dev.onHelp_disp (f : Help → Help) : (d.onHelp f).disp = d.disp := rfl
@[simp] theorem Dev.onHelp_dmem (f : Help → Help) : (d.onHelp f).dmem = d.dmem := rfl
@[simp] theorem Dev.onHelp_fwd (f : Help → Help) : (d.onHelp f).fwd = d.fwd := rfl
@[simp] theorem Dev.onHelp_strong (f : Help → Help) : (d.onHelp f).strong = d.strong := rfl
@[simp] theorem Dev.onHelp_book (f : Help → Help) : (d.onHelp f).book = d.book := rfl
@[simp] theorem Dev.onHelp_sess (f : Help → Help) : (d.onHelp f).sess = d.sess := rfl
@[simp] theorem Dev.onHelp_pool (f : Help → Help) : (d.onHelp f).pool = d.pool := rfl
@[simp] theorem Dev.onHelp_fmt (f : Help → Help) : (d.onHelp f).fmt = d.fmt := rfl
@[simp] theorem Dev.onHelp_lode (f : Help → Help) : (d.onHelp f).lode = d.lode := rfl
@[simp] theorem Dev.onHelp_dctl (f : Help → Help) : (d.onHelp f).dctl = d.dctl := rfl
@[simp] theorem Dev.onHelp_load (f : Help → Help) : (d.onHelp f).load = d.load := rfl
@[simp] theorem Dev.onHelp_rope (f : Help → Help) : (d.onHelp f).rope = d.rope := rfl
@[simp] theorem Dev.onHelp_hlth (f : Help → Help) : (d.onHelp f).hlth = d.hlth := rfl
@[simp] theorem Dev.onHelp_elec (f : Help → Help) : (d.onHelp f).elec = d.elec := rfl
@[simp] theorem Dev.onHelp_free (f : Help → Help) : (d.onHelp f).free = d.free := rfl

/-! ## disp -/

@[simp] theorem Dev.onDisp_out (f : Disp → Disp) : (d.onDisp f).out = d.out := rfl
@[simp] theorem Dev.onDisp_csr (f : Disp → Disp) : (d.onDisp f).csr = d.csr := rfl
@[simp] theorem Dev.onDisp_drip (f : Disp → Disp) : (d.onDisp f).drip = d.drip := rfl
@[simp] theorem Dev.onDisp_host (f : Disp → Disp) : (d.onDisp f).host = d.host := rfl
@[simp] theorem Dev.onDisp_lard (f : Disp → Disp) : (d.onDisp f).lard = d.lard := rfl
@[simp] theorem Dev.onDisp_egrs (f : Disp → Disp) : (d.onDisp f).egrs = d.egrs := rfl
@[simp] theorem Dev.onDisp_ingr (f : Disp → Disp) : (d.onDisp f).ingr = d.ingr := rfl
@[simp] theorem Dev.onDisp_cores (f : Disp → Disp) : (d.onDisp f).cores = d.cores := rfl
@[simp] theorem Dev.onDisp_latches (f : Disp → Disp) : (d.onDisp f).latches = d.latches := rfl
@[simp] theorem Dev.onDisp_help (f : Disp → Disp) : (d.onDisp f).help = d.help := rfl
@[simp] theorem Dev.onDisp_disp (f : Disp → Disp) : (d.onDisp f).disp = f d.disp := rfl
@[simp] theorem Dev.onDisp_dmem (f : Disp → Disp) : (d.onDisp f).dmem = d.dmem := rfl
@[simp] theorem Dev.onDisp_fwd (f : Disp → Disp) : (d.onDisp f).fwd = d.fwd := rfl
@[simp] theorem Dev.onDisp_strong (f : Disp → Disp) : (d.onDisp f).strong = d.strong := rfl
@[simp] theorem Dev.onDisp_book (f : Disp → Disp) : (d.onDisp f).book = d.book := rfl
@[simp] theorem Dev.onDisp_sess (f : Disp → Disp) : (d.onDisp f).sess = d.sess := rfl
@[simp] theorem Dev.onDisp_pool (f : Disp → Disp) : (d.onDisp f).pool = d.pool := rfl
@[simp] theorem Dev.onDisp_fmt (f : Disp → Disp) : (d.onDisp f).fmt = d.fmt := rfl
@[simp] theorem Dev.onDisp_lode (f : Disp → Disp) : (d.onDisp f).lode = d.lode := rfl
@[simp] theorem Dev.onDisp_dctl (f : Disp → Disp) : (d.onDisp f).dctl = d.dctl := rfl
@[simp] theorem Dev.onDisp_load (f : Disp → Disp) : (d.onDisp f).load = d.load := rfl
@[simp] theorem Dev.onDisp_rope (f : Disp → Disp) : (d.onDisp f).rope = d.rope := rfl
@[simp] theorem Dev.onDisp_hlth (f : Disp → Disp) : (d.onDisp f).hlth = d.hlth := rfl
@[simp] theorem Dev.onDisp_elec (f : Disp → Disp) : (d.onDisp f).elec = d.elec := rfl
@[simp] theorem Dev.onDisp_free (f : Disp → Disp) : (d.onDisp f).free = d.free := rfl

/-! ## dmem -/

@[simp] theorem Dev.onDmem_out (f : DramMem → DramMem) : (d.onDmem f).out = d.out := rfl
@[simp] theorem Dev.onDmem_csr (f : DramMem → DramMem) : (d.onDmem f).csr = d.csr := rfl
@[simp] theorem Dev.onDmem_drip (f : DramMem → DramMem) : (d.onDmem f).drip = d.drip := rfl
@[simp] theorem Dev.onDmem_host (f : DramMem → DramMem) : (d.onDmem f).host = d.host := rfl
@[simp] theorem Dev.onDmem_lard (f : DramMem → DramMem) : (d.onDmem f).lard = d.lard := rfl
@[simp] theorem Dev.onDmem_egrs (f : DramMem → DramMem) : (d.onDmem f).egrs = d.egrs := rfl
@[simp] theorem Dev.onDmem_ingr (f : DramMem → DramMem) : (d.onDmem f).ingr = d.ingr := rfl
@[simp] theorem Dev.onDmem_cores (f : DramMem → DramMem) : (d.onDmem f).cores = d.cores := rfl
@[simp] theorem Dev.onDmem_latches (f : DramMem → DramMem) : (d.onDmem f).latches = d.latches := rfl
@[simp] theorem Dev.onDmem_help (f : DramMem → DramMem) : (d.onDmem f).help = d.help := rfl
@[simp] theorem Dev.onDmem_disp (f : DramMem → DramMem) : (d.onDmem f).disp = d.disp := rfl
@[simp] theorem Dev.onDmem_dmem (f : DramMem → DramMem) : (d.onDmem f).dmem = f d.dmem := rfl
@[simp] theorem Dev.onDmem_fwd (f : DramMem → DramMem) : (d.onDmem f).fwd = d.fwd := rfl
@[simp] theorem Dev.onDmem_strong (f : DramMem → DramMem) : (d.onDmem f).strong = d.strong := rfl
@[simp] theorem Dev.onDmem_book (f : DramMem → DramMem) : (d.onDmem f).book = d.book := rfl
@[simp] theorem Dev.onDmem_sess (f : DramMem → DramMem) : (d.onDmem f).sess = d.sess := rfl
@[simp] theorem Dev.onDmem_pool (f : DramMem → DramMem) : (d.onDmem f).pool = d.pool := rfl
@[simp] theorem Dev.onDmem_fmt (f : DramMem → DramMem) : (d.onDmem f).fmt = d.fmt := rfl
@[simp] theorem Dev.onDmem_lode (f : DramMem → DramMem) : (d.onDmem f).lode = d.lode := rfl
@[simp] theorem Dev.onDmem_dctl (f : DramMem → DramMem) : (d.onDmem f).dctl = d.dctl := rfl
@[simp] theorem Dev.onDmem_load (f : DramMem → DramMem) : (d.onDmem f).load = d.load := rfl
@[simp] theorem Dev.onDmem_rope (f : DramMem → DramMem) : (d.onDmem f).rope = d.rope := rfl
@[simp] theorem Dev.onDmem_hlth (f : DramMem → DramMem) : (d.onDmem f).hlth = d.hlth := rfl
@[simp] theorem Dev.onDmem_elec (f : DramMem → DramMem) : (d.onDmem f).elec = d.elec := rfl
@[simp] theorem Dev.onDmem_free (f : DramMem → DramMem) : (d.onDmem f).free = d.free := rfl

/-! ## fwd -/

@[simp] theorem Dev.onFwd_out (f : Fwd → Fwd) : (d.onFwd f).out = d.out := rfl
@[simp] theorem Dev.onFwd_csr (f : Fwd → Fwd) : (d.onFwd f).csr = d.csr := rfl
@[simp] theorem Dev.onFwd_drip (f : Fwd → Fwd) : (d.onFwd f).drip = d.drip := rfl
@[simp] theorem Dev.onFwd_host (f : Fwd → Fwd) : (d.onFwd f).host = d.host := rfl
@[simp] theorem Dev.onFwd_lard (f : Fwd → Fwd) : (d.onFwd f).lard = d.lard := rfl
@[simp] theorem Dev.onFwd_egrs (f : Fwd → Fwd) : (d.onFwd f).egrs = d.egrs := rfl
@[simp] theorem Dev.onFwd_ingr (f : Fwd → Fwd) : (d.onFwd f).ingr = d.ingr := rfl
@[simp] theorem Dev.onFwd_cores (f : Fwd → Fwd) : (d.onFwd f).cores = d.cores := rfl
@[simp] theorem Dev.onFwd_latches (f : Fwd → Fwd) : (d.onFwd f).latches = d.latches := rfl
@[simp] theorem Dev.onFwd_help (f : Fwd → Fwd) : (d.onFwd f).help = d.help := rfl
@[simp] theorem Dev.onFwd_disp (f : Fwd → Fwd) : (d.onFwd f).disp = d.disp := rfl
@[simp] theorem Dev.onFwd_dmem (f : Fwd → Fwd) : (d.onFwd f).dmem = d.dmem := rfl
@[simp] theorem Dev.onFwd_fwd (f : Fwd → Fwd) : (d.onFwd f).fwd = f d.fwd := rfl
@[simp] theorem Dev.onFwd_strong (f : Fwd → Fwd) : (d.onFwd f).strong = d.strong := rfl
@[simp] theorem Dev.onFwd_book (f : Fwd → Fwd) : (d.onFwd f).book = d.book := rfl
@[simp] theorem Dev.onFwd_sess (f : Fwd → Fwd) : (d.onFwd f).sess = d.sess := rfl
@[simp] theorem Dev.onFwd_pool (f : Fwd → Fwd) : (d.onFwd f).pool = d.pool := rfl
@[simp] theorem Dev.onFwd_fmt (f : Fwd → Fwd) : (d.onFwd f).fmt = d.fmt := rfl
@[simp] theorem Dev.onFwd_lode (f : Fwd → Fwd) : (d.onFwd f).lode = d.lode := rfl
@[simp] theorem Dev.onFwd_dctl (f : Fwd → Fwd) : (d.onFwd f).dctl = d.dctl := rfl
@[simp] theorem Dev.onFwd_load (f : Fwd → Fwd) : (d.onFwd f).load = d.load := rfl
@[simp] theorem Dev.onFwd_rope (f : Fwd → Fwd) : (d.onFwd f).rope = d.rope := rfl
@[simp] theorem Dev.onFwd_hlth (f : Fwd → Fwd) : (d.onFwd f).hlth = d.hlth := rfl
@[simp] theorem Dev.onFwd_elec (f : Fwd → Fwd) : (d.onFwd f).elec = d.elec := rfl
@[simp] theorem Dev.onFwd_free (f : Fwd → Fwd) : (d.onFwd f).free = d.free := rfl

/-! ## strong -/

@[simp] theorem Dev.onStrong_out (f : Strong → Strong) : (d.onStrong f).out = d.out := rfl
@[simp] theorem Dev.onStrong_csr (f : Strong → Strong) : (d.onStrong f).csr = d.csr := rfl
@[simp] theorem Dev.onStrong_drip (f : Strong → Strong) : (d.onStrong f).drip = d.drip := rfl
@[simp] theorem Dev.onStrong_host (f : Strong → Strong) : (d.onStrong f).host = d.host := rfl
@[simp] theorem Dev.onStrong_lard (f : Strong → Strong) : (d.onStrong f).lard = d.lard := rfl
@[simp] theorem Dev.onStrong_egrs (f : Strong → Strong) : (d.onStrong f).egrs = d.egrs := rfl
@[simp] theorem Dev.onStrong_ingr (f : Strong → Strong) : (d.onStrong f).ingr = d.ingr := rfl
@[simp] theorem Dev.onStrong_cores (f : Strong → Strong) : (d.onStrong f).cores = d.cores := rfl
@[simp] theorem Dev.onStrong_latches (f : Strong → Strong) : (d.onStrong f).latches = d.latches := rfl
@[simp] theorem Dev.onStrong_help (f : Strong → Strong) : (d.onStrong f).help = d.help := rfl
@[simp] theorem Dev.onStrong_disp (f : Strong → Strong) : (d.onStrong f).disp = d.disp := rfl
@[simp] theorem Dev.onStrong_dmem (f : Strong → Strong) : (d.onStrong f).dmem = d.dmem := rfl
@[simp] theorem Dev.onStrong_fwd (f : Strong → Strong) : (d.onStrong f).fwd = d.fwd := rfl
@[simp] theorem Dev.onStrong_strong (f : Strong → Strong) : (d.onStrong f).strong = f d.strong := rfl
@[simp] theorem Dev.onStrong_book (f : Strong → Strong) : (d.onStrong f).book = d.book := rfl
@[simp] theorem Dev.onStrong_sess (f : Strong → Strong) : (d.onStrong f).sess = d.sess := rfl
@[simp] theorem Dev.onStrong_pool (f : Strong → Strong) : (d.onStrong f).pool = d.pool := rfl
@[simp] theorem Dev.onStrong_fmt (f : Strong → Strong) : (d.onStrong f).fmt = d.fmt := rfl
@[simp] theorem Dev.onStrong_lode (f : Strong → Strong) : (d.onStrong f).lode = d.lode := rfl
@[simp] theorem Dev.onStrong_dctl (f : Strong → Strong) : (d.onStrong f).dctl = d.dctl := rfl
@[simp] theorem Dev.onStrong_load (f : Strong → Strong) : (d.onStrong f).load = d.load := rfl
@[simp] theorem Dev.onStrong_rope (f : Strong → Strong) : (d.onStrong f).rope = d.rope := rfl
@[simp] theorem Dev.onStrong_hlth (f : Strong → Strong) : (d.onStrong f).hlth = d.hlth := rfl
@[simp] theorem Dev.onStrong_elec (f : Strong → Strong) : (d.onStrong f).elec = d.elec := rfl
@[simp] theorem Dev.onStrong_free (f : Strong → Strong) : (d.onStrong f).free = d.free := rfl

/-! ## book -/

@[simp] theorem Dev.onBook_out (f : Book → Book) : (d.onBook f).out = d.out := rfl
@[simp] theorem Dev.onBook_csr (f : Book → Book) : (d.onBook f).csr = d.csr := rfl
@[simp] theorem Dev.onBook_drip (f : Book → Book) : (d.onBook f).drip = d.drip := rfl
@[simp] theorem Dev.onBook_host (f : Book → Book) : (d.onBook f).host = d.host := rfl
@[simp] theorem Dev.onBook_lard (f : Book → Book) : (d.onBook f).lard = d.lard := rfl
@[simp] theorem Dev.onBook_egrs (f : Book → Book) : (d.onBook f).egrs = d.egrs := rfl
@[simp] theorem Dev.onBook_ingr (f : Book → Book) : (d.onBook f).ingr = d.ingr := rfl
@[simp] theorem Dev.onBook_cores (f : Book → Book) : (d.onBook f).cores = d.cores := rfl
@[simp] theorem Dev.onBook_latches (f : Book → Book) : (d.onBook f).latches = d.latches := rfl
@[simp] theorem Dev.onBook_help (f : Book → Book) : (d.onBook f).help = d.help := rfl
@[simp] theorem Dev.onBook_disp (f : Book → Book) : (d.onBook f).disp = d.disp := rfl
@[simp] theorem Dev.onBook_dmem (f : Book → Book) : (d.onBook f).dmem = d.dmem := rfl
@[simp] theorem Dev.onBook_fwd (f : Book → Book) : (d.onBook f).fwd = d.fwd := rfl
@[simp] theorem Dev.onBook_strong (f : Book → Book) : (d.onBook f).strong = d.strong := rfl
@[simp] theorem Dev.onBook_book (f : Book → Book) : (d.onBook f).book = f d.book := rfl
@[simp] theorem Dev.onBook_sess (f : Book → Book) : (d.onBook f).sess = d.sess := rfl
@[simp] theorem Dev.onBook_pool (f : Book → Book) : (d.onBook f).pool = d.pool := rfl
@[simp] theorem Dev.onBook_fmt (f : Book → Book) : (d.onBook f).fmt = d.fmt := rfl
@[simp] theorem Dev.onBook_lode (f : Book → Book) : (d.onBook f).lode = d.lode := rfl
@[simp] theorem Dev.onBook_dctl (f : Book → Book) : (d.onBook f).dctl = d.dctl := rfl
@[simp] theorem Dev.onBook_load (f : Book → Book) : (d.onBook f).load = d.load := rfl
@[simp] theorem Dev.onBook_rope (f : Book → Book) : (d.onBook f).rope = d.rope := rfl
@[simp] theorem Dev.onBook_hlth (f : Book → Book) : (d.onBook f).hlth = d.hlth := rfl
@[simp] theorem Dev.onBook_elec (f : Book → Book) : (d.onBook f).elec = d.elec := rfl
@[simp] theorem Dev.onBook_free (f : Book → Book) : (d.onBook f).free = d.free := rfl

/-! ## sess -/

@[simp] theorem Dev.onSess_out (f : Sess → Sess) : (d.onSess f).out = d.out := rfl
@[simp] theorem Dev.onSess_csr (f : Sess → Sess) : (d.onSess f).csr = d.csr := rfl
@[simp] theorem Dev.onSess_drip (f : Sess → Sess) : (d.onSess f).drip = d.drip := rfl
@[simp] theorem Dev.onSess_host (f : Sess → Sess) : (d.onSess f).host = d.host := rfl
@[simp] theorem Dev.onSess_lard (f : Sess → Sess) : (d.onSess f).lard = d.lard := rfl
@[simp] theorem Dev.onSess_egrs (f : Sess → Sess) : (d.onSess f).egrs = d.egrs := rfl
@[simp] theorem Dev.onSess_ingr (f : Sess → Sess) : (d.onSess f).ingr = d.ingr := rfl
@[simp] theorem Dev.onSess_cores (f : Sess → Sess) : (d.onSess f).cores = d.cores := rfl
@[simp] theorem Dev.onSess_latches (f : Sess → Sess) : (d.onSess f).latches = d.latches := rfl
@[simp] theorem Dev.onSess_help (f : Sess → Sess) : (d.onSess f).help = d.help := rfl
@[simp] theorem Dev.onSess_disp (f : Sess → Sess) : (d.onSess f).disp = d.disp := rfl
@[simp] theorem Dev.onSess_dmem (f : Sess → Sess) : (d.onSess f).dmem = d.dmem := rfl
@[simp] theorem Dev.onSess_fwd (f : Sess → Sess) : (d.onSess f).fwd = d.fwd := rfl
@[simp] theorem Dev.onSess_strong (f : Sess → Sess) : (d.onSess f).strong = d.strong := rfl
@[simp] theorem Dev.onSess_book (f : Sess → Sess) : (d.onSess f).book = d.book := rfl
@[simp] theorem Dev.onSess_sess (f : Sess → Sess) : (d.onSess f).sess = f d.sess := rfl
@[simp] theorem Dev.onSess_pool (f : Sess → Sess) : (d.onSess f).pool = d.pool := rfl
@[simp] theorem Dev.onSess_fmt (f : Sess → Sess) : (d.onSess f).fmt = d.fmt := rfl
@[simp] theorem Dev.onSess_lode (f : Sess → Sess) : (d.onSess f).lode = d.lode := rfl
@[simp] theorem Dev.onSess_dctl (f : Sess → Sess) : (d.onSess f).dctl = d.dctl := rfl
@[simp] theorem Dev.onSess_load (f : Sess → Sess) : (d.onSess f).load = d.load := rfl
@[simp] theorem Dev.onSess_rope (f : Sess → Sess) : (d.onSess f).rope = d.rope := rfl
@[simp] theorem Dev.onSess_hlth (f : Sess → Sess) : (d.onSess f).hlth = d.hlth := rfl
@[simp] theorem Dev.onSess_elec (f : Sess → Sess) : (d.onSess f).elec = d.elec := rfl
@[simp] theorem Dev.onSess_free (f : Sess → Sess) : (d.onSess f).free = d.free := rfl

/-! ## pool -/

@[simp] theorem Dev.onPool_out (f : SealPool → SealPool) : (d.onPool f).out = d.out := rfl
@[simp] theorem Dev.onPool_csr (f : SealPool → SealPool) : (d.onPool f).csr = d.csr := rfl
@[simp] theorem Dev.onPool_drip (f : SealPool → SealPool) : (d.onPool f).drip = d.drip := rfl
@[simp] theorem Dev.onPool_host (f : SealPool → SealPool) : (d.onPool f).host = d.host := rfl
@[simp] theorem Dev.onPool_lard (f : SealPool → SealPool) : (d.onPool f).lard = d.lard := rfl
@[simp] theorem Dev.onPool_egrs (f : SealPool → SealPool) : (d.onPool f).egrs = d.egrs := rfl
@[simp] theorem Dev.onPool_ingr (f : SealPool → SealPool) : (d.onPool f).ingr = d.ingr := rfl
@[simp] theorem Dev.onPool_cores (f : SealPool → SealPool) : (d.onPool f).cores = d.cores := rfl
@[simp] theorem Dev.onPool_latches (f : SealPool → SealPool) : (d.onPool f).latches = d.latches := rfl
@[simp] theorem Dev.onPool_help (f : SealPool → SealPool) : (d.onPool f).help = d.help := rfl
@[simp] theorem Dev.onPool_disp (f : SealPool → SealPool) : (d.onPool f).disp = d.disp := rfl
@[simp] theorem Dev.onPool_dmem (f : SealPool → SealPool) : (d.onPool f).dmem = d.dmem := rfl
@[simp] theorem Dev.onPool_fwd (f : SealPool → SealPool) : (d.onPool f).fwd = d.fwd := rfl
@[simp] theorem Dev.onPool_strong (f : SealPool → SealPool) : (d.onPool f).strong = d.strong := rfl
@[simp] theorem Dev.onPool_book (f : SealPool → SealPool) : (d.onPool f).book = d.book := rfl
@[simp] theorem Dev.onPool_sess (f : SealPool → SealPool) : (d.onPool f).sess = d.sess := rfl
@[simp] theorem Dev.onPool_pool (f : SealPool → SealPool) : (d.onPool f).pool = f d.pool := rfl
@[simp] theorem Dev.onPool_fmt (f : SealPool → SealPool) : (d.onPool f).fmt = d.fmt := rfl
@[simp] theorem Dev.onPool_lode (f : SealPool → SealPool) : (d.onPool f).lode = d.lode := rfl
@[simp] theorem Dev.onPool_dctl (f : SealPool → SealPool) : (d.onPool f).dctl = d.dctl := rfl
@[simp] theorem Dev.onPool_load (f : SealPool → SealPool) : (d.onPool f).load = d.load := rfl
@[simp] theorem Dev.onPool_rope (f : SealPool → SealPool) : (d.onPool f).rope = d.rope := rfl
@[simp] theorem Dev.onPool_hlth (f : SealPool → SealPool) : (d.onPool f).hlth = d.hlth := rfl
@[simp] theorem Dev.onPool_elec (f : SealPool → SealPool) : (d.onPool f).elec = d.elec := rfl
@[simp] theorem Dev.onPool_free (f : SealPool → SealPool) : (d.onPool f).free = d.free := rfl

/-! ## fmt -/

@[simp] theorem Dev.onFmt_out (f : FmtPool → FmtPool) : (d.onFmt f).out = d.out := rfl
@[simp] theorem Dev.onFmt_csr (f : FmtPool → FmtPool) : (d.onFmt f).csr = d.csr := rfl
@[simp] theorem Dev.onFmt_drip (f : FmtPool → FmtPool) : (d.onFmt f).drip = d.drip := rfl
@[simp] theorem Dev.onFmt_host (f : FmtPool → FmtPool) : (d.onFmt f).host = d.host := rfl
@[simp] theorem Dev.onFmt_lard (f : FmtPool → FmtPool) : (d.onFmt f).lard = d.lard := rfl
@[simp] theorem Dev.onFmt_egrs (f : FmtPool → FmtPool) : (d.onFmt f).egrs = d.egrs := rfl
@[simp] theorem Dev.onFmt_ingr (f : FmtPool → FmtPool) : (d.onFmt f).ingr = d.ingr := rfl
@[simp] theorem Dev.onFmt_cores (f : FmtPool → FmtPool) : (d.onFmt f).cores = d.cores := rfl
@[simp] theorem Dev.onFmt_latches (f : FmtPool → FmtPool) : (d.onFmt f).latches = d.latches := rfl
@[simp] theorem Dev.onFmt_help (f : FmtPool → FmtPool) : (d.onFmt f).help = d.help := rfl
@[simp] theorem Dev.onFmt_disp (f : FmtPool → FmtPool) : (d.onFmt f).disp = d.disp := rfl
@[simp] theorem Dev.onFmt_dmem (f : FmtPool → FmtPool) : (d.onFmt f).dmem = d.dmem := rfl
@[simp] theorem Dev.onFmt_fwd (f : FmtPool → FmtPool) : (d.onFmt f).fwd = d.fwd := rfl
@[simp] theorem Dev.onFmt_strong (f : FmtPool → FmtPool) : (d.onFmt f).strong = d.strong := rfl
@[simp] theorem Dev.onFmt_book (f : FmtPool → FmtPool) : (d.onFmt f).book = d.book := rfl
@[simp] theorem Dev.onFmt_sess (f : FmtPool → FmtPool) : (d.onFmt f).sess = d.sess := rfl
@[simp] theorem Dev.onFmt_pool (f : FmtPool → FmtPool) : (d.onFmt f).pool = d.pool := rfl
@[simp] theorem Dev.onFmt_fmt (f : FmtPool → FmtPool) : (d.onFmt f).fmt = f d.fmt := rfl
@[simp] theorem Dev.onFmt_lode (f : FmtPool → FmtPool) : (d.onFmt f).lode = d.lode := rfl
@[simp] theorem Dev.onFmt_dctl (f : FmtPool → FmtPool) : (d.onFmt f).dctl = d.dctl := rfl
@[simp] theorem Dev.onFmt_load (f : FmtPool → FmtPool) : (d.onFmt f).load = d.load := rfl
@[simp] theorem Dev.onFmt_rope (f : FmtPool → FmtPool) : (d.onFmt f).rope = d.rope := rfl
@[simp] theorem Dev.onFmt_hlth (f : FmtPool → FmtPool) : (d.onFmt f).hlth = d.hlth := rfl
@[simp] theorem Dev.onFmt_elec (f : FmtPool → FmtPool) : (d.onFmt f).elec = d.elec := rfl
@[simp] theorem Dev.onFmt_free (f : FmtPool → FmtPool) : (d.onFmt f).free = d.free := rfl

/-! ## lode -/

@[simp] theorem Dev.onLode_out (f : Lode → Lode) : (d.onLode f).out = d.out := rfl
@[simp] theorem Dev.onLode_csr (f : Lode → Lode) : (d.onLode f).csr = d.csr := rfl
@[simp] theorem Dev.onLode_drip (f : Lode → Lode) : (d.onLode f).drip = d.drip := rfl
@[simp] theorem Dev.onLode_host (f : Lode → Lode) : (d.onLode f).host = d.host := rfl
@[simp] theorem Dev.onLode_lard (f : Lode → Lode) : (d.onLode f).lard = d.lard := rfl
@[simp] theorem Dev.onLode_egrs (f : Lode → Lode) : (d.onLode f).egrs = d.egrs := rfl
@[simp] theorem Dev.onLode_ingr (f : Lode → Lode) : (d.onLode f).ingr = d.ingr := rfl
@[simp] theorem Dev.onLode_cores (f : Lode → Lode) : (d.onLode f).cores = d.cores := rfl
@[simp] theorem Dev.onLode_latches (f : Lode → Lode) : (d.onLode f).latches = d.latches := rfl
@[simp] theorem Dev.onLode_help (f : Lode → Lode) : (d.onLode f).help = d.help := rfl
@[simp] theorem Dev.onLode_disp (f : Lode → Lode) : (d.onLode f).disp = d.disp := rfl
@[simp] theorem Dev.onLode_dmem (f : Lode → Lode) : (d.onLode f).dmem = d.dmem := rfl
@[simp] theorem Dev.onLode_fwd (f : Lode → Lode) : (d.onLode f).fwd = d.fwd := rfl
@[simp] theorem Dev.onLode_strong (f : Lode → Lode) : (d.onLode f).strong = d.strong := rfl
@[simp] theorem Dev.onLode_book (f : Lode → Lode) : (d.onLode f).book = d.book := rfl
@[simp] theorem Dev.onLode_sess (f : Lode → Lode) : (d.onLode f).sess = d.sess := rfl
@[simp] theorem Dev.onLode_pool (f : Lode → Lode) : (d.onLode f).pool = d.pool := rfl
@[simp] theorem Dev.onLode_fmt (f : Lode → Lode) : (d.onLode f).fmt = d.fmt := rfl
@[simp] theorem Dev.onLode_lode (f : Lode → Lode) : (d.onLode f).lode = f d.lode := rfl
@[simp] theorem Dev.onLode_dctl (f : Lode → Lode) : (d.onLode f).dctl = d.dctl := rfl
@[simp] theorem Dev.onLode_load (f : Lode → Lode) : (d.onLode f).load = d.load := rfl
@[simp] theorem Dev.onLode_rope (f : Lode → Lode) : (d.onLode f).rope = d.rope := rfl
@[simp] theorem Dev.onLode_hlth (f : Lode → Lode) : (d.onLode f).hlth = d.hlth := rfl
@[simp] theorem Dev.onLode_elec (f : Lode → Lode) : (d.onLode f).elec = d.elec := rfl
@[simp] theorem Dev.onLode_free (f : Lode → Lode) : (d.onLode f).free = d.free := rfl

/-! ## dctl -/

@[simp] theorem Dev.onDctl_out (f : DramCtl → DramCtl) : (d.onDctl f).out = d.out := rfl
@[simp] theorem Dev.onDctl_csr (f : DramCtl → DramCtl) : (d.onDctl f).csr = d.csr := rfl
@[simp] theorem Dev.onDctl_drip (f : DramCtl → DramCtl) : (d.onDctl f).drip = d.drip := rfl
@[simp] theorem Dev.onDctl_host (f : DramCtl → DramCtl) : (d.onDctl f).host = d.host := rfl
@[simp] theorem Dev.onDctl_lard (f : DramCtl → DramCtl) : (d.onDctl f).lard = d.lard := rfl
@[simp] theorem Dev.onDctl_egrs (f : DramCtl → DramCtl) : (d.onDctl f).egrs = d.egrs := rfl
@[simp] theorem Dev.onDctl_ingr (f : DramCtl → DramCtl) : (d.onDctl f).ingr = d.ingr := rfl
@[simp] theorem Dev.onDctl_cores (f : DramCtl → DramCtl) : (d.onDctl f).cores = d.cores := rfl
@[simp] theorem Dev.onDctl_latches (f : DramCtl → DramCtl) : (d.onDctl f).latches = d.latches := rfl
@[simp] theorem Dev.onDctl_help (f : DramCtl → DramCtl) : (d.onDctl f).help = d.help := rfl
@[simp] theorem Dev.onDctl_disp (f : DramCtl → DramCtl) : (d.onDctl f).disp = d.disp := rfl
@[simp] theorem Dev.onDctl_dmem (f : DramCtl → DramCtl) : (d.onDctl f).dmem = d.dmem := rfl
@[simp] theorem Dev.onDctl_fwd (f : DramCtl → DramCtl) : (d.onDctl f).fwd = d.fwd := rfl
@[simp] theorem Dev.onDctl_strong (f : DramCtl → DramCtl) : (d.onDctl f).strong = d.strong := rfl
@[simp] theorem Dev.onDctl_book (f : DramCtl → DramCtl) : (d.onDctl f).book = d.book := rfl
@[simp] theorem Dev.onDctl_sess (f : DramCtl → DramCtl) : (d.onDctl f).sess = d.sess := rfl
@[simp] theorem Dev.onDctl_pool (f : DramCtl → DramCtl) : (d.onDctl f).pool = d.pool := rfl
@[simp] theorem Dev.onDctl_fmt (f : DramCtl → DramCtl) : (d.onDctl f).fmt = d.fmt := rfl
@[simp] theorem Dev.onDctl_lode (f : DramCtl → DramCtl) : (d.onDctl f).lode = d.lode := rfl
@[simp] theorem Dev.onDctl_dctl (f : DramCtl → DramCtl) : (d.onDctl f).dctl = f d.dctl := rfl
@[simp] theorem Dev.onDctl_load (f : DramCtl → DramCtl) : (d.onDctl f).load = d.load := rfl
@[simp] theorem Dev.onDctl_rope (f : DramCtl → DramCtl) : (d.onDctl f).rope = d.rope := rfl
@[simp] theorem Dev.onDctl_hlth (f : DramCtl → DramCtl) : (d.onDctl f).hlth = d.hlth := rfl
@[simp] theorem Dev.onDctl_elec (f : DramCtl → DramCtl) : (d.onDctl f).elec = d.elec := rfl
@[simp] theorem Dev.onDctl_free (f : DramCtl → DramCtl) : (d.onDctl f).free = d.free := rfl

/-! ## load -/

@[simp] theorem Dev.onLoad_out (f : Load → Load) : (d.onLoad f).out = d.out := rfl
@[simp] theorem Dev.onLoad_csr (f : Load → Load) : (d.onLoad f).csr = d.csr := rfl
@[simp] theorem Dev.onLoad_drip (f : Load → Load) : (d.onLoad f).drip = d.drip := rfl
@[simp] theorem Dev.onLoad_host (f : Load → Load) : (d.onLoad f).host = d.host := rfl
@[simp] theorem Dev.onLoad_lard (f : Load → Load) : (d.onLoad f).lard = d.lard := rfl
@[simp] theorem Dev.onLoad_egrs (f : Load → Load) : (d.onLoad f).egrs = d.egrs := rfl
@[simp] theorem Dev.onLoad_ingr (f : Load → Load) : (d.onLoad f).ingr = d.ingr := rfl
@[simp] theorem Dev.onLoad_cores (f : Load → Load) : (d.onLoad f).cores = d.cores := rfl
@[simp] theorem Dev.onLoad_latches (f : Load → Load) : (d.onLoad f).latches = d.latches := rfl
@[simp] theorem Dev.onLoad_help (f : Load → Load) : (d.onLoad f).help = d.help := rfl
@[simp] theorem Dev.onLoad_disp (f : Load → Load) : (d.onLoad f).disp = d.disp := rfl
@[simp] theorem Dev.onLoad_dmem (f : Load → Load) : (d.onLoad f).dmem = d.dmem := rfl
@[simp] theorem Dev.onLoad_fwd (f : Load → Load) : (d.onLoad f).fwd = d.fwd := rfl
@[simp] theorem Dev.onLoad_strong (f : Load → Load) : (d.onLoad f).strong = d.strong := rfl
@[simp] theorem Dev.onLoad_book (f : Load → Load) : (d.onLoad f).book = d.book := rfl
@[simp] theorem Dev.onLoad_sess (f : Load → Load) : (d.onLoad f).sess = d.sess := rfl
@[simp] theorem Dev.onLoad_pool (f : Load → Load) : (d.onLoad f).pool = d.pool := rfl
@[simp] theorem Dev.onLoad_fmt (f : Load → Load) : (d.onLoad f).fmt = d.fmt := rfl
@[simp] theorem Dev.onLoad_lode (f : Load → Load) : (d.onLoad f).lode = d.lode := rfl
@[simp] theorem Dev.onLoad_dctl (f : Load → Load) : (d.onLoad f).dctl = d.dctl := rfl
@[simp] theorem Dev.onLoad_load (f : Load → Load) : (d.onLoad f).load = f d.load := rfl
@[simp] theorem Dev.onLoad_rope (f : Load → Load) : (d.onLoad f).rope = d.rope := rfl
@[simp] theorem Dev.onLoad_hlth (f : Load → Load) : (d.onLoad f).hlth = d.hlth := rfl
@[simp] theorem Dev.onLoad_elec (f : Load → Load) : (d.onLoad f).elec = d.elec := rfl
@[simp] theorem Dev.onLoad_free (f : Load → Load) : (d.onLoad f).free = d.free := rfl

/-! ## rope -/

@[simp] theorem Dev.onRope_out (f : Rope → Rope) : (d.onRope f).out = d.out := rfl
@[simp] theorem Dev.onRope_csr (f : Rope → Rope) : (d.onRope f).csr = d.csr := rfl
@[simp] theorem Dev.onRope_drip (f : Rope → Rope) : (d.onRope f).drip = d.drip := rfl
@[simp] theorem Dev.onRope_host (f : Rope → Rope) : (d.onRope f).host = d.host := rfl
@[simp] theorem Dev.onRope_lard (f : Rope → Rope) : (d.onRope f).lard = d.lard := rfl
@[simp] theorem Dev.onRope_egrs (f : Rope → Rope) : (d.onRope f).egrs = d.egrs := rfl
@[simp] theorem Dev.onRope_ingr (f : Rope → Rope) : (d.onRope f).ingr = d.ingr := rfl
@[simp] theorem Dev.onRope_cores (f : Rope → Rope) : (d.onRope f).cores = d.cores := rfl
@[simp] theorem Dev.onRope_latches (f : Rope → Rope) : (d.onRope f).latches = d.latches := rfl
@[simp] theorem Dev.onRope_help (f : Rope → Rope) : (d.onRope f).help = d.help := rfl
@[simp] theorem Dev.onRope_disp (f : Rope → Rope) : (d.onRope f).disp = d.disp := rfl
@[simp] theorem Dev.onRope_dmem (f : Rope → Rope) : (d.onRope f).dmem = d.dmem := rfl
@[simp] theorem Dev.onRope_fwd (f : Rope → Rope) : (d.onRope f).fwd = d.fwd := rfl
@[simp] theorem Dev.onRope_strong (f : Rope → Rope) : (d.onRope f).strong = d.strong := rfl
@[simp] theorem Dev.onRope_book (f : Rope → Rope) : (d.onRope f).book = d.book := rfl
@[simp] theorem Dev.onRope_sess (f : Rope → Rope) : (d.onRope f).sess = d.sess := rfl
@[simp] theorem Dev.onRope_pool (f : Rope → Rope) : (d.onRope f).pool = d.pool := rfl
@[simp] theorem Dev.onRope_fmt (f : Rope → Rope) : (d.onRope f).fmt = d.fmt := rfl
@[simp] theorem Dev.onRope_lode (f : Rope → Rope) : (d.onRope f).lode = d.lode := rfl
@[simp] theorem Dev.onRope_dctl (f : Rope → Rope) : (d.onRope f).dctl = d.dctl := rfl
@[simp] theorem Dev.onRope_load (f : Rope → Rope) : (d.onRope f).load = d.load := rfl
@[simp] theorem Dev.onRope_rope (f : Rope → Rope) : (d.onRope f).rope = f d.rope := rfl
@[simp] theorem Dev.onRope_hlth (f : Rope → Rope) : (d.onRope f).hlth = d.hlth := rfl
@[simp] theorem Dev.onRope_elec (f : Rope → Rope) : (d.onRope f).elec = d.elec := rfl
@[simp] theorem Dev.onRope_free (f : Rope → Rope) : (d.onRope f).free = d.free := rfl

/-! ## hlth -/

@[simp] theorem Dev.onHlth_out (f : Hlth → Hlth) : (d.onHlth f).out = d.out := rfl
@[simp] theorem Dev.onHlth_csr (f : Hlth → Hlth) : (d.onHlth f).csr = d.csr := rfl
@[simp] theorem Dev.onHlth_drip (f : Hlth → Hlth) : (d.onHlth f).drip = d.drip := rfl
@[simp] theorem Dev.onHlth_host (f : Hlth → Hlth) : (d.onHlth f).host = d.host := rfl
@[simp] theorem Dev.onHlth_lard (f : Hlth → Hlth) : (d.onHlth f).lard = d.lard := rfl
@[simp] theorem Dev.onHlth_egrs (f : Hlth → Hlth) : (d.onHlth f).egrs = d.egrs := rfl
@[simp] theorem Dev.onHlth_ingr (f : Hlth → Hlth) : (d.onHlth f).ingr = d.ingr := rfl
@[simp] theorem Dev.onHlth_cores (f : Hlth → Hlth) : (d.onHlth f).cores = d.cores := rfl
@[simp] theorem Dev.onHlth_latches (f : Hlth → Hlth) : (d.onHlth f).latches = d.latches := rfl
@[simp] theorem Dev.onHlth_help (f : Hlth → Hlth) : (d.onHlth f).help = d.help := rfl
@[simp] theorem Dev.onHlth_disp (f : Hlth → Hlth) : (d.onHlth f).disp = d.disp := rfl
@[simp] theorem Dev.onHlth_dmem (f : Hlth → Hlth) : (d.onHlth f).dmem = d.dmem := rfl
@[simp] theorem Dev.onHlth_fwd (f : Hlth → Hlth) : (d.onHlth f).fwd = d.fwd := rfl
@[simp] theorem Dev.onHlth_strong (f : Hlth → Hlth) : (d.onHlth f).strong = d.strong := rfl
@[simp] theorem Dev.onHlth_book (f : Hlth → Hlth) : (d.onHlth f).book = d.book := rfl
@[simp] theorem Dev.onHlth_sess (f : Hlth → Hlth) : (d.onHlth f).sess = d.sess := rfl
@[simp] theorem Dev.onHlth_pool (f : Hlth → Hlth) : (d.onHlth f).pool = d.pool := rfl
@[simp] theorem Dev.onHlth_fmt (f : Hlth → Hlth) : (d.onHlth f).fmt = d.fmt := rfl
@[simp] theorem Dev.onHlth_lode (f : Hlth → Hlth) : (d.onHlth f).lode = d.lode := rfl
@[simp] theorem Dev.onHlth_dctl (f : Hlth → Hlth) : (d.onHlth f).dctl = d.dctl := rfl
@[simp] theorem Dev.onHlth_load (f : Hlth → Hlth) : (d.onHlth f).load = d.load := rfl
@[simp] theorem Dev.onHlth_rope (f : Hlth → Hlth) : (d.onHlth f).rope = d.rope := rfl
@[simp] theorem Dev.onHlth_hlth (f : Hlth → Hlth) : (d.onHlth f).hlth = f d.hlth := rfl
@[simp] theorem Dev.onHlth_elec (f : Hlth → Hlth) : (d.onHlth f).elec = d.elec := rfl
@[simp] theorem Dev.onHlth_free (f : Hlth → Hlth) : (d.onHlth f).free = d.free := rfl

/-! ## elec -/

@[simp] theorem Dev.onElec_out (f : Elec → Elec) : (d.onElec f).out = d.out := rfl
@[simp] theorem Dev.onElec_csr (f : Elec → Elec) : (d.onElec f).csr = d.csr := rfl
@[simp] theorem Dev.onElec_drip (f : Elec → Elec) : (d.onElec f).drip = d.drip := rfl
@[simp] theorem Dev.onElec_host (f : Elec → Elec) : (d.onElec f).host = d.host := rfl
@[simp] theorem Dev.onElec_lard (f : Elec → Elec) : (d.onElec f).lard = d.lard := rfl
@[simp] theorem Dev.onElec_egrs (f : Elec → Elec) : (d.onElec f).egrs = d.egrs := rfl
@[simp] theorem Dev.onElec_ingr (f : Elec → Elec) : (d.onElec f).ingr = d.ingr := rfl
@[simp] theorem Dev.onElec_cores (f : Elec → Elec) : (d.onElec f).cores = d.cores := rfl
@[simp] theorem Dev.onElec_latches (f : Elec → Elec) : (d.onElec f).latches = d.latches := rfl
@[simp] theorem Dev.onElec_help (f : Elec → Elec) : (d.onElec f).help = d.help := rfl
@[simp] theorem Dev.onElec_disp (f : Elec → Elec) : (d.onElec f).disp = d.disp := rfl
@[simp] theorem Dev.onElec_dmem (f : Elec → Elec) : (d.onElec f).dmem = d.dmem := rfl
@[simp] theorem Dev.onElec_fwd (f : Elec → Elec) : (d.onElec f).fwd = d.fwd := rfl
@[simp] theorem Dev.onElec_strong (f : Elec → Elec) : (d.onElec f).strong = d.strong := rfl
@[simp] theorem Dev.onElec_book (f : Elec → Elec) : (d.onElec f).book = d.book := rfl
@[simp] theorem Dev.onElec_sess (f : Elec → Elec) : (d.onElec f).sess = d.sess := rfl
@[simp] theorem Dev.onElec_pool (f : Elec → Elec) : (d.onElec f).pool = d.pool := rfl
@[simp] theorem Dev.onElec_fmt (f : Elec → Elec) : (d.onElec f).fmt = d.fmt := rfl
@[simp] theorem Dev.onElec_lode (f : Elec → Elec) : (d.onElec f).lode = d.lode := rfl
@[simp] theorem Dev.onElec_dctl (f : Elec → Elec) : (d.onElec f).dctl = d.dctl := rfl
@[simp] theorem Dev.onElec_load (f : Elec → Elec) : (d.onElec f).load = d.load := rfl
@[simp] theorem Dev.onElec_rope (f : Elec → Elec) : (d.onElec f).rope = d.rope := rfl
@[simp] theorem Dev.onElec_hlth (f : Elec → Elec) : (d.onElec f).hlth = d.hlth := rfl
@[simp] theorem Dev.onElec_elec (f : Elec → Elec) : (d.onElec f).elec = f d.elec := rfl
@[simp] theorem Dev.onElec_free (f : Elec → Elec) : (d.onElec f).free = d.free := rfl

/-! ## Free values -/

@[simp] theorem Dev.freeStep_out : d.freeStep.out = d.out := rfl
@[simp] theorem Dev.freeStep_csr : d.freeStep.csr = d.csr := rfl
@[simp] theorem Dev.freeStep_drip : d.freeStep.drip = d.drip := rfl
@[simp] theorem Dev.freeStep_host : d.freeStep.host = d.host := rfl
@[simp] theorem Dev.freeStep_lard : d.freeStep.lard = d.lard := rfl
@[simp] theorem Dev.freeStep_egrs : d.freeStep.egrs = d.egrs := rfl
@[simp] theorem Dev.freeStep_ingr : d.freeStep.ingr = d.ingr := rfl
@[simp] theorem Dev.freeStep_cores : d.freeStep.cores = d.cores := rfl
@[simp] theorem Dev.freeStep_latches : d.freeStep.latches = d.latches := rfl
@[simp] theorem Dev.freeStep_help : d.freeStep.help = d.help := rfl
@[simp] theorem Dev.freeStep_disp : d.freeStep.disp = d.disp := rfl
@[simp] theorem Dev.freeStep_dmem : d.freeStep.dmem = d.dmem := rfl
@[simp] theorem Dev.freeStep_fwd : d.freeStep.fwd = d.fwd := rfl
@[simp] theorem Dev.freeStep_strong : d.freeStep.strong = d.strong := rfl
@[simp] theorem Dev.freeStep_book : d.freeStep.book = d.book := rfl
@[simp] theorem Dev.freeStep_sess : d.freeStep.sess = d.sess := rfl
@[simp] theorem Dev.freeStep_pool : d.freeStep.pool = d.pool := rfl
@[simp] theorem Dev.freeStep_fmt : d.freeStep.fmt = d.fmt := rfl
@[simp] theorem Dev.freeStep_lode : d.freeStep.lode = d.lode := rfl
@[simp] theorem Dev.freeStep_dctl : d.freeStep.dctl = d.dctl := rfl
@[simp] theorem Dev.freeStep_load : d.freeStep.load = d.load := rfl
@[simp] theorem Dev.freeStep_rope : d.freeStep.rope = d.rope := rfl
@[simp] theorem Dev.freeStep_hlth : d.freeStep.hlth = d.hlth := rfl
@[simp] theorem Dev.freeStep_elec : d.freeStep.elec = d.elec := rfl
@[simp] theorem Dev.freeStep_free : d.freeStep.free = d.free + 1 := rfl

end Sys2Proof.Machine
end

