-- ==== Sys2Proof/Laws/Ops.lean ====
section
/-! SUPPORT. What reading a register word, a master's copy, a group, a slot, a bank word, a thread, a gallery or a latch gives
after each of them is written, and what a doorbell does. -/

namespace Sys2Proof.Machine

variable (d : Dev)

@[simp] theorem State.run_eq (s : State) (f : Dev → Dev) : s.run f = .next { s with dev := f s.dev } := rfl

/-! ## Register words -/

@[simp] theorem Dev.io_setIo_same (o v : Nat) : (d.setIo o v).io o = v % 2 ^ 32 := by
  simp [Dev.io, Dev.setIo, Dev.onCsr, w32]

theorem Dev.io_setIo_ne (o p v : Nat) (h : p ≠ o) : (d.setIo o v).io p = d.io p := by
  simp only [Dev.io, Dev.setIo, Dev.onCsr, spGet_eq_spFind]
  rw [spFind_spSet_ne _ _ _ _ _ h]

theorem Dev.ioFld_setIo_ne (o p v hi lo : Nat) (h : p ≠ o) : (d.setIo o v).ioFld p hi lo = d.ioFld p hi lo := by
  simp only [Dev.ioFld, Dev.io_setIo_ne _ _ _ _ h]

/-- A register write leaves the mode unless it writes LOAD_STAT. -/
theorem Dev.mode_setIo (o v : Nat) (h : R.loadStat ≠ o) : (d.setIo o v).mode = d.mode := by
  simp only [Dev.mode, Dev.ioFld_setIo_ne _ _ _ _ _ _ h]

/-! ## Fields -/

theorem testBit_bits (v hi lo i : Nat) :
    (bits v hi lo).testBit i = (decide (i < hi + 1 - lo) && v.testBit (lo + i)) := by
  simp only [bits, Nat.testBit_mod_two_pow, Nat.testBit_div_two_pow, Nat.add_comm]

/-- Setting a field sets its bits and leaves the others. -/
theorem testBit_setFld (w : Word) (hi lo v i : Nat) (hl : lo ≤ hi) (hh : hi < 32) :
    (setFld w hi lo v).toNat.testBit i = if lo ≤ i ∧ i ≤ hi then v.testBit (i - lo) else w.toNat.testBit i := by
  rw [BitVec.testBit_toNat, setFld, BitVec.getLsbD_or, BitVec.getLsbD_and, BitVec.getLsbD_not, fldMask,
    BitVec.getLsbD_ofNat, BitVec.getLsbD_ofNat, Nat.testBit_mul_two_pow, Nat.testBit_mul_two_pow,
    Nat.testBit_two_pow_sub_one, Nat.testBit_mod_two_pow, BitVec.testBit_toNat]
  by_cases h : i < 32
  · by_cases h1 : lo ≤ i <;> by_cases h2 : i ≤ hi
    · simp [h, h1, h2, show i - lo < hi + 1 - lo by omega]
    · simp [h, h1, h2, show ¬ i - lo < hi + 1 - lo by omega]
    · simp [h, h1]
    · simp [h, h1]
  · simp [h, show ¬ i ≤ hi by omega]
    exact BitVec.getLsbD_of_ge w i (by omega)

theorem Dev.io_setIoFld_same (o hi lo v : Nat) :
    (d.setIoFld o hi lo v).io o = (setFld (spGet (resetWord o) d.csr.io o) hi lo v).toNat := by
  rw [Dev.setIoFld, Dev.io_setIo_same]; exact Nat.mod_eq_of_lt (BitVec.isLt _)

/-- A field reads as it was set. -/
theorem Dev.ioFld_setIoFld_same (o hi lo v : Nat) (hl : lo ≤ hi) (hh : hi < 32) :
    (d.setIoFld o hi lo v).ioFld o hi lo = v % 2 ^ (hi + 1 - lo) := by
  refine Nat.eq_of_testBit_eq fun i => ?_
  rw [Dev.ioFld, Dev.io_setIoFld_same, testBit_bits, testBit_setFld _ _ _ _ _ hl hh, Nat.testBit_mod_two_pow]
  by_cases h : i < hi + 1 - lo
  · simp [h, show lo ≤ lo + i ∧ lo + i ≤ hi by omega]
  · simp [h]

/-- Setting one field leaves a field that shares no bit with it. -/
theorem Dev.ioFld_setIoFld_disj (o hi lo v h l : Nat) (hl : lo ≤ hi) (hh : hi < 32) (hd : h < lo ∨ hi < l) :
    (d.setIoFld o hi lo v).ioFld o h l = d.ioFld o h l := by
  refine Nat.eq_of_testBit_eq fun i => ?_
  rw [Dev.ioFld, Dev.io_setIoFld_same, testBit_bits, testBit_setFld _ _ _ _ _ hl hh, Dev.ioFld, testBit_bits, Dev.io]
  by_cases hi' : i < h + 1 - l
  · rw [if_neg (by omega)]
  · simp [hi']

theorem Dev.ioFld_setIoFld_ne (o p hi lo v h l : Nat) (hp : p ≠ o) :
    (d.setIoFld o hi lo v).ioFld p h l = d.ioFld p h l := Dev.ioFld_setIo_ne _ _ _ _ _ _ hp

/-! ## Copies of the masters -/

@[simp] theorem Dev.per_setPer_same (m o v : Nat) : (d.setPer m o v).per m o = v % 2 ^ 32 := by
  simp [Dev.per, Dev.setPer, Dev.onCsr, w32]

@[simp] theorem Dev.io_setPer (m o v p : Nat) : (d.setPer m o v).io p = d.io p := rfl
@[simp] theorem Dev.ioFld_setPer (m o v p hi lo : Nat) : (d.setPer m o v).ioFld p hi lo = d.ioFld p hi lo := rfl
@[simp] theorem Dev.mode_setPer (m o v : Nat) : (d.setPer m o v).mode = d.mode := rfl
@[simp] theorem Dev.serving_setPer (m o v : Nat) : (d.setPer m o v).serving = d.serving := rfl
@[simp] theorem Dev.group_setPer (m o v g : Nat) : (d.setPer m o v).group g = d.group g := rfl
@[simp] theorem Dev.live_setPer (m o v k : Nat) : (d.setPer m o v).live k = d.live k := rfl
@[simp] theorem Dev.group_setIo (o v g : Nat) : (d.setIo o v).group g = d.group g := rfl
@[simp] theorem Dev.live_setIo (o v k : Nat) : (d.setIo o v).live k = d.live k := rfl
@[simp] theorem Dev.per_setIo (o v m p : Nat) : (d.setIo o v).per m p = d.per m p := rfl

/-! ## Groups, slots and banks -/

@[simp] theorem Dev.group_setGroup_same (g : Nat) (v : Group) : (d.setGroup g v).group g = v := by
  simp [Dev.group, Dev.setGroup, Dev.onCsr]

theorem Dev.group_setGroup_ne (g h : Nat) (v : Group) (hh : h ≠ g) : (d.setGroup g v).group h = d.group h := by
  simp only [Dev.group, Dev.setGroup, Dev.onCsr]
  rw [spGet_spSet_ne _ _ _ _ _ hh]

@[simp] theorem Dev.slot_setSlot_same (n : Nat) (v : Slot) : (d.setSlot n v).slot n = v := by
  simp [Dev.slot, Dev.setSlot, Dev.onDrip]

theorem Dev.slot_setSlot_ne (n k : Nat) (v : Slot) (h : k ≠ n) : (d.setSlot n v).slot k = d.slot k := by
  simp only [Dev.slot, Dev.setSlot, Dev.onDrip]
  rw [spGet_spSet_ne _ _ _ _ _ h]

@[simp] theorem Dev.bankWord_setBankWord_same (b : Bool) (k v : Nat) :
    (d.setBankWord b k v).bankWord b k = v % 2 ^ 32 := by
  cases b <;> simp [Dev.bankWord, Dev.setBankWord, Dev.onCsr, w32]

theorem Dev.bankWord_setBankWord_ne (b : Bool) (k v p : Nat) (h : p ≠ k) :
    (d.setBankWord b k v).bankWord b p = d.bankWord b p := by
  cases b <;> simp [Dev.bankWord, Dev.setBankWord, Dev.onCsr, spGet_eq_spFind, spFind_spSet_ne _ _ _ _ _ h]

/-- A write of one bank leaves the other. -/
@[simp] theorem Dev.bankWord_setBankWord_other (b : Bool) (k v p : Nat) :
    (d.setBankWord b k v).bankWord (!b) p = d.bankWord (!b) p := by
  cases b <;> simp [Dev.bankWord, Dev.setBankWord, Dev.onCsr]

/-! ## Threads and galleries -/

@[simp] theorem Dev.thr_setThr_same (id : Tid) (t : Thread) : (d.setThr id t).thr id = t := by
  simp [Dev.thr, Dev.setThr, Dev.onCores]

theorem Dev.thr_setThr_ne (id k : Tid) (t : Thread) (h : tidKey k ≠ tidKey id) : (d.setThr id t).thr k = d.thr k := by
  simp only [Dev.thr, Dev.setThr, Dev.onCores]
  rw [spGet_spSet_ne _ _ _ _ _ h]

@[simp] theorem Dev.thr_updThr_same (id : Tid) (f : Thread → Thread) : (d.updThr id f).thr id = f (d.thr id) := by
  simp [Dev.updThr]

/-- Two changes of one thread, which is not back at reset in between, are one. -/
theorem Dev.updThr_updThr (id : Tid) (f g : Thread → Thread) (h : f (d.thr id) ≠ Thread.init) :
    (d.updThr id f).updThr id g = d.updThr id (fun t => g (f t)) := by
  simp only [Dev.updThr, Dev.thr_setThr_same]
  simp only [Dev.setThr, Dev.onCores, spSet_spSet_same _ _ _ _ _ h]

@[simp] theorem Dev.gal_setGal_same (g : Nat) (v : Gallery) : (d.setGal g v).gal g = v := by
  simp [Dev.gal, Dev.setGal, Dev.onCores]

@[simp] theorem Dev.gal_setThr (id : Tid) (t : Thread) (g : Nat) : (d.setThr id t).gal g = d.gal g := rfl
@[simp] theorem Dev.mode_setThr (id : Tid) (t : Thread) : (d.setThr id t).mode = d.mode := rfl
@[simp] theorem Dev.serving_setThr (id : Tid) (t : Thread) : (d.setThr id t).serving = d.serving := rfl

/-! ## Doorbells -/

/-- In service every block takes writes. -/
theorem Dev.blockOpen_of_serving (h : d.serving = true) (o : Nat) : d.blockOpen o = true := by simp [Dev.blockOpen, h]

/-- A doorbell of a register whose masters the spec names acts for one of them, on a value without reserved bits. -/
theorem Dev.doorbell_acts (m off : Nat) (named : List Nat) (width v : Nat) (act : Dev → Dev) (hc : d.noPath m = false)
    (ho : d.blockOpen off = true) (hm : named = [] ∨ m ∈ named) (hv : v < 2 ^ width) :
    d.doorbell m off named width v act = act d := by
  have e : v / 2 ^ width = 0 := Nat.div_eq_of_lt hv
  rcases hm with rfl | hm
  · simp [Dev.doorbell, hc, ho, e]
  · simp [Dev.doorbell, hc, ho, e, hm]

/-- A doorbell refuses a master that is not named. -/
theorem Dev.doorbell_refuses (m off : Nat) (named : List Nat) (width v : Nat) (act : Dev → Dev) (hc : d.noPath m = false)
    (hn : named ≠ []) (hm : m ∉ named) : d.doorbell m off named width v act =
      (d.refuse m off Code.notOwner).lastWrite m off Code.notOwner := by
  simp [Dev.doorbell, hc, hn, hm]

/-- A doorbell of a block acts for a master of its owner set. -/
theorem Dev.ownDoorbell_acts (m b off width v : Nat) (act : Dev → Dev) (hc : d.noPath m = false)
    (ho : d.blockOpen off = true) (hm : d.owns m b = true) (hv : v < 2 ^ width) :
    d.ownDoorbell m b off width v act = act d := by
  have e : v / 2 ^ width = 0 := Nat.div_eq_of_lt hv
  simp [Dev.ownDoorbell, hc, ho, hm, e]

/-- A doorbell of a block refuses a master outside its owner set. -/
theorem Dev.ownDoorbell_refuses (m b off width v : Nat) (act : Dev → Dev) (hc : d.noPath m = false)
    (hm : d.owns m b = false) : d.ownDoorbell m b off width v act =
      (d.refuse m off Code.notOwner).lastWrite m off Code.notOwner := by
  simp [Dev.ownDoorbell, hc, hm]

end Sys2Proof.Machine
end

