-- ==== Sys2Proof/Laws/Commit.lean ====
section
/-! SUPPORT. What the end of a commit and a flip leave of the commit slots, the drip and the groups. -/

namespace Sys2Proof.Machine

/-- What commits decide on: the drip, the groups and their banks. -/
def Dev.commitPart (d : Dev) : Drip × Map Group × Map Word × Map Word := (d.drip, d.csr.groups, d.csr.bankA, d.csr.bankB)

/-- A fold whose step leaves a part alone leaves it alone. -/
theorem foldl_part {α β γ : Type} (P : β → γ) (f : β → α → β) (h : ∀ b a, P (f b a) = P b) (l : List α) :
    ∀ b, P (l.foldl f b) = P b := by
  induction l with
  | nil => intro b; rfl
  | cons a l ih => intro b; rw [List.foldl_cons, ih, h]

variable (d : Dev)

@[simp] theorem Dev.commitPart_updThr (id : Tid) (f : Thread → Thread) : (d.updThr id f).commitPart = d.commitPart := rfl
@[simp] theorem Dev.commitPart_setIo (o v : Nat) : (d.setIo o v).commitPart = d.commitPart := rfl
@[simp] theorem Dev.commitPart_setIoFld (o hi lo v : Nat) : (d.setIoFld o hi lo v).commitPart = d.commitPart := rfl
@[simp] theorem Dev.commitPart_setIoBit (o i : Nat) : (d.setIoBit o i).commitPart = d.commitPart := rfl
@[simp] theorem Dev.commitPart_bump (o : Nat) : (d.bump o).commitPart = d.commitPart := rfl
@[simp] theorem Dev.commitPart_setPer (m o v : Nat) : (d.setPer m o v).commitPart = d.commitPart := rfl
@[simp] theorem Dev.commitPart_setStat (m o : Nat) (b : Bool) (c : Nat) : (d.setStat m o b c).commitPart = d.commitPart := rfl
@[simp] theorem Dev.commitPart_emit (o : Out) : (d.emit o).commitPart = d.commitPart := rfl
@[simp] theorem Dev.commitPart_incident (a b c x y : Nat) : (d.incident a b c x y).commitPart = d.commitPart := rfl
@[simp] theorem Dev.commitPart_vector (v : Nat) : (d.vector v).commitPart = d.commitPart := rfl
@[simp] theorem Dev.commitPart_onCores (f : Cores → Cores) : (d.onCores f).commitPart = d.commitPart := rfl
@[simp] theorem Dev.commitPart_onDmem (f : DramMem → DramMem) : (d.onDmem f).commitPart = d.commitPart := rfl
@[simp] theorem Dev.commitPart_onHost (f : HostPort → HostPort) : (d.onHost f).commitPart = d.commitPart := rfl
@[simp] theorem Dev.commitPart_onRope (f : Rope → Rope) : (d.onRope f).commitPart = d.commitPart := rfl
@[simp] theorem Dev.commitPart_onHlth (f : Hlth → Hlth) : (d.onHlth f).commitPart = d.commitPart := rfl
@[simp] theorem Dev.commitPart_onEgrs (f : Egrs → Egrs) : (d.onEgrs f).commitPart = d.commitPart := rfl
@[simp] theorem Dev.commitPart_onIngr (f : Ingr → Ingr) : (d.onIngr f).commitPart = d.commitPart := rfl
@[simp] theorem Dev.commitPart_onPool (f : SealPool → SealPool) : (d.onPool f).commitPart = d.commitPart := rfl
@[simp] theorem Dev.commitPart_onStrong (f : Strong → Strong) : (d.onStrong f).commitPart = d.commitPart := rfl
@[simp] theorem Dev.commitPart_onFwd (f : Fwd → Fwd) : (d.onFwd f).commitPart = d.commitPart := rfl
@[simp] theorem Dev.commitPart_onLoad (f : Load → Load) : (d.onLoad f).commitPart = d.commitPart := rfl
@[simp] theorem Dev.commitPart_onLard (f : Lard → Lard) : (d.onLard f).commitPart = d.commitPart := rfl
@[simp] theorem Dev.commitPart_onLatches (f : Map Latch → Map Latch) : (d.onLatches f).commitPart = d.commitPart := rfl
@[simp] theorem Dev.commitPart_onHelp (f : Help → Help) : (d.onHelp f).commitPart = d.commitPart := rfl
@[simp] theorem Dev.commitPart_setGal (g : Nat) (v : Gallery) : (d.setGal g v).commitPart = d.commitPart := rfl

@[simp] theorem Dev.commitPart_setLocalBytes (id : Tid) (bs : Bytes) :
    ∀ (d : Dev) (a : Nat), (d.setLocalBytes id a bs).commitPart = d.commitPart := by
  induction bs with
  | nil => intro d a; rfl
  | cons b bs ih => intro d a; rw [Dev.setLocalBytes, ih, Dev.setLocalByte]; split <;> rfl

@[simp] theorem Dev.commitPart_setMemBytes (dram : Bool) (bs : Bytes) :
    ∀ (d : Dev) (a : Nat), (d.setMemBytes dram a bs).commitPart = d.commitPart := by
  induction bs with
  | nil => intro d a; rfl
  | cons b bs ih => intro d a; rw [Dev.setMemBytes, ih, Dev.setMemByte]; (repeat' split) <;> rfl

@[simp] theorem Dev.commitPart_masterMem (dram : Bool) (a : Nat) (bs : Bytes) :
    (d.masterMem dram a bs).commitPart = d.commitPart := by
  unfold Dev.masterMem
  split
  · rfl
  · simp only [Dev.writeMem, Dev.clearPoison]
    rw [foldl_part Dev.commitPart _ (fun b a => by (repeat' split) <;> rfl)]
    simp

@[simp] theorem Dev.commitPart_writeLoc (id : Tid) (gen n v : Nat) (l : Loc) :
    (d.writeLoc id gen n v l).commitPart = d.commitPart := by
  cases l <;> simp [Dev.writeLoc, Dev.setEntBytes]
  split <;> simp

@[simp] theorem Dev.commitPart_endWait (id : Tid) : (d.endWait id).commitPart = d.commitPart := rfl

@[simp] theorem Dev.commitPart_endEventWait (id : Tid) : (d.endEventWait id).commitPart = d.commitPart := by
  simp [Dev.endEventWait, apply_ite Dev.commitPart]

@[simp] theorem Dev.commitPart_waitCheck (id : Tid) : (d.waitCheck id).commitPart = d.commitPart := by
  unfold Dev.waitCheck
  split
  · rfl
  · split
    · simp
    · split <;> simp

@[simp] theorem Dev.commitPart_event (id : Tid) (bit : Nat) : (d.event id bit).commitPart = d.commitPart := by
  unfold Dev.event
  split
  · rfl
  · simp only
    split
    · rw [Dev.commitPart_waitCheck]; rfl
    · rfl

@[simp] theorem Dev.commitPart_keeperEvent (g bit : Nat) : (d.keeperEvent g bit).commitPart = d.commitPart := by
  unfold Dev.keeperEvent; split <;> simp

@[simp] theorem Dev.commitPart_msix (fn v : Nat) : (d.msix fn v).commitPart = d.commitPart := by
  unfold Dev.msix; (repeat' split) <;> rfl

@[simp] theorem Dev.commitPart_signal (v : Nat) : (d.signal v).commitPart = d.commitPart := by
  unfold Dev.signal Dev.sendVec; (repeat' split) <;> simp

@[simp] theorem Dev.commitPart_ropeEmit (type chan : Nat) (data : Bytes) :
    (d.ropeEmit type chan data).commitPart = d.commitPart := rfl

@[simp] theorem Dev.commitPart_ropeSend (t : Nat) (data : Bytes) : (d.ropeSend t data).commitPart = d.commitPart := by
  unfold Dev.ropeSend; split <;> simp

/-- Telling its holder leaves a commit's slot and the groups alone. -/
@[simp] theorem Dev.commitPart_slotPost (n : Nat) : (d.slotPost n).commitPart = d.commitPart := by
  unfold Dev.slotPost Dev.ropeNotify; split <;> simp

/-! ## Slots, generations and which bank is live -/

/-- What a commit's end leaves of the slots, the LIVE generation and the groups: all but the lines written. -/
def Dev.flipPart (d : Dev) : Map Slot × Nat × (Nat → Bool × Nat × Nat × OtherBank) :=
  (d.drip.slots, d.drip.gen, fun g => ((d.group g).liveB, (d.group g).genLive, (d.group g).genOther, (d.group g).other))

theorem Dev.flipPart_of {d e : Dev} (h : d.commitPart = e.commitPart) : d.flipPart = e.flipPart := by
  simp only [Dev.commitPart, Prod.mk.injEq] at h
  simp only [Dev.flipPart, Dev.group, h.1, h.2.1]

theorem Dev.flipPart_dirty (g : Nat) (f : Group → Map Bool) :
    (d.setGroup g { d.group g with dirty := f (d.group g) }).flipPart = d.flipPart := by
  simp only [Dev.flipPart]
  refine Prod.ext rfl (Prod.ext rfl (funext fun h => ?_))
  by_cases e : h = g
  · subst e; simp
  · simp only [Dev.group_setGroup_ne _ _ _ _ e]

theorem Dev.flipPart_writeBank (b : Bool) (ks : List Nat) :
    ∀ (d : Dev) (ws : List Word), (d.writeBank b ks ws).flipPart = d.flipPart := by
  induction ks with
  | nil => intro d ws; cases ws <;> rfl
  | cons k ks ih =>
    intro d ws
    cases ws with
    | nil => rfl
    | cons w ws =>
      rw [Dev.writeBank, ih]
      exact (Dev.flipPart_dirty (d.setBankWord b k w.toNat) (groupOfKey k) (fun G => spSet false G.dirty (k / 64) true)).trans
        (by cases b <;> rfl)

@[simp] theorem Dev.flipPart_drainGroup (g : Nat) : (d.drainGroup g).flipPart = d.flipPart := by
  unfold Dev.drainGroup
  simp only
  split
  · rfl
  · exact foldl_part Dev.flipPart _ (fun b a => Dev.flipPart_writeBank _ _ _ _) _ _

@[simp] theorem Dev.flipPart_drainTo (g : Nat) (lim : Option Nat) : (d.drainTo g lim).flipPart = d.flipPart :=
  foldl_part Dev.flipPart _ (fun _ _ => Dev.flipPart_writeBank _ _ _ _) _ _

/-- The end of a commit: its slot is DONE with what it ended with, and the groups stay as they are. -/
theorem Dev.flipPart_slotDone (n code detail gen loc : Nat) (h : (d.slot n).hostReset = false) :
    (d.slotDone n code detail gen loc).flipPart
      = (d.setSlot n { d.slot n with state := .done, code := code, detail := detail, gen := gen, loc := loc % 2 ^ 28 }).flipPart := by
  unfold Dev.slotDone
  simp only [h, Bool.false_eq_true, if_false]
  rw [Dev.flipPart_of (Dev.commitPart_slotPost _ _), foldl_part Dev.flipPart _ (fun b a => Dev.flipPart_drainGroup b a)]

/-- Which passages are lost changes no word and no group. -/
@[simp] theorem Dev.bankWord_copyLost (copied : Nat → Bool) (b : Bool) (k : Nat) :
    (d.copyLost copied).bankWord b k = d.bankWord b k := by cases b <;> simp [Dev.bankWord, Dev.copyLost, Dev.onCsr]
@[simp] theorem Dev.commitPart_copyLost (copied : Nat → Bool) : (d.copyLost copied).commitPart = d.commitPart := by
  simp [Dev.commitPart, Dev.copyLost, Dev.onCsr]

/-! ## What follows a flip -/

@[simp] theorem Dev.commitPart_setLane (l hi lo v : Nat) : (d.setLane l hi lo v).commitPart = d.commitPart := rfl

@[simp] theorem Dev.commitPart_laneRestart (st l : Nat) : (d.laneRestart st l).commitPart = d.commitPart := by
  simp only [Dev.laneRestart]; split <;> simp

@[simp] theorem Dev.commitPart_macLinkDown (m : Nat) : (d.macLinkDown m).commitPart = d.commitPart := rfl

@[simp] theorem Dev.commitPart_bindLanes (old : Dev) : (d.bindLanes old).commitPart = d.commitPart := by
  simp only [Dev.bindLanes]
  rw [foldl_part Dev.commitPart _ (fun b a => foldl_part Dev.commitPart _ (fun b a => Dev.commitPart_laneRestart b 1 a) _ _),
    foldl_part Dev.commitPart _ (fun b a => (foldl_part Dev.commitPart _ (fun b a => Dev.commitPart_laneRestart b 0 a) _ _).trans
      (Dev.commitPart_macLinkDown b a))]

@[simp] theorem Dev.commitPart_lanePolarity : d.lanePolarity.commitPart = d.commitPart :=
  foldl_part Dev.commitPart _ (fun b a => by split <;> simp) _ _

@[simp] theorem Dev.commitPart_startSas (old : Dev) : (d.startSas old).commitPart = d.commitPart := by
  simp only [Dev.startSas]
  exact foldl_part Dev.commitPart _ (fun b a => by split <;> simp) _ _

@[simp] theorem Dev.commitPart_setLatch (n : Nat) (l : Latch) : (d.setLatch n l).commitPart = d.commitPart := rfl
@[simp] theorem Dev.commitPart_latchCount (i : Nat) : (d.latchCount i).commitPart = d.commitPart := rfl
@[simp] theorem Dev.commitPart_setCode (id : Tid) (c : Nat) (w : Bool) : (d.setCode id c w).commitPart = d.commitPart := rfl
@[simp] theorem Dev.commitPart_leaveSenders (id : Tid) : (d.leaveSenders id).commitPart = d.commitPart := rfl

@[simp] theorem Dev.commitPart_latchAnswer (n : Nat) (w : LWaiter) (code : Nat) :
    (d.latchAnswer n w code).commitPart = d.commitPart := by
  simp only [Dev.latchAnswer]
  split
  · simp
  · split
    · split
      · simp only [Dev.peerLatch]
        split
        · split <;> rfl
        · rfl
      · rfl
    · rfl

@[simp] theorem Dev.commitPart_latchEvents (n : Nat) : (d.latchEvents n).commitPart = d.commitPart :=
  foldl_part Dev.commitPart _ (fun b a => by simp) _ _

@[simp] theorem Dev.commitPart_latchFree (n : Nat) (p : Bool) : (d.latchFree n p).commitPart = d.commitPart := by
  simp only [Dev.latchFree]
  split
  · simp only [Dev.latchGrant]
    split <;> simp
  · simp

@[simp] theorem Dev.commitPart_latchFlip (l : List Nat) : (d.latchFlip l).commitPart = d.commitPart := by
  simp only [Dev.latchFlip]
  rw [foldl_part Dev.commitPart _ (fun b a => by split <;> simp),
    foldl_part Dev.commitPart _ (fun b a => foldl_part Dev.commitPart _ (fun b a => by split <;> simp [Dev.endLatchWait]) _ _)]

@[simp] theorem Dev.commitPart_chanFlip : d.chanFlip.commitPart = d.commitPart :=
  foldl_part Dev.commitPart _ (fun b a => by simp only; (repeat' split) <;> simp) _ _

@[simp] theorem Dev.commitPart_codeEvents : d.codeEvents.commitPart = d.commitPart :=
  foldl_part Dev.commitPart _ (fun b a => by simp) _ _

@[simp] theorem Dev.commitPart_readFails (tag code : Nat) : (d.readFails tag code).commitPart = d.commitPart := by
  simp only [Dev.readFails]
  split
  · rfl
  · split
    · split
      · simp only [Dev.srRefuse, Dev.srEnd, Dev.calCame]
        split <;> split <;> simp
      · simp
    · rfl
    · simp

@[simp] theorem Dev.commitPart_ropeLeave : d.ropeLeave.commitPart = d.commitPart := by
  simp only [Dev.ropeLeave]
  split
  · rfl
  · simp only [Dev.commitPart_onRope]
    rw [foldl_part Dev.commitPart _ (fun b a => by simp), foldl_part Dev.commitPart _ (fun b a => by simp)]

@[simp] theorem Dev.commitPart_setRope (st v c : Nat) : (d.setRope st v c).commitPart = d.commitPart := by
  simp only [Dev.setRope]; split <;> simp

@[simp] theorem Dev.commitPart_ropeFlip (old : Dev) : (d.ropeFlip old).commitPart = d.commitPart := by
  simp only [Dev.ropeFlip]
  split <;> simp [Dev.sendHello, Dev.ropeHello]

@[simp] theorem Dev.commitPart_setChan (g c : Nat) (l : List Msg) : (d.setChan g c l).commitPart = d.commitPart := rfl

@[simp] theorem Dev.commitPart_recvInto (id : Tid) (dst dst2 : Loc) (m : Msg) :
    (d.recvInto id dst dst2 m).commitPart = d.commitPart := by
  cases dst <;> simp [Dev.recvInto]

@[simp] theorem Dev.commitPart_chanPush (g c : Nat) (m : Msg) : (d.chanPush g c m).commitPart = d.commitPart := by
  simp only [Dev.chanPush]; (repeat' split) <;> simp

@[simp] theorem Dev.commitPart_ropeCommit (g c : Nat) : (d.ropeCommit g c).commitPart = d.commitPart := by
  simp only [Dev.ropeCommit]; (repeat' split) <;> simp

/-- What a flip makes happen leaves the slots, the generations and the banks alone. -/
@[simp] theorem Dev.commitPart_afterFlip (old : Dev) (mask : Nat) : (d.afterFlip old mask).commitPart = d.commitPart := by
  have h (b : Bool) (f : Dev → Dev) (hf : ∀ d : Dev, (f d).commitPart = d.commitPart) (d : Dev) :
      (if b then f d else d).commitPart = d.commitPart := by cases b <;> simp [hf]
  simp only [Dev.afterFlip]
  rw [h _ _ (fun d => d.commitPart_ropeFlip old), h _ _ (fun d => (rfl : d.formSets.commitPart = _)),
    h _ _ Dev.commitPart_codeEvents, h _ _ (fun d => d.commitPart_ropeCommit 0 _), h _ _ Dev.commitPart_chanFlip, h _ _ (fun d => d.commitPart_latchFlip old.strictGroups),
    h _ _ (fun d => d.commitPart_startSas old), h _ _ (fun d => (rfl : d.capBuckets.commitPart = _)),
    h _ _ Dev.commitPart_lanePolarity, h _ _ (fun d => d.commitPart_bindLanes old)]

end Sys2Proof.Machine
end

