-- ==== Sys2Proof/Laws/Issue.lean ====
section
/-! SUPPORT. What a thread that issues an instruction does, what a unit that takes a helper command does, and how Survey ends:
lemmas about the shared operations, cited in place of unfolding them. -/

namespace Sys2Proof.Machine

variable {d e : Dev} {id : Tid} {i : Dec} {evs : List Ev1} {b : Map Word} {n unit : Nat} {j : Job}

/-- An instruction that a thread issues runs under its own opcode. -/
theorem Dev.issueWith_runs (h : d.issues id i) (opc : Nat) (run : Dev → Dec → Dev) (ho : i.op = opc) :
    d.issueWith id opc run = run d i := by
  obtain ⟨h1, h2, h3, h4, h5⟩ := h
  simp [Dev.issueWith, Dev.mayIssue, h1, h2, h3, h4, h5, ho]

/-- A command for another opcode than the one at the PC changes nothing. -/
theorem Dev.issueWith_other (h : d.issues id i) (opc : Nat) (run : Dev → Dec → Dev) (ho : i.op ≠ opc) :
    d.issueWith id opc run = d := by
  obtain ⟨h1, h2, h3, h4, h5⟩ := h
  simp [Dev.issueWith, Dev.mayIssue, h1, h2, h3, h4, ho]

/-- Outside a macro no operand names a macro's time special. -/
@[simp] theorem timeOps_nil (l : List (Role × Opnd)) : timeOps [] l = l := by
  unfold timeOps
  refine List.map_id'' (fun x => ?_) l
  by_cases h : x.2.mode = 12 <;> simp [h]

/-- Operands that evaluate without a fault are handed on. -/
theorem Dev.withOps_runs (h : d.issuesOn id i e evs b) (micro opcode : Nat) (k : Dev → List Ev1 → Map Word → Dev) :
    d.withOps id i [] micro opcode k = k e evs b := by
  obtain ⟨-, rfl, h⟩ := h
  simp only [Dev.atIssue] at h
  simp [Dev.withOps, Dev.atIssue, h]

/-- An effect that answers a device is followed by the continuation. -/
theorem Dev.perform_runs (h : d.issuesOn id i e evs b) (micro opcode : Nat) (sem : Sem) (k : Dev → Dev) (r : Dev)
    (hr : sem (e.setBases id b) id i evs = .ok r) : d.perform id i [] micro opcode sem k = k r := by
  simp [Dev.perform, Dev.withOps_runs h, hr]

/-- An effect that faults parks the thread. -/
theorem Dev.perform_faults (h : d.issuesOn id i e evs b) (micro opcode : Nat) (sem : Sem) (k : Dev → Dev)
    (cls code : Nat) (hr : sem (e.setBases id b) id i evs = .error (cls, code)) :
    d.perform id i [] micro opcode sem k = e.faultPark id ⟨cls, code, opcode, 0, micro⟩ := by
  simp [Dev.perform, Dev.withOps_runs h, hr]

/-! ## Helper commands -/

/-- What it says that a unit may take a command. -/
theorem Dev.takes_iff : d.takes n j unit = true ↔
    d.serving = true ∧ d.job n = some j ∧ j.phase = .queued ∧ j.unit = unit ∧ d.mayTakeJob n j = true := by
  simp only [Dev.takes, Bool.and_eq_true, decide_eq_true_eq, and_assoc]

/-- A command that its unit performs at once ends with the unit's answer. -/
theorem Dev.takeJob_ends (h : d.takes n j unit = true) (mine : Job → Bool) (f : Dev → Job → UnitAns) (hm : mine j = true) :
    d.takeJob n unit mine f
      = (f (d.unqueue n j) j).dev.finishJob n (f (d.unqueue n j) j).code (f (d.unqueue n j) j).result := by
  obtain ⟨h1, h2, h3, h4, h5⟩ := Dev.takes_iff.1 h
  simp [Dev.takeJob, h1, h2, h3, h4, h5, hm]

/-- A command of another op changes nothing. -/
theorem Dev.takeJob_other (h : d.job n = some j) (mine : Job → Bool) (f : Dev → Job → UnitAns) (hm : mine j = false) :
    d.takeJob n unit mine f = d := by
  simp [Dev.takeJob, h, hm]

/-- A command that a check refuses ends with its code. -/
theorem Dev.admitJob_refuses (h : d.takes n j unit = true) (mine : Job → Bool) (check : Dev → Job → Nat) (note : Dev → Job → Nat → Dev)
    (f : Dev → Nat → Job → Dev) (hm : mine j = true) (hc : check (d.unqueue n j) j ≠ Code.ok) :
    d.admitJob n unit mine check note f = (note (d.unqueue n j) j (check (d.unqueue n j) j)).finishJob n (check (d.unqueue n j) j) 0 := by
  obtain ⟨h1, h2, h3, h4, h5⟩ := Dev.takes_iff.1 h
  simp [Dev.admitJob, h1, h2, h3, h4, h5, hm, hc]

/-- A command that passes its check is running. -/
theorem Dev.admitJob_admits (h : d.takes n j unit = true) (mine : Job → Bool) (check : Dev → Job → Nat) (note : Dev → Job → Nat → Dev)
    (f : Dev → Nat → Job → Dev) (hm : mine j = true) (hc : check (d.unqueue n j) j = Code.ok) :
    d.admitJob n unit mine check note f = f ((d.unqueue n j).setJob n { j with phase := .running }) n j := by
  obtain ⟨h1, h2, h3, h4, h5⟩ := Dev.takes_iff.1 h
  simp [Dev.admitJob, h1, h2, h3, h4, h5, hm, hc]

/-! ## Survey mode -/

/-- Survey fails with the first cause that holds. -/
theorem Dev.surveyEnd_fails (r : Survey) (c : Nat) (h : (d.surveyed r).surveyFail r = some c) :
    d.surveyEnd r = (d.surveyed r).lanesIdle.setIoFld R.loadSurvey 2 0 c := by
  unfold Dev.surveyEnd; rw [h]; rfl

/-- Survey ends in SERVICE without a trigger of R441. -/
theorem Dev.surveyEnd_serves (r : Survey) (h : (d.surveyed r).surveyFail r = none)
    (h' : (d.surveyed r).surveyDone.limpCause = none) :
    d.surveyEnd r = (d.surveyed r).surveyDone.setMode Mode.service := by
  unfold Dev.surveyEnd; rw [h]; unfold Dev.surveyOut; rw [h']; unfold Dev.firstMode; rfl

/-- Survey ends in LIMP with a trigger of R441. -/
theorem Dev.surveyEnd_limps (r : Survey) (c : Nat) (h : (d.surveyed r).surveyFail r = none)
    (h' : (d.surveyed r).surveyDone.limpCause = some c) :
    d.surveyEnd r = ((d.surveyed r).surveyDone.limpRecord c).setMode Mode.limp := by
  unfold Dev.surveyEnd; rw [h]; unfold Dev.surveyOut; rw [h']; unfold Dev.firstMode; rfl

/-- SURVEY_END in Survey mode runs the end of Survey. -/
theorem execSurveyEnd_runs (s : State) (r : Survey) (h1 : s.dev.mode = Mode.survey)
    (h2 : s.dev.ioFld R.loadSurvey 2 0 = 0) (h3 : s.dev.elec.railsOut = []) : execSurveyEnd r s = .next (s.withDev (s.dev.surveyEnd r)) := by
  simp [execSurveyEnd, State.run, h1, h2, h3]

end Sys2Proof.Machine
end

