-- ==== Sys2Proof/Laws/Mem.lean ====
section
/-! SUPPORT. Every write of memory keeps the memories' canonical form, and a byte written reads back. -/

namespace Sys2Proof.Machine

variable (d : Dev)

/-- What the canonical form of the memories says, memory by memory. -/
theorem Dev.memoriesWf_iff : d.memoriesWf = true ↔
    Memory.wf d.dmem.bytes = true ∧ Memory.wf d.cores.sram = true ∧ Memory.wf d.cores.common = true
      ∧ Memory.wf d.cores.loadCopy = true ∧ Memory.wf d.cores.tabA = true ∧ Memory.wf d.cores.tabB = true
      ∧ (∀ e ∈ d.cores.threads, Memory.wf e.2.mem = true) ∧ spSorted d.lard.bytes = true := by
  simp only [Dev.memoriesWf, Bool.and_eq_true, List.all_eq_true, and_assoc]

/-- The memories of the reset state have their canonical form. -/
theorem reset_memoriesWf : State.reset.dev.memoriesWf = true := by decide

/-- A write of one byte keeps the canonical form of a memory. -/
theorem Memory.wf_spSet (m : Map Byte) (k : Nat) (v : Byte) (h : Memory.wf m = true) : Memory.wf (spSet 0 m k v) = true :=
  spWf_spSet 0 m k v h

theorem mem_spSet {V : Type} [DecidableEq V] (x : V) (m : Map V) (k : Nat) (v : V) (e : Nat × V) (h : e ∈ spSet x m k v) :
    e = (k, v) ∨ e ∈ m := by
  simp only [spSet] at h
  split at h
  · exact .inr (mem_spErase m k e h)
  · exact mem_spPut m k v e h

/-- A thread that lists no entry of its own has an empty shelf; any other one is listed. -/
theorem Dev.thr_mem_wf (id : Tid) (h : ∀ e ∈ d.cores.threads, Memory.wf e.2.mem = true) : Memory.wf (d.thr id).mem = true := by
  simp only [Dev.thr]
  generalize tidKey id = k
  generalize d.cores.threads = m at h
  induction m with
  | nil => rfl
  | cons e m ih =>
    simp only [spGet]
    split
    · exact h _ (List.mem_cons_self ..)
    · exact ih (fun x hx => h x (List.mem_cons_of_mem _ hx))

theorem Dev.setThr_memoriesWf (id : Tid) (t : Thread) (h : d.memoriesWf = true) (ht : Memory.wf t.mem = true) :
    (d.setThr id t).memoriesWf = true := by
  rw [Dev.memoriesWf_iff] at h ⊢
  obtain ⟨h1, h2, h3, h4, h5, h6, h7, h8⟩ := h
  refine ⟨h1, h2, h3, h4, h5, h6, ?_, h8⟩
  intro e he
  rcases mem_spSet _ _ _ _ _ he with rfl | he
  · exact ht
  · exact h7 e he

/-- A change of a thread that leaves its shelf keeps the memories' canonical form. -/
theorem Dev.updThr_memoriesWf (id : Tid) (f : Thread → Thread) (hf : ∀ t, (f t).mem = t.mem) (h : d.memoriesWf = true) :
    (d.updThr id f).memoriesWf = true := by
  refine d.setThr_memoriesWf id _ h ?_
  rw [hf]
  exact d.thr_mem_wf id ((Dev.memoriesWf_iff d).1 h).2.2.2.2.2.2.1

/-! ## Local memory -/

theorem Dev.setLocalByte_memoriesWf (id : Tid) (a : Nat) (v : Byte) (h : d.memoriesWf = true) :
    (d.setLocalByte id a v).memoriesWf = true := by
  simp only [Dev.setLocalByte]
  split
  · exact d.setThr_memoriesWf id _ h (Memory.wf_spSet _ _ _ (d.thr_mem_wf id ((Dev.memoriesWf_iff d).1 h).2.2.2.2.2.2.1))
  · rw [Dev.memoriesWf_iff] at h ⊢
    obtain ⟨h1, h2, h3, h4⟩ := h
    exact ⟨h1, h2, Memory.wf_spSet _ _ _ h3, h4⟩

theorem Dev.setLocalBytes_memoriesWf (id : Tid) (bs : Bytes) : ∀ (d : Dev) (a : Nat), d.memoriesWf = true →
    (d.setLocalBytes id a bs).memoriesWf = true := by
  induction bs with
  | nil => intro d a h; exact h
  | cons v bs ih => intro d a h; exact ih _ _ (d.setLocalByte_memoriesWf id a v h)

/-- A byte of local memory reads what was written to it. -/
theorem Dev.localByte_setLocalByte (id : Tid) (a : Nat) (v : Byte) : (d.setLocalByte id a v).localByte id a = v := by
  simp only [Dev.setLocalByte, Dev.localByte]
  split
  · simp [Dev.updThr, Dev.thr, Dev.setThr, Dev.onCores]
  · simp [Dev.onCores]

/-- A write of one byte of local memory leaves every other byte of it below the common memory. -/
theorem Dev.localByte_setLocalByte_ne (id : Tid) (a x : Nat) (v : Byte) (hx : x ≠ a) (ha : a < 0x10000) :
    (d.setLocalByte id a v).localByte id x = d.localByte id x := by
  simp only [Dev.setLocalByte, Dev.localByte, ha, if_true]
  split
  · simp only [Dev.updThr, Dev.thr, Dev.setThr, Dev.onCores, spGet_spSet_same]
    rw [spGet_spSet_ne _ _ _ _ _ hx]
  · rfl

/-! ## Table SRAM and DRAM -/

theorem Dev.setMemByte_memoriesWf (dram : Bool) (a : Nat) (v : Byte) (h : d.memoriesWf = true) :
    (d.setMemByte dram a v).memoriesWf = true := by
  simp only [Dev.setMemByte]
  split
  · split
    · exact h
    · rw [Dev.memoriesWf_iff] at h ⊢
      exact ⟨Memory.wf_spSet _ _ _ h.1, h.2⟩
  · rw [Dev.memoriesWf_iff] at h ⊢
    exact ⟨h.1, Memory.wf_spSet _ _ _ h.2.1, h.2.2⟩

theorem Dev.setMemBytes_memoriesWf (dram : Bool) (bs : Bytes) : ∀ (d : Dev) (a : Nat), d.memoriesWf = true →
    (d.setMemBytes dram a bs).memoriesWf = true := by
  induction bs with
  | nil => intro d a h; exact h
  | cons v bs ih => intro d a h; exact ih _ _ (d.setMemByte_memoriesWf dram a v h)

/-- A byte of table SRAM reads what was written to it. -/
theorem Dev.memByte_setMemByte_sram (a : Nat) (v : Byte) : (d.setMemByte false a v).memByte false a = v := by
  simp [Dev.setMemByte, Dev.memByte, Dev.onCores]

/-- A byte of DRAM on a channel that has not failed reads what was written to it. -/
theorem Dev.memByte_setMemByte_dram (a : Nat) (v : Byte) (h : d.dramFailed a = false) :
    (d.setMemByte true a v).memByte true a = v := by
  simp [Dev.setMemByte, Dev.memByte, Dev.onDmem, h]

/-- A write of one byte leaves every other byte. -/
theorem Dev.memByte_setMemByte_ne (dram k : Bool) (a x : Nat) (v : Byte) (hx : x ≠ a ∨ k ≠ dram) :
    (d.setMemByte dram a v).memByte k x = d.memByte k x := by
  cases dram <;> cases k <;> simp only [Dev.setMemByte, Dev.memByte, if_true, Bool.false_eq_true, if_false]
  · rw [Dev.onCores_cores, spGet_spSet_ne _ _ _ _ _ (by simpa using hx)]
  · rfl
  · split <;> rfl
  · split
    · rfl
    · rw [Dev.onDmem_dmem, spGet_spSet_ne _ _ _ _ _ (by simpa using hx)]

/-- A write of bytes to table SRAM leaves every byte outside them. -/
theorem Dev.memByte_setMemBytes_ne (bs : Bytes) : ∀ (d : Dev) (a x : Nat), x < a ∨ a + bs.length ≤ x →
    (d.setMemBytes false a bs).memByte false x = d.memByte false x := by
  induction bs with
  | nil => intro d a x _; rfl
  | cons v bs ih =>
    intro d a x hx
    simp only [List.length_cons] at hx
    rw [Dev.setMemBytes, ih _ _ _ (by omega), Dev.memByte_setMemByte_ne _ _ _ _ _ _ (.inl (by omega))]

/-- Table SRAM reads back the bytes written to it. -/
theorem Dev.memBytes_setMemBytes_sram (bs : Bytes) : ∀ (d : Dev) (a : Nat),
    (d.setMemBytes false a bs).memBytes false a bs.length = bs := by
  induction bs with
  | nil => intro d a; rfl
  | cons v bs ih =>
    intro d a
    have h := ih (d.setMemByte false a v) (a + 1)
    simp only [Dev.memBytes] at h
    rw [Dev.memBytes, List.length_cons, List.range_succ_eq_map, List.map_cons, List.map_map, Dev.setMemBytes]
    refine List.cons_eq_cons.mpr ⟨?_, Eq.trans (List.map_congr_left (fun i _ => ?_)) h⟩
    · rw [Dev.memByte_setMemBytes_ne _ _ _ _ (.inl (by omega))]
      exact Dev.memByte_setMemByte_sram _ _ _
    · simp only [Function.comp, Nat.succ_eq_add_one]
      rw [show a + (i + 1) = a + 1 + i by omega]

theorem Dev.clearPoison_memoriesWf (dram : Bool) (a n : Nat) (h : d.memoriesWf = true) :
    (d.clearPoison dram a n).memoriesWf = true := by
  simp only [Dev.clearPoison]
  generalize (List.range ((n + 63) / 64 + 1)).map (fun i => (a + 63) / 64 + i) = ls
  induction ls generalizing d with
  | nil => exact h
  | cons l ls ih =>
    refine ih _ ?_
    simp only
    split
    · split <;> exact h
    · exact h

/-- A write of a block keeps the memories' canonical form. -/
theorem Dev.writeMem_memoriesWf (dram : Bool) (a : Nat) (bs : Bytes) (h : d.memoriesWf = true) :
    (d.writeMem dram a bs).memoriesWf = true :=
  Dev.clearPoison_memoriesWf _ _ _ _ (Dev.setMemBytes_memoriesWf dram bs d a h)

/-- A write of a master keeps it as well, refused or not. -/
theorem Dev.masterMem_memoriesWf (dram : Bool) (a : Nat) (bs : Bytes) (h : d.memoriesWf = true) :
    (d.masterMem dram a bs).memoriesWf = true := by
  unfold Dev.masterMem
  split
  · exact h
  · exact d.writeMem_memoriesWf _ _ _ h

theorem Dev.setEntBytes_memoriesWf (gen id idx off : Nat) (bs : Bytes) (h : d.memoriesWf = true) :
    (d.setEntBytes gen id idx off bs).memoriesWf = true := d.masterMem_memoriesWf _ _ _ h

/-! ## Cells -/

theorem Lard.writeData_sorted (cells : List Nat) (bs : Bytes) : ∀ (l : Lard) (off : Nat), spSorted l.bytes = true →
    spSorted (l.writeData cells off bs).bytes = true := by
  induction bs with
  | nil => intro l off h; exact h
  | cons v bs ih =>
    intro l off h
    simp only [Lard.writeData]
    split
    · exact ih _ _ (spSorted_spPut _ _ _ h)
    · exact h

/-- A write to an evaluated operand keeps the memories' canonical form. -/
theorem Dev.writeLoc_memoriesWf (id : Tid) (gen n v : Nat) (l : Loc) (h : d.memoriesWf = true) :
    (d.writeLoc id gen n v l).memoriesWf = true := by
  cases l with
  | imm x => exact h
  | clock x => exact h
  | mem a => exact Dev.setLocalBytes_memoriesWf id _ d a h
  | window hd len off =>
    simp only [Dev.writeLoc]
    split
    · exact h
    · rw [Dev.memoriesWf_iff] at h ⊢
      obtain ⟨h1, h2, h3, h4, h5, h6, h7, h8⟩ := h
      exact ⟨h1, h2, h3, h4, h5, h6, h7, Lard.writeData_sorted _ _ _ _ h8⟩
  | table t idx off => exact d.setEntBytes_memoriesWf _ _ _ _ _ h

end Sys2Proof.Machine
end

