-- ==== Sys2Proof/WellFormed.lean ====
section
/-! DEFINITION. Which commands are well formed: every operand names something the device has. `Machine.exec` is total on
ill-formed commands too; a command that names nothing changes nothing. -/

namespace Sys2Proof

/-- A master with registers: the head keeper, the host and the peer (R54, R521). -/
def mOk (m : Nat) : Bool := 2 ≤ m && m ≤ 4

/-- A thread that exists (R170). -/
def Tid.wf (id : Tid) : Bool := id.g < 16 && id.c < 9 && id.t < 8

/-- A requester that exists. -/
def Who.wf : Who → Bool
  | .thread id => id.wf
  | .master m => mOk m

/-- A source that exists; helper commands are numbered without end. -/
def Src.wf : Src → Bool
  | .job _ => true
  | .master m => m = 1 || mOk m

/-- A commit group that exists (R35). -/
def groupOk (g : Nat) : Bool := g < 26 && g ≠ 1 && g ≠ 2

/-- Every operand of the command lies in its range. -/
def Instr.wf : Instr → Bool
  | .dripBoundary => true
  | .csrWrite m addr val be => (m = 2 || m = 3) && addr % 4 = 0 && (addr < 2 ^ 28 || (m = 3 && addr < 2 ^ 28 + 2 ^ 16)) && val < 2 ^ 32 && be < 16
  | .counterReadClear m addr => mOk m && addr % 4 = 0 && addr < 2 ^ 28
  | .dripNowRead m => mOk m
  | .strgTimeRead m => mOk m
  | .commitSlotClaim m slot reg val => mOk m && slot < 16 && reg < 3 && val < 2 ^ 32
  | .commitArm m slot => mOk m && slot < 16
  | .commitSlotRelease m slot => mOk m && slot < 16
  | .commitSeal slot => slot < 16
  | .commitFlip slot => slot < 16
  | .commitWaitFlip slot => slot < 16
  | .commitWaitTimeout slot => slot < 16
  | .commitWaitReport slot => slot < 17
  | .bankCatchup group => groupOk group
  | .bankStaged group => groupOk group
  | .viewRequest m buf delay => mOk m && buf < 4 && delay < 256
  | .viewRelease m buf => mOk m && buf < 4
  | .viewCapture buf => buf < 4
  | .frameReceive mac _ => mac < 64
  | .pfcXoffRepeat pool => pool < 32
  | .pfcFrameReceive mac enables times => mac < 64 && enables < 256 && times.length = 8
  | .pfcPauseExpire mac prio => mac < 64 && prio < 8
  | .packetAdmit pipe => pipe < 2
  | .fragEntryExpire set way => set < 1024 && way < 4
  | .sessionCacheFill _ => true
  | .delayedAck _ => true
  | .recircAdmit pipe => pipe < 2
  | .sessionIdRecycle _ => true
  | .retransmissionTimeout _ => true
  | .sessKeepalive _ => true
  | .larderAlloc who => who.wf
  | .larderFree who => who.wf
  | .larderTransfer who => who.wf
  | .larderJoin who => who.wf
  | .larderRelease who => who.wf
  | .larderReclaim who => who.wf
  | .cellScrubDone cell => cell < 786432
  | .holeSkip domain => domain < 65536
  | .egressServe mac => mac < 65
  | .egressHeaderRetry mac => mac < 65
  | .egressWaitExpire mac => mac < 65
  | .clasRowWrite m row => mOk m && row < 2 ^ 15
  | .clasRowReadStaged m row => mOk m && row < 2 ^ 15
  | .clasRowReadLive m row => mOk m && row < 2 ^ 15
  | .linkUp mac _ _ => mac < 64
  | .linkDown mac _ => mac < 64
  | .sessOpen who => who.wf
  | .sessInstallKeys who => who.wf
  | .sessKeyUpdate who => who.wf
  | .sessClose who => who.wf
  | .sessAbort who => who.wf
  | .sweepStart => true
  | .fwdtLock m => mOk m
  | .fwdtUnlock m => mOk m
  | .fwdtRead m => mOk m
  | .fwdtReadDone m => mOk m
  | .fwdtWrite m => mOk m
  | .fwdtWriteApply m => mOk m
  | .lockHoldReport _ => true
  | .mov id => id.wf
  | .xchg id => id.wf
  | .bswap id => id.wf
  | .lea id => id.wf
  | .bin2bcd id => id.wf
  | .bcd2bin id => id.wf
  | .add id => id.wf
  | .adc id => id.wf
  | .sub id => id.wf
  | .sbb id => id.wf
  | .neg id => id.wf
  | .inc id => id.wf
  | .dec id => id.wf
  | .cmp id => id.wf
  | .mulu id => id.wf
  | .muls id => id.wf
  | .mulhu id => id.wf
  | .mulhs id => id.wf
  | .divu id => id.wf
  | .divs id => id.wf
  | .remu id => id.wf
  | .rems id => id.wf
  | .minu id => id.wf
  | .maxu id => id.wf
  | .mins id => id.wf
  | .maxs id => id.wf
  | .and id => id.wf
  | .or id => id.wf
  | .xor id => id.wf
  | .andn id => id.wf
  | .not id => id.wf
  | .tst id => id.wf
  | .shl id => id.wf
  | .shr id => id.wf
  | .sar id => id.wf
  | .rol id => id.wf
  | .ror id => id.wf
  | .ext id => id.wf
  | .ins id => id.wf
  | .popc id => id.wf
  | .clz id => id.wf
  | .ctz id => id.wf
  | .btst id => id.wf
  | .bset id => id.wf
  | .bclr id => id.wf
  | .beq id => id.wf
  | .bne id => id.wf
  | .bltu id => id.wf
  | .bgeu id => id.wf
  | .bgtu id => id.wf
  | .bleu id => id.wf
  | .blt id => id.wf
  | .bge id => id.wf
  | .bgt id => id.wf
  | .ble id => id.wf
  | .bmi id => id.wf
  | .bpl id => id.wf
  | .bvs id => id.wf
  | .bvc id => id.wf
  | .bok id => id.wf
  | .bnok id => id.wf
  | .jmp id => id.wf
  | .call id => id.wf
  | .ret id => id.wf
  | .dbnz id => id.wf
  | .bw id => id.wf
  | .bnw id => id.wf
  | .tend id => id.wf
  | .wfe id => id.wf
  | .sev id => id.wf
  | .gallSevWrite m gallery val => mOk m && gallery < 16 && val < 2 ^ 32
  | .waittD id => id.wf
  | .waittC id => id.wf
  | .waittDeadline id => id.wf
  | .evtake id => id.wf
  | .chsend id => id.wf
  | .chsendt id => id.wf
  | .chrecv id => id.wf
  | .chrecvt id => id.wf
  | .movsRead id => id.wf
  | .movsWrite id => id.wf
  | .nop id => id.wf
  | .fence id => id.wf
  | .yield id => id.wf
  | .repIteration id => id.wf
  | .macroInstruction id => id.wf
  | .microStep id => id.wf
  | .hcmd id => id.wf
  | .hcmdAccept id => id.wf
  | .hcmdRetryLimit id => id.wf
  | .hwait id => id.wf
  | .hsave id => id.wf
  | .hrestore id => id.wf
  | .helperCompletion _ => true
  | .thrKill who gallery val => who.wf && gallery < 16 && val < 2 ^ 32
  | .thrUnpark who gallery val => who.wf && gallery < 16 && val < 2 ^ 32
  | .stillnessDetect gallery domain => gallery < 16 && domain ≤ 8
  | .issueWatchdog gallery core => gallery < 16 && core < 9
  | .coreRetireRequest m gallery core => mOk m && gallery < 16 && core < 16
  | .coreRetire gallery core => gallery < 16 && core < 9
  | .spareStart gallery core => gallery < 16 && core < 9
  | .latchAcquire id => id.wf
  | .latchTry id => id.wf
  | .latchRelease id => id.wf
  | .latchForce id => id.wf
  | .latchWaitTimeout who => who.wf
  | .latchHoldWatchdog latch => latch < 4096
  | .hostLatchAcquire m => mOk m
  | .hostLatchTry m => mOk m
  | .hostLatchRelease m => mOk m
  | .hostLatchForce m => mOk m
  | .fAdd _ => true
  | .fAnd _ => true
  | .fOr _ => true
  | .fXor _ => true
  | .cas _ => true
  | .binc _ => true
  | .dispDispatch gallery => gallery < 16
  | .holdPlace pipe => pipe < 2
  | .exceptionDeliver gallery => gallery < 16
  | .dispRequeue _ => true
  | .dispSubmit _ => true
  | .sealSign _ => true
  | .sealVerify _ => true
  | .kexGen _ => true
  | .kexDerive _ => true
  | .kexRespond _ => true
  | .sealGenerate _ => true
  | .keyImport _ => true
  | .sealUnwrap _ => true
  | .sealDispatch eng => eng < 104
  | .sealJobComplete eng _ => eng < 104
  | .sealJobTimeout eng => eng < 104
  | .sealKat eng _ => eng < 104
  | .sealSpareActive eng => eng < 104
  | .sealEngRetireRequest m eng => mOk m && eng < 128
  | .slotSuspend m slot => mOk m && slot < 2 ^ 16
  | .slotResume m slot => mOk m && slot < 2 ^ 16
  | .slotDestroy m slot => mOk m && slot < 2 ^ 16
  | .hashDigest _ => true
  | .hashStart _ => true
  | .hashUpdate _ => true
  | .hashFinish _ => true
  | .hashEngineFence eng => eng < 32
  | .fmtTranslate _ => true
  | .fmtValidate _ => true
  | .formatDispatch eng => eng < 18
  | .formatJobComplete eng _ => eng < 18
  | .formatJobTimeout eng => eng < 18
  | .formatKat eng _ => eng < 18
  | .formatSpareActive eng => eng < 18
  | .fmteEngRetireRequest m eng => mOk m && eng < 32
  | .searchT src => src.wf
  | .searchW src => src.wf
  | .lodeWrite src => src.wf
  | .lodeInvalidate src => src.wf
  | .lodeRead src => src.wf
  | .lodeSlot => true
  | .lodeWTimeout src => src.wf
  | .lodeScrub row outcome => row < 2 ^ 18 && outcome < 3
  | .srTally src => src.wf
  | .srStamp src => src.wf
  | .srTodSet src => src.wf
  | .srCalSet src => src.wf
  | .srCommandTimeout src => src.wf
  | .ppsEdge _ _ _ => true
  | .referenceLoss cause => cause < 4
  | .referenceValid => true
  | .ppsOutPulse => true
  | .romRehash _ => true
  | .sealBreak cause => 1 ≤ cause && cause ≤ 6
  | .bookAppend _ => true
  | .pageEnd => true
  | .sealBlockWritten => true
  | .exportPage => true
  | .bookAckWrite m val => mOk m && val < 2 ^ 32
  | .exportResend => true
  | .inspectionRead _ _ => true
  | .inspectionBadCommand cmd _ => cmd < 256 && cmd ≠ 0x0B
  | .srPowerUp _ found => found < 8
  | .srPowerLoss => true
  | .dqsOscMeasure ch lane _ => ch < 8 && lane < 40
  | .dramCommandIssue ch sb _ _ => ch < 8 && sb < 2
  | .dramRefresh ch rank => ch < 8 && rank < 2
  | .dramReadComplete _ _ _ => true
  | .dramScrubRead ch _ => ch < 8
  | .selfRefreshEnter ch => ch < 8
  | .selfRefreshWake ch => ch < 8
  | .channelFail ch cause => ch < 8 && 8 ≤ cause && cause ≤ 11
  | .arbiterGrant arb clocks _ pending _ _ _ => arb ≤ 32 && pending.all (· < 32) && clocks.length = pending.length
  | .arbsQry m val => mOk m && val < 2 ^ 32
  | .arbsQryClear m val => mOk m && val < 2 ^ 32
  | .resetAssert => true
  | .resetRelease => true
  | .imageLoadAttempt src _ _ _ _ _ => 1 ≤ src && src ≤ 2
  | .hostImageGo m => mOk m
  | .hostEnrol m => mOk m
  | .surveyEnd _ => true
  | .loadCtlCold m key => mOk m && key < 2 ^ 16
  | .loadCtlLimp m key => mOk m && key < 2 ^ 16
  | .handoverGo m => mOk m
  | .handoverCancel m => mOk m
  | .handoverVerifyDone _ => true
  | .handoverSeal => true
  | .handoverWriteDone _ => true
  | .handoverFlip => true
  | .handoverDrainDone => true
  | .handoverWaitTimeout => true
  | .handoverRestoreDone => true
  | .hostVerSelect m val => mOk m && val < 2 ^ 32
  | .mboxDownSend m => mOk m
  | .mboxUpPop m => mOk m
  | .msixDeferredSignal vec => vec < 128
  | .hostExpAck m val => mOk m && val < 2 ^ 32
  | .pcieFlr fn => fn < 2
  | .pePerst _ => true
  | .ropeLinkUp _ _ => true
  | .ropeLinkDown _ => true
  | .helloSend => true
  | .helloReceive payload => payload.length = 64
  | .ropeNegotiate => true
  | .helloTimeout => true
  | .ropeDataReceive head _ _ => (head.type = 1 || 8 ≤ head.type) && head.type < 256
  | .ropeReqRead m => mOk m
  | .ropeReqWrite m => mOk m
  | .ropeReqReceive _ peer _ off data => peer < 8 && off < 2 ^ 28 && data.value < 2 ^ 32 && data.be < 16
  | .ropeCplReceive _ _ _ _ _ => true
  | .ropeReqTimeout m => mOk m
  | .ropeNotifyReceive _ kind i => kind < 2 && i < 16
  | .ropeDmaReceive _ kind _ _ _ _ => kind < 4
  | .ropeMboxSend => true
  | .ropeMboxReceive _ serial data => serial < 2 ^ 32 && data.length = 64
  | .ropeMirrorReceive _ kind _ => kind < 2
  | .memoryError _ _ _ _ => true
  | .memoryScrub _ _ => true
  | .spareBist unit _ _ => unit < 3
  | .coreBist gallery core _ => gallery < 16 && core < 9
  | .laneFence lane fault => lane < 20 && 1 ≤ fault && fault ≤ 3
  | .rxPolarityTry lane => lane < 20
  | .txPolarityInvert lane => lane < 20
  | .gpioShort pin => pin < 18
  | .gpioFaultClear m val => mOk m && val < 2 ^ 32
  | .xtempFault x fault => x < 2 && (fault = 1 || fault = 2)
  | .sensorSample temps _ => temps.length = 42
  | .thermalLevelDrop => true
  | .eyeMarginCheck lane _ => lane < 20
  | .railRamp rail _ => rail < 8
  | .railMonitorTrip rail => rail < 8
  | .jtagExtest => true
  | .jtagSamplePreload => true
  | .jtagIdcode => true
  | .jtagClamp => true
  | .jtagHighz => true
  | .jtagExtestPulse => true
  | .jtagExtestTrain => true
  | .jtagBypass code => 7 ≤ code && code < 16
  | .jtagTestLogicReset => true
  | .dbgHalt m => mOk m
  | .dbgResume m => mOk m
  | .dbgStep m => mOk m
  | .hostReadCompletion _ outcome _ => outcome < 4
  | .hostReadTimeout _ => true

end Sys2Proof
end

