-- ==== Sys2Proof/Tests/Slice0.lean ====
section
/-! SUPPORT. The model's own tests: an ill-formed command for each check of `Instr.wf`, instructions written out byte by byte from
chapter 08, worked examples of the spec, and for every statement with hypotheses a state and operands that meet them together, clause by clause. -/

namespace Sys2Proof.Tests

open Sys2Proof.Machine

set_option Elab.async false

/-! ## Small states -/

/-- A state of one device, with no command waiting. -/
abbrev st (d : Dev) : State := { State.reset with dev := d }

/-- The device in Service mode, at drip 0. -/
def srv : Dev := Dev.reset.setIoFld R.loadStat 2 0 3

/-- The same at drip `n`. -/
def srvAt (n : Nat) : Dev := srv.onDrip (fun p => { p with now := n })

/-- The device of another mode. -/
def inMode (m : Nat) : Dev := Dev.reset.setIoFld R.loadStat 2 0 m

/-- `val` in both banks of a staged register. -/
def withReg (d : Dev) (o val : Nat) : Dev := d.onCsr (fun c =>
  { c with bankA := spSet (resetWord o) c.bankA o (w32 val), bankB := spSet (resetWord o) c.bankB o (w32 val) })

/-- Bytes from address 0 on. -/
def bytesAt0 (bs : List Nat) : Map Byte :=
  (List.range bs.length).foldl (fun m i => spSet 0 m i (BitVec.ofNat 8 (bs.getD i 0))) []

/-- A thread that is no keeper, and the keeper of gallery 0. -/
def u : Tid := ⟨0, 0, 1⟩
def k : Tid := ⟨0, 0, 0⟩

/-- In Service mode thread `id` stands at code-store byte 0, where `bs` lies. -/
def onThr (d : Dev) (id : Tid) (bs : List Nat) (t : Thread) : Dev :=
  (d.onCores (fun c => { c with tabA := bytesAt0 bs })).setThr id { t with state := .ready }

/-- The thread issues an instruction whose operands evaluate without a fault, and `p` holds of these. -/
def meets (d : Dev) (id : Tid) (p : Dec → Dev → List Ev1 → Map Word → Bool) : Bool :=
  match d.decodeAt id with
  | .ok i => d.serving && (d.thr id).state = .ready && (d.thr id).macroRun.isNone && i.rep.isNone
      && (let e := d.atIssue id i
          match e.operandsOf id i.op [] i.ops with
          | .ok (evs, b) => p i (e.leaPass i.op i.ops) evs b
          | .error _ => false)
  | .error _ => false

/-- What `meets` says, in the statements' own words. -/
theorem meets_issuesOn (d : Dev) (id : Tid) (p : Dec → Dev → List Ev1 → Map Word → Bool) (h : meets d id p = true) :
    ∃ i e evs b, d.issuesOn id i e evs b ∧ p i e evs b = true := by
  unfold meets at h
  split at h
  · next i hi =>
    simp only [Bool.and_eq_true, decide_eq_true_eq] at h
    obtain ⟨⟨⟨⟨h1, h2⟩, h3⟩, h4⟩, h5⟩ := h
    split at h5
    · next evs b he =>
      refine ⟨i, _, evs, b, ⟨⟨h1, h2, ?_, hi, ?_⟩, rfl, he⟩, h5⟩
      · exact Option.isNone_iff_eq_none.mp h3
      · exact Option.isNone_iff_eq_none.mp h4
    · cases h5
  · cases h

/-! ## Well-formed commands -/

/-- A sound command of each kind of check, and one for which just that check fails. -/
theorem test_wf_who : (Instr.dripNowRead 4).wf = true ∧ (Instr.dripNowRead 5).wf = false ∧ (Instr.dripNowRead 1).wf = false
    ∧ (Instr.mov ⟨15, 8, 7⟩).wf = true ∧ (Instr.mov ⟨16, 8, 7⟩).wf = false ∧ (Instr.mov ⟨15, 9, 7⟩).wf = false
    ∧ (Instr.mov ⟨15, 8, 8⟩).wf = false ∧ (Instr.larderAlloc (.thread ⟨0, 0, 8⟩)).wf = false
    ∧ (Instr.larderAlloc (.master 0)).wf = false ∧ (Instr.srTally (.master 1)).wf = true
    ∧ (Instr.srTally (.master 0)).wf = false ∧ (Instr.srTally (.job 0)).wf = true := by decide

theorem test_wf_registers : (Instr.csrWrite 3 4 0 15).wf = true ∧ (Instr.csrWrite 3 2 0 15).wf = false
    ∧ (Instr.csrWrite 2 (2 ^ 28) 0 15).wf = false ∧ (Instr.csrWrite 3 4 (2 ^ 32) 15).wf = false
    ∧ (Instr.csrWrite 3 4 0 16).wf = false ∧ (Instr.counterReadClear 3 1).wf = false
    ∧ (Instr.commitSlotClaim 3 16 0 0).wf = false ∧ (Instr.commitSlotClaim 3 15 3 0).wf = false
    ∧ (Instr.commitArm 3 16).wf = false ∧ (Instr.bankCatchup 1).wf = false ∧ (Instr.bankCatchup 26).wf = false
    ∧ (Instr.viewRequest 3 4 0).wf = false ∧ (Instr.viewRequest 3 3 256).wf = false ∧ (Instr.viewCapture 4).wf = false
    ∧ (Instr.clasRowWrite 3 (2 ^ 15)).wf = false := by decide

theorem test_wf_packets : (Instr.frameReceive 64 []).wf = false ∧ (Instr.pfcXoffRepeat 32).wf = false
    ∧ (Instr.pfcFrameReceive 0 256 (List.replicate 8 0)).wf = false ∧ (Instr.pfcFrameReceive 0 0 []).wf = false
    ∧ (Instr.pfcPauseExpire 0 8).wf = false ∧ (Instr.packetAdmit 2).wf = false ∧ (Instr.fragEntryExpire 1024 0).wf = false
    ∧ (Instr.fragEntryExpire 0 4).wf = false ∧ (Instr.cellScrubDone 786432).wf = false ∧ (Instr.holeSkip 65536).wf = false
    ∧ (Instr.egressServe 64).wf = true ∧ (Instr.egressServe 65).wf = false ∧ (Instr.linkUp 64 [] true).wf = false := by decide

theorem test_wf_units : (Instr.gallSevWrite 3 16 0).wf = false ∧ (Instr.stillnessDetect 0 9).wf = false
    ∧ (Instr.stillnessDetect 0 8).wf = true ∧ (Instr.issueWatchdog 0 9).wf = false ∧ (Instr.coreRetireRequest 3 0 16).wf = false
    ∧ (Instr.latchHoldWatchdog 4096).wf = false ∧ (Instr.dispDispatch 16).wf = false ∧ (Instr.holdPlace 2).wf = false
    ∧ (Instr.sealDispatch 104).wf = false ∧ (Instr.sealEngRetireRequest 3 128).wf = false
    ∧ (Instr.slotSuspend 3 (2 ^ 16)).wf = false ∧ (Instr.hashEngineFence 32).wf = false ∧ (Instr.formatDispatch 18).wf = false
    ∧ (Instr.fmteEngRetireRequest 3 32).wf = false ∧ (Instr.lodeScrub (2 ^ 18) 0).wf = false ∧ (Instr.lodeScrub 0 3).wf = false
    ∧ (Instr.referenceLoss 4).wf = false ∧ (Instr.sealBreak 0).wf = false ∧ (Instr.sealBreak 7).wf = false
    ∧ (Instr.inspectionBadCommand 0x0B 0).wf = false ∧ (Instr.inspectionBadCommand 256 0).wf = false
    ∧ (Instr.srPowerUp true 8).wf = false := by decide

theorem test_wf_memory_and_power : (Instr.dqsOscMeasure 8 0 0).wf = false ∧ (Instr.dqsOscMeasure 0 40 0).wf = false
    ∧ (Instr.dramCommandIssue 0 2 0 0).wf = false ∧ (Instr.dramRefresh 0 2).wf = false ∧ (Instr.channelFail 0 7).wf = false
    ∧ (Instr.channelFail 0 12).wf = false ∧ (Instr.arbiterGrant 33 [] 0 [] false 0 0).wf = false
    ∧ (Instr.arbiterGrant 0 [0] 0 [32] false 0 0).wf = false ∧ (Instr.arbiterGrant 0 [] 0 [1] false 0 0).wf = false
    ∧ (Instr.imageLoadAttempt 0 0 true [] 0 none).wf = false
    ∧ (Instr.imageLoadAttempt 3 0 true [] 0 none).wf = false ∧ (Instr.loadCtlCold 3 (2 ^ 16)).wf = false
    ∧ (Instr.msixDeferredSignal 128).wf = false ∧ (Instr.pcieFlr 2).wf = false ∧ (Instr.helloReceive []).wf = false
    ∧ (Instr.ropeReqReceive 1 8 true 0 ⟨0, 15⟩).wf = false ∧ (Instr.ropeNotifyReceive 1 2 0).wf = false
    ∧ (Instr.ropeNotifyReceive 1 0 16).wf = false ∧ (Instr.ropeDmaReceive 2 4 0 0 0 []).wf = false
    ∧ (Instr.ropeMboxReceive 1 0 []).wf = false ∧ (Instr.ropeMirrorReceive 2 2 []).wf = false ∧ (Instr.spareBist 3 0 true).wf = false
    ∧ (Instr.laneFence 20 1).wf = false ∧ (Instr.laneFence 0 0).wf = false ∧ (Instr.laneFence 0 4).wf = false
    ∧ (Instr.gpioShort 18).wf = false ∧ (Instr.xtempFault 2 2).wf = false ∧ (Instr.xtempFault 1 3).wf = false
    ∧ (Instr.sensorSample [] 0).wf = false ∧ (Instr.railRamp 8 true).wf = false ∧ (Instr.jtagBypass 6).wf = false
    ∧ (Instr.jtagBypass 16).wf = false ∧ (Instr.hostReadCompletion 0 4 []).wf = false := by decide

/-! ## The machine as a whole -/

theorem wit_FrontCommandRuns : ({ State.reset with pending := [.dripBoundary] } : State).pending = .dripBoundary :: []
    ∧ State.reset.pending = [] := by decide

theorem wit_StepKeepsViewsOk : ∃ t, ({ st srv with pending := [.viewCapture 3] } : State).viewsOk = true
    ∧ step { st srv with pending := [.viewCapture 3] } = .next t := ⟨st srv, by decide, rfl⟩

theorem wit_OnlyCaptureChangesView : ∃ t, Instr.resetAssert ≠ .viewCapture 3 ∧ exec .resetAssert (st srv) = .next t :=
  ⟨_, by decide, rfl⟩

/-! ## Registers -/

/-- A register that the host owns, of block 2 (RW), of block 17 (ST). -/
def owned : Dev := (srv.setIo (R.dripOwn + 8) 8).setIo (R.dripOwn + 68) 8

/-- The first premises of CsrWrites, and what a register with a writable field needs besides. -/
def atReg (d : Dev) (m addr val : Nat) (p : Bool) : Bool :=
  writer m && addr % 4 == 0 && decide (addr < 0x8000000) && decide (val < 2 ^ 32) && !d.noPath m
    && d.actionLow m addr val == none && d.actionHigh m addr val == none && p

def ordinary (d : Dev) (m addr val : Nat) (p : RegDef → Bool) : Bool :=
  match regAt addr with
  | some r => atReg d m addr val (d.blockOpen addr && r.maskOf writable != 0 && d.mayWrite r m addr && !d.hostHidden addr && p r)
  | none => false

def mRw (a : Access) : Bool := a == .rw || a == .wo

theorem wit_CsrWrites_rw : ordinary owned 3 R.loadLimpBay 5 (fun r => w32 5 &&& ~~~(r.maskOf writable) == 0 && !r.perMaster
    && r.maskOf mRw != 0 && decide (R.loadLimpBay ≠ R.hostExpStat)) = true := by decide

theorem wit_CsrWrites_st : ordinary owned 3 R.bookCfg 1 (fun r => w32 1 &&& ~~~(r.maskOf writable) == 0 && !r.perMaster
    && r.maskOf mRw == 0 && r.maskOf (fun a => a == .st) != 0) = true := by decide

theorem wit_CsrWrites_w1c : ordinary owned 3 R.hostCdone 1 (fun r => w32 1 &&& ~~~(r.maskOf writable) == 0 && !r.perMaster
    && r.maskOf (fun a => a == .w1c) != 0) = true := by decide

theorem wit_CsrWrites_perMaster : ordinary owned 3 R.clasRowBuf 1 (fun r => w32 1 &&& ~~~(r.maskOf writable) == 0
    && r.perMaster && r.maskOf mRw != 0) = true := by decide

theorem wit_CsrWrites_reserved : (14 : Nat) % 16 ≠ 15 ∧ writer 3 = true ∧ owned.noPath 3 = false
    ∧ ordinary owned 3 R.loadLimpBay (2 ^ 31) (fun r => w32 (2 ^ 31) &&& ~~~(r.maskOf writable) != 0) = true := by decide

/-- A closed block, a hole in an open one, a register that is only read, one of a block that the host does not own. -/
theorem wit_CsrWrites_refused : atReg (inMode 1) 3 R.bookCfg 1 (!(inMode 1).blockOpen R.bookCfg) = true
    ∧ atReg srv 3 0x1000FFC 1 (srv.blockOpen 0x1000FFC && (regAt 0x1000FFC).isNone) = true
    ∧ (match regAt R.portCnt with
       | some r => atReg srv 3 R.portCnt 0 (srv.blockOpen R.portCnt && r.maskOf writable == 0 && decide (r.base ≠ R.parsPRsvd))
       | none => false) = true
    ∧ (match regAt R.bookCfg with
       | some r => atReg owned 2 R.bookCfg 1 (owned.blockOpen R.bookCfg && r.maskOf writable != 0 && !owned.mayWrite r 2 R.bookCfg)
           && (groupOf R.bookCfg).getD 0 != 2 && r.ownedFrom.isNone && r.masters.isEmpty && !r.perMaster
           && r.maskOf Machine.owned != 0
       | none => false) = true := by decide

theorem wit_LatchingReads : reader 4 = true ∧ srv.noPath 4 = false ∧ srv.serving = true
    ∧ (match regAt R.portCnt with
       | some r => r.maskOf (fun a => a == .rc) != 0 && R.portCnt % 4 == 0 && decide (R.portCnt < 0xF000000)
          && decide (R.portCnt ∉ [R.ltchHostAcq, R.ltchHostTry, R.hlthGpioIn, R.dripNowLo]) && srv.blockOpen R.portCnt
          && !srv.hostHidden R.portCnt
       | none => false) = true := by decide

/-! ## Commits, banks and views -/

/-- DRIP owned by the host, slot 15 of the host in the given state, at drip 9. -/
def dripHost (d : Dev) : Dev := d.setIo (R.dripOwn + 4) 8
def withSlot (x : SlotState) : Dev := (dripHost (srvAt 9)).setSlot 15 { Slot.init with state := x, holder := 3, target := 9 }

theorem wit_CommitSlotWrites : (dripHost srv).noPath 3 = false ∧ (dripHost srv).owns 3 1 = true ∧ (dripHost srv).serving = true
    ∧ ((dripHost srv).slot 15).state = .free ∧ ((withSlot .opened).slot 15).state = .opened
    ∧ ((withSlot .opened).slot 15).holder = 3 ∧ ((withSlot .sealed).slot 15).state ≠ .free
    ∧ (withSlot .opened).owns 3 1 = true ∧ ((withSlot .done).slot 15).holder ≠ 4
    ∧ ((withSlot .done).setIo (R.dripOwn + 4) 16).owns 4 1 = true
    ∧ ((withSlot .done).setIo (R.dripOwn + 4) 16).serving = true := by decide

theorem wit_CommitBoundaries : (withSlot .armed).serving = true
    ∧ (let d := (srvAt 9).setSlot 15 { Slot.init with state := .armed, armDrip := 8, target := 10 }
       d.serving = true ∧ (d.slot 15).state = .armed ∧ (d.slot 15).armDrip < d.drip.now ∧ (d.slot 15).target = d.drip.now + 1)
    ∧ (let d := withSlot .sealed
       (d.slot 15).state = .sealed ∧ (d.slot 15).target = d.drip.now ∧ d.turnNow = [15] ∧ (d.slot 15).mask = 0
       ∧ (d.slot 15).hostReset = false)
    ∧ (let d := (srvAt 9).setSlot 15 { Slot.init with state := .waiting, readyDrip := some 8 }
       (d.slot 15).state = .waiting ∧ d.waitReady (d.slot 15) = true ∧ d.turnNow = [15]) := by decide +kernel

/-- A commit of BOOK at its boundary: with sound content and its bank STAGED, or not; a commit of HOST whose content fails. -/
def turnSlot : Dev := (srvAt 9).setSlot 15 { Slot.init with state := .sealed, holder := 3, target := 9, mask := 2 ^ 17 }

theorem wit_CommitBoundaries_flip : let d := turnSlot
    d.turnNow = [15] ∧ (d.slot 15).mask ≠ 0 ∧ firstBad (d.failuresOf [15]) (2 ^ 17) = none ∧ d.allStaged (2 ^ 17) = true
    ∧ d.flipAllowed = true
    ∧ (let e := turnSlot.setGroup 17 { Group.init with other := .trailing }
       e.turnNow = [15] ∧ firstBad (e.failuresOf [15]) (2 ^ 17) = none ∧ e.allStaged (2 ^ 17) = false)
    ∧ (let e := (srvAt 9).setSlot 15 { Slot.init with state := .sealed, holder := 3, target := 9, mask := 2 ^ 22 }
       e.turnNow = [15] ∧ (firstBad (e.failuresOf [15]) (2 ^ 22)).isSome = true) := by decide +kernel

/-- A commit that waited 4,096 drips, or its limit. -/
def waitSlot (n limit : Nat) : Dev := ((srvAt n).setSlot 15
  { Slot.init with state := .waiting, holder := 3, target := 9, mask := 2, waitLimit := limit }).setGroup 1
    { Group.init with other := .trailing }

theorem wit_CommitBoundaries_wait : (let d := waitSlot 4105 5
      (d.slot 15).state = .waiting ∧ d.waitReady (d.slot 15) = false ∧ d.drip.now = (d.slot 15).target + 4096 * 1
      ∧ d.drip.now < (d.slot 15).target + 256 * 2 ^ (d.slot 15).waitLimit ∧ (d.slot 15).reportDrip ≠ some d.drip.now)
    ∧ (let d := waitSlot 4105 4
      d.waitReady (d.slot 15) = false ∧ (d.slot 15).target + 256 * 2 ^ (d.slot 15).waitLimit ≤ d.drip.now
      ∧ (d.slot 15).hostReset = false) := by decide

theorem wit_BankProgress : srv.serving = true ∧ 25 ∈ groupBits
    ∧ ((srv.setGroup 25 { Group.init with other := .trailing, genLive := 1 }).group 25).other = .trailing
    ∧ (srv.setGroup 25 { Group.init with other := .trailing, genLive := 1 }).drained 25 = true
    ∧ (let d := (srvAt 99999).setGroup 25 { Group.init with other := .catchup }
       (d.group 25).other = .catchup ∧ (d.group 25).catchupDrip + copyDrips ((d.group 25).lines 25) ≤ d.drip.now) := by decide

theorem wit_GenerationOrder : (2 ^ 32 - 1 : Nat) < 2 ^ 32 ∧ (1 : Nat) ≤ 2 ^ 31 - 1 := by decide

theorem wit_ViewBuffers : (dripHost srv).serving = true ∧ (dripHost srv).owns 3 1 = true ∧ (dripHost srv).noPath 3 = false
    ∧ ((dripHost srv).view 3).state = .free
    ∧ (((dripHost srv).setView 3 ⟨.ready, 3, 0⟩).view 3) = ⟨.ready, 3, 0⟩
    ∧ ((srvAt 7).setView 3 ⟨.pending, 3, 7⟩).view 3 = ⟨.pending, 3, 7⟩ ∧ (srvAt 7).drip.now = 7 := by decide

/-! ## Ingress -/

/-- MAC 63 has a link; bay 4095 takes its frames into pool 31, which may use 9 cells. -/
def mac63 : Dev := withReg (withReg (withReg (srv.onEgrs (fun e => { e with linkUp := [(63, true)] }))
  (R.portBay0 + 8 * 4095) (63 + 2 ^ 7)) (R.portBay1 + 8 * 4095) (31 * 2 ^ 20)) (R.lardPoolCfg1 + 8 * 31) 9

/-- A frame of 60 bytes of type `t`. -/
def frameOf (t : Nat) : Bytes := List.replicate 12 0x11 ++ beBytes 2 t ++ List.replicate 46 0x22

theorem wit_IngressStages_control : mac63.serving = true ∧ mac63.linkUp 63 = true ∧ (14 : Nat) ≤ (frameOf 0x8808).length
    ∧ beAt (frameOf 0x8808) 12 2 = 0x8808 ∧ beAt (frameOf 0x8808) 14 2 ≠ 0x0101 := by decide

/-- Without a bay; with one and cells; with one and no cells. -/
theorem wit_IngressStages_bay : (mac63.onEgrs (fun e => { e with linkUp := [(62, true), (63, true)] })).linkUp 62 = true
    ∧ (mac63.strongPass.validateFrame 62 (frameOf 0x800)).1 = some (frameOf 0x800)
    ∧ (mac63.strongPass.validateFrame 62 (frameOf 0x800)).2.frameBay 62 (frameOf 0x800) = none
    ∧ (mac63.strongPass.validateFrame 63 (frameOf 0x800)).1 = some (frameOf 0x800)
    ∧ (let d := (mac63.strongPass.validateFrame 63 (frameOf 0x800)).2
       d.frameBay 63 (frameOf 0x800) = some 4095 ∧ (frameOf 0x800).length ≤ 10240
       ∧ ((withReg d (R.lardPoolCfg1 + 8 * 31) 0).takeFrame (pipeTag 0) 31 (cellsFor 60) Chain.null).1 = none) := by decide

/-- One cell of a pool that allows it. -/
theorem takeFrame_one (d : Dev) (tag p : Nat) (c : Chain) (h : d.allocAllowed p 1 = true)
    (hc : d.lard.cells.length + d.lard.scrub.length + d.lard.fenced.length + 1 ≤ numCells) :
    ∃ x e, d.takeFrame tag p 1 c = (some x, e) := by
  simp only [Dev.takeFrame, Dev.alloc, h, hc]
  exact ⟨_, _, rfl⟩

theorem wit_IngressStages_cells : ∃ x e, (let d := (mac63.strongPass.validateFrame 63 (frameOf 0x800)).2
    d.takeFrame (pipeTag 0) (d.liveFld (R.portBay1 + 8 * 4095) 24 20) (cellsFor 60) Chain.null) = (some x, e) :=
  takeFrame_one _ _ _ _ (by decide) (by decide)

/-- A frame that waits in pipe 0, a recirculated packet in pipe 1. -/
def waiting : Dev := srvAt 5 |>.onIngr (fun i => { i with
  queue := [⟨63, 7, ⟨0, 1⟩, 60, none⟩], recirc := [{ Pkt.empty with pipe := 1, admitted := 4 }] })

theorem wit_IngressStages_admission : waiting.serving = true ∧ waiting.slotLeft 0 = true ∧ waiting.newLeft 0 = true
    ∧ waiting.recircReady 0 = none ∧ waiting.waitingMacs 0 = [63]
    ∧ takeFirst (fun f => f.mac = 63) waiting.ingr.queue = some (⟨63, 7, ⟨0, 1⟩, 60, none⟩, [])
    ∧ waiting.slotLeft 1 = true ∧ waiting.recircReady 1 = some ({ Pkt.empty with pipe := 1, admitted := 4 }, []) := by decide

/-- The last entry of the fragment table, 512 drips old, that holds a fragment or does not. -/
theorem wit_IngressStages_frags : ∀ x ∈ [FragState.holding, .decided], let d := (srvAt 512).onIngr (fun i => { i with
      frags := [(4095, ⟨1023, 0, x, 0, Pkt.empty, []⟩)] })
    spFind d.ingr.frags (4 * 1023 + 3) = some ⟨1023, 0, x, 0, Pkt.empty, []⟩ ∧ 0 + 512 ≤ d.drip.now := by decide

/-- Passage 0 accepts every packet: its default edge. With `t` the passage's one edge on a selector, and a lost passage 5. -/
def parsed (t : Nat) : Dev := withReg (withReg (withReg (srv.onCsr (fun c => { c with lostPass := [(lostKey 5 false, true)] }))
  (R.parsPW0 + 8) t) (R.parsPW0 + 4 * 33) (2 ^ 16)) (R.parsPW0 + 4 * 34) (2 ^ 12 + 0xC00)

theorem wit_IngressStages_parser : (8 : Nat) ≠ 0
    ∧ (bitOf ((parsed 0x800).passWord 0 0 34) 12 = true
      ∧ (0 &&& bits ((parsed 0x800).passWord 0 0 33) 31 16) = bits ((parsed 0x800).passWord 0 0 33) 15 0)
    ∧ (∀ e, e < 15 → bitOf ((parsed 0x800).passWord 0 0 (4 + 2 * e)) 12 = false)
    ∧ (∀ e, e < 16 → bitOf (srv.passWord 0 0 (4 + 2 * e)) 12 = false)
    ∧ (match (parsed 0x800).passage 0 0 5 0 [] ⟨0, [], 0, 0, 0, false, none⟩ with | .error _ => true | .ok _ => false) = true
    ∧ (match (parsed 0x800).passage 0 0 0 0 [] ⟨0, [], 0, 0, 0, false, none⟩ with
       | .ok (t, _) => t == 0x800 | .error _ => false) = true := by decide

/-- A packet whose pass the parser accepts, or rejects, with no fragment. -/
theorem wit_IngressStages_classify : ∀ t ∈ [0x800, 0xC00],
    ((parsed t).viewCells Pkt.empty).any (parsed t).cellPoisoned = false
    ∧ (match (parsed t).parse Pkt.empty with
       | (.outcome o, w, _) => decide (o = if t = 0x800 then 0 else 1) && w.fragAt.isNone
       | _ => false) = true := by decide

/-- Rows 7 and 9 are valid and match every key; row 9 alone of the second classifier matches none. -/
def rows (v : Nat) : Dev := srv.onCsr (fun c => { c with
  bankA := [(rowKey 7 0, w32 v), (rowKey 7 44, 1), (rowKey 9 0, w32 v), (rowKey 9 44, 1)] })

theorem wit_IngressStages_rows : (∀ v ∈ [0, 1], spSorted (rows v).csr.bankA = true ∧ (rows v).bankAt 6 0 = false)
    ∧ (rows 0).searchRows 0 0 = some 7 ∧ (rows 1).searchRows 0 0 = none := by decide +kernel

theorem wit_IngressStages_actions : Pkt.empty.missDrop = false ∧ ({ Pkt.empty with seq := some 5 } : Pkt).seq = some 5
    ∧ ∀ t ∈ [0, 1, 2, 3], ∃ a ∈ List.range 16, actType a = t := by decide

/-- MACsec on MAC 63: off, under Check, under Strict with replay protection; one receive SA, next number 9. -/
def secDev (w : Nat) : Dev := withReg (withReg ((srv.onEgrs (fun e => { e with linkUp := [(63, true)] })).setIo64
  (R.ciphSaNextpn + saOff 3) 9) (R.ciphMsecMac0 + 8 * 63) w) (R.ciphSaCtl + saOff 3) (2 ^ 11 + 63)

/-- A protected frame with packet number `pn`, a secure octet and the ICV of that SA, or of no SA. -/
def secHead (an pn : Nat) : Bytes := List.replicate 12 0x11 ++ [0x88, 0xE5] ++ beBytes 1 an ++ [1] ++ beBytes 4 pn
def secFrame (pn : Nat) : Bytes := secHead 0 pn ++ [0x77] ++ aeadTag 2 ((secDev 1).saKey 3) ((secDev 1).saNonce 3 pn)
  (secHead 0 pn ++ [0x77]) []

theorem wit_IngressStages_macsec : bitOf ((secDev 0).msec 63) 0 = false ∧ beAt (secHead 0 5) 12 2 = 0x88E5
    ∧ bitOf ((secDev 1).msec 63) 0 = true ∧ beAt (frameOf 0x888E) 12 2 = 0x888E
    ∧ beAt (frameOf 0x800) 12 2 ≠ 0x888E ∧ beAt (frameOf 0x800) 12 2 ≠ 0x88E5
    ∧ (readSec (secHead 1 9 ++ List.replicate 17 0)).1 = true
    ∧ ((secDev 1).macSas 63 false).find? ((secDev 1).saTakes (secHead 1 9 ++ List.replicate 17 0)
        (readSec (secHead 1 9 ++ List.replicate 17 0)).2) = none := by decide

/-- A frame of an SA that comes too late under replay protection, and one that opens. -/
theorem wit_IngressStages_macsec_opens : (let d := secDev (1 + 2 ^ 6); let t := (readSec (secFrame 3)).2
      beAt (secFrame 3) 12 2 = 0x88E5 ∧ (readSec (secFrame 3)).1 = true
      ∧ (d.macSas 63 false).find? (d.saTakes (secFrame 3) t) = some (3, 2 ^ 11 + 63)
      ∧ recoverPn (lowestPn (d.nextPn 3) (d.live (R.ciphMsecMac1 + 8 * 63))) t.low = 3
      ∧ lowestPn (d.nextPn 3) (d.live (R.ciphMsecMac1 + 8 * 63)) = 9)
    ∧ (let d := secDev 1; let f := secFrame 9; let t := (readSec f).2
      let pn := recoverPn (lowestPn (d.nextPn 3) (d.live (R.ciphMsecMac1 + 8 * 63))) t.low
      let k := msecClear (d.msec 63) t.body.length (bitOf t.tci 3)
      (readSec f).1 = true ∧ (d.macSas 63 false).find? (d.saTakes f t) = some (3, 2 ^ 11 + 63) ∧ pn = 9
      ∧ bitOf (d.msec 63) 6 = false
      ∧ (aeadOpen 2 (d.saKey 3) (d.saNonce 3 pn) (f.take (12 + t.tl) ++ t.body.take k) (t.body.drop k ++ t.icv)).isSome
        = true) := by decide +kernel

theorem wit_FlowControlAndLinks_pfc : mac63.serving = true ∧ mac63.linkUp 63 = true ∧ bitOf 128 7 = true
    ∧ (∀ q, q < 8 → bitOf 128 q = true → [0, 0, 0, 0, 0, 0, 0, 65535].getD q 0 % 2 ^ 16 ≠ 0)
    ∧ [0, 0, 0, 0, 0, 0, 0, 65536].getD 7 0 % 2 ^ 16 = 0
    ∧ spFind ((srvAt 9).onEgrs (fun e => { e with paused := [(511, 9)] })).egrs.paused (8 * 63 + 7) = some 9
    ∧ spGet false (srv.onIngr (fun i => { i with xoff := [(31, true)] })).ingr.xoff 31 = true := by decide

/-- Pool 31's XOFF went to MAC 63 at drip 5, by a bay of policy PFC; the interval has passed, or not. -/
theorem wit_FlowControlAndLinks_xoff : ∀ n ∈ [6, 99999], let d := ((withReg mac63 (R.portBay1 + 8 * 4095)
      (31 * 2 ^ 20 + 2 ^ 25)).onIngr (fun i => { i with xoff := [(31, true)], xoffAt := [(xoffKey 31 63, 5)] })).onDrip (fun p =>
      { p with now := n })
    d.serving = true ∧ spGet false d.ingr.xoff 31 = true ∧ d.pfcMacs 31 = [63] ∧ d.linkUp 63 = true
    ∧ spFind d.ingr.xoffAt (xoffKey 31 63) = some 5
    ∧ (if n = 6 then d.drip.now < 5 + d.quantaDrips 63 32768 else 5 + d.quantaDrips 63 32768 ≤ d.drip.now) := by decide +kernel

/-- A MAC bound to lane 15, which is sound. -/
def lane15 : Dev := withReg srv (R.portMacCfg + 4 * 63) (2 ^ 25 + 15 * 2 ^ 15)

theorem wit_FlowControlAndLinks_links : lane15.lanesLive = true ∧ bitOf (lane15.live (R.portMacCfg + 4 * 63)) 25 = true
    ∧ lane15.macLanes 63 = [15] ∧ (lane15.macLanes 63)[0]? = some 15 ∧ lane15.lanesSound (lane15.macLanes 63) = true
    ∧ lane15.laneState 15 ≠ 3 ∧ (lane15.setIoFld (R.laneStat + 4 * 15) 1 0 3).laneState 15 = 3 := by decide

theorem wit_ClassifierRows : (2 ^ 15 - 1 : Nat) < 2 ^ 15 ∧ (srv.setIo (R.dripOwn + 24) 16).serving = true
    ∧ (srv.setIo (R.dripOwn + 24) 16).noPath 4 = false
    ∧ bitOf ((srv.setIo (R.dripOwn + 24) 16).per 4 R.clasRowStat) 0 = false
    ∧ (srv.setIo (R.dripOwn + 24) 16).owns 4 6 = true := by decide

/-! ## Order and egress -/

/-- A frame of session data at the head of bay 1, bound to MAC 64, waiting for a header cell since drip 0. -/
def waiter : EgPkt := ⟨Pkt.empty, 1, some ⟨3, 23⟩, some 0, [0], 64⟩
def headerDev (n : Nat) : Dev := (srvAt n).setFifo 1 [waiter]

/-- A packet in the FIFO of bay 4095 for MAC 63, which has a link. -/
def egress63 : Dev := (withReg (withReg mac63 (R.portMacCfg + 4 * 63) (2 ^ 25)) (R.egrsBay + 4 * 4095) 1).setFifo 4095
  [⟨{ Pkt.empty with chain := ⟨0, 1⟩, len := 60 }, 4095, none, none, [], 63⟩]

/-- A head to be served; a MAC without a link and one with; data poisoned or not; a frame of session data; a head that waits. -/
theorem wit_EgressService : (let d := egress63.cutHeads 63
      (d.nextBay 63).1 = some 4095 ∧ ((d.nextBay 63).2.fifo 4095).length = 1)
    ∧ srv.macUp 63 = false ∧ egress63.macUp 63 = true ∧ waiter.raw ≠ [] ∧ waiter.pkt.domain ≠ 65527
    ∧ (egress63.popHead 4095 60).chainPoisoned ⟨0, 1⟩ = false
    ∧ (((egress63.onLard (fun l => { l with cells := [(0, ⟨cellEnd, 0, 0, none⟩)], poison := [(0, true)] })).popHead 4095
        60).chainPoisoned ⟨0, 1⟩) = true
    ∧ (headerDev 9000).headerWaiters 64 = [(1, waiter)] ∧ waiter.sess = some ⟨3, 23⟩
    ∧ 0 + (headerDev 9000).atFld 0 R.sessCfg 20 13 ≤ (headerDev 9000).drip.now := by decide +kernel

/-- A pool without cells for the header, and one with a cell. -/
theorem wit_EgressService_cell : (∃ d, (withReg (headerDev 9000) R.lardPoolCfg1 0).headerCell 63 1 0 = (none, d))
    ∧ ∃ c d, (headerDev 9000).headerCell 63 1 0 = (some c, d) := by
  refine ⟨⟨_, Prod.ext (by decide +kernel : _ = none) rfl⟩, ?_⟩
  have h : (headerDev 9000).allocAllowed 0 1 = true := by decide +kernel
  have hb : (headerDev 9000).atFld 0 (R.portBay1 + 8 * 1) 24 20 = 0 := by decide +kernel
  have hc : (headerDev 9000).lard.cells.length + (headerDev 9000).lard.scrub.length + (headerDev 9000).lard.fenced.length + 1
      ≤ numCells := by decide
  simp only [Dev.headerCell, hb, Dev.alloc, h, hc]
  exact ⟨_, _, rfl⟩

theorem wit_EgressService_hole : let d := (srvAt 99999).onEgrs (fun e => { e with holes := [(65535, 1)] })
    spFind d.egrs.holes 65535 = some 1
    ∧ d.egrs.waiting.any (fun e => e.domain = 65535 && e.seq = d.nextSeq 65535) = false
    ∧ 1 + d.liveFld R.egrsHoleCfg 14 0 ≤ d.drip.now := by decide

/-! ## The Larder -/

/-- The instruction bytes of one operand of each kind: a local destination, an immediate source. -/
def dst (size a : Nat) : List Nat := [1 + 16 * size, a % 256, a / 256]
def imm32 (v : Nat) : List Nat := [0x20, v % 256, v / 256 % 256, v / 65536 % 256, v / 2 ^ 24]

/-- Local memory of a thread. -/
def withMem (bs : List Nat) : Thread := { Thread.init with mem := bytesAt0 bs }

/-- Each Larder row of a thread: LARD of the 16-byte command at local address 0. -/
theorem wit_LarderCommands_thread : larderRows.all (fun row =>
    meets (onThr srv u ([0xE4] ++ dst 4 0 ++ dst 3 0x40) (withMem [row.2.1])) u (fun i _ evs _ =>
      i.op == 0xE4 && match evs with
        | [x, _] => bits x.val 31 0 % 16 == row.2.1
        | _ => false)) = true := by decide

theorem wit_LarderCommands_master : larderRows.all (fun row => let d := srv.setPer 4 R.lardCmd row.2.1
    d.serving && !d.noPath 4 && d.per 4 R.lardCmd % 16 == row.2.1) = true := by decide

theorem wit_LarderCommands_scrub : spGet false (srv.onLard (fun l => { l with scrub := [(786431, true)] })).lard.scrub 786431
    = true := by decide

/-- Cells 0 → 1 of owner `a`, cell 2 of owner `b`. -/
def chains (d : Dev) (a b : Nat) : Dev := d.onLard (fun l => { l with
  cells := [(0, ⟨1, a, 0, none⟩), (1, ⟨cellEnd, a, 0, none⟩), (2, ⟨cellEnd, b, 0, none⟩)] })

theorem wit_LarderOperations_sound : let d := chains srv 0x200 0x200
    chainOf (2 * 2 ^ 20) = some ⟨0, 2⟩ ∧ d.lard.walk 2 0 = .cells [0, 1] ∧ d.allOwned 0x200 [0, 1] = true
    ∧ ownerTagOk (ownerTag u) = true ∧ ownerTag u < 2 ^ 12
    ∧ chainOf (2 + 2 ^ 20) = some ⟨2, 1⟩ ∧ d.lard.walk 1 2 = .cells [2] ∧ d.allOwned 0x200 [2] = true
    ∧ (0 : Nat) ≠ 2 ∧ (2 : Nat) + 1 ≤ 512 := by decide

theorem wit_LarderOperations_refused : (chains srv 0x200 0x200).mayTake (ownerTag u) [0, 1] true = false := by decide

theorem wit_LarderOperations_reclaim : let d := srv.setThr u { Thread.init with state := .parked }
    tidOfTag (ownerTag k) = some k ∧ d.isKeeper k = true ∧ k.g = u.g ∧ (d.thr u).state = .parked
    ∧ ((srv.setThr u { Thread.init with state := .halted }).thr u).state = .halted := by decide

/-- A thread that runs a task on the chain of cells 0 and 1. -/
def tasked : Dev := (chains srv (ownerTag u) 0).setThr u
  { Thread.init with desc := some { Pkt.empty with chain := ⟨0, 2⟩, seq := some 5 } }

theorem wit_LarderOperations_release : let d := tasked
    d.isKeeper u = false ∧ (d.thr u).desc = some { Pkt.empty with chain := ⟨0, 2⟩, seq := some 5 } ∧ (d.thr u).spent = false
    ∧ chainOf (2 * 2 ^ 20) = some ⟨0, 2⟩ ∧ d.lard.walk 2 0 = .cells [0, 1] ∧ d.allOwned (ownerTag u) [0, 1] = true
    ∧ (match d.relSession u 1 with | .ok none => true | _ => false) = true ∧ d.localVal u winLength 4 ≤ 128 * 2 := by decide

/-! ## Sessions -/

theorem wit_SessCommands_thread : sessRows.all (fun row =>
    meets (onThr srv u ([0xE5] ++ dst 5 0 ++ dst 3 0x40) (withMem [row.2])) u (fun i _ evs _ =>
      i.op == 0xE5 && match evs with
        | [x, _] => bits x.val 31 0 % 16 == row.2
        | _ => false)) = true := by decide +kernel

theorem wit_SessCommands_master : sessRows.all (fun row => let d := srv.setPer 2 R.sessCmd row.2
    d.serving && !d.noPath 2 && d.per 2 R.sessCmd % 16 == row.2
      && !bitOf (d.per 2 R.sessCmdStat) 0 && bitOf ((d.setPer 2 R.sessCmdStat 1).per 2 R.sessCmdStat) 0) = true := by decide

/-- A session that a master opened. -/
def ses (x : SessState) (tls : SessTls) (tx : SessTx → SessTx) : Session where
  state := x
  id := ⟨1, none, 0, none, 0, 0, tls.rxSuite ≠ 9, 0, false, 0, 0, 80, 50000, 0, 0, 1460⟩
  tx := tx ⟨0, 0, 0, 0, 0, 0, 0, Cubic.init, 0, none, 0, 0, 16, none, none, 0, [], [], [], false, false⟩
  rx := ⟨0, 0, false, false, 0, [], [], Chain.null, [], [], 0, 0, false, 0, 0, 0⟩
  tls := tls
  isInner := false
  closedAt := 0

def noTls : SessTls := ⟨9, 9, none, none, 0, 0, 0, 0, false, [], 0, none⟩
def tlsUp : SessTls := ⟨1, 1, some [1], some [2], 0, 0, 2, 2, true, [], 0, none⟩

/-- A command word of session 3. -/
def sessWord (op : Nat) : SessCmd := ⟨.master 2, [op + 48], [7]⟩

/-- Reserved commands: an op, the top bit, a word 15, a phase of INSTALL_KEYS. -/
theorem wit_SessCommands_bad : 5 ≤ (5 : Nat) % 16 ∧ bitOf (2 + 2 ^ 31) 31 = true ∧ (sessWord 1).word 15 = 0
    ∧ (SessCmd.mk (.master 2) (List.replicate 16 1) []).word 15 ≠ 0 ∧ 1 < bits (1 + 2 ^ 27) 27 26 := by decide

theorem wit_SessCommands_do : ∀ op ∈ [2, 3, 4], srv.ses 3 = none ∧ bits (op + 48) 25 4 = 3 ∧ bitOf (op + 48) 31 = false
    ∧ (op + 48) % 16 = op
    ∧ (let d := srv.setSes 3 { ses .syn tlsUp id with id := { (ses .syn tlsUp id).id with listener := some 1 } }
       d.ses 3 ≠ none ∧ ∀ s ∈ d.ses 3, d.maySess ⟨.thread u, [op + 48], []⟩ 3 s = false) := by decide

theorem wit_SessCommands_do_install : let s := ses .handshake ⟨0, 0, none, none, 0, 0, 0, 0, false, [], 0, none⟩ id
    (srv.setSes 3 s).ses 3 = some s ∧ (srv.setSes 3 s).maySess (sessWord 1) 3 s = true ∧ (1 + 48) % 16 = 1
    ∧ bitOf (1 + 48) 30 = false ∧ bits (1 + 48) 25 4 = 3 ∧ s.id.tls = true ∧ s.state = .handshake ∧ (sessWord 1).secret ≠ []
    ∧ bits (1 + 48) 27 26 ≤ 1 := by decide

theorem wit_SessCommands_do_others : let s := ses .established tlsUp id
    (srv.setSes 3 s).maySess (sessWord 2) 3 s = true ∧ s.tls.txSecret = some [2] ∧ s.tls.txPhase = 2 ∧ s.isInner = false
    ∧ s.state ≠ .closed ∧ (ses .syn tlsUp id).state = .syn ∧ (ses .established noTls id).id.tls = false
    ∧ (srv.setSes 3 (ses .established noTls id)).maySess (sessWord 3) 3 (ses .established noTls id) = true := by decide

/-- Sessions to end: one with TLS, one without, and one already CLOSED. -/
theorem wit_SessCommands_end : (srv.setSes 3 (ses .established tlsUp id)).ses 3 = some (ses .established tlsUp id)
    ∧ (ses .established tlsUp id).id.tls = true ∧ (ses .established noTls id).id.tls = false
    ∧ (srv.setSes 3 (ses .closed noTls id)).ses 3 = some (ses .closed noTls id) := by decide

theorem wit_SessionEvents : (let x := { ses .established noTls id with
        rx := ⟨0, 0, false, false, 0, [], [], Chain.null, [], [], 1, 4, false, 0, 0, 0⟩ }
      ((srvAt 5).setSes 3 x).ses 3 = some x ∧ x.rx.ackPend ≠ 0 ∧ x.rx.ackDrip < (srvAt 5).drip.now
       ∧ seq24 (spGet 0 (srvAt 5).egrs.assign x.id.domain + 2 ^ 24 - (srvAt 5).nextSeq x.id.domain) < 2 ^ 23)
    ∧ (let x := ses .closed noTls id
       let d := (srvAt (2 ^ 40)).setSes 3 x
       d.ses 3 = some x ∧ x.state = .closed
       ∧ x.closedAt + 2 * bits (d.profile (d.group 10).genLive x.id.profile 1) 31 16 * 1024 ≤ d.drip.now) := by decide

/-- A timer that has run out, with a segment sent, its retries used up or not. -/
theorem wit_SessionEvents_timer : ∀ r ∈ [0, 15], let x := ses .established noTls (fun t => { t with
      timer := some 9, retx := r, segs := [⟨0, 1, [1], false, [1], false⟩] })
    let d := (withReg (srvAt 9) (R.sessCc0 + 8) (2 ^ 16)).setSes 3 x
    d.ses 3 = some x ∧ x.tx.timer = some 9 ∧ 9 ≤ d.drip.now ∧ x.state ≠ .closed
    ∧ (∃ g ∈ x.tx.segs, g.frame ≠ [])
    ∧ (if r = 0 then x.tx.retx < bits (d.profile (d.group 10).genLive x.id.profile 2) 19 16
       else bits (d.profile (d.group 10).genLive x.id.profile 2) 19 16 ≤ x.tx.retx) := by decide

theorem wit_SessionEvents_keepalive : let x := ses .established noTls id
    let d := (withReg (srvAt 65536) (R.sessCc0 + 8) (2 ^ 16 + 1)).setSes 3 x
    d.ses 3 = some x ∧ x.isInner = false ∧ x.state = .established
    ∧ bits (d.profile (d.group 10).genLive x.id.profile 2) 15 0 ≠ 0
    ∧ Nat.max x.rx.heard x.rx.probed + bits (d.profile (d.group 10).genLive x.id.profile 2) 15 0 * 65536 ≤ d.drip.now := by decide

/-- As many segments as `l` says, whose IP and TCP headers stand at bytes 14 and 34 of cell 0, wait in the miss queue of pipe 0. -/
def missed (l : List Nat) : Dev :=
  let p := { Pkt.empty with chain := ⟨0, 1⟩, len := 60, marks := [0xFFFF, 14, 34, 0xFFFF], session := some 3 }
  ((srv.onLard (fun l => { l with cells := [(0, ⟨cellEnd, 0x200, 0, none⟩)], bytes := [(14, 0x45)] })).setMissQ 0
    (l.map (fun _ => p))).setSes 3 (ses .established noTls id)

theorem wit_SessionEvents_fill : 3 ∉ (missed []).sess.hot ∧ (missed []).missQ 0 = [] ∧ (missed []).missQ 1 = []
    ∧ ∀ l ∈ [[0], [0, 0]], ((missed l).ses 3).isSome = true ∧ (missed l).missQ 1 = []
      ∧ ((missed l).missQ 0).length = l.length ∧ ∀ p ∈ (missed l).missQ 0, p.session = some 3
        ∧ (((((missed l).setMissQ 0 []).setMissQ 1 []).touchSes 3).readSeg p).isSome = true := by decide

/-! ## The drip boundary -/

theorem wit_DripBoundaryCommand : srv.serving = true ∧ srv.load.coldReq = false
    ∧ (srv.onLoad (fun l => { l with coldReq := true })).load.coldReq = true
    ∧ (srv.onLoad (fun l => { l with coldReq := true })).serving = true ∧ Dev.reset.serving = false := by decide

/-- One write of a drip, to a group whose STAGED bank is open; a row hit. -/
theorem wit_DripBoundaryCommand_effects : let w : StagedWrite := ⟨3, .reg R.bookCfg, [1]⟩
    (srv.onDrip (fun p => { p with writes := [w] })).drip.writes = [⟨3, .reg R.bookCfg, [1]⟩] ∧ w.target = .reg R.bookCfg
    ∧ R.bookCfg < 2 ^ 28 ∧ (srv.group (groupOfKey R.bookCfg)).other = .staged ∧ srv.groupSealed (groupOfKey R.bookCfg) = false
    ∧ (srv.onIngr (fun i => { i with hits := [32767] })).ingr.hits = [32767] := by decide

/-- BOOK_CFG, whose group has a STAGED bank, or none and a queue with room, or a full queue. -/
theorem wit_StagedWrites : R.bookCfg < 2 ^ 28 ∧ (srv.group (groupOfKey R.bookCfg)).other = .staged
    ∧ srv.groupSealed (groupOfKey R.bookCfg) = false
    ∧ (let d := srv.setGroup (groupOfKey R.bookCfg) { Group.init with other := .catchup }
       (d.group (groupOfKey R.bookCfg)).other ≠ .staged ∧ d.queueUsed + 1 ≤ 16384)
    ∧ (1 : Nat) < 2 ∧ (2 : Nat) < 3 ∧ (1 : Word) ≠ 2 := by decide

/-- Four masters contest one register. -/
theorem wit_StagedWrites_contest : let ws := [1, 2, 3, 4].map (fun m => StagedWrite.mk m (.reg R.bookCfg) [w32 m])
    ws.Perm ws ∧ ws.Pairwise (fun a b => a.master < b.master)
    ∧ ∀ w ∈ ws, w.target = .reg R.bookCfg ∧ 1 ≤ w.master ∧ w.master ≤ 4 := ⟨.refl _, by decide⟩

/-- The entries of a queue of like writes. -/
theorem queueUsed_replicate (d : Dev) (n : Nat) (q : QueuedWrite) :
    (d.onDrip (fun p => { p with queue := List.replicate n q })).queueUsed = n * q.target.entries := by
  have h (m a : Nat) : ((List.replicate m q).map (fun q => q.target.entries)).foldl (· + ·) a = a + m * q.target.entries := by
    induction m generalizing a with
    | zero => simp
    | succ m ih => simp only [List.replicate_succ, List.map_cons, List.foldl_cons, ih, Nat.succ_mul]; omega
  simpa [Dev.queueUsed, Dev.onDrip] using h n 0

theorem wit_StagedWrites_full : let d := (srv.setGroup 17 { Group.init with other := .trailing }).onDrip (fun p => { p with
      queue := List.replicate 16384 ⟨17, .reg R.bookCfg, [1], 0⟩ })
    (d.group 17).other ≠ .staged ∧ 16384 < d.queueUsed + 1 :=
  ⟨by decide, by rw [queueUsed_replicate]; decide⟩

/-! ## Forwarding -/

/-- A master of the owner set of FWDT gives each op of the last two buckets. -/
def fwdHost (op : Nat) : Dev := ((srv.setIo (R.dripOwn + 28) 8).setPer 3 R.fwdtDmaCmd (262142 + op * 2 ^ 18)).setPer 3 R.fwdtDmaCnt 2

theorem wit_ForwardingCommands : fwdRows.all (fun row => let d := fwdHost row.2
    d.serving && !d.noPath 3 && d.owns 3 7 && bits (d.per 3 R.fwdtDmaCmd) 19 18 == row.2
      && !bitOf (d.per 3 R.fwdtDmaStat) 0 && d.dmaCode 3 == Code.ok && decide (bits (d.per 3 R.fwdtDmaCmd) 17 0 + 2 ≤ numBuckets)
      && bitOf ((d.setPer 3 R.fwdtDmaStat 1).per 3 R.fwdtDmaStat) 0) = true := by decide

/-- Ranges too long, and empty. -/
theorem wit_ForwardingCommands_range : ∀ n ∈ [4097, 3, 0], let d := (fwdHost 2).setPer 3 R.fwdtDmaCnt n
    bitOf (d.per 3 R.fwdtDmaStat) 0 = false
    ∧ (if n = 0 then d.per 3 R.fwdtDmaCnt = 0 ∧ bits (d.per 3 R.fwdtDmaCmd) 17 0 + 0 ≤ numBuckets
       else 4096 < d.per 3 R.fwdtDmaCnt ∨ numBuckets < bits (d.per 3 R.fwdtDmaCmd) 17 0 + d.per 3 R.fwdtDmaCnt) := by decide

/-- A command of the host on the first bucket, its bytes moved in drip 3; it holds the bucket or does not. -/
def fwdCmdAt (op : Nat) (ph : FwdPhase) (held : Map Nat) : Dev := (srvAt 4).onFwd (fun f => { f with
  cmds := [(3, ⟨op, 0, 1, 0x1000, 3, ph, 0, List.replicate 128 0⟩)], locks := held })

theorem wit_ForwardingTables : let c (op : Nat) (ph : FwdPhase) : FwdCmd := ⟨op, 0, 1, 0x1000, 3, ph, 0, List.replicate 128 0⟩
    spFind (fwdCmdAt 0 .moving []).fwd.cmds 3 = some (c 0 .moving) ∧ (fwdCmdAt 0 .moving []).dmaCode 3 = Code.ok
    ∧ spFind (fwdCmdAt 1 .moved []).fwd.cmds 3 = some (c 1 .moved) ∧ 3 < (fwdCmdAt 1 .moved []).drip.now
    ∧ (bucketRange 0 1).all ((fwdCmdAt 1 .moved []).holdsBucket 3) = false
    ∧ (writeBuckets (List.replicate 128 0) 1).all bucketOk = true ∧ (writeBuckets (List.replicate 128 255) 1).all bucketOk = false
    ∧ (fwdCmdAt 1 .moved [(0, 3)]).holdsBucket 3 0 = true ∧ bucketOk (slice (List.replicate 128 0) 0 128) = true
    ∧ spFind (fwdCmdAt 2 .accepted []).fwd.cmds 3 = some (c 2 .accepted) ∧ (fwdCmdAt 2 .accepted []).drip.now > 3
    ∧ spFind (fwdCmdAt 2 .accepted []).fwd.locks 0 = none
    ∧ spFind (fwdCmdAt 2 .accepted [(0, 4)]).fwd.locks 0 = some 4 := by decide

theorem wit_ForwardingTables_sweep : (withReg (srvAt 8192) R.fwdtSweep 4096).serving = true
    ∧ (withReg (srvAt 8192) R.fwdtSweep 4096).live R.fwdtSweep ≠ 0 ∧ (withReg (srvAt 8192) R.fwdtSweep 4096).drip.now ≠ 0
    ∧ (withReg (srvAt 8192) R.fwdtSweep 4096).drip.now % (withReg (srvAt 8192) R.fwdtSweep 4096).live R.fwdtSweep = 0
    ∧ (withReg (srvAt 8192) R.fwdtSweep 4096).drip.now ∉ (withReg (srvAt 8192) R.fwdtSweep 4096).fwd.sweeps := by decide

/-- Two LOCKs, the second due. -/
theorem wit_ForwardingTables_report : let r : LockRec := ⟨3, 7, 1, 0, false, [7]⟩; let p : LockRec := ⟨4, 9, 1, 0, true, [9]⟩
    let d := (srvAt 64).onFwd (fun f => { f with lockRecs := [p, r] })
    let due (x : LockRec) : Bool := !x.reported && decide (x.since + 64 ≤ d.drip.now) && x.held.contains 7
    d.fwd.lockRecs = [p] ++ r :: [] ∧ due r = true ∧ (∀ x ∈ [p], due x = false ∧ x ≠ r) ∧ r ∉ ([] : List LockRec)
    ∧ (∀ x ∈ srv.fwd.lockRecs, due x = false) := by decide
/-! ## The programming model of the threads -/

/-- The two encodings that chapter 08 and chapter 09 write out: MOV.16 sh:[0x0100], pw:[0] and BNE +0x40. -/
theorem test_decode_spec_mov : (match decodeBytes [0x01, 0x11, 0x00, 0x01, 0x16, 0x00, 0x00, 0x00] false false (fun _ _ => none) with
    | .ok i => i.len == 8 && i.op == 0x01 && i.width == 16 && (opAt i.ops 0).mode == 1 && (opAt i.ops 0).off == 0x100
        && (opAt i.ops 1).mode == 6 && (opAt i.ops 1).off == 0 && !(opAt i.ops 1).indexed
    | .error _ => false) = true := by decide

theorem test_decode_spec_bne : (match decodeBytes [0x71, 0x80, 0x40] false false (fun _ _ => none) with
    | .ok i => i.len == 3 && i.op == 0x71 && (opAt i.ops 0).mode == 0 && (opAt i.ops 0).sx && (opAt i.ops 0).imm == 0x40
    | .error _ => false) = true := by decide

/-- ADD.64 with three mode-3 operands would need 19 bytes: ILLEGAL_INSTRUCTION at its 17th (R218). -/
theorem test_decode_too_long : (match decodeBytes [0x20, 0x33, 1, 0, 0x20, 1, 0, 0x33, 2, 0, 0x21, 1, 0, 0x33, 3, 0, 0x22, 1, 0]
      false false (fun _ _ => none) with
    | .ok _ => false
    | .error e => e.cls == 1) = true := by decide

/-- Reserved opcodes, a doubled prefix, and REP of a branch are illegal (R219 to R221). -/
theorem test_decode_illegal : [[0x00, 0], [0x90, 0], [0xE7, 0], [0xF2, 0xF2, 0xD2, 0], [0xF0, 0x00, 2, 0x71, 0x80, 0x40],
      [0xD2, 1], [0xF3, 0]].all (fun bs => match decodeBytes (bs.map (BitVec.ofNat 8)) false false (fun _ _ => none) with
        | .ok _ => false
        | .error e => e.cls == 1) = true := by decide

/-- Operand bytes of one instruction: 32-bit local destinations, immediate sources. -/
def operandBytes (op : Nat) (r : Role) : List Nat :=
  match r with
  | .d | .m => dst 2 0x10
  | .s => if op = 0x04 then dst 2 0x20 else imm32 5
  | .n => [0x00, 3]
  | .t => [0x80, 0x40]
  | .f => [0x10, 3, 8]

/-- The bytes of an instruction of each opcode of groups 0x00 to 0x6F. -/
def aluBytes (op : Nat) : List Nat := op :: match opSpec op with
  | some (roles, _) => roles.flatMap (operandBytes op)
  | none => []

/-- For AluInstructions, AluFrame and the first clause of StoresKeepMemories: an instruction of each row. -/
theorem wit_AluInstructions : aluRows.all (fun row => meets (onThr srv u (aluBytes row.2.1) Thread.init) u (fun i e evs _ =>
    i.op == row.2.1 && (i.op != 1 || !latchMov i)
      && (row.2.2 i.width (e.thr u).flags (evVals i evs)).isSome)) = true := by decide +kernel

/-- A store beyond the shelf, and a division by zero by each of DIVU, DIVS, REMU and REMS (AluProducts). -/
theorem wit_AluInstructions_faults : (match (onThr srv u ([0x01] ++ dst 2 0x7000 ++ imm32 5) Thread.init).decodeAt u with
      | .ok i => let d := onThr srv u ([0x01] ++ dst 2 0x7000 ++ imm32 5) Thread.init
          i.op == 1 && !latchMov i && i.rep.isNone && (match (d.atIssue u i).operandsOf u i.op [] i.ops with
            | .error (e, n) => e.1 == 2 && n == 1
            | .ok _ => false)
      | .error _ => false) = true
    ∧ [0x2C, 0x2D, 0x2E, 0x2F].all (fun op => meets (onThr srv u ([op] ++ dst 2 0x10 ++ imm32 5 ++ imm32 0) Thread.init) u
        (fun i e evs _ => i.op == op && (evVals i evs).getD 2 0 == 0 && (match aluOf op with
          | some f => (f i.width (e.thr u).flags (evVals i evs)).isNone
          | none => false))) = true := by decide

/-- An operand in the window: byte 0 of handle register 0, whose cell holds poison. -/
theorem wit_AluInstructions_poison : (let d := (((onThr srv u ([0x01] ++ dst 2 0x10 ++ [0x26, 0, 0, 0]) Thread.init).setLocalBytes u winHandle
      (leBytes 4 (2 ^ 20))).setLocalBytes u winLength (leBytes 4 128)).onLard (fun l => { l with
        cells := [(0, ⟨cellEnd, ownerTag u, 0, none⟩)], poison := [(0, true)] })
    match d.decodeAt u with
    | .ok i => let e := d.atIssue u i
        (match e.operandsOf u i.op [] i.ops with
          | .error ((_, code), _) => code == Code.poisoned
          | .ok _ => false)
        && (match e.failLoc u i.op [] 0 (e.thr u).b i.ops with
          | some (.window h len off, n) => (match e.windowCells u h len off n with | .ok cs => cs == [0] | .error _ => false)
          | _ => false)
    | .error _ => false) = true := by decide +kernel

theorem wit_AddSubFlags_AluProducts_AluShiftsAndFields : (0 : Nat) < 32 ∧ (1 : Nat) < 32 ∧ (2 ^ 32 - 1 : Nat) < 2 ^ 32 ∧ bits 0x00FF 15 8 = 0
    ∧ bits 0x0100 15 8 ≠ 0 ∧ (32 : Nat) % 8 = 0 ∧ (1234 : Nat) < 10 ^ 32 ∧ (∀ j < 32, 0x1234 / 16 ^ j % 16 = 1234 / 10 ^ j % 10)
    ∧ 9 < 0xA / 16 ^ 0 % 16 ∧ leaOpen 0x04 1 (Opnd.base 1 2 false) = false := by decide

/-- A byte sum that wraps: 0xFF + 1 is 0 with z and c; 0x7F + 1 is 0x80 with n and v (R236). -/
theorem test_add_wraps : aluAdd 8 0 [0, 0xFF, 1] = some ⟨[(0, 0)], 0b0101⟩
    ∧ (aluAdd 8 0 [0, 0x7F, 1]).map (fun o => (o.writes, flagV o.flags, flagN o.flags, flagC o.flags))
      = some ([(0, 0x80)], true, true, false) := by decide

/-- 0 − 1 borrows; −128 by −1 gives itself with v (R236, R238). -/
theorem test_sub_div : (aluSub 8 0 [0, 0, 1]).map (fun o => (o.writes, flagC o.flags, flagN o.flags)) = some ([(0, 0xFF)], true, true)
    ∧ (aluDivs 8 0 [0, 0x80, 0xFF]).map (fun o => (o.writes, flagV o.flags)) = some ([(0, 0x80)], true) := by decide

/-- The bytes of a branch or a jump, +0x40. -/
theorem wit_ControlTransfer_branch : branchRows.all (fun row =>
    meets (onThr srv u [row.2.1, 0x80, 0x40] Thread.init) u (fun i _ evs _ => i.op == row.2.1 && evs.length == 1)) = true := by
  decide +kernel

theorem wit_ControlTransfer_others :
    meets (onThr srv u ([0x81] ++ dst 2 0x10 ++ [0x80, 0x40]) Thread.init) u (fun i _ evs _ => i.op == 0x81 && evs.length == 2) = true
    ∧ meets (onThr srv u ([0x82] ++ dst 2 0x10) Thread.init) u (fun i _ evs _ => i.op == 0x82 && evs.length == 1) = true
    ∧ meets (onThr srv u ([0x83] ++ dst 2 0x10 ++ [0x80, 0x40]) Thread.init) u (fun i _ evs _ => i.op == 0x83 && evs.length == 2)
      = true := by decide

/-- Opcodes whose witnesses need their operands' number only. -/
theorem wit_SystemInstructions : [([0xD2, 0], 0), ([0xD3, 0], 0), ([0xD4, 0], 0), ([0xD0] ++ dst 2 0x10 ++ [0x00, 5], 2),
      ([0xD1, 0x00, 1] ++ imm32 1, 2), ([0xC0] ++ dst 2 0x10, 1), ([0xC2] ++ dst 2 0x10 ++ [0x30, 9, 0, 0, 0] ++ imm32 1, 3),
      ([0xC3] ++ dst 2 0x10 ++ [0x30, 9, 0, 0, 0] ++ imm32 1, 3), ([0xC4] ++ dst 2 0x10 ++ imm32 1, 2), ([0xC1] ++ imm32 0xF800, 1),
      ([0x86, 0], 0)].all (fun x =>
        meets (onThr srv u x.1 Thread.init) u (fun i _ evs _ => i.op == x.1.getD 0 0 && evs.length == x.2
          && (i.op != 0xC1 || bits (evs.getD 0 ⟨.s, Opnd.base 0 0 false, .imm 0, 1⟩).val 31 16 == 0))) = true := by decide +kernel

/-- REP INC: 2 more iterations; REP with the count to come; a macro of one INC of its operand; its micro-step. -/
def repDev (t : Thread) : Dev := onThr srv u ([0xF0, 0x00, 2, 0x25] ++ dst 2 0x10) t

theorem wit_SystemInstructions_rep : (match (repDev { Thread.init with repAt := some 0, cnt := 2 }).decodeAt u with
      | .ok i => i.rep.isSome && (semOf i.op).isSome
          && (match i.rep with
              | some o =>
                (((repDev { Thread.init with repAt := some 0, cnt := 2 }).unstill u).clockPass 0 [(.s, o)]).repAtPc u
                && !((repDev Thread.init).unstill u |>.clockPass 0 [(.s, o)]).repAtPc u
                && (match ((repDev Thread.init).unstill u |>.clockPass 0 [(.s, o)]).repCount u o with
                    | .ok d => (d.thr u).cnt == 2
                    | .error _ => false)
              | none => false)
          && (match (repDev { Thread.init with repAt := some 0, cnt := 2 }).evalOps u i.op [] 0 [] i.ops with
              | .ok (evs, b) => (match semOf i.op with
                  | some f => (match f ((repDev Thread.init).setBases u b) u i evs with | .ok _ => true | .error _ => false)
                  | none => false)
              | .error _ => false)
      | .error _ => false) = true := by decide +kernel

/-- Macro (0xE8, 0): slot 1, one micro-step, one operand of role M and any size; slot 1 is INC of macro operand 0. -/
def macroDev (t : Thread) : Dev :=
  let d := onThr srv u ([0xE8, 0] ++ dst 2 0x10) t
  d.onCores (fun c => { c with tabA := [(0x200000, 1), (0x200002, 1), (0x200003, 1), (0x200004, 1), (0x200005, 63),
    (0x208010, 0x25), (0x208011, 0x2C)].foldl (fun m e => spSet 0 m e.1 (BitVec.ofNat 8 e.2)) c.tabA })

theorem wit_SystemInstructions_macro : (match (macroDev Thread.init).decodeAt u with
      | .ok i => ((macroDev Thread.init).macroDef 0 i.op i.fn) == some ⟨1, 1, [(1, 63)]⟩
          && (match (macroDev Thread.init).macroLocs u 0 [] i.ops with
              | .ok (ls, _) => ls == [.mem 0x10]
              | .error _ => false)
      | .error _ => false) = true
    ∧ (match (macroDev Thread.init).decodeMicro 0 1 with
      | .ok i => i.op == 0x25 && (aluOf i.op).isSome && (match (macroDev Thread.init).evalOps u i.op [.mem 0x10] 0 [] i.ops with
          | .ok (evs, _) => (match aluOf i.op with | some f => (f i.width 0 (evVals i evs)).isSome | none => false)
          | .error _ => false)
      | .error _ => false) = true
    ∧ ((macroDev { Thread.init with macroRun := some ⟨5, 1, 1, 0, [.mem 0x10]⟩ }).thr u).macroRun = some ⟨5, 1, 1, 0, [.mem 0x10]⟩
      := by decide +kernel

/-- REP with a count of 0; a micro-step that acquires Latch 0. -/
theorem wit_SystemInstructions_corners :
    (let bs := [0xF0, 0x00, 0, 0x25] ++ dst 2 0x10
     let d := onThr srv u bs Thread.init
     match d.decodeAt u with
     | .ok i => (match i.rep with
        | some o => let c := (d.unstill u).clockPass 0 [(.s, o)]
            !c.repAtPc u && (match c.repCount u o with | .ok e => (e.thr u).cnt == 0 | .error _ => false)
        | none => false)
     | .error _ => false) = true
    ∧ (let d := (macroDev { Thread.init with macroRun := some ⟨5, 1, 1, 0, [.mem 0x10]⟩ }).onCores (fun c => { c with
          tabA := [(0x208010, 0x01), (0x208011, 0x2C), (0x208012, 0), (0x208013, 0x27), (0x208014, 0xFE), (0x208015, 0),
            (0x208016, 0), (0x208017, 0)].foldl (fun m e => spSet 0 m e.1 (BitVec.ofNat 8 e.2)) c.tabA })
       let v := d.unstill u
       match v.decodeMicro (v.thr u).codeGen 1 with
       | .ok i => latchMov i && (match (v.atIssue u i).operandsOf u i.op [.mem 0x10] i.ops with | .ok _ => true | .error _ => false)
       | .error _ => false) = true := by decide +kernel

theorem wit_EventsAndChannels : srv.serving = true ∧ srv.noPath 3 = false
    ∧ (let d := (srvAt 9).setThr u { Thread.init with state := .waiting, wait := { Wait.idle with kind := .waittD, value := 9 } }
       (d.thr u).state = .waiting ∧ (d.thr u).wait.kind = .waittD ∧ (d.thr u).wait.value ≤ d.drip.now) := by decide

/-- A WFE of a keeper, a WAITT.C, whose deadline is reached; threads of no macro whose wait ends, a keeper by a code load. -/
theorem wit_EventsAndChannels_waits : (let d := (srvAt 9).setThr k { Thread.init with
        state := .waiting, wait := { Wait.idle with kind := .wfe, value := 9 } }
      (d.thr k).state = .waiting ∧ (d.thr k).wait.kind = .wfe ∧ d.isKeeper k = true ∧ (d.thr k).wait.value ≤ d.drip.now)
    ∧ (let d := srv.setThr u { Thread.init with state := .waiting, wait := { Wait.idle with kind := .waittC } }
      (d.thr u).state = .waiting ∧ (d.thr u).wait.kind = .waittC ∧ (d.thr u).wait.value ≤ d.lastCycle)
    ∧ (let d := srv.setThr u { Thread.init with evp := 1, state := .waiting, wait := { Wait.idle with
          kind := .wfe, dst := .mem 0x10 } }
      d.isKeeper u = false ∧ (d.thr u).macroRun = none ∧ (d.thr u).wait.dst = .mem 0x10 ∧ bitOf (evMask (d.isKeeper u)) 0 = true)
    ∧ (let d := srv.setThr k { Thread.init with ev := w32 (2 ^ Ev.code), evp := w32 (2 ^ Ev.code), wait := { Wait.idle with
          kind := .wfe } }
      d.isKeeper k = true
      ∧ bitOf ((d.thr k).evp.toNat &&& (d.waitMask k ||| (if d.isWaitt k then 2 ^ Ev.time else 0))) Ev.code = true) := by decide

/-- An event for a thread that does not wait, and for one that waits for it. -/
theorem wit_EventsAndChannels_event : ∀ w ∈ [false, true], let d := srv.setThr u { Thread.init with
      ev := 1, state := if w then .waiting else .ready, wait := { Wait.idle with kind := .wfe } }
    let p := d.updThr u (fun t => { t with evp := t.evp ||| w32 (2 ^ 0) })
    bitOf (evMask (d.isKeeper u)) 0 = true ∧ (d.thr u).eventWait = w
    ∧ (w = true → (p.thr u).evp.toNat &&& p.waitMask u ≠ 0) := by decide

/-- Channel 255 of gallery 0 is received by thread 1 of core 0, with `n` messages. -/
def chanDev (bs : List Nat) (n : Nat) : Dev :=
  (onThr (withReg srv (R.gallChan + 4 * 255) (1 + 1 * 2 ^ 4)) u bs Thread.init).setChan 0 255 (List.replicate n ⟨[], 0, 0⟩)

theorem wit_EventsAndChannels_send : [0xC8, 0xC9].all (fun op =>
    meets (onThr srv u [op, 0x00, 255] Thread.init) u (fun i e evs _ => i.op == op && evs.length == 1 && !e.maySend u 255)
    && meets (chanDev [op, 0x00, 255] 3) u (fun _ e evs _ => evs.map chanNo == [255] && e.maySend u 255 && decide ((e.chan 0 255).length < 4))
    && meets (chanDev [op, 0x00, 255] 4) u (fun _ e _ _ => e.maySend u 255 && decide (4 ≤ (e.chan 0 255).length))) = true := by
  decide +kernel

theorem wit_EventsAndChannels_receive : [0xCA, 0xCB].all (fun op =>
    let bs := [op] ++ dst 5 0x40 ++ dst 2 0x10 ++ [0x00, 255]
    meets (onThr srv u bs Thread.init) u (fun i e evs _ => i.op == op && evs.length == 3 && e.chanRx 0 255 != some u)
    && meets (chanDev bs 1) u (fun _ e evs _ => evs.length == 3 && e.chanRx 0 255 == some u && (e.chan 0 255).length == 1)
    && meets (chanDev bs 0) u (fun _ e _ _ => e.chanRx 0 255 == some u && e.chan 0 255 == [])) = true := by decide +kernel

theorem wit_ThreadControl : ((srv.setThr u { Thread.init with state := .parked }).thr u).state = .parked
    ∧ (srv.setThr u { Thread.init with state := .parked }).cellsOf (ownerTag u) = []
    ∧ ((chains srv (ownerTag u) 0).cellsOf (ownerTag u)) ≠ [] ∧ (srv.thr u).state ≠ .parked
    ∧ srv.tidAt 0 1 0 = some ⟨0, 1, 0⟩ ∧ (⟨0, 1, 0⟩ : Tid) ≠ k ∧ bits (1 + 1 * 2 ^ 6) 7 6 = 1 ∧ bits 1 7 6 = 0 := by decide

/-- TEND with a tag outstanding and with none; UNPARK of a parked keeper; GALL_THR_CTL by the head keeper and the host. -/
theorem wit_ThreadControl_more : meets (onThr srv u [0x86, 0] { Thread.init with tags := [(3, .outstanding)] }) u (fun i e _ _ =>
      i.op == 0x86 && (e.thr u).outstanding) = true ∧ (srv.thr u).outstanding = false
    ∧ ((srv.setThr k { Thread.init with state := .parked }).thr k).state = .parked ∧ srv.isKeeper k = true
    ∧ (srv.setThr k { Thread.init with state := .parked }).cellsOf (ownerTag k) = []
    ∧ srv.noPath 2 = false ∧ srv.noPath 3 = false ∧ (15 : Nat) < 16 ∧ bits (2 + 6 * 2 ^ 3 + 2 ^ 6) 7 6 = 1
    ∧ (srv.tidAt 15 (bits (2 + 6 * 2 ^ 3 + 2 ^ 6) 2 0) (bits (2 + 6 * 2 ^ 3 + 2 ^ 6) 5 3)).isSome = true := by decide

theorem wit_ThreadControl_issued : [0, 1].all (fun op =>
    meets (onThr srv k ([0xE6, 0x10, 1 + 64 * op, 0]) Thread.init) k (fun i e evs _ => i.op == 0xE6 && srv.isKeeper k
      && match evs with
         | [x] => bits x.val 7 6 == op && bits x.val 15 8 == 0 && e.tidAt 0 (bits x.val 2 0) (bits x.val 5 3) == some ⟨0, 1, 0⟩
         | _ => false)
    && meets (onThr srv u ([0xE6, 0x10, 1 + 64 * op, 0]) Thread.init) u (fun i e _ _ => i.op == 0xE6 && !e.isKeeper u)) = true := by
  decide +kernel

/-! ## Helper commands -/

/-- A 64-byte block with the named bytes. -/
def block (l : List (Nat × Nat)) : Bytes := (List.range 64).map (fun i => BitVec.ofNat 8 (((l.find? (fun e => e.1 = i)).map Prod.snd).getD 0))

/-- A queued command of thread `id`. -/
def jobOf (id : Tid) (l : List (Nat × Nat)) : Job :=
  ⟨.thread id, block l, 0, ownerTag id, 0, 0, 0, 0, 0, none, .queued, 0, 0, 0, [], false⟩

/-- Command 1 is `j`, the only one of its core. -/
def withJob (d : Dev) (j : Job) : Dev := (d.setJob 1 j).setHelpQ j.tid [1]

theorem wit_HelperCommands_issue : meets (onThr srv u ([0xE0] ++ dst 5 0 ++ [0x00, 16]) Thread.init) u (fun i _ evs _ =>
      i.op == 0xE0 && match evs with | [_, n] => decide (15 < n.val) | _ => false) = true
    ∧ meets (onThr srv u ([0xE0] ++ dst 5 0 ++ [0x00, 15]) Thread.init) u (fun i e evs _ =>
      i.op == 0xE0 && match evs with
        | [x, n] => decide (n.val ≤ 15) && (e.thr u).tag n.val == .free && e.helpRoom u (x.val % 16)
            && !(e.setHelpQ u (List.replicate 32 1)).helpRoom u (x.val % 16)
        | _ => false) = true
    ∧ meets (onThr srv u ([0xE0] ++ dst 5 0 ++ [0x00, 15]) { Thread.init with tags := [(15, .outstanding)] }) u (fun _ e _ _ =>
      (e.thr u).tag 15 != .free) = true := by decide +kernel

/-- The same with a full queue of the core. -/
theorem wit_HelperCommands_full : meets (onThr (srv.setHelpQ u (List.replicate 32 1)) u ([0xE0] ++ dst 5 0 ++ [0x00, 15]) Thread.init) u
    (fun i e evs _ => i.op == 0xE0 && match evs with
      | [x, n] => decide (n.val ≤ 15) && (e.thr u).tag n.val == .free && !e.helpRoom u (x.val % 16)
      | _ => false) = true := by decide +kernel

theorem wit_HelperCommands_retry : let d := (srvAt 99).onHelp (fun h => { h with retries := [⟨u, 15, block [], 0⟩] })
    d.nextRetry u = some ⟨u, 15, block [], 0⟩ ∧ d.help.retries = [⟨u, 15, block [], 0⟩] ∧ 0 + d.liveFld R.dispCfg 3 0 ≤ d.drip.now := by
  decide

/-- Another thread's retry stands before it. -/
theorem wit_HelperCommands_limit : let p : Retry := ⟨k, 3, block [], 0⟩; let r : Retry := ⟨u, 15, block [], 0⟩
    (srv.onHelp (fun h => { h with retries := [p, r] })).help.retries = [p] ++ r :: [] ∧ (∀ q ∈ [p], q.id ≠ u) ∧ r.id = u := by
  decide

theorem wit_HelperCommands_wait : [TagState.outstanding, .done 5].all (fun t =>
    meets (onThr srv u ([0xE1] ++ [0x00, 15]) { Thread.init with tags := [(15, t)] }) u (fun i e evs _ =>
      i.op == 0xE1 && evs.map Ev1.val == [15] && (e.thr u).tag 15 == t)) = true := by decide +kernel

/-- A queued command of unit 1 under tag 15 is saved; a context of gallery 0 is restored. -/
theorem wit_HelperCommands_contexts :
    meets (onThr (withJob srv { jobOf u [(0, 1)] with tag := 15 }) u ([0xE2] ++ dst 5 0 ++ [0x00, 15])
      { Thread.init with tags := [(15, .outstanding)] }) u (fun i e evs _ =>
        i.op == 0xE2 && match evs with
          | [_, n] => n.val == 15 && (e.thr u).tag 15 != .free && (match e.jobOfTag u 15 with
              | some (m, j) => m == 1 && hasContext j.unit && j.phase == .queued
              | none => false)
          | _ => false) = true
    ∧ meets (onThr (srv.onHelp (fun h => { h with saved := [(0, ⟨0, List.replicate 256 0, jobOf u [(0, 1)]⟩)] })) u
      ([0xE3] ++ dst 5 0 ++ [0x00, 15]) Thread.init) u (fun i e evs _ =>
        i.op == 0xE3 && match evs with
          | [x, n] => n.val == 15 && (e.thr u).tag 15 == .free && e.help.saved.map (fun s => (s.1, s.2.gallery)) == [(0, 0)]
              && leBytes 256 x.val == List.replicate 256 0
          | _ => false) = true := by decide +kernel

theorem wit_HelperCommands_completion : let j := { jobOf u [] with phase := .completed }
    (withJob srv j).job 1 = some j ∧ j.phase = .completed ∧ (withJob srv j).jobLive j = true
    ∧ (withJob srv { j with squashed := true }).jobLive { j with squashed := true } = false := by decide

/-- A thread whose older retry waits; galleries with room for a context and an entry of the log; a thread in HWAIT. -/
theorem wit_HelperCommands_more :
    meets (onThr (srv.onHelp (fun h => { h with retries := [⟨u, 3, block [], 0⟩] })) u ([0xE0] ++ dst 5 0 ++ [0x00, 15]) Thread.init) u
      (fun i e _ _ => i.op == 0xE0 && (e.nextRetry u).isSome) = true
    ∧ (srv.savedOf 0).length < 256 ∧ srv.orphanBusy 0 = false
    ∧ (srv.onDisp (fun x => { x with orphWait := [(0, 0, [])] })).orphanBusy 0 = true
    ∧ (let d := srv.setThr u { Thread.init with state := .waiting, wait := { Wait.idle with kind := .hwait, what := 15 } }
       let e := (d.setTag u 15 (.done 0)).event u Ev.help
       (e.thr u).state = .waiting ∧ (e.thr u).wait.kind = .hwait ∧ (e.thr u).wait.what = 15)
    ∧ (((srv.setTag u 15 (.done 0)).event u Ev.help).thr u).state ≠ .waiting := by decide +kernel

/-- An atomic command on entry 1 of the DATA table 3. -/
def atomJob (op : Nat) : Job := jobOf u [(0, 5), (16, op), (17, 3), (20, 1), (26, 1), (32, 7)]
def atomDev (op : Nat) : Dev := (withJob srv (atomJob op)).onCores (fun c => { c with dirA := [(3, ⟨false, 0x100, 64, 2, .data⟩)] })

theorem wit_AtomicOperations : atomRows.all (fun row => let d := atomDev row.2
    let j := atomJob row.2
    d.takes 1 j 5 && j.op4 == row.2 && !j.headerBad && !bitOf (j.get 16 1) 7 && bits (j.get 16 1) 3 0 == row.2
      && bits (j.get 16 1) 6 4 == 0 && j.get 28 4 == 0 && decide (j.get 32 16 < 2 ^ 32) && decide (j.get 48 16 < 2 ^ 32)
      && ((d.unqueue 1 j).bump (R.ltchCnt + 40)).entOk j.gen (j.get 17 1) (j.get 20 4) (j.get 18 2) 4
      && (d.tabEnt j.gen (j.get 17 1)).kind == .data && j.get 18 2 % 4 == 0 && decide (0x10000 ≤ j.get 24 4)
      && decide (j.get 24 4 + 32 ≤ 0x20000)
      && !((d.unqueue 1 j).bump (R.ltchCnt + 40)).memPoisoned false ((d.tabEnt j.gen 3).place 1 0) 4) = true := by decide +kernel

/-- The bounded increment stops at its bound, not below it. -/
theorem test_binc_bound : atomOp 5 32 9 10 1 = (10, true) ∧ atomOp 5 32 10 10 1 = (10, false) := by decide

/-! ## The dispatcher -/

/-- Task 2 may run on every gallery. -/
def taskDev (d : Dev) : Dev := d.onCores (fun c => { c with tabA := [(0x400014, 0xFF), (0x400015, 0xFF)] })

theorem wit_Dispatcher_dispatch : let d := srv.setReady 15 15 [{ Pkt.empty with prio := 15 }]
    d.dispatches = true ∧ topLevel (d.ready 15) = some 15 ∧ (d.dispatchTo 15).isSome = true
    ∧ d.ready 15 15 = [{ Pkt.empty with prio := 15 }] := by decide

theorem wit_Dispatcher_hold : let d := (taskDev srv).setHoldQ 1 [{ Pkt.empty with task := 2, pipe := 1 }]
    d.holdQ 1 = [{ Pkt.empty with task := 2, pipe := 1 }] ∧ Pkt.empty.keeperOf = none
    ∧ d.chooseGallery (d.taskMask (d.entryGen { Pkt.empty with task := 2, pipe := 1 }) 2) = some 0 := by decide

/-- A held entry that no gallery can take, before a keeper's entry for gallery 3. -/
theorem wit_Dispatcher_hold_order : let p := { Pkt.empty with task := 5 }; let q := { Pkt.empty with keeperOf := some 3 }
    let d := (taskDev srv).setHoldQ 1 [p, q]
    d.holdQ 1 = [p] ++ q :: [] ∧ (∀ x ∈ [p], d.holdChoice x = none) ∧ d.holdChoice q = some 3 ∧ q.keeperOf = some 3 := by decide

theorem wit_Dispatcher_deliver : let d := (withReg srv (R.gallChan + 4 * srv.liveFld R.dispCfg 11 4) 1).setKeeperReady 0 3 [Pkt.empty]
    topLevel (d.keeperReady 0) = some 3 ∧ d.keeper 0 = some k
    ∧ (List.range 64).find? (fun p => (d.pendingAt 0 p).isNone) = some 0 ∧ d.keeperReady 0 3 = [Pkt.empty]
    ∧ d.serving = true ∧ d.chanOn 0 (d.liveFld R.dispCfg 11 4) = true ∧ (d.chan 0 (d.liveFld R.dispCfg 11 4)).length < 4 := by decide

/-- REQUEUE by a keeper of a parked thread's task, SUBMIT of a pending packet; the same by another thread. -/
def dispJob (id : Tid) (op : Nat) : Job := jobOf id [(0, 8), (16, op), (17, if op = 0 then 8 else 63), (18, 2)]
def dispDev (id : Tid) (op : Nat) : Dev :=
  ((taskDev (withJob srv (dispJob id op))).setThr ⟨0, 1, 0⟩ { Thread.init with state := .parked, desc := some Pkt.empty }).onDisp
    (fun x => { x with pending := [(63, Pkt.empty)] })

theorem wit_Dispatcher_keeper : [0, 1].all (fun op =>
    (dispDev u op).takes 1 (dispJob u op) 8 && !(dispJob u op).headerBad && !(dispDev u op).isKeeper u
      && (dispJob u op).get 16 1 == op && (dispDev k op).takes 1 (dispJob k op) 8 && (dispDev k op).isKeeper (dispJob k op).tid) = true
    ∧ (let d := (dispDev k 0).unqueue 1 (dispJob k 0)
       let j := dispJob k 0
       d.mode ≠ Mode.limp ∧ d.tidAt j.tid.g (bits (j.get 17 1) 2 0) (bits (j.get 17 1) 5 3) = some ⟨0, 0, 1⟩)
    ∧ (let d := (dispDev k 1).unqueue 1 (dispJob k 1)
       let j := dispJob k 1
       d.taskMask j.gen (j.get 18 2) ≠ 0 ∧ j.get 24 2 ≤ 4095 ∧ d.pendingAt 0 (bits (j.get 17 1) 5 0) = some Pkt.empty
       ∧ d.chainOwned (ownerTag j.tid) Pkt.empty.chain = true
       ∧ d.chooseGallery (d.taskMask j.gen (j.get 18 2)) = some 0) := by decide +kernel

theorem wit_Dispatcher_requeue : let j := jobOf k [(0, 8), (17, 1)]
    let d := ((withJob srv j).setThr ⟨0, 1, 0⟩ { Thread.init with state := .parked, desc := some Pkt.empty }).unqueue 1 j
    d.tidAt j.tid.g (bits (j.get 17 1) 2 0) (bits (j.get 17 1) 5 3) = some ⟨0, 1, 0⟩ ∧ (d.thr ⟨0, 1, 0⟩).desc = some Pkt.empty
    ∧ (d.thr ⟨0, 1, 0⟩).state = .parked ∧ d.chainOwned (ownerTag j.tid) Pkt.empty.chain = true
    ∧ d.queuedIn j.tid.g < 4096 ∧ j.get 16 1 = 0 := by decide

/-! ## Latches -/

/-- Latches of group 63 are open to every requester, with a wait limit of `t` and a hold limit of 9. -/
def latchDev (t : Nat) : Dev := withReg (withReg srv (R.ltchGrp0 + 8 * 63) 0x3FFFFFF) (R.ltchGrp1 + 8 * 63) (t + 9 * 2 ^ 16)

/-- MOV from ACQ or TRY of Latch 4095, and to its ACQ word; B0 holds the number. -/
def acqBytes (off : Nat) : List Nat := [0x01] ++ dst 2 0x10 ++ [0x27, 0xFE, 0, off, 0]
def relBytes (v : Nat) : List Nat := [0x01, 0x27, 0xFE, 0, 0, 0] ++ imm32 v
def atLatch : Thread := { Thread.init with b := [(0, 4095)] }

theorem wit_LatchAccess_thread : [0, 4].all (fun off => meets (onThr (latchDev 8) u (acqBytes off) atLatch) u (fun i e evs _ =>
      i.op == 1 && latchReads i off && match evs with
        | [_, y] => y.latch == 4095
            && (e.latchAcquire 4095 (ownerTag u) (e.drip.now + e.latchTimeout 4095) (off == 4)).1 == some Code.ok
            && ((e.setLatch 4095 { Latch.init with state := .held, holder := 0x200 }).latchAcquire 4095 (ownerTag u) 8 false).1 == none
        | _ => false)) = true
    ∧ [0, 1].all (fun v => meets (onThr (latchDev 8) u (relBytes v) atLatch) u (fun i _ evs _ =>
      i.op == 1 && latchWrites i && evs.length == 2 && (evVals i evs).getD 1 0 % 4 == v)) = true := by decide +kernel

theorem wit_LatchAccess_waits : meets (onThr ((latchDev 8).setLatch 4095 { Latch.init with state := .held, holder := 0x200 }) u
    (acqBytes 0) atLatch) u (fun _ e _ _ =>
      (e.latchAcquire 4095 (ownerTag u) (e.drip.now + e.latchTimeout 4095) false).1 == none) = true := by decide +kernel

theorem wit_LatchAccess_host : (latchDev 8).serving = true ∧ (latchDev 8).noPath 4 = false
    ∧ (let d := (latchDev 8).setPer 4 R.ltchHostSel 4095
       d.hostLatch 4 = 4095 ∧ (d.latchAcquire 4095 (masterTag 4) 8 true).1 = some Code.ok
       ∧ ((d.setLatch 4095 { Latch.init with state := .held, holder := 0x200 }).latchAcquire 4095 (masterTag 4) 8 false).1 = none) := by
  decide

theorem wit_LatchRules : (latchDev 8).latchAccess 4095 (ownerTag u) = true ∧ ((latchDev 8).latch 4095).state = .free
    ∧ (let held (h : Nat) := (latchDev 8).setLatch 4095 { Latch.init with state := .held, holder := h }
       (((latchDev 8).setLatch 4095 { Latch.init with state := .freePoisoned }).latch 4095).state = .freePoisoned
       ∧ ((held 0x200).latch 4095).state = .held ∧ ((held (ownerTag u)).latch 4095).holder = ownerTag u
       ∧ (held 0x200).latchTimeout 4095 ≠ 0 ∧ ((held 0x200).latch 4095).holder ≠ ownerTag u ∧ (held 0x200).waitsOn 0x200 = none
       ∧ ((held (ownerTag u)).latch 4095).rgen = (held (ownerTag u)).rgenOf (ownerTag u)
       ∧ ((held (ownerTag u)).latch 4095).waiters = []) := by decide

/-- A poisoned Latch; one held by a thread that waits for a Latch of the requester; an ORPHANED one; a strict group; a force by
the keeper of the holder's gallery; a waiter behind the holder. -/
theorem wit_LatchRules_more : let held (h : Nat) (ws : List LWaiter) : Latch :=
      { Latch.init with state := .held, holder := h, waiters := ws }
    let d := (latchDev 8).setLatch 4095 (held 0x200 [])
    let e := d.setLatch 4094 (held (ownerTag u) [⟨0x200, 0, 9⟩])
    e.waitsOn 0x200 = some 4094 ∧ (e.latch 4094).holder = ownerTag u ∧ (e.latch 4095).holder ≠ ownerTag u
    ∧ ((d.setLatch 4095 { Latch.init with state := .orphaned }).latch 4095).state = .orphaned
    ∧ (withReg d (R.ltchGrp0 + 8 * 63) 0x7FFFFFF).latchStrict 4095 = true
    ∧ (withReg d (R.ltchGrp0 + 8 * 63) 0x7FFFFFF).latchAccess 4095 (ownerTag u) = true
    ∧ d.latchForcer 4095 (ownerTag k) = true ∧ d.latchAccess 4095 (ownerTag k) = true
    ∧ ((d.setLatch 4095 (held 0x200 [⟨ownerTag u, 0, 9⟩])).latch 4095).waiters = [⟨ownerTag u, 0, 9⟩]
    ∧ tidOfTag (ownerTag u) = some u := by decide

/-- A waiter whose limit is reached, behind a Latch with one whose limit is not; a Latch held too long. -/
theorem wit_LatchRules_limits : (let v := { Latch.init with state := .held, holder := 0x200, waiters := [⟨ownerTag u, 0, 10⟩] }
      let w := { Latch.init with state := .held, holder := 0x200, waiters := [⟨ownerTag u, 0, 9⟩] }
      let d := ((srvAt 9).setLatch 4094 v).setLatch 4095 w
      d.latches = [(4094, v)] ++ (4095, w) :: [] ∧ d.latch 4095 = w
      ∧ (∀ y ∈ [((4094 : Nat), v)], ∀ z ∈ y.2.waiters, z.tag ≠ whoTag (.thread u) ∨ d.drip.now < z.deadline)
      ∧ w.waiters.find? (fun x => x.tag = whoTag (.thread u) && x.deadline ≤ d.drip.now) = some ⟨ownerTag u, 0, 9⟩)
    ∧ (let d := (withReg (srvAt 9) (R.ltchGrp1 + 8 * 63) (9 * 2 ^ 16)).setLatch 4095 { Latch.init with state := .held }
       (d.latch 4095).state = .held ∧ (d.latch 4095).reported = false ∧ (d.latch 4095).granted + d.latchHold 4095 ≤ d.drip.now) := by
  decide

/-! ## Seal, hash and format engines -/

theorem wit_SealCommands_takes : sealRows.all (fun row =>
    let j := jobOf u [(16, row.2), (18, 0x80)]
    (withJob srv j).takes 1 j 0 && j.sealOp == row.2 && ((withJob srv j).unqueue 1 j).sealCheck j != Code.ok) = true := by
  decide +kernel

/-- A sound VERIFY of Ed25519 with the public key by pointer. -/
def verifyJob : Job := jobOf u [(16, 1), (17, 3), (18, 2), (24, 4), (28, 64), (34, 1), (41, 1), (42, 1), (49, 2), (50, 1)]

theorem wit_SealCommands_check : (withJob srv verifyJob).takes 1 verifyJob 0 = true
    ∧ ((withJob srv verifyJob).unqueue 1 verifyJob).sealCheck verifyJob = Code.ok := by decide +kernel

/-- SEAL owned by the host; key slot 5. -/
def sealHost : Dev := srv.setIo (R.dripOwn + 60) 8
def keyed (susp : Bool) : Dev := srv.setKeySlot 5 ⟨susp, 3, 0, 0, 0, 0, 0⟩

theorem wit_SealCommands_slots : (2 ^ 16 - 1 : Nat) < 2 ^ 16 ∧ sealHost.noPath 3 = false ∧ sealHost.serving = true ∧ sealHost.owns 3 15 = true
    ∧ srv.keySlot 5 = none ∧ (keyed false).keySlot 5 = some ⟨false, 3, 0, 0, 0, 0, 0⟩
    ∧ (keyed true).keySlot 5 = some ⟨true, 3, 0, 0, 0, 0, 0⟩ ∧ true = ((0 : Nat) == 0) ∧ false = ((1 : Nat) == 0) := by decide

/-- A job to be performed, waiting or on engine 0. -/
def item (j : Nat) (s : SealStage) : SealItem := ⟨j, 0, s, [], 0, 0, 0, true, [], [], [], [], false, none, true⟩
def queued1 : Dev := (withJob srv verifyJob).onPool (fun p => { p with queue := [item 1 .perform] })
def running1 : Dev := (withJob srv verifyJob).setEng 0 { SealEng.init 0 with jobs := [item 1 .perform] }

theorem wit_SealPool : queued1.serving = true ∧ queued1.nextSeal 0 = some (item 1 .perform)
    ∧ queued1.chooseEng (item 1 .perform) = some 0
    ∧ running1.serving = true ∧ (running1.eng 0).state = .active ∧ (running1.eng 0).jobs = [item 1 .perform]
    ∧ running1.job 1 = some verifyJob ∧ (jobOf u [(16, 5)]).sealOp = 5 := by decide +kernel

/-- A SIGN verified and ready for release; a job whose own check agrees. -/
def signJob : Job := jobOf u [(20, 5), (34, 1), (41, 1), (42, 1), (49, 2), (50, 1)]
theorem wit_SealPool_release : (withJob (keyed false) signJob).job (item 1 .selfVerify).job = some signJob ∧ signJob.sealOp = 0
    ∧ (item 1 .selfVerify).gone = none ∧ (withJob (keyed false) signJob).keySlot signJob.keySlot = some ⟨false, 3, 0, 0, 0, 0, 0⟩
    ∧ (item 1 .selfVerify).stage = .selfVerify
    ∧ verdictOwn signJob { item 1 .selfVerify with good := true } (Config.keyPairOk signJob.alg []) = true := by
  refine ⟨by decide, by decide, rfl, by decide, rfl, ?_⟩
  simp [verdictOwn, item]

/-- The checks of a seal command in turn: a slot whose policy forbids it, an unknown version, an op that is reserved. -/
theorem wit_SealCommands_order : (let d := (withJob (keyed false) signJob).unqueue 1 signJob
      d.cmdCheck signJob signJob.sealPtrs false = Code.ok ∧ signJob.slotted = true
      ∧ d.keySlot signJob.keySlot = some ⟨false, 3, 0, 0, 0, 0, 0⟩)
    ∧ (let j := jobOf u [(16, 1), (20, 5)]
       let d := (withJob srv j).unqueue 1 j
       d.cmdCheck j j.sealPtrs false = Code.ok ∧ d.keySlot j.keySlot = none ∧ algOf 0xFF = none)
    ∧ (let j := jobOf u [(0, 0x10)]
       ((withJob srv j).unqueue 1 j).cmdCheck j j.sealPtrs false ≠ Code.ok) := by decide +kernel

/-- A slot of a policy that permits nothing, and of one that permits it; a KEX_DERIVE whose head has another version; no program. -/
theorem wit_SealCommands_slot : (let d := (withJob (keyed false) signJob).unqueue 1 signJob
      d.slotPermits signJob ⟨false, 3, 0, 0, 0, 0, 0⟩ = false
      ∧ (withReg d R.sealPolicy 0xFFFFFFFF).slotPermits signJob ⟨false, 3, 0, 0, 0, 0, 0⟩ = true)
    ∧ (let j := jobOf u [(16, 7), (24, 64), (34, 1)]
       let d := (withJob srv j).unqueue 1 j
       j.slotted = false ∧ d.sealVersion j = true) ∧ (jobOf u [(16, 1)]).slotted = true ∧ srv.sealVersion signJob = false := by
  decide +kernel

theorem wit_EngineHealth_retire : srv.pool.engs.length = 104 ∧ srv.fmt.engs.length = 18
    ∧ (List.range 104).find? (fun x => (srv.eng x).state = .spare) = some 96
    ∧ (List.range 18).find? (fun x => (srv.fmtEng x).state = .spare) = some 16 := by decide +kernel

theorem wit_EngineHealth : (running1.eng 0).jobs ≠ [] ∧ ((srvAt (2 ^ 26)).eng 103).state = .spare
    ∧ (srvAt (2 ^ 26)).serving = true ∧ ((srvAt (2 ^ 26)).eng 95).state = .active
    ∧ ((srvAt (2 ^ 26)).eng 95).lastKat + (srvAt (2 ^ 26)).liveFld R.sealCfg 23 8 * 1024 ≤ (srvAt (2 ^ 26)).drip.now
    ∧ ((srv.setEng 103 { SealEng.init 103 with state := .starting }).eng 103).state = .starting
    ∧ sealHost.owns 3 15 = true ∧ (sealHost.eng 95).state = .active ∧ 31 ∉ srv.pool.hashFenced
    ∧ ((srv.setFmtEng 17 ⟨.starting, 0, [], 0⟩).fmtEng 17).state = .starting
    ∧ ((srv.setFmtEng 0 ⟨.active, 0, [⟨1, [], []⟩], 0⟩).fmtEng 0).jobs ≠ []
    ∧ (srv.fmtEng 15).state = .active
    ∧ (srv.fmtEng 15).lastKat + (srvAt (2 ^ 26)).liveFld R.fmteCfg 16 1 * 1024 ≤ (srvAt (2 ^ 26)).drip.now
    ∧ (srv.setIo (R.dripOwn + 64) 8).owns 3 16 = true := by decide +kernel

/-- A hash command of 4 bytes at 0x10000, its digest to 0x10100, its state area in table SRAM at 0x100. -/
def hashJob (op : Nat) : Job := jobOf u [(0, 2), (16, op), (24, 4), (34, 1), (41, 1), (42, 1), (49, 1), (55, 0x40)]
def hashDev (op : Nat) : Dev := (withJob srv (hashJob op)).onHelp (fun h => { h with opSize := 2 ^ 20, hashes := [(0, [1])] })

theorem wit_HashAndFormatCommands_hash : hashRows.all (fun row => let j := hashJob row.2
    let d := hashDev row.2
    d.takes 1 j 2 && j.get 16 1 == row.2 && decide (d.pool.hashFenced.length < 32) && decide (j.get 17 1 ≤ 2)
      && decide (j.inLen ≤ 65536) && d.cmdCheck j j.hashPtrs false == Code.ok
      && (d.poisonAns (j.hashPtrs.filter (fun x => x.1 ≠ j.ptr 40))).isNone) = true := by decide +kernel

/-- A state area as the hash unit writes it is found again. -/
theorem wit_HashAndFormatCommands_area (op : Nat) : let d := (hashDev op).setMemBytes false 0x100 (hashArea 0 [1])
    d.hashFind (d.memBytes false 0x100 256) = some (0, [1]) := by
  have h : (hashArea 0 [1]).length = 256 := by simp [hashArea]
  have he : ∀ (d : Dev) a bs, (d.setMemBytes false a bs).help = d.help := fun d a bs => by
    induction bs generalizing d a with
    | nil => rfl
    | cons b bs ih => rw [Dev.setMemBytes, ih]; rfl
  simp only [← h, Dev.memBytes_setMemBytes_sram, Dev.hashFind, he]
  simp [hashDev, Dev.onHelp]

/-- Format programs: none, so the pool refuses; and program 0, with a sound command. -/
def fmtJob (op : Nat) : Job :=
  jobOf u ([(0, 1), (16, op), (24, 4), (34, 1), (49, 2), (50, 1)] ++ if op = 0 then [(28, 64), (41, 1), (42, 1)] else [])
def fmtDev (op : Nat) : Dev := withReg (withJob srv (fmtJob op)) R.fmteProg (2 ^ 31)

theorem wit_HashAndFormatCommands_format : [0, 1].all (fun op => let j := fmtJob op
    (fmtDev op).takes 1 j 1 && j.op4 == op && ((fmtDev op).unqueue 1 j).fmtCheck j == (0, 0)
      && (((withJob srv j).unqueue 1 j).fmtCheck j).1 != 0) = true := by decide +kernel

/-- A job barred from every engine waits before one that an engine may take. -/
theorem wit_HashAndFormatCommands_queue : let p : FmtItem := ⟨1, List.range 18, []⟩; let q : FmtItem := ⟨2, [], []⟩
    let d := srv.onFmt (fun x => { x with queue := [p, q] })
    d.fmt.queue = [p] ++ q :: [] ∧ (∀ x ∈ [p], d.chooseFmt x = none) ∧ d.chooseFmt q = some 0 := by decide

/-- Format program 0 exists. -/
theorem wit_HashAndFormatCommands_program : ((fmtDev 0).fmtProg 0 (fmtJob 0).prog).isSome = true := by decide +kernel

theorem wit_EngineHealth_format : (let d := srv.onFmt (fun p => { p with queue := [⟨1, [], []⟩] })
      d.serving = true ∧ d.fmt.queue = [⟨1, [], []⟩] ∧ d.chooseFmt ⟨1, [], []⟩ = some 0)
    ∧ (let d := (fmtDev 0).setFmtEng 0 ⟨.active, 0, [⟨1, [], []⟩], 0⟩
       (d.fmtEng 0).state = .active ∧ (d.fmtEng 0).jobs = [⟨1, [], []⟩] ∧ (d.job 1).isSome = true) := by decide +kernel

/-! ## The Lode -/

def lodeJob (op : Nat) : Job := jobOf u ([(0, 4), (16, op)] ++ (if op ≤ 2 then [(34, 1)] else []) ++
  if op ≤ 1 ∨ op = 4 then [(41, 1), (42, 1)] else [])
def lodeDev (op : Nat) : Dev := withReg (withJob srv (lodeJob op)) R.lodeBank1 0xFFFF

theorem wit_LodeCommands_job : lodeRows.all (fun row => let j := lodeJob row.2
    let d := (lodeDev row.2).unqueue 1 j
    (lodeDev row.2).takes 1 j 4 && j.op4 == row.2 && d.cmdCheck j j.lodePtrs false == Code.ok
      && (d.lodeAskJob j).code == Code.ok && (d.poisonAns (j.lodePtrs.filter (fun x => x.1 ≠ j.ptr 40))).isNone) = true := by
  decide +kernel

theorem wit_LodeCommands_master : lodeRows.all (fun row =>
    let d := (srv.setIo (R.dripOwn + 32) 8).setPer 3 R.lodeHcmd (row.2 * 2 ^ 18)
    !d.noPath 3 && d.serving && (d.lodeAskMaster 3).op == row.2 && !bitOf (d.per 3 R.lodeHstat) 0
      && (d.lodeAskMaster 3).code == Code.ok && bitOf ((d.setPer 3 R.lodeHstat 1).per 3 R.lodeHstat) 0
      && ((d.setPer 3 R.lodeHcmd (row.2 * 2 ^ 18 + 2 ^ 31)).lodeAskMaster 3).code != Code.ok) = true := by decide +kernel

def lodeCmd (op : Nat) : LodeCmd := ⟨.master 3, op, 0, 0, [], 0, 0⟩

theorem wit_LodeCommands_ops : (lodeCmd 2).op = 2 ∧ (lodeCmd 3).op = 3 ∧ (lodeCmd 2).row ≠ 1 := by decide

theorem wit_LodeCommands_slots : (let d := srv.onLode (fun l => { l with slot := 7, updates := [lodeCmd 2] })
      d.lode.slot < d.lodeSlots ∧ d.lode.slot % 8 = 7 ∧ d.drip.lodeUsed < d.ioFld R.dripBudget 15 8 ∧ d.lode.updates = [lodeCmd 2])
    ∧ (let d := srv.onLode (fun l => { l with searches := [lodeCmd 0] })
       d.lode.slot < d.lodeSlots ∧ d.lode.slot % 8 ≠ 7 ∧ (lodeCmd 0).op ≠ 1 ∧ d.lode.searches = [lodeCmd 0])
    ∧ (let d := (srvAt 1024).onLode (fun l => { l with searches := [lodeCmd 1] })
       d.lode.searches = [lodeCmd 1] ∧ (lodeCmd 1).op = 1 ∧ (lodeCmd 1).since + 1024 ≤ d.drip.now)
    ∧ (2 ^ 18 - 1 : Nat) < 2 ^ 18 ∧ 262143 ∉ srv.lode.hurt := by decide

/-- A W search beyond the drip's allowance waits before a T search. -/
theorem wit_LodeCommands_searches : let d := srv.onLode (fun l => { l with searches := [lodeCmd 1, lodeCmd 0], wUsed := 10 ^ 6 })
    d.lode.searches = [lodeCmd 1] ++ lodeCmd 0 :: [] ∧ d.lode.updates = []
    ∧ (∀ x ∈ [lodeCmd 1], (d.onLode (fun l => { l with slot := l.slot + 1 })).mayRun x = false)
    ∧ (d.onLode (fun l => { l with slot := l.slot + 1 })).mayRun (lodeCmd 0) = true := by decide

/-- Two rows of the same priority: the lower number wins; a higher priority wins against it. -/
theorem wit_LodeWinner : spSorted [(3, { LodeRow.none with prio := 1 }), (7, { LodeRow.none with prio := 1 })] = true
    ∧ (lodeBest [(3, { LodeRow.none with prio := 1 }), (7, { LodeRow.none with prio := 1 })]).map Prod.fst = some 3
    ∧ (lodeBest [(3, { LodeRow.none with prio := 1 }), (7, { LodeRow.none with prio := 2 })]).map Prod.fst = some 7 := by decide

/-! ## The Strongroom and the Cellarbook -/

/-- A thread's Strongroom command; the head keeper's for TOD_SET and CAL_SET. -/
def srJob (op : Nat) (step : Nat) : Job := jobOf k ([(0, 7), (16, op)] ++ (if op = 0 then [(18, 255), (19, 3), (20, step)] else []) ++
  (if op ≤ 1 then [(41, 1), (42, 1)] else []) ++ if op = 3 then [(33, 1), (39, 0x40)] else [])
def srDev (d : Dev) (j : Job) : Dev := (withReg (withJob d j) R.bookSracc 0xFFFFFFFF).onHelp (fun h => { h with opSize := 2 ^ 20 })
def srTaken (op step : Nat) : Dev := ((srDev srv (srJob op step)).unqueue 1 (srJob op step)).setJob 1 { srJob op step with phase := .running }

theorem wit_StrongroomCommands_refused : srRows.all (fun row => let j := srJob row.2 1
    (withJob srv j).takes 1 j 7 && srOp (slice j.block 16 48) == row.2 && srv.strong.powered
      && ((withReg (srTaken row.2 1) R.bookSracc 0).srJobCode 1 j (slice j.block 16 48) (List.replicate 256 0)) != Code.ok) = true := by
  decide +kernel

theorem wit_StrongroomCommands_accepted : [(0, 1), (0, 0), (1, 0), (2, 0)].all (fun x => let j := srJob x.1 x.2
    (srDev srv j).takes 1 j 7 && srOp (slice j.block 16 48) == x.1
      && (srTaken x.1 x.2).srJobCode 1 j (slice j.block 16 48) [] == Code.ok
      && ((srTaken x.1 x.2).poisonAns (j.srPtrs.filter (fun x => x.2 = 256))).isNone
      && (srCount (slice j.block 16 48) != 0) == (x.2 != 0) && decide (srClass (slice j.block 16 48) = if x.1 = 0 then 1023 else 0)) = true := by
  decide +kernel

/-- A block that enrols a calibration key in a Strongroom that has none. -/
def calBlock : Bytes := [0x4B, 0x58, 0x43, 0x4C, 1, 0, 0, 0] ++ srBytes 0x70 2 ++ [0, 0, 0, 0, 67, 0, 0, 0] ++ List.replicate 232 0

theorem calBlock_code : Strong.init.calCode calBlock = Code.ok := by
  have h8 : slice calBlock 8 8 = srBytes 0x70 2 := by rfl
  have h : leAt calBlock 0 4 = 0x4C43584B ∧ leAt calBlock 4 1 = 1 ∧ leAt calBlock 5 3 = 0 ∧ leAt calBlock 16 4 = 0
      ∧ calTarget calBlock = 67 ∧ leAt calBlock 22 2 = 0 ∧ leAt calBlock 56 8 = 0 ∧ leAt calBlock 128 128 = 0 := by decide +kernel
  obtain ⟨h1, h2, h3, h4, h5, h6, h7, h9⟩ := h
  have hb : calBad calBlock = false := by simp [calBad, h1, h3, h5, h6, h7, h8, h9]
  simp [Strong.calCode, hb, h2, h4, h5, Strong.calSigned, Strong.init]

/-- A broken seal, after `n` changes. -/
def strongAt0 (n : Nat) : Dev := srv.onStrong (fun x => { x with sealOk := false, chg := n })

/-- The CAL_SET command taken by the Strongroom; a device whose table SRAM holds the block. -/
def calTakenOf (d : Dev) : Dev := ((srDev d (srJob 3 0)).unqueue 1 (srJob 3 0)).setJob 1 { srJob 3 0 with phase := .running }
def calDev : Dev := srv.setMemBytes false 0x100 calBlock

theorem calTakenOf_strong (d : Dev) : (calTakenOf d).strong = d.strong := rfl
theorem calTakenOf_sram (d : Dev) : (calTakenOf d).cores.sram = d.cores.sram := rfl

theorem memBytes_congr (d e : Dev) (a n : Nat) (h : d.cores.sram = e.cores.sram) :
    d.memBytes false a n = e.memBytes false a n := by simp [Dev.memBytes, Dev.memByte, h]

theorem setMemBytes_strong (d : Dev) (dram : Bool) (a : Nat) (bs : Bytes) : (d.setMemBytes dram a bs).strong = d.strong := by
  induction bs generalizing d a with
  | nil => rfl
  | cons b bs ih =>
    rw [Dev.setMemBytes, ih, Dev.setMemByte]
    split <;> (try split) <;> rfl

theorem wit_StrongroomCommands_calSet : (calTakenOf calDev).ptrBytes (srJob 3 0) ((srJob 3 0).ptr 32) 256 = calBlock
    ∧ (calTakenOf calDev).srJobCode 1 (srJob 3 0) (slice (srJob 3 0).block 16 48) calBlock = Code.ok := by
  have h : calBlock.length = 256 := by decide +kernel
  have hm : calDev.memBytes false 0x100 calBlock.length = calBlock := Dev.memBytes_setMemBytes_sram _ _ _
  rw [h] at hm
  have hp : (srJob 3 0).ptr 32 = ⟨1, 0x100, 0, false⟩ := by decide +kernel
  refine ⟨?_, ?_⟩
  · rw [hp]
    exact (memBytes_congr _ _ 0x100 256 (calTakenOf_sram calDev)).trans hm
  have h1 : (calTakenOf calDev).srAllowed (.job 1) 3 = true := by decide +kernel
  have h2 : (calTakenOf calDev).cmdCheck (srJob 3 0) (srJob 3 0).srPtrs false = Code.ok := by decide +kernel
  have h3 : srOp (slice (srJob 3 0).block 16 48) = 3 ∧ srBad (slice (srJob 3 0).block 16 48) = false ∧ leAt calBlock 4 1 = 1 := by
    decide +kernel
  have h4 : (calTakenOf calDev).strong.calCode calBlock = Code.ok := by
    rw [calTakenOf_strong, calDev, setMemBytes_strong]
    exact calBlock_code
  simp [Dev.srJobCode, h1, h2, h3, Dev.srCode, h4]

theorem wit_StrongroomCommands_master : srRows.all (fun row =>
    let d := withReg (srv.setPer 3 R.bookSrcmd row.2) R.bookSracc 0xFFFFFFFF
    let e := d.setStat 3 R.bookSrcmdStat true 0
    let b := d.perBytes 3 R.bookSrcmd 12
    !d.noPath 3 && d.serving && d.strong.powered && !bitOf (d.per 3 R.bookSrcmdStat) 0 && bitOf (e.per 3 R.bookSrcmdStat) 0 && srOp b == row.2
      && (decide (row.2 ≤ 1) || e.srAllowed (.master 3) row.2) && !srBad b && e.strong.state == 0 && e.dmaCode 3 == Code.ok) = true := by
  decide +kernel

/-- Without access; a TOD_SET in another state; a CAL_SET without Bus Master Enable. -/
theorem wit_StrongroomCommands_master_refused : let d := withReg srv R.bookSracc 0xFFFFFFFF
    (withReg srv R.bookSracc 0).srAllowed (.master 3) 2 = false ∧ d.srAllowed (.master 3) 2 = true
    ∧ (d.onStrong (fun x => { x with state := 3 })).strong.state ≠ 0
    ∧ (d.onHost (fun h => { h with bme := [false, false] })).dmaCode 3 ≠ Code.ok ∧ d.srAllowed (.master 3) 3 = true := by decide +kernel

/-- CAL_SET blocks: a bad one of version 1, a sound one at another change counter, a signed one with the seal broken. -/
theorem wit_StrongroomCommands_blocks : calBad (List.replicate 4 0 ++ [1]) = true ∧ leAt (List.replicate 4 0 ++ [1]) 4 1 = 1
    ∧ leAt calBlock 16 4 ≠ (strongAt0 1).strong.chg ∧ leAt calBlock 16 4 = (strongAt0 0).strong.chg
    ∧ (strongAt0 0).strong.sealOk = false := by decide +kernel

theorem wit_StrongroomCommands_values : calTarget (List.replicate 256 0) = 0 ∧ calTarget (List.replicate 20 0 ++ [64]) = 64
    ∧ calTarget (List.replicate 20 0 ++ [65]) = 65 ∧ calTarget (List.replicate 20 0 ++ [67]) = 67 ∧ calTarget (List.replicate 20 0 ++ [63]) = 63
    ∧ (let b : Bytes := List.replicate 4 0 ++ [1]
       (Strong.init.tally (srClass b)).count + srCount b < 2 ^ 64 ∧ -2 ^ 95 ≤ (0 : Int) + srValue b ∧ (0 : Int) + srValue b < 2 ^ 95
       ∧ 2 ^ 64 ≤ (({ Strong.init with tallies := [(0, ⟨2 ^ 64 - 1, 0, 0⟩)] }).tally (srClass b)).count + srCount b) := by decide

/-- A TALLY, or a held TOD_SET, of the host. -/
def srCmd (op : Nat) : SrCmd := ⟨.master 3, [BitVec.ofNat 8 op], 0⟩
def strongAt (n : Nat) (f : Strong → Strong) : Dev := (srvAt n).onStrong f

theorem wit_StrongroomTime : srv.strong.powered = true ∧ (3 : Nat) ≤ 3
    ∧ 16 ≤ (strongAt 0 (fun x => { x with good := 16 })).strong.good
    ∧ (strongAt 0 (fun x => { x with todWait := [srCmd 2] })).strong.todWait = [srCmd 2] ∧ srv.strong.state = 0
    ∧ srv.strong.todWait = []
    ∧ (let d := strongAt 0 (fun x => { x with time := 256 * 10 ^ 9 })
       d.strong.ppsLast ≠ d.ppsSecond)
    ∧ (let d := strongAt 64 (fun x => { x with queue := [srCmd 0] })
       srCmd 0 ∈ d.strong.queue ++ d.strong.asked ++ d.strong.lost ∧ (srCmd 0).src = .master 3
       ∧ (srCmd 0).accepted + 64 ≤ d.drip.now ∧ Src.master 3 ≠ .master 1) := by decide

/-- A CAL_SET of the host that awaits its block; a CAL_SET block of each order of checks; a batch of TALLYs within the budget. -/
theorem wit_StrongroomTime_more : (let c : SrCmd := ⟨.master 3, [3], 0⟩
      let d := strongAt 64 (fun x => { x with asked := [c] })
      c ∈ d.strong.asked ∧ c.src = .master 3 ∧ c.accepted + 64 ≤ d.drip.now ∧ (3 : Nat) ≠ 1)
    ∧ srv.book.started = false ∧ (srv.onBook (fun b => { b with started := true })).book.started = true
    ∧ bitOf 0 1 = false ∧ bitOf 4 2 = true
    ∧ srBad [3] = false ∧ leAt (List.replicate 256 0) 4 1 ≠ 1 ∧ leAt calBlock 4 1 = 1 ∧ leAt calBlock 16 4 = 0
    ∧ (strongAt 0 (fun x => { x with queue := [srCmd 0, srCmd 0] })).strong.queue = [srCmd 0] ++ [srCmd 0]
    ∧ [srCmd 0].length = (srv.setIo R.dripBudget (2 ^ 16)).ioFld R.dripBudget 23 16
    ∧ [srCmd 0, srCmd 0].length ≤ srv.ioFld R.dripBudget 23 16 := by decide +kernel

theorem wit_StrongroomTime_seal : srv.strong.sealOk = true ∧ (strongAt 0 (fun x => { x with sealOk := false })).strong.sealOk = false
    ∧ (srvAt (2 ^ 20)).mode = Mode.service ∧ (srvAt (2 ^ 20)).drip.now % 2 ^ 20 = 0
    ∧ (strongAt 0 (fun x => { x with powered := false })).strong.powered = false ∧ (255 : Nat) % 256 ≠ 0x0B := by decide

/-- An APPEND of kind 1; a ring of 2^20 slots, or none left. -/
def bookJob : Job := jobOf u [(0, 6), (17, 1), (34, 1), (49, 1), (50, 1)]
def bookDev (ack wp : Nat) : Dev := ((withJob srv bookJob).setIo R.bookRing 27).onBook (fun b => { b with wp := wp, ack := ack })

theorem wit_CellarbookRing_append : (bookDev 0 0).takes 1 bookJob 6 = true
    ∧ (let d := ((bookDev 0 0).unqueue 1 bookJob).settlePage
       d.cmdCheck bookJob bookJob.bookPtrs (d.bookBad bookJob) = Code.ok
       ∧ d.poisonAns (bookJob.bookPtrs.filter (fun x => x.2 ≠ 16)) = none ∧ d.bookFull = false)
    ∧ (((bookDev 0 (2 ^ 20)).unqueue 1 bookJob).settlePage).bookFull = true := by decide +kernel

/-- A page over, a page closed, a page written. -/
def pageOf (x : PageState) : Page := ⟨0, 0, 40, 1024, [1], x⟩
def pages (x : PageState) : Dev := (srvAt 1024).onBook (fun b => { b with started := true, pages := [pageOf x], exp := 0 })

/-- An export to the host: with a wrong size of the ring, without Bus Master Enable, without room, with room. -/
def expDev (z : Nat) (bme : Bool) : Dev := ((srv.setIo R.hostVerSel 3).setIo R.hostExpSize z).onHost (fun h =>
  { h with bme := [false, bme] })

theorem wit_CellarbookRing_host : 2 ≤ (expDev 26 true).hostMinor ∧ (expDev 26 true).ioFld R.hostExpSize 5 0 < 27
    ∧ (expDev 27 false).ioFld R.hostExpSize 5 0 = 27 ∧ (expDev 27 false).busMaster 1 = false
    ∧ (expDev 27 true).busMaster 1 = true ∧ 2 ^ 27 / 128 < (2 ^ 21 : Nat) - (expDev 27 true).book.ack
    ∧ (1024 : Nat) - (expDev 27 true).book.ack ≤ 2 ^ 27 / 128 := by decide

/-- A page that waits for its signature behind one that has its seal block. -/
theorem wit_CellarbookRing_signed : let p : Page := { pageOf .written with num := 7 }
    let d := srv.onBook (fun b => { b with pages := [p, pageOf .waiting] })
    d.book.pages = [p] ++ pageOf .waiting :: [] ∧ (∀ q ∈ [p], q.state ≠ .waiting ∨ q.head = [])
    ∧ (∀ q ∈ [p] ++ [], q.num ≠ (pageOf .waiting).num)
    ∧ ({ Strong.init with closing := [(7, []), (8, [])] } : Strong).closing = (7, []) :: [(8, [])] := by decide

theorem wit_CellarbookRing_pages : (pages .waiting).pageDue = true ∧ (pageOf .waiting).state = .waiting
    ∧ (pageOf .waiting).head ≠ [] ∧ (pages .waiting).strong.powered = true
    ∧ (pages .written).exportNext = some (pageOf .written) ∧ (pages .written).serving = true
    ∧ (withReg srv R.bookCfg 1).liveFld R.bookCfg 1 0 = 1 ∧ (withReg srv R.bookCfg 2).liveFld R.bookCfg 1 0 = 2
    ∧ (srv.setIo (R.dripOwn + 68) 8).owns 3 17 = true ∧ srv.ackOk 0 = true ∧ srv.ackOk 1 = false
    ∧ (let d := (srvAt (2 ^ 20)).onBook (fun b => { b with exp := 40 })
       d.book.exp ≠ d.book.ack ∧ d.book.ackDrip + 64 * d.liveFld R.bookCfg 21 14 ≤ d.drip.now) := by decide +kernel

/-! ## DRAM and arbiters -/

/-- Channel 0 is live; region 0 has its first MiB. -/
def dram0 (d : Dev) : Dev := (((((d.setIo (R.dramGeom) (2 ^ 16)).setIo R.dramRgnSize 1).setIo R.dramRgnChans 1).setChanState 0 2))

theorem wit_DramReads : (9 : Nat) < 10 ∧ (dram0 srv).dramMap 64 = some (0, 64) ∧ (dram0 srv).chanState 0 = 2
    ∧ (dram0 srv).linePoisoned 0 64 = false ∧ lineVerdict [0, 3, 3] = .device 2 ∧ lineVerdict [1, 2] = .uncorrectable
    ∧ lineVerdict [0, 0] = .clean
    ∧ ((dram0 srv).onDmem (fun m => { m with poison := [(1, true)] })).linePoisoned 0 64 = true
    ∧ (((dram0 srv).setChanState 0 5).chanCount 0 2).chanState 0 = 5
    ∧ 64 * (((dram0 srv).dchan 0).scrubAt + 1) < (dram0 srv).chanCap
    ∧ (let d := (dram0 srv).onSess (fun x => { x with base := 2 ^ 20, max := 4 })
       (3 : Nat) < d.sess.max ∧ d.sess.base + 512 * d.sess.max ≤ 2 ^ 20 + 2048 ∧ 2 ^ 20 + 2048 < d.sess.base + 528 * d.sess.max
       ∧ 64 < d.sess.base) := by decide +kernel

/-- The scrubber at the last line of a channel. -/
theorem wit_DramReads_pass : let d := (dram0 srv).updChan 0 (fun c => { c with scrubAt := (dram0 srv).chanCap / 64 - 1 })
    d.chanState 0 = 2 ∧ d.chanCap ≤ 64 * ((d.dchan 0).scrubAt + 1)
    ∧ ((if d.linePoisoned 0 (64 * (d.dchan 0).scrubAt) then d else d.lineRead 0 (64 * (d.dchan 0).scrubAt) 0 [0]).dchan 0).scrubAt
      = (d.dchan 0).scrubAt := by decide +kernel

theorem wit_DramReads_lines : lineVerdict [0, 3, 3] = .device 2
    ∧ Nat.min ((dram0 srv).io (chanOff 0 R.dramDevCe + 4 * (20 * (dram0 srv).rankOf 64 + 10 * (dram0 srv).subOf 64 + 2)) + 1) 0xFFFF
      < (withReg (dram0 srv) R.dramScrub (9 * 2 ^ 8)).liveFld R.dramScrub 23 8
    ∧ (dram0 srv).dramUnmap 0 64 = some 64 ∧ (dram0 srv).dramUnmap 1 64 = none
    ∧ (((dram0 srv).dchan 0).ue.filter (fun t => (dram0 srv).drip.now < t + 1024)).length < 63 := by decide +kernel

/-- Reads of row 7 and row 9 and a write of row 7 wait in subchannel 0, where row 9 is open; or rank 0 owes refreshes. -/
def readA : DramReq := ⟨0, 0, 7, 0, false⟩
def readB : DramReq := ⟨64, 1, 9, 0, false⟩
def schedSub : SubCh := ⟨[readA, readB], [⟨128, 0, 7, 1, false⟩], false, [(1, 9)]⟩
def schedDev (owed : Nat) : Dev := (dram0 srv).updChan 0 (fun c => { c with owed := [(0, owed)], subs := [schedSub, SubCh.init] })

theorem wit_DramScheduling : (schedDev 5).chanState 0 = 2
    ∧ [0, 1].find? (fun r => 5 ≤ spGet 0 ((schedDev 5).dchan 0).owed r) = some 0
    ∧ (∀ r < 2, spGet 0 ((schedDev 4).dchan 0).owed r < 5) ∧ (∀ r < 2, spGet 0 ((schedDev 0).dchan 0).owed r = 0)
    ∧ [0, 1].find? (fun r => 1 ≤ spGet 0 ((schedDev 4).dchan 0).owed r) = some 0
    ∧ SubCh.init.reads = [] ∧ SubCh.init.writes = []
    ∧ (let q := ((schedDev 4).dchan 0).subs.getD 0 SubCh.init
       q.reads ≠ [] ∧ q.pick false 100 0 = some ⟨false, readB, false⟩ ∧ q.pick false 100 100 = some ⟨false, readA, true⟩
       ∧ q.reads.Pairwise (fun a b => a.since ≤ b.since) ∧ q.writes.Pairwise (fun a b => a.since ≤ b.since)
       ∧ q.freeWrites ≠ []) := by decide

/-- A requested channel in self-refresh; drift that is small, reported, or too large. -/
theorem wit_DramScheduling_channels : (1 : Nat) ≤ (srv.setIo R.dramGeom 8).ioFld R.dramGeom 3 3 ∧ (dram0 srv).serving = true
    ∧ (∀ q ∈ ((dram0 srv).dchan 0).subs, q.reads = [] ∧ q.writes = [])
    ∧ ((dram0 (srvAt 70000)).setIo R.dramRgnPark 1).chanParked 0 = true
    ∧ ((dram0 (srvAt 70000)).dchan 0).last + (dram0 (srvAt 70000)).srIdle ≤ 70000
    ∧ ((schedDev 0).setChanState 0 4).chanState 0 = 4 ∧ (∃ q ∈ (((schedDev 0).setChanState 0 4).dchan 0).subs, q.reads ≠ [])
    ∧ 19 < (dram0 srv).laneCount ∧ spGet 0 ((dram0 srv).dchan 0).oscAt 19 = 0
    ∧ (let d := (dram0 srv).updChan 0 (fun c => { c with drift := [(19, 16), (3, 8), (4, 9)], drifted := [(4, true)] })
       16 < (spGet 0 (d.dchan 0).drift 19 + 1).natAbs ∧ (spGet 0 (d.dchan 0).drift 5 + 1).natAbs ≤ 8
       ∧ 8 < (spGet 0 (d.dchan 0).drift 3 + 1).natAbs ∧ (spGet 0 (d.dchan 0).drift 3 + 1).natAbs ≤ 16
       ∧ spGet false (d.dchan 0).drifted 3 = false ∧ spGet false (d.dchan 0).drifted 4 = true) := by decide

theorem wit_Arbiters : (32 : Nat) ≤ 32 ∧ srv.serving = true ∧ (dram0 srv).chanState 0 = 2
    ∧ (dram0 srv).chanRoom 0 true 64 4 0 = true ∧ ((dram0 srv).setChanState 0 5).chanState 0 = 5
    ∧ (let l := srv.arbAsks 32 [(24, 3)]
       let v := l.foldl (fun v r => v.waited (spGet 0 [(24, 3)] r) r) (srv.arb 32)
       v.choose (srv.arbCap 32).2 l = some (24, 1))
    ∧ bits (32 + 24 * 2 ^ 8) 15 13 = 0 ∧ bits (32 + 24 * 2 ^ 8) 7 6 = 0 ∧ arbServes (bits (32 + 24 * 2 ^ 8) 5 0) (bits (32 + 24 * 2 ^ 8) 12 8) = true
    ∧ bitOf (32 + 24 * 2 ^ 8) 16 = false ∧ bitOf (32 + 24 * 2 ^ 8 + 2 ^ 16) 16 = true := by decide +kernel

/-- A seal command of gallery 0 waits for its admission behind one that is admitted. -/
theorem wit_Arbiters_seal : let i := { item 1 .perform with adm := false }; let p := item 2 .perform
    let d := (withJob srv verifyJob).onPool (fun x => { x with queue := [p, i] })
    d.pool.queue = [p] ++ i :: [] ∧ (∀ x ∈ [p], x.adm = true) ∧ i ∉ [p] ∧ i.adm = false ∧ d.job i.job = some verifyJob
    ∧ verifyJob.tid.g = 0 ∧ (0 : Nat) ∈ d.arbAsks 24 [(0, 5)] := by decide
/-! ## The package -/

/-- The example of R494: D2B_CK_N is at AY12, and the same position of channel 6 at AY43. -/
theorem test_balls : ballNet 38 12 = .dram 2 true "CK_N" 0 ∧ ballNet 38 43 = .dram 6 true "CK_N" 0 := by decide

/-! ## Image, boot and the six modes -/

/-- Only rail 0 is out of its window. -/
def railOut : Dev := (inMode 0).onElec (fun e => { e with railsOut := [(0, true)] })

theorem wit_ModesAndPower : (inMode 0).mode = Mode.cold ∧ (inMode 0).elec.scanHold = false ∧ (inMode 0).elec.railsOut = []
    ∧ (inMode 0).elec.resetLow = false ∧ railOut.mode = Mode.cold ∧ railOut.elec.railsOut = [(0, true)] ∧ railOut.elec.railsOut ≠ []
    ∧ railOut.elec.resetLow = false ∧ railOut.elec.scanHold = false ∧ srv.serving = true ∧ srv.noPath 2 = false
    ∧ (inMode 1).noPath 3 = false ∧ (inMode 2).noPath 3 = false ∧ (0 : Nat) < 2 ^ 16 ∧ (0 : Nat) ≠ 0x4B58 ∧ (0x4B59 : Nat) < 2 ^ 16 := by decide

/-- Both NVMs have failed and the host has named its image. -/
def att (a b : Nat) : Dev := ((inMode 1).setIo R.loadAtt a).setIo (R.loadAtt + 8) b
def hostImg : Dev := ((att 5 5).setIo R.loadHoSrc 2).setIo R.loadHoLen (2 ^ 28)

theorem wit_LoadAndSurvey_attempts : (att 0 0).mode = Mode.load ∧ (att 0 0).attCode 0 = 0 ∧ (att 5 0).attCode 0 ≠ 0 ∧ (att 5 0).attCode 1 = 0
    ∧ (1 : Nat) % 64 ≠ 0 ∧ (0 : Nat) % 64 = 0 ∧ hostImg.noPath 3 = false ∧ hostImg.mode = Mode.load ∧ hostImg.attCode 0 ≠ 0 ∧ hostImg.attCode 1 ≠ 0
    ∧ hostImg.host.reads = [] ∧ hostImg.io R.loadHoSrc = 2 ∧ 0 < hostImg.io R.loadHoLen ∧ hostImg.io R.loadHoLen ≤ 2 ^ 28
    ∧ hostImg.busMaster 0 = true ∧ hostImg.load.fuse = none
    ∧ (hostImg.onLoad (fun l => { l with fuse := some [] })).load.fuse ≠ none ∧ (2 : Nat) ≠ 3 := by decide

/-- What Survey mode finds: nothing, or a memory that fails. -/
def sound (bad : Bool) : Survey := ⟨[], [], [], [], bad, [], false, [], []⟩

theorem wit_LoadAndSurvey_end : (inMode 2).mode = Mode.survey ∧ (inMode 2).ioFld R.loadSurvey 2 0 = 0 ∧ (inMode 2).elec.railsOut = []
    ∧ ((inMode 2).surveyed (sound true)).surveyFail (sound true) = some 3
    ∧ ((inMode 2).surveyed (sound false)).surveyFail (sound false) = none
    ∧ ((inMode 2).surveyed (sound false)).surveyDone.limpCause = none
    ∧ (((inMode 2).onLoad (fun l => { l with limpReq := true })).surveyed (sound false)).surveyFail (sound false) = none
    ∧ (((inMode 2).onLoad (fun l => { l with limpReq := true })).surveyed (sound false)).surveyDone.limpCause = some 7 := by
  decide +kernel

/-- Survey mode with too little DRAM; with a section whose second reading differs; without a core in gallery 0; a length of 0. -/
theorem wit_LoadAndSurvey_more : ((inMode 2).setIo R.dramRgnSize 1).dramShort = true
    ∧ ((inMode 2).surveyed (sound false)).dramShort = false
    ∧ rereadOk ((inMode 2).surveyed (sound false)).load.image [] 3 = true
    ∧ rereadOk ((inMode 2).surveyed (sound false)).load.image [] 6 = true
    ∧ (∃ c ∈ (((inMode 2).surveyed (sound false)).gal 0).coreMap, c ≠ 9)
    ∧ (∀ c ∈ ((srv.setGal 0 { Gallery.init with coreMap := List.replicate 8 9 }).gal 0).coreMap, c = 9)
    ∧ (hostImg.setIo R.loadHoLen 0).io R.loadHoLen = 0 ∧ (att 5 0).attCode 1 = 0
    ∧ ((inMode 1).mode = Mode.load ∨ (inMode 1).mode = Mode.survey) := by decide +kernel

/-- A DRAM_DATA record of two bytes, and a blob that no slot takes. -/
theorem wit_LoadAndSurvey_records : (⟨0, 3, 2 ^ 20, 0, [1, 2]⟩ : Rec).space = 3
    ∧ (∀ i < 2, bankKey [] [] true (2 ^ 20 + i) = none ∧ srv.dramFailed (2 ^ 20 + i) = false) ∧ srv.blobCode 5 [] ≠ Code.ok := by
  decide +kernel

/-- A Handover in a state, owned by master 3. -/
def hoDev (m st : Nat) (f : Handover → Handover) : Dev :=
  (((inMode m).setIoFld R.loadHoStat 2 0 st).setIo (R.dripOwn + 8) 8).onHo f

/-- An image of one empty section whose digest is all 0. -/
def oneSect : Bytes := List.replicate 14 0 ++ [1]

theorem wit_Handovers_start : (hoDev 3 0 id).noPath 3 = false ∧ (hoDev 3 0 id).mode = Mode.service ∧ (hoDev 3 0 id).owns 3 2 = true ∧ (hoDev 3 0 id).hoState = 0
    ∧ (hoDev 3 6 id).hoState = 6 ∧ (hoDev 3 0 id).io R.loadHoTgtLo + (hoDev 3 0 id).ioFld R.loadHoTgtHi 23 0 * 2 ^ 32 < (hoDev 3 0 id).drip.now + 2
    ∧ (let d := (hoDev 3 0 id).setIo R.loadHoTgtLo 2
       d.drip.now + 2 ≤ d.io R.loadHoTgtLo + d.ioFld R.loadHoTgtHi 23 0 * 2 ^ 32 ∧ d.io R.loadHoLen ≤ 2 ^ 28 ∧ d.io R.loadHoSrc ≠ 2)
    ∧ (hoDev 3 1 id).serving = true ∧ (hoDev 3 1 id).hoOpen = true ∧ (hoDev 3 4 id).hoOpen = true
    ∧ (hoDev 3 1 id).hoState = 1 ∧ (hoDev 3 1 id).load.ho.src ≠ 3
    ∧ (hoDev 3 2 id).hoState = 2 ∧ (hoDev 3 2 id).allStaged allGroups = true
    ∧ (∀ n < 16, ((hoDev 3 2 id).slot n).state ≠ .sealed ∧ ((hoDev 3 2 id).slot n).state ≠ .waiting) := by decide +kernel

theorem wit_Handovers_finish : (hoDev 4 3 id).hoState = 3 ∧ (hoDev 4 3 id).load.ho.restore = none ∧ (hoDev 4 3 id).load.ho.src ≠ 3
    ∧ hoChanged (hoDev 4 3 id).load.ho.image [] = false
    ∧ (match imgRecs (hoDev 4 3 id).load.ho.image recSects with | .ok l => l.isEmpty | .error _ => false) = true
    ∧ (let d := (hoDev 4 4 (fun h => { h with ready := some 0 })).onDrip (fun p => { p with now := 1 })
       d.mode = Mode.handover ∧ d.hoMayFlip = true)
    ∧ (hoDev 4 5 id).mode = Mode.handover ∧ (hoDev 4 5 id).hoState = 5
    ∧ (∀ g ∈ groupBits, ((hoDev 4 5 id).group g).other ≠ .trailing)
    ∧ (let d := (hoDev 4 4 id).onDrip (fun p => { p with now := 256 })
       d.serving = true ∧ d.hoOpen = true ∧ d.hoMayFlip = false ∧ d.load.ho.target + 256 * 2 ^ d.load.ho.limit ≤ d.drip.now)
    ∧ (let d := (hoDev 4 4 (fun h => { h with restore := some (0, 0) })).onDrip (fun p => { p with now := 100 })
       d.load.ho.restore = some (0, 0) ∧ 0 + copyDrips 0 ≤ d.drip.now ∧ d.mode = Mode.handover)
    ∧ (hoDev 3 1 id).drip.hoSeal = none ∧ (hoDev 3 1 id).hoState < 6 ∧ (Code.timeout < 256)
    ∧ ((hoDev 4 4 id).onDrip (fun p => { p with hoSeal := some 0 })).drip.hoSeal = some 0 := by decide +kernel

/-- Goes of the host with Bus Master Enable or without it, of a length 0, and while another Handover runs; a Handover that
waits past its target; one whose seal is to be undone. -/
theorem wit_Handovers_more : (let d := ((hoDev 3 0 id).setIo R.loadHoSrc 2).setIo R.loadHoLen 5
      d.io R.loadHoSrc = 2 ∧ d.io R.loadHoLen ≠ 0 ∧ (d.onHost (fun h => { h with bme := [] })).busMaster 0 = false)
    ∧ (let d := ((hoDev 3 0 id).setIo R.loadHoSrc 3).setIo R.loadHoTgtLo 9
       d.io R.loadHoSrc ≠ 2 ∧ d.io R.loadHoLen = 0 ∧ d.drip.now + 2 ≤ d.io R.loadHoTgtLo + d.ioFld R.loadHoTgtHi 23 0 * 2 ^ 32)
    ∧ (let d := (hoDev 3 2 id).setIo R.loadHoTgtLo 9
       d.mode = Mode.service ∧ d.owns 3 2 = true ∧ d.hoGoCode.1 = Code.ok ∧ 1 ≤ d.hoState ∧ d.hoState ≤ 5)
    ∧ (let d := (hoDev 4 4 (fun h => { h with limit := 15 })).onDrip (fun p => { p with now := 4096 })
       d.hoReportDue = true)
    ∧ srv.hoReportDue = false := by decide +kernel

/-- Line 1 of DRAM is poisoned. -/
def badLine (d : Dev) : Dev := d.onDmem (fun m => { m with poison := spSet false m.poison 1 true })

/-- Readings of an image: from DRAM, of a line that is sound or poisoned, and from the host or an NVM. -/
theorem wit_Handovers_reads : (let d := hoDev 3 1 (fun h => { h with src := 3, addr := 64, len := 64 })
      d.hoState = 1 ∧ d.load.ho.src = 3 ∧ d.memPoisoned true d.load.ho.addr d.load.ho.len = false
      ∧ (badLine d).memPoisoned true 64 64 = true)
    ∧ (hoDev 3 1 (fun h => { h with src := 2 })).load.ho.src = 2 ∧ (hoDev 4 3 id).load.ho.src ≠ 2
    ∧ (0 : Nat) ≠ 1 ∧ (0 : Nat) ≠ 2 := by decide +kernel

/-- The other bytes of a section are noticed: the SHA digest of nothing is not all 0. -/
theorem wit_Handovers_changed : hoChanged oneSect oneSect = true := by decide +kernel

/-! ## The host and the Rope -/

/-- Channel 2 of gallery 0 is enabled, down and up mailboxes use it, and `n` messages lie there. -/
def mailDev (n : Nat) : Dev := (withReg (withReg srv (R.gallChan + 8) 1) R.hostCfg 0x10202).setChan 0 2
  (List.replicate n ⟨List.replicate 64 0, 0x200, 0⟩)

/-- A read of 4 bytes of host memory awaits its data. -/
def readDev : Dev := srv.onHost (fun h => { h with reads := [(7, ⟨3, 0, 4, .image⟩)] })

/-- Reads that a CAL_SET and a bucket command of the host await; both levels of PE_PERST_N. -/
theorem wit_HostInterface_reads : (let d := (srv.onHost (fun h => { h with reads := [(7, ⟨3, 0, 256, .cal [3]⟩)] })).onStrong (fun x =>
        { x with asked := [⟨.master 3, [3], 0⟩] })
      spFind d.host.reads 7 = some ⟨3, 0, 256, .cal [3]⟩
      ∧ (d.onHost (fun h => { h with reads := spErase h.reads 7 })).calAsked 3 = true)
    ∧ (fwdCmdAt 1 .moving []).fwd.cmds.map Prod.fst = [3] ∧ (spFind (fwdCmdAt 1 .moving []).fwd.cmds 3).isSome = true
    ∧ srv.elec.perst = false ∧ (srv.onElec (fun e => { e with perst := true })).elec.perst = true
    ∧ (srv.setView 3 ⟨.ready, 3, 0⟩).view 3 = ⟨.ready, 3, 0⟩ := by decide

/-- Block 17 is owned by master 3 or 2; two pages were exported, the first ending just past slot 9. -/
def ackDev (own : Nat) : Dev := (srv.setIo (R.dripOwn + 68) own).onBook (fun b => { b with
  ack := 4, exp := 20, pages := [⟨0, 4, 9, 0, [], .written⟩, ⟨1, 9, 20, 0, [], .written⟩] })

theorem wit_HostInterface_ack : (ackDev 4).owns 3 17 = false ∧ (ackDev 8).owns 3 17 = true ∧ (ackDev 8).book.ack = 4
    ∧ 4 ≤ 9 ∧ 9 ≤ (ackDev 8).book.exp ∧ (∃ p ∈ (ackDev 8).book.pages, p.past = 9)
    ∧ (∃ p ∈ (ackDev 8).book.pages, p.past = (ackDev 8).book.exp) ∧ 3 < (ackDev 8).book.ack ∧ (ackDev 8).book.exp < 21
    ∧ (∀ p ∈ (ackDev 8).book.pages, p.past ≠ 10) ∧ 3 ≤ (srv.setIo R.hostVerSel 3).hostMinor
    ∧ (36 : Nat) < 64 := by decide

/-- Function 1 is masked with its vector 63 pending, or is not. -/
theorem wit_HostInterface_masks : (let d := srv.onHost (fun h => { h with fnMask := [false, true], pba := [(64 + 63, true)] })
      d.host.fnMask.getD 1 false = true ∧ d.elec.perst = false)
    ∧ (let d := srv.onHost (fun h => { h with fnMask := [true], pba := [(64 + 63, true)] })
       spGet false d.host.vecWait (64 * 1 + 63) = false ∧ spGet false d.host.pba (64 * 1 + 63) = true
       ∧ d.host.fnMask.getD 1 false = false ∧ d.elec.perst = false) := by decide

theorem wit_HostInterface : srv.noPath 3 = false ∧ srv.mode ≠ Mode.cold ∧ srv.serving = true ∧ (srv.setIo (R.dripOwn + 84) 8).owns 3 21 = true
    ∧ (4 : Nat) < 256 ∧ srv.chanOn 0 (srv.liveFld R.hostCfg 7 0) = false ∧ srv.upMsgs = []
    ∧ (mailDev 3).chanOn 0 ((mailDev 3).liveFld R.hostCfg 7 0) = true ∧ ((mailDev 3).chan 0 ((mailDev 3).liveFld R.hostCfg 7 0)).length < 4
    ∧ 4 ≤ ((mailDev 4).chan 0 ((mailDev 4).liveFld R.hostCfg 7 0)).length ∧ (mailDev 1).upMsgs ≠ []
    ∧ 3 ≤ (srv.setIo R.hostVerSel 3).hostMinor
    ∧ spGet false (srv.onHost (fun h => { h with vecWait := [(5, true)] })).host.vecWait 5 = true
    ∧ (srv.onHost (fun h => { h with vecWait := [(5, true)] })).vecOpen 5 = true
    ∧ ((srv.setSlot 0 { Slot.init with holder := 3, state := .opened }).slot 0).state = .opened
    ∧ ((srv.setSlot 0 { Slot.init with holder := 3, state := .done }).slot 0).holder = 3
    ∧ spFind readDev.host.reads 7 = some ⟨3, 0, 4, .image⟩ ∧ ([1, 2, 3, 4] : Bytes).length = 4 := by decide

/-- The Rope in a state, at drip `n`, with what the peer said. -/
def ropeDev (n st : Nat) (f : Rope → Rope) : Dev := ((srvAt n).setIo R.ropeStat st).onRope f

theorem wit_RopeLink : srv.lanesLive = true ∧ srv.ropeSt = 0 ∧ srv.lanesSound (srv.macLanes 64) = true ∧ srv.serving = true
    ∧ (ropeDev 256 1 id).ropeSt ≠ 0 ∧ (ropeDev 256 1 id).rope.helloAt + 256 ≤ (ropeDev 256 1 id).drip.now
    ∧ (ropeDev 1024 1 id).rope.heard + 1024 ≤ (ropeDev 1024 1 id).drip.now
    ∧ (let d := ropeDev 0 1 (fun r => { r with peer := some (4, []), sentHello := true, gotHello := true })
       d.serving = true ∧ d.ropeSt = 1 ∧ d.rope.peer = some (4, []) ∧ d.rope.sentHello = true ∧ d.rope.gotHello = true)
    ∧ (List.replicate 64 0 : Bytes).length = 64 ∧ (ropeDev 0 1 id).rope.peer = none ∧ (ropeDev 0 2 id).ropeSt = 2
    ∧ ([1] : Bytes) ≠ slice (srv.load.fuse.getD []) 0 32 ∧ (List.replicate 32 0 : Bytes) = slice (srv.load.fuse.getD []) 0 32
    ∧ bitOf ((withReg srv R.ropeCfg 6).ropeMask &&& 4) 2 = true ∧ bitOf ((withReg srv R.ropeCfg 6).ropeMask &&& 2) 2 = false
    ∧ bitOf ((withReg srv R.ropeCfg 6).ropeMask &&& 2) 1 = true ∧ bitOf ((withReg srv R.ropeCfg 6).ropeMask &&& 0) 1 = false := by
  decide

/-- A HELLO that changes what the peer said. -/
theorem wit_RopeLink_changed : let d := ropeDev 0 2 (fun r => { r with peer := some (4, []) })
    d.ropeSt = 2 ∧ d.rope.peer = some (4, []) ∧ (4, ([] : Bytes)) ≠ (leAt (List.replicate 64 0) 0 2 &&& 6, slice (List.replicate 64 0) 12 32)
    := by decide

/-- UP at version 2, the registers of block 22 owned by master 3. -/
def upDev (f : Rope → Rope) : Dev := (ropeDev 64 10 f).setIo (R.dripOwn + 88) 8

/-- Master 4 may write BOOK_CFG. -/
def peerDev : Dev := srv.setIo (R.dripOwn + 68) 16

/-- Writes by the partner: one that stages nothing, one that does; bytes missing in an open block and in a closed one. -/
theorem wit_RopeTraffic_write : (srv.beWrite 4 R.clasRowBuf 5 15).drip.writes = srv.drip.writes
    ∧ (peerDev.beWrite 4 R.bookCfg 1 15).drip.writes = peerDev.drip.writes ++ [⟨4, .reg R.bookCfg, [1]⟩]
    ∧ srv.noPath 4 = false ∧ (inMode 1).noPath 4 = false ∧ 7 % 16 ≠ 15 ∧ 15 % 16 = 15 ∧ (inMode 1).blockOpen R.bookCfg = false
    ∧ srv.blockOpen R.bookCfg = true ∧ regAt 0x1000FFC = none ∧ srv.blockOpen 0x1000FFC = true ∧ 0x1000FFC < 0x8000000 := by
  decide +kernel

/-- No register has an action at the offset. -/
def still (o : Nat) : Prop := ∀ (e : Dev) (v : Nat), e.actionLow 4 o v = none ∧ e.actionHigh 4 o v = none

theorem wit_RopeTraffic_write_plain : still 0x1000FFC ∧ still R.clasRowBuf ∧ still R.hostExpSize := by
  refine ⟨?_, ?_, ?_⟩ <;> intro e v <;> exact ⟨rfl, rfl⟩

/-- A register that master 4 may not write, and one that it may, with a bit no field holds. -/
theorem wit_RopeTraffic_write_fields : (∃ r, regAt R.hostExpSize = some r ∧ r.maskOf writable ≠ 0
      ∧ ∀ e : Dev, e.mayWrite r 4 R.hostExpSize = false)
    ∧ ∃ r, regAt R.clasRowValid = some r ∧ r.maskOf writable ≠ 0
      ∧ (∀ e : Dev, e.mayWrite r 4 R.clasRowValid = true ∧ e.hostHidden R.clasRowValid = false)
      ∧ w32 2 &&& ~~~r.maskOf writable ≠ 0 := by
  refine ⟨⟨⟨"HOST_EXP_SIZE", 0x5840008, [], false, [3], none, false, false, [⟨5, 0, .rw, "exp_log2"⟩], 0x1B⟩, by decide +kernel, by decide, fun e => ?_⟩,
    ⟨"CLAS_ROW_VALID", 0x14010B0, [], true, [], none, false, false, [⟨0, 0, .rw, "valid"⟩], 0x0⟩, by decide +kernel, by decide, fun e => ⟨?_, ?_⟩, by decide⟩ <;> rfl

/-- Reads by the partner: one answered at once, and an acquire of a Latch that another holds. -/
def heldDev : Dev := ((withReg (withReg srv (R.ltchGrp1 + 8 * 63) 9) (R.ltchGrp0 + 8 * 63) (2 ^ 25)).setPer 4 R.ltchHostSel 4095).setLatch 4095 ⟨.held, 5, 0, [], 0, false⟩

theorem wit_RopeTraffic_read : (((st srv).csrRead 4 R.gctlId0).dev.latch (srv.hostLatch 4)).waiters
      = (srv.latch (srv.hostLatch 4)).waiters
    ∧ ∃ w, (((st heldDev).csrRead 4 R.ltchHostAcq).dev.latch (heldDev.hostLatch 4)).waiters
      = (heldDev.latch (heldDev.hostLatch 4)).waiters ++ [w] := ⟨by decide +kernel,
  (((st heldDev).csrRead 4 R.ltchHostAcq).dev.latch 4095).waiters.getLastD ⟨0, 0, 0⟩, by decide +kernel⟩

theorem wit_RopeTraffic_requests : (upDev id).ropeUp = true ∧ (upDev id).ropeVer = 2 ∧ (upDev id).owns 3 22 = true
    ∧ bits ((upDev id).per 3 R.ropeReqAddr) 28 28 = 0
    ∧ bits (((upDev id).setPer 3 R.ropeReqAddr (2 ^ 28)).per 3 R.ropeReqAddr) 28 28 = 1
    ∧ bitOf ((upDev id).per 3 R.ropeReqStat) 0 = false ∧ bitOf (((upDev id).setPer 3 R.ropeReqStat 1).per 3 R.ropeReqStat) 0 = true
    ∧ ((ropeDev 0 1 id).setIo (R.dripOwn + 88) 8).ropeUp = false ∧ ((ropeDev 0 1 id).setIo (R.dripOwn + 88) 8).owns 3 22 = true
    ∧ (let d := upDev (fun r => { r with reqs := [(3, ⟨0, 0⟩)] })
       spFind d.rope.reqs 3 = some ⟨0, 0⟩ ∧ 0 + 64 ≤ d.drip.now)
    ∧ spFind (upDev (fun r => { r with reqs := [(3, ⟨1, 0⟩)] })).rope.reqs 3 = some ⟨1, 0⟩
    ∧ (7 : Nat) < 8 ∧ (2 ^ 28 - 4 : Nat) < 2 ^ 28 ∧ (2 ^ 28 - 4) % 4 = 0 := by decide

/-- The mailbox of the Rope, and both mirrors, are enabled. -/
def boxDev (f : Rope → Rope) : Dev := withReg (upDev f) R.ropeCfg (2 ^ 21 + 2 ^ 3 + 2 ^ 4)
def boxMsg : Dev := (boxDev id).setChan 0 0 [⟨[], 0, 0⟩]

theorem wit_RopeTraffic_frames : (1 : Nat) ≠ (upDev id).ropeVer ∧ (4095 : Nat) < 4096 ∧ (upDev id).serving = true ∧ (15 : Nat) < 16
    ∧ (2 ^ 40 - 1 : Nat) + 1 ≤ 2 ^ 40 ∧ (upDev id).memPoisoned true (2 ^ 40 - 1) 1 = false ∧ (upDev id).mboxOn = false
    ∧ (boxDev id).mboxOn = true ∧ (boxDev id).ropeUp = true ∧ (boxDev id).ropeVer = 2
    ∧ (boxDev (fun r => { r with mboxSeen := some 7 })).rope.mboxSeen = some 7 ∧ (boxDev id).rope.mboxSeen ≠ some 7
    ∧ (boxDev id).rope.mboxHeld = [] ∧ boxMsg.serving = true ∧ boxMsg.mboxOn = true ∧ boxMsg.rope.mbox = none
    ∧ boxMsg.chan 0 (boxMsg.liveFld R.ropeCfg 12 5) = ⟨[], 0, 0⟩ :: []
    ∧ bitOf ((boxDev id).live R.ropeCfg) 3 = true ∧ bitOf ((boxDev id).live R.ropeCfg) 4 = true
    ∧ bitOf ((upDev id).live R.ropeCfg) 3 = false := by decide

theorem wit_RopeTraffic_lengths : (List.replicate 64 0 : Bytes).length = 64 ∧ (List.replicate 32 0 : Bytes).length = 32
    ∧ (List.replicate 4096 0 : Bytes).length = 4096 :=
  ⟨List.length_replicate, List.length_replicate, List.length_replicate⟩

/-- A message is held, in UP or HELLO, its channel with room or full; DMA of a line that is poisoned; frames of version 1 and of
reserved types. -/
theorem wit_RopeTraffic_held : (let d := boxDev (fun r => { r with mboxHeld := [(7, [])] })
      d.rope.mboxHeld = (7, []) :: [] ∧ d.liveFld R.ropeCfg 20 13 = 0 ∧ (d.chan 0 0).length < 4 ∧ d.ioFld R.ropeStat 1 0 = 2
      ∧ (d.setIo R.ropeStat 1).ioFld R.ropeStat 1 0 ≠ 2 ∧ 4 ≤ ((d.setChan 0 0 (List.replicate 4 ⟨[], 0, 0⟩)).chan 0 0).length)
    ∧ (badLine (upDev id)).ropeUp = true ∧ (badLine (upDev id)).ropeVer = 2
    ∧ (badLine (upDev id)).memPoisoned true 64 1 = true
    ∧ (ropeDev 64 6 id).ropeUp = true ∧ (ropeDev 64 6 id).ropeVer < 2 ∧ (6 : Nat) ≤ 6 ∧ (8 : Nat) ≤ 8 := by decide +kernel

/-! ## Health, lanes, pins and the debugger -/

/-- Gallery 0 with a domain still since drip 0, or with a core being replaced. -/
def stillDev : Dev := (srvAt 100).setGal 0 { Gallery.init with still := [(1, ⟨some 0, false, 0⟩)] }
def retDev : Dev := (srvAt 1).setGal 0 { Gallery.init with retiring := [⟨1, 1, 7, 0⟩, ⟨0, 0, 8, 0⟩] }

theorem wit_UnitHealth : (15 : Nat) < 16 ∧ srv.noPath 2 = false ∧ srv.serving = true ∧ srv.mode ≠ Mode.cold
    ∧ ((onThr srv u [] Thread.init).thr ⟨0, 0, 1⟩).state = .ready ∧ srv.logicalOf 0 0 = some 0 ∧ srv.retiringCore 0 0 = false
    ∧ srv.logicalOf 0 8 = none ∧ (retDev.gal 0).retiring = [⟨1, 1, 7, 0⟩] ++ ⟨0, 0, 8, 0⟩ :: []
    ∧ (∀ x ∈ [(⟨1, 1, 7, 0⟩ : Retiring)], x.phys ≠ 0) ∧ (0 : Nat) < retDev.drip.now
    ∧ spFind (stillDev.gal 0).still 1 = some ⟨some 0, false, 0⟩ ∧ stillDev.keeper 0 = some k
    ∧ (stillDev.stillDomains 0).contains 1 = true ∧ srv.retiringCore 0 0 = false ∧ srv.logicalOf 0 8 = none
    ∧ retDev.retiringCore 0 0 = true ∧ memPlace 7 103 = true ∧ memPlace 8 17 = true ∧ memPlace 9 31 = true
    ∧ (srv.gal 0).spare < 9 ∧ (srv.eng 103).state = .spare ∧ (srv.fmtEng 17).state = .spare
    ∧ (spFind (chains srv 0 0).lard.cells 0).isSome = true
    ∧ 0 + bits (stillDev.live R.gallCfg) 9 2 ≤ stillDev.drip.now
    ∧ memPlace 0 0 = true ∧ memPlace 3 143 = true ∧ memPlace 5 (65536 + 1023) = true ∧ memPlace 6 0 = true
    ∧ memPlace 4 (143 * 2 ^ 40) = true ∧ spFind srv.hlth.icErr 0 = none ∧ (srv.logicalOf 15 7).isSome = true := by decide

/-- The spare of gallery 0 is used up, and its cores are the logical cores of `map`. -/
def noSpare (map : List Nat) : Dev := srv.setGal 0 { Gallery.init with spare := 9, coreMap := map }

theorem wit_UnitHealth_noSpare : 9 ≤ ((noSpare [0, 1, 2, 3, 4, 5, 6, 7]).gal 0).spare
    ∧ (noSpare [0, 1, 2, 3, 4, 5, 6, 7]).logicalOf 0 1 = some 1 ∧ (noSpare [0, 1, 2, 3, 4, 5, 6, 7]).retiringCore 0 1 = false
    ∧ (noSpare [0, 1, 2, 3, 4, 5, 6, 7]).logicalOf 0 0 = some 0 ∧ (noSpare [0, 1, 2, 3, 4, 5, 6, 7]).lastLogical 0 = some 7
    ∧ (noSpare [0, 1, 2, 3, 4, 5, 6, 7]).physOf 0 7 = some 7
    ∧ (noSpare [0, 9, 9, 9, 9, 9, 9, 9]).logicalOf 0 0 = some 0 ∧ (noSpare [0, 9, 9, 9, 9, 9, 9, 9]).lastLogical 0 = none
    ∧ (srv.gal 0).spare < 9 := by decide

/-- Tests of a spare: due, and not yet due. -/
theorem wit_UnitHealth_tests : (let d := srvAt (2 ^ 26)
      d.serving = true ∧ (d.gal 15).spare ≤ 8 ∧ spGet 0 d.hlth.spareTest (256 * 0 + 15) + d.liveFld R.hlthBistCfg 15 0 * 1024 ≤ d.drip.now)
    ∧ (let d := withReg srv R.hlthBistCfg 1
       d.drip.now < spGet 0 d.hlth.spareTest (256 * 1 + 103) + d.liveFld R.hlthBistCfg 15 0 * 1024)
    ∧ spFind srv.lard.cells 5 = none ∧ spGet false srv.lard.fenced 5 = false := by decide +kernel

/-- Measurements of an eye: not yet due, and due. -/
theorem wit_LanesPinsAndTemperature_periods : srv.serving = true ∧ srv.drip.now < spGet 0 srv.hlth.eyeTest 19 + 2 ^ 20
    ∧ spGet 0 (srvAt (2 ^ 20)).hlth.eyeTest 19 + 2 ^ 20 ≤ (srvAt (2 ^ 20)).drip.now ∧ (srvAt (2 ^ 20)).serving = true
    ∧ srv.noPath 3 = false ∧ srv.readings.Pairwise (fun a b => a.1 < b.1) := by decide +kernel

theorem wit_LanesPinsAndTemperature_more : srv.lanesLive = true ∧ (20 : Nat) ≤ 255
    ∧ (srv.setLane 0 23 16 20).liveFld (R.laneCfg + 4 * 0) 9 2 = 20 ∧ (srv.setLane 0 23 16 21).liveFld (R.laneCfg + 4 * 0) 9 2 < 21
    ∧ (3 : Nat) < 4 := by decide +kernel

theorem wit_LanesPinsAndTemperature : srv.laneState 19 ≠ 3 ∧ srv.laneSeeks 16 = true ∧ srv.laneSeeks 19 = true
    ∧ (withReg srv (R.laneCfg + 64) 0).liveFld (R.laneCfg + 64) 1 0 = 0 ∧ spGet false srv.hlth.txTried 16 = false
    ∧ (withReg srv (R.laneCfg + 64) 0).laneSeeks 16 = true
    ∧ (let d := (withReg srv R.laneCfg (255 * 4)).setLane 0 23 16 254
       254 < d.liveFld (R.laneCfg + 4 * 0) 9 2 ∧ spGet false d.hlth.eyeLow 0 = false
       ∧ spGet false (d.onHlth (fun x => { x with eyeLow := [(0, true)] })).hlth.eyeLow 0 = true)
    ∧ srv.pinDrives 17 = true ∧ (srv.setIo R.hlthGpioDir (2 ^ 15)).pinDrives 15 = true ∧ spGet false srv.hlth.highZ 17 = false
    ∧ srv.ioFld R.hlthXtemp 9 8 ≠ 1 ∧ srv.ioFld (R.hlthXtemp + 4) 9 8 ≠ 2
    ∧ ((inMode 1).onStrong (fun x => { x with powered := false })).strong.powered = false ∧ (inMode 1).mode ≠ Mode.cold
    ∧ (-128 : Int) ≤ -128 ∧ (127 : Int) ≤ 127
    ∧ 1024 ≤ (srv.onHlth (fun h => { h with cool := 1024 })).hlth.cool
    ∧ hottest [(3, 40), (7, 40), (9, 12)] = some (3, 40) := by decide

/-- Master 3 has selected thread 1 of core 0 of gallery 0, in a state. -/
def dbgDev (s : TState) : Dev := (srv.setPer 3 R.dbugSel 0x80).setThr u { Thread.init with state := s }

theorem wit_Debugger : [TState.idle, .ready, .halted, .parked].all (fun x =>
    !(dbgDev x).noPath 3 && !((dbgDev x).thr u).haltReq && !((dbgDev x).thr u).stepping && (dbgDev x).serving && !(dbgDev x).dbugBusy 3 && (dbgDev x).dbugThread 3 == some u
      && ((dbgDev x).thr u).state == x && ((dbgDev x).thr u).macroRun.isNone) = true := by decide

/-- The same thread changed. -/
def dbgThr (f : Thread → Thread) : Dev := (dbgDev .waiting).updThr u f

/-- A wait of its own, one for the session stage, and threads within a macro. -/
theorem wit_Debugger_waits : (let t := (dbgThr (fun t => { t with wait := { Wait.idle with kind := .wfe } })).thr u
      t.state = .waiting ∧ t.wait.kind ≠ .sess ∧ t.macroRun = none)
    ∧ ((dbgThr (fun t => { t with wait := { Wait.idle with kind := .sess } })).thr u).wait.kind = .sess
    ∧ (let t := (dbgThr (fun t => { t with state := .ready, macroRun := some ⟨5, 1, 1, 0, []⟩ })).thr u
       t.state = .ready ∧ t.macroRun ≠ none) ∧ (dbgThr id).dbugThread 3 = some u := by decide

/-! ## What no command of a kind can do -/

theorem wit_StoresKeepMemories : ∃ t, exec .resetAssert (st srv) = .next t ∧ srv.memoriesWf = true := ⟨_, rfl, by decide +kernel⟩

theorem wit_SealStaysBroken : ∃ t, reachesStrongroom .srPowerLoss = true
    ∧ exec .srPowerLoss (st (strongAt 0 (fun x => { x with sealOk := false }))) = .next t
    ∧ (st (strongAt 0 (fun x => { x with sealOk := false }))).dev.strong.sealOk = false := ⟨_, by decide, rfl, by decide⟩

/-- A broken seal when a word of the Strongroom's private memory fails, and when reset is asserted. -/
theorem wit_SealStaysBroken_more : ∃ t u, let s := st (strongAt 0 (fun x => { x with sealOk := false }))
    exec (.memoryError 10 0 true 0) s = .next t ∧ exec .resetAssert s = .next u ∧ s.dev.strong.sealOk = false :=
  ⟨_, _, rfl, rfl, by decide⟩

/-! ## Corners of the statements on the Rope, the island and the sensors -/

/-- UP at version 1: the commands of version 2 are dropped. -/
def oldDev : Dev := ropeDev 64 6 id
/-- A read by master 4 awaits its data. -/
def dmaDev : Dev := (upDev id).onHost (fun h => { h with reads := [(7, ⟨4, 0, 4, .image⟩)] })
/-- Core 0 has had one error of its instruction memory. -/
def icDev : Dev := (srvAt 1023).onHlth (fun h => { h with icErr := [(0, 0)] })

theorem wit_Corners : oldDev.ropeUp = true ∧ oldDev.ropeVer < 2
    ∧ dmaDev.ropeUp = true ∧ dmaDev.ropeVer = 2 ∧ spFind dmaDev.host.reads 7 = some ⟨4, 0, 4, .image⟩
    ∧ (upDev (fun r => { r with mbox := some (5, []) })).ropeUp = true
    ∧ (upDev (fun r => { r with mbox := some (5, []) })).rope.mbox = some (5, []) ∧ (6 : Nat) ≠ 5
    ∧ bitOf ((upDev id).live R.ropeCfg) 4 = false
    ∧ memPlace 4 0 = true ∧ spFind icDev.hlth.icErr 0 = some 0 ∧ icDev.drip.now < 0 + 1024 ∧ icDev.mode ≠ Mode.cold
    ∧ bitOf 0 1 = false ∧ bitOf 0 2 = false ∧ (7 : Nat) ≤ 7 ∧ (15 : Nat) < 16 ∧ (39 : Nat) < 40 ∧ (4 : Nat) ≠ 3 := by decide

end Sys2Proof.Tests
end

section
/-! PROOF. CSR_WRITE and the reads with a side effect (R7 to R9, R29, R42, R55, R58, R388, R515): what the write of a register
leaves in each place, which write is refused or reserved, and what a read leaves behind. -/

namespace Sys2Proof.Machine

variable (d : Dev)

/-! ## Register words -/

/-- A word read as a number and written again is the same word. -/
@[simp] theorem w32_toNat (w : Word) : w32 w.toNat = w := BitVec.ofNat_toNat 32 w

/-- A number taken as a word keeps its low 32 bits. -/
theorem w32_mod (n : Nat) : w32 (n % 2 ^ 32) = w32 n := BitVec.eq_of_toNat_eq (by simp [w32])

/-- A register holds a word. -/
@[simp] theorem Dev.toNat_w32_io (o : Nat) : (w32 (d.io o)).toNat = d.io o := by simp [Dev.io]

/-- A register written with a word holds it. -/
theorem Dev.io_setIo_word (o : Nat) (w : Word) : (d.setIo o w.toNat).io o = w.toNat := by
  rw [Dev.io_setIo_same]; exact Nat.mod_eq_of_lt w.isLt

theorem Dev.per_setPer_ne (m o v n p : Nat) (h : perKey n p ≠ perKey m o) : (d.setPer m o v).per n p = d.per n p := by
  simp only [Dev.per, Dev.setPer, Dev.onCsr, spGet_eq_spFind]
  rw [spFind_spSet_ne _ _ _ _ _ h]

/-! ## The fields of a register, kind by kind

`Dev.writeFields` writes the kinds of field one after the other: each is a stage with its own lemmas. -/

/-- The bits of a register that a write sets at once. -/
abbrev RegDef.rwBits (r : RegDef) : Word := r.maskOf (fun a => a == .rw || a == .wo)

/-- The bits of a register that a written 1 clears. -/
abbrev RegDef.w1cBits (r : RegDef) : Word := r.maskOf (fun a => a == .w1c)

/-- The bits of a register that a write holds until the drip ends. -/
abbrev RegDef.stBits (r : RegDef) : Word := r.maskOf (fun a => a == .st)

/-- The RW and WO fields of a register take the value at once (R58), in the master's own copy where there is one. -/
def Dev.writeAtOnce (d : Dev) (r : RegDef) (m o : Nat) (w : Word) : Dev :=
  if r.rwBits = 0 then d
  else if r.perMaster then d.setPer m o (merge (w32 (d.per m o)) r.rwBits w)
  else d.setIo o (merge (w32 (d.io o)) r.rwBits w)

/-- Each 1 written to a W1C field clears its bit (R7). -/
def Dev.clearOnes (d : Dev) (r : RegDef) (o : Nat) (w : Word) : Dev :=
  if r.w1cBits = 0 then d else d.setIo o (w32 (d.io o) &&& ~~~(w &&& r.w1cBits)).toNat

/-- What a write leaves to the end of the drip: its ST fields (R42). -/
def heldWrites (r : RegDef) (m o : Nat) (w : Word) : List StagedWrite :=
  if r.stBits = 0 then [] else [⟨m, .reg o, [w &&& r.stBits]⟩]

/-- The writes that wait for the end of the drip are queued. -/
def Dev.holdWrites (d : Dev) (l : List StagedWrite) : Dev := d.onDrip (fun p => { p with writes := p.writes ++ l })

theorem Dev.writeFields_eq (r : RegDef) (m o v : Nat) :
    d.writeFields r m o v
      = ((d.writeAtOnce r m o (w32 v)).clearOnes r o (w32 v)).holdWrites (heldWrites r m o (w32 v)) := by
  unfold Dev.writeFields heldWrites
  by_cases h : r.stBits = 0
  · simp [h, Dev.writeAtOnce, Dev.clearOnes, Dev.holdWrites, Dev.onDrip]
  · simp only [h, if_false]; rfl

section
variable (r : RegDef) (m o : Nat) (w : Word)

@[simp] theorem Dev.commitPart_writeAtOnce : (d.writeAtOnce r m o w).commitPart = d.commitPart := by
  unfold Dev.writeAtOnce
  split
  · rfl
  · split <;> rfl

@[simp] theorem Dev.commitPart_clearOnes : (d.clearOnes r o w).commitPart = d.commitPart := by
  unfold Dev.clearOnes; split <;> rfl

@[simp] theorem Dev.copies_clearOnes : (d.clearOnes r o w).csr.per = d.csr.per := by
  unfold Dev.clearOnes; split <;> rfl

/-- A register that the masters share holds the written fields. -/
theorem Dev.io_writeAtOnce_shared (h : r.perMaster = false) :
    w32 ((d.writeAtOnce r m o w).io o)
      = if r.rwBits = 0 then w32 (d.io o) else w32 (merge (w32 (d.io o)) r.rwBits w) := by
  unfold Dev.writeAtOnce
  split
  · rfl
  · rw [if_neg (by simp [h])]
    exact congrArg w32 (Dev.io_setIo_word d o _)

theorem Dev.io_writeAtOnce_ne (b : Nat) (h : b ≠ o) : (d.writeAtOnce r m o w).io b = d.io b := by
  unfold Dev.writeAtOnce
  split
  · rfl
  · split
    · exact Dev.io_setPer d m o _ b
    · exact Dev.io_setIo_ne d o b _ h

/-- A register that the masters share has no copies to change. -/
theorem Dev.copies_writeAtOnce_shared (h : r.perMaster = false) : (d.writeAtOnce r m o w).csr.per = d.csr.per := by
  unfold Dev.writeAtOnce
  split
  · rfl
  · rw [h]; rfl

/-- Of a register with a copy for each master, the master's own copy holds the written fields. -/
theorem Dev.per_writeAtOnce_own (h : r.perMaster = true) (hrw : r.rwBits ≠ 0) :
    (d.writeAtOnce r m o w).per m o = merge (w32 (d.per m o)) r.rwBits w := by
  simp only [Dev.writeAtOnce, if_neg hrw, h, if_true, Dev.per_setPer_same]
  exact Nat.mod_eq_of_lt (BitVec.isLt _)

theorem Dev.per_writeAtOnce_ne (n b : Nat) (h : perKey n b ≠ perKey m o) :
    (d.writeAtOnce r m o w).per n b = d.per n b := by
  unfold Dev.writeAtOnce
  split
  · rfl
  · split
    · exact Dev.per_setPer_ne d m o _ n b h
    · exact Dev.per_setIo d o _ n b

theorem Dev.io_clearOnes_same :
    (d.clearOnes r o w).io o = (w32 (d.io o) &&& ~~~(w &&& r.w1cBits)).toNat := by
  unfold Dev.clearOnes
  split
  case isTrue h =>
    have hk : ~~~(w &&& r.w1cBits) = BitVec.allOnes 32 := by rw [h]; exact congrArg (~~~·) BitVec.and_zero
    rw [hk, BitVec.and_allOnes, Dev.toNat_w32_io]
  case isFalse => exact Dev.io_setIo_word d o _

theorem Dev.io_clearOnes_ne (b : Nat) (h : b ≠ o) : (d.clearOnes r o w).io b = d.io b := by
  unfold Dev.clearOnes
  split
  · rfl
  · exact Dev.io_setIo_ne d o b _ h

end

/-! ## The outcome of an export size (R458)

A write of exp_log2 also leaves a code in HOST_EXP_STAT, and nothing else. -/

theorem Dev.io_expConfig (o v b : Nat) (h : b ≠ R.hostExpStat) : (d.expConfig o v).io b = d.io b := by
  unfold Dev.expConfig
  split
  · exact Dev.io_setIo_ne d _ b _ h
  · rfl

@[simp] theorem Dev.copies_expConfig (o v : Nat) : (d.expConfig o v).csr.per = d.csr.per := by
  unfold Dev.expConfig; split <;> rfl

@[simp] theorem Dev.commitPart_expConfig (o v : Nat) : (d.expConfig o v).commitPart = d.commitPart := by
  unfold Dev.expConfig; split <;> rfl

/-! ## A write that takes its effect -/

/-- The device after a write of the fields of a register. -/
def Dev.fieldsWritten (d : Dev) (r : RegDef) (m o v : Nat) : Dev := (d.writeFields r m o v).expConfig o v

section
variable (r : RegDef) (m o v : Nat)

/-- What commits decide on is the same but for the writes held until the drip ends. -/
theorem Dev.commitPart_fieldsWritten :
    (d.fieldsWritten r m o v).commitPart
      = ({ d.drip with writes := d.drip.writes ++ heldWrites r m o (w32 v) }, d.commitPart.2) := by
  have h : ((d.writeAtOnce r m o (w32 v)).clearOnes r o (w32 v)).commitPart = d.commitPart := by simp
  simp only [Dev.commitPart, Prod.mk.injEq] at h
  obtain ⟨hdrip, hgroups, hbankA, hbankB⟩ := h
  rw [Dev.fieldsWritten, Dev.commitPart_expConfig, Dev.writeFields_eq]
  simp [Dev.commitPart, Dev.holdWrites, Dev.onDrip, hdrip, hgroups, hbankA, hbankB]

/-- The words outside the masters' copies come from the two stages that write at once. -/
theorem Dev.io_fieldsWritten (b : Nat) (h : b ≠ R.hostExpStat) :
    (d.fieldsWritten r m o v).io b = ((d.writeAtOnce r m o (w32 v)).clearOnes r o (w32 v)).io b := by
  rw [Dev.fieldsWritten, Dev.io_expConfig _ _ _ _ h, Dev.writeFields_eq]; rfl

/-- The masters' copies come from the RW fields alone. -/
theorem Dev.copies_fieldsWritten : (d.fieldsWritten r m o v).csr.per = (d.writeAtOnce r m o (w32 v)).csr.per := by
  rw [Dev.fieldsWritten, Dev.copies_expConfig, Dev.writeFields_eq]
  exact Dev.copies_clearOnes _ r o _

/-- A master's copy after the write is its copy after the RW fields. -/
theorem Dev.per_fieldsWritten (n b : Nat) :
    (d.fieldsWritten r m o v).per n b = (d.writeAtOnce r m o (w32 v)).per n b := by
  simp only [Dev.per, Dev.copies_fieldsWritten]

/-- A shared register holds its written RW fields, less the bits that a 1 clears. -/
theorem Dev.io_fieldsWritten_same (hp : r.perMaster = false) (h : o ≠ R.hostExpStat) :
    (d.fieldsWritten r m o v).io o
      = ((if r.rwBits = 0 then w32 (d.io o) else w32 (merge (w32 (d.io o)) r.rwBits (w32 v)))
        &&& ~~~(w32 v &&& r.w1cBits)).toNat := by
  rw [Dev.io_fieldsWritten d r m o v o h, Dev.io_clearOnes_same, Dev.io_writeAtOnce_shared d r m o _ hp]

/-- No other register changes. -/
theorem Dev.io_fieldsWritten_ne (b : Nat) (hb : b ≠ o) (h : b ≠ R.hostExpStat) :
    (d.fieldsWritten r m o v).io b = d.io b := by
  rw [Dev.io_fieldsWritten d r m o v b h, Dev.io_clearOnes_ne _ _ _ _ _ hb, Dev.io_writeAtOnce_ne _ _ _ _ _ _ hb]

end

/-! ## The cases of a write to a register without an action -/

section
variable {d} {r : RegDef} {m o v : Nat}

theorem Dev.plainWrite_closed (h : d.blockOpen o = false) : d.plainWrite m o v = d.refuse m o Code.notOwner := by
  simp [Dev.plainWrite, h]

theorem Dev.plainWrite_hole (h : d.blockOpen o = true) (hr : regAt o = none) :
    d.plainWrite m o v = d.reservedCsr m o := by
  simp [Dev.plainWrite, h, hr]

theorem Dev.plainWrite_readOnly (h : d.blockOpen o = true) (hr : regAt o = some r) (hm : r.maskOf writable = 0#32)
    (hv : r.base ≠ R.parsPRsvd ∨ v ≠ 0) : d.plainWrite m o v = d.reservedCsr m o := by
  simp [Dev.plainWrite, h, hr, hm, hv]

theorem Dev.plainWrite_notOwner (h : d.blockOpen o = true) (hr : regAt o = some r) (hm : r.maskOf writable ≠ 0#32)
    (hw : d.mayWrite r m o = false) : d.plainWrite m o v = d.refuse m o Code.notOwner := by
  simp [Dev.plainWrite, h, hr, hm, hw]

theorem Dev.plainWrite_reservedBits (h : d.blockOpen o = true) (hr : regAt o = some r) (hm : r.maskOf writable ≠ 0#32)
    (hw : d.mayWrite r m o = true) (hh : d.hostHidden o = false) (hv : w32 v &&& ~~~(r.maskOf writable) ≠ 0#32) :
    d.plainWrite m o v = d.reservedCsr m o := by
  simp [Dev.plainWrite, h, hr, hm, hw, hh, hv]

theorem Dev.plainWrite_fields (h : d.blockOpen o = true) (hr : regAt o = some r) (hm : r.maskOf writable ≠ 0#32)
    (hw : d.mayWrite r m o = true) (hh : d.hostHidden o = false) (hv : w32 v &&& ~~~(r.maskOf writable) = 0#32) :
    d.plainWrite m o v = d.fieldsWritten r m o v := by
  simp [Dev.plainWrite, Dev.fieldsWritten, h, hr, hm, hw, hh, hv]

/-- A register that its chapter gives to no master of its own is written by the owner set of its block (R55). -/
theorem Dev.mayWrite_ownerSet (hb : (groupOf o).getD 0 ≠ 2) (hf : r.ownedFrom = none) (hn : r.masters = [])
    (hp : r.perMaster = false) (hm : r.maskOf owned ≠ 0#32) :
    d.mayWrite r m o = bitOf (d.io (R.dripOwn + 4 * (groupOf o).getD 0)) m := by
  simp [Dev.mayWrite, Dev.owns, hb, hf, hn, hp, hm]

/-! ## The command -/

/-- CSR_WRITE below the host's alias writes the word that it names (R447, R515). -/
theorem exec_csrWrite (s : State) (be : Nat) (hm : writer m = true) (ha : o % 4 = 0) (ho : o < 2 ^ 28) (hv : v < 2 ^ 32) :
    exec (.csrWrite m o v be) s = .next (s.withDev (s.dev.beWrite m o v be)) := by
  have hw : windowAt m o = o := by
    unfold windowAt
    exact if_neg (by simp only [Bool.and_eq_true, decide_eq_true_eq]; omega)
  change execCsrWrite m o v be s = _
  simp [-Nat.reducePow, execCsrWrite, hw, hm, ha, Nat.not_le_of_lt ho, Nat.mod_eq_of_lt hv]

/-- A whole word written to a register without an action. -/
theorem Dev.beWrite_plain (hc : d.noPath m = false) (ho : o < 0x8000000) (hl : d.actionLow m o v = none)
    (hh : d.actionHigh m o v = none) : d.beWrite m o v 15 = d.plainWrite m o v := by
  have h1 : ¬ 0xF000000 ≤ o := by omega
  have h2 : ¬ 0x8000000 ≤ o := by omega
  simp [Dev.beWrite, Dev.csrWrite, hc, hl, hh, h1, h2]

/-- A write that does not enable all four bytes writes nothing (R515). -/
theorem Dev.beWrite_part {be : Nat} (hc : d.noPath m = false) (hbe : be % 16 ≠ 15) :
    d.beWrite m o v be = if d.blockOpen o then (d.reservedCsr m o).lastWrite m o Code.reserved
      else d.refuse m o Code.notOwner := by
  cases hb : d.blockOpen o <;> simp [Dev.beWrite, hc, hbe, hb]

end

/-! ## Reads with a side effect -/

/-- An answer changes no register. -/
@[simp] theorem Dev.io_answer (m v o : Nat) : (d.answer m v).io o = d.io o := rfl

theorem Dev.clearRc_of_regAt {o : Nat} {r : RegDef} (h : regAt o = some r) :
    d.clearRc o = d.setIo o (w32 (d.io o) &&& ~~~(r.maskOf (fun a => a == .rc))).toNat := by
  unfold Dev.clearRc; rw [h]

/-- Clearing the RC bits of a register leaves the answers that masters have. -/
@[simp] theorem Dev.rdata_clearRc (o : Nat) : (d.clearRc o).csr.rdata = d.csr.rdata := by
  unfold Dev.clearRc; split <;> rfl

@[simp] theorem Dev.copies_clearRc (o : Nat) : (d.clearRc o).csr.per = d.csr.per := by
  unfold Dev.clearRc; split <;> rfl

@[simp] theorem Dev.drip_clearRc (o : Nat) : (d.clearRc o).drip = d.drip := by
  unfold Dev.clearRc; split <;> rfl

/-- A read of a register whose read has no effect but to clear its RC bits (R8). -/
theorem Dev.csrRead_clears {m o : Nat} (ha : o % 4 = 0) (hs : o < 0xF000000)
    (hn : o ∉ [R.ltchHostAcq, R.ltchHostTry, R.hlthGpioIn, R.dripNowLo]) (hb : d.blockOpen o = true)
    (hh : d.hostHidden o = false) : d.csrRead m o = (d.answer m (d.regValue m o false)).clearRc o := by
  have h1 : ¬ 0xF000000 ≤ o := by omega
  simp only [List.mem_cons, List.not_mem_nil, or_false, not_or] at hn
  obtain ⟨hacq, htry, hgpio, hnow⟩ := hn
  simp [Dev.csrRead, ha, h1, hacq, htry, hgpio, hnow, hb, hh]

/-- No version of the host interface hides the drip number (R451). -/
theorem Dev.hostHidden_dripNowLo : d.hostHidden R.dripNowLo = false := by
  have h : hostSince R.dripNowLo = 0 := by decide
  simp [Dev.hostHidden, h]

/-- DRIP_NOW_LO shows the low word of the drip number (R29). -/
theorem Dev.regValue_dripNowLo (m : Nat) (h : d.serving = true) :
    d.regValue m R.dripNowLo false = d.drip.now % 2 ^ 32 := by
  have hf : d.formedReg m R.dripNowLo false = some (d.drip.now % 2 ^ 32) := by
    simp only [Dev.formedReg, Dev.dripReg, show R.dripNowLo < 0x200000 by decide, if_true]
  simp [Dev.regValue, Dev.blockOpen_of_serving d h, Dev.hostHidden_dripNowLo, hf]

/-- A read of DRIP_NOW_LO answers the low word and latches the high one for the master (R29). -/
theorem Dev.csrRead_dripNowLo (m : Nat) (h : d.serving = true) :
    d.csrRead m R.dripNowLo
      = ((d.answer m d.drip.now).clearRc R.dripNowLo).setPer m R.dripNowHi (d.drip.now / 2 ^ 32) := by
  have ha : d.answer m (d.drip.now % 2 ^ 32) = d.answer m d.drip.now := by simp only [Dev.answer, w32_mod]
  rw [← ha, ← Dev.regValue_dripNowLo d m h]
  have hplace : R.dripNowLo % 4 = 0 ∧ ¬ 0xF000000 ≤ R.dripNowLo := by decide
  have hother : R.dripNowLo ≠ R.ltchHostAcq ∧ R.dripNowLo ≠ R.ltchHostTry ∧ R.dripNowLo ≠ R.hlthGpioIn := by decide
  simp only [Dev.csrRead, ne_eq, hplace, hother, h, Dev.blockOpen_of_serving d h, Dev.hostHidden_dripNowLo, not_true_eq_false,
    decide_false, decide_true, Bool.false_and, Bool.and_self, Bool.not_false, Bool.false_eq_true, if_true, if_false]

/-- A read of STRG_TIME_LO answers the Strongroom's time, which has moved on, and latches its high word (R388). -/
theorem Dev.csrRead_strgTimeLo (m : Nat) :
    d.csrRead m 0xF000030 = (d.strongPass.answer m (d.strongPass.strgValue 0x30)).onStrong (fun x =>
      { x with timeLatch := spSet 0 x.timeLatch m (w32 (d.strongPass.strgValue 0x34)) }) := by
  simp [Dev.csrRead]

section
variable {m : Nat} (s : State) (hm : reader m = true) (hc : s.dev.noPath m = false)
include hm hc

theorem exec_counterReadClear {o : Nat} {r : RegDef} (hr : regAt o = some r) (hrc : r.maskOf (fun a => a == .rc) ≠ 0#32) :
    exec (.counterReadClear m o) s = .next (s.withDev (s.dev.csrRead m o)) := by
  change execCounterReadClear m o s = _
  simp [execCounterReadClear, hr, hm, hrc, hc]

theorem exec_dripNowRead : exec (.dripNowRead m) s = .next (s.withDev (s.dev.csrRead m R.dripNowLo)) := by
  change execDripNowRead m s = _
  simp [execDripNowRead, hm, hc]

theorem exec_strgTimeRead : exec (.strgTimeRead m) s = .next (s.withDev (s.dev.csrRead m 0xF000030)) := by
  change execStrgTimeRead m s = _
  simp [execStrgTimeRead, hm, hc]

end

/-! ## The obligations -/

/-- Settles O4: a whole word comes down to one case of `Dev.plainWrite`, whose last is the stages of `Dev.writeFields`; a part of
a word never gets there. -/
theorem csrWrites : Obligations.CsrWrites := by
  unfold Obligations.CsrWrites
  refine ⟨⟨?whole, fun d r m o hb hf hn hp hm => Dev.mayWrite_ownerSet hb hf hn hp hm⟩, ?part,
    fun d m o code => ⟨rfl, rfl⟩⟩
  case part =>
    intro s m o v be hm ha ho hv hc hbe
    rw [exec_csrWrite s be hm ha ho hv, Dev.beWrite_part hc hbe]
  case whole =>
    intro s m o v hm ha ho hv hc hl hh
    have hex : exec (.csrWrite m o v 15) s = .next (s.withDev (s.dev.plainWrite m o v)) := by
      rw [exec_csrWrite s 15 hm ha (by omega) hv, Dev.beWrite_plain hc ho hl hh]
    rw [hex]
    refine ⟨fun hb => ?closed, fun hb => ⟨fun hr => ?hole, fun r hr => ⟨fun hk hz => ?readOnly, fun hk hw => ?notOwner,
      fun hk hw hd => ⟨fun hz => ?reservedBits, fun hz => ?fields⟩⟩⟩⟩
    case closed => rw [Dev.plainWrite_closed hb]
    case hole => rw [Dev.plainWrite_hole hb hr]
    case readOnly => rw [Dev.plainWrite_readOnly hb hr hk hz]
    case notOwner => rw [Dev.plainWrite_notOwner hb hr hk hw]
    case reservedBits => rw [Dev.plainWrite_reservedBits hb hr hk hw hd hz]
    case fields =>
      rw [Dev.plainWrite_fields hb hr hk hw hd hz]
      have hpart := s.dev.commitPart_fieldsWritten r m o v
      simp only [Dev.commitPart, Prod.mk.injEq] at hpart
      obtain ⟨hdrip, hgroups, hbankA, hbankB⟩ := hpart
      refine ⟨_, rfl, fun hp he => ⟨s.dev.io_fieldsWritten_same r m o v hp he, ?_⟩, fun hp hrw => ⟨?_, fun n b hne => ?_⟩,
        congrArg Drip.writes hdrip, s.dev.io_fieldsWritten_ne r m o v, hbankA, hbankB, hgroups⟩
      · exact (s.dev.copies_fieldsWritten r m o v).trans (s.dev.copies_writeAtOnce_shared r m o _ hp)
      · exact (s.dev.per_fieldsWritten r m o v m o).trans (s.dev.per_writeAtOnce_own r m o _ hp hrw)
      · exact (s.dev.per_fieldsWritten r m o v n b).trans (s.dev.per_writeAtOnce_ne r m o _ n b hne)

/-- Settles O5: each command is a read of one word, and each such read has its lemma. -/
theorem latchingReads : Obligations.LatchingReads := by
  unfold Obligations.LatchingReads
  intro s m hm hc
  refine ⟨fun o r ha hs hr hrc hn hb hh => ?_, fun hs => ?_, ?_⟩
  · rw [exec_counterReadClear s hm hc hr hrc, Dev.csrRead_clears _ ha hs hn hb hh, Dev.clearRc_of_regAt _ hr, Dev.io_answer]
  · rw [exec_dripNowRead s hm hc, Dev.csrRead_dripNowLo _ m hs]
    refine ⟨_, rfl, Dev.rdata_clearRc _ _, ?_, Dev.drip_clearRc _ _⟩
    exact congrArg (spSet _ · _ _) (Dev.copies_clearRc _ _)
  · rw [exec_strgTimeRead s hm hc, Dev.csrRead_strgTimeLo]

end Sys2Proof.Machine
end

section
/-! PROOF. The captured views (R59 to R61): what every command but VIEW_CAPTURE leaves of them, and the writes of the buffers. -/

namespace Sys2Proof.Machine

/-- A command that changes the device only, with the device it leads to put another way. -/
theorem exec_withDev_congr {c : Instr} {s : State} {d e : Dev} (hc : exec c s = .next (s.withDev d)) (hd : d = e) :
    exec c s = .next (s.withDev e) := hd ▸ hc

/-! ## What changes the captured views -/

/-- A read of the window changes the device only. -/
theorem State.csrRead_withDev (s : State) (m o : Nat) : ∃ d, s.csrRead m o = s.withDev d := by
  simp only [State.csrRead]
  split <;> exact ⟨_, rfl⟩

/-- A read by the partner changes the device only. -/
theorem State.peerRead_withDev (s : State) (peer o : Nat) : ∃ d, s.peerRead peer o = s.withDev d := by
  obtain ⟨e, he⟩ := s.csrRead_withDev 4 o
  simp only [State.peerRead, he]
  split <;> exact ⟨_, rfl⟩

theorem execCounterReadClear_withDev (m addr : Nat) (s : State) : ∃ d, execCounterReadClear m addr s = .next (s.withDev d) := by
  unfold execCounterReadClear
  split
  · split <;> exact ⟨_, rfl⟩
  · exact ⟨_, rfl⟩

theorem execRopeReqReceive_withDev (ver peer : Nat) (write : Bool) (off : Nat) (data : ReqData) (s : State) :
    ∃ d, execRopeReqReceive ver peer write off data s = .next (s.withDev d) := by
  simp only [execRopeReqReceive]
  split
  · exact ⟨_, rfl⟩
  · obtain ⟨e, he⟩ := State.peerRead_withDev { s with dev := s.dev.ropeCount 2 } (peer % 8) (off % 2 ^ 28 / 4 * 4)
    exact ⟨e, congrArg _ he⟩

/-- Every command but VIEW_CAPTURE changes the device only: the captured views and the queue stay. -/
theorem exec_withDev {c : Instr} (hc : ∀ v, c ≠ .viewCapture v) (s : State) : ∃ d, exec c s = .next (s.withDev d) := by
  cases c
  case viewCapture v => exact absurd rfl (hc v)
  case counterReadClear m addr => exact execCounterReadClear_withDev m addr s
  case ropeReqReceive ver peer write off data => exact execRopeReqReceive_withDev ver peer write off data s
  all_goals exact ⟨_, rfl⟩

section
variable {s : State} {v : Nat}

theorem exec_viewCapture_due (h : s.dev.captureDue v = true) :
    exec (.viewCapture v) s
      = .next { s with dev := s.dev.viewReady v, copies := spPut s.copies v { s.dev with out := [] } } := by
  change execViewCapture v s = _
  simp [execViewCapture, h]

theorem exec_viewCapture_notDue (h : s.dev.captureDue v = false) : exec (.viewCapture v) s = .next s := by
  change execViewCapture v s = _
  simp [execViewCapture, h]

/-- There are four buffers. -/
theorem Dev.lt_four_of_captureDue {d : Dev} (h : d.captureDue v = true) : v < 4 := by
  simp only [Dev.captureDue, Bool.and_eq_true, decide_eq_true_eq] at h
  obtain ⟨⟨⟨hv, -⟩, -⟩, -⟩ := h
  exact hv

end

/-! ## The order of the captured views -/

theorem State.viewsOk_iff (s : State) :
    s.viewsOk = true ↔ spSorted s.copies = true ∧ ∀ e ∈ s.copies, e.1 < 4 ∧ e.2.out = [] := by
  simp [State.viewsOk]

/-- A capture lists one more view, in its place, with nothing that the device has sent out. -/
theorem State.viewsOk_capture {s : State} {v : Nat} (d e : Dev) (hs : s.viewsOk = true) (hv : v < 4) :
    ({ s with dev := d, copies := spPut s.copies v { e with out := [] } } : State).viewsOk = true := by
  rw [State.viewsOk_iff] at hs ⊢
  obtain ⟨hsort, hall⟩ := hs
  refine ⟨spSorted_spPut _ _ _ hsort, fun x hx => ?_⟩
  rcases mem_spPut _ _ _ _ hx with rfl | hx
  · exact ⟨hv, rfl⟩
  · exact hall x hx

/-- Every command keeps the captured views in order. -/
theorem exec_viewsOk {c : Instr} {s t : State} (hs : s.viewsOk = true) (h : exec c s = .next t) : t.viewsOk = true := by
  by_cases hc : ∃ v, c = .viewCapture v
  · obtain ⟨v, rfl⟩ := hc
    cases hd : s.dev.captureDue v with
    | true =>
      rw [exec_viewCapture_due hd, Host.Outcome.next.injEq] at h
      exact h ▸ State.viewsOk_capture _ _ hs (Dev.lt_four_of_captureDue hd)
    | false =>
      rw [exec_viewCapture_notDue hd, Host.Outcome.next.injEq] at h
      exact h ▸ hs
  · obtain ⟨d, hd⟩ := exec_withDev (not_exists.mp hc) s
    rw [hd, Host.Outcome.next.injEq] at h
    exact h ▸ hs

/-- No command but its own VIEW_CAPTURE changes what a buffer has captured. -/
theorem exec_copies_of_ne {c : Instr} {s t : State} {v : Nat} (hc : c ≠ .viewCapture v) (h : exec c s = .next t) :
    spFind t.copies v = spFind s.copies v := by
  by_cases hw : ∃ w, c = .viewCapture w
  · obtain ⟨w, rfl⟩ := hw
    cases hd : s.dev.captureDue w with
    | true =>
      rw [exec_viewCapture_due hd, Host.Outcome.next.injEq] at h
      exact h ▸ spFind_spPut_ne _ _ _ _ (fun e => hc (congrArg _ e.symm))
    | false =>
      rw [exec_viewCapture_notDue hd, Host.Outcome.next.injEq] at h
      exact h ▸ rfl
  · obtain ⟨d, hd⟩ := exec_withDev (not_exists.mp hw) s
    rw [hd, Host.Outcome.next.injEq] at h
    exact h ▸ rfl

/-! ## Requests and releases -/

section
variable {d : Dev} {m v : Nat}

/-- A request of a FREE buffer, or of a READY one by its holder, plans the capture (R61). -/
theorem Dev.viewReq_plans {delay : Nat} (hv : v < 4) (hd : delay < 256) (hc : d.noPath m = false)
    (ho : d.blockOpen R.dripViewReq = true) (hm : d.owns m 1 = true)
    (hb : (d.view v).state = .free ∨ ((d.view v).state = .ready ∧ (d.view v).holder = m)) :
    d.viewReq m (v + delay * 2 ^ 8) = d.setView v ⟨.pending, m, d.drip.now + 1 + delay⟩ := by
  have hbuf : bits (v + delay * 2 ^ 8) 1 0 = v := by simp only [bits]; omega
  have hres : bits (v + delay * 2 ^ 8) 7 3 = 0 := by simp only [bits]; omega
  have hrel : bitOf (v + delay * 2 ^ 8) 2 = false := by simp only [bitOf, beq_eq_false_iff_ne]; omega
  have hdel : bits (v + delay * 2 ^ 8) 15 8 = delay := by simp only [bits]; omega
  unfold Dev.viewReq
  rw [Dev.ownDoorbell_acts d m 1 _ 16 _ _ hc ho hm (by omega)]
  simp only [hbuf, hres, hrel, hdel]
  rcases hb with hb | ⟨hb, hh⟩
  · simp [hb]
  · simp [hb, hh]

/-- A release by the holder frees the buffer (R61). -/
theorem Dev.viewReq_frees (hv : v < 4) (hc : d.noPath m = false)
    (ho : d.blockOpen R.dripViewReq = true) (hm : d.owns m 1 = true)
    (hb : (d.view v).state ≠ .free) (hh : (d.view v).holder = m) :
    d.viewReq m (v + 4) = d.setView v ViewBuf.init := by
  have hbuf : bits (v + 4) 1 0 = v := by simp only [bits]; omega
  have hres : bits (v + 4) 7 3 = 0 := by simp only [bits]; omega
  have hrel : bitOf (v + 4) 2 = true := by simp only [bitOf, beq_iff_eq]; omega
  unfold Dev.viewReq
  rw [Dev.ownDoorbell_acts d m 1 _ 16 _ _ hc ho hm (by omega)]
  simp only [hbuf, hres, hrel]
  simp [hb, hh]

end

/-! ## The obligations -/

/-- Settles O3: only a capture changes the captured views, and it lists the view of one of the four buffers, without output. -/
theorem stepKeepsViewsOk : Obligations.StepKeepsViewsOk := by
  unfold Obligations.StepKeepsViewsOk
  intro s t hs h
  unfold step at h
  split at h
  · rw [Host.Outcome.next.injEq] at h
    exact h ▸ hs
  · next c rest _ => exact exec_viewsOk (s := s.popped rest) hs h

/-- Settles O10: each write of DRIP_VIEW_REQ is one case of `Dev.viewReq`, and every command but a capture changes the device
only. -/
theorem viewBuffers : Obligations.ViewBuffers := by
  unfold Obligations.ViewBuffers
  refine ⟨fun s m v hv hserv => ⟨fun hm hc => ⟨fun delay hd hb => ?request, fun hb hh => ?release⟩, fun hb hdrip => ?capture⟩,
    fun c s t v => exec_copies_of_ne⟩
  case request =>
    have hopen := s.dev.blockOpen_of_serving hserv R.dripViewReq
    have hplan := Dev.viewReq_plans hv hd hc hopen hm hb
    exact exec_withDev_congr rfl (by simp only [hv, hd, decide_true, Bool.and_self, if_true, hplan])
  case release =>
    have hopen := s.dev.blockOpen_of_serving hserv R.dripViewReq
    exact exec_withDev_congr rfl (by simp only [hv, if_true, Dev.viewReq_frees hv hc hopen hm hb hh])
  case capture =>
    have hdue : s.dev.captureDue v = true := by simp [Dev.captureDue, hv, hserv, hb, hdrip]
    exact ⟨_, exec_viewCapture_due hdue, rfl, spFind_spPut_same _ _ _, rfl⟩

end Sys2Proof.Machine
end

section
/-! PROOF. The generation counter (R38), the reset state (R6, R28, R37, R46, R59, R94), and the writes of the commit slots
(R45, R46). -/

namespace Sys2Proof.Machine

/-! ## The generation counter -/

/-- The counter skips 0 where it wraps. -/
theorem nextGen_of_lt {g : Nat} (h : g < 2 ^ 32) : nextGen g = if g = 2 ^ 32 - 1 then 1 else g + 1 := by
  unfold nextGen
  split
  · rw [if_pos (by omega)]
  · rw [if_neg (by omega)]; omega

/-- Settles O9: the distance of the two values decides `serialBefore`, and it is `k` one way and 2^32 - k the other. -/
theorem generationOrder : Obligations.GenerationOrder := by
  unfold Obligations.GenerationOrder
  refine ⟨fun g hg => ?next, fun a k ha hk hk' => ⟨?before, ?notAfter⟩⟩
  case next =>
    have hn := nextGen_of_lt hg
    refine ⟨?_, ?_, hn⟩ <;> (rw [hn]; split <;> omega)
  case before =>
    have hd : ((a + k) % 2 ^ 32 + 2 ^ 32 - a % 2 ^ 32) % 2 ^ 32 = k := by omega
    simp only [serialBefore, hd, Bool.and_eq_true, decide_eq_true_eq]
    exact ⟨hk, hk'⟩
  case notAfter =>
    have hd : (a + 2 ^ 32 - (a + k) % 2 ^ 32 % 2 ^ 32) % 2 ^ 32 = 2 ^ 32 - k := by omega
    simp only [serialBefore, hd, Bool.and_eq_false_iff, decide_eq_false_iff_not]
    exact .inr (by omega)

/-! ## The reset state -/

/-- Settles O19: nothing is listed at reset, so every read gives a default, and the mode is that of LOAD_STAT's Reset column. -/
theorem resetState : Obligations.ResetState := by
  unfold Obligations.ResetState
  have hmode : State.reset.dev.mode = Mode.load := by decide
  have hserv : State.reset.dev.serving = false := by decide
  exact ⟨⟨rfl, rfl, hmode, hserv, rfl, rfl, fun n => ⟨rfl, rfl, rfl, rfl, rfl, fun g c => rfl⟩⟩, rfl⟩

/-! ## Writes of a commit slot -/

section
variable {d : Dev} {m n : Nat} (hn : n < 16) (hc : d.noPath m = false) (hm : d.owns m 1 = true) (hs : d.serving = true)
include hn hc hm hs

/-- What a write of a slot's mask or target comes to when its value has no reserved bits. -/
theorem Dev.slotWrite_of_state {reg val : Nat} (hr : reg < 3) (hval : val < 2 ^ (if reg = 2 then 28 else 32)) :
    ((d.slot n).state = .free →
      d.slotWrite m n reg val = d.setSlot n { Slot.init.put reg val with state := .opened, holder := m })
    ∧ ((d.slot n).state = .opened → (d.slot n).holder = m →
      d.slotWrite m n reg val = d.setSlot n ((d.slot n).put reg val))
    ∧ ((d.slot n).state ≠ .free → (d.slot n).holder ≠ m →
      d.slotWrite m n reg val = d.refuse m (csOff n reg) Code.notHolder) := by
  have hw : val % 2 ^ 32 = val := Nat.mod_eq_of_lt (by split at hval <;> omega)
  have hplace : ¬ (15 < n ∨ 2 < reg) := by omega
  rw [Dev.slotWrite, hw, if_neg (by simpa using hplace),
    Dev.ownDoorbell_acts d m 1 _ _ _ _ hc (d.blockOpen_of_serving hs _) hm hval]
  refine ⟨fun hfree => ?_, fun hopen hh => ?_, fun hfree hh => ?_⟩
  · simp [hfree]
  · simp [hopen, hh]
  · cases hst : (d.slot n).state <;> simp_all

/-- What a write of a slot's control register comes to when its value has no reserved bits (R46). -/
theorem Dev.slotCtrl_cases {val : Nat} (hval : val < 2 ^ 2) :
    d.slotCtrl m n val
      = if (d.slot n).state = .free || (d.slot n).holder ≠ m then d.refuse m (csOff n 3) Code.notHolder
        else if val = 0 then d
        else if val = 1 && (d.slot n).state = .opened then
          d.setSlot n { d.slot n with state := .armed, armDrip := d.drip.now }
        else if val = 2 && ((d.slot n).state = .opened || (d.slot n).state = .done) then d.setSlot n Slot.init
        else d.refuse m (csOff n 3) Code.reserved := by
  rw [Dev.slotCtrl, if_neg (by omega),
    Dev.ownDoorbell_acts d m 1 _ _ _ _ hc (d.blockOpen_of_serving hs _) hm hval]

end

/-- Settles O6: the holder and the state of the slot choose the case of `Dev.slotWrite` and `Dev.slotCtrl`. -/
theorem commitSlotWrites : Obligations.CommitSlotWrites := by
  unfold Obligations.CommitSlotWrites
  refine ⟨fun s m n hn hc hm hs => ?holder, fun s m n hn hc hm hs hh hfree => ?other⟩
  case holder =>
    refine ⟨fun reg val hr hval hfree => ?claim, fun reg val hr hval hopen hh => ?update, fun hh hfree => ⟨?arm, ?release⟩⟩
    case claim =>
      obtain ⟨hclaim, -, -⟩ := Dev.slotWrite_of_state hn hc hm hs hr hval
      exact exec_withDev_congr rfl (hclaim hfree)
    case update =>
      obtain ⟨-, hupdate, -⟩ := Dev.slotWrite_of_state hn hc hm hs hr hval
      exact exec_withDev_congr rfl (hupdate hopen hh)
    case arm => exact exec_withDev_congr rfl (by simp [Dev.slotCtrl_cases hn hc hm hs (val := 1) (by decide), hfree, hh])
    case release => exact exec_withDev_congr rfl (by simp [Dev.slotCtrl_cases hn hc hm hs (val := 2) (by decide), hfree, hh])
  case other =>
    refine ⟨fun reg val hr hval => ?write, ?arm, ?release⟩
    case write =>
      obtain ⟨-, -, hrefuse⟩ := Dev.slotWrite_of_state hn hc hm hs hr hval
      exact exec_withDev_congr rfl (hrefuse hfree hh)
    case arm => exact exec_withDev_congr rfl (by simp [Dev.slotCtrl_cases hn hc hm hs (val := 1) (by decide), hh])
    case release => exact exec_withDev_congr rfl (by simp [Dev.slotCtrl_cases hn hc hm hs (val := 2) (by decide), hh])

end Sys2Proof.Machine
end

section
/-! PROOF. The banks of the commit groups (R37): a flip, TRAILING to CATCHUP, and the copy that leads to STAGED. -/

namespace Sys2Proof.Machine

variable (d : Dev)

/-! ## Bank words -/

theorem spFind_eq_none_of_not_mem {V : Type} (m : Map V) (k : Nat) (h : k ∉ m.map Prod.fst) : spFind m k = none := by
  induction m with
  | nil => rfl
  | cons e m ih =>
    obtain ⟨j, v⟩ := e
    simp only [List.map_cons, List.mem_cons, not_or] at h
    obtain ⟨hj, hm⟩ := h
    simp only [spFind, if_neg hj, ih hm]

/-- A bank word is a 32-bit word. -/
theorem Dev.bankWord_mod (b : Bool) (k : Nat) : d.bankWord b k % 2 ^ 32 = d.bankWord b k :=
  Nat.mod_eq_of_lt (BitVec.isLt _)

/-- A word that no bank lists reads the same in both. -/
theorem Dev.bankWord_unlisted (k : Nat) (h : k ∉ (d.csr.bankA ++ d.csr.bankB).map Prod.fst) (b c : Bool) :
    d.bankWord b k = d.bankWord c k := by
  rw [List.map_append, List.mem_append, not_or] at h
  obtain ⟨hA, hB⟩ := h
  have hw (x : Bool) : d.bankWord x k = (resetWord k).toNat := by
    cases x
    · simp [Dev.bankWord, spGet_eq_spFind, spFind_eq_none_of_not_mem _ _ hA]
    · simp [Dev.bankWord, spGet_eq_spFind, spFind_eq_none_of_not_mem _ _ hB]
  rw [hw b, hw c]

@[simp] theorem Dev.group_setBankWord (b : Bool) (k v g : Nat) : (d.setBankWord b k v).group g = d.group g := by
  cases b <;> rfl

@[simp] theorem Dev.drip_setBankWord (b : Bool) (k v : Nat) : (d.setBankWord b k v).drip = d.drip := rfl

/-! What commits decide on gives the groups and the bank words. -/

theorem Dev.group_of {d e : Dev} (h : d.commitPart = e.commitPart) (g : Nat) : d.group g = e.group g := by
  simp only [Dev.commitPart, Prod.mk.injEq] at h
  simp only [Dev.group, h.2.1]

theorem Dev.bankWord_of {d e : Dev} (h : d.commitPart = e.commitPart) (b : Bool) (k : Nat) :
    d.bankWord b k = e.bankWord b k := by
  simp only [Dev.commitPart, Prod.mk.injEq] at h
  obtain ⟨-, -, hA, hB⟩ := h
  simp only [Dev.bankWord, hA, hB]

/-- The banks of every group, from what a flip changes. -/
theorem Dev.groupBanks_of {d e : Dev} (h : d.flipPart = e.flipPart) (g : Nat) : (d.group g).liveB = (e.group g).liveB
    ∧ (d.group g).genLive = (e.group g).genLive ∧ (d.group g).genOther = (e.group g).genOther
    ∧ (d.group g).other = (e.group g).other := by
  have hg := congrFun (congrArg (fun p => p.2.2) h) g
  simpa only [Dev.flipPart, Prod.mk.injEq] using hg

/-! ## The copy of the written lines -/

/-- The words at keys are copied from bank `b` into the other one. -/
def Dev.copyWords (d : Dev) (b : Bool) (keys : List Nat) : Dev :=
  keys.foldl (fun d k => d.setBankWord (!b) k (d.bankWord b k)) d

theorem Dev.bankWord_copyWords_source (b : Bool) (keys : List Nat) (k : Nat) :
    (d.copyWords b keys).bankWord b k = d.bankWord b k :=
  foldl_part (fun e : Dev => e.bankWord b k) _ (fun e j => by simpa using Dev.bankWord_setBankWord_other e (!b) j _ k) _ _

theorem Dev.bankWord_copyWords (b : Bool) (keys : List Nat) (k : Nat) :
    (d.copyWords b keys).bankWord (!b) k = if k ∈ keys then d.bankWord b k else d.bankWord (!b) k := by
  induction keys generalizing d with
  | nil => simp [Dev.copyWords]
  | cons j keys ih =>
    have hsrc : (d.setBankWord (!b) j (d.bankWord b j)).bankWord b k = d.bankWord b k := by
      simpa using d.bankWord_setBankWord_other (!b) j (d.bankWord b j) k
    change ((d.setBankWord (!b) j (d.bankWord b j)).copyWords b keys).bankWord (!b) k = _
    rw [ih, hsrc]
    by_cases hj : k = j
    · rw [hj, Dev.bankWord_setBankWord_same, Dev.bankWord_mod, if_pos List.mem_cons_self, ite_self]
    · simp [hj, Dev.bankWord_setBankWord_ne _ _ _ _ _ hj]

theorem Dev.drip_copyWords (b : Bool) (keys : List Nat) : (d.copyWords b keys).drip = d.drip :=
  foldl_part Dev.drip _ (fun e j => e.drip_setBankWord _ j _) _ _

theorem Dev.group_copyWords (b : Bool) (keys : List Nat) (g : Nat) : (d.copyWords b keys).group g = d.group g :=
  foldl_part (fun e : Dev => e.group g) _ (fun e j => Dev.group_setBankWord e _ j _ g) _ _

/-- The keys of group `g` that the copy of its written lines takes. -/
def Dev.copyKeys (d : Dev) (g : Nat) : List Nat :=
  ((d.csr.bankA ++ d.csr.bankB).map Prod.fst).filter
    (fun k => groupOfKey k = g && ((d.group g).whole || spGet false (d.group g).dirty (k / 64)))

theorem Dev.commitPart_copyLines (g : Nat) :
    (d.copyLines g).commitPart = (d.copyWords (d.group g).liveB (d.copyKeys g)).commitPart := by
  simp only [Dev.copyLines, apply_ite Dev.commitPart, Dev.commitPart_onCores, Dev.commitPart_copyLost, ite_self]
  rfl

/-- The written lines of the other bank read as the LIVE one does. -/
theorem Dev.bankWord_copyLines (g k : Nat) (hk : groupOfKey k = g)
    (hw : ((d.group g).whole || spGet false (d.group g).dirty (k / 64)) = true) :
    (d.copyLines g).bankWord (!(d.group g).liveB) k = d.bankWord (d.group g).liveB k := by
  rw [Dev.bankWord_of (d.commitPart_copyLines g), Dev.bankWord_copyWords]
  split
  · rfl
  · next hmem =>
    refine d.bankWord_unlisted k (fun hlisted => hmem ?_) _ _
    rw [Dev.copyKeys, List.mem_filter]
    exact ⟨hlisted, by simp [hk, hw]⟩

/-! ## STAGED -/

/-- Where no queued write waits for the group, nothing of the queue reaches its bank. -/
theorem Dev.csr_drainGroup_of_none (g : Nat) (h : ∀ q ∈ d.drip.queue, q.group ≠ g) : (d.drainGroup g).csr = d.csr := by
  have hmine : d.drip.queue.filter (fun q => q.group = g && withinSeal (d.sealLimit g) q.applied) = [] :=
    List.filter_eq_nil_iff.mpr fun q hq => by simp [h q hq]
  simp only [Dev.drainGroup, hmine, List.foldl_nil]
  split <;> rfl

@[simp] theorem Dev.csr_noteReady (g : Nat) : (d.noteReady g).csr = d.csr :=
  foldl_part Dev.csr _ (fun e n => by dsimp only; split <;> rfl) _ _

/-- A bank that becomes STAGED leaves which bank is LIVE, and its generation. -/
theorem Dev.group_bankStaged (g : Nat) : ((d.bankStaged g).group g).other = .staged
    ∧ ((d.bankStaged g).group g).liveB = (d.group g).liveB ∧ ((d.bankStaged g).group g).genLive = (d.group g).genLive := by
  have hcopy : (d.copyLines g).group g = d.group g :=
    (Dev.group_of (d.commitPart_copyLines g) g).trans (d.group_copyWords _ _ g)
  have hnote (e : Dev) : (e.noteReady g).group g = e.group g := by simp only [Dev.group, Dev.csr_noteReady]
  have hset (e : Dev) (G : Group) : ((e.setGroup g G).drainGroup g).flipPart = (e.setGroup g G).flipPart :=
    Dev.flipPart_drainGroup _ g
  obtain ⟨hlive, hgen, -, hother⟩ := Dev.groupBanks_of (hset (d.copyLines g)
    { (d.copyLines g).group g with other := .staged, genOther := 0, dirty := [], whole := false }) g
  rw [Dev.group_setGroup_same] at hlive hgen hother
  rw [Dev.bankStaged, hnote]
  exact ⟨hother, hlive.trans (congrArg Group.liveB hcopy :), hgen.trans (congrArg Group.genLive hcopy :)⟩

/-- Where no queued write waits for the group, a bank that becomes STAGED equals LIVE in its written lines. -/
theorem Dev.bankWord_bankStaged (g k : Nat) (hq : ∀ q ∈ d.drip.queue, q.group ≠ g) (hk : groupOfKey k = g)
    (hw : ((d.group g).whole || spGet false (d.group g).dirty (k / 64)) = true) :
    (d.bankStaged g).bankWord (!(d.group g).liveB) k = d.bankWord (d.group g).liveB k := by
  have hdrip : (d.copyLines g).drip = d.drip := (congrArg Prod.fst (d.commitPart_copyLines g)).trans (d.drip_copyWords _ _)
  have hcsr : (d.bankStaged g).csr = ((d.copyLines g).setGroup g
      { (d.copyLines g).group g with other := .staged, genOther := 0, dirty := [], whole := false }).csr := by
    simp only [Dev.bankStaged, Dev.csr_noteReady]
    exact Dev.csr_drainGroup_of_none _ g (hdrip ▸ hq)
  rw [← d.bankWord_copyLines g k hk hw]
  simp only [Dev.bankWord, hcsr]
  rfl

/-! ## A flip -/

/-- A group after its flip (R37, R38). -/
def Group.flipped (G : Group) (gen : Nat) : Group :=
  { G with liveB := !G.liveB, other := .trailing, genOther := G.genLive, genLive := gen }

theorem Dev.group_flipGroup_same (gen g : Nat) : (d.flipGroup gen g).group g = (d.group g).flipped gen :=
  Dev.group_setGroup_same _ _ _

theorem Dev.group_flipGroup_ne (gen g h : Nat) (hh : h ≠ g) : (d.flipGroup gen g).group h = d.group h :=
  Dev.group_setGroup_ne _ _ _ _ hh

/-! ## The commands -/

/-- BANK_STAGED at a boundary after the copy has finished (R37). -/
theorem exec_bankStaged {s : State} {g : Nat} (hs : s.dev.serving = true) (hg : g ∈ groupBits)
    (hc : (s.dev.group g).other = .catchup)
    (hdrip : (s.dev.group g).catchupDrip + copyDrips ((s.dev.group g).lines g) ≤ s.dev.drip.now) :
    exec (.bankStaged g) s = .next (s.withDev (s.dev.bankStaged g)) :=
  exec_withDev_congr rfl (if_pos (by
    simp only [Bool.and_eq_true, decide_eq_true_eq, List.contains_iff_mem]
    exact ⟨⟨⟨hs, hg⟩, hc⟩, hdrip⟩))

/-- Settles O8: a flip changes one group, the copy is `Dev.copyWords`, and the queue of a group without queued writes gives its
bank nothing. -/
theorem bankProgress : Obligations.BankProgress := by
  unfold Obligations.BankProgress
  refine ⟨fun d gen g => ?flip, fun s g hs hg => ⟨fun ht hd => ?catchup, fun hc hdrip => ?staged⟩⟩
  case flip =>
    rw [Dev.group_flipGroup_same]
    exact ⟨rfl, rfl, rfl, rfl, fun h => d.group_flipGroup_ne gen g h, rfl, rfl⟩
  case catchup => exact exec_withDev_congr rfl (by simp [hs, hg, ht, hd])
  case staged =>
    obtain ⟨hother, hlive, hgen⟩ := s.dev.group_bankStaged g
    refine ⟨_, exec_bankStaged hs hg hc hdrip, ?_⟩
    dsimp only
    exact ⟨hother, hlive, hgen, fun hq k hk hw => s.dev.bankWord_bankStaged g k hq hk hw⟩

end Sys2Proof.Machine
end

section
/-! PROOF. Staged writes at the boundary (R42, R44, R57): where a resolved write goes, and which of the writes to one target
wins. -/

namespace Sys2Proof.Machine

/-! ## The target of a resolved write -/

/-- A register's block is its commit group. -/
theorem WUnit.block_reg {o : Nat} (ho : o < 2 ^ 28) : (WUnit.reg o).block = groupOfKey o := by
  simp only [WUnit.block, groupOfKey, if_neg (show ¬ 0x10000000 ≤ o by omega)]

section
variable (d : Dev) (b : Bool) (k : Nat) (v : Word)

/-- One word is written to a bank, and its line is marked. -/
theorem Dev.writeBank_one : d.writeBank b [k] [v]
    = (d.setBankWord b k v.toNat).setGroup (groupOfKey k) { d.group (groupOfKey k) with
        dirty := spSet false (d.group (groupOfKey k)).dirty (k / 64) true } := by
  rw [← d.group_setBankWord b k v.toNat (groupOfKey k)]; rfl

@[simp] theorem Dev.bankWord_setGroup (g : Nat) (G : Group) (j : Nat) : (d.setGroup g G).bankWord b j = d.bankWord b j := rfl

theorem Dev.bankWord_writeBank_same : (d.writeBank b [k] [v]).bankWord b k = v.toNat := by
  rw [Dev.writeBank_one, Dev.bankWord_setGroup, Dev.bankWord_setBankWord_same]
  exact Nat.mod_eq_of_lt v.isLt

theorem Dev.bankWord_writeBank_ne (c : Bool) (j : Nat) (h : j ≠ k ∨ c ≠ b) :
    (d.writeBank b [k] [v]).bankWord c j = d.bankWord c j := by
  rw [Dev.writeBank_one, Dev.bankWord_setGroup]
  by_cases hc : c = b
  · subst hc
    exact Dev.bankWord_setBankWord_ne _ _ _ _ _ (h.resolve_right (by simp))
  · obtain rfl : c = !b := by cases b <;> cases c <;> simp_all
    exact Dev.bankWord_setBankWord_other _ _ _ _ _

/-- Marking a line written leaves which bank is LIVE. -/
theorem Dev.liveB_writeBank (g : Nat) : ((d.writeBank b [k] [v]).group g).liveB = (d.group g).liveB := by
  obtain ⟨h, -⟩ := Dev.groupBanks_of (Dev.flipPart_writeBank b [k] d [v]) g
  exact h

/-- A write to the other bank of its group changes no LIVE value. -/
theorem Dev.live_writeBank_other (j : Nat) :
    (d.writeBank (!(d.group (groupOfKey k)).liveB) [k] [v]).live j = d.live j := by
  rw [Dev.live, Dev.liveB_writeBank]
  refine Dev.bankWord_writeBank_ne _ _ _ _ _ _ ?_
  by_cases hj : j = k
  · subst hj; exact .inr (by simp)
  · exact .inl hj

end

section
variable {d : Dev} {m o : Nat} {v : Word} (ho : o < 2 ^ 28)
include ho

/-- A group with a STAGED bank that is not sealed takes the write (R42). -/
theorem Dev.applyStaged_bank (hg : (d.group (groupOfKey o)).other = .staged) (hs : d.groupSealed (groupOfKey o) = false) :
    d.applyStaged ⟨m, .reg o, [v]⟩ = (true, d.writeBank (!(d.group (groupOfKey o)).liveB) [o] [v]) := by
  simp only [Dev.applyStaged, WUnit.block_reg ho, hg, hs, decide_true, Bool.not_false, Bool.and_self, if_true]
  rfl

/-- Any other group's write enters the stage queue while it has room (R44). -/
theorem Dev.applyStaged_queue (hg : (d.group (groupOfKey o)).other ≠ .staged ∨ d.groupSealed (groupOfKey o) = true) :
    d.applyStaged ⟨m, .reg o, [v]⟩ = if d.queueUsed + 1 ≤ 16384 then
      (true, d.onDrip (fun p => { p with queue := p.queue ++ [⟨groupOfKey o, .reg o, [v], d.drip.now⟩] })) else (false, d) := by
  have hc : ((d.group (groupOfKey o)).other = .staged && !d.groupSealed (groupOfKey o)) = false := by
    rcases hg with hg | hg <;> simp [hg]
  simp only [Dev.applyStaged, WUnit.block_reg ho, hc, Bool.false_eq_true, if_false, WUnit.entries]

end

/-! ## The winner of a contest -/

/-- The writes to one target, one of a master, in the masters' order of precedence (R57). -/
def contest (l : List StagedWrite) (t : WUnit) : Prop :=
  l.Pairwise (fun a b => a.master < b.master) ∧ ∀ w ∈ l, w.target = t ∧ 1 ≤ w.master ∧ w.master ≤ 4

section
variable {ws l : List StagedWrite} {t : WUnit}

/-- Two writes of a contest by one master are the same. -/
theorem eq_of_master_eq (h : l.Pairwise (fun a b => a.master < b.master)) {a b : StagedWrite} (ha : a ∈ l) (hb : b ∈ l)
    (hab : a.master = b.master) : a = b := by
  induction l with
  | nil => cases ha
  | cons x l ih =>
    obtain ⟨hx, hl⟩ := List.pairwise_cons.mp h
    rcases List.mem_cons.mp ha with rfl | ha' <;> rcases List.mem_cons.mp hb with rfl | hb'
    · rfl
    · exact absurd hab (Nat.ne_of_lt (hx b hb'))
    · exact absurd hab.symm (Nat.ne_of_lt (hx a ha'))
    · exact ih hl ha' hb'

/-- Of writes by different masters each is its master's last one. -/
theorem lastStaged_eq_some_iff (hp : ws.Perm l) (hl : contest l t) (m : Nat) (w : StagedWrite) :
    lastStaged ws t m = some w ↔ w ∈ l ∧ w.master = m := by
  obtain ⟨hsort, hin⟩ := hl
  constructor
  · intro h
    have hw := List.mem_of_getLast? h
    rw [List.mem_filter] at hw
    simp only [Bool.and_eq_true, decide_eq_true_eq] at hw
    obtain ⟨hmem, -, hmaster⟩ := hw
    exact ⟨hp.mem_iff.mp hmem, hmaster⟩
  · rintro ⟨hw, rfl⟩
    have hmem : w ∈ ws.filter (fun x => x.target = t && x.master = w.master) :=
      List.mem_filter.mpr ⟨hp.mem_iff.mpr hw, by simp [(hin w hw).1]⟩
    obtain ⟨x, hx⟩ := Option.isSome_iff_exists.mp (List.getLast?_isSome.mpr (List.ne_nil_of_mem hmem))
    have hx' := List.mem_of_getLast? hx
    rw [List.mem_filter] at hx'
    simp only [Bool.and_eq_true, decide_eq_true_eq] at hx'
    obtain ⟨hxmem, -, hxmaster⟩ := hx'
    rw [lastStaged, hx, eq_of_master_eq hsort (hp.mem_iff.mp hxmem) hw hxmaster]

/-- The masters' last writes, by precedence, are the writes of the contest in order. -/
theorem filterMap_lastStaged (hp : ws.Perm l) (hl : contest l t) : [1, 2, 3, 4].filterMap (lastStaged ws t) = l := by
  have hsorted : ([1, 2, 3, 4].filterMap (lastStaged ws t)).Pairwise (fun a b => a.master < b.master) := by
    refine List.Pairwise.filterMap (R := (· < ·)) _ (fun m n hmn a ha b hb => ?_) (by decide)
    rw [lastStaged_eq_some_iff hp hl] at ha hb
    obtain ⟨-, rfl⟩ := ha
    obtain ⟨-, rfl⟩ := hb
    exact hmn
  have hnodup {x : List StagedWrite} (h : x.Pairwise (fun a b => a.master < b.master)) : x.Nodup :=
    h.imp (fun hab e => by subst e; exact Nat.lt_irrefl _ hab)
  refine List.Perm.eq_of_pairwise (le := fun a b => a.master < b.master)
    (fun a b _ _ hab hba => absurd (Nat.lt_trans hab hba) (Nat.lt_irrefl _)) hsorted hl.1 ?_
  refine (List.perm_ext_iff_of_nodup (hnodup hsorted) (hnodup hl.1)).mpr fun w => ?_
  rw [List.mem_filterMap]
  constructor
  · rintro ⟨m, -, hm⟩
    exact ((lastStaged_eq_some_iff hp hl m w).mp hm).1
  · intro hw
    obtain ⟨-, h1, h4⟩ := hl.2 w hw
    exact ⟨w.master, by simp; omega, (lastStaged_eq_some_iff hp hl _ w).mpr ⟨hw, rfl⟩⟩

end

/-- A write that loses against a write of another value, or completes as it did (R57). -/
def Dev.contestEnd (d : Dev) (t : WUnit) (win : StagedWrite) (code : Nat) (w : StagedWrite) : Dev :=
  if w.words = win.words then d.stagedEnd w code
  else (d.stagedEnd w Code.superseded).incident t.block Code.superseded (actorMaster w.master) (t.lostArg win.master) w.lostVal

/-- The highest precedence of a contest is applied whole, and each other write ends by its value (R57). -/
theorem Dev.resolve_contest (d : Dev) {ws rest : List StagedWrite} {t : WUnit} {win : StagedWrite}
    (hp : ws.Perm (win :: rest)) (hl : contest (win :: rest) t) :
    d.resolve ws t = rest.foldl (fun e w => e.contestEnd t win (if (d.applyStaged win).1 then Code.ok else Code.busyRetry) w)
      ((d.applyStaged win).2.stagedEnd win (if (d.applyStaged win).1 then Code.ok else Code.busyRetry)) := by
  simp only [Dev.resolve, filterMap_lastStaged hp hl, List.foldl_cons, if_true]
  rfl

/-! ## How a staged write completes -/

section
variable (d : Dev)

/-- A device master's write of a register that completes with OK leaves no record. -/
theorem Dev.stagedEnd_ok {m o : Nat} (v : Word) (hm : m ≠ 4) : d.stagedEnd ⟨m, .reg o, [v]⟩ Code.ok = d := by
  simp [Dev.stagedEnd, hm]

/-- A device master's write of a register that is turned away is recorded (R521). -/
theorem Dev.stagedEnd_refused {m o code : Nat} (v : Word) (hm : m ≠ 4) (hcode : code ≠ Code.ok) :
    d.stagedEnd ⟨m, .reg o, [v]⟩ code = d.refuse m o code := by
  simp [Dev.stagedEnd, hm, hcode, WUnit.addr]

/-- The record of a register write that lost (R57). -/
theorem WUnit.lostArg_reg {o : Nat} (ho : o < 2 ^ 28) (m : Nat) : (WUnit.reg o).lostArg m = o + m * 2 ^ 28 := by
  rw [WUnit.lostArg, Nat.mod_eq_of_lt ho]

/-- Two device masters contest one register. -/
theorem Dev.resolve_two {hi lo o : Nat} {x y : Word} {ws : List StagedWrite} (h1 : 1 ≤ hi) (hlt : hi < lo) (h3 : lo ≤ 3)
    (ho : o < 2 ^ 28) (hxy : x ≠ y) (hp : ws.Perm [⟨hi, .reg o, [x]⟩, ⟨lo, .reg o, [y]⟩]) :
    d.resolve ws (.reg o) =
      (let a := d.applyStaged ⟨hi, .reg o, [x]⟩
       let e := a.2.stagedEnd ⟨hi, .reg o, [x]⟩ (if a.1 then Code.ok else Code.busyRetry)
       (e.refuse lo o Code.superseded).incident (groupOfKey o) Code.superseded (actorMaster lo) (o + hi * 2 ^ 28) y.toNat) := by
  have hl : contest [⟨hi, .reg o, [x]⟩, ⟨lo, .reg o, [y]⟩] (.reg o) := by
    refine ⟨by simpa using hlt, ?_⟩
    simp only [List.mem_cons, List.not_mem_nil, or_false, forall_eq_or_imp, forall_eq, true_and]
    omega
  have hne : ([y] : List Word) ≠ [x] := by simpa using hxy.symm
  rw [d.resolve_contest hp hl, List.foldl_cons, List.foldl_nil, Dev.contestEnd, if_neg hne,
    Dev.stagedEnd_refused _ _ (by omega) (by decide), WUnit.block_reg ho, WUnit.lostArg_reg ho]
  rfl

end

/-- Settles O21: the bank or the queue takes a resolved write, and a contest of distinct masters is the list of their writes by
precedence. -/
theorem stagedWrites : Obligations.StagedWrites := by
  unfold Obligations.StagedWrites
  refine ⟨fun d m o v ho => ⟨fun hg hs => ?bank, fun hg => ⟨fun hroom => ?queued, fun hfull => ?full⟩⟩,
    fun d ws t win rest hp hsort hin => ?contest, fun d hi lo o x y h1 hlt h3 ho hxy ws hws => ?two, fun d o x code => rfl,
    fun r w m => ⟨rfl, fun ws => rfl⟩⟩
  case bank =>
    rw [Dev.applyStaged_bank ho hg hs]
    exact ⟨rfl, d.bankWord_writeBank_same _ o v, d.live_writeBank_other o v,
      fun k hk => d.bankWord_writeBank_ne _ o v _ k (.inl hk)⟩
  case queued => rw [Dev.applyStaged_queue ho hg, if_pos hroom]
  case full => rw [Dev.applyStaged_queue ho hg, if_neg (by omega)]
  case contest => exact d.resolve_contest hp ⟨hsort, hin⟩
  case two =>
    rcases hws with rfl | rfl
    · exact d.resolve_two h1 hlt h3 ho hxy (.refl _)
    · exact d.resolve_two h1 hlt h3 ho hxy (.swap ..)

end Sys2Proof.Machine
end

section
/-! PROOF. The drip boundary (R28, R31 to R33, R86, R370, R435): the budgets of the drip that begins, the writes held in the one
that ends, and the effects that become visible. -/

namespace Sys2Proof.Machine

/-! ## What leaves commits alone -/

section
variable (d : Dev)

@[simp] theorem Dev.commitPart_freeStep : d.freeStep.commitPart = d.commitPart := rfl
@[simp] theorem Dev.commitPart_onDisp (f : Disp → Disp) : (d.onDisp f).commitPart = d.commitPart := rfl
@[simp] theorem Dev.commitPart_onBook (f : Book → Book) : (d.onBook f).commitPart = d.commitPart := rfl
@[simp] theorem Dev.commitPart_mapCells (l : List Nat) (f : Cell → Cell) : (d.mapCells l f).commitPart = d.commitPart := rfl
@[simp] theorem Dev.commitPart_retag (c : Chain) (tag : Nat) : (d.retag c tag).commitPart = d.commitPart := rfl
@[simp] theorem Dev.commitPart_pfcTo (old : Dev) (p m t : Nat) : (d.pfcTo old p m t).commitPart = d.commitPart := rfl
@[simp] theorem Dev.commitPart_chainRecAt (r : RecBody) (drip : Nat) (src : Option Nat) :
    (d.chainRecAt r drip src).commitPart = d.commitPart := rfl

@[simp] theorem Dev.commitPart_sendPfc (p t : Nat) : (d.sendPfc p t).commitPart = d.commitPart :=
  foldl_part Dev.commitPart _ (fun e m => by split <;> simp) _ _

@[simp] theorem Dev.commitPart_poolMoved (p : Nat) : (d.poolMoved p).commitPart = d.commitPart := by
  simp only [Dev.poolMoved]
  (repeat' split) <;> simp

@[simp] theorem Dev.commitPart_testFreed (i u : Nat) : (d.testFreed i u).commitPart = d.commitPart := by
  simp only [Dev.testFreed]
  split <;> simp

@[simp] theorem Dev.commitPart_freeCell (i : Nat) : (d.freeCell i).commitPart = d.commitPart := by
  simp only [Dev.freeCell]
  (repeat' split) <;> simp

@[simp] theorem Dev.commitPart_freeList (l : List Nat) : (d.freeList l).commitPart = d.commitPart := by
  simp only [Dev.freeList]
  rw [foldl_part Dev.commitPart _ (fun e p => e.commitPart_poolMoved p),
    foldl_part Dev.commitPart _ (fun e i => e.commitPart_freeCell i)]

@[simp] theorem Dev.commitPart_freeChain (c : Chain) : (d.freeChain c).commitPart = d.commitPart := d.commitPart_freeList _

@[simp] theorem Dev.commitPart_lateDrop (e : RoEntry) : (d.lateDrop e).commitPart = d.commitPart := by
  simp only [Dev.lateDrop]
  split <;> simp

@[simp] theorem Dev.commitPart_reorderEnter (e : RoEntry) : (d.reorderEnter e).commitPart = d.commitPart := by
  simp only [Dev.reorderEnter]
  split <;> simp

@[simp] theorem Dev.commitPart_dropPkt (p : Pkt) : (d.dropPkt p).commitPart = d.commitPart := by
  simp only [Dev.dropPkt, Dev.releaseEmpty]
  split <;> simp

@[simp] theorem Dev.commitPart_strongPass : d.strongPass.commitPart = d.commitPart := by
  simp only [Dev.strongPass]
  split <;> simp

@[simp] theorem Dev.commitPart_writeMem (dram : Bool) (a : Nat) (bs : Bytes) :
    (d.writeMem dram a bs).commitPart = d.commitPart := by
  simp only [Dev.writeMem, Dev.clearPoison]
  rw [foldl_part Dev.commitPart _ (fun e l => by (repeat' split) <;> rfl), Dev.commitPart_setMemBytes]

@[simp] theorem Dev.commitPart_bookVisible : d.bookVisible.commitPart = d.commitPart := by
  simp only [Dev.bookVisible, Dev.commitPart_onBook]
  exact foldl_part Dev.commitPart _ (fun e r => e.commitPart_writeMem _ _ _) _ _

@[simp] theorem Dev.commitPart_pageClose (p first count : Nat) (root prev : Bytes) :
    (d.pageClose p first count root prev).2.commitPart = d.commitPart := by
  simp only [Dev.pageClose]
  split
  · rfl
  · dsimp only
    split <;> simp [Dev.bookCount]

@[simp] theorem Dev.commitPart_settlePage : d.settlePage.commitPart = d.commitPart := by
  unfold Dev.settlePage
  split
  · simp [Dev.pageEnd]
  · rfl

@[simp] theorem Dev.commitPart_chainRec (r : RecBody) (src : Option Nat) : (d.chainRec r src).commitPart = d.commitPart := by
  simp [Dev.chainRec]

@[simp] theorem Dev.commitPart_limpPassage (p : Pkt) : (d.limpPassage p).commitPart = d.commitPart := by
  simp only [Dev.limpPassage, Dev.releaseEmpty, Dev.passageRec, Dev.takeSeq]
  (repeat' split) <;> simp

@[simp] theorem Dev.commitPart_limpAll : d.limpAll.commitPart = d.commitPart := by
  simp only [Dev.limpAll]
  rw [foldl_part Dev.commitPart _ (fun e p => e.commitPart_limpPassage p), Dev.commitPart_onDisp]

@[simp] theorem Dev.commitPart_setMode (m : Nat) : (d.setMode m).commitPart = d.commitPart := by
  simp only [Dev.setMode]
  split <;> simp

@[simp] theorem Dev.commitPart_setHo (now : Bool) (st : Nat) : (d.setHo now st).commitPart = d.commitPart := by
  simp only [Dev.setHo]
  (repeat' split) <;> simp

@[simp] theorem Dev.commitPart_hoAbort (now : Bool) (code reason : Nat) :
    (d.hoAbort now code reason).commitPart = d.commitPart := by
  simp only [Dev.hoAbort, Dev.onHo]
  split <;> simp [Dev.hoCode]

@[simp] theorem Dev.commitPart_hoBoundary : d.hoBoundary.commitPart = d.commitPart := by
  unfold Dev.hoBoundary
  (repeat' split) <;> simp

@[simp] theorem Dev.commitPart_limpRecord (c : Nat) : (d.limpRecord c).commitPart = d.commitPart := rfl

@[simp] theorem Dev.commitPart_signals : d.signals.commitPart = d.commitPart := by
  simp only [Dev.signals]
  rw [foldl_part Dev.commitPart _ (fun e v => e.commitPart_signal v)]
  (repeat' split) <;> simp

@[simp] theorem Dev.commitPart_incOrder : d.incOrder.commitPart = d.commitPart := rfl

end

/-! ## The writes held until the drip ends -/

section
variable (d : Dev)

theorem Dev.writes_of {d e : Dev} (h : d.commitPart = e.commitPart) : d.drip.writes = e.drip.writes :=
  congrArg (fun p => p.1.writes) h

@[simp] theorem Dev.drip_writeBank (b : Bool) (ks : List Nat) :
    ∀ (d : Dev) (ws : List Word), (d.writeBank b ks ws).drip = d.drip := by
  induction ks with
  | nil => intro d ws; rfl
  | cons k ks ih =>
    intro d ws
    cases ws with
    | nil => rfl
    | cons w ws => rw [Dev.writeBank, ih]; rfl

/-- Queued writes that reach their bank leave the queue, and nothing of the drip's own writes. -/
@[simp] theorem Dev.writes_drainGroup (g : Nat) : (d.drainGroup g).drip.writes = d.drip.writes := by
  simp only [Dev.drainGroup]
  split
  · rfl
  · simp only [Dev.onDrip_drip]
    exact congrArg Drip.writes (foldl_part Dev.drip _ (fun e q => Dev.drip_writeBank _ _ e _) _ _)

@[simp] theorem Dev.writes_slotDone (n code detail gen loc : Nat) :
    (d.slotDone n code detail gen loc).drip.writes = d.drip.writes := by
  have hpost : ∀ e : Dev, ((e.slotPost n).drip.writes) = e.drip.writes := fun e => Dev.writes_of (e.commitPart_slotPost n)
  have hdrain : ∀ (l : List Nat) (e : Dev), (l.foldl Dev.drainGroup e).drip.writes = e.drip.writes := fun l e =>
    foldl_part (fun e : Dev => e.drip.writes) _ (fun e g => e.writes_drainGroup g) l e
  simp only [Dev.slotDone]
  split
  · exact (hpost _).trans (hdrain _ _)
  · exact (hpost _).trans (hdrain _ _)

@[simp] theorem Dev.writes_armChecks : d.armChecks.drip.writes = d.drip.writes := by
  unfold Dev.armChecks
  refine foldl_part (fun e : Dev => e.drip.writes) _ (fun e n => ?_) _ _
  dsimp only
  (repeat' split) <;> simp

@[simp] theorem Dev.writes_limpCommits : d.limpCommits.drip.writes = d.drip.writes := by
  unfold Dev.limpCommits
  refine foldl_part (fun e : Dev => e.drip.writes) _ (fun e n => ?_) _ _
  dsimp only
  split <;> simp

@[simp] theorem Dev.writes_limpTest : d.limpTest.drip.writes = d.drip.writes := by
  have habort : (if d.hoOpen then d.hoAbort true Code.orphaned 15 else d).commitPart = d.commitPart := by
    split <;> simp
  have hlimp (e : Dev) (c : Nat) : ((e.limpRecord c).setMode Mode.limp).limpCommits.limpAll.drip.writes = e.drip.writes := by
    rw [Dev.writes_of (Dev.commitPart_limpAll _), Dev.writes_limpCommits, Dev.writes_of (Dev.commitPart_setMode _ _),
      Dev.writes_of (Dev.commitPart_limpRecord _ _)]
  unfold Dev.limpTest
  split
  · rfl
  · split
    · rfl
    · dsimp only
      rw [hlimp, Dev.writes_of habort]

@[simp] theorem Dev.writes_applyStaged (w : StagedWrite) : (d.applyStaged w).2.drip.writes = d.drip.writes := by
  simp only [Dev.applyStaged]
  (repeat' split) <;> simp

@[simp] theorem Dev.commitPart_refuse (m addr code : Nat) : (d.refuse m addr code).commitPart = d.commitPart := rfl

@[simp] theorem Dev.commitPart_stagedEnd (w : StagedWrite) (code : Nat) : (d.stagedEnd w code).commitPart = d.commitPart := by
  simp only [Dev.stagedEnd]
  split
  · rw [foldl_part Dev.commitPart _ (fun e c => e.commitPart_ropeSend 3 _)]
    (repeat' split) <;> simp
  · (repeat' split) <;> simp

@[simp] theorem Dev.writes_resolve (ws : List StagedWrite) (t : WUnit) : (d.resolve ws t).drip.writes = d.drip.writes := by
  simp only [Dev.resolve]
  split
  · rfl
  · rw [foldl_part (fun e : Dev => e.drip.writes) _ (fun e w => ?_), Dev.writes_applyStaged]
    split <;> exact Dev.writes_of (by simp)

/-- Every write that the drip held is resolved at its boundary (R31). -/
@[simp] theorem Dev.writes_resolveStaged : d.resolveStaged.drip.writes = [] := by
  simp only [Dev.resolveStaged]
  exact foldl_part (fun e : Dev => e.drip.writes) _ (fun e t => e.writes_resolve _ t) _ _

/-- No write is held when the next drip begins. -/
theorem Dev.writes_boundary : d.boundary.drip.writes = [] := by
  have hopen (e : Dev) (n : Nat) : (e.openDrip n).drip.writes = e.drip.writes := rfl
  unfold Dev.boundary
  rw [hopen, Dev.writes_of (Dev.commitPart_incOrder _), Dev.writes_of (Dev.commitPart_signals _), Dev.writes_limpTest,
    Dev.writes_of (Dev.commitPart_hoBoundary _), Dev.writes_armChecks, Dev.writes_resolveStaged]

/-- The drip that a boundary opens has the next number and every budget full (R28, R33). -/
theorem Dev.budgets_boundary : d.boundary.drip.now = (d.drip.now + 1) % 2 ^ 56 ∧ d.boundary.drip.learnUsed = 0
    ∧ d.boundary.drip.lodeUsed = 0 ∧ d.boundary.drip.tallyUsed = 0 ∧ d.boundary.drip.slotsUsed = [] :=
  ⟨rfl, rfl, rfl, rfl, rfl⟩

/-! ## Cold -/

/-- The way to Cold ends in Cold mode, where nothing is in service (R435). -/
theorem Dev.mode_toCold : d.toCold.mode = Mode.cold := by
  unfold Dev.toCold Dev.mode
  exact Dev.ioFld_setIoFld_same _ _ _ _ _ (by decide) (by decide)

theorem Dev.serving_toCold : d.toCold.serving = false := by
  simp only [Dev.serving, Dev.mode_toCold]; decide

/-! ## Writes of one target -/

/-- The writes of a drip that all have one target are one contest (R57). -/
theorem Dev.resolveStaged_one {t : WUnit} (hne : d.drip.writes ≠ []) (ht : ∀ w ∈ d.drip.writes, w.target = t) :
    d.resolveStaged = ((d.onDrip (fun p => { p with writes := [] })).resolve d.drip.writes t).onRope
      (fun r => { r with cpls := [] }) := by
  have hdups : (d.drip.writes.map StagedWrite.target).eraseDups = [t] := by
    obtain ⟨w, ws, hw⟩ := List.exists_cons_of_ne_nil hne
    rw [hw] at ht ⊢
    rw [List.forall_mem_cons] at ht
    obtain ⟨hwt, hrest⟩ := ht
    have hnone : (ws.map StagedWrite.target).filter (fun x => !x == t) = [] := by simpa using hrest
    rw [List.map_cons, List.eraseDups_cons, hwt, hnone, List.eraseDups_nil]
  simp only [Dev.resolveStaged, hdups, List.foldl_cons, List.foldl_nil]

/-- The one write of a drip, by a device master, to a group whose STAGED bank is open stands in that bank (R42). -/
theorem Dev.resolveStaged_bank {m o : Nat} {v : Word} (h1 : 1 ≤ m) (h3 : m ≤ 3) (ho : o < 2 ^ 28)
    (hw : d.drip.writes = [⟨m, .reg o, [v]⟩]) (hg : (d.group (groupOfKey o)).other = .staged)
    (hs : d.groupSealed (groupOfKey o) = false) :
    d.resolveStaged = ((d.onDrip (fun p => { p with writes := [] })).writeBank (!(d.group (groupOfKey o)).liveB) [o] [v]).onRope
      (fun r => { r with cpls := [] }) := by
  have hl : contest [⟨m, .reg o, [v]⟩] (.reg o) := ⟨List.pairwise_singleton _ _, by simp; omega⟩
  have happly := Dev.applyStaged_bank (d := d.onDrip (fun p => { p with writes := [] })) (m := m) (v := v) ho hg hs
  rw [d.resolveStaged_one (t := .reg o) (by simp [hw]) (by simp [hw]), hw, Dev.resolve_contest _ (.refl _) hl, happly]
  simp only [List.foldl_nil, if_true]
  rw [Dev.stagedEnd_ok _ _ (by omega)]
  rfl

/-! ## Row hits -/

theorem bitOf_eq_testBit (v i : Nat) : bitOf v i = v.testBit i := by
  rw [bitOf, Nat.testBit_eq_decide_div_mod_eq]; rfl

/-- Setting a bit of a word sets it, and changes no other. -/
theorem Dev.bitOf_setIoBit {o i : Nat} (hi : i < 32) (p j : Nat) :
    bitOf ((d.setIoBit o i).io p) j = (decide (p = o ∧ j = i) || bitOf (d.io p) j) := by
  by_cases hp : p = o
  · subst hp
    rw [bitOf_eq_testBit, bitOf_eq_testBit, Dev.setIoBit, Dev.io_setIoFld_same, testBit_setFld _ _ _ _ _ (Nat.le_refl i) hi]
    by_cases hj : j = i
    · simp [hj]
    · rw [if_neg (by omega)]; simp [hj, Dev.io]
  · rw [Dev.setIoBit, Dev.setIoFld, Dev.io_setIo_ne _ _ _ _ hp]
    simp [hp]

/-- Setting the bits of a list of rows keeps the bit of a row that has it, and sets that of a row in the list. -/
theorem Dev.bitOf_setRowBits (r : Nat) (l : List Nat) :
    ∀ e : Dev, bitOf (e.io (R.clasHit + 4 * (r / 32))) (r % 32) = true ∨ r ∈ l →
      bitOf ((l.foldl (fun e x => e.setIoBit (R.clasHit + 4 * (x / 32)) (x % 32)) e).io (R.clasHit + 4 * (r / 32))) (r % 32)
        = true := by
  induction l with
  | nil => intro e h; simpa using h
  | cons x l ih =>
    intro e h
    refine ih _ ?_
    rw [Dev.bitOf_setIoBit _ (Nat.mod_lt _ (by decide))]
    rw [List.mem_cons] at h
    rcases h with h | rfl | h
    · exact .inl (by simp [h])
    · exact .inl (by simp)
    · exact .inr h

/-- The bit of each row that a lookup hit is set (R86). -/
theorem Dev.bitOf_rowHits {r : Nat} (hr : r ∈ d.ingr.hits) :
    bitOf (d.rowHits.io (R.clasHit + 4 * (r / 32))) (r % 32) = true :=
  Dev.bitOf_setRowBits r d.ingr.hits d (.inr hr)

/-! ## Egress stamps -/

/-- The time that passes in the Strongroom moves no stamp. -/
theorem Dev.egts_strongTick : d.strongTick.strong.egtsWp = d.strong.egtsWp ∧ d.strongTick.strong.egtsNew = d.strong.egtsNew := by
  have hpass (s : Strong) (x : Nat) : (s.pass x).egtsWp = s.egtsWp ∧ (s.pass x).egtsNew = s.egtsNew := by
    unfold Strong.pass; split <;> exact ⟨rfl, rfl⟩
  simp only [Dev.strongTick]
  split
  · exact ⟨rfl, rfl⟩
  · exact hpass _ _

/-- The egress stamps of a drip become visible at its end (R370). -/
theorem Dev.egtsWp_strongDrip : d.strongDrip.strong.egtsWp = d.strong.egtsWp + d.strong.egtsNew := by
  obtain ⟨hwp, hnew⟩ := d.egts_strongTick
  rw [← hwp, ← hnew]; rfl

end

/-- Settles O20: the last steps of `Dev.boundary` hold no write and open the next drip, and one write of a drip is a contest of
one. -/
theorem dripBoundaryCommand : Obligations.DripBoundaryCommand := by
  unfold Obligations.DripBoundaryCommand
  refine ⟨fun s hs => ⟨fun hc => ?runs, fun hc => ?cold⟩, fun s hs => ?idle, fun d => ⟨d.writes_resolveStaged,
    fun t hne ht => d.resolveStaged_one hne ht, fun m o v h1 h3 ho hw hg hs => ?bank, rfl, fun r hr => d.bitOf_rowHits hr,
    d.egtsWp_strongDrip, rfl⟩⟩
  case runs =>
    obtain ⟨hnow, hlearn, hlode, htally, hslots⟩ := s.dev.budgets_boundary
    refine ⟨s.withDev s.dev.boundary, exec_withDev_congr rfl (by simp [hs, hc]), rfl, rfl, ?_⟩
    exact ⟨hnow, hlearn, hlode, htally, hslots, s.dev.writes_boundary⟩
  case cold =>
    refine ⟨s.withDev s.dev.toCold, exec_withDev_congr rfl (by simp [hs, hc]), ?_⟩
    exact ⟨s.dev.mode_toCold, s.dev.serving_toCold, rfl, rfl⟩
  case idle => exact exec_withDev_congr (e := s.dev) rfl (by simp [hs])
  case bank =>
    rw [d.resolveStaged_bank h1 h3 ho hw hg hs]
    exact ⟨Dev.bankWord_writeBank_same _ _ o v, Dev.live_writeBank_other (d.onDrip (fun p => { p with writes := [] })) o v⟩

end Sys2Proof.Machine
end

section
/-! PROOF. Commits at their boundaries (R37, R38, R47 to R52): validation, a commit alone at its boundary, and the end
of its wait. -/

namespace Sys2Proof.Machine

section
variable (d : Dev)

/-! ## Slots -/

theorem Dev.slot_of {d e : Dev} (h : d.flipPart = e.flipPart) (n : Nat) : d.slot n = e.slot n :=
  congrArg (fun p => spGet Slot.init (Prod.fst p) n) h

theorem Dev.gen_of {d e : Dev} (h : d.flipPart = e.flipPart) : d.drip.gen = e.drip.gen := congrArg (fun p => p.2.1) h

/-- A commit that ends leaves its end in its slot. -/
theorem Dev.slot_slotDone {n : Nat} (code detail gen loc : Nat) (h : (d.slot n).hostReset = false) :
    (d.slotDone n code detail gen loc).slot n
      = { d.slot n with state := .done, code := code, detail := detail, gen := gen, loc := loc % 2 ^ 28 } := by
  rw [Dev.slot_of (d.flipPart_slotDone n code detail gen loc h), Dev.slot_setSlot_same]

/-- A commit that ends leaves the banks of every group, and the generation. -/
theorem Dev.banks_slotDone {n : Nat} (code detail gen loc : Nat) (h : (d.slot n).hostReset = false) :
    (d.slotDone n code detail gen loc).drip.gen = d.drip.gen
    ∧ ∀ g, ((d.slotDone n code detail gen loc).group g).liveB = (d.group g).liveB
      ∧ ((d.slotDone n code detail gen loc).group g).genLive = (d.group g).genLive
      ∧ ((d.slotDone n code detail gen loc).group g).genOther = (d.group g).genOther
      ∧ ((d.slotDone n code detail gen loc).group g).other = (d.group g).other := by
  have hpart := d.flipPart_slotDone n code detail gen loc h
  exact ⟨(Dev.gen_of hpart :), fun g => Dev.groupBanks_of hpart g⟩

/-- A commit that names no group leaves every group and bank as it is (R48). -/
theorem Dev.csr_slotDone_bare {n : Nat} (code detail gen loc : Nat) (hm : (d.slot n).mask = 0)
    (h : (d.slot n).hostReset = false) : (d.slotDone n code detail gen loc).csr.groups = d.csr.groups
    ∧ (d.slotDone n code detail gen loc).csr.bankA = d.csr.bankA
    ∧ (d.slotDone n code detail gen loc).csr.bankB = d.csr.bankB := by
  have hnone : groupsOf 0 = [] := by decide
  have hpost (e : Dev) := e.commitPart_slotPost n
  simp only [Dev.slotDone, h, hm, hnone, Bool.false_eq_true, if_false, List.foldl_nil]
  exact ⟨congrArg (fun p => p.2.1) (hpost _), congrArg (fun p => p.2.2.1) (hpost _), congrArg (fun p => p.2.2.2) (hpost _)⟩

/-! ## Validation -/

/-- Commits that fail nothing stay (R52). -/
theorem Dev.validate_sound (k : Nat) (l : List Nat) (h : ∀ n ∈ l, firstBad (d.failuresOf l) (d.slot n).mask = none) :
    Dev.validate k d l = (l, d) := by
  cases k with
  | zero => rfl
  | succ k =>
    have hhit : l.filter (fun n => (firstBad (d.failuresOf l) (d.slot n).mask).isSome) = [] :=
      List.filter_eq_nil_iff.mpr fun n hn => by simp [h n hn]
    simp only [Dev.validate, hhit, List.isEmpty_nil, if_true]

@[simp] theorem Dev.validate_nil (k : Nat) : Dev.validate k d [] = ([], d) := d.validate_sound k [] (by simp)

/-- A commit alone whose content fails ends with the first failure (R49, R50). -/
theorem Dev.validate_fails (k : Nat) {n : Nat} {b : Bad} (h : firstBad (d.failuresOf [n]) (d.slot n).mask = some b) :
    Dev.validate (k + 1) d [n] = ([], d.slotDone n Code.reserved b.detail 0 b.place) := by
  simp [Dev.validate, h]

/-! ## A commit alone at its boundary -/

theorem Dev.slotWait_of_ne {n : Nat} (h : (d.slot n).state ≠ .sealed) : d.slotWait n = d := by
  simp [Dev.slotWait, h]

section
variable {d : Dev} {n : Nat} (hturn : d.turnNow = [n])
include hturn

theorem Dev.commitTurn_bare (hm : (d.slot n).mask = 0) : d.commitTurn = d.slotDone n Code.ok 0 0 0 := by
  simp [Dev.commitTurn, hturn, hm]

theorem Dev.commitTurn_fails {b : Bad} (hm : (d.slot n).mask ≠ 0) (hr : (d.slot n).hostReset = false)
    (hb : firstBad (d.failuresOf [n]) (d.slot n).mask = some b) :
    d.commitTurn = d.slotDone n Code.reserved b.detail 0 b.place := by
  have hwait : (d.slotDone n Code.reserved b.detail 0 b.place).slotWait n = d.slotDone n Code.reserved b.detail 0 b.place :=
    Dev.slotWait_of_ne _ (by rw [d.slot_slotDone _ _ _ _ hr]; simp)
  cases hs : d.allStaged (d.slot n).mask <;>
    simp [Dev.commitTurn, hturn, hm, hs, d.validate_fails _ hb, hwait]

theorem Dev.commitTurn_sound (hm : (d.slot n).mask ≠ 0) (hb : firstBad (d.failuresOf [n]) (d.slot n).mask = none) :
    d.commitTurn = (if d.allStaged (d.slot n).mask && d.flipAllowed then d.flipAll [n] else d).slotWait n := by
  have hone (k : Nat) : Dev.validate k d [n] = ([n], d) := d.validate_sound k [n] (by simpa using hb)
  cases hs : d.allStaged (d.slot n).mask <;> simp [Dev.commitTurn, hturn, hm, hs, hone]

end

/-! ## The flip -/

/-- Each of the groups flips once. -/
theorem Dev.group_foldl_flipGroup (gen g : Nat) {l : List Nat} (hl : l.Nodup) :
    (l.foldl (fun e g => e.flipGroup gen g) d).group g = if g ∈ l then (d.group g).flipped gen else d.group g := by
  induction l generalizing d with
  | nil => rfl
  | cons x l ih =>
    rw [List.nodup_cons] at hl
    obtain ⟨hx, hl⟩ := hl
    rw [List.foldl_cons, ih _ hl]
    by_cases hg : g = x
    · subst hg
      rw [if_neg hx, if_pos List.mem_cons_self]
      exact d.group_flipGroup_same gen g
    · rw [d.group_flipGroup_ne gen x g hg]
      simp [hg]

theorem nodup_groupsOf (mask : Nat) : (groupsOf mask).Nodup := List.Pairwise.filter _ (by decide : groupBits.Nodup)

theorem mem_groupsOf (mask g : Nat) : g ∈ groupsOf mask ↔ g ∈ groupBits ∧ bitOf mask g = true := List.mem_filter

/-- From `d` to `e` every group that the commit in slot `n` names has flipped to the next generation, and no other (R37, R38). -/
def Dev.flipsTo (d : Dev) (n : Nat) (e : Dev) : Prop :=
  ∀ g, (g ∈ groupsOf (d.slot n).mask → (e.group g).liveB = !(d.group g).liveB ∧ (e.group g).genLive = nextGen d.drip.gen
      ∧ (e.group g).other = .trailing ∧ (e.group g).genOther = (d.group g).genLive)
    ∧ (g ∉ groupsOf (d.slot n).mask → (e.group g).liveB = (d.group g).liveB ∧ (e.group g).genLive = (d.group g).genLive)

/-- The groups of the commit in slot `n` flip; its holder is not yet told. -/
def Dev.flipOne (d : Dev) (n : Nat) : Dev :=
  let l := groupsOf (d.slot n).mask
  let e := l.foldl (fun e g => e.drainTo g (d.lastSeal [n] g)) d
  let e := l.foldl (fun e g => e.flipGroup (nextGen d.drip.gen) g) e
  (e.onDrip (fun p => { p with gen := nextGen d.drip.gen })).afterFlip d (d.slot n).mask

theorem Dev.flipAll_one (n : Nat) : d.flipAll [n] = (d.flipOne n).slotDone n Code.ok 0 (nextGen d.drip.gen) 0 := by
  have hmask : d.unionMask [n] = (d.slot n).mask := Nat.zero_or _
  simp only [Dev.flipAll, hmask, List.foldl_cons, List.foldl_nil]
  rfl

/-- A flip leaves the slots, and gives every group it names the next generation (R37, R38). -/
theorem Dev.flipOne_parts (n : Nat) : (d.flipOne n).slot n = d.slot n ∧ (d.flipOne n).drip.gen = nextGen d.drip.gen
    ∧ d.flipsTo n (d.flipOne n) := by
  have hdrain (l : List Nat) : (l.foldl (fun e g => e.drainTo g (d.lastSeal [n] g)) d).flipPart = d.flipPart :=
    foldl_part Dev.flipPart _ (fun e g => e.flipPart_drainTo g _) l d
  have hdrip (l : List Nat) (e : Dev) : (l.foldl (fun e g => e.flipGroup (nextGen d.drip.gen) g) e).drip = e.drip :=
    foldl_part Dev.drip _ (fun e g => (rfl : (e.flipGroup _ g).drip = e.drip)) l e
  have hafter (e : Dev) := Dev.commitPart_afterFlip e d (d.slot n).mask
  refine ⟨?_, (Dev.gen_of (Dev.flipPart_of (hafter _)) :), fun g => ?_⟩
  · rw [← Dev.slot_of (hdrain (groupsOf (d.slot n).mask)) n, Dev.flipOne, Dev.slot_of (Dev.flipPart_of (hafter _))]
    change spGet Slot.init (Dev.drip (List.foldl _ _ _)).slots n = _
    rw [hdrip]
    rfl
  · obtain ⟨hlive, hgen, -, -⟩ := Dev.groupBanks_of (hdrain (groupsOf (d.slot n).mask)) g
    have hgroup : (d.flipOne n).group g = _ := (Dev.group_of (hafter _) g).trans
      (Dev.group_foldl_flipGroup _ (nextGen d.drip.gen) g (nodup_groupsOf _))
    rw [hgroup]
    refine ⟨fun hg => ?_, fun hg => ?_⟩
    · rw [if_pos hg]
      exact ⟨congrArg not hlive, rfl, rfl, hgen⟩
    · rw [if_neg hg]
      exact ⟨hlive, hgen⟩

/-- A commit that flips alone ends with OK, and its groups stand as the flip left them (R50). -/
theorem Dev.flipAll_parts (n : Nat) (hr : (d.slot n).hostReset = false) :
    (d.flipAll [n]).slot n
      = { d.slot n with state := .done, code := Code.ok, detail := 0, gen := nextGen d.drip.gen, loc := 0 }
    ∧ (d.flipAll [n]).drip.gen = nextGen d.drip.gen
    ∧ d.flipsTo n (d.flipAll [n]) := by
  obtain ⟨hslot, hgen, hgroups⟩ := d.flipOne_parts n
  have hr' : ((d.flipOne n).slot n).hostReset = false := hslot ▸ hr
  obtain ⟨hgen', hbanks⟩ := (d.flipOne n).banks_slotDone Code.ok 0 (nextGen d.drip.gen) 0 hr'
  rw [d.flipAll_one]
  refine ⟨?_, hgen'.trans hgen, fun g => ?_⟩
  · have hdone := (d.flipOne n).slot_slotDone Code.ok 0 (nextGen d.drip.gen) 0 hr'
    rw [hslot] at hdone
    exact hdone
  · obtain ⟨hlive, hlgen, hother, hstate⟩ := hbanks g
    simp only [hlive, hlgen, hother, hstate]
    exact hgroups g

/-- A commit that has flipped does not wait. -/
theorem Dev.slotWait_flipAll (n : Nat) (hr : (d.slot n).hostReset = false) : (d.flipAll [n]).slotWait n = d.flipAll [n] := by
  obtain ⟨hslot, -⟩ := d.flipAll_parts n hr
  exact Dev.slotWait_of_ne _ (by rw [hslot]; simp)

/-- A SEALED commit that cannot flip waits, and no group changes (R50). -/
theorem Dev.slotWait_parts {n : Nat} (h : (d.slot n).state = .sealed) :
    (d.slotWait n).slot n = { d.slot n with
      state := .waiting, code := Code.commitWait,
      readyDrip := if d.allStaged (d.slot n).mask then some d.drip.now else none }
    ∧ (d.slotWait n).csr.groups = d.csr.groups ∧ (d.slotWait n).drip.gen = d.drip.gen := by
  have hpost (e : Dev) := e.commitPart_slotPost n
  have hslot (e : Dev) : (e.slotPost n).slot n = e.slot n := Dev.slot_of (Dev.flipPart_of (hpost e)) n
  simp only [Dev.slotWait, h, if_true, hslot, Dev.slot_setSlot_same, true_and]
  exact ⟨congrArg (fun p => p.2.1) (hpost _), congrArg (fun p => p.1.gen) (hpost _)⟩

end

/-! ## The obligation -/

/-- The row of a commit's own boundary runs the turn of the commits (R50, R51). -/
theorem exec_commitTurn {s : State} {n : Nat} {row : Instr} (hs : s.dev.serving = true) (hturn : s.dev.turnNow = [n])
    (hrow : (row = .commitFlip n ∧ (s.dev.slot n).state = .sealed ∧ (s.dev.slot n).target = s.dev.drip.now)
      ∨ (row = .commitWaitFlip n ∧ s.dev.waitReady (s.dev.slot n) = true)) :
    exec row s = .next (s.withDev s.dev.commitTurn) := by
  rcases hrow with ⟨rfl, hst, -⟩ | ⟨rfl, hready⟩
  · exact exec_withDev_congr rfl (by simp [hs, hst, hturn])
  · have hst : (s.dev.slot n).state = .waiting := by
      simp only [Dev.waitReady, Bool.and_eq_true, decide_eq_true_eq] at hready
      obtain ⟨⟨hst, -⟩, -⟩ := hready
      exact hst
    exact exec_withDev_congr rfl (by simp [hs, hst, hturn])

/-- Settles O7: a commit alone at its boundary comes to `Dev.slotDone`, `Dev.flipAll` or `Dev.slotWait` of its one slot. -/
theorem commitBoundaries : Obligations.CommitBoundaries := by
  unfold Obligations.CommitBoundaries
  intro s n hn hs v
  refine ⟨fun hst harm ht => ?sealed, fun row hrow hturn hr => ?turn, fun hst hno hlim hr => ?timeout,
    fun k hst hno hk hnow hlim hrep => ?report⟩
  case sealed => exact exec_withDev_congr rfl (if_pos (by simp [v, hn, hs, hst, harm, ht]))
  case turn =>
    refine ⟨_, exec_commitTurn hs hturn hrow, rfl, rfl, fun hm => ?bare, fun b hm hb => ?fails,
      fun hm hb hst hflip => ?flips, fun hm hb hst hno => ?waits⟩
    all_goals dsimp only
    case bare =>
      rw [Dev.commitTurn_bare hturn hm]
      exact ⟨s.dev.slot_slotDone _ _ _ _ hr, s.dev.csr_slotDone_bare _ _ _ _ hm hr⟩
    case fails =>
      rw [Dev.commitTurn_fails hturn hm hr hb]
      obtain ⟨-, hbanks⟩ := s.dev.banks_slotDone Code.reserved b.detail 0 b.place hr
      refine ⟨s.dev.slot_slotDone _ _ _ _ hr, fun g => ?_⟩
      obtain ⟨hlive, hgen, -, -⟩ := hbanks g
      exact ⟨hlive, hgen⟩
    case flips =>
      rw [Dev.commitTurn_sound hturn hm hb, hst, hflip, Bool.and_self, if_pos rfl, s.dev.slotWait_flipAll n hr]
      obtain ⟨hslot, hgen, hgroups⟩ := s.dev.flipAll_parts n hr
      refine ⟨hslot, hgen, fun g hg hbit => ?_, fun g hbit => ?_⟩
      · obtain ⟨hnamed, -⟩ := hgroups g
        exact hnamed ((mem_groupsOf _ _).mpr ⟨hg, hbit⟩)
      · obtain ⟨-, hother⟩ := hgroups g
        refine hother (fun hg => ?_)
        obtain ⟨-, hset⟩ := (mem_groupsOf _ _).mp hg
        exact Bool.false_ne_true (hbit.symm.trans hset)
    case waits =>
      have hstay : ¬ (s.dev.allStaged v.mask && s.dev.flipAllowed) = true := by rwa [Bool.and_eq_true]
      rw [Dev.commitTurn_sound hturn hm hb, if_neg hstay]
      exact s.dev.slotWait_parts hst
  case timeout =>
    have hover : (s.dev.serving && v.state = .waiting && v.target + 256 * 2 ^ v.waitLimit ≤ s.dev.drip.now
        && !(s.dev.waitReady v && s.dev.flipAllowed)) = true := by
      rcases hno with hno | hno <;> simp [hs, hst, hlim, hno]
    refine ⟨_, exec_withDev_congr rfl (if_pos hover), ?_⟩
    dsimp only
    obtain ⟨-, hbanks⟩ := s.dev.banks_slotDone Code.timeout 0 0 0 hr
    refine ⟨s.dev.slot_slotDone _ _ _ _ hr, fun g => ?_⟩
    obtain ⟨hlive, hgen, -, -⟩ := hbanks g
    exact ⟨hlive, hgen⟩
  case report =>
    have hpast : v.target < s.dev.drip.now := by omega
    have hmod : (s.dev.drip.now - v.target) % 4096 = 0 := by omega
    have hdue : s.dev.reportDue v = true := by
      unfold Dev.reportDue
      rcases hno with hno | hno <;> simp [hs, hst, hpast, hmod, hlim, hno, hrep]
    exact exec_withDev_congr rfl ((if_neg (by omega)).trans (if_pos hdue))

end Sys2Proof.Machine
end

section
/-! PROOF. The row commands of the classifier (R86): a master whose row command is idle has it acted on. -/

namespace Sys2Proof.Machine

/-- A row command of a master in service, with a path and an idle row command, is acted on. -/
theorem Dev.rowCmd_acts {d : Dev} {m r : Nat} (act : Dev → Dev) (hr : r < 2 ^ 15) (hs : d.serving = true)
    (hc : d.noPath m = false) (hb : bitOf (d.per m R.clasRowStat) 0 = false) : d.rowCmd m r act = act d := by
  rw [Dev.rowCmd, d.doorbell_acts m _ _ _ r _ hc (d.blockOpen_of_serving hs _) (.inl rfl) hr, hb]
  rfl

/-- A master of the owner set of CLAS gets its write of a row past the check of R12. -/
theorem Dev.rowWrite_owner {d : Dev} {m r : Nat} (ho : d.owns m 6 = true) :
    d.rowWrite m r = d.rowCmd m r (fun d => (d.onDrip (fun x => { x with
      writes := x.writes ++ [⟨m, .row r, (d.rowBuffer m).map w32⟩] })).setStat m R.clasRowStat true 0) := by
  rw [Dev.rowWrite, ho, Bool.not_true, Bool.and_false]
  rfl

/-- Settles O13: each command gets past `Dev.rowCmd`, a write past the owner set as well. -/
theorem classifierRows : Obligations.ClassifierRows := by
  unfold Obligations.ClassifierRows
  intro s m r hr hs hc hb
  refine ⟨fun ho => ?write, ?staged, ?live⟩
  case write => exact exec_withDev_congr rfl ((Dev.rowWrite_owner ho).trans (Dev.rowCmd_acts _ hr hs hc hb))
  case staged => exact exec_withDev_congr (c := .clasRowReadStaged m r) rfl (Dev.rowCmd_acts _ hr hs hc hb)
  case live => exact exec_withDev_congr (c := .clasRowReadLive m r) rfl (Dev.rowCmd_acts _ hr hs hc hb)

end Sys2Proof.Machine
end

section
/-! PROOF. Received PFC, repeated XOFF, and the links of MACs with their lanes (R68, R117, R121, R476 to R480): what a pass over
priorities, MACs or lanes leaves at each of them, and what it leaves alone. -/

namespace Sys2Proof.Machine

/-! ## A pass over a list

Each step of such a pass changes what is read at its own place and leaves what is read at the others. -/

section
variable {σ α γ : Type} (P : σ → γ) (f : σ → α → σ) (l : List α) (b : σ)

/-- What no step of the list changes, the pass leaves. -/
theorem foldl_leaves (h : ∀ x ∈ l, ∀ b, P (f b x) = P b) : P (l.foldl f b) = P b := by
  induction l generalizing b with
  | nil => rfl
  | cons x l ih =>
    rw [List.foldl_cons, ih _ fun y hy => h y (List.mem_cons_of_mem _ hy), h x List.mem_cons_self]

/-- What one listed step changes by `g`, however often, and no other step changes, is changed by `g`. -/
theorem foldl_changes_at {a : α} (g : γ → γ) (ha : a ∈ l) (hg : ∀ v, g (g v) = g v) (hsame : ∀ b, P (f b a) = g (P b))
    (hother : ∀ x ∈ l, x ≠ a → ∀ b, P (f b x) = P b) : P (l.foldl f b) = g (P b) := by
  classical
  induction l generalizing b with
  | nil => cases ha
  | cons x l ih =>
    have hrest : ∀ y ∈ l, y ≠ a → ∀ b, P (f b y) = P b := fun y hy => hother y (List.mem_cons_of_mem _ hy)
    rw [List.foldl_cons]
    have hhead : P (f b x) = P b ∨ P (f b x) = g (P b) := by
      by_cases hx : x = a
      · exact .inr (hx ▸ hsame b)
      · exact .inl (hother x List.mem_cons_self hx b)
    by_cases hal : a ∈ l
    · rw [ih _ hal hrest]
      rcases hhead with h | h <;> simp only [h, hg]
    · have hx : x = a := ((List.mem_cons.mp ha).resolve_right hal).symm
      rw [foldl_leaves P f l _ fun y hy => hrest y hy fun e => hal (e ▸ hy), hx, hsame]

/-- What one listed step sets to `v`, and no other step changes, is `v`. -/
theorem foldl_sets_at {a : α} {v : γ} (ha : a ∈ l) (hsame : ∀ b, P (f b a) = v)
    (hother : ∀ x ∈ l, x ≠ a → ∀ b, P (f b x) = P b) : P (l.foldl f b) = v :=
  foldl_changes_at P f l b (fun _ => v) ha (fun _ => rfl) hsame hother

end

/-! ## Received PFC -/

/-- The received pauses after the one at key `k` is asked for `t` quanta, which run until drip `stop` (R68, R117). -/
def pauseFor (p : Map Nat) (k t stop : Nat) : Map Nat := if t = 0 then spErase p k else spPut p k stop

theorem spFind_pauseFor_same (p : Map Nat) (k t stop : Nat) :
    spFind (pauseFor p k t stop) k = if t = 0 then none else some stop := by
  unfold pauseFor; split <;> simp

theorem spFind_pauseFor_ne (p : Map Nat) {k j : Nat} (t stop : Nat) (h : j ≠ k) :
    spFind (pauseFor p k t stop) j = spFind p j := by
  unfold pauseFor
  split
  · exact spFind_spErase_ne p k j h
  · exact spFind_spPut_ne p k j stop h

section
variable (d : Dev) (mac : Nat) (times : List Nat)

/-- The received pauses after priority `q` of a PFC frame with `times` has its effect. -/
def Dev.pauseStep (p : Map Nat) (q : Nat) : Map Nat :=
  pauseFor p (8 * mac + q) (times.getD q 0 % 2 ^ 16) (d.drip.now + d.quantaDrips mac (times.getD q 0 % 2 ^ 16))

/-- The received pauses after a PFC frame with `times` whose enabled priorities are `l`. -/
def Dev.pausesAfter (l : List Nat) : Map Nat :=
  l.foldl (d.pauseStep mac times) d.egrs.paused

/-- A PFC frame changes the received pauses, and nothing else. -/
theorem Dev.pfcReceive_eq (enables : Nat) (hs : d.serving = true) (hm : mac < 64) (hl : d.linkUp mac = true) :
    d.pfcReceive mac enables times
      = d.onEgrs (fun e => { e with paused := d.pausesAfter mac times (maskBits 8 enables) }) := by
  have hfold : ∀ (l : List Nat) (p : Map Nat),
      l.foldl (fun (e : Dev) q => e.onEgrs (fun x => { x with paused := e.pauseStep mac times x.paused q }))
        (d.onEgrs (fun x => { x with paused := p }))
      = d.onEgrs (fun x => { x with paused := l.foldl (d.pauseStep mac times) p }) := by
    intro l
    induction l with
    | nil => intro p; rfl
    | cons q l ih => intro p; exact ih (d.pauseStep mac times p q)
  rw [Dev.pfcReceive, hs, hl, if_neg (by simp; omega)]
  exact hfold (maskBits 8 enables) d.egrs.paused

theorem Dev.spFind_pausesAfter_of_mem {l : List Nat} {q : Nat} (hq : q ∈ l) :
    spFind (d.pausesAfter mac times l) (8 * mac + q) = if times.getD q 0 % 2 ^ 16 = 0 then none
      else some (d.drip.now + d.quantaDrips mac (times.getD q 0 % 2 ^ 16)) :=
  foldl_sets_at (spFind · (8 * mac + q)) _ l _ hq (fun p => spFind_pauseFor_same p _ _ _)
    (fun x _ hx p => spFind_pauseFor_ne p _ _ (by omega))

theorem Dev.spFind_pausesAfter_ne {l : List Nat} {k : Nat} (hk : ∀ q ∈ l, k ≠ 8 * mac + q) :
    spFind (d.pausesAfter mac times l) k = spFind d.egrs.paused k :=
  foldl_leaves (spFind · k) _ l _ (fun q hq p => spFind_pauseFor_ne p _ _ (hk q hq))

end

theorem mem_maskBits {n mask i : Nat} : i ∈ maskBits n mask ↔ i < n ∧ bitOf mask i = true := by
  simp [maskBits]

/-- A pause that has run out ends. -/
theorem Dev.pfcExpire_due {d : Dev} {mac q e : Nat} (he : spFind d.egrs.paused (8 * mac + q) = some e) (hd : e ≤ d.drip.now) :
    d.pfcExpire mac q = d.onEgrs (fun x => { x with paused := spErase x.paused (8 * mac + q) }) := by
  unfold Dev.pfcExpire
  rw [he]
  exact if_pos hd

/-! ## Repeated XOFF -/

section
variable (d : Dev) (pool : Nat)

/-- The XOFF frame of a pool on MAC `m`: it names every priority the pool's bays on it pause (R68). -/
def Dev.xoffFrame (m : Nat) : Out :=
  .pfc m (d.macSa m) ((((d.pfcBays pool).filter (fun x => x.1 = m)).map (fun x => 2 ^ x.2)).foldl (· ||| ·) 0) 0xFFFF

/-- When the pool last sent each MAC an XOFF, after it sent one to each MAC of `l` in this drip. -/
def Dev.xoffTimes (l : List Nat) : Map Nat :=
  l.foldl (fun a m => spPut a (xoffKey pool m) d.drip.now) d.ingr.xoffAt

/-- The MACs of a pool whose XOFF is repeated now. -/
def Dev.xoffMacs : List Nat := (d.pfcMacs pool).filter (fun m => d.linkUp m && d.xoffDue pool m)

/-- XOFF frames to the MACs of a list are sent and noted with their drip, and nothing else changes. -/
theorem Dev.foldl_pfcTo (l : List Nat) :
    l.foldl (fun e m => e.pfcTo d pool m 0xFFFF) d
      = { d with out := (l.map (d.xoffFrame pool)).reverse ++ d.out, ingr := { d.ingr with xoffAt := d.xoffTimes pool l } } := by
  have hfold : ∀ (l : List Nat) (o : List Out) (a : Map Nat),
      l.foldl (fun e m => e.pfcTo d pool m 0xFFFF) { d with out := o, ingr := { d.ingr with xoffAt := a } }
      = { d with
          out := (l.map (d.xoffFrame pool)).reverse ++ o
          ingr := { d.ingr with xoffAt := l.foldl (fun a m => spPut a (xoffKey pool m) d.drip.now) a } } := by
    intro l
    induction l with
    | nil => intro o a; rfl
    | cons m l ih =>
      intro o a
      refine (ih (d.xoffFrame pool m :: o) (spPut a (xoffKey pool m) d.drip.now)).trans ?_
      rw [List.map_cons, List.reverse_cons, List.append_assoc, List.singleton_append, List.foldl_cons]
  exact hfold l d.out d.ingr.xoffAt

theorem Dev.xoffRepeat_eq (hs : d.serving = true) (hx : spGet false d.ingr.xoff pool = true) :
    d.xoffRepeat pool = { d with
      out := ((d.xoffMacs pool).map (d.xoffFrame pool)).reverse ++ d.out
      ingr := { d.ingr with xoffAt := d.xoffTimes pool (d.xoffMacs pool) } } := by
  rw [← Dev.foldl_pfcTo, Dev.xoffMacs, List.foldl_filter, Dev.xoffRepeat, hs, hx]
  rfl

theorem Dev.spFind_xoffTimes_of_mem {l : List Nat} {m : Nat} (hm : m ∈ l) :
    spFind (d.xoffTimes pool l) (xoffKey pool m) = some d.drip.now :=
  foldl_sets_at (spFind · (xoffKey pool m)) _ l _ hm (fun a => spFind_spPut_same a _ _)
    (fun x _ hx a => spFind_spPut_ne a _ _ _ (by unfold xoffKey; omega))

theorem Dev.spFind_xoffTimes_ne {l : List Nat} {k : Nat} (hk : ∀ m ∈ l, k ≠ xoffKey pool m) :
    spFind (d.xoffTimes pool l) k = spFind d.ingr.xoffAt k :=
  foldl_leaves (spFind · k) _ l _ (fun m hm a => spFind_spPut_ne a _ _ _ (hk m hm))

end

/-! ## One lane -/

section
variable (d : Dev) (l : Nat)

/-- The device without its register words outside the banks and without the record of the tried transmit polarities: what the
steps of a lane leave. -/
def Dev.butLanes : Dev := (d.onCsr (fun c => { c with io := [] })).onHlth (fun h => { h with txTried := [] })

/-- The device without its register words outside the banks: what the status of a lane does not touch. -/
def Dev.butIo : Dev := d.onCsr (fun c => { c with io := [] })

/-- Two devices alike but for register words differ by them. -/
theorem Dev.eq_of_butIo {d e : Dev} (h : e.butIo = d.butIo) : e = d.onCsr (fun c => { c with io := e.csr.io }) :=
  calc e = e.butIo.onCsr (fun c => { c with io := e.csr.io }) := rfl
    _ = d.butIo.onCsr (fun c => { c with io := e.csr.io }) := by rw [h]

theorem Dev.eq_of_butLanes {d e : Dev} (h : e.butLanes = d.butLanes) :
    e = (d.onCsr (fun c => { c with io := e.csr.io })).onHlth (fun x => { x with txTried := e.hlth.txTried }) :=
  calc e = (e.butLanes.onCsr (fun c => { c with io := e.csr.io })).onHlth
        (fun x => { x with txTried := e.hlth.txTried }) := rfl
    _ = (d.butLanes.onCsr (fun c => { c with io := e.csr.io })).onHlth
        (fun x => { x with txTried := e.hlth.txTried }) := by rw [h]

@[simp] theorem Dev.butIo_setLane (hi lo v : Nat) : (d.setLane l hi lo v).butIo = d.butIo := rfl
@[simp] theorem Dev.butIo_laneUp (p : Nat) : (d.laneUp l p).butIo = d.butIo := by simp [Dev.laneUp]
@[simp] theorem Dev.butLanes_setLane (hi lo v : Nat) : (d.setLane l hi lo v).butLanes = d.butLanes := rfl

@[simp] theorem Dev.butLanes_tried (f : Hlth → Map Bool) :
    (d.onHlth (fun h => { h with txTried := f h })).butLanes = d.butLanes := rfl

@[simp] theorem Dev.butLanes_laneRestart (st : Nat) : (d.laneRestart st l).butLanes = d.butLanes := by
  unfold Dev.laneRestart
  split
  · rfl
  · simp only [Dev.butLanes_tried, Dev.butLanes_setLane]

theorem Dev.io_setLane_ne {o : Nat} (hi lo v : Nat) (h : o ≠ R.laneStat + 4 * l) : (d.setLane l hi lo v).io o = d.io o :=
  d.io_setIo_ne _ o _ h

theorem Dev.io_laneUp_ne {o : Nat} (p : Nat) (h : o ≠ R.laneStat + 4 * l) : (d.laneUp l p).io o = d.io o := by
  simp only [Dev.laneUp, Dev.io_setLane_ne _ _ _ _ _ h]

theorem Dev.io_laneRestart_ne {o : Nat} (st : Nat) (h : o ≠ R.laneStat + 4 * l) : (d.laneRestart st l).io o = d.io o := by
  unfold Dev.laneRestart
  split
  · rfl
  · change (((d.setLane l 1 0 st).setLane l 4 4 0).setLane l 5 5 _).io o = _
    simp only [Dev.io_setLane_ne _ _ _ _ _ h]

/-- A field of a lane's status reads as it was set. -/
theorem Dev.ioFld_setLane_same {hi lo : Nat} (v : Nat) (hl : lo ≤ hi) (hh : hi < 32) :
    (d.setLane l hi lo v).ioFld (R.laneStat + 4 * l) hi lo = v % 2 ^ (hi + 1 - lo) :=
  d.ioFld_setIoFld_same _ hi lo v hl hh

/-- Setting one field of a lane's status leaves the fields that share no bit with it. -/
theorem Dev.ioFld_setLane_disj {hi lo h k : Nat} (v : Nat) (hl : lo ≤ hi) (hh : hi < 32) (hd : h < lo ∨ hi < k) :
    (d.setLane l hi lo v).ioFld (R.laneStat + 4 * l) h k = d.ioFld (R.laneStat + 4 * l) h k :=
  d.ioFld_setIoFld_disj _ hi lo v h k hl hh hd

/-- Fields [8:8] and [9:9] make up field [9:8]. -/
theorem bits_nine_eight {v : Nat} (h8 : bits v 8 8 = 0) (h9 : bits v 9 9 = 0) : bits v 9 8 = 0 := by
  unfold bits at h8 h9 ⊢
  omega

/-- A lane of a link that comes up is UP, carries its logical lane and shows no failure. -/
theorem Dev.ioFld_laneUp (p : Nat) : (d.laneUp l p).laneState l = 2
    ∧ (d.laneUp l p).ioFld (R.laneStat + 4 * l) 7 6 = p % 4 ∧ (d.laneUp l p).ioFld (R.laneStat + 4 * l) 9 8 = 0 := by
  have hlate : ∀ {h k : Nat}, h < 8 → (d.laneUp l p).ioFld (R.laneStat + 4 * l) h k
      = ((d.setLane l 1 0 2).setLane l 7 6 p).ioFld (R.laneStat + 4 * l) h k := fun hh =>
    (Dev.ioFld_setLane_disj _ l 0 (by omega) (by omega) (.inl (by omega))).trans
      (Dev.ioFld_setLane_disj _ l 0 (by omega) (by omega) (.inl hh))
  refine ⟨?state, ?carries, bits_nine_eight ?aligned ?signal⟩
  case state =>
    exact (hlate (by omega)).trans ((Dev.ioFld_setLane_disj _ l p (by omega) (by omega) (.inl (by omega))).trans
      (Dev.ioFld_setLane_same d l 2 (by omega) (by omega)))
  case carries => exact (hlate (by omega)).trans (Dev.ioFld_setLane_same _ l p (by omega) (by omega))
  case aligned =>
    exact (Dev.ioFld_setLane_disj _ l 0 (by omega) (by omega) (.inl (by omega))).trans
      (Dev.ioFld_setLane_same _ l 0 (by omega) (by omega))
  case signal => exact Dev.ioFld_setLane_same _ l 0 (by omega) (by omega)

/-- A lane of a lost link trains again, unless it is fenced. -/
theorem Dev.laneState_laneRestart : (d.laneRestart 1 l).laneState l = if d.laneState l = 3 then 3 else 1 := by
  unfold Dev.laneRestart
  split
  · assumption
  · exact (Dev.ioFld_setLane_disj _ l _ (by omega) (by omega) (.inl (by omega))).trans
      ((Dev.ioFld_setLane_disj _ l 0 (by omega) (by omega) (.inl (by omega))).trans
        (Dev.ioFld_setLane_same d l 1 (by omega) (by omega)))

end

/-! ## The lanes of a group -/

/-- The lanes of a MAC are distinct. -/
theorem Dev.nodup_macLanes (d : Dev) (mac : Nat) : (d.macLanes mac).Nodup := by
  simp only [Dev.macLanes]
  split
  · decide
  · split
    · exact List.Pairwise.map _ (fun i j hne h => hne (Nat.add_left_cancel h)) List.nodup_range
    · exact List.nodup_nil

/-- Lane `i` of a group, below 4, is paired with entry `i` of what the command says, or with the default. -/
theorem mem_zip_padded {α : Type} (ls : List Nat) (xs : List α) (z : α) {i l : Nat} (hi : i < 4) (hl : ls[i]? = some l) :
    (l, xs.getD i z) ∈ ls.zip (xs ++ List.replicate 4 z) := by
  refine List.mem_of_getElem? (i := i) (List.getElem?_zip_eq_some.mpr ⟨hl, ?_⟩)
  rw [List.getElem?_append, List.getElem?_replicate]
  split
  · next h => simp [List.getD, List.getElem?_eq_getElem h]
  · next h => simp [List.getD, List.getElem?_eq_none (Nat.le_of_not_lt h), show i - xs.length < 4 by omega]

/-- A lane of a group stands in one pair. -/
theorem eq_of_mem_zip {α : Type} {ls : List Nat} {xs : List α} (hn : ls.Nodup) {x y : Nat × α}
    (hx : x ∈ ls.zip xs) (hy : y ∈ ls.zip xs) (h : x.1 = y.1) : x = y := by
  obtain ⟨i, hi⟩ := List.getElem?_of_mem hx
  obtain ⟨j, hj⟩ := List.getElem?_of_mem hy
  obtain ⟨hil, -⟩ := List.getElem?_zip_eq_some.mp hi
  obtain ⟨hjl, -⟩ := List.getElem?_zip_eq_some.mp hj
  have hij : i = j := by
    obtain ⟨hlt, -⟩ := List.getElem?_eq_some_iff.mp hil
    exact (List.getElem?_inj hlt hn).mp (hil.trans ((congrArg some h).trans hjl.symm))
  subst hij
  exact Option.some.inj (hi.symm.trans hj)

/-- Two lanes have two status words. -/
theorem laneStat_ne {k l : Nat} (h : k ≠ l) : R.laneStat + 4 * l ≠ R.laneStat + 4 * k := by omega

section
variable (d : Dev) {ls : List Nat}

/-! ### A link that comes up -/

theorem Dev.butIo_groupUp (pos : List Nat) (lock : Bool) : (d.groupUp ls pos lock).butIo = d.butIo := by
  unfold Dev.groupUp
  split
  · exact foldl_leaves Dev.butIo _ _ _ fun x _ b => b.butIo_laneUp x.1 x.2
  · exact foldl_leaves Dev.butIo _ _ _ fun l _ b => b.butIo_setLane l 8 8 1

theorem Dev.io_groupUp_ne (pos : List Nat) (lock : Bool) {o : Nat} (h : ∀ l ∈ ls, o ≠ R.laneStat + 4 * l) :
    (d.groupUp ls pos lock).io o = d.io o := by
  unfold Dev.groupUp
  split
  · exact foldl_leaves (Dev.io · o) _ _ _ fun x hx b => b.io_laneUp_ne x.1 x.2 (h _ (List.of_mem_zip hx).1)
  · exact foldl_leaves (Dev.io · o) _ _ _ fun l hl b => b.io_setLane_ne l 8 8 1 (h l hl)

/-- Aligned, the word of a lane holds what `Dev.laneUp` leaves in it. -/
theorem Dev.lanes_groupUp_locked (hn : ls.Nodup) (pos : List Nat) {i l : Nat} (hi : i < 4) (hl : ls[i]? = some l) :
    (d.groupUp ls pos true).laneState l = 2
      ∧ (d.groupUp ls pos true).ioFld (R.laneStat + 4 * l) 7 6 = pos.getD i 0 % 4
      ∧ (d.groupUp ls pos true).ioFld (R.laneStat + 4 * l) 9 8 = 0 := by
  have hmem := mem_zip_padded ls pos 0 hi hl
  have hother : ∀ hi lo, ∀ x ∈ ls.zip (pos ++ List.replicate 4 0), x ≠ (l, pos.getD i 0) →
      ∀ b : Dev, (b.laneUp x.1 x.2).ioFld (R.laneStat + 4 * l) hi lo = b.ioFld (R.laneStat + 4 * l) hi lo :=
    fun hi lo x hx hne b => congrArg (bits · hi lo)
      (b.io_laneUp_ne x.1 x.2 (laneStat_ne fun h => hne (eq_of_mem_zip hn hx hmem h)))
  refine ⟨?_, ?_, ?_⟩
  · exact foldl_sets_at (Dev.laneState · l) _ _ d hmem (fun b => (b.ioFld_laneUp l _).1) (hother 1 0)
  · exact foldl_sets_at (Dev.ioFld · _ 7 6) _ _ d hmem (fun b => (b.ioFld_laneUp l _).2.1) (hother 7 6)
  · exact foldl_sets_at (Dev.ioFld · _ 9 8) _ _ d hmem (fun b => (b.ioFld_laneUp l _).2.2) (hother 9 8)

/-- Without alignment each lane shows align_fail. -/
theorem Dev.lanes_groupUp_unlocked (pos : List Nat) {l : Nat} (hl : l ∈ ls) :
    (d.groupUp ls pos false).ioFld (R.laneStat + 4 * l) 8 8 = 1 :=
  foldl_sets_at (Dev.ioFld · _ 8 8) _ ls d hl (fun b => b.ioFld_setIoFld_same _ 8 8 1 (by omega) (by omega))
    (fun _ _ hne b => b.ioFld_setIoFld_ne _ _ 8 8 1 8 8 (laneStat_ne hne))

/-! ### A link that is lost -/

/-- The step of `Dev.groupDown` at one lane: it begins again and shows whether it has a signal. -/
def Dev.laneDown (x : Nat × Bool) : Dev := (d.laneRestart 1 x.1).setLane x.1 9 9 (b2n x.2)

theorem Dev.io_laneDown_ne {o : Nat} (x : Nat × Bool) (h : o ≠ R.laneStat + 4 * x.1) : (d.laneDown x).io o = d.io o :=
  (Dev.io_setLane_ne _ _ _ _ _ h).trans (d.io_laneRestart_ne _ 1 h)

theorem Dev.butLanes_groupDown (los : List Bool) : (d.groupDown ls los).butLanes = d.butLanes :=
  foldl_part Dev.butLanes Dev.laneDown (fun b x => (Dev.butLanes_setLane _ _ 9 9 _).trans (b.butLanes_laneRestart x.1 1)) _ _

theorem Dev.io_groupDown_ne (los : List Bool) {o : Nat} (h : ∀ l ∈ ls, o ≠ R.laneStat + 4 * l) :
    (d.groupDown ls los).io o = d.io o :=
  foldl_leaves (Dev.io · o) Dev.laneDown _ _ fun x hx b => b.io_laneDown_ne x (h _ (List.of_mem_zip hx).1)

/-- The lanes of a lost link train again unless they are fenced, and show whether they have a signal. -/
theorem Dev.lanes_groupDown (hn : ls.Nodup) (los : List Bool) {i l : Nat} (hi : i < 4) (hl : ls[i]? = some l) :
    (d.groupDown ls los).laneState l = (if d.laneState l = 3 then 3 else 1)
      ∧ (d.groupDown ls los).ioFld (R.laneStat + 4 * l) 9 9 = b2n (los.getD i false) := by
  have hmem := mem_zip_padded ls los false hi hl
  have hother : ∀ hi lo, ∀ x ∈ ls.zip (los ++ List.replicate 4 false), x ≠ (l, los.getD i false) →
      ∀ b : Dev, (b.laneDown x).ioFld (R.laneStat + 4 * l) hi lo = b.ioFld (R.laneStat + 4 * l) hi lo :=
    fun hi lo x hx hne b => congrArg (bits · hi lo)
      (b.io_laneDown_ne x (laneStat_ne fun h => hne (eq_of_mem_zip hn hx hmem h)))
  constructor
  · refine foldl_changes_at (Dev.laneState · l) Dev.laneDown _ d (fun v => if v = 3 then 3 else 1) hmem
      (fun v => by split <;> simp_all) (fun b => ?_) (hother 1 0)
    exact (Dev.ioFld_setIoFld_disj _ _ 9 9 _ 1 0 (by omega) (by omega) (by omega)).trans (b.laneState_laneRestart l)
  · refine foldl_sets_at (Dev.ioFld · _ 9 9) Dev.laneDown _ d hmem (fun b => ?_) (hother 9 9)
    refine (Dev.ioFld_setIoFld_same _ _ 9 9 _ (by omega) (by omega)).trans ?_
    cases los.getD i false <;> rfl

end

/-! ## Links -/

/-- A MAC bound to sound lanes whose PCS reports: its lanes come up or show their failure, and aligned it holds its link. -/
theorem exec_linkUp {s : State} {mac : Nat} (pos : List Nat) (lock : Bool) (hm : mac < 64) (hl : s.dev.lanesLive = true)
    (hb : bitOf (s.dev.live (R.portMacCfg + 4 * mac)) 25 = true) (hf : s.dev.lanesSound (s.dev.macLanes mac) = true) :
    exec (.linkUp mac pos lock) s = .next (s.withDev (let d := s.dev.groupUp (s.dev.macLanes mac) pos lock
      if lock then d.onEgrs (fun e => { e with linkUp := spSet false e.linkUp mac true }) else d)) :=
  exec_withDev_congr rfl (if_pos (by rw [hl, hb, hf, decide_eq_true hm]; rfl))

/-- A MAC that loses its link. -/
theorem exec_linkDown {s : State} {mac : Nat} (los : List Bool) (hm : mac < 64) (hl : s.dev.lanesLive = true) :
    exec (.linkDown mac los) s = .next (s.withDev ((s.dev.macLinkDown mac).groupDown (s.dev.macLanes mac) los)) :=
  exec_withDev_congr rfl (if_pos (by rw [hl, decide_eq_true hm]; rfl))

/-- Settles O12: each command is one pass over the priorities, the MACs or the lanes it names, and each pass has its lemmas. -/
theorem flowControlAndLinks : Obligations.FlowControlAndLinks := by
  unfold Obligations.FlowControlAndLinks
  refine ⟨fun s => ⟨?received, ?expired, ?repeated⟩, fun s mac hm hl => ⟨fun pos hb hf => ⟨?up, ?failed⟩, ?lost⟩⟩
  case received =>
    intro mac enables times hs hm hl
    refine ⟨_, exec_withDev_congr rfl (s.dev.pfcReceive_eq mac times enables hs hm hl), fun q hq he => ?_, fun k hk => ?_⟩
    · exact s.dev.spFind_pausesAfter_of_mem mac times (mem_maskBits.mpr ⟨hq, he⟩)
    · refine s.dev.spFind_pausesAfter_ne mac times fun q hq => ?_
      obtain ⟨hlt, he⟩ := mem_maskBits.mp hq
      exact hk q hlt he
  case expired =>
    intro mac q e he hd
    exact exec_withDev_congr rfl (Dev.pfcExpire_due he hd)
  case repeated =>
    intro pool hs hx
    exact ⟨_, exec_withDev_congr rfl (s.dev.xoffRepeat_eq pool hs hx), fun m hm => s.dev.spFind_xoffTimes_of_mem pool hm,
      fun k hk => s.dev.spFind_xoffTimes_ne pool hk⟩
  case up =>
    have hd := Dev.eq_of_butIo (s.dev.butIo_groupUp (ls := s.dev.macLanes mac) pos true)
    have hheld := congrArg (fun d : Dev => d.onEgrs (fun e => { e with linkUp := spSet false e.linkUp mac true })) hd
    refine ⟨_, exec_withDev_congr (exec_linkUp pos true hm hl hb hf) hheld, ?_⟩
    exact ⟨fun i l hi hil => s.dev.lanes_groupUp_locked (s.dev.nodup_macLanes mac) pos hi hil,
      fun o ho => s.dev.io_groupUp_ne pos true ho⟩
  case failed =>
    have hd := Dev.eq_of_butIo (s.dev.butIo_groupUp (ls := s.dev.macLanes mac) pos false)
    refine ⟨_, exec_withDev_congr (exec_linkUp pos false hm hl hb hf) hd, ?_⟩
    exact ⟨fun l hil => s.dev.lanes_groupUp_unlocked pos hil, fun o ho => s.dev.io_groupUp_ne pos false ho⟩
  case lost =>
    intro los
    have hd := Dev.eq_of_butLanes ((s.dev.macLinkDown mac).butLanes_groupDown (ls := s.dev.macLanes mac) los)
    refine ⟨_, _, exec_withDev_congr (exec_linkDown los hm hl) hd, fun i l hi hil => ?_,
      fun o ho => (s.dev.macLinkDown mac).io_groupDown_ne los ho⟩
    obtain ⟨hstate, hsignal⟩ := (s.dev.macLinkDown mac).lanes_groupDown (s.dev.nodup_macLanes mac) los hi hil
    exact ⟨fun h => hstate.trans (if_neg h), fun h => hstate.trans (if_pos h), hsignal⟩

end Sys2Proof.Machine
end

section
/-! PROOF. Ingress up to the parser (R64 to R69, R148, R90, R91): what a frame, an admission and the age of a fragment entry do. -/

namespace Sys2Proof.Machine

/-! ## The port stage -/

section
variable {d e : Dev} {mac : Nat} {f : Bytes}

/-- A MAC Control frame other than PFC is discarded and counted (R68). -/
theorem Dev.frameReceive_control (hs : d.serving = true) (hm : mac < 64) (hl : d.linkUp mac = true) (hlen : 14 ≤ f.length)
    (ht : beAt f 12 2 = 0x8808) (hp : 34 ≤ f.length → beAt f 14 2 ≠ 0x0101) :
    d.frameReceive mac f = d.bump (R.portCnt + 16) := by
  have hnot : ¬ (34 ≤ f.length ∧ beAt f 14 2 = 0x0101) := fun ⟨h, h'⟩ => hp h h'
  rw [Dev.frameReceive, if_neg (by simp [hs, hl, hm]), if_pos ⟨hlen, ht⟩, if_neg hnot]
  rfl

/-- A frame that the MACsec stage passes on meets the port stage (R66, R124). -/
theorem Dev.frameReceive_passed {p : Bytes} (hs : d.serving = true) (hm : mac < 64) (hl : d.linkUp mac = true)
    (hc : ¬ (14 ≤ f.length ∧ beAt f 12 2 = 0x8808)) (hv : d.strongPass.validateFrame mac f = (some p, e)) :
    d.frameReceive mac f = e.portFrame mac (e.frameBay mac p) p (d.strongPass.rxStamp mac) := by
  rw [Dev.frameReceive, if_neg (by simp [hs, hl, hm]), if_neg hc]
  simp only [hv]

/-- A frame without a bay is dropped and counted (R66). -/
theorem Dev.portFrame_none (stamp : Option Nat) (hf : f ≠ []) : d.portFrame mac none f stamp = d.bump R.portCnt := if_neg hf

theorem Dev.portFrame_some (b : Nat) (stamp : Option Nat) (hf : f ≠ []) :
    d.portFrame mac (some b) f stamp = d.storeFrame mac b f stamp := if_neg hf

/-- A frame that finds no cells is dropped and counted (R68). -/
theorem Dev.storeFrame_refused {b : Nat} (stamp : Option Nat)
    (ht : d.takeFrame (pipeTag (d.macPipe mac)) (d.liveFld (R.portBay1 + 8 * b) 24 20) (cellsFor (Nat.min f.length 10240))
      Chain.null = (none, e)) : d.storeFrame mac b f stamp = e.bump (R.portCnt + 12) := by
  simp only [Dev.storeFrame, ht]
  rfl

/-- A frame that finds cells is written into them and waits (R66, R69). -/
theorem Dev.storeFrame_taken {b : Nat} {c : Chain} (stamp : Option Nat) (hlen : f.length ≤ 10240)
    (ht : d.takeFrame (pipeTag (d.macPipe mac)) (d.liveFld (R.portBay1 + 8 * b) 24 20) (cellsFor f.length) Chain.null
      = (some c, e)) :
    d.storeFrame mac b f stamp
      = (e.chainWrite c 0 f).onIngr (fun i => { i with queue := i.queue ++ [⟨mac, b, c, f.length, stamp⟩] }) := by
  simp only [Dev.storeFrame, Nat.min_eq_left hlen, ht]
  exact if_neg (Nat.not_lt.mpr hlen)

end

/-! ## Admission and the fragment table -/

section
variable {d : Dev} {pipe : Nat}

/-- The next MAC's oldest frame is admitted (R29, R32, R39, R69). -/
theorem Dev.admitNext_frame {m : Nat} {ms : List Nat} {f : RxFrame} {rest : List RxFrame} (hs : d.serving = true)
    (hslot : d.slotLeft pipe = true) (hnew : d.newLeft pipe = true) (hr : d.recircReady pipe = none)
    (hw : d.waitingMacs pipe = m :: ms) (hf : takeFirst (fun f => f.mac = m) d.ingr.queue = some (f, rest)) :
    d.admitNext pipe = (((((d.takeSlot pipe).countNew pipe).onIngr (fun i =>
        { i with queue := rest, lastMac := spSet 65 i.lastMac pipe m })).setFlight f.chain (some d.drip.gen)).classify
      { Pkt.empty with
        chain := f.chain, len := f.len, bay := f.bay, pipe := pipe, dripTag := d.drip.now % 2 ^ 16,
        gen := d.drip.gen, stamp := f.stamp, admitted := d.drip.now }) := by
  rw [Dev.admitNext, if_neg (by simp [hs, hslot, hnew, hr])]
  simp only [hw, hf]
  rfl

/-- A recirculated packet re-enters its pipe as its next pass (R148). -/
theorem Dev.recircAdmit_ready {p : Pkt} {rest : List Pkt} (hs : d.serving = true) (hslot : d.slotLeft pipe = true)
    (hr : d.recircReady pipe = some (p, rest)) :
    d.recircAdmit pipe = ((d.takeSlot pipe).onIngr (fun i => { i with recirc := rest })).classify
      { p with pass := p.pass + 1, admitted := d.drip.now, flood := false, missDrop := false } := by
  rw [Dev.recircAdmit, if_neg (by simp [hs, hslot])]
  simp only [hr]
  rfl

/-- An entry 512 drips old becomes FREE, and what it holds goes to the slow path (R90, R91). -/
theorem Dev.fragExpire_old {set way : Nat} {f : Frag} (hf : spFind d.ingr.frags (4 * set + way) = some f)
    (ho : f.created + 512 ≤ d.drip.now) :
    let freed := d.onIngr (fun i => { i with frags := spErase i.frags (4 * set + way) })
    d.fragExpire set way = if f.state = .holding then (freed.fragCount 2).slowAll f.held else freed := by
  simp only [Dev.fragExpire, hf]
  exact if_neg (Nat.not_lt.mpr ho)

end

end Sys2Proof.Machine
end

section
/-! PROOF. The parser (R70 to R77): the field a passage reads, the edge it takes, and the passages of a walk. -/

namespace Sys2Proof.Machine

variable (d : Dev)

/-- A field of some width is WINDOW, TRUNCATED or the bits it names (R74, R77). -/
theorem readField_of_width (data : Bytes) (len off bit : Nat) {width : Nat} (h : width ≠ 0) :
    let last := (8 * off + bit + width - 1) / 8
    let n := last - off + 1
    readField data len off bit width =
      if 255 < last then .error 3 else if len ≤ last then .error 4
      else .ok (bits (beAt data off n) (8 * n - bit - 1) (8 * n - bit - width)) := if_neg h

/-! ## Edges -/

/-- Edge `e` of passage `n` is valid and matches selector `sel` (R75). -/
def Dev.edgeFits (gen n sel e : Nat) : Bool :=
  let v := d.passWord gen n (3 + 2 * e)
  bitOf (d.passWord gen n (4 + 2 * e)) 12 && (sel &&& bits v 31 16) = bits v 15 0

theorem Dev.edgeFits_iff (gen n sel e : Nat) : d.edgeFits gen n sel e = true ↔
    bitOf (d.passWord gen n (4 + 2 * e)) 12 = true
      ∧ (sel &&& bits (d.passWord gen n (3 + 2 * e)) 31 16) = bits (d.passWord gen n (3 + 2 * e)) 15 0 := by
  simp [Dev.edgeFits]

/-- The target is that of the first edge found, else the default. The proof unfolds `Dev.edge` as a function, under the name `edge`:
at its arguments the kernel would run the search, down to the register table, before it compares the two sides. -/
theorem Dev.edge_eq_find (gen n sel : Nat) : d.edge gen n sel = ((List.range 16).find? (d.edgeFits gen n sel)).elim
    (bits (d.passWord gen n 2) 11 0) (fun e => bits (d.passWord gen n (4 + 2 * e)) 11 0) := by
  obtain ⟨edge, hedge⟩ : ∃ f, f = Dev.edge := ⟨_, rfl⟩
  rw [← hedge]
  delta Dev.edge at hedge
  rw [hedge]
  dsimp -zeta only
  split
  · next e h => rw [show (List.range 16).find? (d.edgeFits gen n sel) = some e from h, Option.elim_some]
  · next h => rw [show (List.range 16).find? (d.edgeFits gen n sel) = none from h, Option.elim_none]

/-- The lowest edge that fits gives the target. -/
theorem Dev.edge_of_fits {gen n sel e : Nat} (he : e < 16) (h : d.edgeFits gen n sel e = true)
    (hlow : ∀ f, f < e → d.edgeFits gen n sel f ≠ true) : d.edge gen n sel = bits (d.passWord gen n (4 + 2 * e)) 11 0 := by
  have hfind : (List.range 16).find? (d.edgeFits gen n sel) = some e :=
    List.find?_range_eq_some.mpr ⟨h, List.mem_range.mpr he, fun f hf => by simpa using hlow f hf⟩
  rw [Dev.edge_eq_find, hfind, Option.elim_some]

/-- Where no edge fits, the default edge gives the target. -/
theorem Dev.edge_default {gen n sel : Nat} (h : ∀ e, e < 16 → d.edgeFits gen n sel e ≠ true) :
    d.edge gen n sel = bits (d.passWord gen n 2) 11 0 := by
  have hfind : (List.range 16).find? (d.edgeFits gen n sel) = none :=
    List.find?_range_eq_none.mpr fun e he => by simpa using h e he
  rw [Dev.edge_eq_find, hfind, Option.elim_none]

/-! ## Walks -/

section
variable {gen pass len n f : Nat} {data : Bytes} {w : Walk1}

/-- A passage that ends the pass ends the walk. -/
theorem Dev.walkPass_ends {e : PassEnd × Walk1} (h : d.passage gen pass n len data w = .error e) :
    d.walkPass gen pass len data (f + 1) n w = e := by
  simp only [Dev.walkPass, h]

/-- A passage with a target accepts, rejects or leads to the next passage (R70, R72). -/
theorem Dev.walkPass_goes {t : Nat} {v : Walk1} (h : d.passage gen pass n len data w = .ok (t, v)) :
    d.walkPass gen pass len data (f + 1) n w =
      if t = 0x800 then (.outcome 0, v) else if t = 0xC00 then (.outcome 1, v)
      else d.walkPass gen pass len data f (t % 1024) v := by
  simp only [Dev.walkPass, h]

end

end Sys2Proof.Machine
end

section
/-! PROOF. The classifier (R80 to R83): the row that wins a key, the ends of actions, and the way of a packet that is no fragment. -/

namespace Sys2Proof.Machine

/-! ## Entries of a sorted store -/

section
variable {V : Type} {m : Map V}

/-- The keys of a sorted store rise along it. -/
theorem pairwise_of_spSorted (h : spSorted m = true) : m.Pairwise (fun a b => a.1 < b.1) := by
  induction m with
  | nil => exact .nil
  | cons e m ih =>
    obtain ⟨habove, hrest⟩ := Bool.and_eq_true_iff.mp h
    exact .cons ((spAbove_iff e.1 m hrest).mp habove) (ih hrest)

/-- What a sorted store gives at a key is what it lists there. -/
theorem spFind_eq_some_iff_mem (h : spSorted m = true) (k : Nat) (v : V) : spFind m k = some v ↔ (k, v) ∈ m := by
  induction m with
  | nil => simp
  | cons e m ih =>
    obtain ⟨k', v'⟩ := e
    obtain ⟨habove, hrest⟩ := Bool.and_eq_true_iff.mp h
    have hk : ∀ w, (k', w) ∉ m := fun w hw => Nat.lt_irrefl k' ((spAbove_iff k' m hrest).mp habove _ hw)
    by_cases hkk : k = k'
    · subst hkk
      simp [spFind, hk, eq_comm]
    · simp [spFind, hkk, ih hrest]

end

/-! ## The winning row -/

/-- The words of a bank. -/
abbrev Dev.bankWords (d : Dev) (b : Bool) : Map Word := if b then d.csr.bankB else d.csr.bankA

/-- The entry of a bank that makes row `r` valid: the valid bit of its last word (R86). -/
theorem validEntry_iff (e : Nat × Word) (r : Nat) :
    (if 0x10000000 ≤ e.1 ∧ e.1 % 64 = 44 ∧ bitOf e.2.toNat 0 then some ((e.1 - 0x10000000) / 64) else none) = some r
      ↔ e.1 = rowKey r 44 ∧ bitOf e.2.toNat 0 = true := by
  rw [Option.ite_none_right_eq_some, Option.some.injEq, rowKey]
  constructor
  · rintro ⟨⟨hge, hmod, hbit⟩, hr⟩
    exact ⟨by omega, hbit⟩
  · rintro ⟨hk, hbit⟩
    exact ⟨⟨by omega, by omega, hbit⟩, by omega⟩

section
variable {d : Dev} {b : Bool}

theorem Dev.mem_validRows (hs : spSorted (d.bankWords b) = true) (r : Nat) :
    r ∈ d.validRows b ↔ ∃ w, spFind (d.bankWords b) (rowKey r 44) = some w ∧ bitOf w.toNat 0 = true := by
  simp only [Dev.validRows, List.mem_filterMap, validEntry_iff, spFind_eq_some_iff_mem hs]
  constructor
  · rintro ⟨⟨k, w⟩, hmem, rfl, hbit⟩
    exact ⟨w, hmem, hbit⟩
  · rintro ⟨w, hmem, hbit⟩
    exact ⟨(rowKey r 44, w), hmem, rfl, hbit⟩

/-- The valid rows of a sorted bank rise. -/
theorem Dev.validRows_rise (hs : spSorted (d.bankWords b) = true) : (d.validRows b).Pairwise (· < ·) := by
  refine (pairwise_of_spSorted hs).filterMap _ fun x y hlt r hr q hq => ?_
  obtain ⟨hx, -⟩ := (validEntry_iff x r).mp hr
  obtain ⟨hy, -⟩ := (validEntry_iff y q).mp hq
  rw [hx, hy, rowKey, rowKey] at hlt
  omega

end

/-- What is found in a rising list is the least of its members that pass the test. -/
theorem find?_least {l : List Nat} {p : Nat → Bool} {r : Nat} (hl : l.Pairwise (· < ·)) (h : l.find? p = some r) :
    r ∈ l ∧ p r = true ∧ ∀ q, q < r → q ∈ l → p q = false := by
  obtain ⟨hr, as, bs, rfl, has⟩ := List.find?_eq_some_iff_append.mp h
  obtain ⟨-, htail, -⟩ := List.pairwise_append.mp hl
  obtain ⟨hafter, -⟩ := List.pairwise_cons.mp htail
  refine ⟨by simp, hr, fun q hlt hq => ?_⟩
  rcases List.mem_append.mp hq with hq | hq
  · simpa using has q hq
  · rcases List.mem_cons.mp hq with rfl | hq
    · exact absurd hlt (Nat.lt_irrefl q)
    · exact absurd hlt (Nat.lt_asymm (hafter q hq))

section
variable {d : Dev} {gen key : Nat} (hs : spSorted (d.bankWords (d.bankAt 6 gen)) = true)
include hs

/-- The row found for a key is valid and matches, and no valid row below it does (R80). -/
theorem Dev.searchRows_some {r : Nat} (h : d.searchRows gen key = some r) :
    (∃ w, spFind (d.bankWords (d.bankAt 6 gen)) (rowKey r 44) = some w ∧ bitOf w.toNat 0 = true)
      ∧ d.rowMatch (d.bankAt 6 gen) key r = true
      ∧ ∀ q, q < r → (∃ w, spFind (d.bankWords (d.bankAt 6 gen)) (rowKey q 44) = some w ∧ bitOf w.toNat 0 = true) →
        d.rowMatch (d.bankAt 6 gen) key q = false := by
  obtain ⟨hmem, hmatch, hleast⟩ := find?_least (Dev.validRows_rise hs) h
  exact ⟨(Dev.mem_validRows hs r).mp hmem, hmatch, fun q hlt hq => hleast q hlt ((Dev.mem_validRows hs q).mpr hq)⟩

/-- Where no row is found for a key, no valid row matches it. -/
theorem Dev.searchRows_none (h : d.searchRows gen key = none) (q : Nat)
    (hq : ∃ w, spFind (d.bankWords (d.bankAt 6 gen)) (rowKey q 44) = some w ∧ bitOf w.toNat 0 = true) :
    d.rowMatch (d.bankAt 6 gen) key q = false := by
  simpa using List.find?_eq_none.mp h q ((Dev.mem_validRows hs q).mpr hq)

end

/-! ## Actions and passes -/

/-- The ends of DROP, DIRECT, TASK and EXCEPTION for a packet that the forwarding stage keeps (R83). -/
theorem Dev.finishAction_cases (d : Dev) {p : Pkt} (h : p.missDrop = false) :
    (actType p.action = 0 → d.finishAction p = d.dropPkt p)
    ∧ (∀ q, actType p.action = 1 → p.seq = some q →
      d.finishAction p = d.reorderEnter ⟨p.domain, q, some p, p.egress, d.drip.now, none⟩)
    ∧ (actType p.action = 2 → d.finishAction p = d.enqueueTask p)
    ∧ (actType p.action = 3 → d.finishAction p = d.exception p (bits p.action 10 8) 2) := by
  have hkept : ¬ p.missDrop = true := by simp [h]
  unfold Dev.finishAction
  rw [if_neg hkept]
  refine ⟨fun ha => ?drop, fun q ha hq => ?direct, fun ha => ?task, fun ha => ?exception⟩
  case drop => simp only [ha]
  case direct => simp only [ha, hq]
  case task => simp only [ha]
  case exception => simp only [ha]

/-- A packet that is no fragment and reads no poisoned cell goes the way its pass ends (R77, R83). -/
theorem Dev.classify_whole {d : Dev} {p q : Pkt} {w : Walk1} {o : Nat} (hp : (d.viewCells p).any d.cellPoisoned = false)
    (hw : d.parse p = (.outcome o, w, q)) (hf : w.fragAt = none) :
    d.classify p = if o = 0 then (d.lookupAction q).2.actOrMiss q (d.lookupAction q).1
      else (d.bump (R.parsOut + 4 * (o - 1))).failPass q o := by
  simp only [Dev.classify, hp, Bool.false_eq_true, if_false, hw, hf]

end Sys2Proof.Machine
end

section
/-! PROOF. MACsec on received frames (R122, R124), and the statement on the ingress stages. -/

namespace Sys2Proof.Machine

variable {d : Dev} {m : Nat} {f : Bytes}

/-- MACsec passes every frame where it is off, and EAPOL frames (R124). -/
theorem Dev.validateFrame_untouched (h : bitOf (d.msec m) 0 = false ∨ beAt f 12 2 = 0x888E) :
    d.validateFrame m f = (some f, d) := if_pos (by rcases h with h | h <;> simp [h])

/-- A frame without a SecTAG is dropped under Strict and passed under Check (R124). -/
theorem Dev.validateFrame_untagged (hon : bitOf (d.msec m) 0 = true) (he : beAt f 12 2 ≠ 0x888E) (ht : beAt f 12 2 ≠ 0x88E5) :
    d.validateFrame m f = if bitOf (d.msec m) 1 then (none, d.msecCount m 3) else (some f, d) :=
  (if_neg (by simp [hon, he])).trans (if_pos ht)

/-- An SA is that of a frame: its AN, and its SCI where the frame says one (R122). -/
theorem Dev.saTakes_iff (t : SecFrame) (s : Nat × Nat) :
    d.saTakes f t s = true ↔ bits s.2 10 9 = t.tci % 4 ∧ ∀ x, t.sci f = some x → d.saSci s.1 = x := by
  unfold Dev.saTakes
  cases t.sci f <;> simp

/-! ## Frames with a SecTAG -/

section
variable {t : SecFrame} (hon : bitOf (d.msec m) 0 = true) (ht : beAt f 12 2 = 0x88E5) (hr : readSec f = (true, t))
include hon ht hr

/-- A frame whose SA is missing is counted so (R124). -/
theorem Dev.validateFrame_noSa (hsa : (d.macSas m false).find? (d.saTakes f t) = none) :
    d.validateFrame m f = d.msecFail m 2 (f.take 12 ++ t.body) := by
  simp [Dev.validateFrame, hon, ht, hr, hsa]

variable {i c : Nat} (hsa : (d.macSas m false).find? (d.saTakes f t) = some (i, c))
include hsa

/-- A frame late for its replay window is counted so (R124). -/
theorem Dev.validateFrame_late {lowest pn : Nat} (hlow : lowestPn (d.nextPn i) (d.live (R.ciphMsecMac1 + 8 * m)) = lowest)
    (hpn : recoverPn lowest t.low = pn) (hz : pn ≠ 0) (hw : bitOf (d.msec m) 6 = true) (hlt : pn < lowest) :
    d.validateFrame m f = d.msecFail m 1 (f.take 12 ++ t.body) := by
  simp [Dev.validateFrame, hon, ht, hr, hsa, hlow, hpn, hz, hw, hlt]

/-- A frame that opens is delivered without its tag and its ICV, and its packet number is taken (R122, R124). -/
theorem Dev.validateFrame_opens {lowest pn k : Nat} {x : Bytes}
    (hlow : lowestPn (d.nextPn i) (d.live (R.ciphMsecMac1 + 8 * m)) = lowest) (hpn : recoverPn lowest t.low = pn)
    (hk : msecClear (d.msec m) t.body.length (bitOf t.tci 3) = k) (hz : pn ≠ 0) (hw : bitOf (d.msec m) 6 = false ∨ lowest ≤ pn)
    (ho : aeadOpen 2 (d.saKey i) (d.saNonce i pn) (f.take (12 + t.tl) ++ t.body.take k) (t.body.drop k ++ t.icv) = some x) :
    d.validateFrame m f = (some (f.take 12 ++ t.body.take k ++ x),
      if d.nextPn i ≤ pn then d.setIo64 (R.ciphSaNextpn + saOff i) (pn + 1) else d) := by
  have hlate : (bitOf (d.msec m) 6 && decide (pn < lowest)) = false := by
    rcases hw with hw | hw <;> simp [hw]
  simp only [Dev.validateFrame, hon, ht, hr, hsa, hlow, hpn, hk, hlate, ho, if_neg hz]
  rfl

end

/-! ## The obligation -/

/-- Settles O11: each command comes to its part of the port stage, of admission or of the fragment table, and each function
that it names has its lemma for every case. -/
theorem ingressStages : Obligations.IngressStages := by
  unfold Obligations.IngressStages
  refine ⟨fun s mac f hs hm hl => ⟨?control, fun g d hc hv hg => ⟨?unbound, fun b hb => ⟨?refused, ?stored⟩⟩⟩,
    ⟨fun s pipe hs hslot => ⟨?admitted, ?recirculated⟩, ?expired⟩,
    fun d => ⟨?field, fun gen n sel => ⟨?edge, ?default⟩, ?walk, ?search, ?action, ?pass,
      fun m f => ⟨?off, ?untagged, ?tagged⟩⟩⟩
  case control => exact fun hlen ht hp => exec_withDev_congr rfl (Dev.frameReceive_control hs hm hl hlen ht hp)
  case unbound =>
    intro hb
    exact exec_withDev_congr rfl ((Dev.frameReceive_passed hs hm hl hc hv).trans (hb ▸ Dev.portFrame_none _ hg))
  case refused =>
    intro e ht
    have hstore := (Dev.portFrame_some b (s.dev.strongPass.rxStamp mac) hg).trans (Dev.storeFrame_refused _ ht)
    exact exec_withDev_congr rfl ((Dev.frameReceive_passed hs hm hl hc hv).trans (hb ▸ hstore))
  case stored =>
    intro c e hlen ht
    have hstore := (Dev.portFrame_some b (s.dev.strongPass.rxStamp mac) hg).trans (Dev.storeFrame_taken _ hlen ht)
    exact exec_withDev_congr rfl ((Dev.frameReceive_passed hs hm hl hc hv).trans (hb ▸ hstore))
  case admitted =>
    exact fun m ms f rest hnew hr hw hf => exec_withDev_congr rfl (Dev.admitNext_frame hs hslot hnew hr hw hf)
  case recirculated => exact fun p rest hr => exec_withDev_congr rfl (Dev.recircAdmit_ready hs hslot hr)
  case expired => exact fun s set way f hf ho => exec_withDev_congr rfl (Dev.fragExpire_old hf ho)
  case field => exact fun data len off bit width hw => readField_of_width data len off bit hw
  case edge =>
    exact fun e he hfit hlow => d.edge_of_fits he ((d.edgeFits_iff gen n sel e).mpr hfit)
      fun f hf h => hlow f hf ((d.edgeFits_iff gen n sel f).mp h)
  case default => exact fun h => d.edge_default fun e he hfit => h e he ((d.edgeFits_iff gen n sel e).mp hfit)
  case walk =>
    exact fun gen pass len data n w => ⟨rfl, fun f => ⟨fun e h => d.walkPass_ends h, fun t v h => d.walkPass_goes h⟩⟩
  case search =>
    exact fun gen key hsorted => ⟨fun r h => Dev.searchRows_some hsorted h, fun h => Dev.searchRows_none hsorted h⟩
  case action => exact fun p hp => d.finishAction_cases hp
  case pass => exact fun p q w o hp hw hf => Dev.classify_whole hp hw hf
  case off => exact Dev.validateFrame_untouched
  case untagged => exact Dev.validateFrame_untagged
  case tagged =>
    exact fun t hon ht hr => ⟨fun s => Dev.saTakes_iff t s, Dev.validateFrame_noSa hon ht hr, fun i c hsa =>
      ⟨Dev.validateFrame_late hon ht hr hsa rfl rfl, fun x => Dev.validateFrame_opens hon ht hr hsa rfl rfl rfl⟩⟩

end Sys2Proof.Machine
end

section
/-! PROOF. The Larder's operations (R98, R102, R111): the tag of a thread, a chain past the walk of R107, and what each operation
answers on it. -/

namespace Sys2Proof.Machine

variable {d : Dev} {tag h w2 : Nat} {c : Chain} {l : List Nat} {id : Tid}

/-! ## Owner tags of threads -/

/-- The owner tag of a thread says its gallery. -/
theorem bits_ownerTag_gallery (hg : id.g < 16) (hc : id.c < 9) (ht : id.t < 8) : bits (ownerTag id) 10 7 = id.g := by
  simp only [bits, ownerTag]; omega

/-- The owner tag of a thread names that thread. -/
theorem tidOfTag_ownerTag (hg : id.g < 16) (hc : id.c < 9) (ht : id.t < 8) : tidOfTag (ownerTag id) = some id := by
  have hcore : bits (ownerTag id) 6 3 = id.c := by simp only [bits, ownerTag]; omega
  have hthr : bits (ownerTag id) 2 0 = id.t := by simp only [bits, ownerTag]; omega
  rw [tidOfTag, if_neg (by rw [hcore]; simp only [ownerTag]; omega), hcore, hthr,
    bits_ownerTag_gallery hg hc ht]

/-- The owner tag of a thread has 12 bits. -/
theorem ownerTag_lt (hg : id.g < 16) (hc : id.c < 9) (ht : id.t < 8) : ownerTag id < 2 ^ 12 := by
  simp only [ownerTag]; omega

/-- A bit above a number's width is clear. -/
theorem bitOf_of_lt {v i : Nat} (hv : v < 2 ^ i) : bitOf v i = false := by rw [bitOf, Nat.div_eq_of_lt hv]; rfl

/-! ## A chain that is taken -/

/-- A command word that holds nothing but its op, with the words the op uses, sets nothing unused (R103). -/
theorem lardUnused_eq_false {op w1 : Nat} (h1 : op = 1 ∨ op = 2 ∨ op = 3 ∨ op = 4) (h2 : op = 1 → w2 = 0) :
    lardUnused op op w1 w2 0 = false := by
  rcases h1 with rfl | rfl | rfl | rfl <;> simp [lardUnused, bits, h2]

/-- The owner of every cell of a list may take it. -/
theorem Dev.mayTake_of_allOwned (ho : d.allOwned tag l = true) (force : Bool) : d.mayTake tag l force = true := by
  simp [Dev.mayTake, ho]

/-- A sound chain of at least one cell gets past the walk (R107). -/
theorem Dev.lardWalk_cells (hn : c.count ≠ 0) (hw : d.lard.walk c.count c.head = .cells l) : d.lardWalk tag h c = .ok l := by
  simp [Dev.lardWalk, hn, hw]

/-! ## ALLOC, FREE, TRANSFER, JOIN and RECLAIM -/

/-- ALLOC of at most 512 cells answers what the allocation gives (R98). -/
theorem Dev.lardAlloc_word (d : Dev) (tag : Nat) {pool n : Nat} (hp : pool < 32) (hn : n ≤ 512) :
    d.lardAlloc tag (pool * 16 + n * 2 ^ 9) 0 0 0 = (match d.alloc tag pool n none with
      | (some c, e) => ⟨Code.ok, c.handle, e⟩
      | (none, e) => ⟨Code.failEmpty, 0, e⟩) := by
  have hop : (pool * 16 + n * 2 ^ 9) % 16 = 0 := by omega
  have hpool : bits (pool * 16 + n * 2 ^ 9) 8 4 = pool := by simp only [bits]; omega
  have hcount : bits (pool * 16 + n * 2 ^ 9) 18 9 = n := by simp only [bits]; omega
  have hhigh : pool * 16 + n * 512 < 524288 := by omega
  have hunused : lardUnused 0 (pool * 16 + n * 2 ^ 9) 0 0 0 = false := by simp [lardUnused, hhigh]
  simp only [Dev.lardAlloc, hop, hpool, hcount, hunused, show ¬ 512 < n by omega]
  rfl

section
variable (hh : chainOf h = some c) (hn : c.count ≠ 0) (hw : d.lard.walk c.count c.head = .cells l)
include hh hn hw

/-- FREE of a sound chain frees every cell of it, or is refused (R102, R106). -/
theorem Dev.lardFree_chain :
    d.lardFree tag 1 h 0 0 = if d.mayTake tag l true then ⟨Code.ok, 0, d.freeList l⟩ else d.lardNotHolder := by
  simp [Dev.lardFree, lardUnused_eq_false, hh, Dev.lardWalk_cells hn hw]

/-- TRANSFER of a sound chain retags every cell of it, or is refused (R102). -/
theorem Dev.lardTransfer_chain {o : Nat} (ho : ownerTagOk o = true) (hlt : o < 2 ^ 12) :
    d.lardTransfer tag 2 h o 0 = if d.mayTake tag l true
      then ⟨Code.ok, h, d.mapCells l (fun x => { x with owner := o })⟩ else d.lardNotHolder := by
  simp [Dev.lardTransfer, lardUnused_eq_false, hh, Dev.lardWalk_cells hn hw, ho, hn, show o < 4096 from hlt]

/-- JOIN links a sound chain of the requester behind another one (R102). -/
theorem Dev.lardJoin_chains {h' : Nat} {c' : Chain} {l' : List Nat} (ho : d.allOwned tag l = true)
    (hh' : chainOf h' = some c') (hn' : c'.count ≠ 0) (hw' : d.lard.walk c'.count c'.head = .cells l')
    (ho' : d.allOwned tag l' = true) (hne : c.head ≠ c'.head) (hsum : c.count + c'.count ≤ 512) :
    d.lardJoin tag 3 h h' 0 = ⟨Code.ok, (d.joinChains c c').1.handle, (d.joinChains c c').2⟩ := by
  simp [Dev.lardJoin, Dev.lardWalk2, lardUnused_eq_false, hh, hh', Dev.lardWalk_cells hn hw, Dev.lardWalk_cells hn' hw',
    Dev.mayTake_of_allOwned ho, Dev.mayTake_of_allOwned ho', hne, Nat.not_lt.mpr hsum]

end

/-- RECLAIM by the keeper of its gallery or the head keeper frees and counts every cell of a stopped thread (R102). -/
theorem Dev.lardReclaim_stopped {k : Tid} (hk : tidOfTag tag = some k) (hkeep : d.isKeeper k = true)
    (hof : k.g = id.g ∨ k.g = 0) (hg : id.g < 16) (hc : id.c < 9) (ht : id.t < 8)
    (hst : (d.thr id).state = .parked ∨ (d.thr id).state = .halted) :
    d.lardReclaim tag 5 0 (ownerTag id) 0 = ⟨Code.ok, 0,
      (d.freeList (d.cellsOf (ownerTag id))).bumpBy R.lardRetireFreed (d.cellsOf (ownerTag id)).length⟩ := by
  have hlt := ownerTag_lt hg hc ht
  have hmod : ownerTag id % 2 ^ 12 = ownerTag id := Nat.mod_eq_of_lt hlt
  have hkeeper : (d.isKeeper k && (k.g = 0 || ownerTag id < 0x800 || bits (ownerTag id) 10 7 = k.g)) = true := by
    rcases hof with hof | hof <;> simp [hkeep, bits_ownerTag_gallery hg hc ht, hof]
  have hwords : (lardUnused 5 5 0 (ownerTag id) 0 || ownerTag id / 2 ^ 12 ≠ 0) = false := by
    simp [lardUnused, bits, show ownerTag id < 4096 from hlt]
  have hstopped : ¬ ((d.thr id).state ≠ .parked ∧ (d.thr id).state ≠ .halted) :=
    fun ⟨hparked, hhalted⟩ => hst.elim hparked hhalted
  simp only [Dev.lardReclaim, hk, hmod, hkeeper, hwords, tidOfTag_ownerTag hg hc ht]
  exact if_neg hstopped

/-! ## RELEASE -/

/-- A thread that runs a task releases for it, with the task's number while it is unspent (R300). -/
theorem Dev.relBase_task {p : Pkt} (hkeep : d.isKeeper id = false) (hp : (d.thr id).desc = some p)
    (hs : (d.thr id).spent = false) (a : Option Chain) (w2 : Nat) : d.relBase id a w2 = some ⟨p, p.seq, none⟩ := by
  simp [Dev.relBase, hkeep, hp, hs]

/-- RELEASE of a sound chain by a thread that holds it and runs a task with an unspent number (R111): with `empty` the chain is
freed and the number is left empty, without it the chain is handed over, as an ordinary packet that fits its cells. -/
theorem Dev.lardRelease_task {p : Pkt} {q : Nat} (hg : id.g < 16) (hc : id.c < 9) (ht : id.t < 8)
    (hkeep : d.isKeeper id = false) (hp : (d.thr id).desc = some p) (hs : (d.thr id).spent = false) (hq : p.seq = some q)
    (hh : chainOf h = some c) (hn : c.count ≠ 0) (hw : d.lard.walk c.count c.head = .cells l)
    (ho : d.allOwned (ownerTag id) l = true) (hw2 : w2 < 2 ^ 13)
    (hrel : bitOf w2 12 = false → d.relSession id (bits w2 11 0) = .ok none)
    (hlen : bitOf w2 12 = false → d.localVal id winLength 4 ≤ 128 * c.count) :
    d.lardRelease (ownerTag id) 4 h w2 0 = ⟨Code.ok, 0, if bitOf w2 12
      then ((d.freeList l).spendNumber id ⟨p, some q, none⟩).releaseEmpty p.domain q
      else d.handOver id ⟨p, some q, none⟩ c (bits w2 11 0) (d.localVal id winLength 4) none⟩ := by
  have hpending : bitOf w2 13 = false := bitOf_of_lt hw2
  have hslot : bits w2 21 16 = 0 := by simp only [bits]; omega
  have hreserved : bits w2 15 14 = 0 := by simp only [bits]; omega
  have hhigh : w2 < 4194304 := by omega
  cases hempty : bitOf w2 12 with
  | true =>
    simp [Dev.lardRelease, tidOfTag_ownerTag hg hc ht, Dev.relBase_task hkeep hp hs, hq, hh, Dev.lardWalk_cells hn hw,
      Dev.mayTake_of_allOwned ho, lardUnused_eq_false, hpending, hslot, hreserved, hhigh, hempty]
  | false =>
    simp [Dev.lardRelease, tidOfTag_ownerTag hg hc ht, Dev.relBase_task hkeep hp hs, hq, hh, Dev.lardWalk_cells hn hw,
      Dev.mayTake_of_allOwned ho, lardUnused_eq_false, hpending, hslot, hreserved, hhigh, hempty, hrel hempty, hn,
      Nat.not_lt.mpr (hlen hempty)]

/-! ## The obligation -/

/-- Settles O16: every operation has its lemma, and the walk and the holder of the chain decide its answer. -/
theorem larderOperations : Obligations.LarderOperations := by
  unfold Obligations.LarderOperations
  refine ⟨fun d tag => ⟨?alloc, ?chain, ?reclaim⟩, fun d id p q h c l hg hc ht hkeep hp hs hq hh hn hw ho => ⟨?empty, ?handed⟩⟩
  case alloc => exact fun pool n => d.lardAlloc_word tag
  case chain =>
    refine fun h c l hh hn hw => ⟨fun ho => ⟨?free, ?transfer, ?join⟩, fun hno => ⟨?freeRefused, ?transferRefused⟩⟩
    case free => exact (Dev.lardFree_chain hh hn hw).trans (if_pos (Dev.mayTake_of_allOwned ho true))
    case transfer =>
      exact fun o hok hlt => (Dev.lardTransfer_chain hh hn hw hok hlt).trans (if_pos (Dev.mayTake_of_allOwned ho true))
    case join => exact fun h' c' l' => Dev.lardJoin_chains hh hn hw ho
    case freeRefused => exact (Dev.lardFree_chain hh hn hw).trans (if_neg (by simp [hno]))
    case transferRefused =>
      exact fun o hok hlt => (Dev.lardTransfer_chain hh hn hw hok hlt).trans (if_neg (by simp [hno]))
  case reclaim => exact fun k id => Dev.lardReclaim_stopped
  case empty =>
    have hempty : bitOf (2 ^ 12) 12 = true := by decide
    have hfull {P : Prop} (h : bitOf (2 ^ 12) 12 = false) : P := absurd (hempty.symm.trans h) nofun
    rw [Dev.lardRelease_task hg hc ht hkeep hp hs hq hh hn hw ho (by decide) hfull hfull, if_pos hempty]
  case handed =>
    intro bay hbay hrel hlen
    have hfld : bits bay 11 0 = bay := by simp only [bits]; omega
    rw [Dev.lardRelease_task hg hc ht hkeep hp hs hq hh hn hw ho (by omega) (fun _ => hfld.symm ▸ hrel) (fun _ => hlen),
      if_neg (by simp [bitOf_of_lt hbay]), hfld]

end Sys2Proof.Machine
end

section
/-! PROOF. The Larder's commands (R101, R119) and CELL_SCRUB_DONE (R95): what a command of a thread or a master does, whatever
its operation. -/

namespace Sys2Proof.Machine

variable {d : Dev}

/-- The LARD instruction that a thread issues answers in its result operand, with the code in FLAGS (R101). -/
theorem Dev.issueLard_runs {id : Tid} {i : Dec} {e : Dev} {x y : Ev1} {b : Map Word} (h : d.issuesOn id i e [x, y] b)
    (ho : i.op = 0xE4) {mine : Nat → Bool} (hm : mine (bits x.val 31 0 % 16) = true) (f : LardOp) :
    let a := f (e.setBases id b) (ownerTag id) (bits x.val 31 0) (bits x.val 63 32) (bits x.val 95 64) (bits x.val 127 96)
    d.issueLard id mine f
      = (a.dev.putOp id 0xE4 i.width (classOf 0xE4) y (a.code + a.res * 2 ^ 32)).finishCode id i b a.code false := by
  rw [Dev.issueLard, Dev.issueWith_runs h.1 _ _ ho, Dev.withOps_runs h]
  simp [hm, ho]

/-- The Larder command of the host or the peer answers in its result and status registers (R119). -/
theorem Dev.goLard_acts {m : Nat} (hm : m = 3 ∨ m = 4) (hs : d.serving = true) (hc : d.noPath m = false)
    {mine : Nat → Bool} (hop : mine (d.per m R.lardCmd % 16) = true) (f : LardOp) :
    let a := f d (masterTag m) (d.per m R.lardCmd) (d.per m (R.lardCmd + 4)) (d.per m (R.lardCmd + 8))
      (d.per m (R.lardCmd + 12))
    d.goLard m mine f = (a.dev.setPer m R.lardCmdRes a.res).setStat m R.lardCmdStat false a.code := by
  rw [Dev.goLard, d.doorbell_acts m _ _ _ 1 _ hc (d.blockOpen_of_serving hs _) (.inr (by simpa using hm)) (by decide)]
  simp [hop]

/-- Each row of the Larder is a command of its operation, for its op at least. -/
theorem exec_larderRow : ∀ row ∈ larderRows, ∃ mine : Nat → Bool, mine row.2.1 = true ∧
    ∀ who s, exec (row.1 who) s = .next (s.withDev (s.dev.lardBy who mine row.2.2)) := by
  simp only [larderRows, List.forall_mem_cons, List.not_mem_nil, false_implies, implies_true, and_true]
  refine ⟨?_, ?_, ?_, ?_, ?_, ?_⟩ <;> exact ⟨_, rfl, fun _ _ => rfl⟩

/-- A cell that awaits zeroing is zeroed (R95). -/
theorem Dev.scrubDone_awaiting {i : Nat} (h : spGet false d.lard.scrub i = true) :
    d.scrubDone i = d.onLard (fun l => { l with scrub := spSet false l.scrub i false, fill := spSet 1 l.fill i 0 }) := if_pos h

/-- Settles O15: whatever the operation, its row issues it for a thread and goes on it for a master. -/
theorem larderCommands : Obligations.LarderCommands := by
  unfold Obligations.LarderCommands
  refine ⟨fun row hrow s => ?rows, fun s i h => exec_withDev_congr rfl (Dev.scrubDone_awaiting h)⟩
  obtain ⟨mine, hmine, hexec⟩ := exec_larderRow row hrow
  refine ⟨fun id i e x y b h ho hop => ?thread, fun m hm hs hc hop => ?master⟩
  case thread => exact exec_withDev_congr (hexec _ s) (Dev.issueLard_runs h ho (hop ▸ hmine) row.2.2)
  case master => exact exec_withDev_congr (hexec _ s) (Dev.goLard_acts hm hs hc (hop ▸ hmine) row.2.2)

end Sys2Proof.Machine
end

section
/-! PROOF. Egress service (R117, R480), header cells (R136, R138) and holes (R114): what becomes of a head that is served, of one
that waits for a header cell, and of a hole that has lasted. -/

namespace Sys2Proof.Machine

variable {d : Dev} {mac b : Nat} {e : EgPkt}

/-! ## The head that is served -/

/-- The head of the bay that the round robin gives the MAC is served (R117). -/
theorem Dev.egressServe_head {g : Dev} {l : List EgPkt} (hb : (d.cutHeads mac).nextBay mac = (some b, g))
    (hf : g.fifo b = e :: l) :
    d.egressServe mac = (g.onEgrs (fun x => { x with serving := spSet 0 x.serving mac b })).serveHead mac b e := by
  simp only [Dev.egressServe, hb, hf]

/-- Without a link, or with the Rope not UP, the head is freed and counted (R480). -/
theorem Dev.serveHead_down (h : d.macUp mac = false) : d.serveHead mac b e =
    if mac = 64 then ((d.popHead b e.cost).freeEgress e.pkt).bump R.ropeCnt
    else ((d.popHead b e.cost).freeEgress e.pkt).bump (R.laneTxdown + 4 * mac) := if_pos (by rw [h]; rfl)

section
variable (hup : d.macUp mac = true)
include hup

/-- A packet with a link is transmitted and freed (R117). -/
theorem Dev.serveHead_sent (hr : e.raw = []) (hp : (d.popHead b e.cost).chainPoisoned e.pkt.chain = false) :
    d.serveHead mac b e = ((d.popHead b e.cost).transmit mac b e.pkt.gen
      ((d.popHead b e.cost).chainBytes e.pkt.chain 0 e.pkt.len)).freeEgress e.pkt := by
  simp [Dev.serveHead, hup, hr, hp]

/-- A packet with a link whose data is poisoned is dropped and freed (R470). -/
theorem Dev.serveHead_poisoned (hr : e.raw = []) (hp : (d.popHead b e.cost).chainPoisoned e.pkt.chain = true) :
    d.serveHead mac b e = ((d.popHead b e.cost).countChain e.pkt.chain).freeEgress e.pkt := by
  simp [Dev.serveHead, hup, hr, hp]

/-- A frame with a link is sent or waits (R136). -/
theorem Dev.serveHead_frame (hr : e.raw ≠ []) : d.serveHead mac b e = d.sendRaw mac b e := by
  simp [Dev.serveHead, hup, hr]

end

/-- A frame of session data without a header cell waits for one (R138). -/
theorem Dev.sendRaw_waits {g : Dev} (hd : e.pkt.domain ≠ 65527) (hc : d.headerCell mac b e.pkt.gen = (none, g)) :
    d.sendRaw mac b e = g.setHead b { e with headerWait := some (e.headerWait.getD g.drip.now) } := by
  simp only [Dev.sendRaw, if_neg hd, hc]

/-- A frame of session data with a header cell is transmitted, and the cell freed (R136). -/
theorem Dev.sendRaw_sent {c : Chain} {g : Dev} (hd : e.pkt.domain ≠ 65527)
    (hc : d.headerCell mac b e.pkt.gen = (some c, g)) :
    d.sendRaw mac b e = ((g.popHead b e.cost).transmit mac b e.pkt.gen e.raw).freeChain c := by
  simp only [Dev.sendRaw, if_neg hd, hc]

/-- The head of a session that is dropped aborts the session, with a record (R138). -/
theorem Dev.headerDrop_session {sd : SessData} (hs : e.sess = some sd) : d.headerDrop b e =
    ((((d.popHead b e.cost).freeEgress e.pkt).sessCount 6).abortSes sd.session e.pkt.gen false none).incident 10
      Code.failEmpty 0 sd.session b := by
  simp only [Dev.headerDrop, hs]

/-! ## Holes -/

/-- A hole that has lasted hole_timeout drips is counted, recorded and passed over, and the run behind it released (R114). -/
theorem Dev.holeSkip_due {dom h : Nat} (hh : spFind d.egrs.holes dom = some h)
    (ha : d.egrs.waiting.any (fun e => e.domain = dom && e.seq = d.nextSeq dom) = false)
    (ht : h + d.liveFld R.egrsHoleCfg 14 0 ≤ d.drip.now) :
    let g := (((d.bump R.egrsHoleSkip).incident 18 Code.timeout 0 dom (d.nextSeq dom)).setNextSeq dom
      (d.nextSeq dom + 1)).onEgrs (fun x => { x with holes := spErase x.holes dom })
    d.holeSkip dom = (g.releaseDomain dom).openHoles := by
  simp only [Dev.holeSkip, hh, ha, ht]
  rfl

/-! ## The obligation -/

/-- Settles O14: each command comes to its function, and each case of a head or a hole has its lemma. -/
theorem egressService : Obligations.EgressService := by
  unfold Obligations.EgressService
  refine ⟨⟨?served, fun d mac b e => ⟨Dev.serveHead_down, Dev.serveHead_sent, Dev.serveHead_poisoned,
      fun hup hr hd => ⟨?waits, ?cell⟩⟩,
    fun s mac => ⟨rfl, rfl⟩, fun d b e sd => Dev.headerDrop_session⟩, ?hole⟩
  case served => exact fun s mac b d e l hb hf => exec_withDev_congr rfl (Dev.egressServe_head hb hf)
  case waits => exact fun g hc => (Dev.serveHead_frame hup hr).trans (Dev.sendRaw_waits hd hc)
  case cell => exact fun c g hc => (Dev.serveHead_frame hup hr).trans (Dev.sendRaw_sent hd hc)
  case hole => exact fun s dom h hh ha ht => exec_withDev_congr rfl (Dev.holeSkip_due hh ha ht)

end Sys2Proof.Machine
end

section
/-! PROOF. Timers and events of a session (R128, R131, R135, R137, R140). -/

namespace Sys2Proof.Machine

variable {d : Dev} {n : Nat} {x : Session}

@[simp] theorem Dev.ses_setSes : (d.setSes n x).ses n = some x := spFind_spPut_same _ _ _

/-! ## The delayed acknowledgement (R135) -/

/-- An entry that is not late waits in the reorder stage (R112). -/
theorem Dev.reorderEnter_waits {e : RoEntry} (h : seq24 (e.seq + 2 ^ 24 - d.nextSeq e.domain) < 2 ^ 23) :
    d.reorderEnter e = d.onEgrs (fun g => { g with waiting := g.waiting ++ [e] }) := if_neg (Nat.not_le.mpr h)

section
variable (hx : d.ses n = some x)
include hx

/-- An acknowledgement whose number is not late passes the assign counter and waits in the reorder stage. -/
theorem Dev.emitAck_waits (gen : Nat) (h : seq24 (spGet 0 d.egrs.assign x.id.domain + 2 ^ 24 - d.nextSeq x.id.domain) < 2 ^ 23) :
    let q := spGet 0 d.egrs.assign x.id.domain
    d.emitAck n gen = (d.setSes n { x with rx := { x.rx with ackPend := 0 } }).onEgrs (fun e => { e with
      assign := spSet 0 e.assign x.id.domain (seq24 (q + 1)),
      waiting := e.waiting ++ [⟨x.id.domain, q, some { Pkt.empty with
        session := some n, domain := x.id.domain, seq := some q, bay := x.id.bay, egress := x.id.bay, gen := gen },
        x.id.bay, d.drip.now, some ⟨n, 0⟩⟩] }) := by
  simp only [Dev.emitAck, hx]
  exact Dev.reorderEnter_waits h

theorem Dev.delayedAck_due (hp : x.rx.ackPend ≠ 0) (ht : x.rx.ackDrip < d.drip.now) :
    d.delayedAck n = d.emitAck n d.sesGen := by
  simp only [Dev.delayedAck, hx]
  exact if_pos (by simp [hp, ht])

/-! ## The end of an id (R131) -/

theorem Dev.recycle_due (hc : x.state = .closed)
    (ht : x.closedAt + 2 * bits (d.profile (d.group 10).genLive x.id.profile 1) 31 16 * 1024 ≤ d.drip.now) :
    d.recycle n = d.onSess (fun t => { t with tab := spErase t.tab n, hot := t.hot.erase n }) := by
  simp only [Dev.recycle, hx]
  exact if_pos (by simp [hc, ht])

end

/-! ## The retransmission timeout (R137, R140) -/

/-- The session with another send side. -/
def Session.withTx (x : Session) (t : SessTx) : Session := { x with tx := t }

section
variable (t : SessTx)

@[simp] theorem Session.withTx_tx : (x.withTx t).tx = t := rfl
@[simp] theorem Session.withTx_id : (x.withTx t).id = x.id := rfl
@[simp] theorem Session.withTx_state : (x.withTx t).state = x.state := rfl
@[simp] theorem Session.withTx_rx : (x.withTx t).rx = x.rx := rfl
@[simp] theorem Session.withTx_tls : (x.withTx t).tls = x.tls := rfl

end

/-- The send side after a timeout with segments in flight: the timeout doubled and its timer started again, one more
retransmission counted, and what SACK had covered forgotten. -/
def Dev.backedOff (d : Dev) (x : Session) : SessTx :=
  let gen := (d.group 10).genLive
  let rto := d.clampRto gen x.id.profile (2 * x.tx.rto)
  { x.tx with
    rto := rto, timer := some (d.drip.now + rto), retx := x.tx.retx + 1, timed := none, recover := none,
    ssthresh := d.lossThresh gen x, cubic := x.tx.lossCubic true,
    cwnd := if bits (d.profile gen x.id.profile 0) 1 0 = 2 then x.tx.cwnd else x.id.mss,
    segs := x.tx.segs.map (fun g => { g with sacked := false }) }

theorem Dev.backedOff_rto :
    (d.backedOff x).rto = d.clampRto (d.group 10).genLive x.id.profile (2 * x.tx.rto) := rfl
theorem Dev.backedOff_timer : (d.backedOff x).timer = some (d.drip.now + (d.backedOff x).rto) := rfl
theorem Dev.backedOff_retx : (d.backedOff x).retx = x.tx.retx + 1 := rfl
theorem Dev.backedOff_segs : (d.backedOff x).segs = x.tx.segs.map (fun g => { g with sacked := false }) := rfl

section
variable (hx : d.ses n = some x)
include hx

/-- A first segment that was sent, and that SACK does not cover, is the one sent again, as it was. -/
theorem Dev.resendFirst_head {g : TxSeg} (hg : x.tx.segs.head? = some g) (hf : g.frame ≠ []) (hs : g.sacked = false) :
    d.resendFirst n = d.pushRaw x.id.bay (some n) g.frame := by
  obtain ⟨l, hl⟩ := List.head?_eq_some_iff.mp hg
  simp [Dev.resendFirst, hx, hl, hf, hs]

section
variable {t : Nat} (ht : x.tx.timer = some t) (hd : t ≤ d.drip.now) (hc : x.state ≠ .closed)
include ht hd hc

theorem Dev.rtxTimeout_aborts (hr : bits (d.profile (d.group 10).genLive x.id.profile 2) 19 16 ≤ x.tx.retx) :
    d.rtxTimeout n = d.abortSes n d.sesGen false none := by
  simp [Dev.rtxTimeout, hx, ht, hc, hr, Nat.not_lt.mpr hd]

variable (hr : x.tx.retx < bits (d.profile (d.group 10).genLive x.id.profile 2) 19 16)
include hr

theorem Dev.rtxTimeout_flight (hf : ∃ g ∈ x.tx.segs, g.frame ≠ []) :
    d.rtxTimeout n = (d.setSes n (x.withTx (d.backedOff x))).resendFirst n := by
  simp [Dev.rtxTimeout, Session.withTx, Dev.backedOff, hx, ht, hc, hf, Nat.not_le.mpr hr, Nat.not_lt.mpr hd, b2n]

/-- The first segment was sent: the timeout forgets what SACK covered, so this is the one sent again. -/
theorem Dev.rtxTimeout_resends {g : TxSeg} (hg : x.tx.segs.head? = some g) (hf : g.frame ≠ []) :
    d.rtxTimeout n = (d.setSes n (x.withTx (d.backedOff x))).pushRaw x.id.bay (some n) g.frame := by
  have hhead : (x.withTx (d.backedOff x)).tx.segs.head? = some { g with sacked := false } := by
    simp [Dev.backedOff_segs, hg]
  rw [Dev.rtxTimeout_flight hx ht hd hc hr ⟨g, List.mem_of_head? hg, hf⟩,
    Dev.resendFirst_head Dev.ses_setSes hhead hf rfl, Session.withTx_id]

end

/-! ## The keepalive (R140) -/

theorem Dev.keepalive_due (hi : x.isInner = false) (hs : x.state ≠ .syn) (hc : x.state ≠ .closed)
    (h0 : bits (d.profile (d.group 10).genLive x.id.profile 2) 15 0 ≠ 0)
    (ht : Nat.max x.rx.heard x.rx.probed + bits (d.profile (d.group 10).genLive x.id.profile 2) 15 0 * 65536 ≤ d.drip.now) :
    d.keepalive n = if bits (d.profile (d.group 10).genLive x.id.profile 2) 19 16 ≤ x.rx.probes then
        d.abortSes n d.sesGen false none
      else (d.setSes n { x with rx := { x.rx with probed := d.drip.now, probes := x.rx.probes + 1 } }).pushSes n x x.probe := by
  have hidle : bits (d.profile (d.group 10).genLive x.id.profile 2) 15 0 * 65536 ≠ 0 := Nat.mul_ne_zero h0 (by decide)
  simp only [Dev.keepalive, hx]
  exact if_neg (by simp only [hidle, hi, hs, hc, Nat.not_lt.mpr ht, decide_false, Bool.or_false, Bool.false_eq_true,
    not_false_eq_true])

end

/-! ## The cache fill (R128) -/

/-- The packets that wait for a session's record, those of pipe 0 first. -/
def Dev.missedBy (d : Dev) (n : Nat) : List Pkt :=
  (d.missQ 0).filter (fun p => p.session = some n) ++ (d.missQ 1).filter (fun p => p.session = some n)

/-- The session's record is hot, and nothing waits for it. -/
def Dev.unqueued (d : Dev) (n : Nat) : Dev :=
  ((d.setMissQ 0 ((d.missQ 0).filter (fun p => !decide (p.session = some n)))).setMissQ 1
    ((d.missQ 1).filter (fun p => !decide (p.session = some n)))).touchSes n

/-- What the session stage answers for a segment: a packet that goes on with its action, or none. -/
def afterSegment : Option Pkt × Dev → Dev
  | (some q, d) => d.finishAction q
  | (none, d) => d

/-- One packet that waited is processed. -/
def Dev.fillPkt (n : Nat) (d : Dev) (p : Pkt) : Dev :=
  match d.readSeg p with
  | none => d.dropPkt p
  | some g => afterSegment (d.sesSegment n p g)

theorem Dev.fillPkt_segment {p : Pkt} {g : Seg} (hr : d.readSeg p = some g) :
    d.fillPkt n p = afterSegment (d.sesSegment n p g) := by
  simp only [Dev.fillPkt, hr]

/-- A fill with something to do: what waited is processed in order, the record hot. -/
theorem Dev.cacheFill_runs (hx : d.ses n = some x) (h : d.missedBy n ≠ [] ∨ n ∉ d.sess.hot) :
    d.cacheFill n = (d.missedBy n).foldl (Dev.fillPkt n) (d.unqueued n) := by
  refine if_neg ?_
  have hw : ¬ (d.missedBy n = [] ∧ n ∈ d.sess.hot) := fun ⟨he, hm⟩ => h.elim (· he) (· hm)
  simpa [hx, Dev.missedBy] using hw

theorem Dev.unqueued_hot (h : n ∉ d.sess.hot) : (d.unqueued n).sess.hot = (n :: d.sess.hot).take 98304 := by
  simp only [Dev.unqueued, Dev.touchSes, Dev.setMissQ, Dev.onSess_sess, List.erase_of_not_mem h]

/-! ## The obligation -/

/-- Settles O18: each event comes to its function, and each case of a timer has its lemma; the fills differ in the packets
that waited. -/
theorem sessionEvents : Obligations.SessionEvents := by
  unfold Obligations.SessionEvents
  intro s n x hx
  refine ⟨?ack, ?recycle, ?aborted, ?resent, ?keepalive, ?idle, ?one, ?two⟩
  case ack =>
    exact fun hp ht hq => exec_withDev_congr rfl ((Dev.delayedAck_due hx hp ht).trans (Dev.emitAck_waits hx _ hq))
  case recycle => exact fun hc ht => exec_withDev_congr rfl (Dev.recycle_due hx hc ht)
  case aborted => exact fun t ht hd hc hr => exec_withDev_congr rfl (Dev.rtxTimeout_aborts hx ht hd hc hr)
  case resent =>
    exact fun t g ht hd hc hr hg hf => ⟨x.withTx (s.dev.backedOff x),
      exec_withDev_congr rfl (Dev.rtxTimeout_resends hx ht hd hc hr hg hf), Dev.backedOff_rto, Dev.backedOff_retx,
      Dev.backedOff_timer, Session.withTx_state _, Session.withTx_rx _, Session.withTx_tls _⟩
  case keepalive => exact fun hi hs hc h0 ht => exec_withDev_congr rfl (Dev.keepalive_due hx hi hs hc h0 ht)
  case idle =>
    intro hcold h0 h1
    have hnone : s.dev.missedBy n = [] := List.append_eq_nil_iff.mpr ⟨h0, h1⟩
    have hfill : s.dev.cacheFill n = s.dev.unqueued n := by rw [Dev.cacheFill_runs hx (.inr hcold), hnone]; rfl
    exact ⟨exec_withDev_congr rfl hfill, Dev.unqueued_hot hcold, rfl, rfl, rfl⟩
  case one =>
    intro p g hw hr
    have hone : s.dev.missedBy n = [p] := hw
    have hfill : s.dev.cacheFill n = (s.dev.unqueued n).fillPkt n p := by
      rw [Dev.cacheFill_runs hx (.inl (by simp [hone])), hone]; rfl
    exact exec_withDev_congr rfl (hfill.trans (Dev.fillPkt_segment hr))
  case two =>
    intro p q g hw hr
    have htwo : s.dev.missedBy n = [p, q] := hw
    have hfill : s.dev.cacheFill n = ((s.dev.unqueued n).fillPkt n p).fillPkt n q := by
      rw [Dev.cacheFill_runs hx (.inl (by simp [htwo])), htwo]; rfl
    exact exec_withDev_congr rfl (hfill.trans (congrArg (Dev.fillPkt n · q) (Dev.fillPkt_segment hr)))

end Sys2Proof.Machine
end

section
/-! PROOF. The commands of FWDT_DMA_GO (R166): what becomes of one that an owner writes, whatever its operation. -/

namespace Sys2Proof.Machine

/-- What a command does that the host or the peer may give and whose range holds buckets: STAT is busy, and a WRITE asks for
its data (R166). -/
def Dev.fwdAccepted (d : Dev) (m op : Nat) : Dev :=
  let count := d.per m R.fwdtDmaCnt
  let addr := d.per m R.fwdtDmaAddrLo + 2 ^ 32 * d.per m R.fwdtDmaAddrHi
  let c : FwdCmd := ⟨op, bits (d.per m R.fwdtDmaCmd) 17 0, count, addr, d.drip.now, .accepted, 0, []⟩
  let e := d.setStat m R.fwdtDmaStat true 0
  if op = 1 then (e.setFwdCmd m (some { c with phase := .moving })).dmaRead m addr (128 * count) .fwdt
  else e.setFwdCmd m (some c)

/-- The range that a master's registers name is longer than a command may have, or passes the end of the table. -/
abbrev Dev.fwdRangeBad (d : Dev) (m : Nat) : Prop :=
  4096 < d.per m R.fwdtDmaCnt ∨ numBuckets < bits (d.per m R.fwdtDmaCmd) 17 0 + d.per m R.fwdtDmaCnt

/-- A command of the host or the peer, of an owner of FWDT in service, goes through the checks of R12 that remain. -/
theorem Dev.fwdGo_acts {d : Dev} {m op : Nat} (hm : m = 3 ∨ m = 4) (hs : d.serving = true) (hc : d.noPath m = false)
    (ho : d.owns m 7 = true) (hop : bits (d.per m R.fwdtDmaCmd) 19 18 = op) (hdma : op < 2 → d.dmaCode m = Code.ok) :
    d.fwdGo m op =
      if d.fwdRangeBad m then
        if bitOf (d.per m R.fwdtDmaStat) 0 then d.refuse m R.fwdtDmaGo Code.reserved else d.fwdEnd m Code.reserved
      else if bitOf (d.per m R.fwdtDmaStat) 0 then d.refuse m R.fwdtDmaGo Code.busyRetry
      else if d.per m R.fwdtDmaCnt = 0 then d.fwdEnd m Code.ok
      else d.fwdAccepted m op := by
  have hnot2 : m ≠ 2 := by omega
  have hpath : ¬ ((op < 2 ∧ ¬ d.per m R.fwdtDmaCnt = 0) ∧ ¬ d.dmaCode m = Code.ok) :=
    fun ⟨⟨hmoves, _⟩, hcode⟩ => hcode (hdma hmoves)
  rw [Dev.fwdGo, ho, Bool.not_true, Bool.and_false, if_neg Bool.false_ne_true,
    d.ownDoorbell_acts m _ _ _ 1 _ hc (d.blockOpen_of_serving hs _) ho (by decide)]
  simp only [hop, ne_eq, not_true_eq_false, if_false, Bool.and_eq_true, Bool.or_eq_true, decide_eq_true_eq, hpath, hnot2,
    and_false, false_and, ite_not, Dev.fwdRangeBad, Dev.fwdAccepted]
  cases bitOf (d.per m R.fwdtDmaStat) 0 <;> simp only [Bool.false_eq_true, if_true, if_false]

/-- Each row is a command of its operation. -/
theorem exec_fwdRow : ∀ row ∈ fwdRows, ∀ m s, exec (row.1 m) s = .next (s.withDev (s.dev.fwdGo m row.2)) := by
  simp only [fwdRows, List.forall_mem_cons, List.not_mem_nil, false_implies, implies_true, and_true]
  refine ⟨?_, ?_, ?_, ?_⟩ <;> exact fun _ _ => rfl

/-- Settles O22: whatever the operation, `Dev.fwdGo_acts` has one branch for each of the four outcomes. -/
theorem forwardingCommands : Obligations.ForwardingCommands := by
  unfold Obligations.ForwardingCommands
  intro row hrow s m hm hs hc ho hop first count addr hdma
  have hgo := exec_withDev_congr (exec_fwdRow row hrow m s) (Dev.fwdGo_acts hm hs hc ho hop hdma)
  have hlegal (h1 : count ≤ 4096) (h2 : first + count ≤ numBuckets) : ¬ s.dev.fwdRangeBad m :=
    not_or.mpr ⟨Nat.not_lt.mpr h1, Nat.not_lt.mpr h2⟩
  refine ⟨fun hbusy h1 h2 => ?busy, fun hidle hbad => ?illegal, fun hidle h1 h2 h0 => ?empty,
    fun hidle h1 h2 h0 => ?accepted⟩
  case busy => rwa [if_neg (hlegal h1 h2), if_pos hbusy] at hgo
  case illegal => rwa [if_pos hbad, if_neg (Bool.eq_false_iff.mp hidle)] at hgo
  case empty => rwa [if_neg (hlegal h1 h2), if_neg (Bool.eq_false_iff.mp hidle), if_pos h0] at hgo
  case accepted => rwa [if_neg (hlegal h1 h2), if_neg (Bool.eq_false_iff.mp hidle), if_neg h0] at hgo

end Sys2Proof.Machine
end

section
/-! PROOF. What the forwarding commands do to the table and the locks (R166, R167), the start of a sweep (R164) and the report
of a lock held too long (R168). -/

namespace Sys2Proof.Machine

variable {d : Dev} {m : Nat} {c : FwdCmd}

/-! ## Buckets and slots -/

theorem mem_bucketRange {first count b : Nat} : b ∈ bucketRange first count ↔ first ≤ b ∧ b < first + count := by
  simp only [bucketRange, List.mem_map, List.mem_range]
  exact ⟨fun ⟨i, hi, he⟩ => by omega, fun ⟨h1, h2⟩ => ⟨b - first, by omega, by omega⟩⟩

@[simp] theorem Dev.fslot_setFslot_same (i : Nat) (e : BitVec 256) : (d.setFslot i e).fslot i = e := by
  simp [Dev.fslot, Dev.setFslot]

theorem Dev.fslot_setFslot_ne {i j : Nat} (e : BitVec 256) (h : j ≠ i) : (d.setFslot i e).fslot j = d.fslot j :=
  spGet_spSet_ne _ _ _ _ _ h

/-- The slots of bucket `b` take the values of 128 bytes. -/
def Dev.putBucket (d : Dev) (b : Nat) (bs : Bytes) : Dev :=
  (List.range 4).foldl (fun d i => d.setFslot (4 * b + i) (BitVec.ofNat 256 (leAt bs (32 * i) 32))) d

theorem Dev.fslot_putBucket_same (b : Nat) (bs : Bytes) {i : Nat} (hi : i < 4) :
    (d.putBucket b bs).fslot (4 * b + i) = BitVec.ofNat 256 (leAt bs (32 * i) 32) :=
  foldl_sets_at (Dev.fslot · (4 * b + i)) _ _ _ (List.mem_range.mpr hi) (fun _ => Dev.fslot_setFslot_same _ _)
    (fun _ _ hne _ => Dev.fslot_setFslot_ne _ (by omega))

theorem Dev.fslot_putBucket_ne (b : Nat) (bs : Bytes) {j : Nat} (hj : j < 4 * b ∨ 4 * b + 4 ≤ j) :
    (d.putBucket b bs).fslot j = d.fslot j :=
  foldl_leaves (Dev.fslot · j) _ _ _ fun _ hi _ => Dev.fslot_setFslot_ne _ (by have := List.mem_range.mp hi; omega)

@[simp] theorem Dev.locks_putBucket (b : Nat) (bs : Bytes) : (d.putBucket b bs).fwd.locks = d.fwd.locks :=
  foldl_leaves (fun e : Dev => e.fwd.locks) _ _ _ fun _ _ _ => rfl

/-! ## The end of a command -/

@[simp] theorem Dev.fslot_fwdEnd (code i : Nat) : (d.fwdEnd m code).fslot i = d.fslot i := rfl
@[simp] theorem Dev.locks_fwdEnd (code : Nat) : (d.fwdEnd m code).fwd.locks = d.fwd.locks := rfl

@[simp] theorem Dev.cmd_fwdEnd (code : Nat) : spFind (d.fwdEnd m code).fwd.cmds m = none := spFind_spErase_same _ _

@[simp] theorem Dev.stat_fwdEnd_ok : (d.fwdEnd m Code.ok).per m R.fwdtDmaStat = 0 := Dev.per_setPer_same _ _ _ _

/-! ## READ -/

/-- A write into a master's memory is sent in the present drip. -/
theorem Dev.drip_dmaWrite (addr : Nat) (bs : Bytes) : (d.dmaWrite m addr bs).drip = d.drip := by
  unfold Dev.dmaWrite
  split
  · rfl
  · split <;> rfl

/-- The bytes of a READ land at the address of the host or the peer (R166). -/
theorem exec_fwdtReadDone_moving {s : State} (hc : spFind s.dev.fwd.cmds m = some c) (hop : c.op = 0)
    (hp : c.phase = .moving) (hm : m = 3 ∨ m = 4) (hdma : s.dev.dmaCode m = Code.ok) :
    exec (.fwdtReadDone m) s = .next (s.withDev ((s.dev.dmaWrite m c.addr c.data).setFwdCmd m
      (some { c with phase := .moved, drip := s.dev.drip.now, code := Code.ok }))) := by
  have hnot2 : m ≠ 2 := by omega
  change execFwdtReadDone m s = _
  simp [execFwdtReadDone, hc, hop, hp, hnot2, hdma, Dev.drip_dmaWrite]

/-! ## WRITE -/

/-- The buckets of a WRITE take its data. -/
def Dev.putBuckets (d : Dev) (c : FwdCmd) : Dev :=
  ((List.range c.count).zip (writeBuckets c.data c.count)).foldl (fun d p => d.putBucket (c.first + p.1) p.2) d

theorem Dev.putBuckets_one (h : c.count = 1) : d.putBuckets c = d.putBucket c.first (slice c.data 0 128) := by
  rw [Dev.putBuckets, h]
  rfl

/-- A WRITE whose last byte arrived in an earlier drip: its slots are checked, then its locks (R167). -/
theorem exec_fwdtWriteApply_moved {s : State} (hc : spFind s.dev.fwd.cmds m = some c) (hop : c.op = 1)
    (hp : c.phase = .moved) (hd : c.drip < s.dev.drip.now) :
    exec (.fwdtWriteApply m) s = .next (s.withDev
      (if (writeBuckets c.data c.count).all bucketOk = false then s.dev.fwdEnd m Code.reserved
       else if (bucketRange c.first c.count).all (s.dev.holdsBucket m) = false then s.dev.fwdEnd m Code.notHolder
       else (s.dev.putBuckets c).fwdEnd m Code.ok)) := by
  change execFwdtWriteApply m s = _
  simp only [execFwdtWriteApply, hc, hop, hp, hd, State.run_eq, decide_true, Bool.and_self, if_true, Bool.not_eq_true']
  rfl

/-! ## LOCK -/

theorem spFind_foldl_spPut {bs : List Nat} {b : Nat} (hb : b ∈ bs) (l : Map Nat) :
    spFind (bs.foldl (fun l b => spPut l b m) l) b = some m :=
  foldl_sets_at (spFind · b) _ _ _ hb (fun _ => spFind_spPut_same _ _ _) (fun _ _ hne _ => spFind_spPut_ne _ _ _ _ hne.symm)

/-- A LOCK of buckets that no other master holds takes them all (R167). -/
theorem Dev.holdsBucket_lockAt
    (h : ∀ b ∈ bucketRange c.first c.count, spFind d.fwd.locks b = none ∨ spFind d.fwd.locks b = some m)
    {b : Nat} (hb : b ∈ bucketRange c.first c.count) : (d.lockAt m c).holdsBucket m b = true := by
  rw [Dev.lockAt, if_pos (List.isEmpty_iff.mpr (List.filterMap_eq_nil_iff.mpr fun b hb => ?free))]
  case free => rcases h b hb with hl | hl <;> simp [hl]
  exact decide_eq_true (spFind_foldl_spPut hb _)

/-- A LOCK of a bucket that another master holds takes none (R167). -/
theorem Dev.locks_lockAt_refused {b h : Nat} (hb : b ∈ bucketRange c.first c.count) (hl : spFind d.fwd.locks b = some h)
    (hne : h ≠ m) : (d.lockAt m c).fwd.locks = d.fwd.locks := by
  rw [Dev.lockAt, if_neg (mt List.isEmpty_iff.mp (List.ne_nil_of_mem (a := h) (List.mem_filterMap.mpr ⟨b, hb, ?held⟩)))]
  case held => simp [hl, hne]
  split <;> rfl

theorem Dev.fwdCommand_lock (hc : spFind d.fwd.cmds m = some c) (hop : c.op = 2) (hd : d.drip.now > c.drip) :
    d.fwdCommand m = d.lockAt m c := by
  simp only [Dev.fwdCommand, hc, hop, Nat.not_le.mpr hd, if_false]

/-! ## Sweeps and locks held too long -/

theorem Dev.sweepStart_due (hs : d.serving = true) (hp : d.live R.fwdtSweep ≠ 0) (h0 : d.drip.now ≠ 0)
    (hk : d.drip.now % d.live R.fwdtSweep = 0) (hnew : d.drip.now ∉ d.fwd.sweeps) :
    d.sweepStart = d.onFwd (fun f => { f with sweeps := f.sweeps ++ [d.drip.now] }) :=
  if_pos (by simp [hs, hp, h0, hk, hnew])

/-- A LOCK still holds bucket `b` 64 drips on, and no report of it was made (R168). -/
def Dev.lockDue (d : Dev) (b : Nat) (r : LockRec) : Bool :=
  !r.reported && decide (r.since + 64 ≤ d.drip.now) && r.held.contains b

/-- The report of a LOCK: its record says so, and one incident record names its holder and range (R168). -/
def Dev.reportLock (d : Dev) (r : LockRec) : Dev :=
  (d.onFwd (fun f => { f with
    lockRecs := f.lockRecs.map (fun x => if x = r then { x with reported := true } else x) })).incident 7 Code.timeout
    (actorMaster r.holder) r.first r.count

/-- What LOCK_HOLD_REPORT of bucket `b` does: the first LOCK that is due is reported. -/
def Dev.lockHoldReport (d : Dev) (b : Nat) : Dev :=
  match d.fwd.lockRecs.find? (d.lockDue b) with
  | some r => d.reportLock r
  | none => d

theorem exec_lockHoldReport (b : Nat) (s : State) :
    exec (.lockHoldReport b) s = .next (s.withDev (s.dev.lockHoldReport b)) := rfl

theorem Dev.lockHoldReport_due {b : Nat} {r : LockRec} (h : d.fwd.lockRecs.find? (d.lockDue b) = some r) :
    d.lockHoldReport b = d.reportLock r := by
  rw [Dev.lockHoldReport, h]

theorem Dev.lockHoldReport_none {b : Nat} (h : ∀ x ∈ d.fwd.lockRecs, d.lockDue b x = false) : d.lockHoldReport b = d := by
  rw [Dev.lockHoldReport, List.find?_eq_none.mpr fun x hx => Bool.eq_false_iff.mp (h x hx)]

/-- The report of a LOCK that is listed once changes its record alone. -/
theorem Dev.reportLock_listed {pre post : List LockRec} {r : LockRec} (hl : d.fwd.lockRecs = pre ++ r :: post)
    (hpre : r ∉ pre) (hpost : r ∉ post) :
    d.reportLock r = (d.onFwd (fun f => { f with lockRecs := pre ++ { r with reported := true } :: post })).incident 7
      Code.timeout (actorMaster r.holder) r.first r.count := by
  have hother (l : List LockRec) (h : r ∉ l) : l.map (fun x => if x = r then { x with reported := true } else x) = l :=
    (List.map_congr_left fun x hx => if_neg (ne_of_mem_of_not_mem hx h)).trans (List.map_id' l)
  simp only [Dev.reportLock, Dev.onFwd, hl, List.map_append, List.map_cons, if_true, hother pre hpre, hother post hpost]

/-! ## The obligation -/

/-- Settles O23: a command in progress comes to the lemma of its operation, a WRITE of one bucket to that bucket's slots. -/
theorem forwardingTables : Obligations.ForwardingTables := by
  unfold Obligations.ForwardingTables
  refine ⟨fun s m c hc => ⟨fun hop hp hm hdma => ?read, fun hop hp hd => ?write, fun hop hd => ?lock⟩,
    fun s hs hp h0 hk hnew => exec_withDev_congr rfl (Dev.sweepStart_due hs hp h0 hk hnew),
    fun s b pre post r => ⟨fun hl hdue hpre hpost => ?report, fun hnone => ?quiet⟩⟩
  case read => exact exec_fwdtReadDone_moving hc hop hp hm hdma
  case write =>
    have hexec := exec_fwdtWriteApply_moved hc hop hp hd
    refine ⟨fun hbad => ?reserved, fun hok hfree => ?notHolder, fun hone hheld hok => ?applied⟩
    case reserved => rwa [if_pos hbad] at hexec
    case notHolder => rwa [if_neg (Bool.not_eq_false _ ▸ hok), if_pos hfree] at hexec
    case applied =>
      rw [if_neg (by simpa [writeBuckets, hone] using hok), if_neg (by simpa [bucketRange, hone] using hheld),
        Dev.putBuckets_one hone] at hexec
      exact ⟨_, hexec, fun i hi => (Dev.fslot_fwdEnd _ _).trans (Dev.fslot_putBucket_same _ _ hi),
        fun j hj => (Dev.fslot_fwdEnd _ _).trans (Dev.fslot_putBucket_ne _ _ hj), Dev.cmd_fwdEnd _, Dev.stat_fwdEnd_ok,
        (Dev.locks_fwdEnd _).trans (Dev.locks_putBucket _ _)⟩
  case lock =>
    rw [Dev.fwdCommand_lock hc hop hd]
    exact ⟨fun hfree b h1 h2 => Dev.holdsBucket_lockAt
        (fun b hb => hfree b (mem_bucketRange.mp hb).1 (mem_bucketRange.mp hb).2) (mem_bucketRange.mpr ⟨h1, h2⟩),
      fun ⟨b, h, h1, h2, hl, hne⟩ => Dev.locks_lockAt_refused (mem_bucketRange.mpr ⟨h1, h2⟩) hl hne⟩
  case report =>
    have hfirst : s.dev.fwd.lockRecs.find? (s.dev.lockDue b) = some r :=
      List.find?_eq_some_iff_append.mpr ⟨hdue, pre, post, hl, fun x hx => Bool.not_eq_true' _ ▸ (hpre x hx).1⟩
    exact exec_withDev_congr (exec_lockHoldReport b s) ((Dev.lockHoldReport_due hfirst).trans
      (Dev.reportLock_listed hl (fun hr => (hpre r hr).2 rfl) hpost))
  case quiet => exact exec_withDev_congr (exec_lockHoldReport b s) (Dev.lockHoldReport_none hnone)

end Sys2Proof.Machine
end

section
/-! PROOF. The frame of groups 0x00 to 0x6F (R207, R209, R213): what the rows run, what the issue of an instruction and the writes
of its results leave, and which bytes a write reaches. -/

namespace Sys2Proof.Machine

variable {d e f : Dev} {id : Tid} {i : Dec} {evs : List Ev1} {b : Map Word}

/-! ## The rows -/

/-- Every row but MOV is an issue of its opcode with its computation. -/
theorem exec_aluRow_tail : ∀ row ∈ aluRows.tail, ∀ id s,
    exec (row.1 id) s = .next (s.withDev (s.dev.issueAlu id row.2.1 row.2.2)) := by
  simp only [aluRows, List.tail_cons, List.forall_mem_cons, List.not_mem_nil, false_implies, implies_true, and_true]
  and_intros <;> exact fun _ _ => rfl

/-- An instruction of groups 0x00 to 0x6F that is no MOV of a Latch evaluates its operands and applies its computation. -/
theorem exec_aluRow {row : (Tid → Instr) × Nat × Alu} (hrow : row ∈ aluRows) {s : State} (h : s.dev.issues id i)
    (hop : i.op = row.2.1) (hmov : i.op = 1 → latchMov i = false) :
    exec (row.1 id) s = .next (s.withDev
      (s.dev.perform id i [] 0 i.op (aluSem row.2.2) (fun d => d.advance id i.len))) := by
  rcases List.mem_cons.mp hrow with rfl | hrow
  · refine exec_withDev_congr (d := s.dev.issueWith id 0x01 _) rfl ?_
    rw [Dev.issueWith_runs h _ _ hop, hmov hop]
    rfl
  · refine exec_withDev_congr (exec_aluRow_tail row hrow id s) ?_
    rw [Dev.issueAlu, Dev.issue, Dev.issueWith_runs h _ _ hop]

/-- Its results are written, FLAGS follow, and the thread goes on past it (R209, R213). -/
theorem exec_aluRow_completes {row : (Tid → Instr) × Nat × Alu} (hrow : row ∈ aluRows) {s : State} {out : AluOut}
    (h : s.dev.issuesOn id i e evs b) (hop : i.op = row.2.1) (hmov : i.op = 1 → latchMov i = false)
    (hout : row.2.2 i.width (e.thr id).flags (evVals i evs) = some out) :
    exec (row.1 id) s = .next (s.withDev
      ((((e.setBases id b).putAll id i evs out.writes).updThr id (fun t => { t with flags := out.flags })).advance id i.len)) := by
  refine exec_withDev_congr (exec_aluRow hrow h.1 hop hmov) (Dev.perform_runs h _ _ _ _ _ ?_)
  simp [aluSem, Dev.setBases, hout]

/-! ## The issue of an instruction -/

/-- `e` is `d` after free values were drawn, clocks have moved on, and the stillness of galleries was noted. -/
def Dev.Passes (d e : Dev) : Prop := ∃ free cycle time hold rest gals, e = { d with
  free := free
  drip := { d.drip with cycle := cycle }
  strong := { d.strong with time := time, hold := hold, corrRest := rest }
  cores := { d.cores with gals := gals } }

theorem Dev.Passes.refl (d : Dev) : d.Passes d := ⟨_, _, _, _, _, _, rfl⟩

theorem Dev.Passes.trans (h : d.Passes e) (h' : e.Passes f) : d.Passes f := by
  obtain ⟨_, _, _, _, _, _, rfl⟩ := h
  obtain ⟨_, _, _, _, _, _, rfl⟩ := h'
  exact ⟨_, _, _, _, _, _, rfl⟩

theorem Dev.Passes.ite {c : Prop} [Decidable c] (h : d.Passes e) (h' : d.Passes f) : d.Passes (if c then e else f) := by
  split
  · exact h
  · exact h'

theorem Dev.passes_freeStep (d : Dev) : d.Passes d.freeStep := ⟨_, _, _, _, _, _, rfl⟩

theorem Dev.passes_cyclePass (d : Dev) : d.Passes d.cyclePass := ⟨_, _, _, _, _, _, rfl⟩

theorem Dev.passes_unstill (d : Dev) (id : Tid) : d.Passes (d.unstill id) := by
  unfold Dev.unstill
  split
  · exact .refl d
  · exact ⟨_, _, _, _, _, _, rfl⟩

theorem Dev.passes_strongPass (d : Dev) : d.Passes d.strongPass := by
  refine .ite ?_ (.refl d)
  simp only [Dev.onStrong, Strong.pass]
  split <;> exact ⟨_, _, _, _, _, _, rfl⟩

theorem Dev.passes_clockPass (d : Dev) (op : Nat) (l : List (Role × Opnd)) : d.Passes (d.clockPass op l) :=
  .trans (.ite d.passes_cyclePass (.refl d)) (.ite (Dev.passes_strongPass _) (.refl _))

theorem Dev.passes_issuesOn (h : d.issuesOn id i e evs b) : d.Passes e := by
  obtain ⟨-, rfl, -⟩ := h
  exact ((d.passes_unstill id).trans (Dev.passes_clockPass _ _ _)).trans (.ite (Dev.passes_freeStep _) (.refl _))

/-! ## What a write of bytes touches -/

/-- A write of local memory changes the thread's shelf and common memory only. -/
theorem Dev.setLocalBytes_touches (id : Tid) (bs : Bytes) : ∀ (d : Dev) (a : Nat), ∃ threads common,
    d.setLocalBytes id a bs = d.onCores (fun c => { c with threads := threads, common := common }) := by
  induction bs with
  | nil => exact fun d _ => ⟨d.cores.threads, d.cores.common, rfl⟩
  | cons b bs ih =>
    intro d a
    obtain ⟨threads, common, h⟩ := ih (d.setLocalByte id a b) (a + 1)
    refine ⟨threads, common, ?_⟩
    rw [Dev.setLocalBytes, h, Dev.setLocalByte]
    split <;> rfl

/-- A write of cells changes their bytes only. -/
theorem Lard.writeData_touches (cells : List Nat) (bs : Bytes) : ∀ (l : Lard) (off : Nat), ∃ bytes,
    l.writeData cells off bs = { l with bytes := bytes } := by
  induction bs with
  | nil => exact fun l _ => ⟨l.bytes, rfl⟩
  | cons b bs ih =>
    intro l off
    unfold Lard.writeData
    split
    · obtain ⟨bytes, h⟩ := ih { l with bytes := spPut l.bytes (128 * cells.getD (off / 128) 0 + off % 128) b } (off + 1)
      exact ⟨bytes, h⟩
    · exact ⟨l.bytes, rfl⟩

/-- The device but for table SRAM, DRAM and the poison of their lines. -/
def Dev.offTables (d : Dev) : Dev :=
  { d with cores := { d.cores with sram := [], sramPoison := [] }, dmem := ⟨[], []⟩ }

theorem Dev.offTables_setMemBytes (dram : Bool) (bs : Bytes) : ∀ (d : Dev) (a : Nat),
    (d.setMemBytes dram a bs).offTables = d.offTables := by
  induction bs with
  | nil => exact fun _ _ => rfl
  | cons b bs ih =>
    intro d a
    rw [Dev.setMemBytes, ih, Dev.setMemByte]
    split
    · split <;> rfl
    · rfl

theorem Dev.offTables_clearPoison (dram : Bool) (a n : Nat) : (d.clearPoison dram a n).offTables = d.offTables := by
  refine foldl_leaves Dev.offTables _ _ _ fun l _ e => ?_
  split
  · split <;> rfl
  · rfl

/-- A write of a table entry changes table SRAM, DRAM and the poison of their lines only. -/
theorem Dev.offTables_setEntBytes (gen t idx off : Nat) (bs : Bytes) :
    (d.setEntBytes gen t idx off bs).offTables = d.offTables := by
  simp only [Dev.setEntBytes, Dev.masterMem]
  split
  · rfl
  · rw [Dev.writeMem, Dev.offTables_clearPoison, Dev.offTables_setMemBytes]

/-- A write of a table entry leaves what is read beside the tables. -/
theorem Dev.setEntBytes_leaves {α : Type} (read : Dev → α) (h : ∀ d : Dev, read d.offTables = read d) (gen t idx off : Nat)
    (bs : Bytes) : read (d.setEntBytes gen t idx off bs) = read d := by
  rw [← h, Dev.offTables_setEntBytes, h]

/-- A write to an operand is one of bytes of its place: nothing, local memory, cells, or a table entry. -/
theorem Dev.writeLoc_cases {motive : Dev → Prop} (gen n v : Nat) (l : Loc) (nothing : motive d)
    (shelf : ∀ a, l = .mem a → motive (d.setLocalBytes id a (leBytes n v)))
    (cells : ∀ h len off cs, l = .window h len off → d.windowCells id h len off n = .ok cs →
      motive (d.onLard (fun x => x.writeData cs (off % 128) (beBytes n v))))
    (entry : ∀ t idx off, l = .table t idx off → motive (d.setEntBytes gen t idx off (leBytes n v))) :
    motive (d.writeLoc id gen n v l) := by
  cases l with
  | imm x => exact nothing
  | clock x => exact nothing
  | mem a => exact shelf a rfl
  | window h len off =>
    simp only [Dev.writeLoc]
    split
    · exact nothing
    · exact cells _ _ _ _ rfl ‹_›
  | table t idx off => exact entry t idx off rfl

/-! ## What no instruction of these groups changes -/

/-- The device without what an instruction of groups 0x00 to 0x6F may change: the free values used, the clocks, the threads,
common memory, the galleries' stillness, and the bytes and line poison of cells, table SRAM and DRAM. -/
def Dev.aluFixed (d : Dev) : Dev :=
  { d with
    free := 0
    drip := { d.drip with cycle := 0 }
    strong := { d.strong with time := 0, hold := 0, corrRest := 0 }
    cores := { d.cores with threads := [], common := [], gals := [], sram := [], sramPoison := [] }
    dmem := ⟨[], []⟩
    lard := { d.lard with bytes := [] } }

theorem Dev.aluFixed_writeLoc (gen n v : Nat) (l : Loc) : (d.writeLoc id gen n v l).aluFixed = d.aluFixed := by
  refine Dev.writeLoc_cases (motive := (Dev.aluFixed · = _)) gen n v l rfl (fun a _ => ?shelf) (fun _ _ off cs _ _ => ?cells)
    (fun t idx off _ => ?entry)
  case shelf => obtain ⟨_, _, h⟩ := Dev.setLocalBytes_touches id (leBytes n v) d a; rw [h]; rfl
  case cells => obtain ⟨_, h⟩ := Lard.writeData_touches cs (beBytes n v) d.lard (off % 128); rw [Dev.onLard, h]; rfl
  case entry => exact Dev.setEntBytes_leaves Dev.aluFixed (fun _ => rfl) ..

/-! ## Which bytes a write of bytes changes -/

@[simp] theorem length_leBytes (n v : Nat) : (leBytes n v).length = n := by
  induction n generalizing v with
  | zero => rfl
  | succ n ih => rw [leBytes, List.length_cons, ih]

@[simp] theorem length_beBytes (n v : Nat) : (beBytes n v).length = n := by
  rw [beBytes, List.length_reverse, length_leBytes]

theorem commonKey_inj {a x : Nat} (hx : 0x10000 ≤ x) (ha : 0x10000 ≤ a) (h : commonKey id x = commonKey id a) : x = a := by
  unfold commonKey at h
  omega

theorem Dev.thr_setLocalByte (d : Dev) (id : Tid) (a : Nat) (v : Byte) : ∃ mem,
    (d.setLocalByte id a v).thr id = { d.thr id with mem := mem } := by
  unfold Dev.setLocalByte
  split
  · exact ⟨_, Dev.thr_updThr_same _ _ _⟩
  · exact ⟨_, rfl⟩

/-- A write of local memory leaves of its thread all but the shelf. -/
theorem Dev.thr_setLocalBytes (id : Tid) (bs : Bytes) : ∀ (d : Dev) (a : Nat), ∃ mem,
    (d.setLocalBytes id a bs).thr id = { d.thr id with mem := mem } := by
  induction bs with
  | nil => exact fun d _ => ⟨(d.thr id).mem, rfl⟩
  | cons b bs ih =>
    intro d a
    obtain ⟨mem, h⟩ := ih (d.setLocalByte id a b) (a + 1)
    obtain ⟨_, hb⟩ := d.thr_setLocalByte id a b
    exact ⟨mem, h.trans (by rw [hb])⟩

/-- What no write of a byte from `a` on changes, no write of bytes does. -/
theorem Dev.setLocalBytes_leaves {α : Type} (read : Dev → α) (id : Tid) (bs : Bytes) : ∀ (d : Dev) (a : Nat),
    (∀ x, a ≤ x → x < a + bs.length → ∀ (d : Dev) v, read (d.setLocalByte id x v) = read d) →
    read (d.setLocalBytes id a bs) = read d := by
  induction bs with
  | nil => exact fun _ _ _ => rfl
  | cons b bs ih =>
    intro d a h
    rw [List.length_cons] at h
    rw [Dev.setLocalBytes, ih _ _ fun x h1 h2 => h x (by omega) (by omega), h a (by omega) (by omega)]

theorem Dev.thr_setLocalByte_other {j : Tid} (h : tidKey j ≠ tidKey id) (a : Nat) (v : Byte) :
    (d.setLocalByte id a v).thr j = d.thr j := by
  unfold Dev.setLocalByte
  split
  · exact Dev.thr_setThr_ne _ _ _ _ h
  · rfl

theorem Dev.common_setLocalByte_other {a k : Nat} (v : Byte) (h : 0x10000 ≤ a → commonKey id a ≠ k) :
    spGet 0 (d.setLocalByte id a v).cores.common k = spGet 0 d.cores.common k := by
  unfold Dev.setLocalByte
  split
  · rfl
  · exact spGet_spSet_ne _ _ _ _ _ (h (by omega)).symm

/-- A write of a byte of local memory leaves every other byte of it. -/
theorem Dev.localByte_setLocalByte_other {a x : Nat} (v : Byte) (h : x ≠ a) :
    (d.setLocalByte id a v).localByte id x = d.localByte id x := by
  by_cases ha : a < 0x10000
  · exact Dev.localByte_setLocalByte_ne d id a x v h ha
  · unfold Dev.localByte
    split
    · rw [Dev.setLocalByte, if_neg ha]
      rfl
    · exact Dev.common_setLocalByte_other v fun ha hk => h (commonKey_inj (by omega) ha hk.symm)

theorem Lard.byteAt_writeData_other {cells : List Nat} {x : Nat} (bs : Bytes) : ∀ (l : Lard) (off : Nat),
    (∀ j < bs.length, x ≠ 128 * cells.getD ((off + j) / 128) 0 + (off + j) % 128) →
    (l.writeData cells off bs).byteAt x = l.byteAt x := by
  induction bs with
  | nil => exact fun _ _ _ => rfl
  | cons b bs ih =>
    intro l off h
    have hrest : ∀ j < bs.length, x ≠ 128 * cells.getD ((off + 1 + j) / 128) 0 + (off + 1 + j) % 128 := fun j hj => by
      rw [Nat.add_assoc, Nat.add_comm 1 j]
      exact h (j + 1) (Nat.succ_lt_succ hj)
    unfold Lard.writeData
    split
    · rw [ih _ _ hrest]
      have hfirst : x ≠ 128 * cells.getD (off / 128) 0 + off % 128 := h 0 (Nat.succ_pos _)
      simp only [Lard.byteAt, spFind_spPut_ne _ _ _ _ hfirst]
    · rfl

/-- A write of a block of memory leaves every byte outside it. -/
theorem Dev.memByte_setMemBytes_other {dram k : Bool} {x : Nat} (bs : Bytes) : ∀ (d : Dev) (a : Nat),
    (dram = k → a ≤ x → ¬ x < a + bs.length) → (d.setMemBytes dram a bs).memByte k x = d.memByte k x := by
  induction bs with
  | nil => exact fun _ _ _ => rfl
  | cons b bs ih =>
    intro d a h
    rw [List.length_cons] at h
    rw [Dev.setMemBytes, ih _ _ fun hk hx => by have := h hk; omega, Dev.memByte_setMemByte_ne]
    by_cases hk : dram = k
    · exact .inl (by have := h hk; omega)
    · exact .inr (Ne.symm hk)

theorem Dev.memByte_clearPoison (dram k : Bool) (a n x : Nat) : (d.clearPoison dram a n).memByte k x = d.memByte k x := by
  refine foldl_leaves (Dev.memByte · k x) _ _ _ fun l _ e => ?_
  split
  · split <;> rfl
  · rfl

/-! ## The bytes a result is not stored to -/

section
variable {n : Nat} (v : Nat) {l : Loc}

/-- A write to an operand leaves every other thread. -/
theorem Dev.thr_writeLoc_other {j : Tid} (h : tidKey j ≠ tidKey id) (gen n : Nat) (l : Loc) :
    (d.writeLoc id gen n v l).thr j = d.thr j := by
  refine Dev.writeLoc_cases (motive := (Dev.thr · j = _)) gen n v l rfl (fun a _ => ?shelf) (fun _ _ _ _ _ _ => rfl)
    (fun t idx off _ => ?entry)
  case shelf => exact Dev.setLocalBytes_leaves (Dev.thr · j) id _ d a fun x _ _ _ => Dev.thr_setLocalByte_other h x
  case entry => exact Dev.setEntBytes_leaves (Dev.thr · j) (fun _ => rfl) ..

/-- A write to an operand leaves of its thread all but the shelf. -/
theorem Dev.thr_writeLoc (d : Dev) (id : Tid) (gen n : Nat) (l : Loc) : ∃ mem,
    (d.writeLoc id gen n v l).thr id = { d.thr id with mem := mem } := by
  exact Dev.writeLoc_cases (motive := fun e => ∃ mem, e.thr id = { d.thr id with mem := mem }) gen n v l ⟨_, rfl⟩
    (fun a _ => Dev.thr_setLocalBytes id _ d a) (fun _ _ _ _ _ _ => ⟨_, rfl⟩)
    (fun t idx off _ => ⟨(d.thr id).mem, Dev.setEntBytes_leaves (Dev.thr · id) (fun _ => rfl) ..⟩)

theorem Dev.localByte_writeLoc_unstored {a : Nat} (h : d.stores id n l (.loc a) = false) (gen : Nat) :
    (d.writeLoc id gen n v l).localByte id a = d.localByte id a := by
  refine Dev.writeLoc_cases (motive := (Dev.localByte · id a = _)) gen n v l rfl (fun x hl => ?shelf) (fun _ _ _ _ _ _ => rfl)
    (fun t idx off _ => ?entry)
  case shelf =>
    simp only [hl, Dev.stores, Bool.and_eq_false_iff, decide_eq_false_iff_not] at h
    refine Dev.setLocalBytes_leaves (Dev.localByte · id a) id _ d x fun y h1 h2 _ w => Dev.localByte_setLocalByte_other w ?_
    rw [length_leBytes] at h2
    omega
  case entry => exact Dev.setEntBytes_leaves (Dev.localByte · id a) (fun _ => rfl) ..

theorem Dev.common_writeLoc_unstored {k : Nat} (h : ∀ a, 0x10000 ≤ a → commonKey id a = k → d.stores id n l (.loc a) = false)
    (gen : Nat) : spGet 0 (d.writeLoc id gen n v l).cores.common k = spGet 0 d.cores.common k := by
  refine Dev.writeLoc_cases (motive := fun e => spGet 0 e.cores.common k = _) gen n v l rfl (fun x hl => ?shelf)
    (fun _ _ _ _ _ _ => rfl) (fun t idx off _ => ?entry)
  case shelf =>
    refine Dev.setLocalBytes_leaves (fun e => spGet 0 e.cores.common k) id _ d x fun y h1 h2 _ w =>
      Dev.common_setLocalByte_other w fun hy hk => ?_
    have hunstored := h y hy hk
    simp only [hl, Dev.stores, Bool.and_eq_false_iff, decide_eq_false_iff_not] at hunstored
    rw [length_leBytes] at h2
    omega
  case entry => exact Dev.setEntBytes_leaves (fun e => spGet 0 e.cores.common k) (fun _ => rfl) ..

theorem Dev.byteAt_writeLoc_unstored {a : Nat} (h : d.stores id n l (.cell a) = false) (gen : Nat) :
    (d.writeLoc id gen n v l).lard.byteAt a = d.lard.byteAt a := by
  refine Dev.writeLoc_cases (motive := fun e => e.lard.byteAt a = _) gen n v l rfl (fun x _ => ?shelf)
    (fun _ _ off cs hl hcs => ?cells) (fun t idx off _ => ?entry)
  case shelf => obtain ⟨_, _, hw⟩ := Dev.setLocalBytes_touches id (leBytes n v) d x; rw [hw]; rfl
  case cells =>
    simp only [hl, Dev.stores, hcs, List.any_eq_false, List.mem_range, decide_eq_true_eq] at h
    exact Lard.byteAt_writeData_other _ d.lard _ fun j hj => h j (length_beBytes n v ▸ hj)
  case entry => exact Dev.setEntBytes_leaves (fun e => e.lard.byteAt a) (fun _ => rfl) ..

theorem Dev.memByte_writeLoc_unstored {dram : Bool} {a : Nat} (h : d.stores id n l (.mem dram a) = false) :
    (d.writeLoc id (d.thrGen id) n v l).memByte dram a = d.memByte dram a := by
  refine Dev.writeLoc_cases (motive := (Dev.memByte · dram a = _)) _ n v l rfl (fun x _ => ?shelf)
    (fun _ _ _ _ _ _ => rfl) (fun t idx off hl => ?entry)
  case shelf => obtain ⟨_, _, hw⟩ := Dev.setLocalBytes_touches id (leBytes n v) d x; rw [hw]; rfl
  case entry =>
    simp only [hl, Dev.stores, Bool.and_eq_false_iff, decide_eq_false_iff_not] at h
    simp only [Dev.setEntBytes, Dev.masterMem]
    split
    · rfl
    · rw [Dev.writeMem, Dev.memByte_clearPoison, Dev.memByte_setMemBytes_other]
      rw [length_leBytes]
      exact fun hdram hx hlt => by simp_all
end

/-- What no write to an operand outside `places` changes, the results of an instruction that are stored to none of them leave. -/
theorem Dev.putAll_leaves {α : Type} (read : Dev → α) (places : Place → Prop)
    (h : ∀ (d : Dev) n v l, (∀ p, places p → d.stores id n l p = false) → read (d.writeLoc id (d.thrGen id) n v l) = read d)
    (writes : List (Nat × Nat)) : ∀ d : Dev, (∀ p, places p → d.storesAny id i evs p writes = false) →
    read (d.putAll id i evs writes) = read d := by
  induction writes with
  | nil => exact fun _ _ => rfl
  | cons kv rest ih =>
    obtain ⟨k, v⟩ := kv
    intro d hd
    simp only [Dev.storesAny] at hd
    simp only [Dev.putAll]
    cases hk : evs[k]? with
    | none => exact ih d (by simpa only [hk] using hd)
    | some e =>
      simp only [hk, Bool.or_eq_false_iff] at hd
      exact (ih _ fun p hp => (hd p hp).2).trans (h d _ _ _ fun p hp => (hd p hp).1)

/-- The results of an instruction leave of its thread all but the shelf. -/
theorem Dev.thr_putAll (id : Tid) (i : Dec) (evs : List Ev1) (writes : List (Nat × Nat)) : ∀ d : Dev, ∃ mem,
    (d.putAll id i evs writes).thr id = { d.thr id with mem := mem } := by
  induction writes with
  | nil => exact fun d => ⟨(d.thr id).mem, rfl⟩
  | cons kv rest ih =>
    intro d
    simp only [Dev.putAll]
    split
    · next e _ =>
      obtain ⟨mem, hrest⟩ := ih (d.putOp id i.op i.width (classOf i.op) e kv.2)
      obtain ⟨_, hone⟩ := Dev.thr_writeLoc (if ownSize i.op (classOf i.op) e.role then kv.2
        else extendTo i.width e.o.bits e.o.sx kv.2) d id (d.thrGen id) (sizeBytes e.o.size) e.loc
      exact ⟨mem, hrest.trans (by rw [Dev.putOp, hone])⟩
    · exact ih d

/-! ## Before and after the results -/

/-- What an issue leaves (R177): every part that no instruction of these groups changes, the threads, and the memories. -/
theorem Dev.Passes.leaves (h : d.Passes e) : e.aluFixed = d.aluFixed ∧ (∀ j, e.thr j = d.thr j)
    ∧ (∀ id a, e.localByte id a = d.localByte id a) ∧ e.cores.common = d.cores.common ∧ e.lard = d.lard
    ∧ ∀ dram a, e.memByte dram a = d.memByte dram a := by
  obtain ⟨_, _, _, _, _, _, rfl⟩ := h
  exact ⟨rfl, fun _ => rfl, fun _ _ => rfl, rfl, rfl, fun _ _ => rfl⟩

theorem Thread.after_eq (t : Thread) : ∃ st hr sp, t.after = { t with state := st, haltReq := hr, stepping := sp } := by
  unfold Thread.after
  split <;> exact ⟨_, _, _, rfl⟩

theorem Thread.mem_after (t : Thread) : t.after.mem = t.mem := by
  obtain ⟨_, _, _, h⟩ := t.after_eq
  rw [h]

theorem Dev.localByte_updThr {g : Thread → Thread} (hg : (g (d.thr id)).mem = (d.thr id).mem) (a : Nat) :
    (d.updThr id g).localByte id a = d.localByte id a := by
  unfold Dev.localByte
  rw [Dev.thr_updThr_same, hg]
  rfl

theorem Dev.localByte_advance (len a : Nat) : (d.advance id len).localByte id a = d.localByte id a := by
  rw [Dev.advance, Dev.localByte_updThr]
  exact Thread.mem_after _

theorem Dev.thr_updThr_other {j : Tid} (h : tidKey j ≠ tidKey id) (g : Thread → Thread) : (d.updThr id g).thr j = d.thr j :=
  Dev.thr_setThr_ne _ _ _ _ h

/-! ## The obligation -/

/-- Settles O25: the issue only passes time, each result changes the bytes it is stored to, and what follows them changes the
thread's own registers. -/
theorem aluFrame : Obligations.AluFrame := by
  unfold Obligations.AluFrame
  intro row hrow s t id i e evs b out h hop hmov hout hexec stored
  obtain rfl := Host.Outcome.next.inj ((exec_aluRow_completes hrow h hop hmov hout).symm.trans hexec)
  obtain ⟨hfixed, hthr, hlocal, hcommon, hlard, hmem⟩ := (Dev.passes_issuesOn h).leaves
  -- a part that no write outside `places` changes, read before and after the results
  have hput {α : Type} (read : Dev → α) (places : Place → Prop) hwrite (hp : ∀ p, places p → stored p = false) :=
    Dev.putAll_leaves (i := i) (evs := evs) (id := id) read places hwrite out.writes (e.setBases id b) hp
  have hall : ((e.setBases id b).putAll id i evs out.writes).aluFixed = s.dev.aluFixed :=
    (hput Dev.aluFixed (fun _ => False) (fun _ _ _ _ _ => Dev.aluFixed_writeLoc ..) fun _ hp => hp.elim).trans hfixed
  have part {α : Type} (read : Dev → α) :
      read ((e.setBases id b).putAll id i evs out.writes).aluFixed = read s.dev.aluFixed := congrArg read hall
  refine ⟨rfl, rfl, fun j hj => ?others, ?own, fun a ha => ?localByte, fun k hk => ?common, fun a ha => ?cellByte,
    part (·.lard.cells), part (·.lard.poison), fun dram a ha => ?memByte, part (·.cores.tabA), part (·.cores.tabB),
    part Dev.csr, part Dev.drip, part Dev.strong, part Dev.out, part Dev.host, part Dev.egrs, part Dev.ingr, part Dev.latches,
    part Dev.help, part Dev.disp, part Dev.fwd, part Dev.book, part Dev.sess, part Dev.pool, part Dev.fmt, part Dev.lode,
    part Dev.dctl, part Dev.load, part Dev.rope, part Dev.hlth, part Dev.elec⟩
  case others =>
    rw [Dev.advance, Dev.thr_updThr_other hj, Dev.thr_updThr_other hj, ← hthr]
    exact (hput (Dev.thr · j) (fun _ => False) (fun _ _ _ _ _ => Dev.thr_writeLoc_other _ hj ..) fun _ hp => hp.elim).trans
      (Dev.thr_updThr_other hj _)
  case own =>
    obtain ⟨mem, hp⟩ := Dev.thr_putAll id i evs out.writes (e.setBases id b)
    rw [Dev.advance, Dev.thr_updThr_same, Dev.thr_updThr_same, hp, Dev.setBases, Dev.thr_updThr_same, hthr]
    obtain ⟨_, _, _, hafter⟩ := Thread.after_eq _
    exact ⟨_, _, _, _, _, hafter⟩
  case localByte =>
    rw [Dev.localByte_advance, Dev.localByte_updThr rfl, ← hlocal]
    exact (hput (Dev.localByte · id a) (· = .loc a) (fun _ _ v _ hs => Dev.localByte_writeLoc_unstored v (hs _ rfl) _)
      fun _ hp => hp ▸ ha).trans (Dev.localByte_updThr rfl a)
  case common =>
    rw [← hcommon]
    exact hput (fun d => spGet 0 d.cores.common k) (fun p => ∃ a, p = .loc a ∧ 0x10000 ≤ a ∧ commonKey id a = k)
      (fun _ _ v _ hs => Dev.common_writeLoc_unstored v (fun a h1 h2 => hs _ ⟨a, rfl, h1, h2⟩) _)
      fun p ⟨a, hp, h1, h2⟩ => hp ▸ Bool.eq_false_iff.mpr fun hst => hk a h1 hst h2
  case cellByte =>
    rw [← hlard]
    exact hput (·.lard.byteAt a) (· = .cell a) (fun _ _ v _ hs => Dev.byteAt_writeLoc_unstored v (hs _ rfl) _)
      fun _ hp => hp ▸ ha
  case memByte =>
    rw [← hmem]
    exact hput (Dev.memByte · dram a) (· = .mem dram a) (fun _ _ v _ hs => Dev.memByte_writeLoc_unstored v (hs _ rfl))
      fun _ hp => hp ▸ ha

end Sys2Proof.Machine
end

section
/-! PROOF. What the moves, conversions, minima, maxima and logic compute at width w (R207, R232 to R236, R239): FLAGS, signed
values, bytes in reverse, packed decimal digits, and bits. -/

namespace Sys2Proof.Machine

variable {w a b v n : Nat} {f : Word}

/-! ## FLAGS -/

/-- The four flags as a number, bit by bit. -/
theorem testBit_zncv : ∀ z n c v : Bool, (b2n z + b2n n * 2 + b2n c * 4 + b2n v * 8).testBit 0 = z
    ∧ (b2n z + b2n n * 2 + b2n c * 4 + b2n v * 8).testBit 1 = n ∧ (b2n z + b2n n * 2 + b2n c * 4 + b2n v * 8).testBit 2 = c
    ∧ (b2n z + b2n n * 2 + b2n c * 4 + b2n v * 8).testBit 3 = v := by decide

/-- The written bits of FLAGS read as written, and every other bit stays (R207). -/
theorem flagsAre_setZncv (f : Word) (z n c v : Bool) : flagsAre f (setZncv f z n c v) z n c v := by
  have hbit (i : Nat) : bitOf (setZncv f z n c v).toNat i =
      if i ≤ 3 then (b2n z + b2n n * 2 + b2n c * 4 + b2n v * 8).testBit i else f.toNat.testBit i := by
    rw [bitOf_eq_testBit, setZncv, testBit_setFld _ _ _ _ _ (by omega) (by omega)]
    simp
  obtain ⟨h0, h1, h2, h3⟩ := testBit_zncv z n c v
  refine ⟨(hbit 0).trans h0, (hbit 1).trans h1, (hbit 2).trans h2, (hbit 3).trans h3, Nat.eq_of_testBit_eq fun i => ?_⟩
  rw [show 16 = 2 ^ 4 from rfl, Nat.testBit_div_two_pow, Nat.testBit_div_two_pow, ← bitOf_eq_testBit, hbit, if_neg (by omega)]

/-- A computation has result `r` for operand 0 with FLAGS from it, and c and v as given. -/
def AluIs (w : Nat) (f : Word) (o : Option AluOut) (r : Nat) (c v : Bool) : Prop :=
  ∃ g, o = some ⟨[(0, r)], g⟩ ∧ flagsAre f g (r == 0) (bitOf r (w - 1)) c v

/-- A result that fits the width is written whole. -/
theorem aluRes_is {r : Nat} (hr : r < 2 ^ w) (c v : Bool) : AluIs w f (aluRes w f r c v) r c v := by
  rw [aluRes, Nat.mod_eq_of_lt hr]
  exact ⟨_, rfl, flagsAre_setZncv ..⟩

/-! ## Minima and maxima -/

theorem toSigned_inj (ha : a < 2 ^ w) (hb : b < 2 ^ w) (h : toSigned w a = toSigned w b) : a = b := by
  simp only [toSigned, Nat.mod_eq_of_lt ha, Nat.mod_eq_of_lt hb] at h
  generalize 2 ^ w = m at *
  split at h <;> split at h <;> omega

/-- A minimum or maximum is one of its sources, with c and v as for CMP a, b (R236). -/
theorem aluPick_is (ha : a < 2 ^ w) (hb : b < 2 ^ w) {first : Bool} {r : Nat} (hr : (if first then a else b) = r) :
    AluIs w f (aluPick w f a b first) r (a < b)
      (!(-(2 ^ (w - 1) : Int) ≤ toSigned w a - toSigned w b && toSigned w a - toSigned w b < (2 ^ (w - 1) : Int))) := by
  have hover : subOver w a b 0 =
      !(-(2 ^ (w - 1) : Int) ≤ toSigned w a - toSigned w b && toSigned w a - toSigned w b < (2 ^ (w - 1) : Int)) := by
    simp [subOver, fitsSigned]
  rw [aluPick, hover, hr]
  exact aluRes_is (by subst hr; split <;> assumption) _ _

/-- It does not matter which of two values with equal signed readings MAXS takes: they are the same value. -/
theorem maxs_pick (ha : a < 2 ^ w) (hb : b < 2 ^ w) : (if decide (toSigned w b ≤ toSigned w a) then a else b) =
    if toSigned w a ≤ toSigned w b then b else a := by
  simp only [decide_eq_true_eq]
  rcases Int.lt_trichotomy (toSigned w a) (toSigned w b) with h | h | h
  · rw [if_neg (Int.not_le.mpr h), if_pos (Int.le_of_lt h)]
  · rw [toSigned_inj ha hb h, ite_self]
  · rw [if_pos (Int.le_of_lt h), if_neg (Int.not_le.mpr h)]

/-! ## Bit by bit -/

theorem compl_lt (w a : Nat) : compl w a < 2 ^ w := by
  have := Nat.two_pow_pos w
  unfold compl
  omega

theorem testBit_compl {j : Nat} (hj : j < w) (a : Nat) : (compl w a).testBit j = !a.testBit j := by
  rw [compl, Nat.sub_sub, Nat.add_comm 1, Nat.testBit_two_pow_sub_succ (Nat.mod_lt _ (Nat.two_pow_pos w)),
    Nat.testBit_mod_two_pow]
  simp [hj]

/-- Each logic instruction acts bit by bit with c = v = 0 (R239). -/
theorem aluLogic_is (ha : a < 2 ^ w) (hb : b < 2 ^ w) (x : Nat) :
    ∀ row ∈ [(aluAnd, and), (aluOr, or), (aluXor, Bool.xor), (aluAndn, fun p q => p && !q)],
      ∃ r, AluIs w f (row.1 w f [x, a, b]) r false false ∧ r < 2 ^ w
        ∧ ∀ j < w, bitOf r j = row.2 (bitOf a j) (bitOf b j) := by
  simp only [List.forall_mem_cons, List.not_mem_nil, false_implies, implies_true, and_true, bitOf_eq_testBit]
  have hand := Nat.and_lt_two_pow a hb
  have hor := Nat.or_lt_two_pow ha hb
  have hxor := Nat.xor_lt_two_pow ha hb
  have handn := Nat.and_lt_two_pow a (compl_lt w b)
  exact ⟨⟨_, aluRes_is hand _ _, hand, fun j _ => Nat.testBit_and ..⟩, ⟨_, aluRes_is hor _ _, hor, fun j _ => Nat.testBit_or ..⟩,
    ⟨_, aluRes_is hxor _ _, hxor, fun j _ => Nat.testBit_xor ..⟩,
    ⟨_, aluRes_is handn _ _, handn, fun j hj => by rw [Nat.testBit_and, testBit_compl hj]⟩⟩

theorem aluNot_is (x : Nat) : ∃ r, AluIs w f (aluNot w f [x, a]) r false false ∧ r < 2 ^ w
    ∧ ∀ j < w, bitOf r j = !bitOf a j := by
  simp only [bitOf_eq_testBit]
  exact ⟨_, aluRes_is (compl_lt w a) _ _, compl_lt w a, fun j hj => testBit_compl hj a⟩

/-- TST has the FLAGS of AND and writes nothing. -/
theorem aluTst_and (hb : b < 2 ^ w) (x : Nat) :
    ∃ g, aluTst w f [a, b] = some ⟨[], g⟩ ∧ aluAnd w f [x, a, b] = some ⟨[(0, a &&& b)], g⟩ := by
  have hlt := Nat.mod_eq_of_lt (Nat.and_lt_two_pow a hb)
  change ∃ g, aluFlags w f (a &&& b) false false = some ⟨[], g⟩ ∧ aluRes w f (a &&& b) false false = some ⟨[(0, a &&& b)], g⟩
  rw [aluFlags, aluRes, hlt]
  exact ⟨_, rfl, rfl⟩

/-! ## Bytes in reverse -/

theorem leNat_lt (bs : Bytes) : leNat bs < 256 ^ bs.length := by
  induction bs with
  | nil => exact Nat.one_pos
  | cons x bs ih =>
    have := x.isLt
    rw [leNat, List.length_cons, Nat.pow_succ]
    omega

/-- The digits to base 256 of a little-endian number are its bytes. -/
theorem leNat_digit (bs : Bytes) (j : Nat) : leNat bs / 256 ^ j % 256 = (bs.getD j 0).toNat := by
  induction bs generalizing j with
  | nil => simp [leNat]
  | cons x bs ih =>
    have := x.isLt
    cases j with
    | zero => simp only [leNat, List.getD_cons_zero]; omega
    | succ j =>
      rw [List.getD_cons_succ, ← ih, leNat, Nat.pow_succ', ← Nat.div_div_eq_div_mul]
      congr 2
      omega

theorem leBytes_getD {j : Nat} (hj : j < n) (v : Nat) : ((leBytes n v).getD j 0).toNat = v / 256 ^ j % 256 := by
  induction n generalizing j v with
  | zero => omega
  | succ n ih =>
    cases j with
    | zero => simp [leBytes]
    | succ j => rw [leBytes, List.getD_cons_succ, ih (by omega), Nat.pow_succ', ← Nat.div_div_eq_div_mul]

/-- BSWAP reverses the bytes of the operation width (R232). -/
theorem aluBswap_is (hw : w % 8 = 0) (x : Nat) : ∃ r, aluBswap w f [x, a] = some ⟨[(0, r)], f⟩ ∧ r < 2 ^ w
    ∧ ∀ j < w / 8, r / 256 ^ j % 256 = a / 256 ^ (w / 8 - 1 - j) % 256 := by
  refine ⟨_, rfl, ?_, fun j hj => ?_⟩
  · have hlt := leNat_lt (leBytes (w / 8) a).reverse
    rwa [List.length_reverse, length_leBytes, show 256 = 2 ^ 8 from rfl, ← Nat.pow_mul,
      Nat.mul_div_cancel' (Nat.dvd_of_mod_eq_zero hw)] at hlt
  · rw [leNat_digit, List.getD_eq_getElem?_getD, List.getElem?_reverse (by rwa [length_leBytes]), length_leBytes,
      ← List.getD_eq_getElem?_getD]
    exact leBytes_getD (by omega) a

/-! ## Packed decimal digits -/

theorem toBcd_lt (n v : Nat) : toBcd n v < 16 ^ n := by
  induction n generalizing v with
  | zero => exact Nat.one_pos
  | succ n ih =>
    have := ih (v / 10)
    rw [toBcd, Nat.pow_succ]
    omega

/-- The nibbles of packed digits are the decimal digits. -/
theorem toBcd_digit {j : Nat} (hj : j < n) (v : Nat) : toBcd n v / 16 ^ j % 16 = v / 10 ^ j % 10 := by
  induction n generalizing j v with
  | zero => omega
  | succ n ih =>
    cases j with
    | zero => simp only [toBcd, Nat.pow_zero, Nat.div_one]; omega
    | succ j =>
      rw [toBcd, Nat.pow_succ', ← Nat.div_div_eq_div_mul, Nat.pow_succ', ← Nat.div_div_eq_div_mul, ← ih (by omega)]
      congr 2
      omega

theorem bcdOk_iff : bcdOk n v = true ↔ ∀ j < n, v / 16 ^ j % 16 ≤ 9 := by
  induction n generalizing v with
  | zero => simp [bcdOk]
  | succ n ih =>
    simp only [bcdOk, Bool.and_eq_true, decide_eq_true_eq, ih, Nat.forall_lt_succ_left, Nat.pow_zero, Nat.div_one,
      Nat.pow_succ', Nat.div_div_eq_div_mul]

/-- Nibbles that are the decimal digits of `m` spell `m`, as far as they go. -/
theorem fromBcd_of_digits {m : Nat} (h : ∀ j < n, v / 16 ^ j % 16 = m / 10 ^ j % 10) : fromBcd n v = m % 10 ^ n := by
  induction n generalizing v m with
  | zero => simp [fromBcd, Nat.mod_one]
  | succ n ih =>
    have hrest : fromBcd n (v / 16) = m / 10 % 10 ^ n := ih fun j hj => by
      rw [Nat.div_div_eq_div_mul, Nat.div_div_eq_div_mul, ← Nat.pow_succ', ← Nat.pow_succ']
      exact h (j + 1) (by omega)
    have hlow : v % 16 = m % 10 := by simpa using h 0 (by omega)
    rw [fromBcd, hrest, hlow, Nat.pow_succ', Nat.mod_mul]

/-- BIN2BCD writes the low digits, with v when there are more (R235). -/
theorem aluBin2bcd_is (hw : w % 4 = 0) (x v : Nat) : ∃ r g, aluBin2bcd w f [x, v] = some ⟨[(0, r)], g⟩ ∧ r < 2 ^ w
    ∧ (∀ j < w / 4, r / 16 ^ j % 16 = v / 10 ^ j % 10) ∧ flagsAre f g (r == 0) false false (10 ^ (w / 4) ≤ v) := by
  refine ⟨_, _, rfl, ?_, fun j hj => toBcd_digit hj v, flagsAre_setZncv ..⟩
  have hlt := toBcd_lt (w / 4) v
  rwa [show 16 = 2 ^ 4 from rfl, ← Nat.pow_mul, Nat.mul_div_cancel' (Nat.dvd_of_mod_eq_zero hw)] at hlt

/-- BCD2BIN of packed digits gives their number, with v when it does not fit (R235). -/
theorem aluBcd2bin_digits (hn : n < 10 ^ 32) (h : ∀ j < 32, v / 16 ^ j % 16 = n / 10 ^ j % 10) (x : Nat) :
    ∃ g, aluBcd2bin w f [x, v] = some ⟨[(0, n % 2 ^ w)], g⟩ ∧ flagsAre f g (n % 2 ^ w == 0) false false (2 ^ w ≤ n) := by
  have hok : bcdOk 32 v = true := bcdOk_iff.mpr fun j hj => by have := h j hj; omega
  have hval : fromBcd 32 v = n := (fromBcd_of_digits h).trans (Nat.mod_eq_of_lt hn)
  refine ⟨_, (if_pos hok).trans ?_, flagsAre_setZncv ..⟩
  simp only [opv, List.getD_cons_succ, List.getD_cons_zero, hval]

/-- BCD2BIN of a nibble that is no digit gives 0 with c (R235). -/
theorem aluBcd2bin_bad {j : Nat} (hj : j < 32) (h : 9 < v / 16 ^ j % 16) (x : Nat) :
    ∃ g, aluBcd2bin w f [x, v] = some ⟨[(0, 0)], g⟩ ∧ flagsAre f g true false true false := by
  have hbad : ¬ bcdOk 32 v = true := fun hok => by have := bcdOk_iff.mp hok j hj; omega
  exact ⟨_, if_neg hbad, flagsAre_setZncv ..⟩

end Sys2Proof.Machine
end

section
/-! PROOF. Completion and faults of groups 0x00 to 0x6F (R209, R213, R224, R238, R470), and the source of a LEA (R234). -/

namespace Sys2Proof.Machine

variable {d : Dev} {id : Tid} {i : Dec}

/-- The fault of an operand parks the thread, with its poisoned cells and lines counted (R224, R407, R470). -/
theorem Dev.withOps_operandFault {cls code n : Nat} (h : (d.atIssue id i).operandsOf id i.op [] i.ops = .error ((cls, code), n))
    (micro opcode : Nat) (k : Dev → List Ev1 → Map Word → Dev) : d.withOps id i [] micro opcode k =
      ((d.atIssue id i).countOps id i [] code).faultPark id ⟨cls, code, opcode, n, micro⟩ := by
  rw [Dev.atIssue] at h
  simp only [Dev.withOps, timeOps_nil, h, Dev.atIssue]

theorem Dev.countOps_unpoisoned {code : Nat} (h : code ≠ Code.poisoned) : d.countOps id i [] code = d := if_pos h

/-- A read of poison through the window counts the cells that hold it (R470). -/
theorem Dev.countOps_window {h len off k : Nat} {cs : List Nat}
    (hl : d.failLoc id i.op [] 0 (d.thr id).b i.ops = some (.window h len off, k)) (hcs : d.windowCells id h len off k = .ok cs) :
    d.countOps id i [] Code.poisoned = d.bumpBy R.hlthCntPoison (cs.filter d.cellPoisoned).length := by
  simp only [Dev.countOps, ne_eq, not_true_eq_false, if_false, hl, Dev.countLoc, hcs, Dev.countCells]

/-- A computation without a result is a fault (R238). -/
theorem aluSem_none {f : Alu} {evs : List Ev1} (h : f i.width (d.thr id).flags (evVals i evs) = none) :
    aluSem f d id i evs = .error (5, Code.reserved) := by
  rw [aluSem, h]

/-- LEA takes the local address of its source, which it does not read (R234). -/
theorem Dev.evalOne_lea {b c : Map Word} {o : Opnd} {a : Nat} (ho : leaOpen 0x04 1 o = false)
    (hl : d.locate id b [] o = .ok (.mem a, c)) : d.evalOne id 0x04 1 b [] (.s, o) = .ok (⟨.s, o, .mem a, a⟩, c) := by
  simp [Dev.evalOne, ho, hl]

/-- Settles O24: each row completes or faults as `Dev.perform` does, and each computation has its lemma. -/
theorem aluInstructions : Obligations.AluInstructions := by
  unfold Obligations.AluInstructions
  refine ⟨fun row hrow s id i e evs b out => exec_aluRow_completes hrow, fun row hrow s id i h hop hmov => ⟨?operand, ?none⟩,
    fun w f x a b _ ha hb => ?values, fun d id b c o a => Dev.evalOne_lea⟩
  case operand =>
    intro cls code n hfault
    exact ⟨exec_withDev_congr (exec_aluRow hrow h hop hmov) (Dev.withOps_operandFault hfault _ _ _), Dev.countOps_unpoisoned,
      fun _ _ _ _ _ hcode hl hcs => hcode ▸ Dev.countOps_window hl hcs⟩
  case none =>
    intro evs b hops hnone
    refine exec_withDev_congr (exec_aluRow hrow h hop hmov) (Dev.perform_faults ⟨h, rfl, hops⟩ _ _ _ _ _ _ (aluSem_none ?_))
    rwa [Dev.setBases, Dev.thr_updThr_same]
  case values =>
    refine ⟨rfl, rfl, rfl, fun h8 => aluBswap_is h8 x, fun h4 v => aluBin2bcd_is h4 x v, fun v n hn h => aluBcd2bin_digits hn h x,
      fun v j hj h => aluBcd2bin_bad hj h x, aluPick_is ha hb ?minu,
      aluPick_is ha hb ?maxu, aluPick_is ha hb ?mins, aluPick_is ha hb (maxs_pick ha hb),
      aluLogic_is ha hb x, aluNot_is x, aluTst_and hb x⟩
    case minu => simp only [opv, List.getD_cons_succ, List.getD_cons_zero, decide_eq_true_eq, Nat.min_def]
    case maxu => simp only [opv, List.getD_cons_succ, List.getD_cons_zero, decide_eq_true_eq, Nat.max_comm a b, Nat.max_def]
    case mins => simp only [opv, List.getD_cons_succ, List.getD_cons_zero, decide_eq_true_eq]

end Sys2Proof.Machine
end

section
/-! PROOF. The system group (R205, R206, R250, R251), repeated instructions (R219, R220) and macros (R223, R260, R261). -/

namespace Sys2Proof.Machine

variable {d e : Dev} {id : Tid} {i : Dec} {evs : List Ev1} {b : Map Word}

/-! ## MOVS, NOP, FENCE and YIELD -/

/-- An instruction whose effect answers a device goes on from it. -/
theorem Dev.issue_runs (h : d.issuesOn id i e evs b) {opc : Nat} (hop : i.op = opc) {sem : Sem} {r : Dev}
    (hr : sem (e.setBases id b) id i evs = .ok r) : d.issue id opc sem = r.advance id i.len := by
  rw [Dev.issue, Dev.issueWith_runs h.1 _ _ hop, Dev.perform_runs h _ _ _ _ _ hr]

/-- A thread that issues has not the state of reset: its bases and its PC are one update. -/
theorem Dev.advance_setBases (h : d.issuesOn id i e evs b) (len : Nat) :
    (e.setBases id b).advance id len = e.updThr id (fun t => { t with b := b, pc := w32 (t.pc.toNat + len) }.after) := by
  refine Dev.updThr_updThr e id _ _ fun hinit => ?_
  obtain ⟨-, hthr, -⟩ := (Dev.passes_issuesOn h).leaves
  have hready : (e.thr id).state = .ready := (congrArg Thread.state (hthr id)).trans h.1.2.1
  have hidle : (e.thr id).state = .idle := congrArg Thread.state hinit
  exact TState.noConfusion (hready.symm.trans hidle)

/-- NOP, FENCE and YIELD have no effect of their own (R251). -/
theorem exec_noneRow : ∀ row ∈ [(Instr.nop, 0xD2), (.fence, 0xD3), (.yield, 0xD4)], ∀ id s,
    exec (row.1 id) s = .next (s.withDev (s.dev.issue id row.2 semNone)) := by
  simp only [List.forall_mem_cons, List.not_mem_nil, false_implies, implies_true, and_true]
  refine ⟨?_, ?_, ?_⟩ <;> exact fun _ _ => rfl

/-- The special registers in the order of their numbers (R205). -/
theorem Dev.readSpecial_all (d : Dev) (id : Tid) (next : Nat) : (List.range 7).map (fun n => d.readSpecial id n next) =
    [next, (d.thr id).flags.toNat, (d.thr id).cnt.toNat, (d.thr id).ev.toNat, (d.thr id).evp.toNat, d.tidReg id,
      (d.thr id).rgen] := rfl

theorem Dev.readSpecial_base (d : Dev) (id : Tid) (next k : Nat) :
    d.readSpecial id (8 + k) next = baseReg (d.thr id).b k := by
  rw [Nat.add_comm]
  rfl

theorem and_mask32 {v : Nat} (hv : v < 2 ^ 32) : v &&& 0xFFFFFFFF = v := by
  rw [show 0xFFFFFFFF = 2 ^ 32 - 1 from rfl, Nat.and_two_pow_sub_one_eq_mod, Nat.mod_eq_of_lt hv]

theorem Dev.writeSpecial_flags {v : Nat} (hv : v &&& 0x1FF0F = v) :
    d.writeSpecial id 1 v = d.updThr id (fun t => { t with flags := w32 v }) := by
  simp [Dev.writeSpecial, flagsMask, hv]

theorem Dev.writeSpecial_cnt {v : Nat} (hv : v < 2 ^ 32) :
    d.writeSpecial id 2 v = d.updThr id (fun t => { t with cnt := w32 v }) := by
  simp [Dev.writeSpecial, and_mask32 hv]

theorem Dev.writeSpecial_ev {v : Nat} (hv : v &&& evMask (d.isKeeper id) = v) :
    d.writeSpecial id 3 v = d.updThr id (fun t => { t with ev := w32 v }) := by
  simp [Dev.writeSpecial, hv]

theorem Dev.writeSpecial_base {v : Nat} (hv : v < 2 ^ 32) (k : Nat) :
    d.writeSpecial id (8 + k) v = d.updThr id (fun t => { t with b := spSet 0 t.b k (w32 v) }) := by
  have hflags : k + 8 ≠ 1 := by omega
  have hev : k + 8 ≠ 3 := by omega
  rw [Nat.add_comm]
  simp only [Dev.writeSpecial, hflags, hev, if_false, and_mask32 hv, if_true]
  rfl

/-! ## Repeated instructions -/

/-- The device on which REP evaluates its count: the thread's domain has issued, and the clocks the count reads have moved on. -/
def Dev.atRep (d : Dev) (id : Tid) (o : Opnd) : Dev := (d.unstill id).clockPass 0 [(.s, o)]

section
variable {o : Opnd} {sem : Sem} (hs : d.serving = true) (hr : (d.thr id).state = .ready) (hm : (d.thr id).macroRun = none)
  (hd : d.decodeAt id = .ok i) (ho : i.rep = some o) (hsem : semOf i.op = some sem)
include hs hr hm hd ho hsem

/-- Within a repeated instruction the count stands (R220). -/
theorem Dev.repIteration_within (hat : (d.atRep id o).repAtPc id = true) :
    d.repIteration id = (d.atRep id o).repStep id i sem := by
  rw [Dev.repAtPc, Dev.atRep, decide_eq_true_eq] at hat
  simp [Dev.repIteration, Dev.mayIssue, hs, hr, hm, hd, ho, hsem, hat, Dev.atRep]

/-- The first iteration evaluates the count, and a count of 0 ends the instruction (R220). -/
theorem Dev.repIteration_counts (hat : (d.atRep id o).repAtPc id = false) (hc : (d.atRep id o).repCount id o = .ok e) :
    d.repIteration id = if (e.thr id).cnt = 0 then e.advance id i.len else e.repStep id i sem := by
  rw [Dev.repAtPc, Dev.atRep, decide_eq_false_iff_not] at hat
  rw [Dev.atRep] at hc
  simp [Dev.repIteration, Dev.mayIssue, hs, hr, hm, hd, ho, hsem, hat, hc]

end

/-- An iteration that completes lowers CNT, and keeps the PC until CNT is 0 (R220). -/
theorem Dev.repStep_completes {sem : Sem} {d' : Dev} (hops : (d.atIssue id i).operandsOf id i.op [] i.ops = .ok (evs, b))
    (hsem : sem (((d.atIssue id i).leaPass i.op i.ops).setBases id b) id i evs = .ok d') :
    d.repStep id i sem =
      if (d'.thr id).cnt - 1 = 0 then
        (d'.updThr id (fun t => { t with cnt := (d'.thr id).cnt - 1, repAt := none })).advance id i.len
      else d'.updThr id (fun t => { t with cnt := (d'.thr id).cnt - 1, repAt := some t.pc.toNat }.after) := by
  rw [Dev.atIssue] at hops hsem
  simp only [Dev.repStep, Dev.perform, Dev.withOps, timeOps_nil, hops, hsem]

/-! ## Macros -/

/-- MACRO_INSTRUCTION evaluates its operands once (R260). -/
theorem Dev.macroStart_runs {m : MacroDef} {ls : List Loc} (hs : d.serving = true) (hr : (d.thr id).state = .ready)
    (hm : (d.thr id).macroRun = none) (hd : d.decodeAt id = .ok i) (h1 : 0xE8 ≤ i.op) (h2 : i.op ≤ 0xEF)
    (hdef : d.macroDef (d.thr id).codeGen i.op i.fn = some m)
    (hls : (d.unstill id).macroLocs id 0 ((d.unstill id).thr id).b i.ops = .ok (ls, b)) :
    d.macroStart id = (d.unstill id).updThr id (fun t =>
      { t with b := b, macroRun := some ⟨t.pc.toNat + i.len, m.first, m.count, 0, ls⟩ }) := by
  have hmacro : ¬ (i.op < 0xE8 ∨ 0xEF < i.op) := by omega
  simp [Dev.macroStart, Dev.mayIssue, hs, hr, hm, hd, hmacro, hdef, hls]

section
variable {m : MacroRun} (hs : d.serving = true) (hr : (d.thr id).state = .ready) (hm : (d.thr id).macroRun = some m)
  (hd : (d.unstill id).decodeMicro ((d.unstill id).thr id).codeGen (m.first + m.step) = .ok i)
  (hops : (((d.unstill id).unstill id).clockPass i.op (timeOps m.ops i.ops)).operandsOf id i.op m.ops i.ops = .ok (evs, b))
include hs hr hm hd hops

/-- A micro-step of groups 0x00 to 0x6F acts as its own instruction does (R261). -/
theorem Dev.microStep_alu {f : Alu} {out : AluOut} (hl : latchMov i = false) (hf : aluOf i.op = some f)
    (he : (((d.unstill id).unstill id).clockPass i.op (timeOps m.ops i.ops)).leaPass i.op i.ops = e)
    (hout : f i.width (e.thr id).flags (evVals i evs) = some out) :
    d.microStep id = (((e.setBases id b).putAll id i evs out.writes).updThr id (fun t => { t with flags := out.flags })).updThr id
      (·.microDone m) := by
  have hflags : f i.width ((e.setBases id b).thr id).flags (evVals i evs) = some out := by
    rwa [Dev.setBases, Dev.thr_updThr_same]
  -- the decoder as a variable: the kernel would unfold it where it compares the branches
  obtain ⟨decode, hdecode⟩ : ∃ f, f = Dev.decodeMicro := ⟨_, rfl⟩
  rw [Dev.microStep, ← hdecode]
  rw [← hdecode] at hd
  simp [Dev.mayIssue, hs, hr, hm, hd, hl, hf, Dev.perform, Dev.withOps, hops, he, aluSem, hflags]

/-- A micro-step that names a Latch's ACQ or TRY word acts on the Latch (R267, R261). -/
theorem Dev.microStep_latch (hl : latchMov i = true) : d.microStep id =
    ((((d.unstill id).unstill id).clockPass i.op (timeOps m.ops i.ops)).leaPass i.op i.ops).latchEffect id i evs b
      (fun e => e.updThr id (·.microDone m)) := by
  -- the decoder as a variable: the kernel would unfold it where it compares the branches
  obtain ⟨decode, hdecode⟩ : ∃ f, f = Dev.decodeMicro := ⟨_, rfl⟩
  rw [Dev.microStep, ← hdecode]
  rw [← hdecode] at hd
  simp [Dev.mayIssue, hs, hr, hm, hd, hl, Dev.withOps, hops]

end

/-! ## The obligation -/

/-- Settles O30: MOVS, NOP, FENCE and YIELD run as any instruction that issues; REP and macros have one lemma for each of their
commands. -/
theorem systemInstructions : Obligations.SystemInstructions := by
  unfold Obligations.SystemInstructions
  refine ⟨⟨fun s id i e evs b h => ⟨fun row hrow hop => ?none, fun x n hop hevs => ?read, fun n x hop hevs => ?write⟩,
    fun d id next v k hv _ => ⟨d.readSpecial_all id next, d.readSpecial_base id next k, Dev.writeSpecial_flags,
      Dev.writeSpecial_cnt hv, Dev.writeSpecial_ev, Dev.writeSpecial_base hv k⟩⟩,
    fun s id hs hr => ⟨fun i o sem hm hd ho hsem => ?rep, fun i m ls b hm hd h1 h2 hdef hls => ?start,
      fun m i evs b hm hd hops => ?micro⟩⟩
  case none =>
    exact exec_withDev_congr (exec_noneRow row hrow id s) ((Dev.issue_runs h hop rfl).trans (Dev.advance_setBases h _))
  case read =>
    subst hevs
    exact exec_withDev_congr rfl ((Dev.issue_runs h hop rfl).trans (by rw [hop]))
  case write =>
    subst hevs
    exact exec_withDev_congr rfl (Dev.issue_runs h hop rfl)
  case rep =>
    refine ⟨fun d hat hcount h0 => ?zero, fun d evs b d' hfrom hops hdone => ?iteration⟩
    case zero =>
      exact exec_withDev_congr rfl ((Dev.repIteration_counts hs hr hm hd ho hsem hat hcount).trans (if_pos h0))
    case iteration =>
      have hstep := Dev.repStep_completes hops hdone
      rcases hfrom with ⟨hat, rfl⟩ | ⟨hat, hcount, h0⟩
      · exact exec_withDev_congr rfl ((Dev.repIteration_within hs hr hm hd ho hsem hat).trans hstep)
      · exact exec_withDev_congr rfl
          ((Dev.repIteration_counts hs hr hm hd ho hsem hat hcount).trans ((if_neg h0).trans hstep))
  case start => exact exec_withDev_congr rfl (Dev.macroStart_runs hs hr hm hd h1 h2 hdef hls)
  case micro =>
    exact ⟨fun f out hl hf hout => exec_withDev_congr rfl (Dev.microStep_alu hs hr hm hd hops hl hf rfl hout),
      fun hl => exec_withDev_congr rfl (Dev.microStep_latch hs hr hm hd hops hl)⟩

end Sys2Proof.Machine
end

section
/-! PROOF. Sums and differences at width w (R236): the signed reading of a value and the value of a signed number as those of a
bit vector, and the borrow. -/

namespace Sys2Proof.Machine

variable {w a b : Nat} {f : Word}

/-! ## Signed readings -/

theorem toSigned_eq_toInt (w a : Nat) : toSigned w a = (BitVec.ofNat w a).toInt := by
  rw [BitVec.toInt_eq_toNat_cond, BitVec.toNat_ofNat, toSigned]
  have hhalf : a % 2 ^ w < 2 ^ (w - 1) ↔ 2 * (a % 2 ^ w) < 2 ^ w := by
    cases w with
    | zero => simp [Nat.mod_one]
    | succ w => rw [Nat.add_sub_cancel, Nat.pow_succ]; omega
  simp only [hhalf]

theorem ofSigned_eq_toNat (w : Nat) (i : Int) : ofSigned w i = (BitVec.ofInt w i).toNat := (BitVec.toNat_ofInt i).symm

theorem ofSigned_lt (w : Nat) (i : Int) : ofSigned w i < 2 ^ w := by
  rw [ofSigned_eq_toNat]
  exact BitVec.isLt _

theorem cast_two_pow (w : Nat) : ((2 ^ w : Nat) : Int) = (2 ^ w : Int) := Int.natCast_pow 2 w

/-- The value of a signed number is the number modulo the width. -/
theorem ofSigned_cast (w : Nat) (i : Int) : (ofSigned w i : Int) = i % (2 ^ w : Int) := by
  have hpos : ((2 ^ w : Nat) : Int) ≠ 0 := Int.natCast_ne_zero.mpr (Nat.ne_of_gt (Nat.two_pow_pos w))
  rw [ofSigned, Int.toNat_of_nonneg (Int.emod_nonneg _ hpos), cast_two_pow]

theorem ofSigned_natCast (w n : Nat) : ofSigned w n = n % 2 ^ w := by
  rw [ofSigned, ← Int.natCast_emod, Int.toNat_natCast]

theorem fitsSigned_eq (w : Nat) (i : Int) :
    fitsSigned w i = (decide (-(2 ^ (w - 1) : Int) ≤ i) && decide (i < (2 ^ (w - 1) : Int))) := by
  simp [fitsSigned]

/-! ## Results -/

/-- A result is written modulo the width. -/
theorem aluRes_mod_is (w : Nat) (f : Word) (r : Nat) (c v : Bool) : AluIs w f (aluRes w f r c v) (r % 2 ^ w) c v :=
  ⟨_, rfl, flagsAre_setZncv ..⟩

/-! ## Sums -/

/-- A sum, with its carry as c and v that its signed value does not fit (R236). -/
theorem addWith_is (w : Nat) (f : Word) (a b cin : Nat) : AluIs w f (addWith w f a b cin) ((a + b + cin) % 2 ^ w)
    (2 ^ w ≤ a + b + cin) (!fitsSigned w (toSigned w a + toSigned w b + cin)) := aluRes_mod_is ..

theorem addWith_zero_is (w : Nat) (f : Word) (a b : Nat) : AluIs w f (addWith w f a b 0) ((a + b) % 2 ^ w)
    (2 ^ w ≤ a + b) (!fitsSigned w (toSigned w a + toSigned w b)) := by
  have hsum := addWith_is w f a b 0
  rwa [Nat.add_zero, Int.natCast_zero, Int.add_zero] at hsum

/-! ## Differences -/

theorem subVal_lt (w a b bin : Nat) : subVal w a b bin < 2 ^ w := ofSigned_lt ..

/-- A difference is taken from the minuend raised by a multiple of `2 ^ w`. -/
theorem subVal_eq {k bin : Nat} (h : b + bin ≤ k * 2 ^ w + a) : subVal w a b bin = (k * 2 ^ w + a - b - bin) % 2 ^ w := by
  have hraise : (a : Int) - b - bin = ((k * 2 ^ w + a - b - bin : Nat) : Int) - ((2 ^ w : Nat) : Int) * k := by
    rw [Int.mul_comm, ← Int.natCast_mul]
    omega
  rw [← ofSigned_natCast, subVal, hraise, ofSigned, Int.sub_mul_emod_self_left, ofSigned]

theorem subVal_zero (hb : b ≤ 2 ^ w) : subVal w a b 0 = (2 ^ w + a - b) % 2 ^ w := by
  rw [subVal_eq (k := 1) (by omega), Nat.one_mul, Nat.sub_zero]

/-- A difference is 0 when the two are equal. -/
theorem subVal_eq_zero (ha : a < 2 ^ w) (hb : b < 2 ^ w) : (subVal w a b 0 == 0) = (a == b) := by
  have hmod : (2 ^ w + a - b) % 2 ^ w = if b ≤ a then a - b else 2 ^ w + a - b := by
    split
    · rw [show 2 ^ w + a - b = a - b + 2 ^ w by omega, Nat.add_mod_right, Nat.mod_eq_of_lt (by omega)]
    · exact Nat.mod_eq_of_lt (by omega)
  rw [subVal_zero (Nat.le_of_lt hb), hmod, Bool.eq_iff_iff, beq_iff_eq, beq_iff_eq]
  split <;> omega

/-- A difference, with its borrow as c and v that its signed value does not fit (R236). -/
theorem subWith_is {k bin : Nat} (h : b + bin ≤ k * 2 ^ w + a) : AluIs w f (subWith w f a b bin)
    ((k * 2 ^ w + a - b - bin) % 2 ^ w) (a < b + bin) (!fitsSigned w (toSigned w a - toSigned w b - bin)) := by
  rw [← subVal_eq h]
  exact aluRes_is (subVal_lt ..) _ _

/-- CMP has the FLAGS of SUB and writes no operand (R236). -/
theorem subWith_cmp (x : Nat) : ∃ g, aluSub w f [x, a, b] = some ⟨[(0, subVal w a b 0)], g⟩
    ∧ aluCmp w f [a, b] = some ⟨[], g⟩ ∧ flagsAre f g (subVal w a b 0 == 0) (bitOf (subVal w a b 0) (w - 1)) (a < b)
      (!fitsSigned w (toSigned w a - toSigned w b)) := by
  have hmod : subVal w a b 0 % 2 ^ w = subVal w a b 0 := Nat.mod_eq_of_lt (subVal_lt ..)
  change ∃ g, aluRes w f (subVal w a b 0) (subBorrow a b 0) (subOver w a b 0) = _
    ∧ aluFlags w f (subVal w a b 0) (subBorrow a b 0) (subOver w a b 0) = _ ∧ _
  rw [aluRes, aluFlags, hmod, subOver, Int.natCast_zero, Int.sub_zero]
  exact ⟨_, rfl, rfl, flagsAre_setZncv ..⟩

/-- Settles O26: each row is a sum or a difference with its carry in; NEG, INC and DEC are SUB and ADD of fixed sources. -/
theorem addSubFlags : Obligations.AddSubFlags := by
  unfold Obligations.AddSubFlags
  intro w f x a b _ ha hb
  simp only [← fitsSigned_eq, ← subVal_zero (Nat.le_of_lt hb), ← subVal_eq_zero ha hb]
  refine ⟨fun c hc => ⟨?adc, ?sbb⟩, addWith_zero_is w f a b, subWith_cmp x, rfl, rfl, rfl⟩
  case adc => subst hc; exact addWith_is w f a b _
  case sbb =>
    have hborrow : c ≤ 1 := by subst hc; unfold b2n; split <;> omega
    have hraised : b + c ≤ 2 * 2 ^ w + a := by omega
    subst hc
    exact subWith_is hraised

end Sys2Proof.Machine
end

section
/-! PROOF. Products, quotients and remainders at width w (R237, R238). -/

namespace Sys2Proof.Machine

variable {w a b : Nat} {f : Word}

/-! ## Signed bounds -/

theorem toSigned_toNat (x : BitVec w) : toSigned w x.toNat = x.toInt := by
  rw [toSigned_eq_toInt, BitVec.ofNat_toNat, BitVec.setWidth_eq]

theorem le_toSigned (w a : Nat) : -(2 ^ (w - 1) : Int) ≤ toSigned w a := by
  rw [toSigned_eq_toInt]
  exact BitVec.le_toInt _

theorem toSigned_lt (w a : Nat) : toSigned w a < (2 ^ (w - 1) : Int) := by
  rw [toSigned_eq_toInt]
  exact BitVec.toInt_lt

/-- A signed number that fits is read back from its value. -/
theorem toSigned_ofSigned {t : Int} (hw : 0 < w) (hle : -(2 ^ (w - 1) : Int) ≤ t) (hlt : t < (2 ^ (w - 1) : Int)) :
    toSigned w (ofSigned w t) = t := by
  rw [ofSigned_eq_toNat, toSigned_toNat, BitVec.toInt_ofInt_eq_self hw hle hlt]

theorem toSigned_eq_zero (hb : b < 2 ^ w) : toSigned w b = 0 ↔ b = 0 := by
  have hzero : toSigned w 0 = 0 := (toSigned_eq_toInt w 0).trans BitVec.toInt_zero
  exact ⟨fun h => toSigned_inj hb (Nat.two_pow_pos w) (h.trans hzero.symm), fun h => h ▸ hzero⟩

theorem toSigned_min (hw : 0 < w) : toSigned w (2 ^ (w - 1)) = -(2 ^ (w - 1) : Int) := by
  rw [← BitVec.toInt_intMin_of_pos hw, ← toSigned_toNat, BitVec.toNat_intMin_of_pos hw]

theorem toSigned_ones (hw : 0 < w) : toSigned w (2 ^ w - 1) = -1 := by
  rw [← BitVec.toNat_allOnes, toSigned_toNat, BitVec.toInt_allOnes, if_pos hw]

/-- A signed remainder is nearer to 0 than its divisor, so it fits. -/
theorem tmod_fits (a : Nat) (hb : b < 2 ^ w) (h0 : b ≠ 0) :
    -(2 ^ (w - 1) : Int) ≤ Int.tmod (toSigned w a) (toSigned w b)
      ∧ Int.tmod (toSigned w a) (toSigned w b) < (2 ^ (w - 1) : Int) := by
  have hne : toSigned w b ≠ 0 := mt (toSigned_eq_zero hb).mp h0
  have hnear : (Int.tmod (toSigned w a) (toSigned w b)).natAbs < (toSigned w b).natAbs := by
    rw [Int.natAbs_tmod]
    exact Nat.mod_lt _ (Int.natAbs_pos.mpr hne)
  have := le_toSigned w b
  have := toSigned_lt w b
  omega

/-! ## High halves -/

theorem mul_div_lt (ha : a < 2 ^ w) (hb : b < 2 ^ w) : a * b / 2 ^ w < 2 ^ w :=
  Nat.div_lt_of_lt_mul (Nat.mul_lt_mul'' ha hb)

theorem ofSigned_double_div_lt (w : Nat) (p : Int) : ofSigned (2 * w) p / 2 ^ w < 2 ^ w := by
  refine Nat.div_lt_of_lt_mul ?_
  rw [← Nat.pow_add, ← Nat.two_mul]
  exact ofSigned_lt ..

/-- The high half of a signed product is its quotient by `2 ^ w`, at width w (R237). -/
theorem ofSigned_double_div (w : Nat) (p : Int) :
    ((ofSigned (2 * w) p / 2 ^ w : Nat) : Int) = p / (2 ^ w : Int) % (2 ^ w : Int) := by
  have hpos : (0 : Int) < 2 ^ w := Int.pow_pos (by decide)
  rw [Int.natCast_ediv, ofSigned_cast, cast_two_pow, Nat.two_mul, Int.pow_add, Int.emod_def, Int.emod_def,
    ← Int.ediv_ediv_of_nonneg (Int.le_of_lt hpos), Int.mul_assoc, Int.sub_mul_ediv_left _ _ (Int.ne_of_gt hpos)]

/-! ## The rows -/

/-- MULS has c and v where the product does not fit, and MULHS writes its high half (R237). -/
theorem aluMuls_is (x a b : Nat) : let p := toSigned w a * toSigned w b
    (∃ r g, aluMuls w f [x, a, b] = some ⟨[(0, r)], g⟩ ∧ r < 2 ^ w ∧ (r : Int) = p % (2 ^ w : Int)
      ∧ flagsAre f g (r == 0) (bitOf r (w - 1)) (!fitsSigned w p) (!fitsSigned w p))
    ∧ (∃ r g, aluMulhs w f [x, a, b] = some ⟨[(0, r)], g⟩ ∧ r < 2 ^ w ∧ (r : Int) = p / (2 ^ w : Int) % (2 ^ w : Int)
      ∧ flagsAre f g (r == 0) (bitOf r (w - 1)) false false) := by
  intro p
  obtain ⟨g, hlow, hg⟩ := aluRes_is (f := f) (ofSigned_lt w p) (!fitsSigned w p) (!fitsSigned w p)
  obtain ⟨g', hhigh, hg'⟩ := aluRes_is (f := f) (ofSigned_double_div_lt w p) false false
  exact ⟨⟨_, g, hlow, ofSigned_lt .., ofSigned_cast .., hg⟩,
    ⟨_, g', hhigh, ofSigned_double_div_lt .., ofSigned_double_div .., hg'⟩⟩

/-- DIVS rounds toward zero, with v where the quotient does not fit (R238). -/
theorem aluDivs_is (x a : Nat) (h0 : b ≠ 0) : let q := Int.tdiv (toSigned w a) (toSigned w b)
    AluIs w f (aluDivs w f [x, a, b]) (ofSigned w q) false (!fitsSigned w q) := by
  rw [show aluDivs w f [x, a, b] = _ from if_neg h0]
  exact aluRes_is (ofSigned_lt ..) _ _

/-- REMS leaves the remainder of that quotient (R238). -/
theorem aluRems_is (x a : Nat) (h0 : b ≠ 0) :
    AluIs w f (aluRems w f [x, a, b]) (ofSigned w (Int.tmod (toSigned w a) (toSigned w b))) false false := by
  rw [show aluRems w f [x, a, b] = _ from if_neg h0]
  exact aluRes_is (ofSigned_lt ..) _ _

/-- The most negative value by −1: the quotient does not fit and is that value again, and the remainder is 0 (R238). -/
theorem aluDivs_min (hw : 1 < w) (x : Nat) :
    (∃ g, aluDivs w f [x, 2 ^ (w - 1), 2 ^ w - 1] = some ⟨[(0, 2 ^ (w - 1))], g⟩ ∧ flagsAre f g false true false true)
    ∧ (∃ g, aluRems w f [x, 2 ^ (w - 1), 2 ^ w - 1] = some ⟨[(0, 0)], g⟩ ∧ flagsAre f g true false false false) := by
  have hpos : 0 < w := by omega
  have h0 : 2 ^ w - 1 ≠ 0 := by have := Nat.one_lt_two_pow (Nat.ne_of_gt hpos); omega
  have hdiv := aluDivs_is (w := w) (f := f) x (2 ^ (w - 1)) h0
  have hrem := aluRems_is (w := w) (f := f) x (2 ^ (w - 1)) h0
  have hq : ofSigned w (2 ^ (w - 1) : Int) = 2 ^ (w - 1) := by
    rw [← cast_two_pow, ofSigned_natCast, Nat.two_pow_pred_mod_two_pow hpos]
  have hr : ofSigned w 0 = 0 := by rw [← Int.natCast_zero, ofSigned_natCast, Nat.zero_mod]
  have hz : (2 ^ (w - 1) == 0) = false := beq_eq_false_iff_ne.mpr (Nat.ne_of_gt (Nat.two_pow_pos _))
  have hv : fitsSigned w (2 ^ (w - 1) : Int) = false := by rw [fitsSigned_eq, decide_eq_false (Int.lt_irrefl _), Bool.and_false]
  simp only [toSigned_min hpos, toSigned_ones hpos, Int.tdiv_neg, Int.tdiv_one, Int.neg_neg, hq, hv] at hdiv
  simp only [toSigned_min hpos, toSigned_ones hpos, Int.tmod_neg, Int.tmod_one, hr] at hrem
  refine ⟨?_, ?_⟩
  · rwa [AluIs, hz, bitOf_eq_testBit, Nat.testBit_two_pow_self] at hdiv
  · rwa [AluIs, bitOf_eq_testBit, Nat.zero_testBit] at hrem

/-- A divisor of zero has no result (R238). -/
theorem aluDiv_zero {w : Nat} {f : Word} {vs : List Nat} (h : vs.getD 2 0 = 0) :
    ∀ alu ∈ [aluDivu, aluDivs, aluRemu, aluRems], alu w f vs = none := by
  simp only [List.forall_mem_cons, List.not_mem_nil, false_implies, implies_true, and_true]
  exact ⟨if_pos h, if_pos h, if_pos h, if_pos h⟩

/-- A quotient or remainder by zero raises ARITHMETIC and writes nothing (R238). -/
theorem exec_divRow_zero {i : Dec} {s : State} {id : Tid} {e : Dev} {evs : List Ev1} {b : Map Word}
    {row : (Tid → Instr) × Nat × Alu} (hrow : row ∈ aluRows) (hdiv : row.2.2 ∈ [aluDivu, aluDivs, aluRemu, aluRems])
    (hmov : row.2.1 ≠ 1) (h : s.dev.issuesOn id i e evs b) (hop : i.op = row.2.1) (h0 : (evVals i evs).getD 2 0 = 0) :
    exec (row.1 id) s = .next (s.withDev (e.faultPark id ⟨5, Code.reserved, i.op, 0, 0⟩)) :=
  exec_withDev_congr (exec_aluRow hrow h.1 hop fun h1 => absurd (hop.symm.trans h1) hmov)
    (Dev.perform_faults h _ _ _ _ _ _ (aluSem_none (aluDiv_zero h0 _ hdiv)))

/-- The rows that divide, among those of groups 0x00 to 0x6F. -/
theorem divRow_alu : ∀ row ∈ [(Instr.divu, 0x2C), (.divs, 0x2D), (.remu, 0x2E), (.rems, 0x2F)], ∃ alu : Alu,
    (row.1, row.2, alu) ∈ aluRows ∧ alu ∈ [aluDivu, aluDivs, aluRemu, aluRems] ∧ row.2 ≠ 1 := by
  simp only [List.forall_mem_cons, List.not_mem_nil, false_implies, implies_true, and_true]
  refine ⟨⟨aluDivu, ?_⟩, ⟨aluDivs, ?_⟩, ⟨aluRemu, ?_⟩, ⟨aluRems, ?_⟩⟩ <;> simp [aluRows]

/-- Settles O27: each row is a product, a quotient or a remainder written at the width; a zero divisor is the fault of
`exec_divRow_zero`. -/
theorem aluProducts : Obligations.AluProducts := by
  unfold Obligations.AluProducts
  simp only [← fitsSigned_eq]
  refine ⟨fun w f x a b hw ha hb => ?_, fun w f x hw => aluDivs_min hw x, ?zero⟩
  case zero =>
    intro row hrow s id i e evs b
    obtain ⟨alu, hmem, hdiv, hmov⟩ := divRow_alu row hrow
    exact exec_divRow_zero hmem hdiv hmov
  obtain ⟨hmuls, hmulhs⟩ := aluMuls_is (w := w) (f := f) x a b
  refine ⟨aluRes_mod_is .., hmuls, aluRes_is (mul_div_lt ha hb) _ _, hmulhs, fun h0 => ⟨?divu, ?remu, ?divs, ?rems⟩⟩
  case divu =>
    rw [show aluDivu w f [x, a, b] = _ from if_neg h0]
    exact aluRes_is (Nat.lt_of_le_of_lt (Nat.div_le_self a b) ha) _ _
  case remu =>
    rw [show aluRemu w f [x, a, b] = _ from if_neg h0]
    exact aluRes_is (Nat.lt_of_le_of_lt (Nat.mod_le a b) ha) _ _
  case divs =>
    obtain ⟨g, hrun, hg⟩ := aluDivs_is (w := w) (f := f) x a h0
    exact ⟨_, g, hrun, ofSigned_lt .., ofSigned_cast .., hg⟩
  case rems =>
    obtain ⟨g, hrun, hg⟩ := aluRems_is (w := w) (f := f) x a h0
    obtain ⟨hle, hlt⟩ := tmod_fits a hb h0
    exact ⟨_, g, hrun, ofSigned_lt .., toSigned_ofSigned hw hle hlt, hg⟩

end Sys2Proof.Machine
end

section
/-! PROOF. Shifts, rotations, counts and bit fields at width w (R239, R240), bit by bit. -/

namespace Sys2Proof.Machine

variable {w a k : Nat} {f : Word}

/-! ## Shifts -/

theorem shiftBy_of_le (h : k ≤ w) : shiftBy w k = k := Nat.min_eq_left (by omega)

theorem shiftBy_of_lt (h : w < k) : shiftBy w k = w + 1 := Nat.min_eq_right (by omega)

/-- The carry of a shift is the last bit shifted out, and 0 beyond the width (R239). -/
theorem shift_carry (w k : Nat) (out : Nat → Bool) :
    (decide (1 ≤ shiftBy w k) && decide (shiftBy w k ≤ w) && out (shiftBy w k)) = (decide (1 ≤ k ∧ k ≤ w) && out k) := by
  rcases Nat.lt_or_ge w k with h | h
  · have hbeyond : ¬ (1 ≤ k ∧ k ≤ w) := fun hk => Nat.not_le.mpr h hk.2
    rw [shiftBy_of_lt h, decide_eq_false (Nat.not_succ_le_self w), decide_eq_false hbeyond, Bool.and_false, Bool.false_and,
      Bool.false_and]
  · rw [shiftBy_of_le h, Bool.decide_and]

/-- Multiples of `2 ^ w` vanish at width w, so SHL by the width or more gives 0 (R239). -/
theorem shiftBy_mul (w k a : Nat) : a * 2 ^ shiftBy w k % 2 ^ w = if w ≤ k then 0 else a * 2 ^ k % 2 ^ w := by
  rcases Nat.lt_or_ge k w with h | h
  · rw [shiftBy_of_le (Nat.le_of_lt h), if_neg (Nat.not_le.mpr h)]
  · rw [if_pos h]
    exact Nat.mod_eq_zero_of_dvd (Nat.dvd_mul_left_of_dvd (Nat.pow_dvd_pow 2 (Nat.le_min.mpr ⟨h, by omega⟩)) a)

theorem shiftBy_div (ha : a < 2 ^ w) (k : Nat) : a / 2 ^ shiftBy w k = if w ≤ k then 0 else a / 2 ^ k := by
  rcases Nat.lt_or_ge k w with h | h
  · rw [shiftBy_of_le (Nat.le_of_lt h), if_neg (Nat.not_le.mpr h)]
  · rw [if_pos h]
    exact Nat.div_eq_of_lt (Nat.lt_of_lt_of_le ha (Nat.pow_le_pow_right (by decide) (Nat.le_min.mpr ⟨h, by omega⟩)))

/-- The quotient of a signed value by a power of two is its arithmetic shift. -/
theorem ofSigned_fdiv (w a k : Nat) : ofSigned w (Int.fdiv (toSigned w a) ((2 ^ k : Nat) : Int)) =
    ((BitVec.ofNat w a).sshiftRight k).toNat := by
  rw [Int.fdiv_eq_ediv_of_nonneg _ (Int.natCast_nonneg _), ← Int.shiftRight_eq_div_pow, toSigned_eq_toInt, ofSigned_eq_toNat,
    BitVec.sshiftRight]

theorem aluSar_eq (w : Nat) (f : Word) (x a k : Nat) : aluSar w f [x, a, k] =
    aluRes w f ((BitVec.ofNat w a).sshiftRight (shiftBy w k)).toNat (decide (1 ≤ k ∧ k ≤ w) && bitOf a (k - 1)) false := by
  rw [← ofSigned_fdiv, ← shift_carry w k (fun m => bitOf a (m - 1))]
  rfl

/-- SAR shifts copies of the sign bit in (R239). -/
theorem aluSar_is (x a k : Nat) : ∃ r,
    AluIs w f (aluSar w f [x, a, k]) r (decide (1 ≤ k ∧ k ≤ w) && bitOf a (k - 1)) false ∧ r < 2 ^ w
      ∧ ∀ j < w, bitOf r j = if j + k < w then bitOf a (j + k) else bitOf a (w - 1) := by
  refine ⟨_, aluSar_eq w f x a k ▸ aluRes_is (BitVec.isLt _) _ _, BitVec.isLt _, fun j hj => ?_⟩
  simp only [bitOf_eq_testBit, BitVec.testBit_toNat, BitVec.getLsbD_sshiftRight, BitVec.msb_eq_getLsbD_last,
    BitVec.getLsbD_ofNat, decide_eq_false (Nat.not_le.mpr hj), Bool.not_false, Bool.true_and, Nat.add_comm j k]
  rcases Nat.lt_or_ge (k + j) w with h | h
  · simp [shiftBy_of_le (show k ≤ w by omega), h]
  · have hfar : ¬ shiftBy w k + j < w := by
      rcases Nat.lt_or_ge w k with hk | hk
      · rw [shiftBy_of_lt hk]; omega
      · rw [shiftBy_of_le hk]; omega
    simp only [hfar, Nat.not_lt.mpr h, if_false, decide_eq_true (show w - 1 < w by omega), Bool.true_and]

/-! ## Rotations -/

/-- The value of a rotation to the left by `m` bits. -/
def rotl (w a m : Nat) : Nat := (a * 2 ^ m % 2 ^ w) ||| (a / 2 ^ (w - m))

theorem rotl_lt (ha : a < 2 ^ w) (m : Nat) : rotl w a m < 2 ^ w :=
  Nat.or_lt_two_pow (Nat.mod_lt _ (Nat.two_pow_pos w)) (Nat.lt_of_le_of_lt (Nat.div_le_self ..) ha)

theorem rotl_zero (ha : a < 2 ^ w) : rotl w a 0 = a := by
  rw [rotl, Nat.pow_zero, Nat.mul_one, Nat.mod_eq_of_lt ha, Nat.sub_zero, Nat.div_eq_of_lt ha, Nat.or_zero]

theorem rotl_width (w a : Nat) : rotl w a w = a := by
  rw [rotl, Nat.mul_mod_left, Nat.sub_self, Nat.pow_zero, Nat.div_one, Nat.zero_or]

/-- A rotation to the left by `m` moves bit `j` to bit `(j + m) mod w`. -/
theorem testBit_rotl {m j : Nat} (ha : a < 2 ^ w) (hm : m ≤ w) (hj : j < w) :
    (rotl w a m).testBit ((j + m) % w) = a.testBit j := by
  rw [rotl, Nat.testBit_or, Nat.testBit_mod_two_pow, Nat.testBit_mul_two_pow, Nat.testBit_div_two_pow]
  rcases Nat.lt_or_ge (j + m) w with h | h
  · have hhigh : a.testBit (j + m + (w - m)) = false :=
      Nat.testBit_lt_two_pow (Nat.lt_of_lt_of_le ha (Nat.pow_le_pow_right (by decide) (by omega)))
    rw [Nat.mod_eq_of_lt h, Nat.add_sub_cancel, hhigh]
    simp [h]
  · have hmod : (j + m) % w = j + m - w := by rw [Nat.mod_eq_sub_mod h, Nat.mod_eq_of_lt (by omega)]
    rw [hmod, show j + m - w + (w - m) = j by omega]
    simp [show ¬ m ≤ j + m - w by omega]

/-- The last bit moved across the end of a rotation to the left is bit 0 (R239). -/
theorem testBit_rotl_first {m : Nat} (ha : a < 2 ^ w) (hm : m ≤ w) (h0 : m ≠ 0) :
    (rotl w a m).testBit 0 = a.testBit (w - m) := by
  have hbit := testBit_rotl ha hm (j := w - m) (by omega)
  rwa [Nat.sub_add_cancel hm, Nat.mod_self] at hbit

/-- The last bit moved across the end of a rotation to the right by `m` is bit `w - 1` (R239). -/
theorem testBit_rotl_last {m : Nat} (ha : a < 2 ^ w) (hm : m ≤ w) (h0 : m ≠ 0) :
    (rotl w a (w - m)).testBit (w - 1) = a.testBit (m - 1) := by
  have hbit := testBit_rotl ha (Nat.sub_le w m) (j := m - 1) (by omega)
  rwa [show m - 1 + (w - m) = w - 1 by omega, Nat.mod_eq_of_lt (by omega)] at hbit

theorem aluRol_eq (hw : 0 < w) (ha : a < 2 ^ w) (f : Word) (x k : Nat) : aluRol w f [x, a, k] =
    aluRes w f (rotl w a (k % w)) (k % w ≠ 0 && bitOf a (w - k % w)) false := by
  have hk : k % w ≤ w := Nat.le_of_lt (Nat.mod_lt k hw)
  by_cases h0 : k % w = 0
  · rw [show aluRol w f [x, a, k] = _ from if_pos h0, h0, rotl_zero ha]
    rfl
  · rw [show aluRol w f [x, a, k] = _ from if_neg h0, bitOf_eq_testBit a, ← testBit_rotl_first ha hk h0, ← bitOf_eq_testBit,
      decide_eq_true h0]
    rfl

theorem aluRor_eq (hw : 0 < w) (ha : a < 2 ^ w) (f : Word) (x k : Nat) : aluRor w f [x, a, k] =
    aluRes w f (rotl w a (w - k % w)) (k % w ≠ 0 && bitOf a (k % w - 1)) false := by
  have hk : k % w ≤ w := Nat.le_of_lt (Nat.mod_lt k hw)
  by_cases h0 : k % w = 0
  · rw [show aluRor w f [x, a, k] = _ from if_pos h0, h0, Nat.sub_zero, rotl_width]
    rfl
  · have hrot : (a / 2 ^ (k % w)) ||| (a * 2 ^ (w - k % w) % 2 ^ w) = rotl w a (w - k % w) := by
      rw [rotl, Nat.sub_sub_self hk, Nat.or_comm]
    rw [bitOf_eq_testBit a, ← testBit_rotl_last ha hk h0, ← bitOf_eq_testBit, decide_eq_true h0, Bool.true_and, ← hrot]
    exact if_neg h0

/-- ROL moves each bit `k mod w` up, with c the last one moved across the end (R239). -/
theorem aluRol_is (hw : 0 < w) (ha : a < 2 ^ w) (x k : Nat) : ∃ r,
    AluIs w f (aluRol w f [x, a, k]) r (k % w ≠ 0 && bitOf a (w - k % w)) false ∧ r < 2 ^ w
      ∧ ∀ j < w, bitOf r ((j + k) % w) = bitOf a j := by
  refine ⟨_, aluRol_eq hw ha f x k ▸ aluRes_is (rotl_lt ha _) _ _, rotl_lt ha _, fun j hj => ?_⟩
  rw [bitOf_eq_testBit, bitOf_eq_testBit, ← Nat.add_mod_mod, testBit_rotl ha (Nat.le_of_lt (Nat.mod_lt k hw)) hj]

/-- ROR moves each bit `k mod w` down, with c the last one moved across the end (R239). -/
theorem aluRor_is (hw : 0 < w) (ha : a < 2 ^ w) (x k : Nat) : ∃ r,
    AluIs w f (aluRor w f [x, a, k]) r (k % w ≠ 0 && bitOf a (k % w - 1)) false ∧ r < 2 ^ w
      ∧ ∀ j < w, bitOf r j = bitOf a ((j + k) % w) := by
  refine ⟨_, aluRor_eq hw ha f x k ▸ aluRes_is (rotl_lt ha _) _ _, rotl_lt ha _, fun j hj => ?_⟩
  have hk : k % w ≤ w := Nat.le_of_lt (Nat.mod_lt k hw)
  have hback : ((j + k) % w + (w - k % w)) % w = j := by
    rw [Nat.mod_add_mod, Nat.add_assoc, ← Nat.add_mod_mod, ← Nat.mod_add_mod k, Nat.add_sub_cancel' hk, Nat.mod_self,
      Nat.add_zero, Nat.mod_eq_of_lt hj]
  rw [bitOf_eq_testBit, bitOf_eq_testBit, ← testBit_rotl ha (Nat.sub_le w (k % w)) (Nat.mod_lt (j + k) hw), hback]

/-! ## Counts -/

theorem bitOf_succ (v i : Nat) : bitOf v (i + 1) = bitOf (v / 2) i := by
  rw [bitOf_eq_testBit, bitOf_eq_testBit, Nat.testBit_succ]

theorem popCount_eq (n : Nat) : ∀ v, popCount n v = (List.range n).countP (bitOf v) := by
  induction n with
  | zero => exact fun _ => rfl
  | succ n ih =>
    intro v
    have hbit : (if bitOf v 0 then 1 else 0) = v % 2 := by
      rcases Nat.mod_two_eq_zero_or_one v with h | h <;> simp [bitOf, h]
    rw [popCount, ih, List.range_succ_eq_map, List.countP_cons, List.countP_map, hbit, Nat.add_comm]
    exact congrArg (· + _) (List.countP_congr fun i _ => by rw [Function.comp_apply, bitOf_succ])

theorem countP_range_lt (w : Nat) (p : Nat → Bool) : (List.range w).countP p < 2 ^ w :=
  Nat.lt_of_le_of_lt (Nat.le_trans List.countP_le_length (Nat.le_of_eq List.length_range)) Nat.lt_two_pow_self

/-- The zero bits above the first set one (R240). -/
theorem leadZeros_spec : ∀ {n v : Nat}, v < 2 ^ n → leadZeros n v ≤ n ∧ (v = 0 → leadZeros n v = n)
    ∧ (v ≠ 0 → leadZeros n v < n ∧ 2 ^ (n - 1 - leadZeros n v) ≤ v ∧ v < 2 ^ (n - leadZeros n v)) := by
  intro n
  induction n with
  | zero => intro v hv; simp [leadZeros]; omega
  | succ n ih =>
    intro v hv
    rw [leadZeros, bitOf_eq_testBit]
    cases hbit : v.testBit n with
    | true =>
      have hge := Nat.ge_two_pow_of_testBit hbit
      refine ⟨by simp, fun h0 => ?_, fun _ => by simpa using ⟨hge, hv⟩⟩
      rw [h0, Nat.zero_testBit] at hbit
      exact absurd hbit (by decide)
    | false =>
      have hlt : v < 2 ^ n := by
        refine Nat.lt_pow_two_of_testBit v fun i hi => ?_
        rcases Nat.eq_or_lt_of_le hi with rfl | hi
        · exact hbit
        · exact Nat.testBit_lt_two_pow (Nat.lt_of_lt_of_le hv (Nat.pow_le_pow_right (by decide) hi))
      obtain ⟨hle, hzero, hset⟩ := ih hlt
      simp only [Bool.false_eq_true, if_false]
      refine ⟨by omega, fun h0 => by have := hzero h0; omega, fun h0 => ?_⟩
      obtain ⟨hn, hlow, hhigh⟩ := hset h0
      rw [show n + 1 - 1 - (1 + leadZeros n v) = n - 1 - leadZeros n v by omega,
        show n + 1 - (1 + leadZeros n v) = n - leadZeros n v by omega]
      exact ⟨by omega, hlow, hhigh⟩

/-- The zero bits below the first set one (R240). -/
theorem trailZeros_spec : ∀ {n v : Nat}, v < 2 ^ n → trailZeros n v ≤ n ∧ (v = 0 → trailZeros n v = n)
    ∧ (v ≠ 0 → trailZeros n v < n ∧ bitOf v (trailZeros n v) = true ∧ v % 2 ^ trailZeros n v = 0) := by
  intro n
  induction n with
  | zero => intro v hv; simp [trailZeros]; omega
  | succ n ih =>
    intro v hv
    rw [trailZeros]
    by_cases hodd : v % 2 = 1
    · rw [if_pos hodd]
      refine ⟨by omega, by omega, fun _ => ⟨by omega, ?_, by omega⟩⟩
      simp [bitOf, hodd]
    · obtain ⟨hle, hzero, hset⟩ := ih (v := v / 2) (by rw [Nat.pow_succ] at hv; omega)
      rw [if_neg hodd]
      refine ⟨by omega, fun h0 => by have := hzero (by omega); omega, fun h0 => ?_⟩
      obtain ⟨hn, hbit, hlow⟩ := hset (by omega)
      rw [Nat.add_comm 1, bitOf_succ, Nat.pow_succ', Nat.mod_mul, hlow]
      exact ⟨by omega, hbit, by omega⟩

/-! ## Bit fields -/

/-- EXT takes the field's bits, and none beyond the value (R240). -/
theorem aluExt_is (x a k : Nat) (hlen : bits k 15 8 ≠ 0) : ∃ r, AluIs w f (aluExt w f [x, a, k]) r false false ∧ r < 2 ^ w
    ∧ ∀ j < w, bitOf r j = (decide (j < bits k 15 8) && bitOf a (bits k 7 0 + j)) := by
  rw [show aluExt w f [x, a, k] = _ from if_neg hlen]
  refine ⟨_, aluRes_mod_is .., Nat.mod_lt _ (Nat.two_pow_pos w), fun j hj => ?_⟩
  simp [bitOf_eq_testBit, Nat.testBit_mod_two_pow, Nat.testBit_div_two_pow, hj, opv, Nat.add_comm]

/-- INS replaces the field's bits below the width (R240). -/
theorem aluIns_is (a b k : Nat) (hlen : bits k 15 8 ≠ 0) : ∃ r, AluIs w f (aluIns w f [a, b, k]) r false false ∧ r < 2 ^ w
    ∧ ∀ j < w, bitOf r j =
      if bits k 7 0 ≤ j ∧ j < bits k 7 0 + bits k 15 8 then bitOf b (j - bits k 7 0) else bitOf a j := by
  rw [show aluIns w f [a, b, k] = _ from if_neg hlen]
  refine ⟨_, aluRes_mod_is .., Nat.mod_lt _ (Nat.two_pow_pos w), fun j hj => ?_⟩
  have hfield : (decide (bits k 7 0 ≤ j) && decide (j - bits k 7 0 < bits k 15 8)) =
      decide (bits k 7 0 ≤ j ∧ j < bits k 7 0 + bits k 15 8) := by rw [← Bool.decide_and, decide_eq_decide]; omega
  simp only [opv, List.getD_cons_succ, List.getD_cons_zero, bitOf_eq_testBit, Nat.testBit_mod_two_pow, Nat.testBit_or,
    Nat.testBit_and, testBit_compl hj, Nat.testBit_mul_two_pow, Nat.testBit_two_pow_sub_one, hfield, hj, decide_true,
    Bool.true_and]
  split
  case isTrue hin => simp [hin]
  case isFalse hout => simp [decide_eq_false hout]

theorem testBit_two_pow_beq (n j : Nat) : (2 ^ n).testBit j = (j == n) := by
  rw [Nat.testBit_two_pow, Bool.eq_iff_iff, decide_eq_true_eq, beq_iff_eq, eq_comm]

/-- BSET sets bit n mod w, and BCLR clears it (R240). -/
theorem aluBset_is (hw : 0 < w) (ha : a < 2 ^ w) (k : Nat) : ∃ r g, aluBset w f [a, k] = some ⟨[(0, r)], g⟩
    ∧ flagsAre f g (!bitOf a (k % w)) false (bitOf a (k % w)) false ∧ r < 2 ^ w
    ∧ ∀ j < w, bitOf r j = (j == k % w || bitOf a j) := by
  refine ⟨_, _, rfl, flagsAre_setZncv .., Nat.or_lt_two_pow ha (Nat.pow_lt_pow_right (by decide) (Nat.mod_lt k hw)),
    fun j _ => ?_⟩
  simp only [opv, List.getD_cons_succ, List.getD_cons_zero, bitOf_eq_testBit, Nat.testBit_or, testBit_two_pow_beq]
  exact Bool.or_comm ..

theorem aluBclr_is (ha : a < 2 ^ w) (k : Nat) : ∃ r g, aluBclr w f [a, k] = some ⟨[(0, r)], g⟩
    ∧ flagsAre f g (!bitOf a (k % w)) false (bitOf a (k % w)) false ∧ r < 2 ^ w
    ∧ ∀ j < w, bitOf r j = (j != k % w && bitOf a j) := by
  refine ⟨_, _, rfl, flagsAre_setZncv .., Nat.lt_of_le_of_lt Nat.and_le_left ha, fun j hj => ?_⟩
  simp only [opv, List.getD_cons_succ, List.getD_cons_zero, bitOf_eq_testBit, Nat.testBit_and, testBit_compl hj,
    testBit_two_pow_beq]
  exact Bool.and_comm ..

/-- Settles O28: each shift, rotation, count and bit field has its lemma. -/
theorem aluShiftsAndFields : Obligations.AluShiftsAndFields := by
  unfold Obligations.AluShiftsAndFields
  intro w f x a b k hw ha hb
  obtain ⟨hclzLe, hclzZero, hclz⟩ := leadZeros_spec ha
  obtain ⟨hctzLe, hctzZero, hctz⟩ := trailZeros_spec ha
  have hwidth : w < 2 ^ w := Nat.lt_two_pow_self
  refine ⟨?shl, ?shr, aluSar_is x a k, aluRol_is hw ha x k, aluRor_is hw ha x k, ?popc,
    ⟨_, aluRes_is (Nat.lt_of_le_of_lt hclzLe hwidth) _ _, hclzZero, hclz⟩,
    ⟨_, aluRes_is (Nat.lt_of_le_of_lt hctzLe hwidth) _ _, hctzZero, hctz⟩,
    fun hlen => ⟨if_pos hlen, if_pos hlen⟩, fun hlen => ⟨aluExt_is x a k hlen, aluIns_is a b k hlen⟩,
    ⟨_, rfl, flagsAre_setZncv ..⟩, aluBset_is hw ha k, aluBclr_is ha k⟩
  case shl =>
    rw [← shiftBy_mul, ← shift_carry w k (fun m => bitOf a (w - m))]
    exact aluRes_mod_is ..
  case shr =>
    rw [← shiftBy_div ha, ← shift_carry w k (fun m => bitOf a (m - 1))]
    exact aluRes_is (Nat.lt_of_le_of_lt (Nat.div_le_self ..) ha) _ _
  case popc =>
    rw [← popCount_eq]
    exact aluRes_is (popCount_eq w a ▸ countP_range_lt w _) _ _

end Sys2Proof.Machine
end

section
/-! PROOF. Control transfer (R241, R242): what an instruction that sets its own PC leaves. -/

namespace Sys2Proof.Machine

variable {d e : Dev} {id : Tid} {i : Dec} {evs : List Ev1} {b : Map Word}

/-! ## The thread that issues -/

/-- A thread that issues is READY on the device it issues on. -/
theorem Dev.ready_of_issuesOn (h : d.issuesOn id i e evs b) : (e.thr id).state = .ready := by
  obtain ⟨-, hthr, -⟩ := (Dev.passes_issuesOn h).leaves
  exact (congrArg Thread.state (hthr id)).trans h.1.2.1

/-- A READY thread is not at reset. -/
theorem Thread.ne_init_of_ready {t : Thread} (h : t.state = .ready) : t ≠ Thread.init :=
  fun hinit => TState.noConfusion (h.symm.trans (congrArg Thread.state hinit))

/-- Two changes of a thread that the first leaves READY are one. -/
theorem Dev.updThr_updThr_ready (d : Dev) {g : Thread → Thread} (k : Thread → Thread) (h : (g (d.thr id)).state = .ready) :
    (d.updThr id g).updThr id k = d.updThr id (fun t => k (g t)) := Dev.updThr_updThr d id g k (Thread.ne_init_of_ready h)

/-- A READY thread that jumps goes on from there, or halts there if it was asked to. -/
theorem Dev.goto_after (h : (d.thr id).state = .ready) (a : Nat) :
    (d.goto id a).updThr id Thread.after = d.updThr id (fun t => { t with pc := w32 a }.after) :=
  d.updThr_updThr_ready _ h

theorem Dev.ready_setBases (h : d.issuesOn id i e evs b) : ((e.setBases id b).thr id).state = .ready := by
  rw [Dev.setBases, Dev.thr_updThr_same]
  exact Dev.ready_of_issuesOn h

/-- The bases and a jump are one change of the thread. -/
theorem Dev.setBases_goto_after (h : d.issuesOn id i e evs b) (a : Nat) :
    ((e.setBases id b).goto id a).updThr id Thread.after = e.updThr id (fun t => { t with b := b, pc := w32 a }.after) := by
  rw [Dev.goto_after (Dev.ready_setBases h)]
  exact e.updThr_updThr_ready _ (Dev.ready_of_issuesOn h)

/-- A result written to an operand leaves of its thread all but the shelf. -/
theorem Dev.thr_putOp (d : Dev) (id : Tid) (op width : Nat) (c : WClass) (x : Ev1) (v : Nat) : ∃ mem,
    (d.putOp id op width c x v).thr id = { d.thr id with mem := mem } := Dev.thr_writeLoc ..

/-- A jump after a result is written. -/
theorem Dev.putOp_goto_after (h : d.issuesOn id i e evs b) (op width : Nat) (c : WClass) (x : Ev1) (v a : Nat) :
    (((e.setBases id b).putOp id op width c x v).goto id a).updThr id Thread.after =
      ((e.setBases id b).putOp id op width c x v).updThr id (fun t => { t with pc := w32 a }.after) := by
  refine Dev.goto_after ?_ a
  obtain ⟨mem, hput⟩ := Dev.thr_putOp (e.setBases id b) id op width c x v
  rw [hput]
  exact Dev.ready_setBases h

/-! ## The instructions -/

/-- Where the target `x` of instruction `i` leads: from the next instruction in mode 0, else an offset (R241). -/
def Dev.dest (d : Dev) (id : Tid) (i : Dec) (x : Ev1) : Nat :=
  if x.o.mode = 0 then ofSigned 32 ((addr32 ((d.thr id).pc.toNat + i.len) : Int) + toSigned x.o.bits x.o.imm) else x.val

theorem Dev.nextPc_setBases (d : Dev) (id : Tid) (i : Dec) (b : Map Word) :
    (d.setBases id b).nextPc id i = addr32 ((d.thr id).pc.toNat + i.len) := by
  rw [Dev.nextPc, Dev.setBases, Dev.thr_updThr_same]

theorem Dev.target_setBases (d : Dev) (id : Tid) (i : Dec) (b : Map Word) (x : Ev1) :
    (d.setBases id b).target id i x = d.dest id i x := by
  rw [Dev.target, Dev.nextPc_setBases, Dev.dest]

/-- An instruction that sets its own PC runs its effect, and the thread goes on or halts. -/
theorem Dev.issueGoto_runs (h : d.issuesOn id i e evs b) {opc : Nat} (hop : i.op = opc) {sem : Sem} {r : Dev}
    (hr : sem (e.setBases id b) id i evs = .ok r) : d.issueGoto id opc sem = r.updThr id Thread.after := by
  rw [Dev.issueGoto, Dev.issueWith_runs h.1 _ _ hop, Dev.perform_runs h _ _ _ _ _ hr]

/-- A branch goes to its target or to the next instruction, as its condition of FLAGS says (R241). -/
theorem Dev.issueGoto_branch {x : Ev1} (h : d.issuesOn id i e [x] b) {opc : Nat} (hop : i.op = opc) (c : Word → Bool) :
    d.issueGoto id opc (semBranch c) = e.updThr id (fun t =>
      { t with b := b, pc := w32 (if c (e.thr id).flags then e.dest id i x else addr32 ((e.thr id).pc.toNat + i.len)) }.after) := by
  rw [Dev.issueGoto_runs h hop rfl, Dev.setBases_goto_after h, Dev.target_setBases, Dev.nextPc_setBases, Dev.setBases,
    Dev.thr_updThr_same]

/-- The branches that write nothing run under their own opcode and condition. -/
theorem exec_branchRow : ∀ row ∈ branchRows, ∀ id s,
    exec (row.1 id) s = .next (s.withDev (s.dev.issueGoto id row.2.1 (semBranch row.2.2))) := by
  simp only [branchRows, List.forall_mem_cons, List.not_mem_nil, false_implies, implies_true, and_true]
  and_intros <;> exact fun _ _ => rfl

/-- Settles O29: a branch, CALL, RET and DBNZ each set the PC after their result, if any, is written. -/
theorem controlTransfer : Obligations.ControlTransfer := by
  unfold Obligations.ControlTransfer
  refine ⟨fun s id i e evs b h => ?_, fun f z n c v hz hn hc hv => by subst hz hn hc hv; rfl⟩
  intro next dest
  refine ⟨fun row hrow x hop hevs => ?branch, fun x y hop hevs => ?call, fun x hop hevs => ?ret, fun x y hop hevs => ?dbnz⟩
  all_goals subst hevs
  case branch => exact exec_withDev_congr (exec_branchRow row hrow id s) (Dev.issueGoto_branch h hop _)
  case call =>
    refine exec_withDev_congr rfl ((Dev.issueGoto_runs h hop rfl).trans ?_)
    rw [Dev.putOp_goto_after h, Dev.target_setBases, Dev.nextPc_setBases, hop]
    rfl
  case ret => exact exec_withDev_congr rfl ((Dev.issueGoto_runs h hop rfl).trans (Dev.setBases_goto_after h _))
  case dbnz =>
    refine exec_withDev_congr rfl ((Dev.issueGoto_runs h hop rfl).trans ?_)
    rw [Dev.putOp_goto_after h, Dev.target_setBases, Dev.nextPc_setBases, hop]
    rfl

end Sys2Proof.Machine
end

section
/-! PROOF. SESS commands: acceptance (R12, R146, R258), what each does at its boundary (R129, R139, R141, R143), and the end of a
session (R131, R139). -/

namespace Sys2Proof.Machine

variable {d e : Dev} {id : Tid} {i : Dec} {b : Map Word} {n : Nat} {s : Session} {c : SessCmd}

/-! ## Acceptance -/

/-- A thread's command of one of the ops `mine` is accepted, and the thread waits for its completion (R258). -/
theorem Dev.issueSess_waits {x y : Ev1} (h : d.issuesOn id i e [x, y] b) (hop : i.op = 0xE5) {mine : Nat → Bool}
    (hmine : mine (bits x.val 31 0 % 16) = true) : d.issueSess id mine =
      (e.sessAccept (.thread id) ((List.range 16).map (fun k => bits x.val (32 * k + 31) (32 * k)))).startWait id
        ⟨.sess, y.loc, .imm 0, 0, 0, 0, e.nextPc id i, e.drip.now, b⟩ := by
  rw [Dev.issueSess, Dev.issueWith_runs h.1 _ _ hop, Dev.withOps_runs h]
  exact if_neg (by simpa [List.range_succ_eq_map] using hmine)

/-- A master's command of one of the ops `mine` is accepted where its registers are not busy, else turned away (R12, R146). -/
theorem Dev.goSess_answers {m : Nat} (hm : m = 2 ∨ m = 3) (hs : d.serving = true) (hp : d.noPath m = false) {mine : Nat → Bool}
    (hmine : mine (d.per m R.sessCmd % 16) = true) : d.goSess m mine =
      if bitOf (d.per m R.sessCmdStat) 0 then d.refuse m R.sessCmdGo
        (if (SessCmd.mk (.master m) (d.perWords m R.sessCmd 16) []).bad then Code.reserved else Code.busyRetry)
      else (d.sessAccept (.master m) (d.perWords m R.sessCmd 16)).setStat m R.sessCmdStat true 0 := by
  have hnamed : m ∈ [2, 3] := by simpa using hm
  have hfirst : (d.perWords m R.sessCmd 16).getD 0 0 = d.per m R.sessCmd := rfl
  rw [Dev.goSess, Dev.doorbell_acts d m _ _ 1 1 _ hp (Dev.blockOpen_of_serving d hs _) (.inr hnamed) (by decide)]
  rw [← hfirst] at hmine
  exact if_neg (by simpa using hmine)

/-- Each row takes the commands of its op. -/
theorem exec_sessRow : ∀ row ∈ sessRows, ∃ mine : Nat → Bool, mine row.2 = true
    ∧ ∀ who s, exec (row.1 who) s = .next (s.withDev (s.dev.sessBy who mine)) := by
  simp only [sessRows, List.forall_mem_cons, List.not_mem_nil, false_implies, implies_true, and_true]
  and_intros <;> exact ⟨_, rfl, fun _ _ => rfl⟩

/-! ## At the boundary -/

/-- What makes a command reserved (R146). -/
theorem SessCmd.bad_iff : c.bad = true ↔ 5 ≤ c.word 0 % 16 ∨ bitOf (c.word 0) 31 = true ∨ c.word 15 ≠ 0
    ∨ (c.word 0 % 16 = 1 ∧ 1 < bits (c.word 0) 27 26) := by
  simp [SessCmd.bad, or_assoc]

theorem Dev.sessDo_bad (h : c.bad = true) : d.sessDo c = ⟨Code.reserved, 0, d⟩ := if_pos h

section
variable (hbad : c.bad = false)
include hbad

/-- A command of a session that does not exist (R146). -/
theorem Dev.sessDo_none (h2 : 2 ≤ c.word 0 % 16) (hs : d.ses (bits (c.word 0) 25 4) = none) :
    d.sessDo c = ⟨Code.reserved, 0, d⟩ := by
  simp [Dev.sessDo, hbad, hs, show c.word 0 % 16 ≠ 0 by omega, show c.word 0 % 16 ≠ 1 by omega, Dev.sessNo]

variable (hs : d.ses (bits (c.word 0) 25 4) = some s)
include hs

/-- A command by an issuer that may not command the session (R146). -/
theorem Dev.sessDo_notHolder (h2 : 2 ≤ c.word 0 % 16) (hm : d.maySess c (bits (c.word 0) 25 4) s = false) :
    d.sessDo c = ⟨Code.notHolder, 0, d⟩ := by
  simp [Dev.sessDo, hbad, hs, hm, show c.word 0 % 16 ≠ 0 by omega, show c.word 0 % 16 ≠ 1 by omega, Dev.sessNo]

variable (hm : d.maySess c (bits (c.word 0) 25 4) s = true)
include hm

theorem Dev.sessDo_install (hop : c.word 0 % 16 = 1) (hin : bitOf (c.word 0) 30 = false) :
    d.sessDo c = d.sessInstall c (bits (c.word 0) 25 4) s := by
  simp [Dev.sessDo, hbad, hs, hm, hop, hin]

theorem Dev.sessDo_keyUpdate (hop : c.word 0 % 16 = 2) : d.sessDo c = d.sessKeyUpdate (bits (c.word 0) 25 4) s := by
  simp [Dev.sessDo, hbad, hs, hm, hop]

theorem Dev.sessDo_close (hop : c.word 0 % 16 = 3) : d.sessDo c = d.sessClose (bits (c.word 0) 25 4) s := by
  simp [Dev.sessDo, hbad, hs, hm, hop]

theorem Dev.sessDo_abort (hop : c.word 0 % 16 = 4) : d.sessDo c = d.sessAbort (bits (c.word 0) 25 4) s := by
  simp [Dev.sessDo, hbad, hs, hm, hop]

end

/-! ## What each command does -/

/-- A secret takes effect in its direction, and what waited for it is delivered (R141, R145). -/
theorem Dev.sessInstall_takes (htls : s.id.tls = true) (hst : s.state = .handshake ∨ s.state = .established)
    (hk : c.secret ≠ []) :
    let t := s.tls.install (bitOf (c.word 0) 28) (b2n (bitOf (c.word 0) 29)) (bits (c.word 0) 27 26 + 1) c.secret
    d.sessInstall c n s = ⟨Code.ok, 0, (d.setSes n { s with tls := t }.settle).keysLive n⟩ :=
  if_neg (by rcases hst with hst | hst <;> simp [htls, hst, hk])

/-- A KeyUpdate is sent under the old secret, and the next one begins (R143). -/
theorem Dev.sessKeyUpdate_takes {k : Bytes} (hk : s.tls.txSecret = some k) (hp : s.tls.txPhase = 2) (hi : s.isInner = false)
    (hc : s.state ≠ .closed) : d.sessKeyUpdate n s = ⟨Code.ok, 0, (d.setSes n ({ s with
      tls := { s.tls with txSecret := some (nextSecret s.tls.txSuite k), txNum := 0 } }.queueStream Chain.null
      (sealRecord s.tls.txSuite k s.tls.txNum 22 [24, 0, 0, 1, 0]))).pumpOut n⟩ := by
  simp [Dev.sessKeyUpdate, hk, hp, hi, hc]

theorem Dev.sessClose_syn (hst : s.state = .syn) : d.sessClose n s = ⟨Code.ok, 0, d.closeSes n⟩ := by
  simp [Dev.sessClose, hst]

/-- A session without TLS closes with its FIN (R131). -/
theorem Dev.sessClose_established (hst : s.state = .established) (hi : s.isInner = false) (htls : s.id.tls = false) :
    ∃ s', d.sessClose n s = ⟨Code.ok, 0, (d.setSes n s').pumpOut n⟩ ∧ s'.state = .closing ∧ s'.tx.finAsked = true := by
  refine ⟨{ s with tls := (d.alert d.sesGen s 1 0).2, state := .closing, tx := { s.tx with finAsked := true } }, ?_, rfl, rfl⟩
  simp [Dev.sessClose, hst, hi, htls]

/-! ## The end of a session -/

/-- A session that frees its chains keeps its identity and its record layer (R139). -/
theorem Dev.ses_freeSes (hs : d.ses n = some s) : (d.freeSes n).ses n = some { s with
    tx := { s.tx with items := [], sendq := [], segs := [], timer := none },
    rx := { s.rx with ooo := [], held := [], hsWait := [], chain := Chain.null, buf := [], ackPend := 0 } } := by
  simp only [Dev.freeSes, hs, Dev.ses_setSes]

/-- A CLOSED session holds no data, and the drip of its end (R131). -/
theorem Dev.ses_closeSes (hs : d.ses n = some s) : (d.closeSes n).ses n = some { s with
    state := .closed, closedAt := d.drip.now,
    tx := { s.tx with items := [], sendq := [], segs := [], timer := none },
    rx := { s.rx with ooo := [], held := [], hsWait := [], chain := Chain.null, buf := [], ackPend := 0 } } := by
  simp only [Dev.closeSes, Dev.updSes, Dev.ses_freeSes hs, Dev.ses_setSes]

theorem Dev.abortSes_closed (hs : d.ses n = some s) (hc : s.state = .closed) (gen : Nat) (quiet : Bool) (desc : Option Nat) :
    d.abortSes n gen quiet desc = d := by
  simp [Dev.abortSes, hs, hc]

/-- An abort without an alert sends RST (R139). -/
theorem Dev.abortSes_resets (hs : d.ses n = some s) (hc : s.state ≠ .closed) (hi : s.isInner = false) {quiet : Bool}
    (hq : s.id.tls = false ∨ quiet = true ∨ s.state = .syn) (gen : Nat) (desc : Option Nat) : d.abortSes n gen quiet desc =
      (((d.pushSes n s s.rstFrame).closeSes n).bump (R.sessCnt + 20)).notifySes n gen := by
  rcases hq with h | h | h <;> simp [Dev.abortSes, hs, hc, hi, h, Dev.sessCount]

/-- An abort of a session with TLS sends a fatal alert ahead of the RST (R139). -/
theorem Dev.abortSes_alerts (hs : d.ses n = some s) (hc : s.state ≠ .closed) (hi : s.isInner = false) (htls : s.id.tls = true)
    (hsyn : s.state ≠ .syn) (gen : Nat) (desc : Option Nat) :
    let a := d.alert gen s 2 (desc.getD (d.freeVal % 256))
    let s' : Session := { s with tls := a.2, tx := { s.tx with nxt := add32 s.tx.nxt a.1.length } }
    d.abortSes n gen false desc
      = (((((d.freeStep.pushSes n s (fun v => s.frame v s.tx.nxt s.rx.nxt 0x18 (s.tsOpt v) a.1)).setSes n s').pushSes n s'
        s'.rstFrame).closeSes n).bump (R.sessCnt + 20)).notifySes n gen := by
  simp [Dev.abortSes, hs, hc, hi, htls, hsyn, Dev.sessCount]

/-! ## The obligation -/

/-- Settles O17: acceptance by a thread and by a master, the commands by their ops, and the end of a session. -/
theorem sessCommands : Obligations.SessCommands := by
  unfold Obligations.SessCommands
  refine ⟨fun row hrow s => ⟨fun id i e x y b h hop hrow2 => ?thread, fun m hm hs hp hrow2 => ?master⟩,
    fun d who w n ws secret hn => ?boundary, fun d n gen s hs => ⟨?closed, fun hc => Dev.abortSes_closed hs hc gen,
      fun hc hi quiet desc => ⟨fun hq => Dev.abortSes_resets hs hc hi hq gen desc, fun htls hq hsyn => ?alert⟩⟩⟩
  case thread =>
    obtain ⟨mine, hmine, hexec⟩ := exec_sessRow row hrow
    exact exec_withDev_congr (hexec _ s) (Dev.issueSess_waits h hop (hrow2 ▸ hmine))
  case master =>
    obtain ⟨mine, hmine, hexec⟩ := exec_sessRow row hrow
    exact exec_withDev_congr (hexec _ s) (Dev.goSess_answers hm hs hp (hrow2 ▸ hmine))
  case boundary =>
    intro c
    refine ⟨fun hbad => Dev.sessDo_bad (SessCmd.bad_iff.mpr hbad), fun h31 h15 => ?_⟩
    have hgood (h4 : w % 16 ≤ 4) (h1 : w % 16 = 1 → bits w 27 26 ≤ 1) : c.bad = false := by
      refine Bool.eq_false_iff.mpr fun hbad => ?_
      rcases SessCmd.bad_iff.mp hbad with h5 | hr | hw | ⟨hi, hph⟩
      · exact absurd (show 5 ≤ w % 16 from h5) (by omega)
      · exact Bool.noConfusion (h31.symm.trans hr)
      · exact hw h15
      · exact absurd (h1 hi) (Nat.not_le.mpr hph)
    subst hn
    refine ⟨fun hs h2 h4 => Dev.sessDo_none (hgood h4 (by omega)) h2 hs, fun s hs =>
      ⟨fun hm h2 h4 => Dev.sessDo_notHolder (hgood h4 (by omega)) hs h2 hm,
        fun hm => ⟨?install, ?keyUpdate, ?syn, ?close, ?abort⟩⟩⟩
    case install =>
      intro hop hin htls hst hk hph
      exact (Dev.sessDo_install (hgood (by omega) fun _ => hph) hs hm hop hin).trans (Dev.sessInstall_takes htls hst hk)
    case keyUpdate =>
      intro k hop hk hp hi hc
      exact (Dev.sessDo_keyUpdate (hgood (by omega) (by omega)) hs hm hop).trans (Dev.sessKeyUpdate_takes hk hp hi hc)
    case syn =>
      intro hop hst
      exact (Dev.sessDo_close (hgood (by omega) (by omega)) hs hm hop).trans (Dev.sessClose_syn hst)
    case close =>
      intro hop hst hi htls
      rw [Dev.sessDo_close (hgood (by omega) (by omega)) hs hm hop]
      exact Dev.sessClose_established hst hi htls
    case abort =>
      intro hop hc
      exact (Dev.sessDo_abort (hgood (by omega) (by omega)) hs hm hop).trans (if_neg hc)
  case closed => exact ⟨_, Dev.ses_closeSes hs, rfl, rfl, rfl, rfl, rfl, rfl, rfl, rfl, rfl, rfl, rfl, rfl, rfl, rfl⟩
  case alert =>
    subst hq
    exact ⟨_, Dev.abortSes_alerts hs hc hi htls hsyn gen desc, rfl, rfl, rfl⟩

end Sys2Proof.Machine
end

section
/-! PROOF. How threads stop and start again (R181, R194, R198 to R200, R227, R243, R259). -/

namespace Sys2Proof.Machine

variable {d e : Dev} {id j k : Tid} {i : Dec} {b : Map Word}

/-! ## Keepers -/

/-- Two threads of physical cores are told apart by their keys. -/
theorem tidKey_inj (hc : id.c < 9) (ht : id.t < 8) (hc' : k.c < 9) (ht' : k.t < 8) (h : tidKey k = tidKey id) : k = id := by
  obtain ⟨g, c, t⟩ := id
  obtain ⟨g', c', t'⟩ := k
  simp only [tidKey, Tid.mk.injEq] at *
  omega

/-- A keeper is thread 0 of a physical core of its gallery (R192). -/
theorem Dev.keeper_place {g : Nat} (h : d.keeper g = some k) : k.g = g ∧ k.c < 9 ∧ k.t = 0 := by
  simp only [Dev.keeper, Dev.tidAt, Dev.physOf, Option.map_eq_some_iff] at h
  obtain ⟨p, hp, rfl⟩ := h
  split at hp
  · split at hp
    · next hlt => exact ⟨rfl, Option.some.inj hp ▸ hlt, rfl⟩
    · cases hp
  · cases hp

/-! ## What an event leaves of the other threads -/

theorem Dev.thr_setLocalBytes_other (h : tidKey j ≠ tidKey id) (a : Nat) (bs : Bytes) :
    (d.setLocalBytes id a bs).thr j = d.thr j :=
  Dev.setLocalBytes_leaves (Dev.thr · j) id bs d a fun x _ _ _ => Dev.thr_setLocalByte_other h x

theorem Dev.thr_endEventWait_other (h : tidKey j ≠ tidKey id) : (d.endEventWait id).thr j = d.thr j := by
  simp only [Dev.endEventWait, Dev.endWait, apply_ite (Dev.thr · j), Dev.thr_updThr_other h, Dev.thr_setLocalBytes_other h,
    Dev.thr_writeLoc_other _ h, ite_self]

theorem Dev.thr_waitCheck_other (h : tidKey j ≠ tidKey id) : (d.waitCheck id).thr j = d.thr j := by
  unfold Dev.waitCheck
  split
  · rfl
  split
  · rw [Dev.thr_endEventWait_other h, Dev.thr_updThr_other h]
  split
  · exact Dev.thr_endEventWait_other h
  · rfl

/-- An event changes the thread it is for only. -/
theorem Dev.thr_event_other (h : tidKey j ≠ tidKey id) (bit : Nat) : (d.event id bit).thr j = d.thr j := by
  simp only [Dev.event]
  split
  · rfl
  split
  · rw [Dev.thr_waitCheck_other h, Dev.thr_updThr_other h]
  · exact Dev.thr_updThr_other h _

theorem Dev.thr_keeperEvent_other (hc : id.c < 9) (ht : id.t < 8) {g : Nat} (h : d.keeper g ≠ some id) (bit : Nat) :
    (d.keeperEvent g bit).thr id = d.thr id := by
  unfold Dev.keeperEvent
  split
  next k hk =>
    obtain ⟨-, hkc, hkt⟩ := Dev.keeper_place hk
    exact Dev.thr_event_other (fun hkey => h (tidKey_inj hc ht hkc (by omega) hkey.symm ▸ hk)) bit
  · rfl

/-- FAULT of a thread that parks comes to another thread (R194). -/
theorem Dev.thr_parkEvent (hc : id.c < 9) (ht : id.t < 8) : (d.parkEvent id).thr id = d.thr id := by
  unfold Dev.parkEvent
  split
  · rfl
  next hhead =>
    split
    next hkeep =>
      refine Dev.thr_keeperEvent_other hc ht (fun h0 => hhead ?_) _
      simp [Dev.isHead, hkeep, (Dev.keeper_place h0).1]
    next hkeep => exact Dev.thr_keeperEvent_other hc ht (fun h => hkeep (decide_eq_true h)) _

/-! ## TEND (R243) -/

theorem Dev.thr_unstill (d : Dev) (id j : Tid) : (d.unstill id).thr j = d.thr j := (d.passes_unstill id).leaves.2.1 j

theorem Dev.thr_traceRec (kind g task thread prio wait : Nat) : (d.traceRec kind g task thread prio wait).thr id = d.thr id := by
  rw [Dev.traceRec, apply_ite (Dev.thr · id)]
  exact ite_self _

theorem Dev.thr_freeStep : d.freeStep.thr id = d.thr id := rfl

/-- A task that ends leaves its thread IDLE, or HALTED, with no task (R243). -/
theorem Dev.thr_taskEnd (d : Dev) (id : Tid) :
    ((d.taskEnd id).thr id).state = (if (d.thr id).stepping || (d.thr id).haltReq then .halted else .idle)
    ∧ ((d.taskEnd id).thr id).desc = none ∧ ((d.taskEnd id).thr id).tags = [] := by
  cases hdesc : (d.thr id).desc <;> simp only [Dev.taskEnd, hdesc, Dev.thr_traceRec, Dev.thr_freeStep, Dev.thr_setThr_same,
    and_self]

theorem Dev.issueTend_runs (h : d.issues id i) (hop : i.op = 0x86) : d.issueTend id =
    if (d.thr id).outstanding then (d.unstill id).updThr id (fun t => { t with state := .waiting, wait :=
      ⟨.tend, .imm 0, .imm 0, 0, 0, 0, (d.unstill id).nextPc id i, d.drip.now, t.b⟩ })
    else (d.unstill id).taskEnd id := by
  have hnow : (d.unstill id).drip.now = d.drip.now := by
    obtain ⟨_, _, _, _, _, _, hpass⟩ := d.passes_unstill id
    rw [hpass]
  rw [Dev.issueTend, Dev.issueWith_runs h _ _ hop, ← Dev.thr_unstill d id id, ← hnow]
  rfl

/-! ## Parks (R181, R198, R227) -/

theorem Dev.thr_discardStaging (d : Dev) (id : Tid) : ∃ mem, (d.discardStaging id).thr id = { d.thr id with mem := mem } :=
  Dev.thr_setLocalBytes id _ d.freeStep _

/-- A kill parks its thread with a new reset generation (R181, R198). -/
theorem Dev.thr_killThread (hc : id.c < 9) (ht : id.t < 8) : ((d.killThread id).thr id).state = .parked
    ∧ ((d.killThread id).thr id).killed = true ∧ ((d.killThread id).thr id).rgen = ((d.thr id).rgen + 1) % 2 ^ 16 := by
  unfold Dev.killThread
  simp only [Dev.thr_unstill]
  rw [Dev.thr_parkEvent hc ht]
  obtain ⟨mem, hstaged⟩ := Dev.thr_discardStaging (((d.unstill id).stopThread id).setThr id
    { ((d.unstill id).stopThread id).thr id with
      state := .parked, killed := true, rgen := ((d.thr id).rgen + 1) % 2 ^ 16, wait := Wait.idle, running := false,
      macroRun := none, stepping := false, haltReq := false }) id
  rw [hstaged, Dev.thr_setThr_same]
  exact ⟨rfl, rfl, rfl⟩

/-! ## UNPARK (R194, R200) -/

/-- Writes of local memory leave the galleries. -/
theorem Dev.isKeeper_setLocalBytes (a : Nat) (bs : Bytes) : (d.setLocalBytes id a bs).isKeeper j = d.isKeeper j := by
  obtain ⟨_, _, h⟩ := Dev.setLocalBytes_touches id bs d a
  rw [h]
  rfl

theorem Dev.isKeeper_discardStaging : (d.discardStaging id).isKeeper j = d.isKeeper j := Dev.isKeeper_setLocalBytes ..

/-- A keeper that starts is READY and has no task (R208). -/
theorem Dev.thr_startKeeper (d : Dev) (id : Tid) (ev : Nat) : ((d.startKeeper id ev).thr id).state = .ready
    ∧ ((d.startKeeper id ev).thr id).desc = none := by
  obtain ⟨mem, h⟩ := Dev.thr_setLocalBytes id (leBytes 4 ev) (d.updThr id (fun t => { Thread.init with
    rgen := t.rgen, mem := t.mem, state := .ready, pc := w32 d.keeperEntryLive, codeGen := (d.group 14).genLive })) 0x5FF0
  rw [Dev.startKeeper, h, Dev.thr_updThr_same]
  exact ⟨rfl, rfl⟩

/-- The device on which a parked thread has lost its task and its staging. -/
def Dev.unparked (d : Dev) (id : Tid) : Dev := (d.setThr id { d.thr id with
  state := .idle, killed := false, desc := none, spent := false, tags := [], repAt := none }).discardStaging id

/-- UNPARK of a parked thread that holds no cell: a keeper starts again with its pending events (R194, R200). -/
theorem Dev.unpark_parked (hp : (d.thr id).state = .parked) (hcells : d.cellsOf (ownerTag id) = []) :
    d.unpark id = (Code.ok, if d.isKeeper id then
      ((d.unparked id).startKeeper id 0).updThr id (fun k => { k with evp := (d.thr id).evp }) else d.unparked id) := by
  have hkeep : (d.unparked id).isKeeper id = d.isKeeper id := Dev.isKeeper_discardStaging
  rw [← hkeep]
  exact if_neg (by simp [hp, hcells])

theorem Dev.unpark_refused (h : (d.thr id).state ≠ .parked ∨ d.cellsOf (ownerTag id) ≠ []) :
    d.unpark id = (Code.reserved, d) := if_pos (by simpa using h)

theorem Dev.thr_unpark (hp : (d.thr id).state = .parked) (hcells : d.cellsOf (ownerTag id) = []) :
    (d.unpark id).1 = Code.ok ∧ ((d.unpark id).2.thr id).desc = none
    ∧ ((d.unpark id).2.thr id).state = (if d.isKeeper id then .ready else .idle)
    ∧ (d.isKeeper id = true → ((d.unpark id).2.thr id).evp = (d.thr id).evp) := by
  rw [Dev.unpark_parked hp hcells]
  by_cases hkeep : d.isKeeper id = true
  · obtain ⟨hready, hdesc⟩ := Dev.thr_startKeeper (d.unparked id) id 0
    simp only [hkeep, if_true, Dev.thr_updThr_same, hready, hdesc, and_self, implies_true]
  · obtain ⟨mem, hidle⟩ := Dev.thr_discardStaging (d.setThr id { d.thr id with
      state := .idle, killed := false, desc := none, spent := false, tags := [], repAt := none }) id
    rw [Dev.thr_setThr_same] at hidle
    simp only [hkeep, Bool.false_eq_true, if_false, Dev.unparked, hidle, false_implies, and_self]

/-! ## Thread control (R198, R200, R259) -/

/-- A TCTL of a thread that is no keeper raises PRIVILEGE, ahead of its operands (R226). -/
theorem Dev.issueTctl_privilege (h : d.issues id i) (hop : i.op = 0xE6) (hkeep : d.isKeeper id = false) (mine : Nat → Bool) :
    d.issueTctl id mine = (d.unstill id).faultPark id ⟨8, Code.notOwner, 0xE6, 0, 0⟩ := by
  rw [Dev.issueTctl, Dev.issueWith_runs h _ _ hop]
  exact if_pos (by rw [hkeep]; rfl)

/-- A keeper's TCTL acts on another thread of its gallery. -/
theorem Dev.issueTctl_acts {x : Ev1} {t : Tid} {op : Nat} (h : d.issuesOn id i e [x] b) (hop : i.op = 0xE6)
    (hkeep : d.isKeeper id = true) {mine : Nat → Bool} (hmine : mine op = true) (h2 : op < 2) (hx : bits x.val 7 6 = op)
    (hres : bits x.val 15 8 = 0) (ht : e.tidAt id.g (bits x.val 2 0) (bits x.val 5 3) = some t) (hne : t ≠ id) :
    d.issueTctl id mine = (e.thrControl t op).2.finishCode id i b (e.thrControl t op).1 false := by
  rw [Dev.issueTctl, Dev.issueWith_runs h.1 _ _ hop, hkeep]
  refine (if_neg (by decide)).trans ?_
  rw [Dev.withOps_runs h]
  simp [hx, hmine, ht, hres, hne, Nat.not_le.mpr h2]

/-- The host or the head keeper acts through GALL_THR_CTL (R198). -/
theorem Dev.thrCtlWrite_acts {m g v op : Nat} {t : Tid} (hm : m = 2 ∨ m = 3) (hv : v < 2 ^ 8) (hs : d.serving = true)
    (hp : d.noPath m = false) (hx : bits v 7 6 = op) (h2 : op < 2) (ht : d.tidAt g (bits v 2 0) (bits v 5 3) = some t) :
    d.thrCtlWrite m g v = (d.thrControl t op).2.setPer m (R.gallThrCtlStat + 0x40000 * g) (d.thrControl t op).1 := by
  have hnamed : m ∈ [2, 3] := by simpa using hm
  rw [Dev.thrCtlWrite, Dev.doorbell_acts d m _ _ 8 v _ hp (Dev.blockOpen_of_serving d hs _) (.inr hnamed) hv]
  simp [hx, ht, Nat.not_le.mpr h2]

/-- The rows of thread control take their op from a keeper's TCTL and from a master's GALL_THR_CTL. -/
theorem exec_tctlRow :
    ∀ row ∈ [((fun w g v => Instr.thrKill w g v : Who → Nat → Nat → Instr), 0), (fun w g v => .thrUnpark w g v, 1)],
    row.2 < 2 ∧ (∃ mine : Nat → Bool, mine row.2 = true
      ∧ ∀ id g v s, exec (row.1 (.thread id) g v) s = .next (s.withDev (s.dev.issueTctl id mine)))
    ∧ ∀ m g v s, bits v 7 6 = row.2 → exec (row.1 (.master m) g v) s = .next (s.withDev (s.dev.thrCtlWrite m g v)) := by
  simp only [List.forall_mem_cons, List.not_mem_nil, false_implies, implies_true, and_true]
  refine ⟨⟨by decide, ⟨_, rfl, fun _ _ _ _ => rfl⟩, fun m g v s hv => ?_⟩,
    ⟨by decide, ⟨_, rfl, fun _ _ _ _ => rfl⟩, fun m g v s hv => ?_⟩⟩
  · exact exec_withDev_congr rfl (if_neg (by rw [hv]; decide))
  · exact exec_withDev_congr rfl (if_pos hv)

/-! ## The obligation -/

/-- Settles O32: TEND, the parks and UNPARK by what they leave of their thread; KILL and UNPARK by whom they are asked. -/
theorem threadControl : Obligations.ThreadControl := by
  unfold Obligations.ThreadControl
  refine ⟨⟨fun s id i h hop => ?tend, fun d id f => rfl, fun d id _ hc ht => Dev.thr_killThread hc ht,
    fun d id => Dev.thr_unpark, fun d id => Dev.unpark_refused⟩, fun row hrow s => ?control⟩
  case tend =>
    have hrun := Dev.issueTend_runs h hop
    refine ⟨fun hout => exec_withDev_congr rfl (hrun.trans (if_pos hout)), fun hnone => ?_⟩
    have hend := hrun.trans (if_neg (Bool.eq_false_iff.mp hnone))
    have hthr := Dev.thr_taskEnd (s.dev.unstill id) id
    rw [Dev.thr_unstill] at hthr
    exact ⟨_, exec_withDev_congr rfl hend, rfl, hthr⟩
  case control =>
    obtain ⟨h2, ⟨mine, hmine, hthread⟩, hmaster⟩ := exec_tctlRow row hrow
    refine ⟨fun id i e x b t g v h hop hkeep hx hres ht hne => ?_, fun id i g v h hop hkeep => ?_,
      fun m g v t hm _ hv hs hp hx ht => ?_⟩
    · exact exec_withDev_congr (hthread id g v s) (Dev.issueTctl_acts h hop hkeep hmine h2 hx hres ht hne)
    · exact exec_withDev_congr (hthread id g v s) (Dev.issueTctl_privilege h hop hkeep mine)
    · exact exec_withDev_congr (hmaster m g v s hx) (Dev.thrCtlWrite_acts hm hv hs hp hx h2 ht)

end Sys2Proof.Machine
end

section
/-! PROOF. Helper commands: HCMD and its retries (R254, R255, R283, R286, R287), HWAIT, HSAVE and HRESTORE (R256, R257, R292), and
the end of a command (R288 to R291). -/

namespace Sys2Proof.Machine

variable {d e : Dev} {id : Tid} {i : Dec} {b : Map Word} {x n : Ev1}

/-- Operands that evaluate without a fault are handed to what the instruction does. -/
theorem Dev.issueOps_runs {evs : List Ev1} (h : d.issuesOn id i e evs b) {opc : Nat} (hop : i.op = opc)
    (run : Dec → Dev → List Ev1 → Map Word → Dev) :
    d.issueWith id opc (fun d i => d.withOps id i [] 0 i.op (run i)) = run i e evs b := by
  rw [Dev.issueWith_runs h.1 _ _ hop, Dev.withOps_runs h]

/-! ## HCMD -/

section
variable (h : d.issuesOn id i e [x, n] b) (hop : i.op = 0xE0)
include h hop

/-- A tag that is not FREE, or above 15, raises HELPER (R254). -/
theorem Dev.issueHcmd_faults (htag : 15 < n.val ∨ (e.thr id).tag n.val ≠ .free) : d.issueHcmd id = e.helperFault id 0xE0 := by
  rw [Dev.issueHcmd, Dev.issueOps_runs h hop, hop]
  exact if_pos (by simpa using htag)

variable (hle : n.val ≤ 15) (htag : (e.thr id).tag n.val = .free)
include hle htag

/-- With room, and no older retry that waits for it, the command is accepted at once (R286). -/
theorem Dev.issueHcmd_accepts (hroom : e.helpRoom id (x.val % 16) = true) (hnext : e.nextRetry id = none) :
    d.issueHcmd id = (e.finishCode id i b Code.ok false).acceptJob id n.val (leBytes 64 x.val) := by
  rw [Dev.issueHcmd, Dev.issueOps_runs h hop]
  simp [Nat.not_lt.mpr hle, htag, hroom, hnext, valBytes]

/-- Otherwise the thread waits, and the command retries (R286). -/
theorem Dev.issueHcmd_retries (hwait : e.helpRoom id (x.val % 16) = false ∨ e.nextRetry id ≠ none) :
    d.issueHcmd id = (e.startWait id ⟨.hcmd, .imm 0, .imm 0, 0, 0, n.val, e.nextPc id i, e.drip.now, b⟩).onHelp
      (fun h => { h with retries := h.retries ++ [⟨id, n.val, leBytes 64 x.val, e.drip.now⟩] }) := by
  have hno : ¬ (e.helpRoom id (x.val % 16) = true ∧ e.nextRetry id = none) := fun ⟨hroom, hnext⟩ =>
    hwait.elim (fun hfull => Bool.noConfusion (hfull.symm.trans hroom)) (· hnext)
  rw [Dev.issueHcmd, Dev.issueOps_runs h hop]
  simp [Nat.not_lt.mpr hle, htag, hno, valBytes]

end

/-- The oldest retry of its core that there is room for is accepted (R286). -/
theorem Dev.hcmdAccept_next {r : Retry} (hr : d.nextRetry id = some r) (hid : r.id = id) :
    d.hcmdAccept id = (d.endRetry id Code.ok).acceptJob id r.tag r.block := by
  simp [Dev.hcmdAccept, hr, hid]

/-- A retry ends with BUSY_RETRY at the limit (R287). -/
theorem Dev.hcmdLimit_first {r : Retry} {pre post : List Retry} (hl : d.help.retries = pre ++ r :: post)
    (hpre : ∀ q ∈ pre, q.id ≠ id) (hid : r.id = id) : d.hcmdLimit id =
      if r.since + d.liveFld R.dispCfg 3 0 ≤ d.drip.now then (d.endRetry id Code.busyRetry).dispCount 2 else d := by
  have hfirst : d.help.retries.find? (fun r => r.id = id) = some r :=
    List.find?_eq_some_iff_append.mpr ⟨by simp [hid], pre, post, hl, fun q hq => by simp [hpre q hq]⟩
  simp only [Dev.hcmdLimit, hfirst]

/-! ## Commands in their queue -/

@[simp] theorem Dev.tag_setTag_same (d : Dev) (id : Tid) (n : Nat) (v : TagState) : ((d.setTag id n v).thr id).tag n = v := by
  simp [Dev.setTag, Thread.tag]

@[simp] theorem Dev.helpQ_setHelpQ_same (l : List Nat) : (d.setHelpQ id l).helpQ id = l := by
  simp [Dev.helpQ, Dev.setHelpQ, Dev.onHelp]

@[simp] theorem Dev.job_setJob_same (k : Nat) (j : Job) : (d.setJob k j).job k = some j := by
  simp [Dev.job, Dev.setJob, Dev.onHelp]

/-- An accepted command is last in its core's queue with its header filled, and its tag is OUTSTANDING (R254, R283). -/
theorem Dev.acceptJob_queued (d : Dev) (id : Tid) (n : Nat) (block : Bytes) :
    let a := d.acceptJob id n block
    let t := d.thr id
    let att := match t.desc with | some p => p.attempt % 256 | none => 0
    (a.thr id).tag n = .outstanding ∧ a.helpQ id = d.helpQ id ++ [d.help.nextJob]
    ∧ ∃ j, a.job d.help.nextJob = some j ∧ j.phase = .queued ∧ j.owner = ownerTag id ∧ j.tag = n ∧ j.gen = d.helpGen id
      ∧ j.block = fillHeader (slice block 0 64) (d.helpGen id) (ownerTag id) n att t.rgen := by
  refine ⟨Dev.tag_setTag_same .., ?_, _, Dev.job_setJob_same .., rfl, rfl, rfl, rfl, rfl⟩
  exact Dev.helpQ_setHelpQ_same ..

/-- A resumed command is last in the queue of its new thread's core, under that thread's tag (R292). -/
theorem Dev.resumeContext_queued (d : Dev) (id : Tid) (n k : Nat) (c : Saved) :
    let a := d.resumeContext id n k c
    (a.thr id).tag n = .outstanding ∧ a.helpQ id = d.helpQ id ++ [d.help.nextJob]
    ∧ ∃ j, a.job d.help.nextJob = some j ∧ j.phase = .queued ∧ j.squashed = false ∧ j.issuer = .thread id
      ∧ j.owner = ownerTag id ∧ j.tag = n ∧ j.gen = c.job.gen := by
  refine ⟨Dev.tag_setTag_same .., ?_, _, Dev.job_setJob_same .., rfl, rfl, rfl, rfl, rfl, rfl⟩
  exact Dev.helpQ_setHelpQ_same ..

/-! ## HWAIT, HSAVE and HRESTORE -/

/-- HWAIT of an OUTSTANDING tag waits for it (R256). -/
theorem Dev.issueHwait_waits (h : d.issuesOn id i e [n] b) (hop : i.op = 0xE1) (hle : n.val ≤ 15)
    (htag : (e.thr id).tag n.val = .outstanding) : d.issueHwait id =
      e.startWait id ⟨.hwait, .imm 0, .imm 0, 0, 0, n.val, e.nextPc id i, e.drip.now, b⟩ := by
  rw [Dev.issueHwait, Dev.issueOps_runs h hop]
  simp [Nat.not_lt.mpr hle, htag]

/-- HWAIT of a DONE tag takes its code and frees it (R256). -/
theorem Dev.issueHwait_done {code : Nat} (h : d.issuesOn id i e [n] b) (hop : i.op = 0xE1) (hle : n.val ≤ 15)
    (htag : (e.thr id).tag n.val = .done code) : d.issueHwait id = (e.finishCode id i b code false).setTag id n.val .free := by
  rw [Dev.issueHwait, Dev.issueOps_runs h hop]
  simp [Nat.not_lt.mpr hle, htag]

/-- HSAVE saves a queued or running command of a unit with contexts, and frees its tag (R257). -/
theorem Dev.issueHsave_saves {k : Nat} {j : Job} (h : d.issuesOn id i e [x, n] b) (hop : i.op = 0xE2) (hle : n.val ≤ 15)
    (htag : (e.thr id).tag n.val ≠ .free) (hj : e.jobOfTag id n.val = some (k, j)) (hctx : hasContext j.unit = true)
    (hph : j.phase = .queued ∨ j.phase = .running) : d.issueHsave id =
      ((e.finishCode id i b Code.ok false).saveContext id x.loc k j).setTag id n.val .free := by
  rw [Dev.issueHsave, Dev.issueOps_runs h hop]
  simp [Nat.not_lt.mpr hle, htag, hj, hctx, hph]

section
variable (h : d.issuesOn id i e [x, n] b) (hop : i.op = 0xE3) (hle : n.val ≤ 15) (htag : (e.thr id).tag n.val = .free)
include h hop hle htag

/-- HRESTORE of a context the gallery holds resumes it (R292). -/
theorem Dev.issueHrestore_resumes {k : Nat} {c : Saved} {pre post : List (Nat × Saved)}
    (hl : e.help.saved = pre ++ (k, c) :: post)
    (hpre : ∀ y ∈ pre, (decide (y.2.gallery = id.g) && y.2.data == leBytes 256 x.val) = false)
    (hc : (decide (c.gallery = id.g) && c.data == leBytes 256 x.val) = true) :
    d.issueHrestore id = (e.finishCode id i b Code.ok false).resumeContext id n.val k c := by
  have hfirst : e.help.saved.find? (fun y => y.2.gallery = id.g && y.2.data == leBytes 256 x.val) = some (k, c) :=
    List.find?_eq_some_iff_append.mpr ⟨hc, pre, post, hl, fun y hy => by rw [hpre y hy]; rfl⟩
  rw [Dev.issueHrestore, Dev.issueOps_runs h hop]
  simp only [valBytes, hfirst, Nat.not_lt.mpr hle, htag, decide_false, ne_eq, not_true_eq_false, Bool.or_self,
    Bool.false_eq_true, if_false]

/-- HRESTORE of any other context completes with RESERVED (R292). -/
theorem Dev.issueHrestore_unknown
    (hnone : ∀ y ∈ e.help.saved, (decide (y.2.gallery = id.g) && y.2.data == leBytes 256 x.val) = false) :
    d.issueHrestore id = e.finishCode id i b Code.reserved false := by
  have hfind : e.help.saved.find? (fun y => y.2.gallery = id.g && y.2.data == leBytes 256 x.val) = none :=
    List.find?_eq_none.mpr fun y hy => Bool.eq_false_iff.mp (hnone y hy)
  rw [Dev.issueHrestore, Dev.issueOps_runs h hop]
  simp only [valBytes, hfind, Nat.not_lt.mpr hle, htag, decide_false, ne_eq, not_true_eq_false, Bool.or_self,
    Bool.false_eq_true, if_false]

end

/-! ## Saved contexts (R292) -/

theorem length_slice (bs : Bytes) (off n : Nat) : (slice bs off n).length = n := by
  simp only [slice, List.length_append, List.length_replicate, List.length_take]
  omega

theorem length_contextBytes (j : Job) (serial n : Nat) : (contextBytes j serial n).length = 256 := by
  simp [contextBytes, length_slice]

/-- A context begins with its command's block. -/
theorem take_contextBytes (j : Job) (serial n : Nat) : (contextBytes j serial n).take 64 = slice j.block 0 64 := by
  rw [contextBytes, List.append_assoc, List.append_assoc, List.take_left' (length_slice ..)]

/-- Writing one entry of a sparse store adds at most one of any kind. -/
theorem countP_spPut_le {V : Type} (p : Nat × V → Bool) (m : Map V) (k : Nat) (v : V) :
    (spPut m k v).countP p ≤ m.countP p + 1 := by
  induction m with
  | nil => exact List.countP_le_length
  | cons y m ih =>
    obtain ⟨k', v'⟩ := y
    have hone (q : Bool) : (if q then 1 else 0) ≤ 1 := by cases q <;> decide
    have hnew := hone (p (k, v))
    simp only [spPut]
    split
    · simp only [List.countP_cons]; omega
    · split <;> simp only [List.countP_cons] <;> omega

theorem Dev.help_putArea (l : Loc) (bs : Bytes) : (d.putArea id l bs).help = d.help := by
  cases l with
  | mem a => obtain ⟨_, _, h⟩ := Dev.setLocalBytes_touches id bs d a; rw [Dev.putArea, h]; rfl
  | table t idx off => exact Dev.setEntBytes_leaves Dev.help (fun _ => rfl) ..
  | imm v => rfl
  | window h len off => rfl
  | clock sel => rfl

/-- A gallery with room for one context more evicts none (R292). -/
theorem Dev.evictContext_room {g : Nat} (h : (d.savedOf g).length ≤ 256) : d.evictContext g = d := by
  unfold Dev.evictContext
  split
  next k rest hl => exact if_neg (by rw [hl, List.length_cons] at h; omega)
  · rfl

/-- The device with a command's context saved and the command off its queue, before the gallery's oldest is evicted. -/
def Dev.contextSaved (d : Dev) (id : Tid) (l : Loc) (n : Nat) (j : Job) : Dev :=
  ((d.freeStep.putArea id l (contextBytes j d.help.nextSerial d.free)).unqueue n j).onHelp (fun h => { h with
    jobs := spErase h.jobs n, nextSerial := d.help.nextSerial + 1,
    saved := spPut h.saved d.help.nextSerial ⟨id.g, contextBytes j d.help.nextSerial d.free, { j with phase := .saved }⟩ })

theorem Dev.saved_contextSaved (l : Loc) (k : Nat) (j : Job) : (d.contextSaved id l k j).help.saved =
    spPut d.help.saved d.help.nextSerial ⟨id.g, contextBytes j d.help.nextSerial d.free, { j with phase := .saved }⟩ := by
  change spPut (d.freeStep.putArea id l _).help.saved _ _ = _
  rw [Dev.help_putArea]
  rfl

theorem Dev.helpQ_contextSaved (l : Loc) (k : Nat) (j : Job) :
    (d.contextSaved id l k j).helpQ j.tid = (d.helpQ j.tid).erase k := by
  have hqueue : (d.freeStep.putArea id l (contextBytes j d.help.nextSerial d.free)).helpQ j.tid = d.helpQ j.tid := by
    rw [Dev.helpQ, Dev.help_putArea]
    rfl
  rw [← hqueue]
  exact Dev.helpQ_setHelpQ_same ..

/-- A saved command leaves its queue, and its gallery holds its context (R292). -/
theorem Dev.saveContext_saves (d : Dev) (id : Tid) (l : Loc) (k : Nat) (j : Job) (hroom : (d.savedOf id.g).length < 256) :
    let a := d.saveContext id l k j
    a.helpQ j.tid = (d.helpQ j.tid).erase k
    ∧ ∃ c, spFind a.help.saved d.help.nextSerial = some ⟨id.g, c, { j with phase := .saved }⟩
      ∧ c.length = 256 ∧ c.take 64 = slice j.block 0 64 := by
  have hkept : ((d.contextSaved id l k j).savedOf id.g).length ≤ 256 := by
    rw [Dev.savedOf, List.length_map, ← List.countP_eq_length_filter] at hroom ⊢
    rw [Dev.saved_contextSaved]
    exact Nat.le_trans (countP_spPut_le ..) hroom
  have hsaved : d.saveContext id l k j = d.contextSaved id l k j := Dev.evictContext_room hkept
  intro a
  rw [show a = _ from hsaved, Dev.saved_contextSaved]
  exact ⟨Dev.helpQ_contextSaved .., _, spFind_spPut_same .., length_contextBytes .., take_contextBytes ..⟩

/-! ## HELPER_COMPLETION (R288 to R291) -/

theorem Dev.helperCompletion_delivers {k : Nat} {j : Job} (hj : d.job k = some j) (hph : j.phase = .completed) :
    d.helperCompletion k = d.deliverJob k j := by
  simp [Dev.helperCompletion, hj, hph]

/-- A thread that does not wait finds its tag DONE, and HELP in EVP (R288). -/
theorem Dev.tagDone_running {tag code : Nat}
    (hw : (((d.setTag id tag (.done code)).event id Ev.help).thr id).state ≠ .waiting) :
    d.tagDone id tag code = (d.setTag id tag (.done code)).event id Ev.help := by
  simp [Dev.tagDone, hw]

/-- A thread that waits in HWAIT for the tag takes the code, and the tag is FREE (R256, R288). -/
theorem Dev.tagDone_hwait {tag code : Nat}
    (hw : (((d.setTag id tag (.done code)).event id Ev.help).thr id).state = .waiting)
    (hk : (((d.setTag id tag (.done code)).event id Ev.help).thr id).wait.kind = .hwait)
    (ht : (((d.setTag id tag (.done code)).event id Ev.help).thr id).wait.what = tag) : d.tagDone id tag code =
      (((((d.setTag id tag (.done code)).event id Ev.help).setTag id tag .free).setCode id code false).endWait id) :=
  if_pos (by simp [hw, hk, ht])

/-! ## The obligation -/

/-- Settles O33: HCMD and its retries, the instructions on tags and contexts, and the end of a command, each by its lemmas. -/
theorem helperCommands : Obligations.HelperCommands := by
  unfold Obligations.HelperCommands
  refine ⟨fun s id => ⟨fun i e x n b h hop => ⟨?fault, fun hle htag => ⟨?accept, ?retry⟩⟩, ?next, ?limit,
      fun d n block => d.acceptJob_queued id n block, fun d code => rfl⟩,
    fun s id i e evs b h => ⟨fun n hop hevs hle => ?hwait, fun x n k j hop hevs hle htag hj hctx hph => ?hsave,
      fun x n hop hevs hle htag => ?hrestore, fun d l k j => d.saveContext_saves id l k j,
      fun d n k c => d.resumeContext_queued id n k c⟩,
    fun s n j => ⟨?delivers, fun d id tag code => ⟨Dev.tagDone_running, Dev.tagDone_hwait⟩,
      fun d => ⟨fun hfree => if_neg (Bool.eq_false_iff.mp hfree), fun hbusy => if_pos hbusy⟩⟩⟩
  case fault => exact fun htag => exec_withDev_congr rfl (Dev.issueHcmd_faults h hop htag)
  case accept => exact fun hroom hnext => exec_withDev_congr rfl (Dev.issueHcmd_accepts h hop hle htag hroom hnext)
  case retry => exact fun hwait => exec_withDev_congr rfl (Dev.issueHcmd_retries h hop hle htag hwait)
  case next => exact fun r hr hid => exec_withDev_congr rfl (Dev.hcmdAccept_next hr hid)
  case limit => exact fun pre r post hl hpre hid => exec_withDev_congr rfl (Dev.hcmdLimit_first hl hpre hid)
  case hwait =>
    subst hevs
    exact ⟨fun htag => exec_withDev_congr rfl (Dev.issueHwait_waits h hop hle htag),
      fun code htag => exec_withDev_congr rfl (Dev.issueHwait_done h hop hle htag)⟩
  case hsave =>
    subst hevs
    exact exec_withDev_congr rfl (Dev.issueHsave_saves h hop hle htag hj hctx hph)
  case hrestore =>
    subst hevs
    exact ⟨fun k c pre post hl hpre hc => exec_withDev_congr rfl (Dev.issueHrestore_resumes h hop hle htag hl hpre hc),
      fun hnone => exec_withDev_congr rfl (Dev.issueHrestore_unknown h hop hle htag hnone)⟩
  case delivers => exact fun hj hph => exec_withDev_congr rfl (Dev.helperCompletion_delivers hj hph)

end Sys2Proof.Machine
end

section
/-! PROOF. Latches: how one changes (R268 to R274), and the limits of a wait and of a hold (R269, R276). -/

namespace Sys2Proof.Machine

variable {d : Dev} {n tag dl : Nat} {tr : Bool}

/-! ## One Latch of the device -/

@[simp] theorem Dev.latch_setLatch_same (d : Dev) (n : Nat) (l : Latch) : (d.setLatch n l).latch n = l :=
  spGet_spSet_same ..

theorem Dev.latch_setLatch_ne (d : Dev) {n k : Nat} (l : Latch) (h : k ≠ n) : (d.setLatch n l).latch k = d.latch k :=
  spGet_spSet_ne _ _ _ _ _ h

/-- A counter of the Latch unit, stepped or not, leaves every Latch. -/
theorem Dev.latch_ite_latchCount (d : Dev) (p : Bool) (i k : Nat) : (if p then d.latchCount i else d).latch k = d.latch k := by
  cases p <;> rfl

/-- A granted Latch is held from now on (R269). -/
@[simp] theorem Dev.latch_latchGrant_same (d : Dev) (n tag rgen : Nat) (p : Bool) (ws : List LWaiter) :
    (d.latchGrant n tag rgen p ws).latch n = ⟨.held, tag, rgen, ws, d.drip.now, false⟩ := by
  rw [Dev.latchGrant, Dev.latch_ite_latchCount, Dev.latch_setLatch_same]

/-- A grant changes no other Latch. -/
theorem Dev.latch_latchGrant_ne (d : Dev) (tag rgen : Nat) (p : Bool) (ws : List LWaiter) {k : Nat} (h : k ≠ n) :
    (d.latchGrant n tag rgen p ws).latch k = d.latch k := by
  rw [Dev.latchGrant, Dev.latch_ite_latchCount, Dev.latch_setLatch_ne _ _ h]; rfl

/-! ## The wait-for walk (R270) -/

section
variable {f : Nat}

theorem Dev.latchWalk_cycle (h : (d.latch n).holder = tag) : d.latchWalk tag (f + 1) n = .cycle := if_pos h

theorem Dev.latchWalk_clear (h : (d.latch n).holder ≠ tag) (hw : d.waitsOn (d.latch n).holder = none) :
    d.latchWalk tag (f + 1) n = .clear := by
  simp [Dev.latchWalk, h, hw]

/-- From a Latch that is not ORPHANED the walk goes on to the one its holder waits for. -/
theorem Dev.latchWalk_next {m : Nat} (h : (d.latch n).holder ≠ tag) (ho : (d.latch n).state ≠ .orphaned)
    (hw : d.waitsOn (d.latch n).holder = some m) : d.latchWalk tag (f + 1) n = d.latchWalk tag f m := by
  simp [Dev.latchWalk, h, ho, hw]

end

/-! ## Acquire (R269, R270, R273) -/

section
variable (ha : d.latchAccess n tag = true)
include ha

theorem Dev.latchAcquire_free (h : (d.latch n).state = .free) :
    d.latchAcquire n tag dl tr = (some Code.ok, d.latchGrant n tag (d.rgenOf tag) false []) := by
  simp [Dev.latchAcquire, ha, h]

theorem Dev.latchAcquire_poisoned (h : (d.latch n).state = .freePoisoned) :
    d.latchAcquire n tag dl tr = (some Code.poisoned, d.latchGrant n tag (d.rgenOf tag) true []) := by
  simp [Dev.latchAcquire, ha, h]

/-- One attempt on a Latch that is held is refused at once, and no Latch changes (R273). -/
theorem Dev.latchAcquire_try (h : (d.latch n).state = .held) :
    ∃ e, d.latchAcquire n tag dl true = (some Code.timeout, e) ∧ e.latches = d.latches := by
  cases ht : tidOfTag tag with
  | none => exact ⟨d.latchCount 1, by simp [Dev.latchAcquire, ha, h, ht], rfl⟩
  | some id =>
    exact ⟨(d.latchCount 1).updThr id (fun t => { t with armed := some n }), by simp [Dev.latchAcquire, ha, h, ht], rfl⟩

variable (h : (d.latch n).state = .held) (hlim : d.latchTimeout n ≠ 0)
include h hlim

theorem Dev.latchAcquire_cycle (hw : d.latchWalk tag 8 n = .cycle) :
    d.latchAcquire n tag dl false = (some Code.cycle, d.latchCount 2) := by
  simp [Dev.latchAcquire, ha, h, hlim, hw]

/-- A requester whose walk ends at a holder that does not wait joins the waiters as the last one. -/
theorem Dev.latchAcquire_waits (hw : d.latchWalk tag 8 n = .clear) : d.latchAcquire n tag dl false
    = (none, d.setLatch n { d.latch n with waiters := (d.latch n).waiters ++ [⟨tag, d.rgenOf tag, dl⟩] }) := by
  simp [Dev.latchAcquire, ha, h, hlim, hw]

end

/-! ## Release and force (R271, R274) -/

/-- A Latch that becomes free passes to the waiter that joined first. -/
theorem Dev.latchFree_waiter {w : LWaiter} {ws : List LWaiter} (h : (d.latch n).waiters = w :: ws) (p : Bool) :
    d.latchFree n p
      = (d.latchGrant n w.tag w.rgen p ws).latchAnswer n w (if p then Code.poisoned else Code.ok) := by
  rw [Dev.latchFree, h]

theorem Dev.latchFree_none (h : (d.latch n).waiters = []) : d.latchFree n false = (d.setLatch n Latch.init).latchEvents n := by
  rw [Dev.latchFree, h]; rfl

section
variable (ha : d.latchAccess n tag = true)
include ha

theorem Dev.latchRelease_holder (h : (d.latch n).state = .held) (hh : (d.latch n).holder = tag)
    (hr : (d.latch n).rgen = d.rgenOf tag) : d.latchRelease n tag 0 = (Code.ok, d.latchFree n false) := by
  simp [Dev.latchRelease, ha, h, hh, hr]

theorem Dev.latchRelease_notHeld (h : (d.latch n).state = .free ∨ (d.latch n).state = .freePoisoned) :
    d.latchRelease n tag 0 = (Code.doubleFree, d.latchCount 6) := by
  rcases h with h | h <;> simp [Dev.latchRelease, ha, h]

theorem Dev.latchRelease_orphaned (h : (d.latch n).state = .orphaned) :
    d.latchRelease n tag 0 = (Code.notHolder, d.latchCount 7) := by
  simp [Dev.latchRelease, ha, h]

theorem Dev.latchRelease_notHolder (h : (d.latch n).state = .held) (hs : d.latchStrict n = true)
    (hh : (d.latch n).holder ≠ tag) : d.latchRelease n tag 0 = (Code.notHolder, d.latchCount 7) := by
  simp [Dev.latchRelease, ha, h, hs, hh]

end

theorem Dev.latchRelease_force (h : (d.latch n).state = .held) (hf : d.latchForcer n tag = true) :
    d.latchRelease n tag 1 = (Code.ok, ((d.latchCount 5).incident 13 Code.poisoned tag n
      ((d.latch n).holder + (d.latch n).rgen * 2 ^ 12)).latchFree n true) := by
  simp [Dev.latchRelease, h, hf]

/-! ## The limits (R269, R276) -/

/-- A thread that waited stores the code with its MOV and goes on. -/
theorem Dev.latchAnswer_thread {w : LWaiter} {id : Tid} (h : tidOfTag w.tag = some id) (code : Nat) :
    d.latchAnswer n w code = ((d.writeLoc id (d.thr id).codeGen (d.thr id).wait.value code (d.thr id).wait.dst).setCode id
      code false).endWait id := by
  rw [Dev.latchAnswer, h]

/-- The overdue wait of a requester, past Latches on which it has none. -/
theorem Dev.overdueLatch_first {w : Latch} {x : LWaiter} {pre post : Map Latch} (hl : d.latches = pre ++ (n, w) :: post)
    (hpre : ∀ y ∈ pre, ∀ z ∈ y.2.waiters, z.tag ≠ tag ∨ d.drip.now < z.deadline)
    (hx : w.waiters.find? (fun x => x.tag = tag && x.deadline ≤ d.drip.now) = some x) :
    d.overdueLatch tag = some (n, x) := by
  have hnone : pre.findSome? (fun e => (e.2.waiters.find? (fun w => w.tag = tag && w.deadline ≤ d.drip.now)).map
      (fun w => (e.1, w))) = none := by
    refine List.findSome?_eq_none_iff.mpr fun y hy => ?_
    rw [Option.map_eq_none_iff, List.find?_eq_none]
    intro z hz
    have := hpre y hy z hz
    simp only [Bool.and_eq_true, decide_eq_true_eq, not_and]
    omega
  rw [Dev.overdueLatch, hl, List.findSome?_append, hnone, Option.none_or, List.findSome?_cons_of_isSome] <;> simp [hx]

/-- A wait whose limit is reached ends with TIMEOUT, and the others wait on. -/
theorem Dev.latchTimeoutBy_ends {who : Who} {x : LWaiter} (h : d.overdueLatch (whoTag who) = some (n, x)) :
    d.latchTimeoutBy who = ((d.latchCount 1).setLatch n
      { d.latch n with waiters := (d.latch n).waiters.erase x }).latchAnswer n x Code.timeout := by
  rw [Dev.latchTimeoutBy, h]; rfl

theorem Dev.holdWatchdog_reports (h : (d.latch n).state = .held) (hr : (d.latch n).reported = false)
    (hlim : (d.latch n).granted + d.latchHold n ≤ d.drip.now) : d.holdWatchdog n =
      ((d.latchCount 9).incident 13 Code.timeout (d.latch n).holder n (d.latchHold n)).setLatch n
        { d.latch n with reported := true } := by
  simp [Dev.holdWatchdog, h, hr, hlim]

/-! ## The obligation -/

/-- Settles O37: acquire by the state, the holder and the walk; release and force by the state, the holder and the policy; the
limits by the first overdue wait and the watchdog. -/
theorem latchRules : Obligations.LatchRules := by
  unfold Obligations.LatchRules
  refine ⟨fun d n tag dl tr ha => ⟨fun h => ?free, fun h => ?poisoned, fun h htr => ?attempt,
      fun h hh htr hlim => ?own, fun h hh hw htr hlim => ?waits, fun h hh hr => ⟨?released, fun hws => ?unwanted⟩,
      Dev.latchRelease_notHeld ha, ?notHolder, fun h hh m hw hm htr hlim => ?cycle, Dev.latchRelease_force,
      fun w ws p h => Dev.latchFree_waiter h p⟩,
    fun s n => ⟨fun who w x pre post hl hw hpre hx => ?overdue, fun h hr hlim => ?watchdog,
      fun d x id code h => Dev.latchAnswer_thread h code⟩⟩
  case free =>
    exact ⟨_, Dev.latchAcquire_free ha h, Dev.latch_latchGrant_same .., fun k hk => Dev.latch_latchGrant_ne d _ _ _ _ hk⟩
  case poisoned => exact ⟨_, Dev.latchAcquire_poisoned ha h, by simp, by simp⟩
  case attempt => exact htr ▸ Dev.latchAcquire_try ha h
  case own => exact ⟨d.latchCount 2, htr ▸ Dev.latchAcquire_cycle ha h hlim (Dev.latchWalk_cycle hh), rfl⟩
  case waits => exact ⟨_, htr ▸ Dev.latchAcquire_waits ha h hlim (Dev.latchWalk_clear hh hw), by simp, by simp⟩
  case released => exact Dev.latchRelease_holder ha h hh hr
  case unwanted => exact ⟨_, Dev.latchFree_none hws, Dev.latch_setLatch_same ..⟩
  case notHolder =>
    rintro (h | ⟨h, hs, hh⟩)
    · exact Dev.latchRelease_orphaned ha h
    · exact Dev.latchRelease_notHolder ha h hs hh
  case cycle =>
    have hwalk : d.latchWalk tag 8 n = .cycle :=
      (Dev.latchWalk_next hh (by simp [h]) hw).trans (Dev.latchWalk_cycle hm)
    exact ⟨d.latchCount 2, htr ▸ Dev.latchAcquire_cycle ha h hlim hwalk, rfl⟩
  case overdue =>
    subst hw
    exact exec_withDev_congr rfl (Dev.latchTimeoutBy_ends (Dev.overdueLatch_first hl hpre hx))
  case watchdog => exact exec_withDev_congr rfl (Dev.holdWatchdog_reports h hr hlim)

end Sys2Proof.Machine
end

section
/-! PROOF. Access to Latches (R267 to R269, R273, R274, R277): the MOVs of a thread that name the ACQ or TRY word, and the reads
and writes of the host and the peer. -/

namespace Sys2Proof.Machine

variable {d e : Dev} {id : Tid} {i : Dec} {x y : Ev1} {b : Map Word} {m n : Nat}

/-! ## A thread's MOV -/

/-- A MOV reads one of the two words: ACQ where it does not read TRY. -/
theorem latchReads_try {tr : Bool} (h : latchReads i (if tr then 4 else 0) = true) : latchReads i 4 = tr := by
  cases tr
  · simp only [latchReads, Bool.false_eq_true, if_false, Bool.and_eq_true, decide_eq_true_eq] at h
    simp [latchReads, h.2]
  · exact h

section
variable {tr : Bool} (hw : latchWrites i = false) (hr : latchReads i (if tr then 4 else 0) = true) (k : Dev → Dev) {c : Dev}
include hw hr

/-- A MOV whose acquire answers writes the code as its result and to FLAGS, and goes on (R269). -/
theorem Dev.latchEffect_answers {code : Nat}
    (ha : d.latchAcquire y.latch (ownerTag id) (d.drip.now + d.latchTimeout y.latch) tr = (some code, c)) :
    d.latchEffect id i [x, y] b k = k ((c.putOp id i.op i.width (classOf i.op) x code).report id b code false) := by
  simp [Dev.latchEffect, hw, latchReads_try hr, ha]

/-- A MOV whose acquire gives no code waits (R269). -/
theorem Dev.latchEffect_waits
    (ha : d.latchAcquire y.latch (ownerTag id) (d.drip.now + d.latchTimeout y.latch) tr = (none, c)) :
    d.latchEffect id i [x, y] b k = c.startWait id
      ⟨.latch, x.loc, .imm 0, sizeBytes x.o.size, 0, y.latch, c.nextPc id i, c.drip.now, b⟩ := by
  simp [Dev.latchEffect, hw, latchReads_try hr, ha]

end

/-- The release or force of a MOV that writes ACQ (R274). -/
theorem Dev.latchEffect_releases (hw : latchWrites i = true) (k : Dev → Dev) : d.latchEffect id i [x, y] b k =
    (let a := d.latchRelease x.latch (ownerTag id) (latchValue i [x, y])
     k (a.2.report id b a.1 false)) := by
  simp [Dev.latchEffect, hw]

/-- A MOV from ACQ or TRY is an acquire through its word. -/
theorem exec_latchRead (tr : Bool) (id : Tid) (s : State) : exec (if tr then .latchTry id else .latchAcquire id) s
    = .next (s.withDev (s.dev.issueAcquire id (if tr then 4 else 0))) := by
  cases tr <;> rfl

section
variable (h : d.issuesOn id i e [x, y] b) (hop : i.op = 1)
include h hop

theorem Dev.issueAcquire_runs {off : Nat} (hr : latchReads i off = true) :
    d.issueAcquire id off = e.latchEffect id i [x, y] b (fun d => d.advance id i.len) := by
  rw [Dev.issueAcquire, Dev.issueWith_runs h.1 _ _ hop, hr, Dev.withOps_runs h]; rfl

theorem Dev.issueRelease_runs (hw : latchWrites i = true) {mine : Nat → Bool} (hm : mine (latchValue i [x, y]) = true) :
    d.issueRelease id mine = e.latchEffect id i [x, y] b (fun d => d.advance id i.len) := by
  rw [Dev.issueRelease, Dev.issueWith_runs h.1 _ _ hop, hw, Dev.withOps_runs h]
  exact if_pos hm

end

/-! ## The host and the peer -/

section
variable {tr : Bool} {c : Dev}

/-- A master's acquire that answers gives the code as the data read. -/
theorem Dev.hostAcquire_answers {code : Nat} (ha : d.latchAcquire (d.hostLatch m) (masterTag m)
      (d.drip.now + Nat.min (d.latchTimeout (d.hostLatch m)) 16) tr = (some code, c)) :
    d.hostAcquire m tr = c.onCsr (fun r => { r with rdata := spSet 0 r.rdata m (w32 code) }) := by
  simp [Dev.hostAcquire, ha]

theorem Dev.hostAcquire_waits (ha : d.latchAcquire (d.hostLatch m) (masterTag m)
      (d.drip.now + Nat.min (d.latchTimeout (d.hostLatch m)) 16) tr = (none, c)) : d.hostAcquire m tr = c := by
  simp [Dev.hostAcquire, ha]

end

section
variable (hm : m = 3 ∨ m = 4)
include hm

/-- In service a read of ACQ or TRY is an acquire of the Latch that SEL names (R277). -/
theorem exec_hostLatchRead {s : State} (hs : s.dev.serving = true) (tr : Bool) :
    exec (if tr then .hostLatchTry m else .hostLatchAcquire m) s = .next (s.withDev (s.dev.hostAcquire m tr)) := by
  have hmaster : s.dev.latchMaster m = true := by simpa [Dev.latchMaster, hs] using hm
  cases tr <;> exact exec_withDev_congr rfl (if_pos hmaster)

/-- A release or force by the host or the peer leaves its code in RSTAT. -/
theorem Dev.hostRelease_acts (hs : d.serving = true) (hp : d.noPath m = false) {v : Nat} (hv : v < 2 ^ 2) :
    d.hostRelease m v = (d.latchRelease (d.hostLatch m) (masterTag m) v).2.setPer m R.ltchHostRstat
      (d.latchRelease (d.hostLatch m) (masterTag m) v).1 :=
  Dev.doorbell_acts d m _ _ 2 v _ hp (Dev.blockOpen_of_serving d hs _) (.inr (by simpa using hm)) hv

/-- The host and the peer force no Latch (R274, R277). -/
theorem Dev.latchRelease_masterForce : d.latchRelease n (masterTag m) 1 = (Code.notOwner, d) := by
  have htag : tidOfTag (masterTag m) = none := by rcases hm with rfl | rfl <;> decide
  simp [Dev.latchRelease, Dev.latchForcer, htag]

end

/-! ## The obligation -/

/-- Settles O36: a thread's MOV by what it names, a master's read by the answer of the acquire, its write by the doorbell. -/
theorem latchAccess : Obligations.LatchAccess := by
  unfold Obligations.LatchAccess
  refine ⟨fun s id i e x y b h hop => ⟨fun tr hw hr => ⟨fun code ha => ?code, fun ha => ?waits⟩, fun hw => ?releases⟩,
    fun s m hm hs hp => ⟨fun tr => ⟨fun code ha => ?hostCode, fun ha => ?hostWaits⟩, ?hostRelease, ?hostForce⟩⟩
  case code =>
    refine exec_withDev_congr (exec_latchRead tr id s) ?_
    rw [Dev.issueAcquire_runs h hop hr, Dev.latchEffect_answers hw hr _ (Prod.ext ha rfl), hop]
    rfl
  case waits =>
    refine exec_withDev_congr (exec_latchRead tr id s) ?_
    rw [Dev.issueAcquire_runs h hop hr, Dev.latchEffect_waits hw hr _ (Prod.ext ha rfl)]
    rfl
  case releases =>
    have hruns {mine : Nat → Bool} (hv : mine (latchValue i [x, y]) = true) :=
      (Dev.issueRelease_runs h hop hw hv).trans (Dev.latchEffect_releases hw _)
    dsimp only
    split <;> exact exec_withDev_congr rfl (hruns (decide_eq_true ‹_›))
  case hostCode => exact exec_withDev_congr (exec_hostLatchRead hm hs tr) (Dev.hostAcquire_answers (Prod.ext ha rfl))
  case hostWaits => exact exec_withDev_congr (exec_hostLatchRead hm hs tr) (Dev.hostAcquire_waits (Prod.ext ha rfl))
  case hostRelease => exact exec_withDev_congr rfl (Dev.hostRelease_acts hm hs hp (by decide))
  case hostForce =>
    refine exec_withDev_congr rfl ((Dev.hostRelease_acts hm hs hp (by decide)).trans ?_)
    rw [Dev.latchRelease_masterForce hm]

end Sys2Proof.Machine
end

section
/-! PROOF. The atomic unit (R278 to R281): what a legal command on a sound place of a DATA table does. -/

namespace Sys2Proof.Machine

/-- What R278 to R281 ask of an atomic command of op `op` on `w` bytes: a legal block, and a legal, sound place of a DATA table. -/
structure Dev.AtomLegal (d : Dev) (j : Job) (op w : Nat) : Prop where
  header : j.headerBad = false
  reserved : bitOf (j.get 16 1) 7 = false
  width : bits (j.get 16 1) 6 4 ≤ if op = 4 then 2 else 1
  zero : j.get 28 4 = 0
  first : j.get 32 16 < 2 ^ (8 * w)
  second : j.get 48 16 < 2 ^ (8 * w)
  entry : d.entOk j.gen (j.get 17 1) (j.get 20 4) (j.get 18 2) w = true
  data : (d.tabEnt j.gen (j.get 17 1)).kind = .data
  aligned : j.get 18 2 % w = 0
  area : 0x10000 ≤ j.get 24 4
  areaEnd : j.get 24 4 + 32 ≤ 0x20000
  sound : d.memPoisoned (d.tabEnt j.gen (j.get 17 1)).dram ((d.tabEnt j.gen (j.get 17 1)).place (j.get 20 4) (j.get 18 2)) w
    = false

/-- A legal atomic command answers the old value, after its write and its result area (R278, R279). -/
theorem Dev.atomCmd_performs {d : Dev} {j : Job} {op w : Nat} (hop : bits (j.get 16 1) 3 0 = op) (hle : op ≤ 5)
    (hw : w = 4 * 2 ^ bits (j.get 16 1) 6 4) (h : (d.bump (R.ltchCnt + 40)).AtomLegal j op w) : d.atomCmd j =
      (let e := d.bump (R.ltchCnt + 40)
       let x := leNat (e.entBytes j.gen (j.get 17 1) (j.get 20 4) (j.get 18 2) w)
       let y := atomOp op (8 * w) x (j.get 32 16) (j.get 48 16)
       let f := if y.2 then e.setEntBytes j.gen (j.get 17 1) (j.get 20 4) (j.get 18 2) (leBytes w y.1) else e
       ⟨Code.ok, x % 2 ^ 64, f.setLocalBytes j.tid (j.get 24 4) (atomResult x y.2)⟩) := by
  subst hop hw
  obtain ⟨hhead, hrsv, hwidth, hzero, ha, hb, hent, hdata, halign, hlo, hhi, hsound⟩ := h
  have hwidth2 : bits (j.get 16 1) 6 4 ≤ 2 := by split at hwidth <;> omega
  have hwide : bits (j.get 16 1) 6 4 ≠ 2 ∨ bits (j.get 16 1) 3 0 = 4 := by split at hwidth <;> omega
  rcases hwide with hwide | hwide <;>
    simp [Dev.atomCmd, hdata, hhead, hrsv, Nat.not_lt.mpr hle, Nat.not_lt.mpr hwidth2, hwide, hzero, hent, halign,
      Nat.div_eq_of_lt ha, Nat.div_eq_of_lt hb, Nat.not_lt.mpr hlo, Nat.not_lt.mpr hhi, hsound]

theorem atomRows_op_le : ∀ row ∈ atomRows, row.2 ≤ 5 := by decide

/-- Each row of the atomic unit takes the commands of its op. -/
theorem exec_atomRow : ∀ row ∈ atomRows, ∃ mine : Job → Bool, (∀ j : Job, j.op4 = row.2 → mine j = true)
    ∧ ∀ n s, exec (row.1 n) s = .next (s.withDev (s.dev.takeJob n 5 mine Dev.atomCmd)) := by
  simp only [atomRows, List.forall_mem_cons, List.not_mem_nil, false_implies, implies_true, and_true]
  and_intros <;> exact ⟨_, fun j hj => by simp [hj], fun _ _ => rfl⟩

/-- Settles O34: each row performs the command of its op, and the operations are those of `atomOp`. -/
theorem atomicOperations : Obligations.AtomicOperations := by
  unfold Obligations.AtomicOperations
  refine ⟨fun row hrow s n j ht hop4 => ?_, fun w x a b =>
    ⟨rfl, rfl, rfl, rfl, fun h => if_pos h, fun h => if_neg h, fun h => if_pos h, fun h => if_neg (Nat.not_le.mpr h)⟩⟩
  obtain ⟨mine, hmine, hexec⟩ := exec_atomRow row hrow
  intro d w x hhead hrsv hop hwidth hzero ha hb hent hdata halign hlo hhi hsound
  refine exec_withDev_congr (hexec n s) ?_
  rw [Dev.takeJob_ends ht mine Dev.atomCmd (hmine j hop4), Dev.atomCmd_performs hop (atomRows_op_le row hrow) rfl
    ⟨hhead, hrsv, hwidth, hzero, ha, hb, hent, hdata, halign, hlo, hhi, hsound⟩]

end Sys2Proof.Machine
end

section
/-! PROOF. The dispatcher (R296 to R299, R208): dispatch, placement from the hold queues and delivery to keepers; REQUEUE and SUBMIT
of a keeper (R301, R302). -/

namespace Sys2Proof.Machine

variable {d : Dev} {j : Job} {g h k l : Nat} {id : Tid} {p q : Pkt}

/-! ## The scheduling trace (R303) -/

/-- A scheduling-trace record leaves what does not read the trace. -/
theorem Dev.traceRec_leaves {α : Type} (read : Dev → α)
    (hread : ∀ trace, read (d.onDisp (fun x => { x with trace := trace })) = read d) (kind g task thread prio wait : Nat) :
    read (d.traceRec kind g task thread prio wait) = read d := by
  rw [Dev.traceRec]
  split
  · exact hread _
  · rfl

theorem Dev.lard_traceRec (kind g task thread prio wait : Nat) : (d.traceRec kind g task thread prio wait).lard = d.lard :=
  Dev.traceRec_leaves Dev.lard (fun _ => rfl) ..

theorem Dev.mode_traceRec (kind g task thread prio wait : Nat) : (d.traceRec kind g task thread prio wait).mode = d.mode :=
  Dev.traceRec_leaves Dev.mode (fun _ => rfl) ..

theorem Dev.pendingAt_traceRec (kind g task thread prio wait : Nat) :
    (d.traceRec kind g task thread prio wait).pendingAt h k = d.pendingAt h k :=
  Dev.traceRec_leaves (Dev.pendingAt · h k) (fun _ => rfl) ..

/-- The dispatcher's counters leave the mode: none of them is LOAD_STAT. -/
theorem Dev.mode_dispCount (i : Nat) : (d.dispCount i).mode = d.mode :=
  Dev.mode_setIo _ _ _ (by simp only [R.loadStat, R.dispCnt]; omega)

theorem Dev.thr_dispCount (i : Nat) : (d.dispCount i).thr id = d.thr id := rfl

theorem Dev.mode_freePending : (d.freePending g k).mode = d.mode := rfl

/-! ## Dispatch (R297, R208) -/

/-- The thread that starts a task: READY at the task's entry point, with its flags, count and events 0 and no tag (R208). -/
def Dev.taskThread (d : Dev) (id : Tid) (p : Pkt) (zero : Bool) : Thread := { d.thr id with
  state := .ready, pc := w32 (d.taskEntry (d.entryGen p) p.task), flags := 0, cnt := 0, ev := 0, evp := 0,
  mem := if zero then [] else (d.thr id).mem, b := spPut [] 0 (w32 descAt), wait := Wait.idle, tags := [], desc := some p,
  spent := false, running := true, codeGen := d.entryGen p, repAt := none, macroRun := none, killed := false }

/-- A task's start sets its thread, then writes the descriptor and the packet's window into the shelf (R294, R295). -/
theorem Dev.startTask_eq (d : Dev) (id : Tid) (p : Pkt) (zero : Bool) : d.startTask id p zero =
    (((d.setThr id (d.taskThread id p zero)).setLocalBytes id descAt p.desc).setLocalBytes id winHandle
      (leBytes 4 p.chain.handle)).setLocalBytes id winLength (leBytes 4 p.len) := rfl

theorem Dev.thr_startTask (d : Dev) (id : Tid) (p : Pkt) (zero : Bool) :
    ∃ mem, (d.startTask id p zero).thr id = { d.taskThread id p zero with mem := mem } := by
  obtain ⟨_, hdesc⟩ := Dev.thr_setLocalBytes id p.desc (d.setThr id (d.taskThread id p zero)) descAt
  obtain ⟨_, hhandle⟩ := Dev.thr_setLocalBytes id (leBytes 4 p.chain.handle) _ winHandle
  obtain ⟨mem, hlength⟩ := Dev.thr_setLocalBytes id (leBytes 4 p.len) _ winLength
  rw [Dev.startTask_eq, hlength, hhandle, hdesc, Dev.thr_setThr_same]
  exact ⟨mem, rfl⟩

/-- A dispatch starts the oldest entry of the highest level on the chosen thread, which then owns its chain (R297). -/
theorem Dev.dispatch_starts {rest : List Pkt} (hd : d.dispatches = true) (hl : topLevel (d.ready g) = some l)
    (hid : d.dispatchTo g = some id) (hr : d.ready g l = p :: rest) : d.dispatch g =
      (let e := (d.setReady g l rest).retag p.chain (ownerTag id)
       ((e.startTask id p false).dispCount 0).freeStep.traceRec 0 g p.task (ownerTag id) p.prio (e.freeVal % 2 ^ 32)) := by
  simp only [Dev.dispatch, hd, hl, hid, hr, Bool.not_true, Bool.false_eq_true, if_false]

/-! ## Placement (R298) -/

/-- The first member that satisfies `f` is taken, after members that do not. -/
theorem takeFirst_append {α : Type} {f : α → Bool} {a : α} (pre post : List α) (hpre : ∀ x ∈ pre, f x = false) (ha : f a = true) :
    takeFirst f (pre ++ a :: post) = some (a, pre ++ post) := by
  induction pre with
  | nil => exact if_pos ha
  | cons x pre ih =>
    obtain ⟨hx, hpre⟩ := List.forall_mem_cons.mp hpre
    simp [takeFirst, hx, ih hpre]

/-- A pipe places its oldest held entry that has a gallery to go to. -/
theorem Dev.holdPlace_places {pre post : List Pkt} (hq : d.holdQ g = pre ++ p :: post)
    (hpre : ∀ q ∈ pre, d.holdChoice q = none) (hp : d.holdChoice p = some h) : d.holdPlace g =
      (let e := d.setHoldQ g (pre ++ post)
       if p.keeperOf.isSome then e.placeKeeper h p else (e.onDisp (fun x => { x with lastGal := h })).placeEntry h p p.requeued) := by
  have htake : takeFirst (fun p => (d.holdChoice p).isSome) (d.holdQ g) = some (p, pre ++ post) :=
    hq ▸ takeFirst_append pre post (fun q hmem => by rw [hpre q hmem]; rfl) (by rw [hp]; rfl)
  simp only [Dev.holdPlace, htake, hp]

/-! ## Delivery to a keeper (R299) -/

/-- The oldest keeper entry of the highest level enters the first free pending slot and the keeper's channel. -/
theorem Dev.excDeliver_delivers {t : Tid} {n : Nat} {rest : List Pkt} (hl : topLevel (d.keeperReady g) = some l)
    (hk : d.keeper g = some t) (hn : (List.range 64).find? (fun p => (d.pendingAt g p).isNone) = some n)
    (hr : d.keeperReady g l = q :: rest) (hs : d.serving = true) (hon : d.chanOn g (d.liveFld R.dispCfg 11 4) = true)
    (hroom : (d.chan g (d.liveFld R.dispCfg 11 4)).length < 4) : d.excDeliver g =
      (let e := (d.setKeeperReady g l rest).setLocalBytes t (0x4A00 + 80 * n) (leBytes 80 q.key)
       let e := (e.retag q.chain (ownerTag t)).onDisp (fun x => { x with pending := spPut x.pending (pendKey g n) q })
       (e.chanPush g (d.liveFld R.dispCfg 11 4) ⟨q.excMsg n, 0, 0⟩).freeStep.traceRec 4 g 0xFFFF (ownerTag t) q.prio
         (e.freeVal % 2 ^ 32)) := by
  simp only [Dev.excDeliver, hl, hk, hn, hr]
  exact if_neg (by simp [hs, hon, hroom])

/-! ## REQUEUE (R301) -/

/-- The entry that a REQUEUE makes of a parked task: the next attempt, at the level the command gives, if it gives one. -/
def Job.requeueEntry (j : Job) (p : Pkt) : Pkt := { p with
  attempt := (p.attempt + 1) % 256, requeued := true, prio := if bitOf (j.get 18 1) 4 then bits (j.get 18 1) 3 0 else p.prio }

/-- The device on which a REQUEUE has taken the task from its parked thread. -/
def Dev.requeueTaken (d : Dev) (j : Job) (id : Tid) (p : Pkt) : Dev :=
  ((d.updThr id (fun t => { t with desc := none })).dispCount 6).traceRec 1 j.tid.g p.task (ownerTag id) (j.requeueEntry p).prio 0

theorem Dev.lard_requeueTaken : (d.requeueTaken j id p).lard = d.lard := Dev.lard_traceRec ..

theorem Dev.desc_requeueTaken : ((d.requeueTaken j id p).thr id).desc = none := by
  have hthr : (d.requeueTaken j id p).thr id = (d.updThr id (fun t => { t with desc := none })).thr id := Dev.thr_traceRec ..
  rw [hthr, Dev.thr_updThr_same]

theorem Dev.requeueCmd_notKeeper (hk : d.isKeeper j.tid = false) : d.requeueCmd j = ⟨Code.notOwner, 0, d⟩ := if_pos (by simp [hk])

/-- A keeper's REQUEUE of a parked task puts it at the head of its level. -/
theorem Dev.requeueCmd_requeues (hhead : j.headerBad = false) (hk : d.isKeeper j.tid = true) (hop : j.get 16 1 = 0)
    (hm : d.mode ≠ Mode.limp) (hid : d.tidAt j.tid.g (bits (j.get 17 1) 2 0) (bits (j.get 17 1) 5 3) = some id)
    (hp : (d.thr id).desc = some p) (hst : (d.thr id).state = .parked) (hown : d.chainOwned (ownerTag j.tid) p.chain = true)
    (hroom : d.queuedIn j.tid.g < 4096) :
    d.requeueCmd j = ⟨Code.ok, 0, (d.requeueTaken j id p).placeEntry j.tid.g (j.requeueEntry p) true⟩ := by
  simp [Dev.requeueCmd, hhead, hk, hop, hid, hp, hst, hown, Nat.not_le.mpr hroom, Dev.mode_traceRec, Dev.mode_dispCount,
    Dev.updThr, hm, Dev.requeueTaken, Job.requeueEntry]

/-! ## SUBMIT (R302) -/

/-- The task that a SUBMIT makes of a pending exception packet. -/
def Job.submitEntry (j : Job) (q : Pkt) : Pkt := { q with
  task := j.get 18 2, taskArg := j.get 20 2, egress := j.get 24 2, prio := bits (j.get 26 1) 3 0, attempt := 0, requeued := false }

/-- The device on which a SUBMIT for gallery `g` has freed its pending slot. -/
def Dev.submitTaken (d : Dev) (j : Job) (g : Nat) (q : Pkt) : Dev :=
  (d.freePending j.tid.g (bits (j.get 17 1) 5 0)).traceRec 6 g (j.get 18 2) (ownerTag j.tid) (j.submitEntry q).prio 0

theorem Dev.pendingAt_submitTaken : (d.submitTaken j g q).pendingAt j.tid.g (bits (j.get 17 1) 5 0) = none :=
  (Dev.pendingAt_traceRec ..).trans (spFind_spErase_same ..)

theorem Dev.submitCmd_notKeeper (hk : d.isKeeper j.tid = false) : d.submitCmd j = ⟨Code.notOwner, 0, d⟩ := if_pos (by simp [hk])

/-- A keeper's SUBMIT of a pending packet puts its task at the tail of its level, in the chosen gallery. -/
theorem Dev.submitCmd_submits (hhead : j.headerBad = false) (hk : d.isKeeper j.tid = true) (hm : d.mode ≠ Mode.limp)
    (hmask : d.taskMask j.gen (j.get 18 2) ≠ 0) (hegress : j.get 24 2 ≤ 4095)
    (hq : d.pendingAt j.tid.g (bits (j.get 17 1) 5 0) = some q) (hown : d.chainOwned (ownerTag j.tid) q.chain = true)
    (hg : d.chooseGallery (d.taskMask j.gen (j.get 18 2)) = some g) : d.submitCmd j = ⟨Code.ok, 0,
      ((d.submitTaken j g q).onDisp (fun x => { x with lastGal := g })).placeEntry g (j.submitEntry q) false⟩ := by
  simp [Dev.submitCmd, hhead, hk, hmask, Nat.not_lt.mpr hegress, hq, hown, hg, Dev.mode_traceRec, Dev.mode_freePending, hm,
    Dev.submitTaken, Job.submitEntry]

/-- Settles O35: each row of the dispatcher does what its lemma says of it. -/
theorem dispatcher : Obligations.Dispatcher := by
  unfold Obligations.Dispatcher
  refine ⟨fun s g => ⟨fun l id p rest hd hl hid hr => ?dispatch, fun pre p post h hq hpre hp => ?place, fun p hp => ?task,
    fun p h hp => ?keeper, fun l k n q rest hl hk hn hr hs hon hroom => ?deliver⟩, fun s n j ht hhead => ?commands⟩
  case dispatch =>
    obtain ⟨mem, hthr⟩ := Dev.thr_startTask ((s.dev.setReady g l rest).retag p.chain (ownerTag id)) id p false
    refine ⟨_, exec_withDev_congr rfl (Dev.dispatch_starts hd hl hid hr), rfl, ?_⟩
    rw [State.withDev, Dev.thr_traceRec, Dev.thr_freeStep, Dev.thr_dispCount, hthr]
    exact ⟨rfl, rfl, rfl, rfl, rfl, rfl, rfl, rfl⟩
  case place => exact exec_withDev_congr rfl (Dev.holdPlace_places hq hpre hp)
  case task => rw [Dev.holdChoice, hp]
  case keeper => rw [Dev.holdChoice, hp]
  case deliver => exact exec_withDev_congr rfl (Dev.excDeliver_delivers hl hk hn hr hs hon hroom)
  case commands =>
    have hrequeue (hop : j.get 16 1 = 0) := Dev.takeJob_ends ht (fun j => j.get 16 1 ≠ 1) Dev.requeueCmd (by simp [hop])
    have hsubmit (hop : j.get 16 1 = 1) := Dev.takeJob_ends ht (fun j => j.get 16 1 = 1) Dev.submitCmd (by simp [hop])
    intro d
    refine ⟨fun hk => ?notKeeper, fun id p hk hop hm hid hp hst hown hroom => ?requeue,
      fun q g hk hop hm hmask hegress hq hown hg => ?submit⟩
    case notKeeper =>
      simp only [List.forall_mem_cons, List.not_mem_nil, false_implies, implies_true, and_true]
      exact ⟨fun hop => exec_withDev_congr rfl ((hrequeue hop).trans (by rw [Dev.requeueCmd_notKeeper hk])),
        fun hop => exec_withDev_congr rfl ((hsubmit hop).trans (by rw [Dev.submitCmd_notKeeper hk]))⟩
    case requeue =>
      refine ⟨j.requeueEntry p, d.requeueTaken j id p, exec_withDev_congr rfl ((hrequeue hop).trans ?_), rfl, rfl, rfl, rfl,
        Dev.desc_requeueTaken, Dev.lard_requeueTaken⟩
      rw [Dev.requeueCmd_requeues hhead hk hop hm hid hp hst hown hroom]
    case submit =>
      refine ⟨j.submitEntry q, (d.submitTaken j g q).onDisp (fun x => { x with lastGal := g }),
        exec_withDev_congr rfl ((hsubmit hop).trans ?_), rfl, rfl, rfl, rfl, rfl, rfl, Dev.pendingAt_submitTaken⟩
      rw [Dev.submitCmd_submits hhead hk hm hmask hegress hq hown hg]

end Sys2Proof.Machine
end

section
/-! PROOF. The machine as a whole: a step and its answer. -/

namespace Sys2Proof.Machine

/-- Settles O1: the two cases of `step`, by the shape of the queue. -/
theorem frontCommandRuns : Obligations.FrontCommandRuns := by
  unfold Obligations.FrontCommandRuns
  constructor
  · intro s c rest h
    simp only [step, h, State.popped]
  · intro s h
    simp only [step, h]

/-- Settles O2: an empty queue idles, and a command answers with a new device or with a captured view, the queue's rest kept. -/
theorem everyStepAnswers : Obligations.EveryStepAnswers := by
  intro s
  rcases hq : s.pending with _ | ⟨c, rest⟩
  case nil => exact ⟨s, frontCommandRuns.2 s hq, hq⟩
  case cons =>
    rw [frontCommandRuns.1 s c rest hq]
    by_cases hc : ∃ v, c = .viewCapture v
    case pos =>
      obtain ⟨v, rfl⟩ := hc
      rcases hdue : State.dev { s with pending := rest } |>.captureDue v with _ | _
      · exact ⟨_, exec_viewCapture_notDue hdue, rfl⟩
      · exact ⟨_, exec_viewCapture_due hdue, rfl⟩
    case neg =>
      obtain ⟨d, hd⟩ := exec_withDev (not_exists.mp hc) { s with pending := rest }
      exact ⟨_, hd, rfl⟩

end Sys2Proof.Machine
end

section
/-! PROOF. The Lode (chapter 13): which rows match a search, and which wins. -/

namespace Sys2Proof.Machine

/-! ## The winner of a search (R351) -/

/-- There is a winner of every search that a row matches. -/
theorem lodeBest_eq_none_iff {l : List (Nat × LodeRow)} : lodeBest l = none ↔ l = [] := by
  cases l with
  | nil => simp [lodeBest]
  | cons x xs => simp only [lodeBest]; split <;> (try split) <;> simp

/-- The winner is a row of the list, of the highest priority, and of the lowest number among equals. -/
theorem lodeBest_wins {l : List (Nat × LodeRow)} (hl : spSorted l = true) :
    ∀ x, lodeBest l = some x → x ∈ l ∧ ∀ y ∈ l, y.2.prio ≤ x.2.prio ∧ (y.2.prio = x.2.prio → x.1 ≤ y.1) := by
  induction l with
  | nil => simp [lodeBest]
  | cons a l ih =>
    simp only [spSorted, Bool.and_eq_true] at hl
    obtain ⟨habove, hsorted⟩ := hl
    have hfirst : ∀ e ∈ l, a.1 < e.1 := (spAbove_iff a.1 l hsorted).mp habove
    intro x hx
    simp only [lodeBest] at hx
    split at hx
    case h_1 z hz =>
      obtain ⟨hmem, hbest⟩ := ih hsorted z hz
      split at hx <;> cases hx
      case isTrue hlt =>
        refine ⟨List.mem_cons_of_mem a hmem, List.forall_mem_cons.mpr ⟨?_, hbest⟩⟩
        omega
      case isFalse hge =>
        refine ⟨List.mem_cons_self, List.forall_mem_cons.mpr ⟨⟨le_refl _, fun _ => le_refl _⟩, fun y hy => ?_⟩⟩
        have := (hbest y hy).1
        have := hfirst y hy
        omega
    case h_2 hnone =>
      cases hx
      simp [lodeBest_eq_none_iff.mp hnone]

/-- A search lists the rows of the Lode that match the key, are sound and stand in a bank that takes part. -/
theorem Dev.mem_lodeMatches {d : Dev} {x : Nat × LodeRow} : x ∈ d.lodeMatches gen key pf w ↔
    x ∈ d.lode.rows ∧ (x.2.matches key = true ∧ d.bankTakes gen (x.1 / 1024) pf w = true)
      ∧ d.lode.hurt.contains x.1 = false := by
  simp only [Dev.lodeMatches, List.mem_filter, Bool.and_eq_true, Bool.not_eq_true']

/-- A bank takes part when it is enabled, of the search's class and, for class T, admits the pre-filter. -/
theorem Dev.bankTakes_iff {d : Dev} : d.bankTakes gen bank pf w = true ↔
    bitOf (d.at gen (R.lodeBank0 + 8 * bank)) 17 = true ∧ bitOf (d.at gen (R.lodeBank0 + 8 * bank)) 16 = w
      ∧ (w = false → pf &&& bits (d.at gen (R.lodeBank0 + 8 * bank)) 15 8 = bits (d.at gen (R.lodeBank0 + 8 * bank)) 7 0) := by
  cases w <;> simp [Dev.bankTakes, and_assoc]

theorem LodeRow.matches_iff {r : LodeRow} : r.matches key = true ↔ r.valid = true ∧ key &&& r.mask = r.value := by
  simp [LodeRow.matches]

/-- Settles O43: the filter of the rows, and the winner by induction on the list of the rows that match. -/
theorem lodeWinner : Obligations.LodeWinner := by
  unfold Obligations.LodeWinner
  refine ⟨fun d gen key pf w x => ?_, fun l hl => ⟨lodeBest_eq_none_iff, lodeBest_wins hl⟩⟩
  simp only [Dev.mem_lodeMatches, Dev.bankTakes_iff, LodeRow.matches_iff]
  tauto

end Sys2Proof.Machine
end

section
/-! PROOF. The debugger (R517): what each op does to the thread that a master selects. -/

namespace Sys2Proof.Machine

variable {d e : Dev} {m v : Nat} {id : Tid}

/-- The device on which an op of master `m` has begun: the code of its last op stands alone in DBUG_STAT. -/
def Dev.dbugBegun (d : Dev) (m : Nat) : Dev :=
  (d.setPer m R.dbugStat (d.dbugCode m * 2 ^ 8)).onCores (fun c => { c with halting := spErase c.halting m })

/-- The device on which an op of master `m` has completed with `code`. -/
def Dev.dbugDone (d : Dev) (m code : Nat) : Dev := d.setPer m R.dbugStat (code * 2 ^ 8)

/-- The device on which master `m` waits for the thread its op acts on. -/
def Dev.dbugLate (d : Dev) (m : Nat) (id : Tid) : Dev := d.onCores (fun c => { c with halting := spPut c.halting m id })

theorem Dev.thr_dbugBegun : (d.dbugBegun m).thr id = d.thr id := rfl

theorem Dev.isKeeper_dbugBegun : (d.dbugBegun m).isKeeper id = d.isKeeper id := rfl

/-- The thread that master `m` selects is the one of DBUG_SEL, which beginning an op leaves. -/
theorem Dev.dbugThread_dbugBegun : (d.dbugBegun m).dbugThread m = d.dbugThread m := by
  have hsel : (d.dbugBegun m).per m R.dbugSel = d.per m R.dbugSel :=
    Dev.per_setPer_ne d m R.dbugStat (d.dbugCode m * 2 ^ 8) m R.dbugSel (by simp [perKey])
  unfold Dev.dbugThread
  rw [hsel]
  rfl

/-- How an op with this effect on the thread ends: refused, late, or at once. -/
def Dev.dbugEnds (d : Dev) (m : Nat) (id : Tid) : Option Dev → Dev
  | none => d.dbugDone m Code.reserved
  | some e => if (e.thr id).debugLate then e.dbugLate m id else e.dbugDone m Code.ok

/-- An op of a master that is not busy, on a thread it selects, ends as its effect says. -/
theorem Dev.dbugCtl_ends (hp : d.noPath m = false) (hs : d.serving = true) (hb : d.dbugBusy m = false)
    (ht : d.dbugThread m = some id) (hv : v < 4) :
    d.dbugCtl m v = (d.dbugBegun m).dbugEnds m id ((d.dbugBegun m).dbugEffect m v id) := by
  have hsel := Dev.dbugThread_dbugBegun.trans ht
  unfold Dev.dbugBegun at hsel
  rw [Dev.dbugCtl, Dev.doorbell_acts _ _ _ _ _ _ _ hp (Dev.blockOpen_of_serving _ hs _) (.inl rfl) (by omega)]
  simp only [hb, Nat.div_eq_of_lt hv, Nat.mod_eq_of_lt hv, hsel, ne_eq, not_true_eq_false, Bool.false_eq_true, if_false,
    Dev.dbugBegun]
  split <;> simp_all only [Dev.dbugEnds] <;> rfl

/-! ## The effect of each op (R517) -/

/-- A master other than the head keeper may HALT any thread. -/
theorem Dev.dbugEffect_halt (hm : m = 3 ∨ m = 4) : Dev.dbugEffect d m 0 id = d.haltThread id := by
  rcases hm with rfl | rfl <;> simp [Dev.dbugEffect]

theorem Dev.dbugEffect_step (hm : m = 3 ∨ m = 4) : Dev.dbugEffect d m 2 id = d.stepThread id := by
  rcases hm with rfl | rfl <;> simp [Dev.dbugEffect]

theorem Dev.haltThread_idle (h : (d.thr id).state = .idle) :
    d.haltThread id = some (d.updThr id (fun t => { t with state := .halted })) := by simp [Dev.haltThread, h]

theorem Dev.haltThread_ready (h : (d.thr id).state = .ready) (hm : (d.thr id).macroRun = none) :
    d.haltThread id = some (d.updThr id (fun t => { t with state := .halted, stepping := false })) := by simp [Dev.haltThread, h, hm]

theorem Dev.haltThread_waiting (h : (d.thr id).state = .waiting) (hk : (d.thr id).wait.kind ≠ .sess)
    (hm : (d.thr id).macroRun = none) : d.haltThread id = some (d.haltWait id) := by simp [Dev.haltThread, h, hk, hm]

theorem Dev.haltThread_late (h : (d.thr id).state = .ready ∧ (d.thr id).macroRun ≠ none
      ∨ (d.thr id).state = .waiting ∧ ((d.thr id).wait.kind = .sess ∨ (d.thr id).macroRun ≠ none)) :
    d.haltThread id = some (d.updThr id (fun t => { t with haltReq := true })) := by
  rcases h with ⟨h, hm⟩ | ⟨h, hw | hm⟩
  · simp [Dev.haltThread, h, Option.isSome_iff_ne_none.mpr hm]
  · simp [Dev.haltThread, h, hw]
  · simp [Dev.haltThread, h, Option.isSome_iff_ne_none.mpr hm]

theorem Dev.haltThread_refused (h : (d.thr id).state = .halted ∨ (d.thr id).state = .parked) : d.haltThread id = none := by
  rcases h with h | h <;> simp [Dev.haltThread, h]

theorem Dev.resumeThread_halted (h : (d.thr id).state = .halted) : d.resumeThread id = some
    (d.updThr id (fun t => { t with state := if t.running || d.isKeeper id then .ready else .idle })) := if_pos h

theorem Dev.stepThread_halted (h : (d.thr id).state = .halted) :
    d.stepThread id = some (d.updThr id (fun t => { t with state := .ready, stepping := true })) := if_pos h

/-- A wait that a HALT ends leaves the thread HALTED, with no op outstanding. -/
theorem Dev.thr_haltWait : ((d.haltWait id).thr id).state = .halted ∧ ((d.haltWait id).thr id).haltReq = false := by
  simp [Dev.haltWait]

/-- Settles O58: each op completes at once or late, by the effect that its lemma gives for the thread's state. -/
theorem debugger : Obligations.Debugger := by
  unfold Obligations.Debugger
  intro s m id hm hp hs hb ht t d done late
  have hthr : d.thr id = t := rfl
  have ends (v : Nat) (hv : v < 4) {o : Option Dev} (he : d.dbugEffect m v id = o) : s.dev.dbugCtl m v = d.dbugEnds m id o :=
    he ▸ Dev.dbugCtl_ends hp hs hb ht hv
  have refused (v : Nat) (hv : v < 4) (he : d.dbugEffect m v id = none) : s.dev.dbugCtl m v = done d Code.reserved := ends v hv he
  have atOnce (v : Nat) (hv : v < 4) {e : Dev} (he : d.dbugEffect m v id = some e) (hl : (e.thr id).debugLate = false) :
      s.dev.dbugCtl m v = done e Code.ok := (ends v hv he).trans (if_neg (by simp [hl]))
  have later (v : Nat) (hv : v < 4) {e : Dev} (he : d.dbugEffect m v id = some e) (hl : (e.thr id).debugLate = true) :
      s.dev.dbugCtl m v = late e := (ends v hv he).trans (if_pos hl)
  have halt {o : Option Dev} (h : d.haltThread id = o) : d.dbugEffect m 0 id = o := (Dev.dbugEffect_halt hm).trans h
  refine ⟨fun hst hreq => ?idle, fun hst hreq hmac => ?ready, fun hst hk hmac => ?waiting, fun h => ?late, fun hst => ?halted,
    fun hst => ?notHalted, fun hst => ?refused⟩
  case idle =>
    exact exec_withDev_congr rfl (atOnce 0 (by decide) (halt (Dev.haltThread_idle hst)) (by simp [Thread.debugLate, hthr, hreq]))
  case ready =>
    exact exec_withDev_congr rfl (atOnce 0 (by decide) (halt (Dev.haltThread_ready hst hmac))
      (by simp [Thread.debugLate, hthr, hreq]))
  case waiting =>
    obtain ⟨hhalted, hnone⟩ := Dev.thr_haltWait (d := d) (id := id)
    exact ⟨exec_withDev_congr rfl (atOnce 0 (by decide) (halt (Dev.haltThread_waiting hst hk hmac))
      (by simp [Thread.debugLate, hhalted, hnone])), hhalted⟩
  case late =>
    exact exec_withDev_congr rfl (later 0 (by decide) (halt (Dev.haltThread_late h)) (by simp [Thread.debugLate]))
  case halted =>
    exact ⟨fun hreq hstep => exec_withDev_congr rfl (atOnce 1 (by decide) (Dev.resumeThread_halted hst)
        (by simp [Thread.debugLate, hthr, hreq, hstep])),
      exec_withDev_congr rfl (later 2 (by decide) ((Dev.dbugEffect_step hm).trans (Dev.stepThread_halted hst))
        (by simp [Thread.debugLate]))⟩
  case notHalted =>
    exact ⟨exec_withDev_congr rfl (refused 1 (by decide) (if_neg hst)),
      exec_withDev_congr rfl (refused 2 (by decide) ((Dev.dbugEffect_step hm).trans (if_neg hst)))⟩
  case refused => exact exec_withDev_congr rfl (refused 0 (by decide) (halt (Dev.haltThread_refused hst)))

end Sys2Proof.Machine
end

section
/-! PROOF. The Rope (chapter 18): link, HELLO and version. -/

namespace Sys2Proof.Machine

variable {d : Dev}

/-! ## The state of the link -/

/-- The state of the link is the low field of the state, version and reason of ROPE_STAT. -/
theorem Dev.ropeSt_eq (d : Dev) : d.ropeSt = d.ioFld R.ropeStat 5 0 % 4 := by
  simp only [Dev.ropeSt, Dev.ioFld, bits]
  omega

theorem Dev.ropeSt_bump (h : R.ropeStat ≠ o) : (d.bump o).ropeSt = d.ropeSt := Dev.ioFld_setIo_ne _ _ _ _ _ _ h

/-- Setting state, version and reason sets the state. -/
theorem Dev.ropeSt_setRope (st ver reason : Nat) (hst : st < 4) : (d.setRope st ver reason).ropeSt = st := by
  rw [Dev.ropeSt_eq, Dev.setRope]
  split
  case isTrue h => omega
  case isFalse =>
    have := Dev.ioFld_setIoFld_same d R.ropeStat 5 0 (st + 4 * ver + 16 * reason) (by decide) (by decide)
    simp only [Dev.ioFld, Dev.io, Dev.vector, Dev.onHost] at this ⊢
    rw [this]
    omega

theorem Dev.rope_setRope (st ver reason : Nat) : (d.setRope st ver reason).rope = d.rope := by
  simp only [Dev.setRope]
  split <;> rfl

/-- Leaving UP ends every request; outside UP there is nothing to leave. -/
theorem Dev.reqs_ropeLeave : d.ropeLeave.rope.reqs = if d.ropeSt = 2 then [] else d.rope.reqs := by
  simp only [Dev.ropeLeave, ne_eq, ite_not]
  split <;> rfl

/-- A link that is lost is DOWN, forgets its partner and has no request of UP left. -/
theorem Dev.ropeLoss_downs (h : d.ropeSt ≠ 0) : d.ropeLoss.ropeSt = 0 ∧ d.ropeLoss.rope.peer = none
    ∧ d.ropeLoss.rope.reqs = (if d.ropeSt = 2 then [] else d.rope.reqs) := by
  rw [Dev.ropeLoss, if_neg h]
  refine ⟨?_, rfl, ?_⟩
  · exact (Dev.ropeSt_bump (d := d.ropeLeave.setRope 0 0 0) (by decide)).trans (Dev.ropeSt_setRope 0 0 0 (by decide))
  · exact (congrArg Rope.reqs (Dev.rope_setRope 0 0 0)).trans Dev.reqs_ropeLeave

/-! ## HELLO -/

theorem leAt_lt (bs : Bytes) (off n : Nat) : leAt bs off n < 256 ^ n := by
  simpa [leAt, length_slice] using leNat_lt (slice bs off n)

/-- A pair of registers reads as it was set. -/
theorem Dev.io64_setIo64 (o : Nat) (hv : v < 2 ^ 64) : (d.setIo64 o v).io64 o = v := by
  rw [Dev.io64, Dev.setIo64, Dev.io_setIo_ne _ _ _ _ (by omega), Dev.io_setIo_same, Dev.io_setIo_same]
  omega

theorem Dev.io64_setIo_ne (v : Nat) (hlo : o ≠ p) (hhi : o + 4 ≠ p) : (d.setIo p v).io64 o = d.io64 o := by
  rw [Dev.io64, Dev.io64, Dev.io_setIo_ne _ _ _ _ hlo, Dev.io_setIo_ne _ _ _ _ hhi]

/-- What a HELLO leaves: when it came, what it said of its sender, and the sender's serial number. -/
theorem Dev.helloRecord_keeps (p : Bytes) : (d.helloRecord p).rope.heard = d.drip.now
    ∧ (d.helloRecord p).rope.peer = some (leAt p 0 2 &&& 6, slice p 12 32)
    ∧ (d.helloRecord p).io64 R.ropePeerSerialLo = leAt p 4 8 := by
  refine ⟨?_, rfl, ?_⟩
  · simp only [Dev.helloRecord]
    split <;> rfl
  · simp only [Dev.helloRecord]
    generalize (if d.ioFld R.ropeStat 10 8 = leAt p 0 2 % 8 then d else _) = e
    exact (Dev.io64_setIo_ne (d := e.setIo64 _ _) _ (by decide) (by decide)).trans (Dev.io64_setIo64 _ (leAt_lt p 4 8))

theorem Dev.drip_groupUp (ls pos : List Nat) (lock : Bool) : (d.groupUp ls pos lock).drip = d.drip :=
  show (d.groupUp ls pos lock).butIo.drip = d.butIo.drip by rw [Dev.butIo_groupUp]

/-- Settles O54: each command of the link runs where its condition holds, and the decision follows the highest common version. -/
theorem ropeLink : Obligations.RopeLink := by
  unfold Obligations.RopeLink
  refine ⟨fun s => ⟨fun pos hl hst hs => ⟨?up, ?noLock⟩, fun los hl => ?down, fun hs hst ht => ⟨?send, ?sentAt, ?sent⟩, fun hs ht => ?timeout,
    fun mask owner hs hst hp hsent hgot => ?negotiate, fun p hp hst hpeer => ⟨?first, Dev.helloRecord_keeps p⟩, fun p x hp hst hpeer hx => ?changed⟩,
    fun d h => Dev.ropeLoss_downs h, fun d mask owner => ⟨fun h => ?owner, fun h => ⟨fun h2 => ?two, fun h2 h1 => ?one, fun h2 h1 => ?no⟩⟩⟩
  case up =>
    have hdown : s.dev.ropeSt = RopeSt.down := hst
    exact exec_withDev_congr rfl (by simp [hl, hdown, hs, Dev.drip_groupUp])
  case noLock =>
    have hdown : s.dev.ropeSt = RopeSt.down := hst
    exact exec_withDev_congr rfl (by simp [hl, hdown, hs])
  case down => exact exec_withDev_congr rfl (by simp [hl])
  case send => exact exec_withDev_congr rfl (by simp [hs, hst, ht])
  case sentAt => rfl
  case sent => rfl
  case timeout => exact exec_withDev_congr rfl (by simp [hs, ht])
  case negotiate => exact exec_withDev_congr rfl (by simp [hp, hs, hst, hsent, hgot])
  case first => exact exec_withDev_congr rfl (by simp [hp, hst, hpeer])
  case changed => exact exec_withDev_congr rfl (by simp [hp, hst, hpeer, hx])
  case owner => exact if_pos h
  case two => simp [Dev.ropeDecide, h, topVersion, h2]
  case one => simp [Dev.ropeDecide, h, topVersion, h2, h1]
  case no => simp [Dev.ropeDecide, h, topVersion, h2, h1]

end Sys2Proof.Machine
end

section
/-! PROOF. Seal commands and key slots (chapter 12): the checks of the pool, and the changes of a slot. -/

namespace Sys2Proof.Machine

variable {d : Dev} {j : Job}

/-! ## Seal commands (R313, R315) -/

/-- A seal command that the pool's check refuses completes with its code. -/
theorem Dev.sealAdmit_refuses (ht : d.takes n j 0 = true) (hm : mine j.sealOp = true)
    (hc : (d.unqueue n j).sealCheck j ≠ Code.ok) : d.sealAdmit n mine =
      (if (d.unqueue n j).sealCheck j = Code.poisoned then (d.unqueue n j).countPtrs j.sealPtrs else d.unqueue n j).finishJob n
        ((d.unqueue n j).sealCheck j) 0 :=
  Dev.admitJob_refuses ht (fun j => mine j.sealOp) Dev.sealCheck Dev.sealNote Dev.enterPool hm hc

/-- A seal command that passes the pool's check waits in its queue. -/
theorem Dev.sealAdmit_admits (ht : d.takes n j 0 = true) (hm : mine j.sealOp = true)
    (hc : (d.unqueue n j).sealCheck j = Code.ok) : d.sealAdmit n mine =
      ((d.unqueue n j).setJob n { j with phase := .running }).enterPool n j :=
  Dev.admitJob_admits ht (fun j => mine j.sealOp) Dev.sealCheck Dev.sealNote Dev.enterPool hm hc

/-- The checks of R285 come first. -/
theorem Dev.sealCheck_first (h : d.cmdCheck j j.sealPtrs false ≠ Code.ok) :
    d.sealCheck j = d.cmdCheck j j.sealPtrs false := if_pos h

/-- A key whose policy or state forbids the command refuses it. -/
theorem Dev.sealCheck_forbidden (h : d.cmdCheck j j.sealPtrs false = Code.ok) (hs : j.slotted = true)
    (hk : d.keySlot j.keySlot = some k) (hp : d.slotPermits j k = false) : d.sealCheck j = Code.notOwner := by
  simp [Dev.sealCheck, h, hs, hk, hp]

/-- Without such a key the version decides, and then what is reserved. -/
theorem Dev.sealCheck_permitted (h : d.cmdCheck j j.sealPtrs false = Code.ok)
    (hp : ∀ k, j.slotted = true → d.keySlot j.keySlot = some k → d.slotPermits j k = true) :
    (d.sealVersion j = true → d.sealCheck j = Code.versionMismatch)
    ∧ (d.sealVersion j = false → algOf j.alg = none ∨ algAccepts j.alg j.sealOp = false ∨ j.get 22 2 ≠ 0
        ∨ j.sealUnused = true ∨ j.sealOptions = true ∨ j.sealLengths = true ∨ d.sealSlotBad j = true ∨ d.sealHeadBad j = true →
      d.sealCheck j = Code.reserved) := by
  have hfree : j.slotted = false ∨ d.keySlot j.keySlot = none ∨ ∃ k, d.keySlot j.keySlot = some k ∧ d.slotPermits j k = true := by
    cases hs : j.slotted
    case false => exact .inl rfl
    case true =>
      cases hk : d.keySlot j.keySlot
      case none => exact .inr (.inl rfl)
      case some k => exact .inr (.inr ⟨k, rfl, hp k hs hk⟩)
  rw [Dev.sealCheck, if_neg (by simp [h]), if_neg (by rcases hfree with hs | hk | ⟨k, hk, hpk⟩ <;> simp [*])]
  constructor
  · intro hv
    rw [if_pos hv]
  · intro hv hbad
    rw [if_neg (by simp [hv]), if_pos (by rcases hbad with hb | hb | hb | hb | hb | hb | hb | hb <;> simp [hb])]

/-! ## Key slots (R307, R312) -/

/-- A write of SEAL_SLOT_CTL by a master of the owner set waits for the boundary. -/
theorem Dev.slotCtl_held (hp : d.noPath m = false) (hs : d.serving = true) (ho : d.owns m 15 = true) (hn : n < 2 ^ 16)
    (hop : op < 4) : d.slotCtl m (n + op * 2 ^ 16) =
      d.onPool (fun p => { p with changes := p.changes ++ [.control m n op] }) := by
  have hslot : bits (n + op * 2 ^ 16) 15 0 = n := by simp only [bits]; omega
  have hbits : bits (n + op * 2 ^ 16) 17 16 = op := by simp only [bits]; omega
  rw [Dev.slotCtl, Dev.ownDoorbell_acts _ _ _ _ _ _ _ hp (Dev.blockOpen_of_serving _ hs _) ho (show n + op * 2 ^ 16 < 2 ^ 18 by omega), hslot, hbits]

/-- DESTROY empties the slot. -/
theorem Dev.slotControl_destroy (hk : d.keySlot n = some k) :
    (d.slotControl n 2).1 = Code.ok ∧ (d.slotControl n 2).2.keySlot n = none := by
  simp only [Dev.slotControl, hk, true_and]
  generalize Dev.mapItems _ _ = e
  exact spFind_spErase_same ..

/-- Each row of `sealRows` runs the pool's check for its own op. -/
theorem exec_sealRows (hrow : row ∈ sealRows) : ∃ mine : Nat → Bool, mine row.2 = true ∧
    ∀ (n : Nat) (s : State), exec (row.1 n) s = .next (s.withDev (s.dev.sealAdmit n mine)) := by
  simp only [sealRows, List.mem_cons, List.not_mem_nil, or_false] at hrow
  rcases hrow with rfl | rfl | rfl | rfl | rfl | rfl | rfl | rfl <;> exact ⟨_, by simp, fun _ _ => rfl⟩

/-- Each row of `slotRows` writes SEAL_SLOT_CTL with its own op. -/
theorem exec_slotRows (hrow : row ∈ slotRows) : row.2 < 4 ∧
    ∀ (m n : Nat) (s : State), n < 2 ^ 16 → exec (row.1 m n) s = .next (s.withDev (s.dev.slotCtl m (n + row.2 * 2 ^ 16))) := by
  simp only [slotRows, List.mem_cons, List.not_mem_nil, or_false] at hrow
  rcases hrow with rfl | rfl | rfl <;>
    refine ⟨by simp, fun m n s hn => exec_withDev_congr rfl (congrArg (Dev.slotCtl s.dev m) ?_)⟩ <;> omega

/-- Settles O38: each row takes its command as the pool's check says, and a slot changes as its own state lets it. -/
theorem sealCommands : Obligations.SealCommands := by
  unfold Obligations.SealCommands
  refine ⟨?commands, ⟨?requests, fun d n op hop => ⟨fun hk => ?empty, fun k hk => ⟨?suspend, ?resume, ?neither, ?destroy⟩⟩⟩⟩
  case commands =>
    intro row hrow s n j ht hop d
    obtain ⟨mine, hmine, hexec⟩ := exec_sealRows hrow
    have hm : mine j.sealOp = true := hop ▸ hmine
    exact ⟨fun hc => exec_withDev_congr (hexec n s) (Dev.sealAdmit_refuses ht hm hc),
      fun hc => exec_withDev_congr (hexec n s) (Dev.sealAdmit_admits ht hm hc), Dev.sealCheck_first,
      fun h => ⟨fun k => Dev.sealCheck_forbidden h, Dev.sealCheck_permitted h⟩⟩
  case requests =>
    intro row hrow s m n hn hp hs ho
    obtain ⟨hop, hexec⟩ := exec_slotRows hrow
    exact exec_withDev_congr (hexec m n s hn) (Dev.slotCtl_held hp hs ho hn hop)
  case empty => simp only [Dev.slotControl, hk]
  case suspend => rintro rfl h; simp [Dev.slotControl, hk, h]
  case resume => rintro rfl h; simp [Dev.slotControl, hk, h]
  case neither =>
    intro hop h
    obtain rfl | rfl : op = 0 ∨ op = 1 := by omega
    all_goals simp [Dev.slotControl, hk, h]
  case destroy => rintro rfl; exact Dev.slotControl_destroy hk

end Sys2Proof.Machine
end

section
/-! PROOF. The seal pool (chapter 12): the arbiter, the end of a job, verification by another engine. -/

namespace Sys2Proof.Machine

variable {d : Dev} {j : Job} {it : SealItem} {e : Nat}

/-! ## The arbiter (R317, R415) -/

/-- What the arbiter would place next is a verification that the engine is not barred from, or an admitted command. -/
theorem Dev.nextSeal_mem (h : d.nextSeal e = some it) :
    (it ∈ d.pool.queue ∧ it.adm = true) ∨ (it ∈ d.pool.adj ∧ e ∉ it.banned) := by
  unfold Dev.nextSeal at h
  simp only at h
  split at h
  case isTrue => simp at h
  case isFalse =>
    split at h
    case h_1 i hi =>
      cases h
      exact .inr ⟨List.mem_of_find?_eq_some hi, by simpa using List.find?_some hi⟩
    case h_2 =>
      split at h
      case h_1 i hi =>
        cases h
        have := List.find?_some hi
        exact .inl ⟨List.mem_of_find?_eq_some hi, by simp_all⟩
      case h_2 => exact .inl ⟨List.mem_of_find?_eq_some h, by simpa using List.find?_some h⟩

/-- The arbiter places the job that it chooses the engine for. -/
theorem Dev.sealDispatch_places (hs : d.serving = true) (hn : d.nextSeal e = some it) (hc : d.chooseEng it = some e) :
    d.sealDispatch e =
      (let d := d.onPool (fun p => { p with adj := p.adj.erase it, queue := p.queue.erase it })
       if it.stage = .perform then d.dispatchNew e it else d.placeJob e it) := by
  simp [Dev.sealDispatch, hs, hn, hc]

/-! ## The end of a job (R319 to R321) -/

/-- The job that an active engine runs is taken up by the stage it is in. -/
theorem Dev.sealComplete_ends (hs : d.serving = true) (ha : (d.eng e).state = .active) (hj : (d.eng e).jobs = it :: rest)
    (hjob : d.job it.job = some j) : d.sealComplete e ok =
      (let d := d.setEng e { d.eng e with jobs := rest }
       if it.stage = .perform then d.performed e j it ok else d.verified e j it ok) := by
  simp only [Dev.sealComplete, hj]
  rw [if_neg (by simp [hs, ha])]
  simp only [show (d.setEng e { d.eng e with jobs := rest }).job it.job = some j from hjob]

/-- A SIGN, GENERATE or IMPORT goes to verification by another engine. -/
theorem Dev.performed_toVerify (h : j.sealOp = 0 ∨ j.sealOp = 5 ∨ j.sealOp = 6) : d.performed e j it ok =
    d.freeStep.toAdj { it with stage := .selfVerify, banned := [e], p1 := e, good := ok, sig := d.produce j it ok } := by
  rcases h with h | h | h <;> simp only [Dev.performed, h]

/-- A signature that the verifying engine finds good is released. -/
theorem Dev.verified_good (hst : it.stage = .selfVerify) (hv : verdictOwn j it ok = true) :
    d.verified e j it ok = d.releaseSig it it.p1 e := by
  simp only [Dev.verified, hst, hv, if_true]

/-- The release of a SIGN's signature under a slot that still holds its key. -/
theorem Dev.releaseSig_sign (hj : d.job it.job = some j) (hop : j.sealOp = 0) (hg : it.gone = none)
    (hk : d.keySlot j.keySlot = some k) : d.releaseSig it p v =
      ((((d.setKeySlot j.keySlot { k with count := k.count + 1, reserved := k.reserved - 1 }).ptrWrite j (j.ptr 40)
        it.sig).ptrWrite j (j.ptr 48) (signArea it.sig.length (k.count + 1) j.keySlot p v)).sealCount 0).finishJob it.job Code.ok
          (j.keySlot * 2 ^ 48 + (k.count + 1) % 2 ^ 48) := by
  simp only [Dev.releaseSig, hj, hop, Dev.itemKey, hg, hk, Dev.setItemKey, Option.getD_some, Dev.sealResult, if_true]

/-- Settles O39: each part is the lemma of its function. -/
theorem sealPool : Obligations.SealPool := by
  unfold Obligations.SealPool
  refine ⟨fun s e it hs hn hc => ?place, fun d e it => Dev.nextSeal_mem, fun s e ok it rest j hs ha hj hjob => ?ends,
    fun d e ok it j => Dev.performed_toVerify, fun d e ok it j => Dev.verified_good,
    fun d p v it j k => Dev.releaseSig_sign, fun d it ok => rfl⟩
  case place => exact exec_withDev_congr rfl (Dev.sealDispatch_places hs hn hc)
  case ends => exact exec_withDev_congr rfl (Dev.sealComplete_ends hs ha hj hjob)

end Sys2Proof.Machine
end

section
/-! PROOF. Engine health (chapters 12 and 13): retirement, spares, tests and fences. -/

namespace Sys2Proof.Machine

variable {d : Dev} {e x : Nat}

/-! ## Seal engines (R322, R323) -/

theorem Dev.eng_setEng_same (v : SealEng) (h : e < d.pool.engs.length) : (d.setEng e v).eng e = v := by
  simp [Dev.eng, Dev.setEng, Dev.onPool, h]

theorem Dev.eng_setEng_ne (v : SealEng) (h : x ≠ e) : (d.setEng e v).eng x = d.eng x := by
  simp [Dev.eng, Dev.setEng, Dev.onPool, h.symm]

/-- A new command goes back as it was. -/
theorem SealItem.moved_perform {it : SealItem} (h : it.stage = .perform) (j : Job) : it.moved j = it := by
  simp [SealItem.moved, h]

/-- New commands go back to the head of the queue. -/
theorem Dev.queue_moveJobs {its : List SealItem} (h : ∀ it ∈ its, it.stage = .perform) :
    (d.moveJobs its).pool.queue = its ++ d.pool.queue := by
  show List.filter _ (its.map _) ++ d.pool.queue = its ++ d.pool.queue
  rw [List.map_congr_left (g := id) fun it hit => ?same, List.map_id, List.filter_eq_self.mpr (by simpa using h)]
  case same =>
    cases d.job it.job
    case none => rfl
    case some j => exact SealItem.moved_perform (h it hit) j

/-- The spare that takes the place of an engine is not that engine, and exists. -/
theorem Dev.spare_ne (ha : (d.eng e).state = .active)
    (hx : (List.range 104).find? (fun x => decide ((d.eng x).state = .spare)) = some x) : x < 104 ∧ x ≠ e := by
  have hspare : (d.eng x).state = .spare := by simpa using List.find?_some hx
  refine ⟨List.mem_range.mp (List.mem_of_find?_eq_some hx), ?_⟩
  rintro rfl
  rw [ha] at hspare
  cases hspare

/-- The device on which engine `e` is retired with cause `c`, its jobs back in the queue. -/
def Dev.sealStopped (d : Dev) (e c : Nat) : Dev :=
  (d.setEng e { d.eng e with state := .retired, cause := c, hs := false, jobs := [], cache := [] }).moveJobs (d.eng e).jobs

theorem Dev.eng_sealStopped_same (c : Nat) (h : e < d.pool.engs.length) :
    (d.sealStopped e c).eng e = { d.eng e with state := .retired, cause := c, hs := false, jobs := [], cache := [] } :=
  Dev.eng_setEng_same _ h

/-- The retirement of an active engine without a spare. -/
theorem Dev.retireSeal_noSpare (c : Nat) (ha : (d.eng e).state = .active)
    (hx : (List.range 104).find? (fun x => decide ((d.eng x).state = .spare)) = none) :
    d.retireSeal e c = (d.sealStopped e c).sealRetired e c (d.eng e).jobs.length none := by
  simp only [Dev.retireSeal, ha, hx]
  rfl

/-- The retirement of an active engine that a spare replaces. -/
theorem Dev.retireSeal_spare (c : Nat) (ha : (d.eng e).state = .active)
    (hx : (List.range 104).find? (fun x => decide ((d.eng x).state = .spare)) = some x) :
    d.retireSeal e c =
      ((d.sealStopped e c).setEng x { (d.sealStopped e c).eng x with state := .starting, hs := (d.eng e).hs }).sealRetired e c
        (d.eng e).jobs.length (some x) := by
  simp only [Dev.retireSeal, ha, hx]
  rfl

/-- What a retirement leaves of the engine. -/
theorem Dev.eng_retireSeal (c : Nat) (hl : d.pool.engs.length = 104) (he : e < 104) (ha : (d.eng e).state = .active) :
    (d.retireSeal e c).eng e = { d.eng e with state := .retired, cause := c, hs := false, jobs := [], cache := [] } := by
  have hstopped := Dev.eng_sealStopped_same (d := d) c (hl ▸ he)
  cases hx : (List.range 104).find? (fun x => decide ((d.eng x).state = .spare))
  case none => rw [Dev.retireSeal_noSpare c ha hx]; exact hstopped
  case some x =>
    rw [Dev.retireSeal_spare c ha hx]
    exact (Dev.eng_setEng_ne _ (Dev.spare_ne ha hx).2.symm).trans hstopped

/-- The spare starts in the set of the engine that it replaces. -/
theorem Dev.eng_retireSeal_spare (c : Nat) (hl : d.pool.engs.length = 104) (ha : (d.eng e).state = .active)
    (hx : (List.range 104).find? (fun x => decide ((d.eng x).state = .spare)) = some x) :
    ((d.retireSeal e c).eng x).state = .starting ∧ ((d.retireSeal e c).eng x).hs = (d.eng e).hs := by
  have hlen : x < (d.sealStopped e c).pool.engs.length :=
    (Dev.spare_ne ha hx).1.trans_eq (hl ▸ (List.length_set ..).symm)
  have hset : (d.retireSeal e c).eng x = { (d.sealStopped e c).eng x with state := .starting, hs := (d.eng e).hs } := by
    rw [Dev.retireSeal_spare c ha hx]
    exact Dev.eng_setEng_same _ hlen
  rw [hset]
  exact ⟨rfl, rfl⟩

theorem Dev.pool_sealRetired (c n : Nat) (o : Option Nat) : (d.sealRetired e c n o).pool = d.pool := rfl

theorem Dev.queue_setEng (v : SealEng) : (d.setEng e v).pool.queue = d.pool.queue := rfl

theorem Dev.queue_retireSeal (c : Nat) (ha : (d.eng e).state = .active) (hj : ∀ it ∈ (d.eng e).jobs, it.stage = .perform) :
    (d.retireSeal e c).pool.queue = (d.eng e).jobs ++ d.pool.queue := by
  have hstopped : (d.sealStopped e c).pool.queue = (d.eng e).jobs ++ d.pool.queue := Dev.queue_moveJobs hj
  cases hx : (List.range 104).find? (fun x => decide ((d.eng x).state = .spare))
  case none => rw [Dev.retireSeal_noSpare c ha hx, Dev.pool_sealRetired, hstopped]
  case some x => rw [Dev.retireSeal_spare c ha hx, Dev.pool_sealRetired, Dev.queue_setEng, hstopped]

/-- A known-answer test that is due, on an active engine. -/
theorem Dev.sealKat_due (pass : Bool) (hs : d.serving = true) (ha : (d.eng e).state = .active)
    (hdue : (d.eng e).lastKat + d.liveFld R.sealCfg 23 8 * 1024 ≤ d.drip.now) :
    d.sealKat e pass = if pass then d.setEng e { d.eng e with lastKat := d.drip.now } else d.retireSeal e 4 := by
  simp [Dev.sealKat, hs, ha, Nat.not_lt.mpr hdue]

/-- A request of a master of the owner set to retire an engine. -/
theorem Dev.sealEngCtl_request (he : e < 104) (hp : d.noPath m = false) (hs : d.serving = true) (ho : d.owns m 15 = true) :
    d.sealEngCtl m (e % 128 + 128) = if (d.eng e).state = .active then (d.retireSeal e 7).setPer m R.sealEngCtlStat Code.ok
      else d.setPer m R.sealEngCtlStat Code.reserved := by
  have heng : bits (e % 128 + 128) 6 0 = e := by simp only [bits]; omega
  have hbit : bitOf (e % 128 + 128) 7 = true := by simp only [bitOf, beq_iff_eq]; omega
  rw [Dev.sealEngCtl, Dev.ownDoorbell_acts _ _ _ _ _ _ _ hp (Dev.blockOpen_of_serving _ hs _) ho (by omega), heng, hbit]
  by_cases ha : (d.eng e).state = .active
  · simp [ha, show ¬ 103 < e by omega]
  · simp [ha]

/-! ## Format engines (R348) -/

theorem Dev.fmtEng_setFmtEng_same (v : FmtEng) (h : e < d.fmt.engs.length) : (d.setFmtEng e v).fmtEng e = v := by
  simp [Dev.fmtEng, Dev.setFmtEng, Dev.onFmt, h]

theorem Dev.fmtEng_setFmtEng_ne (v : FmtEng) (h : x ≠ e) : (d.setFmtEng e v).fmtEng x = d.fmtEng x := by
  simp [Dev.fmtEng, Dev.setFmtEng, Dev.onFmt, h.symm]

/-- The spare that takes the place of a format engine is not that engine, and exists. -/
theorem Dev.fmtSpare_ne (ha : (d.fmtEng e).state = .active)
    (hx : (List.range 18).find? (fun x => decide ((d.fmtEng x).state = .spare)) = some x) : x < 18 ∧ x ≠ e := by
  have hspare : (d.fmtEng x).state = .spare := by simpa using List.find?_some hx
  refine ⟨List.mem_range.mp (List.mem_of_find?_eq_some hx), ?_⟩
  rintro rfl
  rw [ha] at hspare
  cases hspare

/-- The device on which format engine `e` is retired with cause `c`, its jobs back at the head of the queue. -/
def Dev.fmtStopped (d : Dev) (e c : Nat) : Dev :=
  ((d.setFmtEng e { d.fmtEng e with state := .retired, cause := c, jobs := [] }).onFmt (fun p => { p with
    queue := (d.fmtEng e).jobs ++ p.queue })).bumpBy (R.fmteCnt + 8) (d.fmtEng e).jobs.length

theorem Dev.fmtEng_fmtStopped_same (c : Nat) (h : e < d.fmt.engs.length) :
    (d.fmtStopped e c).fmtEng e = { d.fmtEng e with state := .retired, cause := c, jobs := [] } := Dev.fmtEng_setFmtEng_same _ h

theorem Dev.retireFmt_noSpare (c : Nat) (ha : (d.fmtEng e).state = .active)
    (hx : (List.range 18).find? (fun x => decide ((d.fmtEng x).state = .spare)) = none) :
    d.retireFmt e c = (d.fmtStopped e c).fmtRetired e c (d.fmtEng e).jobs.length none := by
  simp only [Dev.retireFmt, ha, hx]
  rfl

theorem Dev.retireFmt_spare (c : Nat) (ha : (d.fmtEng e).state = .active)
    (hx : (List.range 18).find? (fun x => decide ((d.fmtEng x).state = .spare)) = some x) :
    d.retireFmt e c = ((d.fmtStopped e c).setFmtEng x { (d.fmtStopped e c).fmtEng x with state := .starting }).fmtRetired
      e c (d.fmtEng e).jobs.length (some x) := by
  simp only [Dev.retireFmt, ha, hx]
  rfl

/-- What a retirement leaves of the format engine. -/
theorem Dev.fmtEng_retireFmt (c : Nat) (hl : d.fmt.engs.length = 18) (he : e < 18) (ha : (d.fmtEng e).state = .active) :
    (d.retireFmt e c).fmtEng e = { d.fmtEng e with state := .retired, cause := c, jobs := [] } := by
  have hstopped := Dev.fmtEng_fmtStopped_same (d := d) c (hl ▸ he)
  cases hx : (List.range 18).find? (fun x => decide ((d.fmtEng x).state = .spare))
  case none => rw [Dev.retireFmt_noSpare c ha hx]; exact hstopped
  case some x =>
    rw [Dev.retireFmt_spare c ha hx]
    exact (Dev.fmtEng_setFmtEng_ne _ (Dev.fmtSpare_ne ha hx).2.symm).trans hstopped

theorem Dev.fmtEng_retireFmt_spare (c : Nat) (hl : d.fmt.engs.length = 18) (ha : (d.fmtEng e).state = .active)
    (hx : (List.range 18).find? (fun x => decide ((d.fmtEng x).state = .spare)) = some x) :
    ((d.retireFmt e c).fmtEng x).state = .starting := by
  have hlen : x < (d.fmtStopped e c).fmt.engs.length :=
    (Dev.fmtSpare_ne ha hx).1.trans_eq (hl ▸ (List.length_set ..).symm)
  rw [Dev.retireFmt_spare c ha hx]
  exact congrArg FmtEng.state (Dev.fmtEng_setFmtEng_same { (d.fmtStopped e c).fmtEng x with state := .starting } hlen)

theorem Dev.queue_retireFmt (c : Nat) (ha : (d.fmtEng e).state = .active) :
    (d.retireFmt e c).fmt.queue = (d.fmtEng e).jobs ++ d.fmt.queue := by
  cases hx : (List.range 18).find? (fun x => decide ((d.fmtEng x).state = .spare))
  case none => rw [Dev.retireFmt_noSpare c ha hx]; rfl
  case some x => rw [Dev.retireFmt_spare c ha hx]; rfl

/-- A known-answer translation that is due, on an active engine. -/
theorem Dev.fmtKat_due (pass : Bool) (hs : d.serving = true) (ha : (d.fmtEng e).state = .active)
    (hdue : (d.fmtEng e).lastKat + d.liveFld R.fmteCfg 16 1 * 1024 ≤ d.drip.now) :
    d.fmtKat e pass = if pass then d.setFmtEng e { d.fmtEng e with lastKat := d.drip.now } else d.retireFmt e 1 := by
  simp [Dev.fmtKat, hs, ha, Nat.not_lt.mpr hdue]

/-- A request of a master of the owner set to retire a format engine. -/
theorem Dev.fmtEngCtl_request (he : e < 18) (hp : d.noPath m = false) (hs : d.serving = true) (ho : d.owns m 16 = true) :
    d.fmtEngCtl m (e % 32 + 32) = if (d.fmtEng e).state = .active then (d.retireFmt e 5).setPer m R.fmteEngCtlStat Code.ok
      else d.setPer m R.fmteEngCtlStat Code.reserved := by
  have heng : bits (e % 32 + 32) 4 0 = e := by simp only [bits]; omega
  have hbit : bitOf (e % 32 + 32) 5 = true := by simp only [bitOf, beq_iff_eq]; omega
  rw [Dev.fmtEngCtl, Dev.ownDoorbell_acts _ _ _ _ _ _ _ hp (Dev.blockOpen_of_serving _ hs _) ho (by omega), heng, hbit]
  by_cases ha : (d.fmtEng e).state = .active
  · simp [ha, show ¬ 17 < e by omega]
  · simp [ha]

/-- Settles O40: each command retires, notes or starts its engine, and a retirement leaves what its lemmas say. -/
theorem engineHealth : Obligations.EngineHealth := by
  unfold Obligations.EngineHealth
  constructor
  · intro s e he
    refine ⟨fun hj => ?limit, fun hs ha hdue => ⟨?passes, ?fails⟩, fun hst => ?starts, fun m hp hs ho ha => ?request,
      fun m hp hs ho ha => ?reserved, fun d c hl ha => ?retired, fun hf hs hn => ?fence⟩
    case limit => exact exec_withDev_congr rfl (if_neg hj)
    case passes => exact exec_withDev_congr rfl (Dev.sealKat_due true hs ha hdue)
    case fails => exact exec_withDev_congr rfl (Dev.sealKat_due false hs ha hdue)
    case starts => exact exec_withDev_congr rfl (if_pos hst)
    case request => exact exec_withDev_congr rfl ((Dev.sealEngCtl_request he hp hs ho).trans (if_pos ha))
    case reserved => exact exec_withDev_congr rfl ((Dev.sealEngCtl_request he hp hs ho).trans (if_neg ha))
    case retired =>
      intro r
      rw [show r.eng e = _ from Dev.eng_retireSeal c hl he ha]
      exact ⟨rfl, rfl, rfl, rfl, Dev.queue_retireSeal c ha, fun x => Dev.eng_retireSeal_spare c hl ha⟩
    case fence => exact exec_withDev_congr rfl (by simp [hs, Dev.hashFence, hn, Nat.not_le.mpr hf])
  · intro s e he
    refine ⟨fun hj => ?limit, fun hs ha hdue => ⟨?passes, ?fails⟩, fun hst => ?starts, fun m hp hs ho ha => ?request,
      fun m hp hs ho ha => ?reserved, fun d c hl ha => ?retired⟩
    case limit => exact exec_withDev_congr rfl (if_neg hj)
    case passes => exact exec_withDev_congr rfl (Dev.fmtKat_due true hs ha hdue)
    case fails => exact exec_withDev_congr rfl (Dev.fmtKat_due false hs ha hdue)
    case starts => exact exec_withDev_congr rfl (if_pos hst)
    case request => exact exec_withDev_congr rfl ((Dev.fmtEngCtl_request he hp hs ho).trans (if_pos ha))
    case reserved => exact exec_withDev_congr rfl ((Dev.fmtEngCtl_request he hp hs ho).trans (if_neg ha))
    case retired =>
      intro r
      rw [show r.fmtEng e = _ from Dev.fmtEng_retireFmt c hl he ha]
      exact ⟨rfl, rfl, rfl, Dev.queue_retireFmt c ha, fun x => Dev.fmtEng_retireFmt_spare c hl ha⟩

end Sys2Proof.Machine
end

section
/-! PROOF. Hash and format commands (chapters 12 and 13). -/

namespace Sys2Proof.Machine

variable {d : Dev} {j : Job} {e n : Nat}

/-! ## Hash commands (R325) -/

/-- Each row of `hashRows` takes the commands of its own op. -/
theorem exec_hashRows (hrow : row ∈ hashRows) : ∃ mine : Nat → Bool, mine row.2 = true ∧
    ∀ (n : Nat) (s : State), exec (row.1 n) s = .next (s.withDev (s.dev.hashTake n mine)) := by
  simp only [hashRows, List.mem_cons, List.not_mem_nil, or_false] at hrow
  rcases hrow with rfl | rfl | rfl | rfl <;> exact ⟨_, by simp, fun _ _ => rfl⟩

/-- A hash engine that is not fenced performs the command at once. -/
theorem Dev.hashTake_ends (ht : d.takes n j 2 = true) (hm : mine (j.get 16 1) = true) (hf : d.pool.hashFenced.length < 32) :
    d.hashTake n mine = ((d.unqueue n j).hashCmd j).dev.finishJob n ((d.unqueue n j).hashCmd j).code
      ((d.unqueue n j).hashCmd j).result := by
  rw [Dev.hashTake, if_neg (Nat.not_le.mpr hf)]
  exact Dev.takeJob_ends ht (fun j => mine (j.get 16 1)) Dev.hashCmd hm

/-- What a sound hash command answers, by its op. -/
theorem Dev.hashCmd_sound (halg : j.get 17 1 ≤ 2) (hin : j.inLen ≤ 65536)
    (hc : d.cmdCheck j j.hashPtrs false = Code.ok) (hp : d.poisonAns (j.hashPtrs.filter (fun x => x.1 ≠ j.ptr 40)) = none) :
    let input := d.ptrBytes j (j.ptr 32) j.inLen
    let alg := j.get 17 1
    (j.get 16 1 = 0 → d.hashCmd j = ⟨Code.ok, 0, d.ptrWrite j (j.ptr 40) (hashOf alg input)⟩)
    ∧ (j.get 16 1 = 1 → d.hashCmd j = ⟨Code.ok, 0, d.hashSave j alg input⟩)
    ∧ (∀ m, j.get 16 1 = 2 → d.hashFind (d.ptrBytes j (j.ptr 48) 256) = some (alg, m) →
      d.hashCmd j = ⟨Code.ok, 0, d.hashSave j alg (m ++ input)⟩)
    ∧ (∀ m, j.get 16 1 = 3 → d.hashFind (d.ptrBytes j (j.ptr 48) 256) = some (alg, m) →
      d.hashCmd j = ⟨Code.ok, 0, d.ptrWrite j (j.ptr 40) (hashOf alg (m ++ input))⟩) := by
  have halg' : ¬ 2 < j.get 17 1 := Nat.not_lt.mpr halg
  have hin' : ¬ 65536 < j.inLen := Nat.not_lt.mpr hin
  simp only [ne_eq, decide_not] at hp
  refine ⟨fun h => ?_, fun h => ?_, fun m h hm => ?_, fun m h hm => ?_⟩
  · simp [Dev.hashCmd, h, halg', hin', hc, hp]
  · simp [Dev.hashCmd, h, halg', hin', hc, hp]
  · simp [Dev.hashCmd, h, halg', hin', hc, hp, hm]
  · simp [Dev.hashCmd, h, halg', hin', hc, hp, hm]

/-! ## Format commands (R343, R344, R346) -/

/-- A format command that the pool's check refuses ends with its code. -/
theorem Dev.fmtAdmit_refuses (ht : d.takes n j 1 = true) (hm : mine j.op4 = true)
    (hc : (d.unqueue n j).fmtCheck j = (c, r)) (hne : c ≠ 0) : d.fmtAdmit n mine =
      (if c = Code.poisoned then (d.unqueue n j).countPtrs [(j.ptr 32, j.inLen)] else d.unqueue n j).fmtEnd n j c (FRes.none r) := by
  obtain ⟨hs, hj, hph, hu, hmay⟩ := Dev.takes_iff.1 ht
  obtain ⟨c, rfl⟩ := Nat.exists_eq_succ_of_ne_zero hne
  simp [Dev.fmtAdmit, hs, hj, hph, hu, hmay, hm, hc]

/-- A format command that passes its check waits for an engine. -/
theorem Dev.fmtAdmit_admits (ht : d.takes n j 1 = true) (hm : mine j.op4 = true)
    (hc : (d.unqueue n j).fmtCheck j = (0, r)) : d.fmtAdmit n mine =
      ((d.unqueue n j).setJob n { j with phase := .running }).onFmt (fun p => { p with queue := p.queue ++ [⟨n, [], []⟩] }) := by
  obtain ⟨hs, hj, hph, hu, hmay⟩ := Dev.takes_iff.1 ht
  simp [Dev.fmtAdmit, hs, hj, hph, hu, hmay, hm, hc]

/-- The arbiter places the oldest job that an engine has room for. -/
theorem Dev.fmtDispatch_places (hs : d.serving = true) (hq : d.fmt.queue = pre ++ it :: post)
    (hpre : ∀ x ∈ pre, d.chooseFmt x = none) (hc : d.chooseFmt it = some e) : d.fmtDispatch e =
      (d.onFmt (fun p => { p with queue := pre ++ post })).setFmtEng e
        { d.fmtEng e with jobs := (d.fmtEng e).jobs ++ [it] } := by
  have hfirst : takeFirst (fun it => (d.chooseFmt it).isSome) (pre ++ it :: post) = some (it, pre ++ post) :=
    takeFirst_append pre post (fun x hx => by simp [hpre x hx]) (by simp [hc])
  simp [Dev.fmtDispatch, hq, hfirst, hc, hs]

/-- The job that an active engine runs is cross-checked or written. -/
theorem Dev.fmtComplete_ends (hs : d.serving = true) (ha : (d.fmtEng e).state = .active) (hj : (d.fmtEng e).jobs = it :: rest)
    (hjob : d.job it.job = some j) : d.fmtComplete e ok =
      (let d := d.setFmtEng e { d.fmtEng e with jobs := rest }
       if bitOf (d.at j.gen R.fmteCfg) 0 then d.fmtRun it.job j { it with runs := it.runs ++ [(e, ok)] }
       else d.fmtWrite it.job j ok) := by
  simp only [Dev.fmtComplete, hj]
  rw [if_neg (by simp [hs, ha])]
  simp only [show (d.setFmtEng e { d.fmtEng e with jobs := rest }).job it.job = some j from hjob]

/-- How a translation with the result `r` lands. -/
def Dev.fmtLands (d : Dev) (n : Nat) (j : Job) (sound : Bool) (r : FRes) : Dev :=
  match r.out with
  | none => d.fmtEnd n j Code.failFormat r
  | some b =>
    (if j.validates then (if sound then d else d.freeStep) else (if sound then d else d.freeStep).ptrWrite j (j.ptr 40)
      (if sound then b else (List.range b.length).map (fun i => Config.freeByte d.free i))).fmtEnd n j Code.ok r

/-- The equation is proved for any function in the place of `translate`, so that no translation is run to check it. -/
theorem Dev.fmtWrite_translated (hp : d.fmtProg j.gen j.prog = some p) (sound : Bool) : d.fmtWrite n j sound =
    d.fmtLands n j sound (d.translate j.gen (if j.validates then 65536 else j.outLen) p (d.ptrBytes j (j.ptr 32) j.inLen)) := by
  have key : ∃ f : Dev → Nat → Job → Bool → Dev, Dev.fmtWrite = f ∧ f d n j sound =
    d.fmtLands n j sound (d.translate j.gen (if j.validates then 65536 else j.outLen) p (d.ptrBytes j (j.ptr 32) j.inLen)) := by
    refine ⟨_, by delta Dev.fmtWrite; rfl, ?_⟩
    generalize Dev.fmtProg = prog at hp ⊢
    generalize Dev.translate = tr
    rw [hp]
    simp only [Dev.fmtLands] <;> rfl
  obtain ⟨f, hf, h⟩ := key
  exact hf ▸ h

section
variable (hp : d.fmtProg j.gen j.prog = some p)
include hp

/-- A sound translation that stands writes the output, then the result area. -/
theorem Dev.fmtWrite_stands (hout : (d.translate j.gen (if j.validates then 65536 else j.outLen) p
      (d.ptrBytes j (j.ptr 32) j.inLen)).out = some b) : d.fmtWrite n j true =
      (if j.validates then d else d.ptrWrite j (j.ptr 40) b).fmtEnd n j Code.ok
        (d.translate j.gen (if j.validates then 65536 else j.outLen) p (d.ptrBytes j (j.ptr 32) j.inLen)) := by
  rw [Dev.fmtWrite_translated hp]
  generalize Dev.translate d _ _ _ _ = r at hout ⊢
  simp only [Dev.fmtLands, hout, if_true]

/-- A translation that fails writes no output. -/
theorem Dev.fmtWrite_fails (hout : (d.translate j.gen (if j.validates then 65536 else j.outLen) p
      (d.ptrBytes j (j.ptr 32) j.inLen)).out = none) (ok : Bool) : d.fmtWrite n j ok = d.fmtEnd n j Code.failFormat
        (d.translate j.gen (if j.validates then 65536 else j.outLen) p (d.ptrBytes j (j.ptr 32) j.inLen)) := by
  rw [Dev.fmtWrite_translated hp]
  generalize Dev.translate d _ _ _ _ = r at hout ⊢
  simp only [Dev.fmtLands, hout]

end

/-- Settles O41: each command is taken as its unit's check says, and ends as its lemma says. -/
theorem hashAndFormatCommands : Obligations.HashAndFormatCommands := by
  unfold Obligations.HashAndFormatCommands
  refine ⟨⟨?take, fun d j => Dev.hashCmd_sound, fun d j alg m => rfl⟩, ?enter, ?dispatch, ?complete, fun d n j c r => rfl,
    fun d n j p hp => ⟨fun b => Dev.fmtWrite_stands hp, Dev.fmtWrite_fails hp⟩⟩
  case take =>
    intro row hrow s n j ht hop hf
    obtain ⟨mine, hmine, hexec⟩ := exec_hashRows hrow
    exact exec_withDev_congr (hexec n s) (Dev.hashTake_ends ht (hop ▸ hmine) hf)
  case enter =>
    simp only [List.forall_mem_cons, List.not_mem_nil, false_implies, implies_true, and_true]
    exact ⟨fun s n j ht hop => ⟨fun c r hc hne => exec_withDev_congr rfl (Dev.fmtAdmit_refuses ht (by simp [hop]) hc hne),
        fun r hc => exec_withDev_congr rfl (Dev.fmtAdmit_admits ht (by simp [hop]) hc)⟩,
      fun s n j ht hop => ⟨fun c r hc hne => exec_withDev_congr rfl (Dev.fmtAdmit_refuses ht (by simp [hop]) hc hne),
        fun r hc => exec_withDev_congr rfl (Dev.fmtAdmit_admits ht (by simp [hop]) hc)⟩⟩
  case dispatch => exact fun s e it pre post hs hq hpre hc => exec_withDev_congr rfl (Dev.fmtDispatch_places hs hq hpre hc)
  case complete => exact fun s e ok it rest j hs ha hj hjob => exec_withDev_congr rfl (Dev.fmtComplete_ends hs ha hj hjob)

end Sys2Proof.Machine
end

section
/-! PROOF. The Lode (chapter 13): commands, slots, limits and the scrubber. -/

namespace Sys2Proof.Machine

variable {d : Dev} {j : Job} {n m : Nat}

/-! ## Commands of threads and masters (R355, R356, R358) -/

/-- Each row of `lodeRows` takes the commands of its own op, of a thread or of a master. -/
theorem exec_lodeRows (hrow : row ∈ lodeRows) : ∃ mine : Nat → Bool, mine row.2 = true ∧
    ∀ (who : Src) (s : State), exec (row.1 who) s = .next (s.withDev (s.dev.lodeBy who mine)) := by
  simp only [lodeRows, List.mem_cons, List.not_mem_nil, or_false] at hrow
  rcases hrow with rfl | rfl | rfl | rfl | rfl <;> exact ⟨_, by simp, fun _ _ => rfl⟩

/-- A thread's command that passes its checks is accepted. -/
theorem Dev.lodeJob_accepts (ht : d.takes n j 4 = true) (hm : mine j.op4 = true)
    (hc : (d.unqueue n j).cmdCheck j j.lodePtrs false = Code.ok) (ha : ((d.unqueue n j).lodeAskJob j).code = Code.ok)
    (hp : (d.unqueue n j).poisonAns (j.lodePtrs.filter (fun x => x.1 ≠ j.ptr 40)) = none) :
    d.lodeJob n mine = ((d.unqueue n j).setJob n { j with phase := .running }).lodeAccept (.job n)
      ((d.unqueue n j).lodeAskJob j) := by
  obtain ⟨hs, hj, hph, hu, hmay⟩ := Dev.takes_iff.1 ht
  simp only [ne_eq, decide_not] at hp
  simp [Dev.lodeJob, hs, hj, hph, hu, hmay, hm, hc, ha, hp]

/-- A write of LODE_HGO by the host or the peer. -/
theorem Dev.lodeGo_acts (hm34 : m = 3 ∨ m = 4) (hp : d.noPath m = false) (hs : d.serving = true)
    (hm : mine (d.lodeAskMaster m).op = true) : d.lodeGo m mine =
      if bitOf (d.per m R.lodeHstat) 0 then
        d.refuse m R.lodeHgo (if (d.lodeAskMaster m).code = Code.ok then Code.busyRetry else (d.lodeAskMaster m).code)
      else if (d.lodeAskMaster m).code ≠ Code.ok then d.setStat m R.lodeHstat false (d.lodeAskMaster m).code
      else (d.setStat m R.lodeHstat true 0).lodeAccept (.master m) (d.lodeAskMaster m) := by
  rw [Dev.lodeGo, Dev.doorbell_acts _ _ _ _ _ _ _ hp (Dev.blockOpen_of_serving _ hs _) (.inr (by simp [hm34])) (by decide)]
  simp only [hm, Bool.not_true, Bool.false_eq_true, if_false]

/-- What an accepted command does, by its op. -/
theorem Dev.lodeAccept_read (h : a.op = 4) :
    d.lodeAccept who a = (d.lodeDeliver who R.lodeHrow (d.lodeRow a.row).image).lodeEnd who Code.ok 0 := by
  simp only [Dev.lodeAccept, h]

theorem Dev.lodeAccept_update (h : a.op = 2 ∨ a.op = 3) : d.lodeAccept who a = d.onLode (fun l => { l with
    updates := l.updates ++ [⟨who, a.op, a.row, a.pf, a.data, a.gen, d.drip.now⟩] }) := by
  rcases h with h | h <;> simp only [Dev.lodeAccept, h]

theorem Dev.lodeAccept_search (h : a.op < 2) : d.lodeAccept who a = d.onLode (fun l => { l with
    searches := l.searches ++ [⟨who, a.op, a.row, a.pf, a.data, a.gen, d.drip.now⟩] }) := by
  obtain h | h : a.op = 0 ∨ a.op = 1 := by omega
  all_goals simp only [Dev.lodeAccept, h]

/-! ## Updates at the boundary (R354) -/

theorem Dev.lodeRow_setLodeRow_same (r : Nat) (v : LodeRow) : (d.setLodeRow r v).lodeRow r = v :=
  spGet_spSet_same ..

theorem Dev.lodeRow_setLodeRow_ne (r q : Nat) (v : LodeRow) (h : q ≠ r) : (d.setLodeRow r v).lodeRow q = d.lodeRow q :=
  spGet_spSet_ne _ _ _ _ _ h

/-- The end of a command leaves the rows. -/
theorem Dev.lode_lodeEnd (who : Src) (code result : Nat) : (d.lodeEnd who code result).lode = d.lode := by
  cases who
  case job n =>
    simp only [Dev.lodeEnd, Dev.finishJob]
    split <;> rfl
  case master m => rfl

/-- An update changes the rows as setting its own row does. -/
theorem Dev.lodeRow_lodeApply (c : LodeCmd) (r : Nat) : (d.lodeApply c).lodeRow r =
    (d.setLodeRow c.row (if c.op = 2 then rowOfImage c.data else { d.lodeRow c.row with valid := false })).lodeRow r := by
  simp only [Dev.lodeApply, Dev.lodeRow, Dev.lode_lodeEnd]
  split <;> rfl

/-! ## Slots and limits (R352, R353, R357) -/

theorem Dev.ioFld_onLode (f : Lode → Lode) (o hi lo : Nat) : (d.onLode f).ioFld o hi lo = d.ioFld o hi lo := rfl

theorem Dev.drip_onLode (f : Lode → Lode) : (d.onLode f).drip = d.drip := rfl

/-- A slot with number 7 modulo 8 takes the oldest update within the drip's budget. -/
theorem Dev.lodeSlot_updates (hs : d.serving = true) (hslot : d.lode.slot < d.lodeSlots) (h7 : d.lode.slot % 8 = 7)
    (hb : d.drip.lodeUsed < d.ioFld R.dripBudget 15 8) (hu : d.lode.updates = u :: us) : d.lodeSlot =
      (d.onDrip (fun p => { p with lodeUsed := p.lodeUsed + 1 })).onLode (fun l => { l with
        slot := l.slot + 1, updates := us, done := l.done ++ [u] }) := by
  simp only [Dev.lodeSlot, Dev.ioFld_onLode, Dev.drip_onLode, hu, h7, hb, decide_true, Bool.and_self]
  exact if_neg (by simp [hs, Nat.not_le.mpr hslot])

/-- Another slot takes the oldest search that may run. -/
theorem Dev.lodeSlot_searches (hs : d.serving = true) (hslot : d.lode.slot < d.lodeSlots)
    (hno : d.lode.slot % 8 ≠ 7 ∨ d.ioFld R.dripBudget 15 8 ≤ d.drip.lodeUsed ∨ d.lode.updates = [])
    (hq : d.lode.searches = pre ++ c :: post)
    (hpre : ∀ x ∈ pre, (d.onLode (fun l => { l with slot := l.slot + 1 })).mayRun x = false)
    (hc : (d.onLode (fun l => { l with slot := l.slot + 1 })).mayRun c = true) : d.lodeSlot =
      ((d.onLode (fun l => { l with slot := l.slot + 1 })).onLode (fun l => { l with searches := pre ++ post })).lodeSearch c := by
  have hfirst : takeFirst (d.onLode (fun l => { l with slot := l.slot + 1 })).mayRun d.lode.searches = some (c, pre ++ post) :=
    hq ▸ takeFirst_append pre post hpre hc
  simp only [Dev.lodeSlot, Dev.ioFld_onLode, Dev.drip_onLode]
  rw [if_neg (by simp [hs, Nat.not_le.mpr hslot])]
  split
  case h_1 u rest htaken hu =>
    simp only [Bool.and_eq_true, decide_eq_true_eq] at htaken
    obtain ⟨h7, hb⟩ := htaken
    rcases hno with h | h | h
    · exact absurd h7 h
    · exact absurd (of_decide_eq_true hb) (Nat.not_lt.mpr h)
    · rw [hu] at h
      cases h
  case h_2 => simp only [hfirst]

/-- The oldest W search of its source that has waited for 1,024 drips ends with TIMEOUT. -/
theorem Dev.lodeTimeout_ends (hq : d.lode.searches = pre ++ c :: post) (hop : c.op = 1) (hold : c.since + 1024 ≤ d.drip.now)
    (hpre : ∀ x ∈ pre, x.who ≠ c.who ∨ x.op ≠ 1 ∨ d.drip.now < x.since + 1024) : d.lodeTimeout c.who =
      ((d.onLode (fun l => { l with searches := pre ++ post })).lodeCount 6).lodeEnd c.who Code.timeout 0 := by
  have hfirst : takeFirst (fun x => decide (x.who = c.who) && decide (x.op = 1) && decide (x.since + 1024 ≤ d.drip.now))
      (pre ++ c :: post) = some (c, pre ++ post) :=
    takeFirst_append pre post (fun x hx => by rcases hpre x hx with h | h | h <;> simp [h]) (by simp [hop, hold])
  simp only [Dev.lodeTimeout, hq, hfirst]

/-- What the scrubber finds in a row. -/
theorem Dev.lodeScrub_reads (hs : d.serving = true) (hr : r < 2 ^ 18) : d.lodeScrub r 0 = d ∧ d.lodeScrub r 1 = d.lodeCount 8
    ∧ (r ∉ d.lode.hurt → d.lodeScrub r 2 = ((d.lodeCount 7).incident 8 Code.orphaned 0x104 r (r / 1024)).onLode (fun l => { l with
        hurt := l.hurt ++ [r] })) := by
  have hin : (!d.serving || decide (2 ^ 18 ≤ r)) = false := by
    simp only [hs, Bool.not_true, Bool.false_or, decide_eq_false_iff_not]
    omega
  refine ⟨?_, ?_, fun hn => ?_⟩
  · simp only [Dev.lodeScrub, hin]; rfl
  · simp only [Dev.lodeScrub, hin]; rfl
  · simp only [Dev.lodeScrub, hin]; simp [hn]

/-- Settles O42: each command, slot, limit and reading of the scrubber does what its lemma says. -/
theorem lodeCommands : Obligations.LodeCommands := by
  unfold Obligations.LodeCommands
  refine ⟨fun row hrow s => ⟨?job, ?master, ?accept, ?apply⟩, fun s hs => ⟨?update, ?search, ?mayRun, ?timeout, ?scrub⟩⟩
  case job =>
    intro n j ht hop d hc ha hp
    obtain ⟨mine, hmine, hexec⟩ := exec_lodeRows hrow
    exact exec_withDev_congr (hexec _ s) (Dev.lodeJob_accepts ht (hop ▸ hmine) hc ha hp)
  case master =>
    intro m hm34 hp hs hop
    obtain ⟨mine, hmine, hexec⟩ := exec_lodeRows hrow
    have hgo := Dev.lodeGo_acts hm34 hp hs (mine := mine) (hop ▸ hmine)
    exact ⟨fun hb => exec_withDev_congr (hexec _ s) (hgo.trans (if_pos hb)),
      fun hb hc => exec_withDev_congr (hexec _ s) (hgo.trans (by simp [hb, hc])),
      fun hb hc => exec_withDev_congr (hexec _ s) (hgo.trans (by simp [hb, hc]))⟩
  case accept => exact fun d who a => ⟨Dev.lodeAccept_read, Dev.lodeAccept_update, Dev.lodeAccept_search⟩
  case apply =>
    intro d c
    refine ⟨fun h => ?_, fun h => ?_, fun r hr => ?_⟩
    · rw [Dev.lodeRow_lodeApply, Dev.lodeRow_setLodeRow_same, if_pos h]
      rfl
    · rw [Dev.lodeRow_lodeApply, Dev.lodeRow_setLodeRow_same, if_neg (by omega)]
    · rw [Dev.lodeRow_lodeApply, Dev.lodeRow_setLodeRow_ne _ _ _ hr]
  case update => exact fun u us hslot h7 hb hu => exec_withDev_congr rfl (Dev.lodeSlot_updates hs hslot h7 hb hu)
  case search =>
    exact fun pre c post hslot hno hq hpre hc => exec_withDev_congr rfl (Dev.lodeSlot_searches hs hslot hno hq hpre hc)
  case mayRun => exact fun c hc => by simp [Dev.mayRun, hc]
  case timeout => exact fun pre c post hq hop hold hpre => exec_withDev_congr rfl (Dev.lodeTimeout_ends hq hop hold hpre)
  case scrub =>
    intro r hr
    obtain ⟨hclean, hce, hue⟩ := Dev.lodeScrub_reads hs hr
    exact ⟨exec_withDev_congr rfl hclean, exec_withDev_congr rfl hce, fun hn => exec_withDev_congr rfl (hue hn)⟩

end Sys2Proof.Machine
end

section
/-! PROOF. The Strongroom's commands (chapter 14): a refused TALLY of a sender that was reset. -/

namespace Sys2Proof.Machine

/-- A refused TALLY of a sender that was reset tells nobody: it makes no incident (R502). -/
theorem Dev.srRefuse_gone (d : Dev) (c : Nat) : d.srRefuse Src.gone [] c = d := rfl

/-- Refutes O44: a TALLY that is refused makes no incident when its sender, master 0, was reset while the Strongroom held it; the
empty body is such a TALLY. -/
theorem not_strongroomCommands : ¬ Obligations.StrongroomCommands := by
  unfold Obligations.StrongroomCommands
  rintro ⟨hrows, -⟩
  obtain ⟨-, -, hrefuse, -⟩ := hrows (.srTally, 0) List.mem_cons_self State.reset
  have hgone : State.reset.dev = State.reset.dev.incident 25 Code.reserved (actorMaster 0) 0 0 :=
    (Dev.srRefuse_gone _ _).symm.trans (hrefuse State.reset.dev Src.gone [] Code.reserved)
  have hnone : State.reset.dev.host.incPending = [] := rfl
  have hone := congrArg (fun d : Dev => d.host.incPending.length) hgone
  simp [Dev.incident, Dev.onHost, hnone] at hone

end Sys2Proof.Machine
end

section
/-! PROOF. The Strongroom (chapter 14): the timescale, the seal, power and the inspection port. -/

namespace Sys2Proof.Machine

variable {d : Dev}

/-! ## What a record leaves of the Strongroom -/

/-- The Strongroom without what chaining a record may change: its count, the close of a page, and the records it owes. -/
def Strong.butBook (s : Strong) : Strong :=
  { s with time := 0, hold := 0, corrRest := 0, ckptOld := [], ckptNew := [], closing := [], mramGen := 0, owed := [] }

theorem Strong.butBook_pass (s : Strong) (x : Nat) : (s.pass x).butBook = s.butBook := by
  unfold Strong.pass
  split <;> rfl

theorem Dev.butBook_strongPass : d.strongPass.strong.butBook = d.strong.butBook := by
  unfold Dev.strongPass
  split
  case isTrue => exact Strong.butBook_pass ..
  case isFalse => rfl

theorem Dev.butBook_pageClose (p first count : Nat) (root prev : Bytes) :
    (d.pageClose p first count root prev).2.strong.butBook = d.strong.butBook := by
  unfold Dev.pageClose
  split
  case isTrue => rfl
  case isFalse => split <;> rfl

/-- Writing a memory leaves whatever does not read the memories. -/
theorem Dev.setMemBytes_leaves {α : Type} (read : Dev → α) (hd : ∀ (d : Dev) f, read (d.onDmem f) = read d)
    (hc : ∀ (d : Dev) f, read (d.onCores f) = read d) (dram : Bool) (bs : Bytes) :
    ∀ (d : Dev) (a : Nat), read (d.setMemBytes dram a bs) = read d := by
  induction bs with
  | nil => exact fun _ _ => rfl
  | cons b bs ih =>
    intro d a
    rw [Dev.setMemBytes, ih, Dev.setMemByte]
    split
    case isTrue => split <;> simp only [hd]
    case isFalse => exact hc ..

theorem Dev.writeMem_leaves {α : Type} (read : Dev → α) (hd : ∀ (d : Dev) f, read (d.onDmem f) = read d)
    (hc : ∀ (d : Dev) f, read (d.onCores f) = read d) (dram : Bool) (a : Nat) (bs : Bytes) :
    read (d.writeMem dram a bs) = read d := by
  refine (foldl_part read _ (fun e _ => ?_) _ _).trans (Dev.setMemBytes_leaves read hd hc dram bs d a)
  split
  case isTrue => split <;> simp only [hd, hc]
  case isFalse => rfl

theorem Dev.strong_writeMem (dram : Bool) (a : Nat) (bs : Bytes) : (d.writeMem dram a bs).strong = d.strong :=
  Dev.writeMem_leaves Dev.strong (fun _ _ => rfl) (fun _ _ => rfl) dram a bs

/-- What becomes visible in the ring leaves the Strongroom. -/
theorem Dev.strong_bookVisible : d.bookVisible.strong = d.strong :=
  foldl_part Dev.strong _ (fun _ _ => Dev.strong_writeMem ..) _ _

theorem Dev.butBook_settlePage : d.settlePage.strong.butBook = d.strong.butBook := by
  unfold Dev.settlePage
  split
  case isTrue =>
    refine (Dev.butBook_pageClose ..).trans ?_
    rw [Dev.strong_bookVisible]
    rfl
  case isFalse => rfl

/-- A hardware record leaves the Strongroom but for its count, the close of a page and what it owes. -/
theorem Dev.butBook_hwRec (kind : Nat) (digest data : Bytes) : (d.hwRec kind digest data).strong.butBook = d.strong.butBook := by
  unfold Dev.hwRec
  simp only
  split
  case isTrue => exact Dev.butBook_strongPass.trans Dev.butBook_settlePage
  case isFalse => rfl

@[simp] theorem Dev.state_hwRec (kind : Nat) (digest data : Bytes) :
    (d.hwRec kind digest data).strong.state = d.strong.state := (congrArg Strong.state (Dev.butBook_hwRec kind digest data) :)

@[simp] theorem Dev.tclkOk_hwRec (kind : Nat) (digest data : Bytes) :
    (d.hwRec kind digest data).strong.tclkOk = d.strong.tclkOk := (congrArg Strong.tclkOk (Dev.butBook_hwRec kind digest data) :)

@[simp] theorem Dev.ppsOk_hwRec (kind : Nat) (digest data : Bytes) :
    (d.hwRec kind digest data).strong.ppsOk = d.strong.ppsOk := (congrArg Strong.ppsOk (Dev.butBook_hwRec kind digest data) :)

@[simp] theorem Dev.todWait_hwRec (kind : Nat) (digest data : Bytes) :
    (d.hwRec kind digest data).strong.todWait = d.strong.todWait := (congrArg Strong.todWait (Dev.butBook_hwRec kind digest data) :)

@[simp] theorem Dev.sealOk_hwRec (kind : Nat) (digest data : Bytes) :
    (d.hwRec kind digest data).strong.sealOk = d.strong.sealOk := (congrArg Strong.sealOk (Dev.butBook_hwRec kind digest data) :)

@[simp] theorem Dev.powered_hwRec (kind : Nat) (digest data : Bytes) :
    (d.hwRec kind digest data).strong.powered = d.strong.powered := (congrArg Strong.powered (Dev.butBook_hwRec kind digest data) :)

/-- The end of a command leaves the Strongroom. -/
@[simp] theorem Dev.strong_srEnd (src : Src) (c r : Nat) : (d.srEnd src c r).strong = d.strong := by
  cases src
  case job n =>
    simp only [Dev.srEnd, Dev.finishJob]
    split <;> rfl
  case master m =>
    simp only [Dev.srEnd]
    split <;> rfl

/-! ## The timescale (R361 to R365, R375) -/

/-- Entering a state sets it, and leaves the reference and the waiting commands. -/
theorem Dev.strong_timeState (d : Dev) (new : Nat) : (d.timeState new).strong.state = new
    ∧ (d.timeState new).strong.tclkOk = d.strong.tclkOk ∧ (d.timeState new).strong.ppsOk = d.strong.ppsOk
    ∧ (d.timeState new).strong.todWait = d.strong.todWait := by
  simp only [Dev.timeState]
  split
  case isTrue h => exact ⟨h, rfl, rfl, rfl⟩
  case isFalse => simp [Dev.onStrong, Dev.freeStep]

/-- A loss of the reference takes LOCKED to HOLDOVER and ACQUIRING to FREERUN. -/
theorem Dev.strong_loseReference (d : Dev) : d.loseReference.strong.state =
      (if d.strong.state = 3 then 4 else if d.strong.state = 2 then 1 else d.strong.state)
    ∧ d.loseReference.strong.tclkOk = d.strong.tclkOk ∧ d.loseReference.strong.ppsOk = d.strong.ppsOk := by
  have enters (new : Nat) := Dev.strong_timeState (d.onStrong (fun s => { s with good := 0, near := 0, far := 0 })) new
  simp only [Dev.loseReference]
  split
  case h_1 h =>
    have h3 : d.strong.state = 3 := h
    obtain ⟨hst, htclk, hpps, -⟩ := enters 4
    exact ⟨hst.trans (if_pos h3).symm, htclk, hpps⟩
  case h_2 h =>
    have h2 : d.strong.state = 2 := h
    obtain ⟨hst, htclk, hpps, -⟩ := enters 1
    exact ⟨hst.trans (by simp [h2]), htclk, hpps⟩
  case h_3 h3 h2 =>
    have hst : d.strong.state = if d.strong.state = 3 then 4 else if d.strong.state = 2 then 1 else d.strong.state := by
      rw [if_neg (show ¬ d.strong.state = 3 from h3), if_neg (show ¬ d.strong.state = 2 from h2)]
    exact ⟨hst, rfl, rfl⟩

/-- REFERENCE_LOSS names a part of the reference that is lost. -/
theorem exec_referenceLoss_loses {s : State} (hp : s.dev.strong.powered = true) (hc : c ≤ 3) :
    ∃ t, exec (.referenceLoss c) s = .next t
      ∧ t.dev.strong.state = (if s.dev.strong.state = 3 then 4 else if s.dev.strong.state = 2 then 1 else s.dev.strong.state)
      ∧ (if c ≤ 1 then t.dev.strong.tclkOk else t.dev.strong.ppsOk) = false := by
  let lost (x : Strong) : Strong := if c ≤ 1 then { x with tclkOk := false } else { x with ppsOk := false }
  refine ⟨s.withDev (s.dev.onStrong lost).loseReference,
    exec_withDev_congr rfl (if_neg (by simp [hp, Nat.not_lt.mpr hc])), ?_⟩
  obtain ⟨hst, htclk, hpps⟩ := Dev.strong_loseReference (s.dev.onStrong lost)
  rw [hst, htclk, hpps]
  by_cases h1 : c ≤ 1 <;> simp [Dev.onStrong, lost, h1]

/-- The return of the reference takes FREERUN and HOLDOVER to ACQUIRING. -/
theorem exec_referenceValid_returns {s : State} (hp : s.dev.strong.powered = true) (hg : 16 ≤ s.dev.strong.good) :
    ∃ t, exec .referenceValid s = .next t
      ∧ t.dev.strong.state = (if s.dev.strong.state = 1 ∨ s.dev.strong.state = 4 then 2 else s.dev.strong.state)
      ∧ t.dev.strong.tclkOk = true ∧ t.dev.strong.ppsOk = true := by
  let d := s.dev.onStrong (fun x => { x with tclkOk := true, ppsOk := true })
  refine ⟨s.withDev (if s.dev.strong.state = 1 ∨ s.dev.strong.state = 4 then d.timeState 2 else d),
    exec_withDev_congr rfl (by simp [hp, Nat.not_lt.mpr hg, d, Dev.onStrong]), ?_⟩
  by_cases h : s.dev.strong.state = 1 ∨ s.dev.strong.state = 4
  · obtain ⟨hst, htclk, hpps, -⟩ := Dev.strong_timeState d 2
    simp only [if_pos h]
    exact ⟨hst, htclk, hpps⟩
  · simp only [if_neg h]
    exact ⟨rfl, rfl, rfl⟩

/-- An edge sets the time for the TOD_SET that waited first, and ends every one that waits. -/
theorem Dev.strong_todEdge (t : Int) (hw : d.strong.todWait = c :: cs) (hst : d.strong.state = 0) :
    (d.todEdge t).strong.state = 1 ∧ (d.todEdge t).strong.todWait = [] := by
  have hrest (e : Dev) : (cs.foldl (fun d c => d.srEnd c.src Code.reserved 0) e).strong = e.strong :=
    foldl_part Dev.strong _ (fun _ _ => Dev.strong_srEnd ..) _ _
  simp only [Dev.todEdge, hw]
  rw [hrest, if_neg (by exact not_not.mpr hst), Dev.strong_srEnd]
  obtain ⟨hnew, -, -, hwait⟩ := Dev.strong_timeState (Dev.onStrong _ _) 1
  exact ⟨hnew, hwait⟩

/-- An edge in UNSET, FREERUN or HOLDOVER is counted and changes no state. -/
theorem Dev.phaseEdge_counted (e : Int) (h2 : d.strong.state ≠ 2) (h3 : d.strong.state ≠ 3) : d.phaseEdge e =
    d.onStrong (fun x => { x with
      good := x.good + 1, near := if e.natAbs ≤ 20000 then x.near + 1 else 0, far := if 1000000 < e.natAbs then x.far + 1 else 0 }) := by
  simp [Dev.phaseEdge, Dev.onStrong, h2, h3]

/-- The passing count leaves state, waiting commands, edges and polarity. -/
theorem Strong.pass_leaves (x : Strong) (n : Nat) : (x.pass n).state = x.state ∧ (x.pass n).todWait = x.todWait
    ∧ (x.pass n).good = x.good ∧ (x.pass n).ppsPol = x.ppsPol := by
  unfold Strong.pass
  split <;> exact ⟨rfl, rfl, rfl, rfl⟩

/-- Outside HOLDOVER the count goes on as it is. -/
theorem Strong.time_pass {x : Strong} (h : x.state ≠ 4) (n : Nat) : (x.pass n).time = x.time + n :=
  congrArg Strong.time (if_neg h)

/-- The device on which an edge of PPS_IN has been measured, where the reference is to be (R365). -/
def Dev.polMeasured (d : Dev) (h l : Nat) : Dev :=
  if d.mode = Mode.survey || !(d.strong.ppsOk && d.strong.tclkOk) then
    d.onStrong (fun x => { x with ppsPol := ppsFalling h l })
  else d

/-- Measuring the polarity changes nothing else of the Strongroom. -/
theorem Dev.strong_polMeasured (h l : Nat) : (d.polMeasured h l).strong = { d.strong with
    ppsPol := if d.mode = Mode.survey ∨ d.strong.ppsOk = false ∨ d.strong.tclkOk = false then ppsFalling h l else d.strong.ppsPol } := by
  unfold Dev.polMeasured
  by_cases hm : d.mode = Mode.survey ∨ d.strong.ppsOk = false ∨ d.strong.tclkOk = false
  · rw [if_pos hm, if_pos (by simpa using hm)]
    rfl
  · rw [if_neg hm, if_neg (by simpa using hm)]

/-- The device as an edge finds it: the polarity measured, the count gone on to the edge. -/
def Dev.atEdge (d : Dev) (o h l : Nat) : Dev := (d.polMeasured h l).onStrong (fun x => x.pass (o * 256 / 1000))

/-- The edge on the timescale, in ps. -/
def Dev.edgeTime (d : Dev) : Int := ((d.strong.time * 1000 / 256 : Nat) : Int) - Config.fuse 32 - d.ucal 0x3400

/-- The distance of the edge from the nearest second, in ps. -/
def Dev.edgeOff (d : Dev) : Int := 10 ^ 12 * ((d.edgeTime + 10 ^ 12 / 2) / 10 ^ 12) - d.edgeTime

theorem exec_ppsEdge {s : State} (hp : s.dev.strong.powered = true) (o h l : Nat) : exec (.ppsEdge o h l) s = .next (s.withDev
    (if (s.dev.atEdge o h l).strong.todWait.isEmpty then (s.dev.atEdge o h l).phaseEdge (s.dev.atEdge o h l).edgeOff
     else ((s.dev.atEdge o h l).todEdge (s.dev.atEdge o h l).edgeTime).onStrong (fun x => { x with good := x.good + 1 }))) :=
  exec_withDev_congr rfl (if_neg (by simp [hp]))

/-- What the Strongroom is at the edge. -/
theorem Dev.strong_atEdge (o h l : Nat) : (d.atEdge o h l).strong.state = d.strong.state
    ∧ (d.atEdge o h l).strong.todWait = d.strong.todWait ∧ (d.atEdge o h l).strong.good = d.strong.good
    ∧ (d.atEdge o h l).strong.ppsPol = (if d.mode = Mode.survey ∨ d.strong.ppsOk = false ∨ d.strong.tclkOk = false
        then ppsFalling h l else d.strong.ppsPol) := by
  obtain ⟨hst, hw, hg, hpol⟩ := Strong.pass_leaves (d.polMeasured h l).strong (o * 256 / 1000)
  have hmeas := Dev.strong_polMeasured (d := d) h l
  exact ⟨hst.trans (congrArg Strong.state hmeas :), hw.trans (congrArg Strong.todWait hmeas :),
    hg.trans (congrArg Strong.good hmeas :), hpol.trans (congrArg Strong.ppsPol hmeas :)⟩

/-- An edge for which a TOD_SET waits ends every wait and leaves UNSET. -/
theorem exec_ppsEdge_tod {s : State} (hp : s.dev.strong.powered = true) (hw : s.dev.strong.todWait = c :: cs)
    (hst : s.dev.strong.state = 0) :
    ∃ t, exec (.ppsEdge o h l) s = .next t ∧ t.dev.strong.state = 1 ∧ t.dev.strong.todWait = [] := by
  obtain ⟨hst', hw', -, -⟩ := s.dev.strong_atEdge o h l
  obtain ⟨hone, hnone⟩ := Dev.strong_todEdge (s.dev.atEdge o h l).edgeTime (hw'.trans hw) (hst'.trans hst)
  exact ⟨_, exec_withDev_congr (exec_ppsEdge hp o h l) (if_neg (by simp [hw', hw])), hone, hnone⟩

/-- An edge for which nothing waits is counted, in UNSET, FREERUN and HOLDOVER. -/
theorem exec_ppsEdge_counted {s : State} (hp : s.dev.strong.powered = true) (hw : s.dev.strong.todWait = [])
    (hst : s.dev.strong.state < 2 ∨ s.dev.strong.state = 4) : ∃ t, exec (.ppsEdge o h l) s = .next t
      ∧ t.dev.strong.good = s.dev.strong.good + 1
      ∧ (s.dev.strong.state ≠ 4 → t.dev.strong.time = s.dev.strong.time + o * 256 / 1000)
      ∧ t.dev.strong.state = s.dev.strong.state
      ∧ t.dev.strong.ppsPol = (if s.dev.mode = Mode.survey ∨ s.dev.strong.ppsOk = false ∨ s.dev.strong.tclkOk = false
          then ppsFalling h l else s.dev.strong.ppsPol) := by
  obtain ⟨hst', hw', hg, hpol⟩ := s.dev.strong_atEdge o h l
  have hrun := exec_withDev_congr (exec_ppsEdge hp o h l) (if_pos (by simp [hw', hw]))
  rw [Dev.phaseEdge_counted _ (by omega) (by omega)] at hrun
  refine ⟨_, hrun, congrArg (· + 1) hg, fun h4 => ?_, hst', hpol⟩
  refine (Strong.time_pass (by rw [Dev.strong_polMeasured]; exact h4) _).trans ?_
  rw [Dev.strong_polMeasured]

/-- PPS_OUT rises when a second has come that has had no pulse. -/
theorem exec_ppsOutPulse {s : State} (hp : s.dev.strong.powered = true) : exec .ppsOutPulse s = .next (s.withDev
    (if s.dev.strongPass.strong.ppsLast = s.dev.strongPass.ppsSecond then s.dev.strongPass
     else (s.dev.strongPass.onStrong (fun x => { x with ppsLast := s.dev.strongPass.ppsSecond })).emit .ppsPulse)) := by
  have hpow : s.dev.strongPass.strong.powered = true := (congrArg Strong.powered Dev.butBook_strongPass :).trans hp
  exact exec_withDev_congr rfl (by simp [hpow])

/-! ## Commands that are not completed in time (R361) -/

/-- The device on which the Strongroom no longer holds what is due of `src`. -/
def Dev.dueDropped (d : Dev) (src : Src) : Dev :=
  (if d.strong.asked.any (fun c => c.due src d.drip.now) then d.dropCal src else d).onStrong (fun x => { x with
    queue := x.queue.filter (fun c => !c.due src d.drip.now), asked := x.asked.filter (fun c => !c.due src d.drip.now),
    lost := x.lost.filter (fun c => !c.due src d.drip.now) })

/-- A command that is due ends with TIMEOUT once the Strongroom holds it no longer. -/
theorem Dev.srTimeout_ends (hc : c ∈ d.strong.queue ++ d.strong.asked ++ d.strong.lost) (hdue : c.due src d.drip.now = true) :
    d.srTimeout src = (d.dueDropped src).srTimeoutEnd src :=
  if_pos (List.any_eq_true.mpr ⟨c, hc, hdue⟩)

theorem Dev.strong_dropCal (src : Src) : (d.dropCal src).strong = d.strong := by cases src <;> rfl

/-- What is due is dropped. -/
theorem Dev.dueDropped_drops (hdue : c.due src d.drip.now = true) :
    c ∉ (d.dueDropped src).strong.queue ++ (d.dueDropped src).strong.asked ++ (d.dueDropped src).strong.lost := by
  simp [Dev.dueDropped, Dev.onStrong, hdue]

/-- A CAL_SET that is due waits for its block no longer. -/
theorem Dev.dueDropped_reads (hc : c ∈ d.strong.asked) (hdue : c.due (.master m) d.drip.now = true) :
    ∀ x ∈ (d.dueDropped (.master m)).host.reads, x.2.isCal m = false := by
  have hany : d.strong.asked.any (fun c => c.due (.master m) d.drip.now) = true := List.any_eq_true.mpr ⟨c, hc, hdue⟩
  simp [Dev.dueDropped, hany, Dev.dropCal, Dev.onHost, Dev.onStrong]

/-! ## The seal and the power of the Strongroom (R372, R378, R387, R503) -/

/-- A cause of 1 to 6 breaks the seal of a Strongroom that is powered. -/
theorem Dev.breakSeal_acts (hp : d.strong.powered = true) (h1 : 1 ≤ c) (h6 : c ≤ 6) : d.breakSeal c =
    if d.strong.sealOk then ((d.onStrong (fun x => { x with sealOk := false, cause := d.strong.cause ||| 2 ^ c })).hwRec 4 []
        (leBytes 4 (d.strong.cause ||| 2 ^ c))).incident 25 Code.sealInvalid 0 (d.strong.cause ||| 2 ^ c) 0
      else d.onStrong (fun x => { x with sealOk := false, cause := d.strong.cause ||| 2 ^ c }) :=
  if_neg (by simp [hp]; omega)

/-- A broken seal is broken for good, and the power stays. -/
theorem Dev.strong_breakSeal (hp : d.strong.powered = true) (h1 : 1 ≤ c) (h6 : c ≤ 6) :
    (d.breakSeal c).strong.sealOk = false ∧ (d.breakSeal c).strong.powered = true := by
  rw [Dev.breakSeal_acts hp h1 h6]
  split
  case isTrue => exact ⟨Dev.sealOk_hwRec .., (Dev.powered_hwRec ..).trans hp⟩
  case isFalse => exact ⟨rfl, hp⟩

/-- A bit of what was found breaks the seal with its cause. -/
theorem Dev.strong_breakSeal_found (hp : d.strong.powered = true) (h1 : 1 ≤ c) (h6 : c ≤ 6) (b : Bool) :
    (if b then d.breakSeal c else d).strong.sealOk = (d.strong.sealOk && !b)
      ∧ (if b then d.breakSeal c else d).strong.powered = true := by
  cases b
  case false => simp [hp]
  case true => simpa using Dev.strong_breakSeal hp h1 h6

/-- The Strongroom as its power brings it back, with the tallies of a checkpoint. -/
def Strong.poweredUp (x : Strong) (newer : Bool) : Strong := { x with
  powered := true, time := 0, state := 0, tclkOk := false, ppsOk := false, good := 0, near := 0, far := 0, err := 0,
  hold := 0, corr := 0, corrRest := 0, slew := 0,
  tallies := (if newer then x.ckptNew else x.ckptOld).map (fun e => (e.1, { e.2 with drip := 0 })),
  serial := 0, egts := [], egtsWp := 0, egtsNew := 0, inspBad := 0, ppsLast := 0 }

theorem exec_srPowerUp {s : State} (hp : s.dev.strong.powered = false) (newer : Bool) (found : Nat) :
    exec (.srPowerUp newer found) s = .next (s.withDev
      (let d := s.dev.onStrong (fun x => x.poweredUp newer)
       let d := if bitOf found 1 then d.breakSeal 1 else d
       if bitOf found 2 then d.breakSeal 2 else d)) :=
  exec_withDev_congr rfl (if_neg (by simp [hp]))

/-- The seal after power has come: intact unless it was broken, or ROM or fuses were found wrong. -/
theorem exec_srPowerUp_seal {s : State} (hp : s.dev.strong.powered = false) : ∃ t, exec (.srPowerUp newer found) s = .next t
    ∧ t.dev.strong.powered = true ∧ t.dev.strong.sealOk = (s.dev.strong.sealOk && !bitOf found 1 && !bitOf found 2) := by
  refine ⟨_, exec_srPowerUp hp newer found, ?_⟩
  obtain ⟨hok1, hpow1⟩ := Dev.strong_breakSeal_found (d := s.dev.onStrong (fun x => x.poweredUp newer)) (c := 1) rfl
    (by decide) (by decide) (bitOf found 1)
  obtain ⟨hok2, hpow2⟩ := Dev.strong_breakSeal_found (c := 2) hpow1 (by decide) (by decide) (bitOf found 2)
  exact ⟨hpow2, hok2.trans (by rw [hok1]; rfl)⟩

/-- Settles O45: each row of the timescale, the power and the seal does what its lemma says. -/
theorem strongroomTime : Obligations.StrongroomTime := by
  unfold Obligations.StrongroomTime
  refine ⟨fun s hp => ⟨fun c hc => exec_referenceLoss_loses hp hc, fun hg => exec_referenceValid_returns hp hg,
    fun o h l c cs hw hst => exec_ppsEdge_tod hp hw hst, fun o h l hw hst => exec_ppsEdge_counted hp hw hst,
    exec_ppsOutPulse hp, ?timeout, ?ends⟩, fun s => ⟨?breaks, ?rehash, ?sealed, ?up, ?loss, ?read, ?bad⟩⟩
  case timeout =>
    intro src c hsrc hc hcs hold
    have hdue : c.due src s.dev.drip.now = true := by simp [SrCmd.due, hcs, hold]
    refine ⟨s.dev.dueDropped src, exec_withDev_congr rfl ((if_neg hsrc).trans (Dev.srTimeout_ends hc hdue)),
      Dev.dueDropped_drops hdue, ?_⟩
    rintro hasked m rfl
    exact Dev.dueDropped_reads hasked hdue
  case ends => exact fun d n m c r => ⟨rfl, fun h0 h1 => ⟨if_neg h0, if_neg h1⟩⟩
  case breaks =>
    refine fun c h1 h6 hp => ⟨fun hok => ?_, fun hok => ?_⟩
    · exact exec_withDev_congr rfl ((Dev.breakSeal_acts hp h1 h6).trans (if_pos hok))
    · exact exec_withDev_congr rfl ((Dev.breakSeal_acts hp h1 h6).trans (if_neg (by simp [hok])))
  case rehash =>
    exact fun hm hd => ⟨exec_withDev_congr rfl (if_neg (by simp)), exec_withDev_congr rfl (if_pos (by simp [hm, -Nat.reducePow, hd]))⟩
  case sealed => exact fun newer found hp => exec_srPowerUp_seal hp
  case up =>
    intro newer found hp h1 h2
    have hrun := exec_srPowerUp hp newer found
    simp only [h1, h2, Bool.false_eq_true, if_false] at hrun
    exact ⟨_, hrun, rfl, rfl, rfl, rfl, rfl, rfl, rfl, rfl⟩
  case loss =>
    intro hp
    exact ⟨_, exec_withDev_congr rfl (if_neg (by simp [hp])), rfl, rfl, rfl, rfl, rfl, rfl⟩
  case read =>
    intro a n hp
    have hpow : s.dev.strongPass.strong.powered = true := (congrArg Strong.powered Dev.butBook_strongPass :).trans hp
    exact exec_withDev_congr rfl (if_neg (by simp [hpow]))
  case bad => exact fun c n hp hc => exec_withDev_congr rfl (if_neg (by simp [hp, hc]))

end Sys2Proof.Machine
end

section
/-! PROOF. The Cellarbook (chapter 14): records, pages, and their way to the target. -/

namespace Sys2Proof.Machine

variable {d : Dev}

/-! ## Records (R380, R381) -/

/-- An APPEND that passes its checks chains its record, or is refused in a full ring. -/
theorem exec_bookAppend {s : State} (ht : s.dev.takes n j 6 = true)
    (hc : (s.dev.unqueue n j).settlePage.cmdCheck j j.bookPtrs ((s.dev.unqueue n j).settlePage.bookBad j) = Code.ok)
    (hp : (s.dev.unqueue n j).settlePage.poisonAns (j.bookPtrs.filter (fun x => x.2 ≠ 16)) = none) :
    exec (.bookAppend n) s = .next (s.withDev (if (s.dev.unqueue n j).settlePage.bookFull then (s.dev.unqueue n j).settlePage.bookRefuse n j
      else (((s.dev.unqueue n j).settlePage.setJob n { j with phase := .running }).bookCount 0).chainRec
        ((s.dev.unqueue n j).settlePage.bookRecord j) (some n))) := by
  obtain ⟨hs, hj, hph, hu, hmay⟩ := Dev.takes_iff.1 ht
  simp only [ne_eq, decide_not] at hp
  exact exec_withDev_congr rfl (by simp [hs, hj, hph, hu, hmay, hc, hp])

/-! ## Pages (R383, R385) -/

theorem Dev.book_writeMem (dram : Bool) (a : Nat) (bs : Bytes) : (d.writeMem dram a bs).book = d.book :=
  Dev.writeMem_leaves Dev.book (fun _ _ => rfl) (fun _ _ => rfl) dram a bs

/-- The records of the drip become visible, and are new no longer. -/
theorem Dev.book_bookVisible : d.bookVisible.book = { d.book with newRecs := [] } := by
  have h : (d.book.newRecs.foldl (fun d r => d.writeMem true (d.slotAddr r.slot) r.data) d).book = d.book :=
    foldl_part Dev.book _ (fun _ _ => Dev.book_writeMem ..) _ _
  exact congrArg (fun k : Book => { k with newRecs := [] }) h

theorem Dev.book_pageClose (p first count : Nat) (root prev : Bytes) : (d.pageClose p first count root prev).2.book = d.book := by
  unfold Dev.pageClose
  split
  case isTrue => rfl
  case isFalse => split <;> rfl

/-- A page that ends leaves 32 slots for its seal block, and the next one begins behind them. -/
theorem Dev.book_pageEnd : d.pageEnd.book.cur = d.book.cur + 1 ∧ d.pageEnd.book.wp = d.book.wp + 33
    ∧ d.pageEnd.book.slot = d.pageEnd.book.wp ∧ d.pageEnd.book.num = d.book.num + 1
    ∧ d.pageEnd.book.first = d.pageEnd.book.num ∧ d.pageEnd.book.prev = d.pageEnd.book.chain := by
  simp only [Dev.pageEnd, Dev.onBook, Dev.book_pageClose, Dev.book_bookVisible, Dev.chainRecAt]
  trivial

/-- The page that the Strongroom signs is the oldest that waits with a header. -/
theorem find?_append_cons {α : Type} {f : α → Bool} {a : α} (pre post : List α) (hpre : ∀ x ∈ pre, f x = false) (ha : f a = true) :
    (pre ++ a :: post).find? f = some a := by
  have hnone : pre.find? f = none := List.find?_eq_none.mpr (by simpa using hpre)
  simp [List.find?_append, hnone, ha]

/-- The device on which page `p` has its seal block `b`. -/
def Dev.sealStored (d : Dev) (p : Page) (b : Bytes) : Dev :=
  let d := (d.freeStep.bookCount 3).writeMem true (d.slotAddr (p.past - 32))
    (b.take (128 * (d.ringSlots - (p.past - 32) % d.ringSlots)))
  let d := d.writeMem true d.book.base (b.drop (128 * (d.ringSlots - (p.past - 32) % d.ringSlots)))
  let d := d.onBook (fun k => { k with
    pages := k.pages.map (fun q => if q.num = p.num then { q with state := .written } else q) })
  let d := d.onStrong Strong.signPage
  if d.ropeVer = 2 && bitOf (d.live R.ropeCfg) 4 then d.ropeEmit 6 0 (1 :: b) else d

theorem exec_sealBlockWritten {s : State} (hf : s.dev.book.pages.find? (fun p => p.state = .waiting && p.head ≠ []) = some p)
    (hp : s.dev.strong.powered = true) :
    exec .sealBlockWritten s = .next (s.withDev (s.dev.sealStored p (sealBlock p.head s.dev.freeVal))) := by
  refine exec_withDev_congr rfl ?_
  generalize sealBlock = block
  simp only [hf, hp, Bool.not_true, Bool.false_eq_true, if_false]
  rfl

/-- A seal block that is stored marks its page as written, and the Strongroom keeps the page as its last. -/
theorem Dev.sealStored_marks (p : Page) (b : Bytes) : (d.sealStored p b).book = { d.book with
      pages := d.book.pages.map (fun q => if q.num = p.num then { q with state := .written } else q) }
    ∧ (d.sealStored p b).strong = d.strong.signPage := by
  simp only [Dev.sealStored]
  split
  case isTrue => simp only [Dev.ropeEmit, Dev.emit, Dev.onOut, Dev.onStrong, Dev.onBook, Dev.book_writeMem, Dev.strong_writeMem]; trivial
  case isFalse => simp only [Dev.onStrong, Dev.onBook, Dev.book_writeMem, Dev.strong_writeMem]; trivial

/-- The numbers of pages tell them apart, so that marking one leaves the others. -/
theorem map_marked {pre post : List Page} {p : Page} (hne : ∀ q ∈ pre ++ post, q.num ≠ p.num) :
    (pre ++ p :: post).map (fun q => if q.num = p.num then { q with state := .written } else q)
      = pre ++ { p with state := .written } :: post := by
  have hsame (l : List Page) (h : ∀ q ∈ l, q.num ≠ p.num) :
      l.map (fun q => if q.num = p.num then { q with state := .written } else q) = l :=
    (List.map_congr_left (g := id) fun q hq => if_neg (h q hq)).trans (List.map_id l)
  rw [List.map_append, List.map_cons, if_pos rfl, hsame pre (fun q hq => hne q (List.mem_append_left _ hq)),
    hsame post (fun q hq => hne q (List.mem_append_right _ hq))]

theorem Strong.signPage_cons {x : Strong} (h : x.closing = (p, r) :: ps) :
    x.signPage.page = p ∧ x.signPage.root = r ∧ x.signPage.closing = ps := by
  simp [Strong.signPage, h, Strong.storePage]

/-! ## Export and acknowledgement (R386, R458) -/

/-- A write of BOOK_ACK_HI by a master of the owner set. -/
theorem Dev.ackWrite_acts (hv : v < 2 ^ 32) (hp : d.noPath m = false) (hs : d.serving = true) (ho : d.owns m 17 = true) :
    d.ackWrite m (v % 2 ^ 32) = if d.ackOk (d.io R.bookAckLo + 2 ^ 32 * v) then d.bookAck (d.io R.bookAckLo + 2 ^ 32 * v)
      else (d.setIo64 R.bookAckLo d.book.ack).refuse m R.bookAckHi Code.reserved := by
  rw [Nat.mod_eq_of_lt hv, Dev.ackWrite, Dev.ownDoorbell_acts _ _ _ _ _ _ _ hp (Dev.blockOpen_of_serving _ hs _) ho hv]

theorem Dev.book_msix (fn vec : Nat) : (d.msix fn vec).book = d.book := by
  unfold Dev.msix
  (repeat' split) <;> rfl

/-- An acknowledgement moves the pointer, and passes the pages behind it. -/
theorem Dev.bookAck_moves (v : Nat) : (d.bookAck v).book.ack = v ∧ (d.bookAck v).book.pages = d.book.pages.filter (fun p => v < p.past)
    ∧ (d.book.ack < v → (d.bookAck v).book.ackDrip = d.drip.now) := by
  unfold Dev.bookAck
  simp only
  split
  case isTrue => exact ⟨rfl, rfl, fun _ => rfl⟩
  case isFalse h => exact ⟨rfl, rfl, fun hlt => absurd hlt h⟩

/-- A page that goes to the host. -/
theorem Dev.exportHost_acts (h2 : 2 ≤ d.hostMinor) (p : Page) : let z := d.ioFld R.hostExpSize 5 0
    (z < 27 ∨ 36 < z → d.exportHost p = d)
    ∧ (27 ≤ z → z ≤ 36 → d.busMaster 1 = false → d.exportHost p = d.setIo R.hostExpStat Code.notOwner)
    ∧ (27 ≤ z → z ≤ 36 → d.busMaster 1 = true → 2 ^ z / 128 < p.past - d.book.ack → d.exportHost p = d)
    ∧ (27 ≤ z → z ≤ 36 → d.busMaster 1 = true → p.past - d.book.ack ≤ 2 ^ z / 128 → (d.exportHost p).book.exp = p.past) := by
  intro z
  have hminor : ¬ d.hostMinor < 2 := Nat.not_lt.mpr h2
  have hsize (h27 : 27 ≤ z) (h36 : z ≤ 36) : ¬ (decide (z < 27) || decide (36 < z)) = true := by simp; omega
  refine ⟨fun h => ?_, fun h27 h36 hb => ?_, fun h27 h36 hb hroom => ?_, fun h27 h36 hb hroom => ?_⟩
  · rw [Dev.exportHost, if_neg hminor, if_pos (by simpa using h)]
  · rw [Dev.exportHost, if_neg hminor, if_neg (hsize h27 h36), if_pos (by simp [hb])]
  · rw [Dev.exportHost, if_neg hminor, if_neg (hsize h27 h36), if_neg (by simp [hb]), if_pos hroom]
  · rw [Dev.exportHost, if_neg hminor, if_neg (hsize h27 h36), if_neg (by simp [hb]), if_neg (Nat.not_lt.mpr hroom)]
    simp only
    split
    · rw [Dev.book_msix]
      rfl
    · rfl

/-- Settles O46: each row of the ring does what the lemma of its function says. -/
theorem cellarbookRing : Obligations.CellarbookRing := by
  unfold Obligations.CellarbookRing
  refine ⟨⟨?append, fun d r drip src => ⟨rfl, rfl, rfl, rfl, rfl⟩⟩, fun s => ⟨?pageEnd, ?sealed, ?signed, ?exports, ?ack, ?resend,
    fun d p h2 => Dev.exportHost_acts h2 p, fun d p => rfl, fun d v => Dev.bookAck_moves v⟩⟩
  case append =>
    intro s n j ht d hc hp
    exact ⟨fun hf => exec_withDev_congr (exec_bookAppend ht hc hp) (if_neg (Bool.eq_false_iff.mp hf)),
      fun hf => exec_withDev_congr (exec_bookAppend ht hc hp) (if_pos hf)⟩
  case pageEnd =>
    intro hdue
    exact ⟨_, exec_withDev_congr rfl (if_pos hdue), Dev.book_pageEnd⟩
  case sealed =>
    intro pre p post hpages hst hh hpre hne hp
    have hf : s.dev.book.pages.find? (fun p => p.state = .waiting && p.head ≠ []) = some p :=
      hpages ▸ find?_append_cons pre post (fun q hq => by rcases hpre q hq with h | h <;> simp [h]) (by simp [hst, hh])
    obtain ⟨hbook, hstrong⟩ := Dev.sealStored_marks (d := s.dev) p (sealBlock p.head s.dev.freeVal)
    refine ⟨_, exec_sealBlockWritten hf hp, ?_, (congrArg Book.wp hbook :), hstrong⟩
    exact (congrArg Book.pages hbook).trans (by rw [hpages]; exact map_marked hne)
  case signed => exact fun x p r ps h => Strong.signPage_cons h
  case exports =>
    exact fun p hs hn => ⟨fun hk => exec_withDev_congr rfl (by simp [hs, hn, hk]), fun hk => exec_withDev_congr rfl (by simp [hs, hn, hk])⟩
  case ack =>
    intro m v hv hp hs ho n
    exact ⟨fun hk => exec_withDev_congr rfl ((Dev.ackWrite_acts hv hp hs ho).trans (if_pos hk)),
      fun hk => exec_withDev_congr rfl ((Dev.ackWrite_acts hv hp hs ho).trans (if_neg (Bool.eq_false_iff.mp hk)))⟩
  case resend => exact fun hs hne hold => exec_withDev_congr rfl (if_pos (by simp [hs, hne, hold]))

end Sys2Proof.Machine
end

section
/-! PROOF. DRAM (chapter 16): reads, poisoned lines, failed channels, the scrubber and its passes. -/

namespace Sys2Proof.Machine

variable {d : Dev} {ch ca : Nat}

/-! ## What the groups of a line decode to (R406) -/

theorem lineVerdict_eq_clean {errs : List Nat} : lineVerdict errs = .clean ↔ ∀ e ∈ errs, e = 0 := by
  have hnone : errs.filter (fun e => e ≠ 0) = [] ↔ ∀ e ∈ errs, e = 0 := by simp [List.filter_eq_nil_iff]
  rw [← hnone]
  unfold lineVerdict
  cases errs.filter (fun e => e ≠ 0)
  case nil => simp
  case cons e l =>
    simp only [reduceCtorEq, iff_false]
    split <;> simp

/-- One device is in error when every group in error names it. -/
theorem lineVerdict_eq_device {errs : List Nat} {n : Nat} (hn : n < 10) :
    lineVerdict errs = .device n ↔ (n + 1) ∈ errs ∧ ∀ e ∈ errs, e = 0 ∨ e = n + 1 := by
  have hmem (x : Nat) : x ∈ errs.filter (fun e => e ≠ 0) ↔ x ∈ errs ∧ x ≠ 0 := by simp
  have hiff : ((n + 1) ∈ errs ∧ ∀ e ∈ errs, e = 0 ∨ e = n + 1) ↔
      (n + 1) ∈ errs.filter (fun e => e ≠ 0) ∧ ∀ e ∈ errs.filter (fun e => e ≠ 0), e = n + 1 := by
    simp only [hmem]
    constructor
    · exact fun ⟨h, hall⟩ => ⟨⟨h, by omega⟩, fun e he => (hall e he.1).resolve_left he.2⟩
    · exact fun ⟨h, hall⟩ => ⟨h.1, fun e he => (Decidable.em (e = 0)).imp_right fun h0 => hall e ⟨he, h0⟩⟩
  have hpos : ∀ x ∈ errs.filter (fun e => e ≠ 0), x ≠ 0 := fun x hx => ((hmem x).mp hx).2
  rw [hiff]
  unfold lineVerdict
  generalize errs.filter (fun e => e ≠ 0) = named at hpos ⊢
  cases named
  case nil => simp
  case cons e l =>
    simp only
    constructor
    · intro h
      split at h
      case isFalse => cases h
      case isTrue hall =>
        have he := hpos e List.mem_cons_self
        obtain ⟨-, hl⟩ : e ≤ 10 ∧ ∀ x ∈ l, x = e := by simpa using hall
        cases h
        have hsucc : e - 1 + 1 = e := by omega
        rw [hsucc]
        exact ⟨List.mem_cons_self, List.forall_mem_cons.mpr ⟨rfl, hl⟩⟩
    · rintro ⟨-, hall⟩
      obtain ⟨rfl, hl⟩ := List.forall_mem_cons.mp hall
      rw [if_pos (by simpa using ⟨by omega, hl⟩), Nat.add_sub_cancel]

/-! ## A line that is read (R406, R407) -/

/-- The session whose record an address holds, or that its reader was looking for. -/
theorem Dev.sesAt_cases (d : Dev) (a ses : Nat) :
    (∀ n k, n < d.sess.max → k < 512 → a = d.sess.base + 512 * n + k → d.sesAt a ses = some n)
    ∧ (d.sess.base + 512 * d.sess.max ≤ a → a < d.sess.base + 528 * d.sess.max → d.sesAt a ses = some ses)
    ∧ (a < d.sess.base ∨ d.sess.base + 528 * d.sess.max ≤ a → d.sesAt a ses = none) := by
  unfold Dev.sesAt
  refine ⟨fun n k hn hk ha => ?_, fun h1 h2 => ?_, fun h => ?_⟩
  · rw [if_pos (by simp; omega)]
    exact congrArg some (by omega)
  · rw [if_neg (by simp; omega), if_pos (by simp; omega)]
  · rw [if_neg (by simp; omega), if_neg (by simp; omega)]

theorem Dev.liveFld_setIo (o v k hi lo : Nat) : (d.setIo o v).liveFld k hi lo = d.liveFld k hi lo := (rfl)

theorem Dev.liveFld_chanCount (i k hi lo : Nat) : (d.chanCount ch i).liveFld k hi lo = d.liveFld k hi lo :=
  Dev.liveFld_setIo ..

/-- One device in error, below the threshold, is corrected and counted for it. -/
theorem Dev.deviceCe_below (n : Nat)
    (h : Nat.min (d.io (chanOff ch R.dramDevCe + 4 * (20 * d.rankOf ca + 10 * d.subOf ca + n)) + 1) 0xFFFF < d.liveFld R.dramScrub 23 8) :
    d.deviceCe ch ca n = (d.chanCount ch 0).setIo (chanOff ch R.dramDevCe + 4 * (20 * d.rankOf ca + 10 * d.subOf ca + n))
      (Nat.min (d.io (chanOff ch R.dramDevCe + 4 * (20 * d.rankOf ca + 10 * d.subOf ca + n)) + 1) 0xFFFF) := by
  generalize ho : chanOff ch R.dramDevCe + 4 * (20 * d.rankOf ca + 10 * d.subOf ca + n) = o at h
  have hle : ¬ d.liveFld R.dramScrub 23 8 ≤ Nat.min (d.io o + 1) 0xFFFF := Nat.not_le.mpr h
  simp only [Dev.deviceCe, ho]
  rw [if_neg (by simp [Dev.liveFld_setIo, Dev.liveFld_chanCount, hle])]

theorem Dev.dmem_setIoFld (o hi lo v : Nat) : (d.setIoFld o hi lo v).dmem = d.dmem := (rfl)

theorem Dev.dmem_updChan (f : Chan → Chan) : (d.updChan ch f).dmem = d.dmem := (rfl)

theorem Dev.dmem_bump (o : Nat) : (d.bump o).dmem = d.dmem := (rfl)

theorem Dev.dmem_incident (block code actor x y : Nat) : (d.incident block code actor x y).dmem = d.dmem := (rfl)

/-- A channel that fails keeps what is poisoned. -/
theorem Dev.dmem_failChan (cause : Nat) : (d.failChan ch cause).dmem = d.dmem := by
  unfold Dev.failChan
  split
  case isTrue => rfl
  case isFalse => simp only [Dev.chanIncident, Dev.setChanState, Dev.dmem_incident, Dev.dmem_updChan, Dev.dmem_setIoFld]

/-- A line that turns out uncorrectable is poisoned. -/
theorem Dev.poison_poisonLine (hu : d.dramUnmap ch ca = some a) :
    spGet false (d.poisonLine ch ca).dmem.poison (a / 64) = true := by
  unfold Dev.poisonLine
  generalize d.dramUnmap ch ca = place at hu ⊢
  subst hu
  exact spGet_spSet_same false d.dmem.poison (a / 64) true

theorem Dev.poison_lineUe (r : Nat) (hu : d.dramUnmap ch ca = some a) :
    spGet false (d.lineUe ch ca r).dmem.poison (a / 64) = true := by
  have hkeep : (d.lineUe ch ca r).dmem = (d.poisonLine ch ca).dmem := by
    simp only [Dev.lineUe]
    split
    case isTrue => simp only [Dev.dmem_failChan, Dev.dmem_incident, Dev.dmem_updChan, Dev.chanCount, Dev.dmem_bump]
    case isFalse => simp only [Dev.dmem_incident, Dev.dmem_updChan, Dev.chanCount, Dev.dmem_bump]
  rw [hkeep]
  exact Dev.poison_poisonLine hu

theorem Dev.dchan_updChan_same (f : Chan → Chan) : (d.updChan ch f).dchan ch = f (d.dchan ch) := by
  simp [Dev.dchan, Dev.updChan, Dev.onDctl]

/-- Poisoning a line leaves the times of the channel's errors. -/
theorem Dev.ue_poisonLine : ((d.poisonLine ch ca).dchan ch).ue = (d.dchan ch).ue := by
  unfold Dev.poisonLine
  generalize d.dramUnmap ch ca = place
  cases place
  case none => exact (congrArg Chan.ue (Dev.dchan_updChan_same (d := d) (ch := ch) _) :)
  case some a => rfl

theorem Dev.drip_poisonLine : (d.poisonLine ch ca).drip = d.drip := by
  unfold Dev.poisonLine
  generalize d.dramUnmap ch ca = place
  cases place <;> rfl

/-- Poisoning a line leaves what records say of a line. -/
theorem Dev.lineArg_poisonLine (b : Nat) : (d.poisonLine ch ca).lineArg ch ca b = d.lineArg ch ca b := by
  unfold Dev.poisonLine
  generalize d.dramUnmap ch ca = place
  cases place <;> rfl

/-- A line that turns out uncorrectable is counted and recorded, and alone does not fail its channel. -/
theorem Dev.lineUe_alone (r : Nat) (hl : ((d.dchan ch).ue.filter (fun t => d.drip.now < t + 1024)).length < 63) :
    d.lineUe ch ca r = (((d.poisonLine ch ca).chanCount ch 1).updChan ch (fun c => { c with
      ue := ((d.poisonLine ch ca).dchan ch).ue.filter (fun t => d.drip.now < t + 1024) ++ [d.drip.now] })).incident 20
        Code.poisoned (r % 2 ^ 12) (d.lineArg ch ca 1) (bits ca 35 6) := by
  simp only [Dev.lineUe, Dev.drip_poisonLine]
  rw [if_neg (by rw [List.length_append, Dev.ue_poisonLine]; simp only [List.length_singleton]; omega),
    Dev.lineArg_poisonLine]

/-- What a read that failed does: the session stage aborts the session whose record it read. -/
def Dev.readLost (d : Dev) (a r ses : Nat) : Dev :=
  match d.sesAt a ses with
  | some n => if r = 1 ∨ r = 2 then d.abortSes n d.sesGen false none else d
  | none => d

/-- A failed read of another stage aborts no session. -/
theorem Dev.readLost_iff (d : Dev) (a r ses : Nat) (p : Prop) [Decidable p] :
    (if (decide p && (decide (r = 1) || decide (r = 2))) = true then
      match d.sesAt a ses with | some n => d.abortSes n d.sesGen false none | none => d
     else d) = if p then d.readLost a r ses else d := by
  by_cases hp : p
  · by_cases hr : r = 1 ∨ r = 2
    · cases hx : d.sesAt a ses <;> simp [Dev.readLost, hp, hr, hx]
    · cases hx : d.sesAt a ses <;> simp [Dev.readLost, hp, hr, hx]
  · simp [hp]

/-- A sound read of a line of a live channel. -/
theorem exec_dramReadComplete_live {s : State} (hm : s.dev.dramMap a = some (ch, ca)) (hst : s.dev.chanState ch = 2)
    (hp : s.dev.linePoisoned ch ca = false) : exec (.dramReadComplete a ⟨r, ses⟩ errs) s = .next (s.withDev
      (if lineVerdict errs = .uncorrectable then (s.dev.lineRead ch ca r errs).readLost a r ses else s.dev.lineRead ch ca r errs)) := by
  refine exec_withDev_congr rfl ?_
  simp only [hm]
  rw [if_neg (by simp [hst])]
  simp only [hst, hp, Bool.false_or, Nat.reduceEqDiff, decide_false, Bool.false_eq_true, if_false]
  generalize s.dev.lineRead ch ca r errs = e
  exact e.readLost_iff a r ses (lineVerdict errs = .uncorrectable)

/-- A read of a poisoned line, or of a failed channel. -/
theorem exec_dramReadComplete_lost {s : State} (hm : s.dev.dramMap a = some (ch, ca))
    (h : s.dev.chanState ch = 2 ∧ s.dev.linePoisoned ch ca = true ∨ s.dev.chanState ch = 5) :
    exec (.dramReadComplete a ⟨r, ses⟩ errs) s = .next (s.withDev ((s.dev.chanCount ch 2).readLost a r ses)) := by
  refine exec_withDev_congr rfl ?_
  have hbad : (s.dev.linePoisoned ch ca || decide (s.dev.chanState ch = 5)) = true := by
    rcases h with ⟨-, h⟩ | h <;> simp [h]
  have hlive : (decide (s.dev.chanState ch ≠ 2) && decide (s.dev.chanState ch ≠ 5)) = false := by
    rcases h with ⟨h, -⟩ | h <;> simp [h]
  simp only [hm, hlive, hbad, Bool.false_eq_true, if_false, if_true, Bool.true_or]
  generalize s.dev.chanCount ch 2 = e
  have habort := e.readLost_iff a r ses True
  simp only [decide_true, if_true] at habort
  exact habort

/-! ## The scrubber (R408) -/

/-- The device on which the scrubber has read the next line of a channel, if it is not poisoned. -/
def Dev.scrubRead (d : Dev) (ch : Nat) (errs : List Nat) : Dev :=
  if d.linePoisoned ch (64 * (d.dchan ch).scrubAt) then d else d.lineRead ch (64 * (d.dchan ch).scrubAt) 0 errs

/-- The device on which a pass of the scrubber is over. -/
def Dev.scrubOver (d : Dev) (ch : Nat) : Dev :=
  (List.range 40).foldl (fun d k => d.setIo (chanOff ch R.dramDevCe + 4 * k) 0)
    ((d.chanCount ch 3).updChan ch (fun c => { c with scrubAt := 0, told := [] }))

theorem exec_dramScrubRead {s : State} (hch : ch ≤ 7) (hst : s.dev.chanState ch = 2) :
    exec (.dramScrubRead ch errs) s = .next (s.withDev
      (if 64 * (((s.dev.scrubRead ch errs).dchan ch).scrubAt + 1) < (s.dev.scrubRead ch errs).chanCap then
        (s.dev.scrubRead ch errs).updChan ch (fun c => { c with scrubAt := ((s.dev.scrubRead ch errs).dchan ch).scrubAt + 1 })
       else (s.dev.scrubRead ch errs).scrubOver ch)) :=
  exec_withDev_congr rfl (if_neg (by simp [hst, hch]))

theorem Dev.dchan_setIo (o v : Nat) : (d.setIo o v).dchan ch = d.dchan ch := (rfl)

/-- A pass that sets `n` registers to 0. -/
theorem Dev.io_zeroed (e : Dev) (o : Nat) (hk : k < n) :
    ((List.range n).foldl (fun d k => d.setIo (o + 4 * k) 0) e).io (o + 4 * k) = 0 :=
  foldl_sets_at (Dev.io · (o + 4 * k)) _ _ _ (List.mem_range.mpr hk) (fun b => Dev.io_setIo_same b _ 0)
    (fun x _ hne b => Dev.io_setIo_ne b _ _ _ (by omega))

theorem Dev.io_zeroed_ne (e : Dev) (o n : Nat) (h : ∀ k, p ≠ o + 4 * k) :
    ((List.range n).foldl (fun d k => d.setIo (o + 4 * k) 0) e).io p = e.io p :=
  foldl_part (Dev.io · p) _ (fun b k => Dev.io_setIo_ne b _ _ _ (h k)) _ _

theorem Dev.io_updChan (f : Chan → Chan) (o : Nat) : (d.updChan ch f).io o = d.io o := (rfl)

/-- A new pass begins at the first line, with nothing told, the counters of the devices at 0. -/
theorem Dev.scrubOver_begins (d : Dev) (ch : Nat) : ((d.scrubOver ch).dchan ch).scrubAt = 0 ∧ ((d.scrubOver ch).dchan ch).told = []
    ∧ (d.scrubOver ch).io (chanOff ch R.dramChCnt + 12) = (d.chanCount ch 3).io (chanOff ch R.dramChCnt + 12)
    ∧ ∀ k < 40, (d.scrubOver ch).io (chanOff ch R.dramDevCe + 4 * k) = 0 := by
  have hchan : (d.scrubOver ch).dchan ch = ((d.chanCount ch 3).updChan ch (fun c => { c with scrubAt := 0, told := [] })).dchan ch :=
    foldl_part (Dev.dchan · ch) _ (fun _ _ => Dev.dchan_setIo ..) _ _
  rw [Dev.dchan_updChan_same] at hchan
  refine ⟨congrArg Chan.scrubAt hchan, congrArg Chan.told hchan, ?_, fun k hk => Dev.io_zeroed _ _ hk⟩
  refine (Dev.io_zeroed_ne _ _ 40 fun k => ?_).trans (Dev.io_updChan ..)
  simp only [chanOff, R.dramChCnt, R.dramDevCe]
  omega

/-- Settles O47: each kind of line does what its lemma says, and a pass of the scrubber ends with its registers cleared. -/
theorem dramReads : Obligations.DramReads := by
  unfold Obligations.DramReads
  refine ⟨fun errs => lineVerdict_eq_clean, fun errs n hn => lineVerdict_eq_device hn, ?read, Dev.sesAt_cases, ?line, ?scrub⟩
  case read =>
    intro s a r ses ch ca errs hm lost
    exact ⟨fun hst hp => exec_dramReadComplete_live hm hst hp, fun h => exec_dramReadComplete_lost hm h⟩
  case line =>
    intro d ch ca r errs
    refine ⟨fun h => by rw [Dev.lineRead, h], fun n h hc => ?_, fun a => Dev.poison_lineUe r, Dev.lineUe_alone r⟩
    rw [Dev.lineRead, h]
    exact Dev.deviceCe_below n hc
  case scrub =>
    intro s ch errs hch hst at_ d hat
    have hrun := exec_dramScrubRead (errs := errs) hch hst
    refine ⟨fun hroom => exec_withDev_congr hrun ?_, fun hend => ⟨_, exec_withDev_congr hrun (if_neg ?_), Dev.scrubOver_begins _ ch⟩⟩
    · rw [if_pos (by rw [show ((s.dev.scrubRead ch errs).dchan ch).scrubAt = at_ from hat]; exact hroom)]
      rw [show ((s.dev.scrubRead ch errs).dchan ch).scrubAt = at_ from hat]
      rfl
    · rw [show ((s.dev.scrubRead ch errs).dchan ch).scrubAt = at_ from hat]
      exact Nat.not_lt.mpr hend

end Sys2Proof.Machine
end

section
/-! PROOF. Block of DRAM scheduling: which request a subchannel picks, what serving and entering leave, the states of a channel (O48). -/

namespace Sys2Proof.Machine

variable {d : Dev} {ch : Nat} {q : SubCh}

/-! ## What a subchannel may serve (R403, R404) -/

theorem SubCh.mode_iff (q : SubCh) (hi : Nat) : q.mode hi = true ↔
    q.writes ≠ [] ∧ (q.writing = true ∨ q.reads = []) ∨ q.writing = false ∧ hi ≤ q.writes.length := by
  cases hw : q.writing
  case true => simp [SubCh.mode, hw]
  case false => simp [SubCh.mode, hw, and_comm, or_comm]

theorem SubCh.mem_freeWrites {x : DramReq} : x ∈ q.freeWrites ↔ x ∈ q.writes ∧ ∀ y ∈ q.reads, y.line ≠ x.line := by
  simp [SubCh.freeWrites]

theorem SubCh.mem_freeReads {x : DramReq} : x ∈ q.freeReads ↔ x ∈ q.reads ∧ x.fwd = false := by simp [SubCh.freeReads]

/-- A list of requests in order of age. -/
def inAge (l : List DramReq) : Prop := l.Pairwise (fun a b => a.since ≤ b.since)

/-- The first of a list in order of age for which something holds is the oldest for which it holds. -/
theorem find?_oldest {l : List DramReq} (hl : inAge l) {f : DramReq → Bool} {a : DramReq} (ha : l.find? f = some a) :
    ∀ x ∈ l, f x = true → a.since ≤ x.since := by
  obtain ⟨-, pre, post, rfl, hpre⟩ := List.find?_eq_some_iff_append.mp ha
  intro x hx hfx
  rcases List.mem_append.mp hx with hx | hx
  case inl => simpa [hfx] using hpre x hx
  case inr =>
    obtain ⟨hfirst, -⟩ := List.pairwise_cons.mp (List.pairwise_append.mp hl).2.1
    rcases List.mem_cons.mp hx with rfl | hx
    · exact le_refl _
    · exact hfirst x hx

/-- The first of a list in order of age is its oldest. -/
theorem head?_oldest {l : List DramReq} (hl : inAge l) {a : DramReq} (ha : l.head? = some a) : ∀ x ∈ l, a.since ≤ x.since := by
  cases l with
  | nil => cases ha
  | cons b l =>
    cases ha
    exact List.forall_mem_cons.mpr ⟨le_refl _, (List.pairwise_cons.mp hl).1⟩

/-- The oldest request of a queue that has reached the age limit. -/
def aged (cap now : Nat) (l : List DramReq) : Option DramReq := l.find? (fun r => cap ≤ now - r.since)

section
variable {l : List DramReq} {cap now : Nat} {a : DramReq}

theorem aged_some (hl : inAge l) (ha : aged cap now l = some a) :
    a ∈ l ∧ cap ≤ now - a.since ∧ ∀ x ∈ l, a.since ≤ x.since := by
  have hcap : cap ≤ now - a.since := by simpa using List.find?_some ha
  refine ⟨List.mem_of_find?_eq_some ha, hcap, fun x hx => ?_⟩
  by_cases hage : cap ≤ now - x.since
  · exact find?_oldest hl ha x hx (by simpa using hage)
  · omega

theorem aged_none (ha : aged cap now l = none) : ∀ x ∈ l, now - x.since < cap := by
  simpa [aged] using ha

end

/-- The mode in which a subchannel serves: writes only while one may be issued. -/
def SubCh.servesWrite (q : SubCh) (w : Bool) : Bool := w && q.freeWrites ≠ []

/-- The requests of the mode. -/
def SubCh.ofMode (q : SubCh) (w : Bool) : List DramReq := if q.servesWrite w then q.freeWrites else q.freeReads

theorem SubCh.pick_eq (q : SubCh) (w : Bool) (cap now : Nat) : q.pick w cap now =
    match aged cap now q.freeReads, aged cap now q.freeWrites with
    | some a, some b => if a.since ≤ b.since then some ⟨false, a, true⟩ else some ⟨true, b, true⟩
    | some a, none => some ⟨false, a, true⟩
    | none, some b => some ⟨true, b, true⟩
    | none, none => match (q.ofMode w).find? (fun r => spFind q.rows r.bank = some r.row) with
      | some r => some ⟨q.servesWrite w, r, false⟩
      | none => (q.ofMode w).head?.map (fun r => ⟨q.servesWrite w, r, false⟩) := rfl

/-- What a pick by age says of its request. -/
def DramPick.ByAge (q : SubCh) (cap now : Nat) (p : DramPick) : Prop :=
  p.req ∈ (if p.write then q.freeWrites else q.freeReads) ∧ cap ≤ now - p.req.since
    ∧ ∀ x ∈ q.freeReads ++ q.freeWrites, p.req.since ≤ x.since

/-- What a pick of the mode says of its request: none is old, and it is the oldest row hit, or the oldest. -/
def DramPick.ByMode (q : SubCh) (w : Bool) (cap now : Nat) (p : DramPick) : Prop :=
  p.write = q.servesWrite w ∧ p.req ∈ q.ofMode w ∧ (∀ x ∈ q.freeReads ++ q.freeWrites, now - x.since < cap)
    ∧ ((∃ x ∈ q.ofMode w, spFind q.rows x.bank = some x.row) → spFind q.rows p.req.bank = some p.req.row
      ∧ ∀ x ∈ q.ofMode w, spFind q.rows x.bank = some x.row → p.req.since ≤ x.since)
    ∧ ((∀ x ∈ q.ofMode w, spFind q.rows x.bank ≠ some x.row) → ∀ x ∈ q.ofMode w, p.req.since ≤ x.since)

section
variable {w : Bool} {cap now : Nat} {p : DramPick}

theorem inAge_free (hr : inAge q.reads) (hw : inAge q.writes) : inAge q.freeReads ∧ inAge q.freeWrites :=
  ⟨hr.filter _, hw.filter _⟩

theorem inAge_ofMode (hr : inAge q.reads) (hw : inAge q.writes) (w : Bool) : inAge (q.ofMode w) := by
  unfold SubCh.ofMode
  split
  · exact (inAge_free hr hw).2
  · exact (inAge_free hr hw).1

/-- A request that has reached the age limit is older than one that has not. -/
theorem since_le_of_aged {a x : DramReq} (ha : cap ≤ now - a.since) (hx : now - x.since < cap) : a.since ≤ x.since := by omega

/-- A pick made because of age is the oldest of all that may be served. -/
theorem SubCh.pick_aged (hr : inAge q.reads) (hw : inAge q.writes) (hp : q.pick w cap now = some p)
    (ha : p.aged = true) : p.ByAge q cap now := by
  obtain ⟨hfr, hfw⟩ := inAge_free hr hw
  rw [SubCh.pick_eq] at hp
  cases hra : aged cap now q.freeReads with
  | some a =>
    obtain ⟨hmem, hcap, hold⟩ := aged_some hfr hra
    cases hwa : aged cap now q.freeWrites with
    | some b =>
      obtain ⟨hmem', hcap', hold'⟩ := aged_some hfw hwa
      simp only [hra, hwa] at hp
      split at hp
      case isTrue hle =>
        cases hp
        exact ⟨hmem, hcap, List.forall_mem_append.mpr ⟨hold, fun x hx => hle.trans (hold' x hx)⟩⟩
      case isFalse hlt =>
        cases hp
        exact ⟨hmem', hcap', List.forall_mem_append.mpr ⟨fun x hx => (Nat.le_of_not_le hlt).trans (hold x hx), hold'⟩⟩
    | none =>
      simp only [hra, hwa] at hp
      cases hp
      exact ⟨hmem, hcap, List.forall_mem_append.mpr ⟨hold, fun x hx => since_le_of_aged hcap (aged_none hwa x hx)⟩⟩
  | none =>
    cases hwa : aged cap now q.freeWrites with
    | some b =>
      obtain ⟨hmem', hcap', hold'⟩ := aged_some hfw hwa
      simp only [hra, hwa] at hp
      cases hp
      exact ⟨hmem', hcap', List.forall_mem_append.mpr ⟨fun x hx => since_le_of_aged hcap' (aged_none hra x hx), hold'⟩⟩
    | none =>
      simp only [hra, hwa] at hp
      split at hp
      · cases hp
        cases ha
      · obtain ⟨r, -, rfl⟩ := Option.map_eq_some_iff.mp hp
        cases ha

/-- A pick that age did not make finds no old request. -/
theorem SubCh.pick_not_aged (hp : q.pick w cap now = some p) (ha : p.aged = false) :
    aged cap now q.freeReads = none ∧ aged cap now q.freeWrites = none := by
  rw [SubCh.pick_eq] at hp
  cases hra : aged cap now q.freeReads with
  | some a =>
    cases hwa : aged cap now q.freeWrites with
    | some b =>
      simp only [hra, hwa] at hp
      split at hp <;> (cases hp; cases ha)
    | none =>
      simp only [hra, hwa] at hp
      cases hp
      cases ha
  | none =>
    cases hwa : aged cap now q.freeWrites with
    | some b =>
      simp only [hra, hwa] at hp
      cases hp
      cases ha
    | none => exact ⟨rfl, rfl⟩

/-- A pick that age did not make is the oldest row hit of the mode, else the oldest of the mode. -/
theorem SubCh.pick_mode (hr : inAge q.reads) (hw : inAge q.writes) (hp : q.pick w cap now = some p)
    (ha : p.aged = false) : p.ByMode q w cap now := by
  obtain ⟨hra, hwa⟩ := SubCh.pick_not_aged hp ha
  have hyoung : ∀ x ∈ q.freeReads ++ q.freeWrites, now - x.since < cap :=
    List.forall_mem_append.mpr ⟨aged_none hra, aged_none hwa⟩
  have hage := inAge_ofMode hr hw w
  rw [SubCh.pick_eq] at hp
  simp only [hra, hwa] at hp
  cases hhit : (q.ofMode w).find? (fun r => spFind q.rows r.bank = some r.row) with
  | some r =>
    simp only [hhit] at hp
    cases hp
    have hmem := List.mem_of_find?_eq_some hhit
    have hopen : spFind q.rows r.bank = some r.row := by simpa using List.find?_some hhit
    exact ⟨rfl, hmem, hyoung, fun _ => ⟨hopen, fun x hx hxo => find?_oldest hage hhit x hx (by simpa using hxo)⟩,
      fun hno => absurd hopen (hno r hmem)⟩
  | none =>
    have hno : ∀ x ∈ q.ofMode w, spFind q.rows x.bank ≠ some x.row := by simpa using hhit
    simp only [hhit] at hp
    obtain ⟨r, hhead, rfl⟩ := Option.map_eq_some_iff.mp hp
    exact ⟨rfl, List.mem_of_head? hhead, hyoung, fun ⟨x, hx, hxo⟩ => absurd hxo (hno x hx),
      fun _ => head?_oldest hage hhead⟩

/-- While the mode has a request, one is picked. -/
theorem SubCh.pick_isSome (hl : q.ofMode w ≠ []) : q.pick w cap now ≠ none := by
  rw [SubCh.pick_eq]
  split
  · split <;> exact Option.some_ne_none _
  · exact Option.some_ne_none _
  · exact Option.some_ne_none _
  · split
    · exact Option.some_ne_none _
    · simpa using hl

/-! ## What serving and entering leave in the queues (R403, R404) -/

/-- The reads left when a request is served, before those go that a served read answers. -/
def SubCh.left (q : SubCh) (p : DramPick) : List DramReq := if p.write then q.reads else q.reads.erase p.req

theorem SubCh.mem_reads_serve {lo : Nat} {x : DramReq} : x ∈ (q.serve w lo p).reads ↔
    x ∈ q.left p ∧ (x.fwd = true → ∃ y ∈ q.left p, y.fwd = false ∧ y.line = x.line) := by
  show x ∈ (q.left p).filter (fun x => !x.fwd || (q.left p).any (fun y => !y.fwd && y.line = x.line)) ↔ _
  cases hf : x.fwd <;> simp [hf]

theorem inAge_serve (hr : inAge q.reads) (hw : inAge q.writes) (lo : Nat) :
    inAge (q.serve w lo p).reads ∧ inAge (q.serve w lo p).writes := by
  have hleft : inAge (if p.write then q.reads else q.reads.erase p.req) := by
    split
    · exact hr
    · exact hr.sublist List.erase_sublist
  refine ⟨hleft.filter _, ?_⟩
  show inAge (if p.write then q.writes.erase p.req else q.writes)
  split
  · exact hw.sublist List.erase_sublist
  · exact hw

/-- The largest of the times of a list, from `t` on, is no less than any of them. -/
theorem since_le_foldl (l : List DramReq) (t : Nat) :
    t ≤ l.foldl (fun m r => Nat.max m r.since) t ∧ ∀ x ∈ l, x.since ≤ l.foldl (fun m r => Nat.max m r.since) t := by
  induction l generalizing t with
  | nil => exact ⟨le_refl _, by simp⟩
  | cons a l ih =>
    obtain ⟨hstart, hrest⟩ := ih (Nat.max t a.since)
    refine ⟨(Nat.le_max_left ..).trans hstart, List.forall_mem_cons.mpr ⟨(Nat.le_max_right ..).trans hstart, hrest⟩⟩

/-- A new request is no older than any that waits. -/
theorem SubCh.since_le_stamp (q : SubCh) (t : Nat) : (∀ x ∈ q.reads, x.since ≤ q.stamp t) ∧ ∀ x ∈ q.writes, x.since ≤ q.stamp t :=
  List.forall_mem_append.mp (since_le_foldl (q.reads ++ q.writes) t).2

/-- A request no older than those of a list goes behind them. -/
theorem inAge_append {l : List DramReq} {r : DramReq} (hl : inAge l) (hr : ∀ x ∈ l, x.since ≤ r.since) : inAge (l ++ [r]) :=
  List.pairwise_append.mpr ⟨hl, List.pairwise_singleton .., fun x hx y hy => by cases List.mem_singleton.mp hy; exact hr x hx⟩

theorem inAge_enter (hr : inAge q.reads) (hw : inAge q.writes) (line bank row t : Nat) :
    inAge (q.enter w line bank row t).reads ∧ inAge (q.enter w line bank row t).writes := by
  obtain ⟨hsr, hsw⟩ := q.since_le_stamp t
  unfold SubCh.enter
  cases w
  case true =>
    cases q.writes.any (fun x => x.line = line)
    · exact ⟨hr, inAge_append hw hsw⟩
    · exact ⟨hr, hw⟩
  case false =>
    cases q.writes.any (fun x => x.line = line)
    case false => exact ⟨inAge_append hr hsr, hw⟩
    case true =>
      cases q.reads.any (fun x => x.line = line)
      · exact ⟨hr, hw⟩
      · exact ⟨inAge_append hr hsr, hw⟩

end

/-! ## The scheduler (R403, R405, R412) -/

/-- The ranks of a channel that owe `n` refreshes or more. -/
def Chan.due (c : Chan) (n : Nat) : Option Nat := [0, 1].find? (fun r => n ≤ spGet 0 c.owed r)

theorem Chan.due_eq_none {c : Chan} {n : Nat} : c.due n = none ↔ ∀ k < 2, spGet 0 c.owed k < n := by
  have hall : (∀ k < 2, spGet 0 c.owed k < n) ↔ spGet 0 c.owed 0 < n ∧ spGet 0 c.owed 1 < n :=
    ⟨fun h => ⟨h 0 (by decide), h 1 (by decide)⟩, fun ⟨h0, h1⟩ k hk => by interval_cases k <;> assumption⟩
  rw [hall]
  simp [Chan.due]

section
variable {s : State} {sub ns alerts : Nat}

/-- What the scheduler of a subchannel serves, on state `e` after the alerts are counted. -/
def Dev.serves (e : Dev) (c : Chan) (ch sub ns : Nat) : Dev :=
  let q := c.subs.getD sub SubCh.init
  match c.due 5 with
  | some r => (e.updChan ch (fun c => c.refresh r)).chanCount ch 7
  | none =>
    if !(!q.reads.isEmpty || !q.writes.isEmpty) then match c.due 1 with | some r => e.updChan ch (fun c => c.refresh r) | none => e
    else
      match q.pick (q.mode (e.liveFld R.dramSched 14 8)) (100 * e.liveFld R.dramSched 7 0) (e.nsAt ns) with
      | none => e
      | some p =>
        let f := (e.updChan ch (fun c => { c with subs := c.subs.set sub (q.serve (q.mode (e.liveFld R.dramSched 14 8))
          (e.liveFld R.dramSched 22 16) p) })).chanCount ch (if spFind q.rows p.req.bank = some p.req.row then 4 else 5)
        if p.aged then f.chanCount ch 6 else f

theorem exec_dramCommandIssue (hch : ch ≤ 7) (hsub : sub ≤ 1) (hst : s.dev.chanState ch = 2) :
    exec (.dramCommandIssue ch sub ns alerts) s = .next (s.withDev
      (if 4 ≤ alerts then (s.dev.bumpBy (chanOff ch R.dramChCnt + 40) (Nat.min alerts 3)).failChan ch 8
       else (s.dev.bumpBy (chanOff ch R.dramChCnt + 40) (Nat.min alerts 3)).serves (s.dev.dchan ch) ch sub ns)) := by
  have hon : ¬ (decide (7 < ch) || decide (1 < sub) || decide (s.dev.chanState ch ≠ 2)) = true := by
    simp [hst, hch, hsub]
  exact exec_withDev_congr rfl (if_neg hon)

end

section
variable {e : Dev} {c : Chan} {sub ns : Nat}

/-- A rank that owes five refreshes is refreshed first. -/
theorem Dev.serves_owed {r : Nat} (h : c.due 5 = some r) :
    e.serves c ch sub ns = (e.updChan ch (fun c => c.refresh r)).chanCount ch 7 := by simp only [Dev.serves, h]

/-- While nothing waits any refresh that is owed is issued. -/
theorem Dev.serves_idle (h : c.due 5 = none) (hr : (c.subs.getD sub SubCh.init).reads = [])
    (hw : (c.subs.getD sub SubCh.init).writes = []) :
    (∀ r, c.due 1 = some r → e.serves c ch sub ns = e.updChan ch (fun c => c.refresh r))
    ∧ (c.due 1 = none → e.serves c ch sub ns = e) := by
  have hnone : (!(c.subs.getD sub SubCh.init).reads.isEmpty || !(c.subs.getD sub SubCh.init).writes.isEmpty) = false := by
    rw [hr, hw]
    rfl
  refine ⟨fun r h1 => ?_, fun h1 => ?_⟩ <;> simp only [Dev.serves, h, h1, hnone, Bool.not_false, if_true]

/-- Else the request that is picked is served. -/
theorem Dev.serves_pick {p : DramPick} {q : SubCh} (h : c.due 5 = none) (hq : c.subs.getD sub SubCh.init = q)
    (hwait : q.reads ≠ [] ∨ q.writes ≠ [])
    (hp : q.pick (q.mode (e.liveFld R.dramSched 14 8)) (100 * e.liveFld R.dramSched 7 0) (e.nsAt ns) = some p) :
    e.serves c ch sub ns =
      (let f := (e.updChan ch (fun c => { c with subs := c.subs.set sub (q.serve (q.mode (e.liveFld R.dramSched 14 8))
          (e.liveFld R.dramSched 22 16) p) })).chanCount ch (if spFind q.rows p.req.bank = some p.req.row then 4 else 5)
       if p.aged then f.chanCount ch 6 else f) := by
  subst hq
  have hw : (!(c.subs.getD sub SubCh.init).reads.isEmpty || !(c.subs.getD sub SubCh.init).writes.isEmpty) = true := by
    simpa using hwait
  simp only [Dev.serves, h, hw, hp, Bool.not_true, Bool.false_eq_true, if_false]

end

/-! ## The states of a channel (R402, R405, R409, R410, R412) -/

section
variable {s : State}

/-- A channel that works or refreshes itself fails. -/
theorem Dev.failChan_fails {cause : Nat} (hs : d.serving = true) (hch : ch ≤ 7) (hst : d.chanState ch = 2 ∨ d.chanState ch = 4) :
    d.failChan ch cause = (((d.setChanState ch 5).setIoFld (chanOff ch R.dramChStat) 7 4 cause).updChan ch (fun k => { k with
      subs := [SubCh.init, SubCh.init] })).chanIncident ch cause := by
  have hruns : (decide (d.chanState ch = 2) || decide (d.chanState ch = 4)) = true := by simpa using hst
  have hon : ¬ (!d.serving || decide (7 < ch) || !(decide (d.chanState ch = 2) || decide (d.chanState ch = 4))) = true := by
    simp [hs, hch, hruns]
  exact if_neg hon

/-- The delay of a lane after a measurement that gives `x`. -/
def drifts (old x : Int) : Int := if 0 < x then old + 1 else if x < 0 then old - 1 else old

theorem exec_dqsOscMeasure {lane : Nat} {x : Int} (hch : ch ≤ 7) (hlane : lane < s.dev.laneCount) (hs : s.dev.serving = true)
    (hst : s.dev.chanState ch = 2)
    (hdue : spGet 0 (s.dev.dchan ch).oscAt lane = 0 ∨ spGet 0 (s.dev.dchan ch).oscAt lane + 16383 ≤ s.dev.drip.now) :
    let new := drifts (spGet 0 (s.dev.dchan ch).drift lane) x
    let d := s.dev.updChan ch (fun c => { c with oscAt := spSet 0 c.oscAt lane (s.dev.drip.now + 1) })
    let e := d.updChan ch (fun c => { c with drift := spSet 0 c.drift lane new })
    exec (.dqsOscMeasure ch lane x) s = .next (s.withDev (
      if 16 < new.natAbs then d.failChan ch 9
      else if (decide (8 < new.natAbs) && !spGet false (s.dev.dchan ch).drifted lane) = true then
        ((e.updChan ch (fun c => { c with drifted := spSet false c.drifted lane true })).chanCount ch 9).freeStep.incident 20
          (e.freeVal % 16) 0 ch lane
      else e)) := by
  intro new d e
  have hosc : s.dev.oscDue ch lane = true := by simpa [Dev.oscDue] using hdue
  have hon : ¬ (decide (7 < ch) || decide (s.dev.laneCount ≤ lane) || !s.dev.serving || decide (s.dev.chanState ch ≠ 2)
      || !s.dev.oscDue ch lane) = true := by simp [hst, hch, hlane, hs, hosc]
  have hdrift : spGet 0 (d.dchan ch).drift lane = spGet 0 (s.dev.dchan ch).drift lane := by
    rw [Dev.dchan_updChan_same]
  have htold : spGet false (d.dchan ch).drifted lane = spGet false (s.dev.dchan ch).drifted lane := by
    rw [Dev.dchan_updChan_same]
  refine exec_withDev_congr rfl ((if_neg hon).trans ?_)
  show (if 16 < (drifts (spGet 0 (d.dchan ch).drift lane) x).natAbs then d.failChan ch 9
    else if (decide (8 < (drifts (spGet 0 (d.dchan ch).drift lane) x).natAbs) && !spGet false (d.dchan ch).drifted lane) = true then
      _ else _) = _
  rw [hdrift, htold]
  rfl

end

/-- Settles O48: what age a pick has follows from the order of the queues, which entering and serving keep. -/
theorem dramScheduling : Obligations.DramScheduling := by
  unfold Obligations.DramScheduling
  refine ⟨⟨?issue, SubCh.mode_iff, fun q x => ⟨SubCh.mem_freeWrites, SubCh.mem_freeReads⟩, ?pick, ?serve, ?age⟩, ?states⟩
  case issue =>
    intro s ch sub ns alerts hch hsub hst
    have hrun := exec_dramCommandIssue (ns := ns) (alerts := alerts) hch hsub hst
    refine ⟨fun ha => by rw [hrun, if_pos ha], fun ha r hr => ?_, fun ha hfew hr hw => ⟨fun r hr1 => ?_, fun hnone => ?_⟩,
      fun p ha hfew hwait hp => ?_⟩ <;> rw [hrun, if_neg (Nat.not_le.mpr (Nat.lt_succ_of_le ha))]
    · rw [Dev.serves_owed hr]
    · rw [(Dev.serves_idle (Chan.due_eq_none.mpr hfew) hr hw).1 r hr1]
    · rw [(Dev.serves_idle (Chan.due_eq_none.mpr hfew) hr hw).2 (Chan.due_eq_none.mpr (by simpa using hnone))]
    · rw [Dev.serves_pick (Chan.due_eq_none.mpr hfew) rfl hwait hp]
  case pick =>
    exact fun q w cap now hr hw => ⟨SubCh.pick_isSome, fun p hp => ⟨SubCh.pick_aged hr hw hp, SubCh.pick_mode hr hw hp⟩⟩
  case serve =>
    refine fun q w lo p => ⟨spFind_spPut_same .., rfl, fun x => SubCh.mem_reads_serve, ?_⟩
    show (w && decide (lo < (q.serve w lo p).writes.length)) = true ↔ _
    rw [Bool.and_eq_true, decide_eq_true_iff]
  case age =>
    rintro q t w (⟨lo, p, rfl⟩ | ⟨line, bank, row, now, rfl⟩) hr hw
    · exact inAge_serve hr hw lo
    · exact inAge_enter hr hw line bank row now
  case states =>
    intro s ch hch
    refine ⟨fun r hr hst => ?_, fun hs hst hidle hpark hlong => ?_, fun hst q hq hwait => ?_, fun cause h8 h11 hs hst => ?_,
      fun lane x hlane hs hst hdue => ?_⟩
    · exact exec_withDev_congr rfl (if_pos (by simp [hch, hr, hst]))
    · have hempty : (s.dev.dchan ch).subs.all (fun s => s.reads.isEmpty && s.writes.isEmpty) = true := by simpa using hidle
      have hrest : (!s.dev.chanShared ch || decide ((s.dev.dchan ch).last + s.dev.srIdle ≤ s.dev.drip.now)) = true := by
        cases hsh : s.dev.chanShared ch <;> simp [hlong, hsh]
      refine exec_withDev_congr rfl (if_pos ?_)
      rw [hempty, hrest]
      simp [hch, hs, hst, hpark]
    · have hask : (s.dev.dchan ch).subs.any (fun q => !q.reads.isEmpty || !q.writes.isEmpty) = true :=
        List.any_eq_true.mpr ⟨q, hq, by simpa using hwait⟩
      refine exec_withDev_congr rfl (if_pos ?_)
      rw [hask]
      simp [hch, hst]
    · refine exec_withDev_congr rfl ((if_pos (by simp [h8, h11])).trans ?_)
      exact Dev.failChan_fails hs hch hst
    · have hrun := exec_dqsOscMeasure (x := x) hch hlane hs hst hdue
      intro old new d
      refine ⟨fun hfar => ?_, fun hnear => ?_, fun hbeyond hin htold =>
        ⟨(d.updChan ch (fun c => { c with drift := spSet 0 c.drift lane new })).freeVal % 16, Nat.mod_lt _ (by decide), ?_⟩⟩
      · exact hrun.trans (congrArg (fun d => Host.Outcome.next (s.withDev d)) (if_pos hfar))
      · have hin : ¬ 16 < new.natAbs := by omega
        have hquiet : ¬ (decide (8 < new.natAbs) && !spGet false (s.dev.dchan ch).drifted lane) = true := by
          rcases hnear with h | ⟨-, h⟩ <;> simp [h]
        exact hrun.trans (congrArg (fun d => Host.Outcome.next (s.withDev d)) ((if_neg hin).trans (if_neg hquiet)))
      · have htell : (decide (8 < new.natAbs) && !spGet false (s.dev.dchan ch).drifted lane) = true := by simp [hbeyond, htold]
        exact hrun.trans (congrArg (fun d => Host.Outcome.next (s.withDev d)) ((if_neg (Nat.not_lt.mpr hin)).trans (if_pos htell)))

end Sys2Proof.Machine
end

section
/-! PROOF. The arbiters (chapter 16): grants, windows, what a grant admits, and queries (O49). -/

namespace Sys2Proof.Machine

variable {d : Dev}

/-! ## Who may be granted, and what a grant admits (R415 to R417) -/

theorem roundRobin_mem {last r : Nat} {l : List Nat} (h : roundRobin last l = some r) : r ∈ l := by
  unfold roundRobin at h
  split at h
  case h_1 r' hfind =>
    cases h
    exact List.mem_of_find?_eq_some hfind
  case h_2 => exact List.mem_of_head? h

theorem roundRobin_eq_none {last : Nat} {l : List Nat} (h : roundRobin last l = none) : l = [] := by
  unfold roundRobin at h
  split at h
  case h_1 => cases h
  case h_2 => exact List.head?_eq_none_iff.mp h

/-- The tier of a requester is one of three. -/
theorem Arb.tier_lt (v : Arb) (q : List Nat) (r : Nat) : v.tier q r < 3 := by
  show (if q.getD r 0 = 0 then 1 else if spGet 0 v.taken r < q.getD r 0 then 0 else 2) < 3
  split
  · decide
  · split <;> decide

/-- The tier of a grant is the first that has a pending requester. -/
theorem Arb.choose_first {v : Arb} {q pend : List Nat} {r t : Nat} (h : v.choose q pend = some (r, t)) :
    r ∈ pend ∧ v.tier q r = t ∧ ∀ x ∈ pend, t ≤ v.tier q x := by
  obtain ⟨pre, t', post, hsplit, hgrant, hpre⟩ := List.findSome?_eq_some_iff.mp h
  obtain ⟨r', hr', heq⟩ := Option.map_eq_some_iff.mp hgrant
  cases heq
  obtain ⟨hmem, htier⟩ := List.mem_filter.mp (roundRobin_mem hr')
  refine ⟨hmem, by simpa using htier, fun x hx => Nat.le_of_not_lt fun hlt => ?_⟩
  have hbefore : v.tier q x ∈ pre := by
    have hin : v.tier q x ∈ pre ++ t :: post := by
      rw [← hsplit]
      have := v.tier_lt q x
      interval_cases v.tier q x <;> simp
    have hsorted : (pre ++ t :: post).Pairwise (· < ·) := by
      rw [← hsplit]
      decide
    rcases List.mem_append.mp hin with hin | hin
    · exact hin
    · have hge : ∀ y ∈ t :: post, t ≤ y :=
        List.forall_mem_cons.mpr ⟨le_refl _, fun y hy =>
          ((List.pairwise_cons.mp (List.pairwise_append.mp hsorted).2.1).1 y hy).le⟩
      exact absurd (hge _ hin) (Nat.not_le.mpr hlt)
  have hnone : pend.filter (fun r => v.tier q r = v.tier q x) = [] :=
    roundRobin_eq_none (Option.map_eq_none_iff.mp (hpre _ hbefore))
  exact absurd (List.mem_filter.mpr ⟨hx, decide_eq_true rfl⟩) (hnone ▸ List.not_mem_nil)

theorem Dev.mem_arbAsks {a r : Nat} {waits : List (Nat × Nat)} : r ∈ d.arbAsks a waits ↔
    r < 32 ∧ (∃ n, (r, n) ∈ waits) ∧ arbServes a r = true ∧ (a = 24 → (d.sealAsks r).isSome = true) := by
  have hwaits : (waits.any (fun x => x.1 = r)) = true ↔ ∃ n, (r, n) ∈ waits := by simp
  have hseal : (decide (a ≠ 24) || (d.sealAsks r).isSome) = true ↔ (a = 24 → (d.sealAsks r).isSome = true) := by
    by_cases h : a = 24 <;> simp [h]
  rw [Dev.arbAsks, List.mem_filter, List.mem_range, Bool.and_eq_true, Bool.and_eq_true, hwaits, hseal, and_assoc]

/-- A grant counts in the window, which ends after its last. -/
theorem Arb.grant_counts (v : Arb) (cap : Nat × List Nat) (r t : Nat) :
    (cap.1 ≤ v.count + 1 → (v.grant cap r t).count = 0 ∧ (v.grant cap r t).taken = [] ∧ (v.grant cap r t).cap = none)
    ∧ (v.count + 1 < cap.1 → (v.grant cap r t).count = v.count + 1 ∧ (v.grant cap r t).cap = some cap)
    ∧ spGet 0 (v.grant cap r t).grants r = (spGet 0 v.grants r + 1) % 2 ^ 48 ∧ spGet 0 (v.grant cap r t).waiting r = 0 := by
  simp only [Arb.grant]
  by_cases hlast : cap.1 ≤ v.count + 1
  · rw [if_pos hlast]
    exact ⟨fun _ => ⟨rfl, rfl, rfl⟩, fun h => absurd hlast (Nat.not_le.mpr h), spGet_spSet_same .., spGet_spSet_same 0 v.waiting r 0⟩
  · rw [if_neg hlast]
    exact ⟨fun h => absurd h hlast, fun _ => ⟨rfl, rfl⟩, spGet_spSet_same .., spGet_spSet_same 0 v.waiting r 0⟩

/-- The first command of a gallery that waits goes behind those admitted before it. -/
theorem Dev.sealGranted_admits {g : Nat} {pre post : List SealItem} {it : SealItem} {j : Job}
    (hq : d.pool.queue = pre ++ it :: post) (hpre : ∀ x ∈ pre, x.adm = true ∨ ∀ k, d.job x.job = some k → k.tid.g ≠ g)
    (hnew : it ∉ pre) (hadm : it.adm = false) (hj : d.job it.job = some j) (hg : j.tid.g = g) :
    d.sealGranted g = d.onPool (fun p => { p with queue := pre ++ post ++ [{ it with adm := true }] }) := by
  have hfirst : d.sealAsks g = some it := by
    refine List.find?_eq_some_iff_append.mpr ⟨by simp [hadm, hj, hg], pre, post, hq, fun x hx => ?_⟩
    rcases hpre x hx with hx | hx
    · simp [hx]
    · cases hk : d.job x.job with
      | none => simp
      | some k => simp [hx k hk]
  have herase : d.pool.queue.erase it = pre ++ post := by rw [hq, List.erase_append_right _ hnew, List.erase_cons_head]
  unfold Dev.sealGranted
  rw [hfirst, ← herase]
  rfl

/-! ## The queues a line enters (R404) -/

/-- A channel's update counts by what it makes of the channel. -/
theorem Dev.updChan_congr {ch : Nat} {f g : Chan → Chan} (h : f (d.dchan ch) = g (d.dchan ch)) : d.updChan ch f = d.updChan ch g := by
  show d.onDctl (fun k => { k with chans := spSet Chan.init k.chans ch (f (spGet Chan.init k.chans ch)) }) = _
  exact congrArg (fun c => d.onDctl (fun k => { k with chans := spSet Chan.init d.dctl.chans ch c })) h

/-- The only line of a burst of one. -/
theorem burstLines_one (ca : Nat) : burstLines ca 1 = [ca / 64 * 64] := by
  have hline : ca / 64 * 64 / 256 = ca / 256 := by omega
  simp [burstLines, List.range_succ, hline]

theorem Dev.enqueue_one (ch ca ns : Nat) (w : Bool) : d.enqueue ch w ca 1 ns = d.updChan ch (fun c => { c with
    last := d.drip.now,
    subs := c.subs.set (d.subOf (ca / 64 * 64)) (((d.dchan ch).subs.getD (d.subOf (ca / 64 * 64)) SubCh.init).enter w
      (ca / 64 * 64 / 64) (d.bankOf (ca / 64 * 64)) (d.rowOf (ca / 64 * 64)) (d.nsAt ns)) }) := by
  rw [Dev.enqueue, burstLines_one]
  show d.updChan ch (fun c => { c with
    subs := c.subs.set (d.subOf (ca / 64 * 64)) ((c.subs.getD (d.subOf (ca / 64 * 64)) SubCh.init).enter w
      (ca / 64 * 64 / 64) (d.bankOf (ca / 64 * 64)) (d.rowOf (ca / 64 * 64)) (d.nsAt ns)), last := d.drip.now }) = _
  exact Dev.updChan_congr rfl

/-- What a request does to the queues of its subchannel. -/
theorem SubCh.enter_eq (q : SubCh) (w : Bool) (line bank row t : Nat) : q.enter w line bank row t =
    let r : DramReq := ⟨line, bank, row, q.stamp t, false⟩
    if w then if q.writes.any (fun x => x.line = line) then q else { q with writes := q.writes ++ [r] }
    else if q.writes.any (fun x => x.line = line) then
      if q.reads.any (fun x => x.line = line) then { q with reads := q.reads ++ [{ r with fwd := true }] } else q
    else { q with reads := q.reads ++ [r] } := by
  unfold SubCh.enter
  cases w
  · cases q.writes.any (fun x => x.line = line) <;> rfl
  · rfl

/-! ## Grants and queries (R416 to R419) -/

section
variable {s : State} {a r t m val : Nat}

/-- An arbiter after each pending requester is charged the clocks it waited. -/
def Arb.charged (v : Arb) (waits : List (Nat × Nat)) (l : List Nat) : Arb := l.foldl (fun v r => v.waited (spGet 0 waits r) r) v

/-- The window and quotas an arbiter grants by: those of its window, else the LIVE bank's. -/
def Dev.arbWindow (d : Dev) (a : Nat) (v : Arb) : Nat × List Nat := match v.cap with | some c => c | none => d.arbCap a

theorem exec_arbiterGrant {ns ca lines : Nat} {clocks pend : List Nat} {w : Bool} {v : Arb} (ha : a ≤ 32)
    (hs : s.dev.serving = true)
    (hroom : a ≤ 7 → s.dev.chanState a = 5 ∨
      (s.dev.chanState a = 2 ∨ s.dev.chanState a = 4) ∧ s.dev.chanRoom a w ca lines ns = true)
    (hv : (s.dev.arb a).charged (pend.zip clocks) (s.dev.arbAsks a (pend.zip clocks)) = v)
    (hc : v.choose (s.dev.arbWindow a v).2 (s.dev.arbAsks a (pend.zip clocks)) = some (r, t)) :
    exec (.arbiterGrant a clocks ns pend w ca lines) s =
      .next (s.withDev ((s.dev.setArb a (v.grant (s.dev.arbWindow a v) r t)).granted a r ns w ca lines)) := by
  have hopen : s.dev.arbOpen a ns w ca lines = true := by
    have hch : (decide (7 < a) || decide (s.dev.chanState a = 5) ||
        ((decide (s.dev.chanState a = 2) || decide (s.dev.chanState a = 4)) && s.dev.chanRoom a w ca lines ns)) = true := by
      by_cases h7 : a ≤ 7
      · simpa [Nat.not_lt.mpr h7] using hroom h7
      · simp [Nat.lt_of_not_le h7]
    rw [Dev.arbOpen, hch, hs, decide_eq_true ha]
    rfl
  subst hv
  refine exec_withDev_congr rfl ((if_neg (by simp [hopen])).trans ?_)
  exact (congrArg (fun x : Option (Nat × Nat) => match x with
    | none => s.dev
    | some (r, t) => (s.dev.setArb a (((s.dev.arb a).charged (pend.zip clocks) (s.dev.arbAsks a (pend.zip clocks))).grant
        (s.dev.arbWindow a ((s.dev.arb a).charged (pend.zip clocks) (s.dev.arbAsks a (pend.zip clocks)))) r t)).granted a r ns w ca
        lines) hc :)

/-- A sound query answers the counters, and clears them when it asks to. -/
theorem Dev.arbsQryWrite_answers (hv : val < 2 ^ 17) (hp : d.noPath m = false) (hs : d.serving = true)
    (h13 : bits val 15 13 = 0) (h6 : bits val 7 6 = 0) (hserves : arbServes (bits val 5 0) (bits val 12 8) = true) :
    d.arbsQryWrite m val =
      (let v := d.arb (bits val 5 0)
       let g := spGet 0 v.grants (bits val 12 8)
       let w := spGet 0 v.wait (bits val 12 8)
       let e := (d.setPerWords m R.arbsQryGrantLo
         [g % 2 ^ 32, g / 2 ^ 32, w % 2 ^ 32, w / 2 ^ 32, spGet 0 v.longest (bits val 12 8)]).setPer m R.arbsQryCode Code.ok
       if bitOf val 16 then e.setArb (bits val 5 0) { v with
         grants := spSet 0 v.grants (bits val 12 8) 0, wait := spSet 0 v.wait (bits val 12 8) 0, longest := spSet 0 v.longest (bits val 12 8) 0 } else e) := by
  have h17 : bits val 31 17 = 0 := by rw [bits, Nat.div_eq_of_lt hv, Nat.zero_mod]
  have hsound : ¬ (decide (bits val 31 17 ≠ 0) || decide (bits val 15 13 ≠ 0) || decide (bits val 7 6 ≠ 0)) = true := by
    simp [h17, h13, h6]
  rw [Dev.arbsQryWrite, Dev.doorbell_acts _ _ _ _ _ _ _ hp (Dev.blockOpen_of_serving _ hs _) (.inl rfl)
    (hv.trans (by decide)), Dev.arbsQuery]
  simp only [if_neg hsound, hserves, Bool.not_true, Bool.false_eq_true, if_false]

end

/-- Settles O49: the grant of an open arbiter, the tiers in their order, the queues of a line and the counters of a query. -/
theorem arbiters : Obligations.Arbiters := by
  unfold Obligations.Arbiters
  refine ⟨?grant, fun d a r waits _ => Dev.mem_arbAsks, fun d g pre post it j => Dev.sealGranted_admits,
    fun v q pend r t => Arb.choose_first, Arb.grant_counts, ?enqueue, ?query⟩
  case grant => exact fun s a ns clocks pend w ca lines r t ha hs hroom hc => exec_arbiterGrant ha hs hroom rfl hc
  case enqueue =>
    intro d ch ca ns w
    rw [Dev.enqueue_one, SubCh.enter_eq]
  case query =>
    intro s m val hv hp hs h13 h6 hserves
    have hans := Dev.arbsQryWrite_answers hv hp hs h13 h6 hserves
    intro a r v g w d
    refine ⟨fun hclear => ?_, fun hclear => ?_⟩
    · refine exec_withDev_congr rfl ?_
      rw [hclear] at hans
      exact (if_neg (by simp [hclear])).trans hans
    · refine exec_withDev_congr rfl ?_
      rw [hclear] at hans
      exact (if_pos hclear).trans hans

end Sys2Proof.Machine
end

section
/-! PROOF. Cold and Load mode, LOAD_CTL, rails and boundary scan (chapters 17 and 21, O50). -/

namespace Sys2Proof.Machine

variable {d : Dev}

/-! ## Leaving Cold mode and entering it (R434, R435) -/

/-- With reset released, no scan that holds the device and every rail within its window Load mode begins. -/
theorem Dev.leaveCold_starts (hm : d.mode = Mode.cold) (hreset : d.elec.resetLow = false) (hscan : d.elec.scanHold = false)
    (hrails : d.elec.railsOut = []) : d.leaveCold = d.setIoFld R.loadStat 2 0 Mode.load :=
  if_pos (by simp [hm, hreset, hscan, hrails])

theorem Dev.leaveCold_stays (h : d.elec.railsOut ≠ []) : d.leaveCold = d := if_neg (by simp [h])

theorem Dev.mode_startLoad : (d.setIoFld R.loadStat 2 0 Mode.load).mode = Mode.load :=
  Dev.ioFld_setIoFld_same _ _ _ _ _ (by decide) (by decide)

theorem Dev.mode_onElec (f : Elec → Elec) : (d.onElec f).mode = d.mode := (rfl)

/-! ## LOAD_CTL (R434) -/

section
variable {m k : Nat}

/-- A write of LOAD_CTL without the key. -/
theorem Dev.loadCtl_noKey {v : Nat} (hs : d.serving = true) (hp : d.noPath m = false) (hv : v < 2 ^ 18) (hk : v % 2 ^ 16 ≠ 0x4B58) :
    d.loadCtl m v = d.setPer m R.loadCtlStat Code.reserved := by
  have hlive : d.mode ≠ Mode.load := fun h => by simp [Dev.serving, h] at hs
  rw [Dev.loadCtl, if_neg hlive, Dev.doorbell_acts _ _ _ _ _ _ _ hp (Dev.blockOpen_of_serving _ hs _) (.inl rfl) hv]
  exact if_pos (by rw [decide_eq_true hk, Bool.true_or])

/-- With the key, in a mode in which drips run, it asks for Cold or for Limp. -/
theorem Dev.loadCtl_key (hs : d.serving = true) (hp : d.noPath m = false) :
    d.loadCtl m (0x4B58 + 2 ^ 17) = (d.setPer m R.loadCtlStat Code.ok).onLoad (fun l => { l with coldReq := true })
    ∧ d.loadCtl m (0x4B58 + 2 ^ 16) = (d.setPer m R.loadCtlStat Code.ok).onLoad (fun l => { l with limpReq := true }) := by
  have hlive : d.mode ≠ Mode.load := fun h => by simp [Dev.serving, h] at hs
  have hserve : (d.setPer m R.loadCtlStat Code.ok).serving = true := hs
  have hopen := Dev.blockOpen_of_serving _ hs R.loadCtl
  constructor <;> rw [Dev.loadCtl, if_neg hlive, Dev.doorbell_acts _ _ _ _ _ _ _ hp hopen (.inl rfl) (by decide)]
  · exact if_pos hserve
  · rfl

/-- Before any drip runs, the host's request for Cold acts at once. -/
theorem Dev.loadCtl_atOnce (hm : d.mode = Mode.load ∨ d.mode = Mode.survey) (hp : d.noPath 3 = false) :
    d.loadCtl 3 (0x4B58 + 2 ^ 17) = (d.setPer 3 R.loadCtlStat Code.ok).toCold := by
  have hidle : (d.setPer 3 R.loadCtlStat Code.ok).serving = false := by
    rcases hm with h | h <;> simp [Dev.serving, h]
  have hopen : d.blockOpen R.loadCtl = true := by simp [Dev.blockOpen, R.loadCtl]
  have hnamed : (if d.mode = Mode.load then [3] else []) = [] ∨ 3 ∈ (if d.mode = Mode.load then [3] else []) := by
    split
    · exact .inr (List.mem_singleton.mpr rfl)
    · exact .inl rfl
  rw [Dev.loadCtl, Dev.doorbell_acts _ _ _ _ _ _ _ hp hopen hnamed (by decide)]
  exact if_neg (Bool.eq_false_iff.mp hidle)

end

/-! ## Rails and boundary scan (R498, R501, R510) -/

section
variable {s : State}

/-- A scan instruction that holds the device sends it to Cold mode. -/
theorem Dev.scanCold_holds (code : Nat) (dr : Option Nat) : (d.scanCold code dr).mode = Mode.cold
    ∧ (d.scanCold code dr).elec.tap = code ∧ (d.scanCold code dr).elec.scanHold = true
    ∧ (d.scanCold code dr).strong = d.strong.island :=
  ⟨Dev.mode_toCold _, rfl, rfl, rfl⟩

theorem spErase_single (r : Nat) (v : Bool) : spErase [(r, v)] r = [] := by simp [spErase]

end

/-- Settles O50: what enters and what leaves Cold mode, clause by clause. -/
theorem modesAndPower : Obligations.ModesAndPower := by
  unfold Obligations.ModesAndPower
  refine ⟨fun s => ⟨?reset, ?release, ?held, ?ctl, ?early⟩, fun s => ⟨?rails, ?hold, ?scan, ?bypass, ?leave⟩⟩
  case reset => exact ⟨s.withDev (s.dev.onElec (fun e => { e with resetLow := true })).toCold, rfl, Dev.mode_toCold _, rfl, rfl, rfl⟩
  case release =>
    intro hm hscan hrails
    have hstart := Dev.leaveCold_starts (d := s.dev.onElec (fun e => { e with resetLow := false })) hm rfl hscan hrails
    exact ⟨s.withDev _, exec_withDev_congr rfl hstart, Dev.mode_startLoad, rfl, rfl⟩
  case held =>
    intro hm hrails
    exact ⟨s.withDev _, exec_withDev_congr rfl (Dev.leaveCold_stays hrails), hm⟩
  case ctl =>
    intro m hs hp
    obtain ⟨hcold, hlimp⟩ := Dev.loadCtl_key (m := m) hs hp
    refine ⟨exec_withDev_congr rfl hcold, exec_withDev_congr rfl hlimp, fun k hk hne => ⟨?_, ?_⟩⟩
    · exact exec_withDev_congr rfl (Dev.loadCtl_noKey hs hp (by omega) (by omega))
    · exact exec_withDev_congr rfl (Dev.loadCtl_noKey hs hp (by omega) (by omega))
  case early =>
    intro hm hp
    exact ⟨s.withDev _, exec_withDev_congr rfl (Dev.loadCtl_atOnce hm hp), Dev.mode_toCold _, rfl⟩
  case rails =>
    intro r hr
    refine ⟨⟨s.withDev (s.dev.onElec (fun e => { e with railsOut := spPut e.railsOut r true })), ?_, rfl, spFind_spPut_same ..⟩,
      ⟨s.withDev (s.dev.onElec (fun e => { e with railsOut := spPut e.railsOut r true })).toCold,
        exec_withDev_congr rfl (if_pos hr), Dev.mode_toCold _, spFind_spPut_same ..⟩, fun hm hout hreset hscan => ?_⟩
    · exact exec_withDev_congr rfl (if_neg (Nat.not_le.mpr hr))
    · have hin : spErase s.dev.elec.railsOut r = [] := by rw [hout, spErase_single]
      have hstart := Dev.leaveCold_starts (d := s.dev.onElec (fun e => { e with railsOut := spErase e.railsOut r })) hm hreset hscan hin
      exact ⟨s.withDev _, exec_withDev_congr rfl ((if_neg (Nat.not_le.mpr hr)).trans hstart), Dev.mode_startLoad, hin⟩
  case hold =>
    simp only [List.forall_mem_cons, List.not_mem_nil, false_imp_iff, implies_true, and_true]
    exact ⟨⟨_, rfl, Dev.scanCold_holds ..⟩, ⟨_, rfl, Dev.scanCold_holds ..⟩, ⟨_, rfl, Dev.scanCold_holds ..⟩,
      ⟨_, rfl, Dev.scanCold_holds ..⟩, ⟨_, rfl, Dev.scanCold_holds ..⟩⟩
  case scan =>
    simp only [List.forall_mem_cons, List.not_mem_nil, false_imp_iff, implies_true, and_true]
    exact ⟨rfl, rfl⟩
  case bypass => exact fun c h7 h16 => exec_withDev_congr rfl (if_pos (by simp [h7, h16]))
  case leave =>
    intro hm hreset hrails
    have hstart := Dev.leaveCold_starts
      (d := (s.dev.scan 2 (some idcode)).onElec (fun e => { e with scanHold := false })) hm hreset rfl hrails
    exact ⟨s.withDev _, exec_withDev_congr rfl hstart, Dev.mode_startLoad, rfl, rfl⟩

end Sys2Proof.Machine
end

section
/-! PROOF. Readings that stand apart from the parts a unit works on. -/

namespace Sys2Proof.Machine

variable {d : Dev} {α : Type} {read : Dev → α}

/-! ## Readings that a unit's work leaves

A reading stands apart from a part of the device when no change of that part changes it; what a function changes is then known
from the parts it works on. -/

/-- A reading apart from the registers, the memories, the host's port and what leaves the device. -/
structure Apart (read : Dev → α) : Prop where
  csr : ∀ (d : Dev) f, read (d.onCsr f) = read d
  cores : ∀ (d : Dev) f, read (d.onCores f) = read d
  dmem : ∀ (d : Dev) f, read (d.onDmem f) = read d
  host : ∀ (d : Dev) f, read (d.onHost f) = read d
  out : ∀ (d : Dev) f, read (d.onOut f) = read d
  free : ∀ (d : Dev), read d.freeStep = read d
  pool : ∀ (d : Dev) f, read (d.onPool f) = read d

theorem apart_load : Apart Dev.load := ⟨fun _ _ => rfl, fun _ _ => rfl, fun _ _ => rfl, fun _ _ => rfl, fun _ _ => rfl, fun _ => rfl, fun _ _ => rfl⟩

theorem apart_drip : Apart Dev.drip := ⟨fun _ _ => rfl, fun _ _ => rfl, fun _ _ => rfl, fun _ _ => rfl, fun _ _ => rfl, fun _ => rfl, fun _ _ => rfl⟩

theorem apart_book : Apart Dev.book := ⟨fun _ _ => rfl, fun _ _ => rfl, fun _ _ => rfl, fun _ _ => rfl, fun _ _ => rfl, fun _ => rfl, fun _ _ => rfl⟩

/-- A signal to the host changes nothing but the host's port and what leaves the device. -/
theorem Dev.msix_leaves (hh : ∀ (d : Dev) f, read (d.onHost f) = read d) (ho : ∀ (d : Dev) f, read (d.onOut f) = read d)
    (fn vec : Nat) : read (d.msix fn vec) = read d := by
  unfold Dev.msix
  split
  · rfl
  · split
    · exact hh ..
    · exact ho ..

theorem Dev.signal_leaves (hh : ∀ (d : Dev) f, read (d.onHost f) = read d) (ho : ∀ (d : Dev) f, read (d.onOut f) = read d)
    (v : Nat) : read (d.signal v) = read d := by
  unfold Dev.signal Dev.sendVec
  split
  · split
    · rfl
    · exact (Dev.msix_leaves hh ho ..).trans (hh ..)
  · split
    · rfl
    · exact hh ..

namespace Apart

variable (h : Apart read)
include h

theorem setIo (o v : Nat) : read (d.setIo o v) = read d := h.csr ..

theorem setIoFld (o hi lo v : Nat) : read (d.setIoFld o hi lo v) = read d := h.setIo ..

theorem setBankWord (b : Bool) (k v : Nat) : read (d.setBankWord b k v) = read d := h.csr ..

theorem setGroup (g : Nat) (v : Group) : read (d.setGroup g v) = read d := h.csr ..

theorem incident (block code actor x y : Nat) : read (d.incident block code actor x y) = read d := h.host ..

theorem writeMem (dram : Bool) (a : Nat) (bs : Bytes) : read (d.writeMem dram a bs) = read d :=
  Dev.writeMem_leaves read h.dmem h.cores dram a bs

theorem setMemByte (dram : Bool) (a : Nat) (b : Byte) : read (d.setMemByte dram a b) = read d := by
  unfold Dev.setMemByte
  split
  · split
    · rfl
    · exact h.dmem ..
  · exact h.cores ..

theorem clearPoison (dram : Bool) (a n : Nat) : read (d.clearPoison dram a n) = read d := by
  refine foldl_part read _ (fun e l => ?_) _ _
  split
  · split
    · exact h.dmem ..
    · exact h.cores ..
  · rfl

theorem setLocalByte (id : Tid) (a : Nat) (b : Byte) : read (d.setLocalByte id a b) = read d := by
  unfold Dev.setLocalByte Dev.updThr Dev.setThr
  split <;> exact h.cores ..

theorem setLocalBytes (id : Tid) (bs : Bytes) : ∀ (d : Dev) (a : Nat), read (d.setLocalBytes id a bs) = read d := by
  induction bs with
  | nil => exact fun _ _ => rfl
  | cons b bs ih => exact fun d a => (ih ..).trans (h.setLocalByte ..)

theorem msix (fn vec : Nat) : read (d.msix fn vec) = read d := Dev.msix_leaves h.host h.out ..

theorem signal (v : Nat) : read (d.signal v) = read d := Dev.signal_leaves h.host h.out ..

theorem setMode (m : Nat) : read (d.setMode m) = read d := by
  unfold Dev.setMode
  split
  · rfl
  · exact (h.signal ..).trans (h.setIoFld ..)

/-! ### Records of an image -/

theorem loadWord (both : Bool) (o v : Nat) : read (d.loadWord both o v) = read d := by
  unfold Dev.loadWord
  cases regAt o with
  | none => rfl
  | some r =>
    have hbanks : ∀ st : Nat, read (if st = 0 then d
        else (d.loadBanks both (groupOfKey o)).foldl (fun d b => d.setBankWord b o (v &&& st)) d) = read d := by
      intro st
      split
      · rfl
      · exact foldl_part read _ (fun _ _ => h.setBankWord ..) _ _
    dsimp only
    split
    · exact (h.setIo ..).trans (hbanks _)
    · exact hbanks _

theorem loadTabs (both : Bool) (l : List (Nat × Byte)) : read (d.loadTabs both l) = read d :=
  foldl_part read _ (fun _ _ => h.cores ..) _ _

theorem loadBytes (b : Bytes) (tabs : Map TabEnt) (both data dram : Bool) (a : Nat) (bs : Bytes) :
    read (d.loadBytes b tabs both data dram a bs) = read d := by
  unfold Dev.loadBytes
  dsimp only
  split
  · exact h.loadTabs ..
  · refine (h.clearPoison ..).trans ((foldl_part read _ (fun e x => ?_) _ _).trans (h.loadTabs ..))
    split
    · rfl
    · exact h.setMemByte ..

theorem loadLocal (both : Bool) (g l a : Nat) (v : Byte) : read (d.loadLocal both g l a v) = read d := by
  unfold Dev.loadLocal
  dsimp only
  generalize hcopy : (if 0x10000 ≤ a then d.onCores _ else d) = e
  have he : read e = read d := by
    subst hcopy
    split
    · exact h.cores ..
    · rfl
  split
  · exact he
  · cases e.physOf g l with
    | none => exact he
    | some p =>
      dsimp only
      split
      · exact (h.setLocalByte ..).trans he
      · exact (foldl_part read _ (fun _ _ => h.setLocalByte ..) _ _).trans he

theorem loadRec (hlode : ∀ (d : Dev) f, read (d.onLode f) = read d) (hfwd : ∀ (d : Dev) f, read (d.onFwd f) = read d)
    (b : Bytes) (tabs : Map TabEnt) (both : Bool) (r : Rec) : read (d.loadRec b tabs both r) = read d := by
  unfold Dev.loadRec
  split
  · exact foldl_part read _ (fun _ _ => h.loadWord ..) _ _
  · exact foldl_part read _ (fun _ _ => foldl_part read _ (fun _ _ => h.setBankWord ..) _ _) _ _
  · exact h.loadBytes ..
  · exact h.loadBytes ..
  · exact foldl_part read _ (fun _ _ => h.loadLocal ..) _ _
  · split
    · exact foldl_part read _ (fun _ _ => hlode ..) _ _
    · rfl
  · split
    · exact foldl_part read _ (fun _ _ => foldl_part read _ (fun _ _ => hfwd ..) _ _) _ _
    · rfl
  · rfl

theorem loadKeyRec (r : Rec) : read (d.loadKeyRec r) = read d := by
  unfold Dev.loadKeyRec Dev.installKey Dev.setKeySlot
  dsimp only
  split
  · exact (h.pool ..).trans (h.writeMem ..)
  · exact (h.incident ..).trans (h.setIoFld ..)

theorem fellBackRecord : read d.fellBackRecord = read d := by
  unfold Dev.fellBackRecord
  split
  · exact h.incident ..
  · rfl

theorem spareChans : read d.spareChans = read d := by
  refine foldl_part read _ (fun e c => ?_) _ _
  split
  · exact h.setIoFld ..
  · rfl

/-! ### Records of the Cellarbook -/

section
variable (hb : ∀ (d : Dev) f, read (d.onBook f) = read d)
include hb

theorem bookVisible : read d.bookVisible = read d := by
  unfold Dev.bookVisible
  exact (hb ..).trans (foldl_part read _ (fun _ _ => h.writeMem ..) _ _)

omit h in
theorem chainRecAt (r : RecBody) (drip : Nat) (src : Option Nat) : read (d.chainRecAt r drip src) = read d := by
  unfold Dev.chainRecAt
  exact hb ..

end

variable (hs : ∀ (d : Dev) f, read (d.onStrong f) = read d)
include hs

theorem strongPass : read d.strongPass = read d := by
  unfold Dev.strongPass
  split
  · exact (hs ..).trans (h.free ..)
  · rfl

theorem pageClose (p first count : Nat) (root prev : Bytes) : read (d.pageClose p first count root prev).2 = read d := by
  unfold Dev.pageClose
  split
  · rfl
  · dsimp only
    refine (hs ..).trans ?_
    split
    · exact h.setIo ..
    · rfl

variable (hb : ∀ (d : Dev) f, read (d.onBook f) = read d)
include hb

theorem settlePage : read d.settlePage = read d := by
  unfold Dev.settlePage Dev.pageEnd
  split
  · exact (hb ..).trans ((h.pageClose hs ..).trans ((h.bookVisible hb).trans (chainRecAt hb ..)))
  · rfl

theorem chainRec (r : RecBody) (src : Option Nat) : read (d.chainRec r src) = read d := by
  unfold Dev.chainRec
  exact (chainRecAt hb ..).trans ((h.strongPass hs).trans (h.settlePage hs hb))

theorem hwRec (kind : Nat) (digest data : Bytes) : read (d.hwRec kind digest data) = read d := by
  unfold Dev.hwRec
  dsimp only
  split
  · exact h.chainRec hs hb ..
  · exact hs ..

theorem genesis : read d.genesis = read d := by
  unfold Dev.genesis
  dsimp only
  refine (foldl_part read _ (fun _ _ => h.chainRec hs hb ..) _ _).trans ((hs ..).trans ((h.hwRec hs hb ..).trans ((hb ..).trans ?_)))
  split
  · exact hs ..
  · rfl

end Apart

end Sys2Proof.Machine
end

section
/-! PROOF. Load and Survey mode (chapter 17): attempts, the host's image, DRAM_DATA and KEYS, the end of Survey mode (O51). -/

namespace Sys2Proof.Machine

variable {d : Dev}

/-! ## An attempt to load an image (R425 to R427) -/

/-- A change of mode is what the registers say. -/
theorem Dev.mode_signal (v : Nat) : (d.signal v).mode = d.mode := Dev.signal_leaves (fun _ _ => rfl) (fun _ _ => rfl) v

theorem Dev.mode_setMode {m : Nat} (hm : m < 8) : (d.setMode m).mode = m := by
  unfold Dev.setMode
  split
  case isTrue h => exact h
  case isFalse =>
    rw [Dev.mode_signal]
    exact (Dev.ioFld_setIoFld_same _ _ _ _ _ (by decide) (by decide)).trans (Nat.mod_eq_of_lt hm)

/-- Training a lane or a channel leaves the registers of the blocks before the lanes. -/
theorem Dev.ioFld_laneRestart {p : Nat} (hp : p < 0x800000) (st l hi lo : Nat) :
    (d.laneRestart st l).ioFld p hi lo = d.ioFld p hi lo := by
  have hne : p ≠ R.laneStat + 4 * l := fun h => by simp only [h, R.laneStat] at hp; omega
  unfold Dev.laneRestart
  split
  · rfl
  · exact (Dev.ioFld_setIoFld_ne _ _ _ _ _ _ _ _ hne).trans
      ((Dev.ioFld_setIoFld_ne _ _ _ _ _ _ _ _ hne).trans (Dev.ioFld_setIoFld_ne _ _ _ _ _ _ _ _ hne))

theorem Dev.ioFld_chansTrain {p : Nat} (hp : p < 0x800000) (hi lo : Nat) : d.chansTrain.ioFld p hi lo = d.ioFld p hi lo := by
  have hne (c : Nat) : p ≠ chanOff c R.dramChStat := fun h => by simp only [h, chanOff, R.dramChStat] at hp; omega
  unfold Dev.chansTrain
  exact foldl_part (Dev.ioFld · p hi lo) _ (fun _ c => Dev.ioFld_setIoFld_ne _ _ _ _ _ _ _ _ (hne c)) _ _

theorem Dev.ioFld_lanesTrain {p : Nat} (hp : p < 0x800000) (hi lo : Nat) : d.lanesTrain.ioFld p hi lo = d.ioFld p hi lo := by
  have hmac (e : Dev) (m : Nat) : ((e.macLanes m).foldl (fun d l => d.laneRestart 1 l) e).ioFld p hi lo = e.ioFld p hi lo :=
    foldl_part (Dev.ioFld · p hi lo) _ (fun _ _ => Dev.ioFld_laneRestart hp ..) _ _
  exact foldl_part (Dev.ioFld · p hi lo) _ hmac (List.range 65) d

theorem Dev.load_setLane (l hi lo v : Nat) : (d.setLane l hi lo v).load = d.load := by
  unfold Dev.setLane
  exact apart_load.setIoFld ..

theorem Dev.load_onHlth (f : Hlth → Hlth) : (d.onHlth f).load = d.load := (rfl)

theorem Dev.load_laneRestart (st l : Nat) : (d.laneRestart st l).load = d.load := by
  unfold Dev.laneRestart
  split
  · rfl
  · simp only [Dev.load_onHlth, Dev.load_setLane]

theorem Dev.load_train : d.lanesTrain.chansTrain.load = d.load := by
  unfold Dev.chansTrain Dev.lanesTrain
  refine (foldl_part Dev.load _ (fun _ _ => apart_load.setIoFld ..) _ _).trans ?_
  exact foldl_part Dev.load _ (fun _ _ => foldl_part Dev.load _ (fun _ _ => Dev.load_laneRestart ..) _ _) _ _

/-- The registers of an image in force name its source. -/
theorem Dev.source_imageRegs (b : Bytes) {src : Nat} (hsrc : src < 4) : (d.imageRegs b src).ioFld R.loadStat 4 3 = src := by
  refine (foldl_part (Dev.ioFld · R.loadStat 4 3) _ (fun e w => Dev.ioFld_setIo_ne _ _ _ _ _ _ ?_) _ _).trans ?_
  · simp only [R.loadStat, R.loadDigest]
    omega
  · rw [Dev.setIo64, Dev.ioFld_setIo_ne _ _ _ _ _ _ (by decide), Dev.ioFld_setIo_ne _ _ _ _ _ _ (by decide),
      Dev.ioFld_setIoFld_disj _ _ _ _ _ _ _ (by decide) (by decide) (by decide),
      Dev.ioFld_setIoFld_disj _ _ _ _ _ _ _ (by decide) (by decide) (by decide),
      Dev.ioFld_setIoFld_same _ _ _ _ _ (by decide) (by decide)]
    exact Nat.mod_eq_of_lt hsrc

/-- Showing the owner leaves the registers before it. -/
theorem Dev.ioFld_setOwner {p : Nat} (hp : p < R.loadOwner) (hi lo : Nat) : d.setOwner.ioFld p hi lo = d.ioFld p hi lo :=
  foldl_part (Dev.ioFld · p hi lo) _ (fun _ w => Dev.ioFld_setIo_ne _ _ _ _ _ _ (by omega)) _ _

theorem Dev.load_setOwner : d.setOwner.load = d.load := by
  unfold Dev.setOwner
  exact foldl_part Dev.load _ (fun _ _ => apart_load.setIo ..) _ _

theorem Dev.load_setAtt (n : Nat) (f : ImgFail) : (d.setAtt n f).load = d.load := by
  unfold Dev.setAtt
  exact (apart_load.setIo ..).trans (apart_load.setIo ..)

theorem Dev.ioFld_onLoad (f : Load → Load) (p hi lo : Nat) : (d.onLoad f).ioFld p hi lo = d.ioFld p hi lo := (rfl)

theorem Dev.ioFld_setAtt {p n : Nat} (hp : p < R.loadAtt) (f : ImgFail) (hi lo : Nat) : (d.setAtt n f).ioFld p hi lo = d.ioFld p hi lo := by
  simp only [R.loadAtt] at hp
  exact (Dev.ioFld_setIo_ne _ _ _ _ _ _ (by simp only [R.loadAttWhere]; omega)).trans
    (Dev.ioFld_setIo_ne _ _ _ _ _ _ (by simp only [R.loadAtt]; omega))

theorem Dev.attCode_setAtt {n : Nat} {f : ImgFail} (hc : f.code < 2 ^ 8) : (d.setAtt n f).attCode n = f.code := by
  unfold Dev.attCode
  rw [Dev.setAtt, Dev.ioFld_setIo_ne _ _ _ _ _ _ (by simp only [R.loadAtt, R.loadAttWhere]; omega), Dev.ioFld, Dev.io_setIo_same]
  simp only [bits]
  omega

/-- An image that passes every stage, in force: Survey mode. -/
def Dev.imageStarts (e : Dev) (s : Nat) (b : Bytes) (enrol : Bool) : Dev :=
  let e := (e.imageRegs b (s + 1)).setIoFld R.loadStat 5 5 (if s = 1 then 1 else 0)
  let e := e.onLoad (fun l => { l with image := b, enrol := false, fuse := if enrol then some (imgOwner b) else l.fuse })
  (((e.setOwner.setAtt s ⟨0, Code.ok, 0, 0⟩).setIoFld R.loadStat 2 0 Mode.survey).lanesTrain.chansTrain).msix 0 5

theorem Dev.attempt_eq (s : Nat) (b : Bytes) : d.attempt s b false =
    match imageCheck b (some d.load.fuse) d.blank.board with
    | .error f => d.blank.setAtt s f
    | .ok recs => match d.blank.loadImage b recs with
      | .error f => d.blank.freeStep.setAtt s f
      | .ok e => e.imageStarts s b false := rfl

theorem Dev.imageStarts_survey {e : Dev} {s : Nat} (b : Bytes) (enrol : Bool) (hs : s < 2) : (e.imageStarts s b enrol).mode = Mode.survey
    ∧ (e.imageStarts s b enrol).load.image = b ∧ (e.imageStarts s b enrol).attCode s = Code.ok
    ∧ (e.imageStarts s b enrol).ioFld R.loadStat 4 3 = s + 1 := by
  have hfld (x : Dev) {p hi lo : Nat} (hp : p < 0x800000) : (x.lanesTrain.chansTrain.msix 0 5).ioFld p hi lo = x.ioFld p hi lo :=
    (Dev.msix_leaves (read := (Dev.ioFld · p hi lo)) (fun _ _ => rfl) (fun _ _ => rfl) ..).trans ((Dev.ioFld_chansTrain hp hi lo).trans (Dev.ioFld_lanesTrain hp hi lo))
  refine ⟨?_, ?_, ?_, ?_⟩
  · exact (hfld _ (by decide)).trans (Dev.ioFld_setIoFld_same _ _ _ _ _ (by decide) (by decide))
  · have hload : (e.imageStarts s b enrol).load = _ := (apart_load.msix ..).trans (Dev.load_train.trans
      ((apart_load.setIoFld ..).trans ((Dev.load_setAtt ..).trans Dev.load_setOwner)))
    exact congrArg Load.image hload
  · refine (hfld _ (by simp only [R.loadAtt]; omega)).trans ((Dev.ioFld_setIoFld_ne _ _ _ _ _ _ _ _ ?_).trans ?_)
    · simp only [R.loadAtt, R.loadStat]
      omega
    · exact Dev.attCode_setAtt (by decide)
  · refine (hfld _ (by decide)).trans ((Dev.ioFld_setIoFld_disj _ _ _ _ _ _ _ (by decide) (by decide) (by decide)).trans ?_)
    refine (Dev.ioFld_setAtt (by decide) ..).trans ((Dev.ioFld_setOwner (by decide) ..).trans ?_)
    rw [Dev.ioFld_onLoad]
    exact (Dev.ioFld_setIoFld_disj _ _ _ _ _ _ _ (by decide) (by decide) (by decide)).trans (Dev.source_imageRegs b (by omega))

/-! ## The host's image (R430) -/

section
variable {m : Nat} {enrol : Bool}

/-- A go of the host acts in Load mode; of another master it is refused. -/
theorem Dev.loadGo_acts (hm : d.mode = Mode.load) (hp : d.noPath 3 = false) :
    d.loadGo 3 1 = d.hostImage 3 false ∧ d.loadGo 3 5 = d.hostImage 3 true
    ∧ ∀ m, m ≠ 3 → d.loadGo m 1 = d.refuse m R.loadHoGo Code.notOwner := by
  have hopen : d.blockOpen R.loadHoGo = true := by simp [Dev.blockOpen, R.loadHoGo]
  refine ⟨?_, ?_, fun m hne => ?_⟩
  · exact Dev.doorbell_acts _ _ _ _ _ _ _ hp hopen (.inr (by decide)) (by decide)
  · exact Dev.doorbell_acts _ _ _ _ _ _ _ hp hopen (.inr (by decide)) (by decide)
  · have hpath : d.noPath m = false := by simp [Dev.noPath, hm, hne]
    have hlast : lastCode R.loadHoGo = none := by decide
    rw [Dev.loadGo, Dev.doorbell_refuses _ _ _ _ _ _ _ hpath (by decide) (by simpa using hne), Dev.lastWrite, hlast]

/-- The host's image is read after both attempts have failed; enrol needs a blank fuse. -/
theorem Dev.hostImage_reads (ha : d.attCode 0 ≠ 0) (hb : d.attCode 1 ≠ 0) (hr : ∀ e ∈ d.host.reads, e.2.use ≠ .image)
    (hsrc : d.io R.loadHoSrc = 2) (hlen : 0 < d.io R.loadHoLen) (hmax : d.io R.loadHoLen ≤ 2 ^ 28) (hbus : d.busMaster 0 = true)
    (hfuse : enrol = true → d.load.fuse = none) : d.hostImage m enrol =
      (d.onLoad (fun l => { l with enrol := enrol })).dmaRead m (d.io64 R.loadHoAddrLo) (d.io R.loadHoLen) .image := by
  have hblank : (enrol && d.load.fuse.isSome) = false := by
    cases enrol
    · rfl
    · rw [hfuse rfl]
      rfl
  have hidle : d.host.reads.any (fun e => e.2.use == .image) = false := by simpa using hr
  have hone : ¬ (decide (d.io R.loadHoSrc = 2) && decide (d.io R.loadHoLen ≠ 0) && !d.busMaster 0) = true := by simp [hbus]
  have htwo : ¬ (decide (d.io R.loadHoSrc ≠ 2) || decide (2 ^ 28 < d.io R.loadHoLen) || (enrol && d.load.fuse.isSome)) = true := by
    rw [hblank, hsrc, decide_eq_false (Nat.not_lt.mpr hmax)]
    decide
  have hthree : ¬ (decide (d.attCode 0 = 0) || decide (d.attCode 1 = 0) || d.host.reads.any (fun e => e.2.use == .image)) = true := by
    rw [hidle, decide_eq_false ha, decide_eq_false hb]
    decide
  unfold Dev.hostImage
  dsimp only
  rw [if_neg hone, if_neg htwo, if_neg hthree, if_neg (Nat.ne_of_gt hlen)]

/-- With a fuse blown enrol is refused. -/
theorem Dev.hostImage_enrolled (hbus : d.busMaster 0 = true) (hfuse : d.load.fuse ≠ none) :
    d.hostImage m true = d.refuse m R.loadHoGo Code.reserved := by
  have hone : ¬ (decide (d.io R.loadHoSrc = 2) && decide (d.io R.loadHoLen ≠ 0) && !d.busMaster 0) = true := by simp [hbus]
  have htwo : (decide (d.io R.loadHoSrc ≠ 2) || decide (2 ^ 28 < d.io R.loadHoLen) || (true && d.load.fuse.isSome)) = true := by
    rw [Option.isSome_iff_ne_none.mpr hfuse]
    exact Bool.or_true _
  unfold Dev.hostImage
  dsimp only
  rw [if_neg hone, if_pos htwo]

/-- A length of 0 reads nothing: it waits for the attempts as a reading does, and is OK. -/
theorem Dev.hostImage_empty (hsrc : d.io R.loadHoSrc = 2) (hlen : d.io R.loadHoLen = 0) :
    (d.attCode 0 ≠ 0 → d.attCode 1 ≠ 0 → (∀ e ∈ d.host.reads, e.2.use ≠ .image) → d.hostImage m false = d.setAtt 2 ⟨0, Code.ok, 0, 0⟩)
    ∧ (d.attCode 0 = 0 ∨ d.attCode 1 = 0 → d.hostImage m false = d.refuse m R.loadHoGo Code.busyRetry) := by
  have hone : ¬ (decide (d.io R.loadHoSrc = 2) && decide (d.io R.loadHoLen ≠ 0) && !d.busMaster 0) = true := by simp [hlen]
  have htwo : ¬ (decide (d.io R.loadHoSrc ≠ 2) || decide (2 ^ 28 < d.io R.loadHoLen) || (false && d.load.fuse.isSome)) = true := by
    simp [hsrc, hlen]
  unfold Dev.hostImage
  dsimp only
  rw [if_neg hone, if_neg htwo]
  refine ⟨fun ha hb hr => ?_, fun hfirst => ?_⟩
  · have hidle : d.host.reads.any (fun e => e.2.use == .image) = false := by simpa using hr
    rw [if_neg (by rw [hidle, decide_eq_false ha, decide_eq_false hb]; decide), if_pos hlen]
  · have hbusy : (decide (d.attCode 0 = 0) || decide (d.attCode 1 = 0)) = true := by simpa using hfirst
    rw [if_pos (by rw [hbusy]; exact Bool.true_or _)]

end

/-! ## DRAM_DATA and KEYS (R432) -/

/-- The bytes that a record names, where each goes. -/
def placed (a : Nat) (bs : Bytes) : List (Nat × Byte) := bs.zipIdx.map (fun x => (a + x.2, x.1))

theorem mem_placed {a : Nat} {bs : Bytes} {x : Nat × Byte} : x ∈ placed a bs ↔ ∃ i < bs.length, x = (a + i, bs.getD i 0) := by
  simp only [placed, List.mem_map, Prod.exists, List.mem_zipIdx_iff_getElem?]
  constructor
  · rintro ⟨v, i, hget, rfl⟩
    obtain ⟨hlt, rfl⟩ := List.getElem?_eq_some_iff.mp hget
    exact ⟨i, hlt, by simp [hlt]⟩
  · rintro ⟨i, hlt, rfl⟩
    exact ⟨bs[i], i, List.getElem?_eq_getElem hlt, by simp [hlt]⟩

theorem Dev.io_onCores (f : Cores → Cores) : (d.onCores f).io = d.io := (rfl)

theorem Dev.io_onDmem (f : DramMem → DramMem) : (d.onDmem f).io = d.io := (rfl)

theorem Dev.dmem_onCores (f : Cores → Cores) : (d.onCores f).dmem = d.dmem := (rfl)

theorem Dev.dmem_loadTabs (both : Bool) (l : List (Nat × Byte)) : (d.loadTabs both l).dmem = d.dmem := by
  unfold Dev.loadTabs
  exact foldl_part Dev.dmem _ (fun e b => Dev.dmem_onCores ..) _ _

/-- The channel and its address of an address of DRAM, by the regions and their shares. -/
def chanAddr (region : Nat → Region) (share : Nat → Nat → Nat) (a r : Nat) : Option (Nat × Nat) :=
  if (region r).chans.length = 0 then none
  else some ((region r).chans.getD ((a - (region r).start) / 256 % (region r).chans.length) 0,
    share r ((region r).chans.getD ((a - (region r).start) / 256 % (region r).chans.length) 0)
      + (a - (region r).start) / 256 / (region r).chans.length * 256 + (a - (region r).start) % 256)

/-- The definition as a function of its parts: the kernel then compares the parts by name. -/
theorem Dev.dramMap_form (a : Nat) : ∃ f, Dev.dramMap = f ∧ f d a = (d.regionOf a).bind (chanAddr d.region d.shareBase a) := by
  refine ⟨_, by delta Dev.dramMap; rfl, ?_⟩
  generalize Dev.region = region
  generalize Dev.shareBase = share
  generalize Dev.regionOf d a = r
  cases r <;> rfl

theorem Dev.dramMap_eq (a : Nat) : d.dramMap a = (d.regionOf a).bind (chanAddr d.region d.shareBase a) := by
  obtain ⟨f, hf, h⟩ := Dev.dramMap_form (d := d) a
  rw [hf]
  exact h

theorem Dev.dramFailed_form (a : Nat) :
    ∃ f, Dev.dramFailed = f ∧ f d a = (d.dramMap a).elim false (fun x => decide (d.chanState x.1 = 5)) := by
  refine ⟨_, by delta Dev.dramFailed; rfl, ?_⟩
  generalize Dev.chanState = state
  generalize Dev.dramMap d a = m
  cases m <;> rfl

theorem Dev.dramFailed_eq (a : Nat) : d.dramFailed a = (d.dramMap a).elim false (fun x => decide (d.chanState x.1 = 5)) := by
  obtain ⟨f, hf, h⟩ := Dev.dramFailed_form (d := d) a
  rw [hf]
  exact h

section
variable {e : Dev} (h : e.io = d.io)
include h

theorem Dev.region_congr (r : Nat) : e.region r = d.region r := by
  unfold Dev.region Dev.ioFld
  rw [h]

theorem Dev.regionOf_congr (a : Nat) : e.regionOf a = d.regionOf a := by
  unfold Dev.regionOf
  simp only [Dev.region_congr h]

theorem Dev.shareBase_congr (r ch : Nat) : e.shareBase r ch = d.shareBase r ch := by
  unfold Dev.shareBase
  simp only [Dev.region_congr h]

theorem Dev.chanState_congr (ch : Nat) : e.chanState ch = d.chanState ch := by
  unfold Dev.chanState Dev.ioFld
  rw [h]

theorem Dev.dramMap_congr (a : Nat) : e.dramMap a = d.dramMap a := by
  rw [Dev.dramMap_eq, Dev.dramMap_eq, Dev.regionOf_congr h, funext (Dev.region_congr h),
    funext₂ (Dev.shareBase_congr h)]

/-- Which addresses lie on a failed channel the registers say. -/
theorem Dev.dramFailed_congr (a : Nat) : e.dramFailed a = d.dramFailed a := by
  rw [Dev.dramFailed_eq, Dev.dramFailed_eq, Dev.dramMap_congr h, funext (Dev.chanState_congr h)]

end

theorem Dev.io_loadTabs (both : Bool) (l : List (Nat × Byte)) : (d.loadTabs both l).io = d.io := by
  unfold Dev.loadTabs
  exact foldl_part Dev.io _ (fun e b => Dev.io_onCores ..) _ _

/-- Bytes written to DRAM that no table holds and no failed channel keeps. -/
theorem Dev.fold_setMemByte {b : Bytes} {tabs : Map TabEnt} (l : List (Nat × Byte)) (d : Dev)
    (h : ∀ x ∈ l, bankKey b tabs true x.1 = none ∧ d.dramFailed x.1 = false) :
    l.foldl (fun d x => if (bankKey b tabs true x.1).isSome then d else d.setMemByte true x.1 x.2) d =
      d.onDmem (fun m => { m with bytes := l.foldl (fun m x => spSet 0 m x.1 x.2) m.bytes }) := by
  induction l generalizing d with
  | nil => rfl
  | cons x l ih =>
    obtain ⟨⟨hbank, hlive⟩, hrest⟩ := List.forall_mem_cons.mp h
    have hone : (if (bankKey b tabs true x.1).isSome then d else d.setMemByte true x.1 x.2) =
        d.onDmem (fun m => { m with bytes := spSet 0 m.bytes x.1 x.2 }) := by simp [hbank, Dev.setMemByte, hlive]
    rw [List.foldl_cons, hone, ih _ fun y hy => ⟨(hrest y hy).1, (Dev.dramFailed_congr (Dev.io_onDmem _) _).trans (hrest y hy).2⟩]
    rfl

theorem Dev.memByte_onCores (f : Cores → Cores) (a : Nat) : (d.onCores f).memByte true a = d.memByte true a := (rfl)

theorem Dev.memByte_loadTabs (both : Bool) (l : List (Nat × Byte)) (a : Nat) :
    (d.loadTabs both l).memByte true a = d.memByte true a := by
  unfold Dev.loadTabs
  exact foldl_part (Dev.memByte · true a) _ (fun _ _ => Dev.memByte_onCores ..) _ _

/-- A DRAM_DATA record fills the bytes it names, and no others. -/
theorem Dev.loadRec_dram {b : Bytes} {tabs : Map TabEnt} {r : Rec} (h3 : r.space = 3)
    (h : ∀ i < r.data.length, bankKey b tabs true (r.addr + i) = none ∧ d.dramFailed (r.addr + i) = false) (a : Nat) :
    (d.loadRec b tabs true r).memByte true a =
      spGet 0 ((placed r.addr r.data).foldl (fun m x => spSet 0 m x.1 x.2) d.dmem.bytes) a := by
  have hrec : d.loadRec b tabs true r = d.loadBytes b tabs true true true r.addr r.data := by
    obtain ⟨sect, space, addr, place, data⟩ := r
    cases h3
    rfl
  have hall : ∀ x ∈ placed r.addr r.data, bankKey b tabs true x.1 = none
      ∧ (d.loadTabs true ((placed r.addr r.data).filterMap (fun x => (bankKey b tabs true x.1).map (fun k => (k, x.2))))).dramFailed
        x.1 = false := by
    intro x hx
    obtain ⟨i, hi, rfl⟩ := mem_placed.mp hx
    exact ⟨(h i hi).1, (Dev.dramFailed_congr (Dev.io_loadTabs ..) _).trans (h i hi).2⟩
  rw [hrec, Dev.loadBytes]
  refine (Dev.memByte_clearPoison ..).trans ?_
  refine (congrArg (Dev.memByte · true a) (Dev.fold_setMemByte _ _ hall)).trans ?_
  exact congrArg (fun m : DramMem => spGet 0 ((placed r.addr r.data).foldl (fun m x => spSet 0 m x.1 x.2) m.bytes) a) (Dev.dmem_loadTabs ..)

theorem spGet_placed {a at_ : Nat} {bs : Bytes} (m : Map Byte) :
    (∀ i < bs.length, spGet 0 ((placed at_ bs).foldl (fun m x => spSet 0 m x.1 x.2) m) (at_ + i) = bs.getD i 0)
    ∧ (a < at_ ∨ at_ + bs.length ≤ a → spGet 0 ((placed at_ bs).foldl (fun m x => spSet 0 m x.1 x.2) m) a = spGet 0 m a) := by
  refine ⟨fun i hi => ?_, fun ha => ?_⟩
  · refine foldl_sets_at (spGet 0 · (at_ + i)) _ _ _ (a := (at_ + i, bs.getD i 0)) (mem_placed.mpr ⟨i, hi, rfl⟩)
      (fun m => spGet_spSet_same ..) (fun x hx hne m => spGet_spSet_ne _ _ _ _ _ fun heq => hne ?_)
    obtain ⟨j, hj, rfl⟩ := mem_placed.mp hx
    have hij : i = j := by simpa using heq
    rw [hij]
  · refine foldl_leaves (spGet 0 · a) _ _ _ fun x hx m => spGet_spSet_ne _ _ _ _ _ fun heq => ?_
    obtain ⟨j, hj, rfl⟩ := mem_placed.mp hx
    simp only at heq
    omega

theorem Dev.ioFld_incident (block code actor x y p hi lo : Nat) : (d.incident block code actor x y).ioFld p hi lo = d.ioFld p hi lo := (rfl)

/-- A blob that passes its checks fills its slot; one that fails leaves the slots and is counted. -/
theorem Dev.loadKeyRec_slots (d : Dev) (r : Rec) :
    (d.blobCode r.addr r.data = Code.ok → (d.loadKeyRec r).keySlot r.addr = some (blobSlot r.data))
    ∧ (d.blobCode r.addr r.data ≠ Code.ok → ∀ n, (d.loadKeyRec r).keySlot n = d.keySlot n)
    ∧ (d.blobCode r.addr r.data ≠ Code.ok →
      (d.loadKeyRec r).ioFld R.loadSurvey 19 4 = Nat.min (d.ioFld R.loadSurvey 19 4 + 1) 0xFFFF) := by
  unfold Dev.loadKeyRec
  refine ⟨fun hc => ?_, fun hc n => ?_, fun hc => ?_⟩
  · simp only [hc, if_true]
    exact spFind_spPut_same ..
  · simp only [if_neg hc]
    rfl
  · simp only [if_neg hc]
    rw [Dev.ioFld_incident, Dev.ioFld_setIoFld_same _ _ _ _ _ (by decide) (by decide)]
    refine Nat.mod_eq_of_lt ?_
    exact lt_of_le_of_lt (Nat.min_le_right ..) (by decide)

/-! ## The end of Survey mode (R433) -/

theorem Apart.formSets {α : Type} {read : Dev → α} (h : Apart read) : read d.formSets = read d := by
  unfold Dev.formSets
  exact h.pool ..

theorem Apart.setIoBit {α : Type} {read : Dev → α} (h : Apart read) (o i : Nat) : read (d.setIoBit o i) = read d := by
  unfold Dev.setIoBit
  exact h.setIoFld ..

theorem Apart.startKeeper {α : Type} {read : Dev → α} (h : Apart read) (id : Tid) (ev : Nat) : read (d.startKeeper id ev) = read d := by
  unfold Dev.startKeeper Dev.updThr Dev.setThr
  exact (h.setLocalBytes ..).trans (h.cores ..)

/-- Drip 0 begins with the drips' own part, and leaves what stands apart from the rest. -/
theorem Apart.startService {α : Type} {read : Dev → α} (h : Apart read) (hs : ∀ (d : Dev) f, read (d.onStrong f) = read d)
    (hb : ∀ (d : Dev) f, read (d.onBook f) = read d) (hi : ∀ (d : Dev) f, read (d.onIngr f) = read d) :
    read d.startService = read (d.onDrip (fun p => { p with now := 0, gen := 1 })) := by
  have hkeepers (e : Dev) : read ((List.range 16).foldl (fun d g => match d.keeper g with
      | some k => d.startKeeper k 0
      | none => d) e) = read e := by
    refine foldl_part read _ (fun e g => ?_) _ _
    cases e.keeper g with
    | none => rfl
    | some k => exact h.startKeeper ..
  unfold Dev.startService
  exact (h.genesis hs hb).trans ((hi ..).trans ((hkeepers _).trans (h.formSets.trans
    (foldl_part read _ (fun _ _ => h.setGroup ..) _ _))))

/-- Chaining a record goes on with the epoch that has begun. -/
theorem Dev.started_chainRec (r : RecBody) (src : Option Nat) : (d.chainRec r src).book.started = d.book.started := by
  have hpass (e : Dev) : e.strongPass.book = e.book := by
    unfold Dev.strongPass
    split <;> rfl
  have hpage : d.settlePage.book.started = d.book.started := by
    unfold Dev.settlePage
    split
    · simp only [Dev.pageEnd, Dev.onBook, Dev.book_pageClose, Dev.book_bookVisible, Dev.chainRecAt]
    · rfl
  have hat : (d.chainRec r src).book.started = d.settlePage.strongPass.book.started := rfl
  rw [hat, hpass, hpage]

theorem Dev.started_hwRec (kind : Nat) (digest data : Bytes) : (d.hwRec kind digest data).book.started = d.book.started := by
  unfold Dev.hwRec
  dsimp only
  split
  · exact Dev.started_chainRec ..
  · rfl

theorem Dev.started_genesis : d.genesis.book.started = true := by
  unfold Dev.genesis
  refine (foldl_part (fun e : Dev => e.book.started) _ (fun _ _ => Dev.started_chainRec ..) _ _).trans ?_
  exact Dev.started_hwRec ..

theorem Dev.started_startService : d.startService.book.started = true := by
  unfold Dev.startService
  dsimp only
  exact Dev.started_genesis

theorem Dev.load_onDrip (f : Drip → Drip) : (d.onDrip f).load = d.load := (rfl)

theorem Dev.load_startService : d.startService.load = d.load :=
  (apart_load.startService (fun _ _ => rfl) (fun _ _ => rfl) (fun _ _ => rfl)).trans (Dev.load_onDrip _)

/-- The KEYS records are those of the image, which DRAM_DATA and the start of service leave. -/
theorem Dev.surveyDone_eq : d.surveyDone = (recsOf d.load.image 6).foldl Dev.loadKeyRec
    ((((recsOf d.load.image 3).foldl (fun d x => d.loadRec d.load.image d.cores.dirA true x) d).spareChans.setIoBit
      R.loadSurvey 3).startService.fellBackRecord) := by
  have hdram : ((recsOf d.load.image 3).foldl (fun d x => d.loadRec d.load.image d.cores.dirA true x) d).load = d.load :=
    foldl_part Dev.load _ (fun _ _ => apart_load.loadRec (fun _ _ => rfl) (fun _ _ => rfl) ..) _ _
  have hload : (((recsOf d.load.image 3).foldl (fun d x => d.loadRec d.load.image d.cores.dirA true x) d).spareChans.setIoBit
      R.loadSurvey 3).startService.load = d.load :=
    Dev.load_startService.trans ((apart_load.setIoBit ..).trans (apart_load.spareChans.trans hdram))
  unfold Dev.surveyDone
  dsimp only
  rw [hload]

/-- Service begins with drip 0 of generation 1 and the Cellarbook's epoch. -/
theorem Dev.surveyDone_begins : d.surveyDone.drip.now = 0 ∧ d.surveyDone.drip.gen = 1 ∧ d.surveyDone.book.started = true := by
  have hkeys {α : Type} {read : Dev → α} (h : Apart read) (e : Dev) (l : List Rec) :
      read (l.foldl Dev.loadKeyRec e.fellBackRecord) = read e :=
    (foldl_part read _ (fun _ _ => h.loadKeyRec ..) _ _).trans h.fellBackRecord
  rw [Dev.surveyDone_eq]
  generalize Dev.setIoBit _ R.loadSurvey 3 = e
  have hdrip : e.startService.drip = { e.drip with now := 0, gen := 1 } :=
    apart_drip.startService (fun _ _ => rfl) (fun _ _ => rfl) (fun _ _ => rfl)
  rw [hkeys apart_drip, hkeys apart_book, hdrip]
  exact ⟨rfl, rfl, Dev.started_startService⟩

/-- The first mode is LIMP where a trigger holds, else SERVICE. -/
theorem Dev.mode_firstMode (c : Option Nat) : (d.firstMode c).mode = if c = none then Mode.service else Mode.limp := by
  cases c with
  | none => exact Dev.mode_setMode (by decide)
  | some c => exact Dev.mode_setMode (by decide)

theorem Apart.firstMode {α : Type} {read : Dev → α} (h : Apart read) (hl : ∀ (d : Dev) f, read (d.onLoad f) = read d) (c : Option Nat) :
    read (d.firstMode c) = read d := by
  cases c with
  | none => exact h.setMode ..
  | some c => exact (h.setMode ..).trans ((h.incident ..).trans ((hl ..).trans (h.setIo ..)))

/-- Why Survey mode fails, in the order of its causes. -/
theorem Dev.surveyFail_causes (d : Dev) (r : Survey) :
    (d.dramShort = true → d.surveyFail r = some 1)
    ∧ (d.dramShort = false →
      (rereadOk d.load.image r.reread 3 = false ∨ rereadOk d.load.image r.reread 6 = false → d.surveyFail r = some 2)
      ∧ (rereadOk d.load.image r.reread 3 = true → rereadOk d.load.image r.reread 6 = true →
        (r.sram = true → d.surveyFail r = some 3)
        ∧ (r.sram = false → (∀ c ∈ (d.gal 0).coreMap, c = 9) → d.surveyFail r = some 4)
        ∧ (r.sram = false → (∃ c ∈ (d.gal 0).coreMap, c ≠ 9) → d.surveyFail r = if r.pll then some 5 else none))) := by
  have hcore : ((d.gal 0).coreMap.all (fun x => x = 9)) = true ↔ ∀ c ∈ (d.gal 0).coreMap, c = 9 := by simp
  refine ⟨fun h => by simp [Dev.surveyFail, h], fun h => ⟨fun hbad => ?_, fun h3 h6 => ⟨fun hr => ?_, fun hr hc => ?_, fun hr hc => ?_⟩⟩⟩
  · rcases hbad with hbad | hbad <;> simp [Dev.surveyFail, h, hbad]
  · simp [Dev.surveyFail, h, h3, h6, hr]
  · simp only [Dev.surveyFail, h, h3, h6, hr, hcore.mpr hc, Bool.not_true, Bool.or_false, Bool.false_eq_true, if_false, if_true]
  · have hsome : ((d.gal 0).coreMap.all (fun x => x = 9)) = false := by
      obtain ⟨c, hmem, hne⟩ := hc
      exact Bool.eq_false_iff.mpr fun hall => hne (hcore.mp hall c hmem)
    simp only [Dev.surveyFail, h, h3, h6, hr, hsome, Bool.not_true, Bool.or_false, Bool.false_eq_true, if_false]

theorem Dev.surveyFail_le {r : Survey} {c : Nat} (h : d.surveyFail r = some c) : c < 8 := by
  unfold Dev.surveyFail at h
  split at h
  · cases h; decide
  split at h
  · cases h; decide
  split at h
  · cases h; decide
  split at h
  · cases h; decide
  split at h
  · cases h; decide
  · cases h

theorem exec_surveyEnd {s : State} (r : Survey) (hm : s.dev.mode = Mode.survey) (h0 : s.dev.ioFld R.loadSurvey 2 0 = 0)
    (hrails : s.dev.elec.railsOut = []) : exec (.surveyEnd r) s = .next (s.withDev (s.dev.surveyEnd r)) :=
  exec_withDev_congr rfl (if_pos (by rw [hm, h0, hrails]; decide))

/-- Settles O51: the attempts in their order, the host's image, the records of DRAM_DATA and KEYS, and the end of Survey mode. -/
theorem loadAndSurvey : Obligations.LoadAndSurvey := by
  unfold Obligations.LoadAndSurvey
  refine ⟨fun s hm => ⟨?attempt, ?host, ?empty⟩, fun d => Dev.surveyDone_eq, ?dram, Dev.loadKeyRec_slots, ?survey⟩
  case attempt =>
    intro src pins img i2c ee hsrc b d n
    have hrun (sfdp : Bool) : exec (.imageLoadAttempt src pins sfdp img i2c ee) s =
        .next (s.withDev (b.nvmAttempt n pins sfdp img)) := by
      refine exec_withDev_congr rfl (if_pos ?_)
      rcases hsrc with ⟨rfl, ha⟩ | ⟨rfl, ha, hb⟩
      · simp [hm, ha]
      · simp [hm, ha, hb]
    have hn : n < 2 ∧ (n = 0 ↔ src = 1) ∧ n + 1 = src := by
      rcases hsrc with ⟨rfl, -⟩ | ⟨rfl, -⟩ <;> decide
    obtain ⟨hn2, hn0, hsucc⟩ := hn
    have hd : (if n = 0 then b.setIoFld R.loadPins 5 0 pins else b.setIoFld R.loadPins 11 6 pins).blank = d := by
      simp only [hn0]
      rfl
    refine ⟨fun hpins sfdp => ?_, fun hpins => ?_, fun hpins => ⟨_, hrun true, ?_⟩⟩
    · rw [hrun, Dev.nvmAttempt, if_pos hpins, hd]
    · rw [hrun, Dev.nvmAttempt, if_neg (not_not.mpr hpins), if_pos (by decide), hd]
    · have hatt : b.nvmAttempt n pins true img =
          (if n = 0 then b.setIoFld R.loadPins 5 0 pins else b.setIoFld R.loadPins 11 6 pins).attempt n img false := by
        rw [Dev.nvmAttempt, if_neg (not_not.mpr hpins), if_neg (by decide)]
      have hfuse : (if n = 0 then b.setIoFld R.loadPins 5 0 pins else b.setIoFld R.loadPins 11 6 pins).load.fuse = d.load.fuse := by
        rw [← hd]
        rfl
      rw [hatt, Dev.attempt_eq, hd, hfuse]
      generalize imageCheck img (some d.load.fuse) d.board = c
      cases c with
      | error f => rfl
      | ok recs =>
        dsimp only
        generalize d.loadImage img recs = l
        cases l with
        | error f => rfl
        | ok e =>
          obtain ⟨hmode, himg, hcode, hfrom⟩ := Dev.imageStarts_survey (e := e) img false hn2
          exact ⟨hmode, himg, hcode, hfrom.trans hsucc⟩
  case host =>
    intro hp ha hb hr hsrc hlen hmax hbus go
    obtain ⟨hgo, henrol, hother⟩ := Dev.loadGo_acts hm hp
    refine ⟨?_, fun hfuse => ?_, fun hfuse => ?_, fun m hne => ?_⟩
    · exact exec_withDev_congr rfl ((if_pos hm).trans (hgo.trans
        (Dev.hostImage_reads ha hb hr hsrc hlen hmax hbus Bool.noConfusion)))
    · exact exec_withDev_congr rfl ((if_pos hm).trans (henrol.trans
        (Dev.hostImage_reads ha hb hr hsrc hlen hmax hbus fun _ => hfuse)))
    · exact exec_withDev_congr rfl ((if_pos hm).trans (henrol.trans (Dev.hostImage_enrolled hbus hfuse)))
    · exact exec_withDev_congr rfl ((if_pos hm).trans (hother m hne))
  case empty =>
    intro hp hsrc hlen
    obtain ⟨hgo, -, -⟩ := Dev.loadGo_acts hm hp
    obtain ⟨hok, hbusy⟩ := Dev.hostImage_empty (m := 3) hsrc hlen
    exact ⟨fun ha hb hr => exec_withDev_congr rfl ((if_pos hm).trans (hgo.trans (hok ha hb hr))),
      fun hfirst => exec_withDev_congr rfl ((if_pos hm).trans (hgo.trans (hbusy hfirst)))⟩
  case dram =>
    intro d b tabs r h3 h
    refine ⟨fun i hi => ?_, fun a ha => ?_⟩
    · rw [Dev.loadRec_dram h3 h]
      exact (spGet_placed (a := 0) _).1 i hi
    · rw [Dev.loadRec_dram h3 h]
      exact (spGet_placed _).2 ha
  case survey =>
    intro s r hm h0 hrails d
    have hrun := exec_surveyEnd r hm h0 hrails
    have hout : s.dev.surveyEnd r = d.surveyOut (d.surveyFail r) := rfl
    refine ⟨fun c hc => ⟨_, hrun, ?_, ?_⟩, fun hnone => ?_, Dev.surveyFail_causes d r⟩
    · rw [hout, hc]
      rfl
    · rw [hout, hc]
      exact (Dev.ioFld_setIoFld_same _ _ _ _ _ (by decide) (by decide)).trans (Nat.mod_eq_of_lt (Dev.surveyFail_le hc))
    · rw [hnone] at hout
      obtain ⟨hnow, hgen, hstart⟩ := d.surveyDone_begins
      have hdrip : (d.surveyDone.firstMode d.surveyDone.limpCause).drip = d.surveyDone.drip := apart_drip.firstMode (fun _ _ => rfl) _
      have hbook : (d.surveyDone.firstMode d.surveyDone.limpCause).book = d.surveyDone.book := apart_book.firstMode (fun _ _ => rfl) _
      refine ⟨fun hl => ?_, fun c hl => ?_, ⟨_, hrun, ?_, ?_, ?_, ?_⟩⟩
      · rw [hrun, hout, Dev.surveyOut, hl]
        rfl
      · rw [hrun, hout, Dev.surveyOut, hl]
        rfl
      · rw [hout, Dev.surveyOut, hdrip, hnow]
      · rw [hout, Dev.surveyOut, hdrip, hgen]
      · rw [hout, Dev.surveyOut, hbook, hstart]
      · rw [hout]
        exact Dev.mode_firstMode _

end Sys2Proof.Machine
end

section
/-! PROOF. Handovers (chapter 17): the word that shows the generation of a flip. -/

namespace Sys2Proof.Machine

variable {d : Dev}

/-! ## What a drained Handover shows (R439) -/

/-- A change of mode leaves the registers of the Handover. -/
theorem Dev.io_setMode_ne {m p : Nat} (hp : p ≠ R.loadStat) : (d.setMode m).io p = d.io p := by
  unfold Dev.setMode
  split
  · rfl
  · exact (Dev.signal_leaves (read := fun e : Dev => e.io p) (fun _ _ => rfl) (fun _ _ => rfl) _).trans (Dev.io_setIo_ne _ _ _ _ hp)

/-- LOAD_HO_GEN shows the generation of the flip as a word of 32 bits. -/
theorem exec_handoverDrainDone_gen {s : State} (hs : s.dev.serving = true) (h5 : s.dev.hoState = 5)
    (hd : ∀ g ∈ groupBits, (s.dev.group g).other ≠ .trailing) :
    ∃ t, exec .handoverDrainDone s = .next t ∧ t.dev.io R.loadHoGen = s.dev.load.ho.gen % 2 ^ 32 := by
  have hon : (s.dev.serving && decide (s.dev.hoState = Ho.flipped) && groupBits.all (fun g => (s.dev.group g).other ≠ .trailing)) = true := by
    rw [hs, h5, List.all_eq_true.mpr fun g hg => decide_eq_true (hd g hg)]
    decide
  have hgen (f : Handover → Handover) : ((((s.dev.hoCode Code.ok 0).setHo true Ho.done).setIo R.loadHoGen s.dev.load.ho.gen).onHo f).io
      R.loadHoGen = s.dev.load.ho.gen % 2 ^ 32 := Dev.io_setIo_same _ _ _
  refine ⟨_, exec_withDev_congr rfl (if_pos hon), ?_⟩
  dsimp only [State.withDev]
  split
  · exact (Dev.io_setMode_ne (by decide)).trans (hgen _)
  · exact hgen _

theorem Dev.mode_onHo (f : Handover → Handover) : (d.onHo f).mode = d.mode := (rfl)

theorem Dev.hoState_onHo (f : Handover → Handover) : (d.onHo f).hoState = d.hoState := (rfl)

/-- The registers of a Handover that flipped. -/
def flippedRegs : Dev := (Dev.reset.setIoFld R.loadHoStat 2 0 Ho.flipped).setIoFld R.loadStat 2 0 Mode.handover

theorem flippedRegs_mode : flippedRegs.mode = Mode.handover :=
  Dev.ioFld_setIoFld_same _ _ _ _ _ (by decide) (by decide)

theorem flippedRegs_hoState : flippedRegs.hoState = Ho.flipped :=
  (Dev.ioFld_setIoFld_ne _ _ _ _ _ _ _ _ (by decide)).trans (Dev.ioFld_setIoFld_same _ _ _ _ _ (by decide) (by decide))

/-- Every bank has drained after a flip under generation 2 ^ 32. -/
def drained : State := { State.reset with dev := flippedRegs.onHo (fun h => { h with gen := 2 ^ 32 }) }

theorem drained_mode : drained.dev.mode = Mode.handover := (Dev.mode_onHo _).trans flippedRegs_mode

theorem drained_hoState : drained.dev.hoState = Ho.flipped := (Dev.hoState_onHo _).trans flippedRegs_hoState

theorem drained_banks (g : Nat) : (drained.dev.group g).other ≠ .trailing := OtherBank.noConfusion

/-- Refutes O52: LOAD_HO_GEN has 32 bits, so a state whose Handover flipped under generation 2 ^ 32 shows 0 once it has drained. -/
theorem not_handovers : ¬ Obligations.Handovers := by
  unfold Obligations.Handovers
  rintro ⟨hstates, -⟩
  obtain ⟨-, -, -, -, -, -, -, hdrain⟩ := hstates drained
  have hbanks : ∀ g ∈ groupBits, (drained.dev.group g).other ≠ .trailing := fun g _ => drained_banks g
  obtain ⟨t, ht, -, -, hshown, -⟩ := hdrain drained_mode drained_hoState hbanks
  obtain ⟨u, hu, hword⟩ := exec_handoverDrainDone_gen (by simp [Dev.serving, drained_mode]) drained_hoState hbanks
  have htu : t = u := by simpa [ht] using hu
  have hgen : drained.dev.load.ho.gen = 2 ^ 32 := rfl
  rw [htu, hword, hgen] at hshown
  exact absurd hshown (by decide)

end Sys2Proof.Machine
end

section
/-! PROOF. The host interface (chapter 18): a write of exp_log2 in a state with a bit outside the field. -/

namespace Sys2Proof.Machine

/-! ## A write of exp_log2 changes its own field (R9, R458) -/

/-- A device in service whose host selected version 2, with bit 6 of HOST_EXP_SIZE set. -/
def oddSize : State := { State.reset with dev :=
  ((Dev.reset.setIo R.loadStat 3).setIo R.hostVerSel 2).setIo R.hostExpSize 64 }

theorem oddSize_host : oddSize.dev.mode ≠ Mode.cold ∧ oddSize.dev.serving = true ∧ oddSize.dev.noPath 3 = false
    ∧ 2 ≤ oddSize.dev.hostMinor := by decide +kernel

/-- The write keeps the bit, which is not of the field. -/
theorem oddSize_written : (oddSize.dev.beWrite 3 R.hostExpSize 0 15).io R.hostExpSize = 64 := by decide +kernel

theorem exec_oddSize : exec (.csrWrite 3 R.hostExpSize 0 15) oddSize =
    .next (oddSize.withDev (oddSize.dev.beWrite 3 R.hostExpSize 0 15)) :=
  exec_withDev_congr rfl (if_neg (by decide))

/-- Refutes O53: a write of exp_log2 leaves the bits of HOST_EXP_SIZE that are not of the field, so the register does not read
as the value written in a state in which bit 6 is set. -/
theorem not_hostInterface : ¬ Obligations.HostInterface := by
  unfold Obligations.HostInterface
  rintro ⟨⟨-, hhost⟩, -⟩
  obtain ⟨hmode, hserve, hpath, hminor⟩ := oddSize_host
  obtain ⟨-, -, -, -, -, hsize, -⟩ := hhost oddSize hmode hserve hpath
  obtain ⟨t, ht, hread, -⟩ := hsize 0 (by decide) hminor
  rw [exec_oddSize] at ht
  cases ht
  exact absurd (oddSize_written.symm.trans hread) (by decide)

end Sys2Proof.Machine
end

section
/-! PROOF. The Rope's traffic (chapter 18): the partner's writes and reads, requests, frames, mailbox and mirrors (O55). -/

namespace Sys2Proof.Machine

variable {d : Dev}

/-! ## The partner's writes and their codes (R465) -/

theorem Dev.peerWrite_now {peer o v be : Nat} (h : (d.beWrite 4 o v be).drip.writes = d.drip.writes) :
    d.peerWrite peer o v be = (d.beWrite 4 o v be).ropeSend 3 (reqCpl peer (d.peerCode o v be) 0) :=
  if_neg (by rw [h]; exact lt_irrefl _)

theorem Dev.peerWrite_staged {peer o v be : Nat} {w : StagedWrite} (h : (d.beWrite 4 o v be).drip.writes = d.drip.writes ++ [w]) :
    d.peerWrite peer o v be = (d.beWrite 4 o v be).onRope (fun r => { r with cpls := r.cpls ++ [⟨peer, w.target⟩] }) := by
  have hmore : d.drip.writes.length < (d.beWrite 4 o v be).drip.writes.length := by simp [h]
  have hlast : (d.beWrite 4 o v be).drip.writes.getLast? = some w := by rw [h, List.getLast?_concat]
  simp only [Dev.peerWrite, hmore, hlast, if_true]

/-- The device on which the code of a partner's write is found: nothing refused, nothing reserved. -/
def Dev.peerProbe (d : Dev) : Dev := (d.setIo (R.dripWfail + 32) 0).setIo R.gctlRsvdWr 0

theorem Dev.mode_peerProbe : d.peerProbe.mode = d.mode :=
  (Dev.mode_setIo _ _ _ (by decide)).trans (Dev.mode_setIo _ _ _ (by decide))

theorem Dev.noPath_peerProbe (m : Nat) : d.peerProbe.noPath m = d.noPath m := by
  have hperst : d.peerProbe.elec = d.elec := rfl
  simp only [Dev.noPath, Dev.mode_peerProbe, hperst]

theorem Dev.blockOpen_peerProbe (o : Nat) : d.peerProbe.blockOpen o = d.blockOpen o := by
  simp only [Dev.blockOpen, Dev.serving, Dev.mode_peerProbe]

/-- A write that is refused completes with the code that the refusal records. -/
theorem Dev.peerCode_refused {o v be c a : Nat} (hc : c < 2 ^ 8) (h : d.peerProbe.beWrite 4 o v be = d.peerProbe.refuse 4 a c) :
    d.peerCode o v be = c := by
  have hprobe : d.peerProbe.io (R.dripWfail + 32) = 0 := (Dev.io_setIo_ne _ _ _ _ (by decide)).trans (Dev.io_setIo_same ..)
  have hword : (d.peerProbe.refuse 4 a c).io (R.dripWfail + 32) = c + 2 ^ 8 := by
    refine (Dev.io_setIo_ne _ _ _ _ (by decide)).trans ((Dev.io_setIo_same ..).trans ?_)
    rw [hprobe]
    show (c + Nat.min (0 + 1) 0xFFFFFF * 2 ^ 8) % 2 ^ 32 = c + 2 ^ 8
    rw [show Nat.min (0 + 1) 0xFFFFFF = 1 from rfl]
    omega
  have hcount : bits (c + 2 ^ 8) 31 8 ≠ 0 ∧ bits (c + 2 ^ 8) 7 0 = c := by
    simp only [bits]
    omega
  show (if bits ((d.peerProbe.beWrite 4 o v be).io (R.dripWfail + 32)) 31 8 ≠ 0
    then bits ((d.peerProbe.beWrite 4 o v be).io (R.dripWfail + 32)) 7 0 else _) = c
  rw [h, hword, if_pos hcount.1, hcount.2]

/-- A reserved write completes with RESERVED_VALUE. -/
theorem Dev.peerCode_reserved {o v be a : Nat} {e : Dev} (he : e.io = (d.peerProbe.reservedCsr 4 a).io)
    (h : d.peerProbe.beWrite 4 o v be = e) : d.peerCode o v be = Code.reserved := by
  have hzero : d.peerProbe.io R.gctlRsvdWr = 0 := Dev.io_setIo_same ..
  have hfail : e.io (R.dripWfail + 32) = 0 := by
    rw [he, Dev.reservedCsr, Dev.reservedWrite]
    refine (Dev.io_setIo_ne _ _ _ _ (by decide)).trans ((Dev.io_setIo_ne _ _ _ _ (by decide)).trans
      ((Dev.io_setIo_ne _ _ _ _ (by decide)).trans ((Dev.io_setIo_ne _ _ _ _ (by decide)).trans (Dev.io_setIo_same ..))))
  have hcount : e.io R.gctlRsvdWr = 1 := by
    rw [he, Dev.reservedCsr, Dev.reservedWrite]
    refine (Dev.io_setIo_ne _ _ _ _ (by decide)).trans ((Dev.io_setIo_ne _ _ _ _ (by decide)).trans ((Dev.io_setIo_same ..).trans ?_))
    rw [hzero]
    rfl
  show (if bits ((d.peerProbe.beWrite 4 o v be).io (R.dripWfail + 32)) 31 8 ≠ 0 then _
    else if (d.peerProbe.beWrite 4 o v be).io R.gctlRsvdWr ≠ 0 then Code.reserved else Code.ok) = Code.reserved
  rw [h, hfail, hcount]
  rfl

theorem Dev.io_lastWrite (m off code : Nat) : (d.lastWrite m off code).io = d.io := by
  unfold Dev.lastWrite
  cases lastCode off with
  | none => rfl
  | some st =>
    dsimp only
    split <;> rfl

section
variable {o v be : Nat}

/-- Missing bytes: the code is that of a closed block, else RESERVED_VALUE. -/
theorem Dev.peerCode_part (hp : d.noPath 4 = false) (hbe : be % 16 ≠ 15) :
    (d.blockOpen o = false → d.peerCode o v be = Code.notOwner) ∧ (d.blockOpen o = true → d.peerCode o v be = Code.reserved) := by
  have hpart := Dev.beWrite_part (d := d.peerProbe) (o := o) (v := v) ((Dev.noPath_peerProbe 4).trans hp) hbe
  rw [Dev.blockOpen_peerProbe] at hpart
  refine ⟨fun hclosed => Dev.peerCode_refused (a := o) (by decide) ?_, fun hopen =>
    Dev.peerCode_reserved (a := o) (Dev.io_lastWrite 4 o Code.reserved) ?_⟩
  · rw [hpart, hclosed]
    rfl
  · rw [hpart, hopen]
    rfl

/-- Only which four bytes are enabled counts. -/
theorem Dev.beWrite_whole (m : Nat) (hbe : be % 16 = 15) : d.beWrite m o v be = d.beWrite m o v 15 := by
  simp only [Dev.beWrite, hbe, Nat.reduceMod]

/-- The codes of a whole word written to a register without an action. -/
theorem Dev.peerCode_plain (hp : d.noPath 4 = false) (hbe : be % 16 = 15) (ho : d.blockOpen o = true) (hlt : o < 0x8000000)
    (hact : ∀ e : Dev, e.actionLow 4 o v = none ∧ e.actionHigh 4 o v = none) :
    (regAt o = none → d.peerCode o v be = Code.reserved)
    ∧ ∀ r, regAt o = some r → r.maskOf writable ≠ 0 →
      ((∀ e : Dev, e.mayWrite r 4 o = false) → d.peerCode o v be = Code.notOwner)
      ∧ ((∀ e : Dev, e.mayWrite r 4 o = true ∧ e.hostHidden o = false) → w32 v &&& ~~~r.maskOf writable ≠ 0 →
        d.peerCode o v be = Code.reserved) := by
  obtain ⟨hlow, hhigh⟩ := hact d.peerProbe
  have hplain : d.peerProbe.beWrite 4 o v be = d.peerProbe.plainWrite 4 o v :=
    (Dev.beWrite_whole 4 hbe).trans (Dev.beWrite_plain ((Dev.noPath_peerProbe 4).trans hp) hlt hlow hhigh)
  have hopen : d.peerProbe.blockOpen o = true := (Dev.blockOpen_peerProbe o).trans ho
  refine ⟨fun hr => ?_, fun r hr hm => ⟨fun hw => ?_, fun hw hv => ?_⟩⟩
  · exact Dev.peerCode_reserved (a := o) rfl (hplain.trans (Dev.plainWrite_hole hopen hr))
  · exact Dev.peerCode_refused (a := o) (by decide) (hplain.trans (Dev.plainWrite_notOwner hopen hr hm (hw _)))
  · obtain ⟨hmay, hhid⟩ := hw d.peerProbe
    exact Dev.peerCode_reserved (a := o) rfl (hplain.trans (Dev.plainWrite_reservedBits hopen hr hm hmay hhid hv))

end

/-! ## The partner's reads (R465, R277) -/

section
variable {s : State} {peer o : Nat}

theorem State.peerRead_now (h : ((s.csrRead 4 o).dev.latch (s.dev.hostLatch 4)).waiters = (s.dev.latch (s.dev.hostLatch 4)).waiters) :
    s.peerRead peer o = (s.csrRead 4 o).withDev
      ((s.csrRead 4 o).dev.ropeSend 3 (reqCpl peer Code.ok (spGet 0 (s.csrRead 4 o).dev.csr.rdata 4).toNat)) :=
  if_neg (by rw [h]; exact lt_irrefl _)

theorem State.peerRead_waits {w : LWaiter} (h : ((s.csrRead 4 o).dev.latch (s.dev.hostLatch 4)).waiters =
    (s.dev.latch (s.dev.hostLatch 4)).waiters ++ [w]) : s.peerRead peer o = (s.csrRead 4 o).withDev
      ((s.csrRead 4 o).dev.onRope (fun r => { r with latchPeer := r.latchPeer ++ [⟨s.dev.hostLatch 4, w.deadline, peer⟩] })) := by
  have hmore : (s.dev.latch (s.dev.hostLatch 4)).waiters.length < ((s.csrRead 4 o).dev.latch (s.dev.hostLatch 4)).waiters.length := by
    simp [h]
  refine (if_pos hmore).trans ?_
  rw [h, List.getLastD_concat]

/-! ## This device's requests (R465) -/

/-- A frame at the negotiated version is acted on. -/
theorem Dev.ropeFrame_acts {type : Nat} (f : Dev → Dev) (hup : d.ropeUp = true) (h : type < 6 ∨ d.ropeVer = 2) :
    d.ropeFrame type d.ropeVer f = f d := by
  have hcarried : (decide (d.ropeVer ≠ d.ropeVer) || (decide (6 ≤ type) && decide (d.ropeVer < 2))) = false := by
    rcases h with h | h <;> simp [h]
  simp only [Dev.ropeFrame, hup, hcarried, Bool.not_true, Bool.false_eq_true, if_false]

/-- One of another version, or of a type that the version lacks, is dropped. -/
theorem Dev.ropeFrame_drops {type ver : Nat} (f : Dev → Dev) (hup : d.ropeUp = true)
    (h : ver ≠ d.ropeVer ∨ 6 ≤ type ∧ ver < 2) : d.ropeFrame type ver f = d.ropeCount 1 := by
  have hdrop : (decide (ver ≠ d.ropeVer) || (decide (6 ≤ type) && decide (ver < 2))) = true := by
    rcases h with h | ⟨h6, h2⟩
    · simp [h]
    · simp [h6, h2]
  simp only [Dev.ropeFrame, hup, hdrop, Bool.not_true, Bool.false_eq_true, if_false, if_true]

/-- A write of ROPE_REQ_GO by a master whose buffer holds an op of the command. -/
theorem Dev.ropeGo_request {m : Nat} {mine : Nat → Bool} (hp : d.noPath m = false) (hs : d.serving = true) (ho : d.owns m 22 = true)
    (hmine : mine (bits (d.per m R.ropeReqAddr) 28 28) = true) :
    d.ropeGo m 1 mine =
      if bitOf (d.per m R.ropeReqStat) 0 then d.refuse m R.ropeReqGo Code.busyRetry
      else if !d.ropeUp then d.setStat m R.ropeReqStat false Code.orphaned
      else ((d.setStat m R.ropeReqStat true 0).onRope (fun r => { r with
        reqs := spPut r.reqs m ⟨bits (d.per m R.ropeReqAddr) 28 28, d.drip.now⟩ })).ropeSend 2
          (leBytes 1 m ++ leBytes 4 (d.per m R.ropeReqAddr) ++ leBytes 4 (d.per m R.ropeReqData)) := by
  have hdata (f : Rope → Rope) : ((d.setStat m R.ropeReqStat true 0).onRope f).per m R.ropeReqData = d.per m R.ropeReqData :=
    Dev.per_setPer_ne _ _ _ _ _ _ (by simp [perKey])
  rw [Dev.ropeGo, Dev.ownDoorbell_acts _ _ _ _ _ _ _ hp (Dev.blockOpen_of_serving _ hs _) ho (by decide)]
  simp only [hmine, hdata, Bool.not_true, Bool.or_false, decide_false, Bool.false_eq_true, if_false, one_ne_zero]

theorem exec_ropeReq {row : (Nat → Instr) × Nat} (hrow : row ∈ [(Instr.ropeReqRead, 0), (Instr.ropeReqWrite, 1)]) (m : Nat) (s : State) :
    exec (row.1 m) s = .next (s.withDev (s.dev.ropeGo m 1 (fun op => op = row.2))) := by
  simp only [List.mem_cons, List.not_mem_nil, or_false] at hrow
  rcases hrow with rfl | rfl <;> rfl

theorem Dev.ropeReqEnd_ends {m code : Nat} (hc : code < 256) :
    (d.ropeReqEnd m code).per m R.ropeReqStat = 2 ^ 8 * code ∧ spFind (d.ropeReqEnd m code).rope.reqs m = none := by
  refine ⟨?_, spFind_spErase_same ..⟩
  refine (Dev.per_setPer_same ..).trans ?_
  rw [show b2n false = 0 from rfl]
  omega

end

/-! ## Frames (R460, R463) -/

theorem Dev.ropeSend_sends {type : Nat} (hup : d.ropeUp = true) (data : Bytes) (h : type < 6 ∨ d.ropeVer = 2) (h0 : type ≠ 0) :
    d.ropeSend type data = d.emit (.rope 0x88B6 (leBytes 1 type ++ leBytes 1 d.ropeVer ++ [0, 0] ++ leBytes 4 data.length ++ data)) := by
  have hon : (d.ropeUp && (decide (type < 6) || decide (d.ropeVer = 2))) = true := by simpa [hup] using h
  rw [Dev.ropeSend, if_pos hon, Dev.ropeEmit, if_neg h0]
  rfl

theorem Dev.ropeSend_lacks {type : Nat} (data : Bytes) (h6 : 6 ≤ type) (hv : d.ropeVer ≠ 2) : d.ropeSend type data = d :=
  if_neg (by simp [h6, hv])

section
variable {c n : Nat} {x : Bytes} {rest : List (Nat × Bytes)}

/-- The message held longest is committed where its channel has room. -/
theorem Dev.ropeCommit_held (hh : d.rope.mboxHeld = (n, x) :: rest) (hc : d.liveFld R.ropeCfg 20 13 = c) : d.ropeCommit 0 c =
    if (d.chan 0 c).length < 4 then
      (if d.ioFld R.ropeStat 1 0 = 2 then (d.onRope (fun r => { r with mboxHeld := rest, mboxSeen := some n })).ropeEmit 3 0 (mboxCpl n)
       else d.onRope (fun r => { r with mboxHeld := rest, mboxSeen := some n })).chanPush 0 c ⟨x, 0x201, 0⟩
    else d := by
  unfold Dev.ropeCommit
  rw [hh, hc]
  simp only [decide_true, Bool.true_and, decide_eq_true_eq]
  rfl

end

section
variable {s : State}

/-- What a frame of a type at the negotiated version does. -/
theorem exec_ropeFrame {i : Instr} {type ver : Nat} {f : Dev → Dev} {e : Dev}
    (hi : exec i s = s.run (fun d => d.ropeFrame type ver f)) (hver : ver = s.dev.ropeVer) (hup : s.dev.ropeUp = true)
    (h : type < 6 ∨ s.dev.ropeVer = 2) (hf : f s.dev = e) : exec i s = .next (s.withDev e) := by
  subst hver
  exact exec_withDev_congr hi ((Dev.ropeFrame_acts f hup h).trans hf)

end

/-- Settles O55: the codes of the partner's writes, the requests of this device, and what each frame does in UP. -/
theorem ropeTraffic : Obligations.RopeTraffic := by
  unfold Obligations.RopeTraffic
  refine ⟨⟨?writes, ?reads, fun s => ⟨?own, ?cpl, ?ends, ?timeout, ?peer, ?mbox⟩⟩, ?send, ?commit, fun s hup => ?frames⟩
  case writes =>
    intro d peer o v be e
    exact ⟨Dev.peerWrite_now, fun w => Dev.peerWrite_staged, Dev.peerCode_part, Dev.peerCode_plain⟩
  case reads => exact fun s peer o => ⟨State.peerRead_now, fun w => State.peerRead_waits⟩
  case own =>
    intro row hrow m hp hs ho hop
    have hgo := Dev.ropeGo_request (mine := fun op => op = row.2) hp hs ho (decide_eq_true hop)
    rw [exec_ropeReq hrow, hgo, hop]
    refine ⟨fun hb => by rw [if_pos hb], fun hb hup => ?_, fun hb hup => ?_⟩
    · rw [if_neg (Bool.eq_false_iff.mp hb), if_pos (by rw [hup]; rfl)]
    · rw [if_neg (Bool.eq_false_iff.mp hb), if_neg (by rw [hup]; decide)]
  case cpl =>
    intro m q code data hup hq hcode
    have hword : code % 2 ^ 8 = code := Nat.mod_eq_of_lt hcode
    refine ⟨fun hop => exec_ropeFrame rfl rfl hup (.inl (by decide)) ?_, fun hop => exec_ropeFrame rfl rfl hup (.inl (by decide)) ?_⟩
    · show s.dev.ropeCpl m code data = _
      simp only [Dev.ropeCpl, hq, hop, if_true, hword]
    · show s.dev.ropeCpl m code data = _
      simp only [Dev.ropeCpl, hq, hop, if_false, hword]
  case ends => exact fun m code _ hc => Dev.ropeReqEnd_ends hc
  case timeout =>
    intro m q hq hlate
    refine exec_withDev_congr rfl ?_
    simp only [hq, hlate, if_true]
  case peer =>
    intro peer off data be hup hpeer hoff h4 hdata
    have ho : off % 2 ^ 28 / 4 * 4 = off := by omega
    have hp : peer % 8 = peer := Nat.mod_eq_of_lt hpeer
    have hd : data % 2 ^ 32 = data := Nat.mod_eq_of_lt hdata
    refine ⟨?_, ?_⟩
    · refine exec_ropeFrame (type := 2)
        (f := fun d => (d.ropeCount 2).peerWrite (peer % 8) (off % 2 ^ 28 / 4 * 4) (data % 2 ^ 32) be) rfl rfl hup (.inl (by decide)) ?_
      rw [ho, hp, hd]
    · refine (if_neg (by simp [hup])).trans ?_
      rw [ho, hp]
  case mbox =>
    intro n x code data hup hm
    refine ⟨exec_ropeFrame rfl rfl hup (.inl (by decide)) ?_, fun m hne => exec_ropeFrame rfl rfl hup (.inl (by decide)) ?_⟩
    · show s.dev.mboxDone n = _
      simp only [Dev.mboxDone, hm, if_true]
    · show s.dev.mboxDone m = _
      simp only [Dev.mboxDone, hm, if_neg (Ne.symm hne)]
  case send =>
    exact fun d type data hup => ⟨fun ⟨h, h0⟩ => Dev.ropeSend_sends hup data h h0, fun h6 hv => Dev.ropeSend_lacks data h6 hv⟩
  case commit =>
    intro d c n x rest hh hc
    rw [Dev.ropeCommit_held hh hc]
    refine ⟨fun hroom hup => ?_, fun hroom hup => ?_, fun hfull => if_neg (Nat.not_lt.mpr hfull)⟩
    · rw [if_pos hroom, if_pos hup]
    · rw [if_pos hroom, if_neg hup]
  case frames =>
    intro v
    refine ⟨?other, ?early, ?reserved, ?data, ?notice, ?dmaRead, ?dmaPoison, ?dmaWrite, ?dmaData, ?mail, ?mailSend, ?mirror⟩
    case other =>
      intro ver hne i j k n b f c hc
      have hdrop (type : Nat) (g : Dev → Dev) : s.run (fun d => d.ropeFrame type ver g) = .next (s.withDev (s.dev.ropeCount 1)) :=
        congrArg (fun d => Host.Outcome.next (s.withDev d)) (Dev.ropeFrame_drops g hup (.inl hne))
      revert c
      simp only [List.forall_mem_cons, List.not_mem_nil, false_imp_iff, implies_true, and_true]
      refine ⟨hdrop 1 _, (if_pos ?_).trans (hdrop 2 _), hdrop 3 _, hdrop 4 _, hdrop 7 _, hdrop 5 _, hdrop 6 _⟩
      rw [decide_eq_true hne, Bool.or_true]
    case early =>
      intro hv i j k n f
      have hdrop (type : Nat) (h6 : 6 ≤ type) (g : Dev → Dev) :
          s.run (fun d => d.ropeFrame type v g) = .next (s.withDev (s.dev.ropeCount 1)) :=
        congrArg (fun d => Host.Outcome.next (s.withDev d)) (Dev.ropeFrame_drops g hup (.inr ⟨h6, hv⟩))
      simp only [List.forall_mem_cons, List.not_mem_nil, false_imp_iff, implies_true, and_true]
      exact ⟨hdrop 7 (by decide) _, hdrop 6 (by decide) _⟩
    case reserved =>
      intro type ver ch f h8
      refine exec_withDev_congr rfl ((if_pos h8).trans ?_)
      simp only [Dev.ropeFrame, hup, Bool.not_true, Bool.false_eq_true, if_false, ite_self]
    case data =>
      intro ch f hch hs
      refine exec_withDev_congr rfl ((if_neg (by simp)).trans ((if_neg (by simp)).trans ?_))
      refine (Dev.ropeFrame_acts _ hup (.inl (by decide))).trans ?_
      have htag : ch % 2 ^ 12 = ch := Nat.mod_eq_of_lt hch
      rw [if_pos hs, htag]
    case notice =>
      intro i
      exact ⟨fun hi => exec_ropeFrame rfl rfl hup (.inl (by decide)) (if_pos (by simp [hi])),
        fun hi => exec_ropeFrame rfl rfl hup (.inl (by decide)) ((if_neg (by simp)).trans (if_pos (by simp [hi])))⟩
    case dmaRead =>
      intro tag a n data hv hfit hsound
      refine exec_ropeFrame rfl hv.symm hup (.inr hv) ((if_neg (Nat.not_lt.mpr hfit)).trans (if_neg ?_))
      rw [hsound]
      decide
    case dmaPoison =>
      intro tag a n data hv hfit hbad
      exact exec_ropeFrame rfl hv.symm hup (.inr hv) ((if_neg (Nat.not_lt.mpr hfit)).trans (if_pos hbad))
    case dmaWrite =>
      intro tag a n data hv hfit
      exact exec_ropeFrame rfl hv.symm hup (.inr hv) (if_neg (Nat.not_lt.mpr hfit))
    case dmaData =>
      intro tag a n data r hv hr hm
      refine ⟨fun hlen => exec_ropeFrame rfl hv.symm hup (.inr hv) ?_, exec_ropeFrame rfl hv.symm hup (.inr hv) ?_⟩
      · rw [hr]
        exact if_pos (by rw [hm, hlen]; simp)
      · rw [hr]
        exact if_pos hm
    case mail =>
      intro data hlen n hn
      have hwhole : (decide (data.length = 64) && decide (n < 2 ^ 32)) = true := by rw [decide_eq_true hlen, decide_eq_true hn]; rfl
      refine ⟨fun hoff => exec_ropeFrame rfl rfl hup (.inl (by decide)) ((if_pos hwhole).trans ?_),
        fun hon hseen => exec_ropeFrame rfl rfl hup (.inl (by decide)) ((if_pos hwhole).trans ?_),
        fun hon hnew hnone => exec_ropeFrame rfl rfl hup (.inl (by decide)) ((if_pos hwhole).trans ?_)⟩
      · exact if_pos (by rw [hoff]; rfl)
      · exact (if_neg (by rw [hon]; decide)).trans (if_pos hseen)
      · refine (if_neg (by rw [hon]; decide)).trans ((if_neg hnew).trans ((if_neg (by rw [hnone]; simp)).trans ?_))
        have hheld : s.dev.onRope (fun r => { r with mboxHeld := r.mboxHeld ++ [(n, data)] }) =
            s.dev.onRope (fun r => { r with mboxHeld := [(n, data)] }) :=
          congrArg (fun l => s.dev.onRope (fun r => { r with mboxHeld := l ++ [(n, data)] })) hnone
        rw [hheld]
    case mailSend =>
      intro x rest hs hon hidle hchan
      refine exec_withDev_congr rfl ?_
      simp only [Dev.mboxSend, hup, hs, hidle, hchan, hon, Bool.not_true, Bool.or_false, Bool.false_eq_true, if_false]
    case mirror =>
      intro data hv
      refine ⟨fun hlen hon => exec_ropeFrame rfl hv.symm hup (.inr hv) ?_, fun hlen hon => exec_ropeFrame rfl hv.symm hup (.inr hv) ?_,
        fun hoff => exec_ropeFrame rfl hv.symm hup (.inr hv) ?_, fun hoff => exec_ropeFrame rfl hv.symm hup (.inr hv) ?_⟩
      · exact (if_neg (by rw [hon]; decide)).trans (if_pos hlen)
      · exact (if_neg (by rw [hon]; decide)).trans (if_pos hlen)
      · exact if_pos (by rw [hoff]; rfl)
      · exact if_pos (by rw [hoff]; rfl)

end Sys2Proof.Machine
end

section
/-! PROOF. Lanes, pins and temperature (chapter 19, O57). -/

namespace Sys2Proof.Machine

variable {d : Dev}

/-! ## Lanes (R476 to R478) -/

/-- A record leaves the registers. -/
theorem Dev.laneState_incident (block code actor x y l : Nat) : (d.incident block code actor x y).laneState l = d.laneState l := (rfl)

/-- A fenced lane is off, with its fault. -/
theorem Dev.fenceLane_off {l f : Nat} (hf : f ≤ 3) : (d.fenceLane l f).laneState l = 3
    ∧ (d.fenceLane l f).ioFld (R.laneStat + 4 * l) 3 2 = f := by
  have hlane (e : Dev) : ((e.setLane l 1 0 3).setLane l 3 2 f).laneState l = 3
      ∧ ((e.setLane l 1 0 3).setLane l 3 2 f).ioFld (R.laneStat + 4 * l) 3 2 = f :=
    ⟨(Dev.ioFld_setLane_disj _ l f (by decide) (by decide) (by decide)).trans (Dev.ioFld_setLane_same _ l 3 (by decide) (by decide)),
      (Dev.ioFld_setLane_same _ l f (by decide) (by decide)).trans (Nat.mod_eq_of_lt (Nat.lt_succ_of_le hf))⟩
  unfold Dev.fenceLane
  dsimp only
  split
  · exact hlane _
  · exact hlane _

theorem Dev.ioFld_onHlth (f : Hlth → Hlth) (p hi lo : Nat) : (d.onHlth f).ioFld p hi lo = d.ioFld p hi lo := (rfl)

theorem Dev.io_onHlth (f : Hlth → Hlth) (p : Nat) : (d.onHlth f).io p = d.io p := (rfl)

/-- A lane tried with the other polarity seeks its link. -/
theorem Dev.setLane_tried (l : Nat) {v : Nat} (hv : v ≤ 1) :
    ((d.setLane l 1 0 1).setLane l 5 5 (1 - v)).ioFld (R.laneStat + 4 * l) 5 5 = 1 - v
    ∧ ((d.setLane l 1 0 1).setLane l 5 5 (1 - v)).laneState l = 1 := by
  refine ⟨(Dev.ioFld_setLane_same _ l _ (by decide) (by decide)).trans (Nat.mod_eq_of_lt ?_), ?_⟩
  · omega
  · exact (Dev.ioFld_setLane_disj _ l _ (by decide) (by decide) (by decide)).trans (Dev.ioFld_setLane_same _ l 1 (by decide) (by decide))

/-! ## Temperature (R483, R484, R487) -/

/-- A sample shows its reading; one that fails its check is not valid. -/
theorem Dev.sensorRead_shows (x : Nat) (t : Int) : (d.sensorRead x (some t)).io (R.hlthTemp + 4 * x) = ofSigned 8 t + 2 ^ 8
    ∧ bitOf ((d.sensorRead x none).io (R.hlthTemp + 4 * x)) 8 = false := by
  refine ⟨?_, ?_⟩
  · have hlt := ofSigned_lt 8 t
    refine (Dev.io_onHlth ..).trans ((Dev.io_setIo_same ..).trans (Nat.mod_eq_of_lt ?_))
    omega
  · have hclear : (d.setIoFld (R.hlthTemp + 4 * x) 8 8 0).ioFld (R.hlthTemp + 4 * x) 8 8 = 0 :=
      Dev.ioFld_setIoFld_same _ _ _ _ _ (by decide) (by decide)
    have hbit : bitOf ((d.setIoFld (R.hlthTemp + 4 * x) 8 8 0).io (R.hlthTemp + 4 * x)) 8 = false := by
      simp only [Dev.ioFld, bits] at hclear
      simp only [bitOf, beq_eq_false_iff_ne]
      omega
    simp only [Dev.sensorRead]
    split
    · exact hbit
    · exact hbit

theorem Dev.xtempRead_shows (x : Nat) (t : Int) : (d.xtempRead x (some t)).ioFld (R.hlthXtemp + 4 * x) 7 0 = ofSigned 8 t
    ∧ (d.xtempRead x (some t)).ioFld (R.hlthXtemp + 4 * x) 9 8 = 0 := by
  refine ⟨(Dev.ioFld_onHlth ..).trans ?_, (Dev.ioFld_onHlth ..).trans ?_⟩
  · exact (Dev.ioFld_setIoFld_disj _ _ _ _ _ _ _ (by decide) (by decide) (by decide)).trans
      ((Dev.ioFld_setIoFld_same _ _ _ _ _ (by decide) (by decide)).trans (Nat.mod_eq_of_lt (ofSigned_lt 8 t)))
  · exact Dev.ioFld_setIoFld_same _ _ _ _ _ (by decide) (by decide)

/-- The level shows in HLTH_TDIE, and the count of cool boundaries begins anew. -/
theorem Dev.setLevel_sets {n : Nat} (c : Nat) (hn : n < 4) : (d.setLevel n c).ioFld R.hlthTdie 17 16 = n ∧ (d.setLevel n c).hlth.cool = 0 := by
  refine ⟨?_, rfl⟩
  unfold Dev.setLevel
  rw [Dev.ioFld_incident, Dev.ioFld_onHlth, Dev.ioFld_setIoFld_same _ _ _ _ _ (by decide) (by decide)]
  exact Nat.mod_eq_of_lt hn

/-- The level of a temperature is the highest whose limit it reaches. -/
theorem Dev.levelFor_highest {t less : Int} {n : Nat} (h : d.levelFor t less = n) : n ≤ 3 ∧ (n ≠ 0 → d.levelAt n - less ≤ t)
    ∧ ∀ k, n < k → k ≤ 3 → t < d.levelAt k - less := by
  unfold Dev.levelFor at h
  split at h
  case isTrue h3 =>
    subst h
    exact ⟨le_refl _, fun _ => h3, fun k hk hk3 => absurd hk3 (Nat.not_le.mpr hk)⟩
  case isFalse h3 =>
    split at h
    case isTrue h2 =>
      subst h
      refine ⟨by decide, fun _ => h2, fun k hk hk3 => ?_⟩
      obtain rfl : k = 3 := by omega
      exact not_le.mp h3
    case isFalse h2 =>
      split at h
      case isTrue h1 =>
        subst h
        refine ⟨by decide, fun _ => h1, fun k hk hk3 => ?_⟩
        obtain rfl | rfl : k = 2 ∨ k = 3 := by omega
        · exact not_le.mp h2
        · exact not_le.mp h3
      case isFalse h1 =>
        subst h
        refine ⟨by decide, fun h => absurd rfl h, fun k hk hk3 => ?_⟩
        obtain rfl | rfl | rfl : k = 1 ∨ k = 2 ∨ k = 3 := by omega
        · exact not_le.mp h1
        · exact not_le.mp h2
        · exact not_le.mp h3

/-! ## The highest reading (R484) -/

/-- One reading more: a higher one takes the place of the highest before it. -/
def hotter (a : Option (Nat × Int)) (x : Nat × Int) : Option (Nat × Int) :=
  match a with | some y => if y.2 < x.2 then some x else a | none => some x

theorem hottest_eq (l : List (Nat × Int)) : hottest l = l.foldl hotter none := (rfl)

theorem hottest_append (l : List (Nat × Int)) (x : Nat × Int) : hottest (l ++ [x]) = hotter (hottest l) x := by
  rw [hottest_eq, hottest_eq, List.foldl_append]
  rfl

theorem hottest_eq_none {l : List (Nat × Int)} : hottest l = none ↔ l = [] := by
  induction l using List.reverseRecOn with
  | nil => exact ⟨fun _ => rfl, fun _ => rfl⟩
  | append_singleton l x =>
    have hsome : hotter (hottest l) x ≠ none := by
      unfold hotter
      cases hottest l with
      | none => exact Option.some_ne_none _
      | some y =>
        dsimp only
        split <;> exact Option.some_ne_none _
    rw [hottest_append]
    simp [hsome]

/-- The highest reading is the first that is highest. -/
theorem hottest_first {l : List (Nat × Int)} {x : Nat × Int} (h : hottest l = some x) :
    ∃ pre post, l = pre ++ x :: post ∧ (∀ y ∈ pre, y.2 < x.2) ∧ ∀ y ∈ post, y.2 ≤ x.2 := by
  induction l using List.reverseRecOn generalizing x with
  | nil => cases h
  | append_singleton l z ih =>
    rw [hottest_append] at h
    cases hl : hottest l with
    | none =>
      rw [hl] at h
      cases h
      exact ⟨[], [], by rw [hottest_eq_none.mp hl], by simp, by simp⟩
    | some y =>
      obtain ⟨pre, post, rfl, hpre, hpost⟩ := ih hl
      rw [hl] at h
      by_cases hlt : y.2 < z.2
      · obtain rfl : z = x := by simpa [hotter, hlt] using h
        refine ⟨pre ++ y :: post, [], by simp, fun w hw => ?_, by simp⟩
        rcases List.mem_append.mp hw with hw | hw
        · exact (hpre w hw).trans hlt
        · rcases List.mem_cons.mp hw with rfl | hw
          · exact hlt
          · exact lt_of_le_of_lt (hpost w hw) hlt
      · obtain rfl : y = x := by simpa [hotter, hlt] using h
        refine ⟨pre, post ++ [z], by simp, hpre, List.forall_mem_append.mpr ⟨hpost, ?_⟩⟩
        exact List.forall_mem_singleton.mpr (not_lt.mp hlt)

/-- The readings stand in the order of their sensors. -/
theorem Dev.readings_ordered (d : Dev) : d.readings.Pairwise (fun a b => a.1 < b.1) := by
  unfold Dev.readings
  refine List.Pairwise.filterMap _ (R := (· < ·)) (fun a b hab x hx y hy => ?_) List.pairwise_lt_range
  have hnum {s : Nat} {x : Nat × Int} (h : (if s < 40 then
      let w := d.io (R.hlthTemp + 4 * s)
      if bitOf w 8 then some (s, toSigned 8 w) else none
    else
      let o := R.hlthXtemp + 4 * (s - 40)
      if bitOf (d.live o) 10 && d.ioFld o 9 8 = 0 && spGet false d.hlth.seen (s - 40) then some (s, toSigned 8 (d.io o)) else none)
      = some x) : x.1 = s := by
    split at h
    · dsimp only at h
      split at h
      · cases h; rfl
      · cases h
    · dsimp only at h
      split at h
      · cases h; rfl
      · cases h
  rw [hnum hx, hnum hy]
  exact hab

/-! ## Pins (R481, R482) -/

theorem maskBits_single {p : Nat} (hp : p < 18) : maskBits 18 (2 ^ p) = [p] := by
  interval_cases p <;> decide

/-- A fault cleared for one pin. -/
theorem Dev.faultClear_one {m p : Nat} (hpath : d.noPath m = false) (hs : d.serving = true) (hp : p < 18) :
    d.faultClear m (2 ^ p) = (d.setIoFld R.hlthGpioFault p p 0).onHlth (fun h => { h with highZ := spErase h.highZ p }) := by
  rw [Dev.faultClear, Dev.doorbell_acts _ _ _ _ _ _ _ hpath (Dev.blockOpen_of_serving _ hs _) (.inl rfl)
    (Nat.pow_lt_pow_right (by decide) hp), maskBits_single hp]
  rfl

theorem Dev.mode_holdTemp (t : Int) : (d.holdTemp t).mode = d.mode := by
  unfold Dev.holdTemp
  split <;> rfl

section
variable {s : State} {l h : Nat}

/-- An eye that was measured: recorded once below its margin, told again once it was above. -/
theorem exec_eyeMarginCheck (hs : s.dev.serving = true) (hl : l < 20) (hh : h < 256)
    (hdue : spGet 0 s.dev.hlth.eyeTest l + 2 ^ 20 ≤ s.dev.drip.now) {d : Dev}
    (hd : (s.dev.setLane l 23 16 h).onHlth (fun x => { x with eyeTest := spSet 0 x.eyeTest l s.dev.drip.now }) = d) :
    exec (.eyeMarginCheck l h) s = .next (s.withDev
      (if (decide (h < d.liveFld (R.laneCfg + 4 * l) 9 2) && !spGet false d.hlth.eyeLow l) = true then
        (d.onHlth (fun x => { x with eyeLow := spPut x.eyeLow l true })).incident 4 Code.timeout 0 l h
      else if d.liveFld (R.laneCfg + 4 * l) 9 2 < h then d.onHlth (fun x => { x with eyeLow := spErase x.eyeLow l })
      else d)) := by
  have hword : h % 2 ^ 8 = h := Nat.mod_eq_of_lt hh
  have hon : (s.dev.serving && decide (l < 20) && decide (spGet 0 s.dev.hlth.eyeTest l + 2 ^ 20 ≤ s.dev.drip.now)) = true := by
    rw [hs, decide_eq_true hl, decide_eq_true hdue]
    rfl
  refine exec_withDev_congr rfl ((if_pos hon).trans ?_)
  rw [hd, hword]

end

/-- Settles O57: lanes and pins with their faults, and the sensors with the level they lead to. -/
theorem lanesPinsAndTemperature : Obligations.LanesPinsAndTemperature := by
  unfold Obligations.LanesPinsAndTemperature
  refine ⟨fun s => ⟨?fence, ?rx, ?tx, ?early, ?eye, ?short, ?clear, ?fault⟩, ?sample, fun d x t _ _ _ => d.sensorRead_shows x t,
    ?drop, fun d n c hn => Dev.setLevel_sets c hn, fun d t less n => Dev.levelFor_highest, fun d x t _ _ _ => d.xtempRead_shows x t,
    fun l x => hottest_first, Dev.readings_ordered, fun l => hottest_eq_none⟩
  case fence =>
    intro l f hlive hl h1 h3 hst
    obtain ⟨hoff, hfault⟩ := s.dev.fenceLane_off (l := l) h3
    exact ⟨exec_withDev_congr rfl (if_pos (by simp [hlive, hl, h1, h3, hst])), hoff, hfault⟩
  case rx => exact fun l hseek => exec_withDev_congr rfl (if_pos hseek)
  case tx =>
    intro l hseek hauto hnew
    have hbit : s.dev.ioFld (R.laneStat + 4 * l) 5 5 ≤ 1 := by
      simp only [Dev.ioFld, bits]
      omega
    obtain ⟨hpol, hst⟩ := s.dev.setLane_tried l hbit
    exact ⟨_, exec_withDev_congr rfl (if_pos (by simp [hseek, hauto, hnew])), hpol, hst⟩
  case early =>
    intro l h hs hl hearly
    exact exec_withDev_congr rfl (if_neg (by simp [-Nat.reducePow, hs, hl, hearly]))
  case eye =>
    intro l h hs hl hh hdue d
    have hrun := exec_eyeMarginCheck hs hl hh hdue (d := d) rfl
    rw [hrun]
    refine ⟨fun hlow hnew => ?_, fun hlow htold => ?_, fun heq => ?_, fun hhigh => ?_⟩
    · rw [if_pos (by rw [decide_eq_true hlow, hnew]; rfl)]
    · rw [if_neg (by rw [htold]; simp), if_neg (Nat.not_lt.mpr hlow.le)]
    · rw [if_neg (by rw [decide_eq_false (by omega)]; simp), if_neg (by omega)]
    · rw [if_neg (by rw [decide_eq_false (by omega)]; simp), if_pos hhigh]
  case short =>
    intro p hm hdrive hz v
    exact exec_withDev_congr rfl (if_pos (by simp [hm, hdrive, hz]))
  case clear => exact fun m p hpath hs hp => exec_withDev_congr rfl (Dev.faultClear_one hpath hs hp)
  case fault =>
    intro x f hm hx hf hnew
    exact exec_withDev_congr rfl (if_pos (by simp [hm, hx, hf, hnew]))
  case sample =>
    intro s temps sr hm
    exact exec_withDev_congr rfl (if_neg (by rw [Dev.mode_holdTemp]; exact hm))
  case drop => exact fun s hs hcool => exec_withDev_congr rfl (if_pos (by simp [hs, hcool]))

end Sys2Proof.Machine
end

section
/-! PROOF. The seal and the change counter (R372, R373, O60): what of the device the statement reads, and that
the state, registers, cells and memory leave it. -/

namespace Sys2Proof.Machine

/-- What the statement on the seal reads of the device: the change counter and whether the seal is intact. -/
def Dev.sealPart (d : Dev) : Nat × Bool := (d.strong.chg, d.strong.sealOk)

@[simp] theorem Dev.sealPart_foldl {α : Type} (f : Dev → α → Dev) (l : List α) (d : Dev)
    (h : ∀ b a, (f b a).sealPart = b.sealPart) :
    (l.foldl f d).sealPart = d.sealPart := foldl_part Dev.sealPart f h l d

/-- A change of the Strongroom that leaves both leaves what the statement reads. -/
@[simp] theorem Dev.sealPart_onStrong (d : Dev) (f : Strong → Strong) (h : ∀ s, (f s).chg = s.chg ∧ (f s).sealOk = s.sealOk) :
    (d.onStrong f).sealPart = d.sealPart := by simp [Dev.sealPart, Dev.onStrong, h]

/-- A device that a function may answer is as `d` in what the statement reads. -/
def Dev.keepsSeal (d : Dev) (o : Option Dev) : Prop := ∀ e ∈ o, e.sealPart = d.sealPart

@[simp] theorem Dev.keepsSeal_none (d : Dev) : d.keepsSeal none := by simp [Dev.keepsSeal]

@[simp] theorem Dev.keepsSeal_some (d e : Dev) : d.keepsSeal (some e) ↔ e.sealPart = d.sealPart := by simp [Dev.keepsSeal]

theorem Dev.keepsSeal_ite (d : Dev) {p : Prop} [Decidable p] {a b : Option Dev} (ha : d.keepsSeal a) (hb : d.keepsSeal b) :
    d.keepsSeal (if p then a else b) := by split <;> assumption

@[simp] theorem Strong.chg_pass (s : Strong) (x : Nat) : (s.pass x).chg = s.chg := by unfold Strong.pass; split <;> rfl
@[simp] theorem Strong.sealOk_pass (s : Strong) (x : Nat) : (s.pass x).sealOk = s.sealOk := by unfold Strong.pass; split <;> rfl
@[simp] theorem Strong.chg_signPage (s : Strong) : s.signPage.chg = s.chg := by unfold Strong.signPage; split <;> rfl
@[simp] theorem Strong.sealOk_signPage (s : Strong) : s.signPage.sealOk = s.sealOk := by unfold Strong.signPage; split <;> rfl
@[simp] theorem Strong.chg_storePages (s : Strong) :
    s.storePages.chg = s.chg := foldl_part Strong.chg Strong.storePage (fun _ _ => rfl) s.closing s
@[simp] theorem Strong.sealOk_storePages (s : Strong) : s.storePages.sealOk = s.sealOk :=
  foldl_part Strong.sealOk Strong.storePage (fun _ _ => rfl) s.closing s

@[simp] theorem Dev.sealPart_ite {p : Prop} [Decidable p] (a b : Dev) :
    (if p then a else b).sealPart = if p then a.sealPart else b.sealPart := apply_ite ..

/-- The device of a pair that a function answers. -/
theorem Dev.sealPart_of_pair {α : Type} {x : α × Dev} {a : α} {e d : Dev} (hx : x = (a, e)) (h : x.2.sealPart = d.sealPart) :
    e.sealPart = d.sealPart := by rw [hx] at h; exact h

/-! ## The parts of the device -/

@[simp] theorem Dev.sealPart_onCsr (d : Dev) (f : Csr → Csr) : (d.onCsr f).sealPart = d.sealPart := (rfl)

@[simp] theorem Dev.sealPart_onDrip (d : Dev) (f : Drip → Drip) : (d.onDrip f).sealPart = d.sealPart := (rfl)

@[simp] theorem Dev.sealPart_onHost (d : Dev) (f : HostPort → HostPort) : (d.onHost f).sealPart = d.sealPart := (rfl)

@[simp] theorem Dev.sealPart_onLard (d : Dev) (f : Lard → Lard) : (d.onLard f).sealPart = d.sealPart := (rfl)

@[simp] theorem Dev.sealPart_onEgrs (d : Dev) (f : Egrs → Egrs) : (d.onEgrs f).sealPart = d.sealPart := (rfl)

@[simp] theorem Dev.sealPart_onIngr (d : Dev) (f : Ingr → Ingr) : (d.onIngr f).sealPart = d.sealPart := (rfl)

@[simp] theorem Dev.sealPart_onCores (d : Dev) (f : Cores → Cores) : (d.onCores f).sealPart = d.sealPart := (rfl)

@[simp] theorem Dev.sealPart_onHelp (d : Dev) (f : Help → Help) : (d.onHelp f).sealPart = d.sealPart := (rfl)

@[simp] theorem Dev.sealPart_onDisp (d : Dev) (f : Disp → Disp) : (d.onDisp f).sealPart = d.sealPart := (rfl)

@[simp] theorem Dev.sealPart_onDmem (d : Dev) (f : DramMem → DramMem) : (d.onDmem f).sealPart = d.sealPart := (rfl)

@[simp] theorem Dev.sealPart_onFwd (d : Dev) (f : Fwd → Fwd) : (d.onFwd f).sealPart = d.sealPart := (rfl)

@[simp] theorem Dev.sealPart_onBook (d : Dev) (f : Book → Book) : (d.onBook f).sealPart = d.sealPart := (rfl)

@[simp] theorem Dev.sealPart_onSess (d : Dev) (f : Sess → Sess) : (d.onSess f).sealPart = d.sealPart := (rfl)

@[simp] theorem Dev.sealPart_onPool (d : Dev) (f : SealPool → SealPool) : (d.onPool f).sealPart = d.sealPart := (rfl)

@[simp] theorem Dev.sealPart_onFmt (d : Dev) (f : FmtPool → FmtPool) : (d.onFmt f).sealPart = d.sealPart := (rfl)

@[simp] theorem Dev.sealPart_onLode (d : Dev) (f : Lode → Lode) : (d.onLode f).sealPart = d.sealPart := (rfl)

@[simp] theorem Dev.sealPart_onDctl (d : Dev) (f : DramCtl → DramCtl) : (d.onDctl f).sealPart = d.sealPart := (rfl)

@[simp] theorem Dev.sealPart_onLoad (d : Dev) (f : Load → Load) : (d.onLoad f).sealPart = d.sealPart := (rfl)

@[simp] theorem Dev.sealPart_onRope (d : Dev) (f : Rope → Rope) : (d.onRope f).sealPart = d.sealPart := (rfl)

@[simp] theorem Dev.sealPart_onHlth (d : Dev) (f : Hlth → Hlth) : (d.onHlth f).sealPart = d.sealPart := (rfl)

@[simp] theorem Dev.sealPart_onElec (d : Dev) (f : Elec → Elec) : (d.onElec f).sealPart = d.sealPart := (rfl)

/-! ## Registers, records and time -/

@[simp] theorem Dev.sealPart_emit (d : Dev) (o : Out) : (d.emit o).sealPart = d.sealPart := (rfl)

@[simp] theorem Dev.sealPart_freeStep (d : Dev) : d.freeStep.sealPart = d.sealPart := (rfl)

@[simp] theorem Dev.sealPart_setIo (d : Dev) (o v : Nat) : (d.setIo o v).sealPart = d.sealPart := (rfl)

@[simp] theorem Dev.sealPart_setIoFld (d : Dev) (o hi lo v : Nat) : (d.setIoFld o hi lo v).sealPart = d.sealPart := (rfl)

@[simp] theorem Dev.sealPart_setIoBit (d : Dev) (o i : Nat) : (d.setIoBit o i).sealPart = d.sealPart := (rfl)

@[simp] theorem Dev.sealPart_bumpBy (d : Dev) (o n : Nat) : (d.bumpBy o n).sealPart = d.sealPart := (rfl)

@[simp] theorem Dev.sealPart_bump (d : Dev) (o : Nat) : (d.bump o).sealPart = d.sealPart := (rfl)

@[simp] theorem Dev.sealPart_setIo64 (d : Dev) (o v : Nat) : (d.setIo64 o v).sealPart = d.sealPart := (rfl)

@[simp] theorem Dev.sealPart_setPer (d : Dev) (m o v : Nat) : (d.setPer m o v).sealPart = d.sealPart := (rfl)

@[simp] theorem Dev.sealPart_setPerWords (m : Nat) (bs : List Nat) :
    ∀ (d : Dev) (a : Nat), (d.setPerWords m a bs).sealPart = d.sealPart := by
  induction bs with
  | nil => exact fun _ _ => rfl
  | cons b bs ih => intro d a; rw [Dev.setPerWords, ih]; simp

@[simp] theorem Dev.sealPart_setStat (d : Dev) (m o : Nat) (busy : Bool) (code : Nat) :
    (d.setStat m o busy code).sealPart = d.sealPart := (rfl)

@[simp] theorem Dev.sealPart_setGroup (d : Dev) (g : Nat) (v : Group) : (d.setGroup g v).sealPart = d.sealPart := (rfl)

@[simp] theorem Dev.sealPart_setBankWord (d : Dev) (b : Bool) (k v : Nat) : (d.setBankWord b k v).sealPart = d.sealPart := (rfl)

@[simp] theorem Dev.sealPart_setSlot (d : Dev) (s : Nat) (v : Slot) : (d.setSlot s v).sealPart = d.sealPart := (rfl)

@[simp] theorem Dev.sealPart_writeBank (b : Bool) (ks : List Nat) :
    ∀ (d : Dev) (ws : List Word), (d.writeBank b ks ws).sealPart = d.sealPart := by
  induction ks with
  | nil => intro d ws; cases ws <;> rfl
  | cons k ks ih =>
    intro d ws
    cases ws with
    | nil => rfl
    | cons w ws => rw [Dev.writeBank, ih]; simp

@[simp] theorem Dev.sealPart_drainGroup (d : Dev) (g : Nat) : (d.drainGroup g).sealPart = d.sealPart := by
  simp only [Dev.drainGroup]; split <;> simp

@[simp] theorem Dev.sealPart_refuse (d : Dev) (m addr code : Nat) : (d.refuse m addr code).sealPart = d.sealPart := (rfl)

@[simp] theorem Dev.sealPart_refuseOwner (d : Dev) (m addr stat : Nat) : (d.refuseOwner m addr stat).sealPart = d.sealPart := by
  simp [Dev.refuseOwner]

@[simp] theorem Dev.sealPart_reservedWrite (d : Dev) (kind place who : Nat) :
    (d.reservedWrite kind place who).sealPart = d.sealPart := by simp [Dev.reservedWrite]

@[simp] theorem Dev.sealPart_reservedCsr (d : Dev) (m addr : Nat) : (d.reservedCsr m addr).sealPart = d.sealPart := (rfl)

@[simp] theorem Dev.sealPart_lastWrite (d : Dev) (m off code : Nat) : (d.lastWrite m off code).sealPart = d.sealPart := by
  unfold Dev.lastWrite; split <;> simp

@[simp] theorem Dev.sealPart_doorbell (d : Dev) (m off : Nat) (named : List Nat) (width v : Nat) (act : Dev → Dev)
    (h : ∀ d, (act d).sealPart = d.sealPart) : (d.doorbell m off named width v act).sealPart = d.sealPart := by
  simp only [Dev.doorbell]
  (repeat' split) <;> simp [h]

@[simp] theorem Dev.sealPart_ropeEmit (d : Dev) (type chan : Nat) (data : Bytes) :
    (d.ropeEmit type chan data).sealPart = d.sealPart := (rfl)

@[simp] theorem Dev.sealPart_msix (d : Dev) (fn vec : Nat) : (d.msix fn vec).sealPart = d.sealPart := by
  simp [Dev.msix]

@[simp] theorem Dev.sealPart_incident (d : Dev) (block code actor arg0 arg1 : Nat) :
    (d.incident block code actor arg0 arg1).sealPart = d.sealPart := (rfl)

@[simp] theorem Dev.sealPart_vector (d : Dev) (v : Nat) : (d.vector v).sealPart = d.sealPart := (rfl)

/-! ## Cells and chains -/

@[simp] theorem Dev.sealPart_pfcTo (d old : Dev) (p m t : Nat) : (d.pfcTo old p m t).sealPart = d.sealPart := (rfl)

@[simp] theorem Dev.sealPart_sendPfc (d : Dev) (p t : Nat) : (d.sendPfc p t).sealPart = d.sealPart := by
  simp [Dev.sendPfc]

@[simp] theorem Dev.sealPart_poolMoved (d : Dev) (p : Nat) : (d.poolMoved p).sealPart = d.sealPart := by
  simp [Dev.poolMoved]

@[simp] theorem Dev.sealPart_onCells (d : Dev) (f : Map Cell → Map Cell) : (d.onCells f).sealPart = d.sealPart := (rfl)

@[simp] theorem Dev.sealPart_takeCells (tag p : Nat) (fl : Option Nat) (n : Nat) :
    ∀ (d : Dev) (hd : Nat), (d.takeCells tag p fl n hd).2.sealPart = d.sealPart := by
  induction n with
  | zero => exact fun _ _ => rfl
  | succ n ih => intro d hd; simp only [Dev.takeCells]; split <;> simp [ih]

@[simp] theorem Dev.sealPart_alloc (d : Dev) (tag p n : Nat) (fl : Option Nat) : (d.alloc tag p n fl).2.sealPart = d.sealPart := by
  simp only [Dev.alloc]
  (repeat' split) <;> simp

@[simp] theorem Dev.sealPart_mapCells (d : Dev) (l : List Nat) (f : Cell → Cell) : (d.mapCells l f).sealPart = d.sealPart := (rfl)

@[simp] theorem Dev.sealPart_retag (d : Dev) (c : Chain) (tag : Nat) : (d.retag c tag).sealPart = d.sealPart := (rfl)

@[simp] theorem Dev.sealPart_setFlight (d : Dev) (c : Chain) (g : Option Nat) : (d.setFlight c g).sealPart = d.sealPart := by
  simp [Dev.setFlight]

@[simp] theorem Dev.sealPart_testFreed (d : Dev) (i u : Nat) : (d.testFreed i u).sealPart = d.sealPart := by
  simp [Dev.testFreed]

@[simp] theorem Dev.sealPart_freeCell (d : Dev) (i : Nat) : (d.freeCell i).sealPart = d.sealPart := by
  unfold Dev.freeCell; split <;> simp

@[simp] theorem Dev.sealPart_freeList (d : Dev) (l : List Nat) : (d.freeList l).sealPart = d.sealPart := by
  simp [Dev.freeList]

@[simp] theorem Dev.sealPart_freeChain (d : Dev) (c : Chain) : (d.freeChain c).sealPart = d.sealPart := by
  simp [Dev.freeChain]

@[simp] theorem Dev.sealPart_joinChains (d : Dev) (a b : Chain) : (d.joinChains a b).2.sealPart = d.sealPart := by
  simp only [Dev.joinChains]; (repeat' split) <;> simp

@[simp] theorem Dev.sealPart_chainWrite (d : Dev) (c : Chain) (off : Nat) (bs : Bytes) :
    (d.chainWrite c off bs).sealPart = d.sealPart := (rfl)

@[simp] theorem Dev.sealPart_countCells (d : Dev) (cs : List Nat) : (d.countCells cs).sealPart = d.sealPart := (rfl)

@[simp] theorem Dev.sealPart_countChain (d : Dev) (c : Chain) : (d.countChain c).sealPart = d.sealPart := (rfl)

/-! ## Memory -/

@[simp] theorem Dev.sealPart_setThr (d : Dev) (id : Tid) (t : Thread) : (d.setThr id t).sealPart = d.sealPart := (rfl)

@[simp] theorem Dev.sealPart_updThr (d : Dev) (id : Tid) (f : Thread → Thread) : (d.updThr id f).sealPart = d.sealPart := (rfl)

@[simp] theorem Dev.sealPart_setGal (d : Dev) (g : Nat) (v : Gallery) : (d.setGal g v).sealPart = d.sealPart := (rfl)

@[simp] theorem Dev.sealPart_setLocalByte (d : Dev) (id : Tid) (a : Nat) (b : Byte) :
    (d.setLocalByte id a b).sealPart = d.sealPart := by simp [Dev.setLocalByte]

@[simp] theorem Dev.sealPart_setLocalBytes (id : Tid) (bs : Bytes) :
    ∀ (d : Dev) (a : Nat), (d.setLocalBytes id a bs).sealPart = d.sealPart := by
  induction bs with
  | nil => exact fun _ _ => rfl
  | cons b bs ih => intro d a; rw [Dev.setLocalBytes, ih]; simp

@[simp] theorem Dev.sealPart_setMemByte (d : Dev) (dram : Bool) (a : Nat) (b : Byte) :
    (d.setMemByte dram a b).sealPart = d.sealPart := by simp [Dev.setMemByte]

@[simp] theorem Dev.sealPart_setMemBytes (dram : Bool) (bs : Bytes) :
    ∀ (d : Dev) (a : Nat), (d.setMemBytes dram a bs).sealPart = d.sealPart := by
  induction bs with
  | nil => exact fun _ _ => rfl
  | cons b bs ih => intro d a; rw [Dev.setMemBytes, ih]; simp

@[simp] theorem Dev.sealPart_countRead (d : Dev) (dram : Bool) (a n : Nat) : (d.countRead dram a n).sealPart = d.sealPart := by
  unfold Dev.countRead
  split
  · rfl
  · exact Dev.sealPart_foldl _ _ _ (fun d l => by split <;> simp)

@[simp] theorem Dev.sealPart_clearPoison (d : Dev) (dram : Bool) (a n : Nat) : (d.clearPoison dram a n).sealPart = d.sealPart := by
  simp [Dev.clearPoison]

@[simp] theorem Dev.sealPart_writeMem (d : Dev) (dram : Bool) (a : Nat) (bs : Bytes) :
    (d.writeMem dram a bs).sealPart = d.sealPart := by simp [Dev.writeMem]

@[simp] theorem Dev.sealPart_masterMem (d : Dev) (dram : Bool) (a : Nat) (bs : Bytes) :
    (d.masterMem dram a bs).sealPart = d.sealPart := by simp [Dev.masterMem]

@[simp] theorem Dev.sealPart_setEntBytes (d : Dev) (gen id idx off : Nat) (bs : Bytes) :
    (d.setEntBytes gen id idx off bs).sealPart = d.sealPart := by simp [Dev.setEntBytes]

@[simp] theorem Dev.sealPart_countLoc (d : Dev) (id : Tid) (gen n : Nat) (a : Loc) :
    (d.countLoc id gen n a).sealPart = d.sealPart := by
  simp only [Dev.countLoc]
  (repeat' split) <;> simp

@[simp] theorem Dev.sealPart_writeLoc (d : Dev) (id : Tid) (gen n v : Nat) (a : Loc) :
    (d.writeLoc id gen n v a).sealPart = d.sealPart := by
  simp only [Dev.writeLoc]; (repeat' split) <;> simp

end Sys2Proof.Machine
end

section
/-! PROOF. The seal and the change counter (R372, R373, O60), left as they are by:
threads, latches, order and dispatch. -/

namespace Sys2Proof.Machine

/-! ## Threads -/

@[simp] theorem Dev.sealPart_setCode (d : Dev) (id : Tid) (code : Nat) (w : Bool) :
    (d.setCode id code w).sealPart = d.sealPart := (rfl)

@[simp] theorem Dev.sealPart_endWait (d : Dev) (id : Tid) : (d.endWait id).sealPart = d.sealPart := (rfl)

@[simp] theorem Dev.sealPart_endEventWait (d : Dev) (id : Tid) : (d.endEventWait id).sealPart = d.sealPart := by
  simp [Dev.endEventWait]

@[simp] theorem Dev.sealPart_waitCheck (d : Dev) (id : Tid) : (d.waitCheck id).sealPart = d.sealPart := by
  simp [Dev.waitCheck]

@[simp] theorem Dev.sealPart_event (d : Dev) (id : Tid) (bit : Nat) : (d.event id bit).sealPart = d.sealPart := by
  simp [Dev.event]

@[simp] theorem Dev.sealPart_keeperEvent (d : Dev) (g bit : Nat) : (d.keeperEvent g bit).sealPart = d.sealPart := by
  unfold Dev.keeperEvent; split <;> simp

@[simp] theorem Dev.sealPart_setChan (d : Dev) (g c : Nat) (l : List Msg) : (d.setChan g c l).sealPart = d.sealPart := (rfl)

@[simp] theorem Dev.sealPart_setSenders (d : Dev) (g c : Nat) (l : List Tid) : (d.setSenders g c l).sealPart = d.sealPart := (rfl)

@[simp] theorem Dev.sealPart_chtxEvents (d : Dev) (g c : Nat) : (d.chtxEvents g c).sealPart = d.sealPart := by
  simp [Dev.chtxEvents]

@[simp] theorem Dev.sealPart_recvInto (d : Dev) (id : Tid) (dst dst2 : Loc) (m : Msg) :
    (d.recvInto id dst dst2 m).sealPart = d.sealPart := by unfold Dev.recvInto; split <;> simp

@[simp] theorem Dev.sealPart_chanPush (d : Dev) (g c : Nat) (m : Msg) : (d.chanPush g c m).sealPart = d.sealPart := by
  simp only [Dev.chanPush]; (repeat' split) <;> simp

@[simp] theorem Dev.sealPart_acceptSender (d : Dev) (g c : Nat) : (d.acceptSender g c).sealPart = d.sealPart := by
  unfold Dev.acceptSender; split <;> simp

@[simp] theorem Dev.sealPart_ropeCommit (d : Dev) (g c : Nat) : (d.ropeCommit g c).sealPart = d.sealPart := by
  unfold Dev.ropeCommit; split <;> simp

@[simp] theorem Dev.sealPart_chanPop (d : Dev) (g c : Nat) : (d.chanPop g c).sealPart = d.sealPart := by
  unfold Dev.chanPop; split <;> simp

@[simp] theorem Dev.sealPart_leaveSenders (d : Dev) (id : Tid) : (d.leaveSenders id).sealPart = d.sealPart := (rfl)

@[simp] theorem Dev.sealPart_unstill (d : Dev) (id : Tid) : (d.unstill id).sealPart = d.sealPart := by
  unfold Dev.unstill; split <;> simp

/-! ## Latches -/

@[simp] theorem Dev.sealPart_setLatch (d : Dev) (n : Nat) (l : Latch) : (d.setLatch n l).sealPart = d.sealPart := (rfl)

@[simp] theorem Dev.sealPart_latchCount (d : Dev) (i : Nat) : (d.latchCount i).sealPart = d.sealPart := (rfl)

@[simp] theorem Dev.sealPart_latchGrant (d : Dev) (n tag rgen : Nat) (poisoned : Bool) (rest : List LWaiter) :
    (d.latchGrant n tag rgen poisoned rest).sealPart = d.sealPart := by simp [Dev.latchGrant]

@[simp] theorem Dev.sealPart_peerLatch (d : Dev) (n deadline code : Nat) : (d.peerLatch n deadline code).sealPart = d.sealPart := by
  unfold Dev.peerLatch; split <;> simp

@[simp] theorem Dev.sealPart_latchAnswer (d : Dev) (n : Nat) (w : LWaiter) (code : Nat) :
    (d.latchAnswer n w code).sealPart = d.sealPart := by
  simp only [Dev.latchAnswer]; (repeat' split) <;> simp

@[simp] theorem Dev.sealPart_latchEvents (d : Dev) (n : Nat) : (d.latchEvents n).sealPart = d.sealPart := by
  simp [Dev.latchEvents]

@[simp] theorem Dev.sealPart_latchFree (d : Dev) (n : Nat) (poisoned : Bool) : (d.latchFree n poisoned).sealPart = d.sealPart := by
  unfold Dev.latchFree; split <;> simp

@[simp] theorem Dev.sealPart_latchAcquire (d : Dev) (n tag deadline : Nat) (try_ : Bool) :
    (d.latchAcquire n tag deadline try_).2.sealPart = d.sealPart := by
  simp only [Dev.latchAcquire]; (repeat' split) <;> simp

@[simp] theorem Dev.sealPart_latchRelease (d : Dev) (n tag v : Nat) : (d.latchRelease n tag v).2.sealPart = d.sealPart := by
  simp only [Dev.latchRelease]; (repeat' split) <;> simp

@[simp] theorem Dev.sealPart_orphanLatch (d : Dev) (n : Nat) : (d.orphanLatch n).sealPart = d.sealPart := by
  simp [Dev.orphanLatch]

@[simp] theorem Dev.sealPart_orphanLatches (d : Dev) (tag : Nat) : (d.orphanLatches tag).sealPart = d.sealPart := by
  simp [Dev.orphanLatches]

@[simp] theorem Dev.sealPart_leaveLatches (d : Dev) (tag : Nat) : (d.leaveLatches tag).sealPart = d.sealPart := (rfl)

@[simp] theorem Dev.sealPart_endLatchWait (d : Dev) (n : Nat) (w : LWaiter) (code : Nat) :
    (d.endLatchWait n w code).sealPart = d.sealPart := by simp [Dev.endLatchWait]

@[simp] theorem Dev.sealPart_latchFlip (d : Dev) (wasStrict : List Nat) : (d.latchFlip wasStrict).sealPart = d.sealPart := by
  simp [Dev.latchFlip]

/-! ## The order of release -/

@[simp] theorem Dev.sealPart_setNextSeq (d : Dev) (dom n : Nat) : (d.setNextSeq dom n).sealPart = d.sealPart := (rfl)

@[simp] theorem Dev.sealPart_takeSeq (d : Dev) (dom : Nat) : (d.takeSeq dom).2.sealPart = d.sealPart := (rfl)

@[simp] theorem Dev.sealPart_lateDrop (d : Dev) (e : RoEntry) : (d.lateDrop e).sealPart = d.sealPart := by
  unfold Dev.lateDrop; split <;> simp

@[simp] theorem Dev.sealPart_reorderEnter (d : Dev) (e : RoEntry) : (d.reorderEnter e).sealPart = d.sealPart := by
  simp [Dev.reorderEnter]

@[simp] theorem Dev.sealPart_releaseEmpty (d : Dev) (dom s : Nat) : (d.releaseEmpty dom s).sealPart = d.sealPart := by
  simp [Dev.releaseEmpty]

@[simp] theorem Dev.sealPart_dropPkt (d : Dev) (p : Pkt) : (d.dropPkt p).sealPart = d.sealPart := by
  unfold Dev.dropPkt; split <;> simp

@[simp] theorem Dev.sealPart_setFifo (d : Dev) (bay : Nat) (l : List EgPkt) : (d.setFifo bay l).sealPart = d.sealPart := (rfl)

@[simp] theorem Dev.sealPart_freeEgress (d : Dev) (p : Pkt) : (d.freeEgress p).sealPart = d.sealPart := by
  simp [Dev.freeEgress]

@[simp] theorem Dev.sealPart_joinFifo (d : Dev) (p : Pkt) (bay : Nat) (sess : Option SessData) :
    (d.joinFifo p bay sess).sealPart = d.sealPart := by simp [Dev.joinFifo]

@[simp] theorem Dev.sealPart_flood (d : Dev) (p : Pkt) : (d.flood p).sealPart = d.sealPart := by
  simp only [Dev.flood]
  split
  · simp
  · rw [Dev.sealPart_foldl _ _ _ (fun b a => by simp), Dev.sealPart_foldl _ _ _ (fun b a => by simp)]

@[simp] theorem Dev.sealPart_releasePkt (d : Dev) (e : RoEntry) : (d.releasePkt e).sealPart = d.sealPart := by
  unfold Dev.releasePkt; split <;> simp

@[simp] theorem Dev.sealPart_dropEntry (d : Dev) (dom s : Nat) : (d.dropEntry dom s).sealPart = d.sealPart := (rfl)

@[simp] theorem Dev.sealPart_releaseRun (dom f : Nat) :
    ∀ (d : Dev) (left : Nat), (d.releaseRun dom f left).2.sealPart = d.sealPart := by
  induction f with
  | zero => exact fun _ _ => rfl
  | succ f ih =>
    intro d left
    rw [Dev.releaseRun]
    (repeat' split) <;> simp [ih]

@[simp] theorem Dev.sealPart_releaseDomain (d : Dev) (dom : Nat) : (d.releaseDomain dom).sealPart = d.sealPart := by
  simp [Dev.releaseDomain]

@[simp] theorem Dev.sealPart_reorderRelease (d : Dev) : d.reorderRelease.sealPart = d.sealPart := by
  simp [Dev.reorderRelease]

@[simp] theorem Dev.sealPart_openHoles (d : Dev) : d.openHoles.sealPart = d.sealPart := by
  simp [Dev.openHoles]

@[simp] theorem Dev.sealPart_holeSkip (d : Dev) (dom : Nat) : (d.holeSkip dom).sealPart = d.sealPart := by
  simp only [Dev.holeSkip]
  (repeat' split) <;> simp

/-! ## Records of the Cellarbook -/

@[simp] theorem Dev.sealPart_strongPass (d : Dev) : d.strongPass.sealPart = d.sealPart := by
  simp [Dev.strongPass]

@[simp] theorem Dev.sealPart_bookVisible (d : Dev) : d.bookVisible.sealPart = d.sealPart := by
  simp [Dev.bookVisible]

@[simp] theorem Dev.sealPart_chainRecAt (d : Dev) (r : RecBody) (drip : Nat) (src : Option Nat) :
    (d.chainRecAt r drip src).sealPart = d.sealPart := (rfl)

@[simp] theorem Dev.sealPart_bookCount (d : Dev) (i : Nat) : (d.bookCount i).sealPart = d.sealPart := (rfl)

@[simp] theorem Dev.sealPart_pageClose (d : Dev) (p first count : Nat) (root prev : Bytes) :
    (d.pageClose p first count root prev).2.sealPart = d.sealPart := by
  unfold Dev.pageClose; split <;> simp

@[simp] theorem Dev.sealPart_pageEnd (d : Dev) : d.pageEnd.sealPart = d.sealPart := by simp [Dev.pageEnd]

@[simp] theorem Dev.sealPart_settlePage (d : Dev) : d.settlePage.sealPart = d.sealPart := by
  simp [Dev.settlePage]

@[simp] theorem Dev.sealPart_chainRec (d : Dev) (r : RecBody) (src : Option Nat) : (d.chainRec r src).sealPart = d.sealPart := by
  simp [Dev.chainRec]

@[simp] theorem Dev.sealPart_hwRec (d : Dev) (kind : Nat) (digest data : Bytes) :
    (d.hwRec kind digest data).sealPart = d.sealPart := by simp [Dev.hwRec]

/-! ## Dispatch -/

@[simp] theorem Dev.sealPart_dispCount (d : Dev) (i : Nat) : (d.dispCount i).sealPart = d.sealPart := (rfl)

@[simp] theorem Dev.sealPart_traceRec (d : Dev) (kind g task thread prio wait : Nat) :
    (d.traceRec kind g task thread prio wait).sealPart = d.sealPart := by simp [Dev.traceRec]

@[simp] theorem Dev.sealPart_startTask (d : Dev) (id : Tid) (p : Pkt) (zero : Bool) :
    (d.startTask id p zero).sealPart = d.sealPart := by simp [Dev.startTask]

@[simp] theorem Dev.sealPart_passageRec (d : Dev) (p : Pkt) (bay : Nat) : (d.passageRec p bay).sealPart = d.sealPart := by
  simp [Dev.passageRec]

@[simp] theorem Dev.sealPart_limpPassage (d : Dev) (p : Pkt) : (d.limpPassage p).sealPart = d.sealPart := by
  simp only [Dev.limpPassage]; (repeat' split) <;> simp

@[simp] theorem Dev.sealPart_setReady (d : Dev) (g l : Nat) (v : List Pkt) : (d.setReady g l v).sealPart = d.sealPart := (rfl)

@[simp] theorem Dev.sealPart_setKeeperReady (d : Dev) (g l : Nat) (v : List Pkt) :
    (d.setKeeperReady g l v).sealPart = d.sealPart := (rfl)

@[simp] theorem Dev.sealPart_placeEntry (d : Dev) (g : Nat) (p : Pkt) (head : Bool) :
    (d.placeEntry g p head).sealPart = d.sealPart := (rfl)

@[simp] theorem Dev.sealPart_setHoldQ (d : Dev) (pipe : Nat) (l : List Pkt) : (d.setHoldQ pipe l).sealPart = d.sealPart := (rfl)

@[simp] theorem Dev.sealPart_holdEntry (d : Dev) (p : Pkt) : (d.holdEntry p).sealPart = d.sealPart := by
  simp [Dev.holdEntry]

@[simp] theorem Dev.sealPart_enqueueTask (d : Dev) (p : Pkt) : (d.enqueueTask p).sealPart = d.sealPart := by
  simp only [Dev.enqueueTask]; (repeat' split) <;> simp

@[simp] theorem Dev.sealPart_placeKeeper (d : Dev) (g : Nat) (p : Pkt) : (d.placeKeeper g p).sealPart = d.sealPart := by
  simp [Dev.placeKeeper]

@[simp] theorem Dev.sealPart_holdPlace (d : Dev) (pipe : Nat) : (d.holdPlace pipe).sealPart = d.sealPart := by
  simp only [Dev.holdPlace]
  (repeat' split) <;> simp

@[simp] theorem Dev.sealPart_dispatch (d : Dev) (g : Nat) : (d.dispatch g).sealPart = d.sealPart := by
  simp only [Dev.dispatch]
  (repeat' split) <;> simp

@[simp] theorem Dev.sealPart_enqueueExc (d : Dev) (g : Nat) (p : Pkt) : (d.enqueueExc g p).sealPart = d.sealPart := by
  simp [Dev.enqueueExc]

@[simp] theorem Dev.sealPart_freePending (d : Dev) (g p : Nat) : (d.freePending g p).sealPart = d.sealPart := (rfl)

@[simp] theorem Dev.sealPart_excDeliver (d : Dev) (g : Nat) : (d.excDeliver g).sealPart = d.sealPart := by
  simp only [Dev.excDeliver]
  (repeat' split) <;> simp

@[simp] theorem Dev.sealPart_losePending (d : Dev) (k : Tid) : (d.losePending k).sealPart = d.sealPart := by
  unfold Dev.losePending; exact Dev.sealPart_foldl _ _ _ (fun b a => by (repeat' split) <;> simp)

@[simp] theorem Dev.sealPart_limpAll (d : Dev) : d.limpAll.sealPart = d.sealPart := by simp [Dev.limpAll]

/-! ## Stops -/

@[simp] theorem Dev.sealPart_discardStaging (d : Dev) (id : Tid) : (d.discardStaging id).sealPart = d.sealPart := by
  simp [Dev.discardStaging]

@[simp] theorem Dev.sealPart_parkEvent (d : Dev) (id : Tid) : (d.parkEvent id).sealPart = d.sealPart := by
  simp [Dev.parkEvent]

@[simp] theorem Dev.sealPart_stopThread (d : Dev) (id : Tid) : (d.stopThread id).sealPart = d.sealPart := by
  simp [Dev.stopThread]

@[simp] theorem Dev.sealPart_faultPark (d : Dev) (id : Tid) (f : FaultInfo) : (d.faultPark id f).sealPart = d.sealPart := by
  simp [Dev.faultPark]

@[simp] theorem Dev.sealPart_killThread (d : Dev) (id : Tid) : (d.killThread id).sealPart = d.sealPart := by
  simp [Dev.killThread]

@[simp] theorem Dev.sealPart_startKeeper (d : Dev) (id : Tid) (ev : Nat) : (d.startKeeper id ev).sealPart = d.sealPart := by
  simp [Dev.startKeeper]

@[simp] theorem Dev.sealPart_unpark (d : Dev) (id : Tid) : (d.unpark id).2.sealPart = d.sealPart := by
  simp only [Dev.unpark]; (repeat' split) <;> simp

@[simp] theorem Dev.sealPart_thrControl (d : Dev) (id : Tid) (op : Nat) : (d.thrControl id op).2.sealPart = d.sealPart := by
  unfold Dev.thrControl; split <;> simp

/-! ## Operands -/

@[simp] theorem Dev.sealPart_putOp (d : Dev) (id : Tid) (op width : Nat) (c : WClass) (e : Ev1) (v : Nat) :
    (d.putOp id op width c e v).sealPart = d.sealPart := by simp [Dev.putOp]

end Sys2Proof.Machine
end

section
/-! PROOF. The seal and the change counter (R372, R373, O60), left as they are by:
instructions and helpers. -/

namespace Sys2Proof.Machine

/-! ## Computations, their effects and their issue -/

@[simp] theorem Dev.sealPart_putAll (id : Tid) (i : Dec) (evs : List Ev1) (l : List (Nat × Nat)) :
    ∀ d : Dev, (d.putAll id i evs l).sealPart = d.sealPart := by
  induction l with
  | nil => exact fun _ => rfl
  | cons e l ih =>
    intro d
    simp only [Dev.putAll]
    split <;> simp [ih]

/-- An effect that leaves what the statement reads, whatever the operands. -/
def Sem.keepsSeal (sem : Sem) : Prop := ∀ d id i evs e, sem d id i evs = .ok e → e.sealPart = d.sealPart

@[simp] theorem Sem.keepsSeal_aluSem (f : Alu) : Sem.keepsSeal (aluSem f) := by
  intro d id i evs e h
  unfold aluSem at h
  split at h <;> cases h
  simp

@[simp] theorem Dev.sealPart_decodeFault (d : Dev) (id : Tid) (e : DecErr) : (d.decodeFault id e).sealPart = d.sealPart := by
  simp only [Dev.decodeFault]
  split <;> simp

@[simp] theorem Dev.sealPart_setBases (d : Dev) (id : Tid) (b : Map Word) : (d.setBases id b).sealPart = d.sealPart := by
  simp [Dev.setBases]

@[simp] theorem Dev.sealPart_cyclePass (d : Dev) : d.cyclePass.sealPart = d.sealPart := by simp [Dev.cyclePass]

@[simp] theorem Dev.sealPart_clockPass (d : Dev) (op : Nat) (l : List (Role × Opnd)) :
    (d.clockPass op l).sealPart = d.sealPart := by simp [Dev.clockPass]

@[simp] theorem Dev.sealPart_leaPass (d : Dev) (op : Nat) (l : List (Role × Opnd)) : (d.leaPass op l).sealPart = d.sealPart := by
  simp [Dev.leaPass]

@[simp] theorem Dev.sealPart_countOps (d : Dev) (id : Tid) (i : Dec) (ms : List Loc) (code : Nat) :
    (d.countOps id i ms code).sealPart = d.sealPart := by
  simp only [Dev.countOps]
  (repeat' split) <;> simp

/-- An issue whose continuation, on a device like `d`, answers one like `d`. -/
theorem Dev.sealPart_withOps_of {d : Dev} (id : Tid) (i : Dec) (ms : List Loc) (micro opcode : Nat)
    {k : Dev → List Ev1 → Map Word → Dev} (hk : ∀ e evs b, e.sealPart = d.sealPart → (k e evs b).sealPart = d.sealPart) :
    (d.withOps id i ms micro opcode k).sealPart = d.sealPart := by
  simp only [Dev.withOps]
  split
  · simp
  · exact hk _ _ _ (by simp)

@[simp] theorem Dev.sealPart_withOps (d : Dev) (id : Tid) (i : Dec) (ms : List Loc) (micro opcode : Nat)
    (k : Dev → List Ev1 → Map Word → Dev) (hk : ∀ e x y, (k e x y).sealPart = e.sealPart) :
    (d.withOps id i ms micro opcode k).sealPart = d.sealPart :=
  Dev.sealPart_withOps_of _ _ _ _ _ (fun _ _ _ he => (hk _ _ _).trans he)

@[simp] theorem Dev.sealPart_perform (d : Dev) (id : Tid) (i : Dec) (ms : List Loc) (micro opcode : Nat) {sem : Sem} {k : Dev → Dev}
    (hs : sem.keepsSeal) (hk : ∀ d, (k d).sealPart = d.sealPart) : (d.perform id i ms micro opcode sem k).sealPart = d.sealPart := by
  refine Dev.sealPart_withOps_of _ _ _ _ _ (fun e evs b he => ?_)
  split
  · simp [he]
  · rw [hk, hs _ _ _ _ _ ‹_›]
    simp [he]

@[simp] theorem Dev.sealPart_advance (d : Dev) (id : Tid) (len : Nat) : (d.advance id len).sealPart = d.sealPart := by
  simp [Dev.advance]

@[simp] theorem Dev.sealPart_issueWith (d : Dev) (id : Tid) (opc : Nat) (run : Dev → Dec → Dev)
    (hrun : ∀ e x, (run e x).sealPart = e.sealPart) :
    (d.issueWith id opc run).sealPart = d.sealPart := by
  simp only [Dev.issueWith]
  (repeat' split) <;> simp_all

/-- An issue whose continuation leaves what the statement reads. -/
theorem Dev.sealPart_issueOps (d : Dev) (id : Tid) (opc : Nat) {k : Dec → Dev → List Ev1 → Map Word → Dev}
    (hk : ∀ i e evs b, (k i e evs b).sealPart = e.sealPart) :
    (d.issueWith id opc (fun d i => d.withOps id i [] 0 i.op (k i))).sealPart = d.sealPart :=
  Dev.sealPart_issueWith _ _ _ _ (fun _ i => Dev.sealPart_withOps _ _ _ _ _ _ _ (hk i))

@[simp] theorem Dev.sealPart_issue (d : Dev) (id : Tid) (opc : Nat) {sem : Sem} (hs : sem.keepsSeal) :
    (d.issue id opc sem).sealPart = d.sealPart :=
  Dev.sealPart_issueWith _ _ _ _ (fun _ _ => Dev.sealPart_perform _ _ _ _ _ _ hs (fun _ => by simp))

@[simp] theorem Dev.sealPart_issueAlu (d : Dev) (id : Tid) (opc : Nat) (f : Alu) : (d.issueAlu id opc f).sealPart = d.sealPart :=
  d.sealPart_issue id opc (Sem.keepsSeal_aluSem f)

@[simp] theorem Dev.sealPart_writeSpecial (d : Dev) (id : Tid) (n v : Nat) : (d.writeSpecial id n v).sealPart = d.sealPart := by
  simp [Dev.writeSpecial]

@[simp] theorem Sem.keepsSeal_movsRead : Sem.keepsSeal semMovsRead := by
  intro d id i evs e h
  unfold semMovsRead at h
  split at h <;> cases h <;> simp

@[simp] theorem Sem.keepsSeal_movsWrite : Sem.keepsSeal semMovsWrite := by
  intro d id i evs e h
  unfold semMovsWrite at h
  split at h <;> cases h <;> simp

@[simp] theorem Sem.keepsSeal_none : Sem.keepsSeal semNone := by
  intro d id i evs e h
  cases h
  rfl

theorem Sem.keepsSeal_semOf {op : Nat} {sem : Sem} (h : semOf op = some sem) : sem.keepsSeal := by
  unfold semOf at h
  split at h
  · cases h
    exact Sem.keepsSeal_aluSem _
  · split at h <;> cases h
    · exact Sem.keepsSeal_movsRead
    · exact Sem.keepsSeal_movsWrite
    · exact Sem.keepsSeal_none
    · exact Sem.keepsSeal_none
    · exact Sem.keepsSeal_none

theorem Dev.sealPart_repCount (d : Dev) (id : Tid) (o : Opnd) : ∀ e, Dev.repCount d id o = .ok e → e.sealPart = d.sealPart := by
  intro e he
  unfold Dev.repCount at he
  split at he <;> cases he
  simp

theorem Dev.sealPart_repStep (d : Dev) (id : Tid) (i : Dec) {sem : Sem} (hs : sem.keepsSeal) :
    (d.repStep id i sem).sealPart = d.sealPart :=
  Dev.sealPart_perform _ _ _ _ _ _ hs (fun d => by simp only; split <;> simp)

@[simp] theorem Dev.sealPart_countRep (d : Dev) (id : Tid) (o : Opnd) (code : Nat) :
    (d.countRep id o code).sealPart = d.sealPart := by
  simp only [Dev.countRep]
  (repeat' split) <;> simp

@[simp] theorem Dev.sealPart_repIteration (d : Dev) (id : Tid) : (d.repIteration id).sealPart = d.sealPart := by
  simp only [Dev.repIteration]
  split
  · rfl
  · split
    · simp
    · split
      · have hs := Sem.keepsSeal_semOf ‹_›
        split
        · simp [Dev.sealPart_repStep _ _ _ hs]
        · split
          · simp
          · have h := Dev.sealPart_repCount _ _ _ _ ‹_›
            split <;> simp [Dev.sealPart_repStep _ _ _ hs, h]
      · rfl

@[simp] theorem Dev.sealPart_startWait (d : Dev) (id : Tid) (w : Wait) : (d.startWait id w).sealPart = d.sealPart := by
  simp [Dev.startWait]

@[simp] theorem Dev.sealPart_report (d : Dev) (id : Tid) (b : Map Word) (code : Nat) (w : Bool) :
    (d.report id b code w).sealPart = d.sealPart := by simp [Dev.report]

@[simp] theorem Dev.sealPart_finishCode (d : Dev) (id : Tid) (i : Dec) (b : Map Word) (code : Nat) (w : Bool) :
    (d.finishCode id i b code w).sealPart = d.sealPart := by simp [Dev.finishCode]

@[simp] theorem Dev.sealPart_latchEffect (d : Dev) (id : Tid) (i : Dec) (evs : List Ev1) (b : Map Word) (k : Dev → Dev)
    (hk : ∀ d, (k d).sealPart = d.sealPart) : (d.latchEffect id i evs b k).sealPart = d.sealPart := by
  have ha (n t dl : Nat) (r : Bool) : (d.latchAcquire n t dl r).2.sealPart = d.sealPart := by simp
  simp only [Dev.latchEffect]
  split
  · split
    · simp [hk]
    · split
      · simpa [hk] using Dev.sealPart_of_pair ‹_› (ha _ _ _ _)
      · simpa using Dev.sealPart_of_pair ‹_› (ha _ _ _ _)
  · rfl

@[simp] theorem Dev.sealPart_macroStart (d : Dev) (id : Tid) : (d.macroStart id).sealPart = d.sealPart := by
  simp only [Dev.macroStart]
  (repeat' split) <;> simp

@[simp] theorem Dev.sealPart_microStep (d : Dev) (id : Tid) : (d.microStep id).sealPart = d.sealPart := by
  refine Eq.substr (b := Dev.microStep) (p := fun f => (f d id).sealPart = d.sealPart) (by delta Dev.microStep; rfl) ?_
  beta_reduce
  split
  · rfl
  · -- what follows the decoding is kept as a variable: the kernel would evaluate the decoding
    generalize hF : (fun (_ : MacroRun) => _) = F
    obtain ⟨G, hG⟩ : ∃ G, G = F := ⟨F, rfl⟩
    have h (m : MacroRun) : (G m).sealPart = d.sealPart := by
      rw [hG, ← hF]
      beta_reduce
      extract_lets +onlyGivenNames e
      have he : e.sealPart = d.sealPart := by simp [e]
      clear_value e
      clear hG hF
      generalize hK : (fun (_ : Dec) => _) = K
      obtain ⟨L, hL⟩ : ∃ L, L = K := ⟨K, rfl⟩
      have h (i : Dec) : (L i).sealPart = d.sealPart := by
        rw [hL, ← hK]
        beta_reduce
        extract_lets k
        have hk (d : Dev) : (k d).sealPart = d.sealPart := by simp [k]
        clear_value k
        generalize latchMov i = b
        generalize aluOf i.op = f
        rcases b with _ | _
        · rcases f with _ | f
          · simp [he]
          · simp [Dev.sealPart_perform _ _ _ _ _ _ (Sem.keepsSeal_aluSem _) hk, he]
        · simp [hk, he]
      rw [← hL]
      generalize e.decodeMicro _ _ = r
      rcases r with x | i
      · simp [he]
      · exact h i
    rw [← hG]
    generalize (d.thr id).macroRun = o
    rcases o with _ | m
    · rfl
    · exact h m

/-! ## Branches, waits, events and channels -/

@[simp] theorem Dev.sealPart_goto (d : Dev) (id : Tid) (a : Nat) : (d.goto id a).sealPart = d.sealPart := by simp [Dev.goto]

@[simp] theorem Sem.keepsSeal_branch (c : Word → Bool) : Sem.keepsSeal (semBranch c) := by
  intro d id i evs e h
  unfold semBranch at h
  split at h <;> cases h <;> simp

@[simp] theorem Sem.keepsSeal_call : Sem.keepsSeal semCall := by
  intro d id i evs e h
  unfold semCall at h
  split at h <;> cases h <;> simp

@[simp] theorem Sem.keepsSeal_ret : Sem.keepsSeal semRet := by
  intro d id i evs e h
  unfold semRet at h
  split at h <;> cases h <;> simp

@[simp] theorem Sem.keepsSeal_dbnz : Sem.keepsSeal semDbnz := by
  intro d id i evs e h
  unfold semDbnz at h
  split at h <;> cases h <;> simp

@[simp] theorem Dev.sealPart_issueGoto (d : Dev) (id : Tid) (opc : Nat) {sem : Sem} (hs : sem.keepsSeal) :
    (d.issueGoto id opc sem).sealPart = d.sealPart :=
  Dev.sealPart_issueWith _ _ _ _ (fun _ _ => Dev.sealPart_perform _ _ _ _ _ _ hs (fun _ => by simp))

@[simp] theorem Dev.sealPart_issueBcc (d : Dev) (id : Tid) (cc : Nat) : (d.issueBcc id cc).sealPart = d.sealPart :=
  d.sealPart_issueGoto id _ (Sem.keepsSeal_branch _)

@[simp] theorem Dev.sealPart_issueWfe (d : Dev) (id : Tid) : (d.issueWfe id).sealPart = d.sealPart :=
  d.sealPart_issueOps id _ (fun i e evs b => by (repeat' split) <;> simp)

@[simp] theorem Dev.sealPart_issueWaitt (d : Dev) (id : Tid) (opc : Nat) (k : WaitKind) :
    (d.issueWaitt id opc k).sealPart = d.sealPart :=
  d.sealPart_issueOps id _ (fun i e evs b => by (repeat' split) <;> simp)

@[simp] theorem Sem.keepsSeal_evtake : Sem.keepsSeal semEvtake := by
  intro d id i evs e h
  unfold semEvtake at h
  split at h <;> cases h <;> simp

@[simp] theorem Dev.sealPart_cycleReach (d : Dev) (id : Tid) : (d.cycleReach id).sealPart = d.sealPart := by
  simp [Dev.cycleReach]

@[simp] theorem Sem.keepsSeal_sev : Sem.keepsSeal semSev := by
  intro d id i evs e h
  unfold semSev at h
  split at h <;> cases h
  · rw [Dev.sealPart_foldl _ _ _ (fun d t => by simp)]
    split <;> simp
  · rfl

@[simp] theorem Dev.sealPart_issueSend (d : Dev) (id : Tid) (opc : Nat) (t : Bool) : (d.issueSend id opc t).sealPart = d.sealPart :=
  d.sealPart_issueOps id _ (fun i e evs b => by simp only; (repeat' split) <;> simp)

@[simp] theorem Dev.sealPart_issueRecv (d : Dev) (id : Tid) (opc : Nat) (t : Bool) : (d.issueRecv id opc t).sealPart = d.sealPart :=
  d.sealPart_issueOps id _ (fun i e evs b => by simp only; (repeat' split) <;> simp)

@[simp] theorem Dev.sealPart_taskEnd (d : Dev) (id : Tid) : (d.taskEnd id).sealPart = d.sealPart := by
  simp only [Dev.taskEnd]
  (repeat' split) <;> simp

@[simp] theorem Dev.sealPart_issueTend (d : Dev) (id : Tid) : (d.issueTend id).sealPart = d.sealPart := by
  simp [Dev.issueTend]

@[simp] theorem Dev.sealPart_issueTctl (d : Dev) (id : Tid) (mine : Nat → Bool) : (d.issueTctl id mine).sealPart = d.sealPart :=
  Dev.sealPart_issueWith _ _ _ _ (fun d0 i => by
    split
    · simp
    · refine Dev.sealPart_withOps _ _ _ _ _ _ _ (fun e evs b => ?_)
      simp only
      (repeat' split) <;> simp)

@[simp] theorem Dev.sealPart_thrCtlWrite (d : Dev) (m g v : Nat) : (d.thrCtlWrite m g v).sealPart = d.sealPart := by
  unfold Dev.thrCtlWrite
  refine Dev.sealPart_doorbell _ _ _ _ _ _ _ (fun d => ?_)
  simp only
  (repeat' split) <;> simp

@[simp] theorem Dev.sealPart_gallSev (d : Dev) (m g v : Nat) : (d.gallSev m g v).sealPart = d.sealPart := by
  simp [Dev.gallSev]

/-! ## Jobs of the helpers -/

@[simp] theorem Dev.sealPart_setJob (d : Dev) (n : Nat) (j : Job) : (d.setJob n j).sealPart = d.sealPart := (rfl)

@[simp] theorem Dev.sealPart_setHelpQ (d : Dev) (id : Tid) (l : List Nat) : (d.setHelpQ id l).sealPart = d.sealPart := by
  simp [Dev.setHelpQ]

@[simp] theorem Dev.sealPart_setTag (d : Dev) (id : Tid) (n : Nat) (v : TagState) : (d.setTag id n v).sealPart = d.sealPart := by
  simp [Dev.setTag]

@[simp] theorem Dev.sealPart_acceptJob (d : Dev) (id : Tid) (tag : Nat) (block : Bytes) :
    (d.acceptJob id tag block).sealPart = d.sealPart := by simp [Dev.acceptJob]

@[simp] theorem Dev.sealPart_unqueue (d : Dev) (n : Nat) (j : Job) : (d.unqueue n j).sealPart = d.sealPart := by simp [Dev.unqueue]

@[simp] theorem Dev.sealPart_finishJob (d : Dev) (n code result : Nat) : (d.finishJob n code result).sealPart = d.sealPart := by
  unfold Dev.finishJob; split <;> simp

@[simp] theorem Dev.sealPart_takeJob (d : Dev) (n unit : Nat) (mine : Job → Bool) (f : Dev → Job → UnitAns)
    (hf : ∀ e x, (f e x).dev.sealPart = e.sealPart) :
    (d.takeJob n unit mine f).sealPart = d.sealPart := by
  simp only [Dev.takeJob]
  (repeat' split) <;> simp_all

@[simp] theorem Dev.sealPart_admitJob (d : Dev) (n unit : Nat) (mine : Job → Bool) (check : Dev → Job → Nat)
    (note : Dev → Job → Nat → Dev) (f : Dev → Nat → Job → Dev) (hnote : ∀ e x y, (note e x y).sealPart = e.sealPart)
    (hf : ∀ e x y, (f e x y).sealPart = e.sealPart) :
    (d.admitJob n unit mine check note f).sealPart = d.sealPart := by
  simp only [Dev.admitJob]
  (repeat' split) <;> simp_all

@[simp] theorem Dev.sealPart_countPtrs (d : Dev) (l : List (Ptr × Nat)) : (d.countPtrs l).sealPart = d.sealPart := by
  simp [Dev.countPtrs]

@[simp] theorem Dev.sealPart_ptrWrite (d : Dev) (j : Job) (p : Ptr) (bs : Bytes) : (d.ptrWrite j p bs).sealPart = d.sealPart := by
  simp only [Dev.ptrWrite]; (repeat' split) <;> simp

theorem Dev.sealPart_poisonAns (d : Dev) (ptrs : List (Ptr × Nat)) :
    ∀ e, Dev.poisonAns d ptrs = some e → e.dev.sealPart = d.sealPart := by
  intro e he
  unfold Dev.poisonAns at he
  split at he <;> cases he
  simp

@[simp] theorem Dev.sealPart_orphanLog (d : Dev) (j : Job) : (d.orphanLog j).sealPart = d.sealPart := by
  simp [Dev.orphanLog]

@[simp] theorem Dev.sealPart_orphanVisible (d : Dev) : d.orphanVisible.sealPart = d.sealPart := by
  simp [Dev.orphanVisible]

@[simp] theorem Dev.sealPart_tagDone (d : Dev) (id : Tid) (tag code : Nat) : (d.tagDone id tag code).sealPart = d.sealPart := by
  simp [Dev.tagDone]

@[simp] theorem Dev.sealPart_deliverJob (d : Dev) (n : Nat) (j : Job) : (d.deliverJob n j).sealPart = d.sealPart := by
  simp [Dev.deliverJob]

/-! ## Helper commands -/

@[simp] theorem Dev.sealPart_helperFault (d : Dev) (id : Tid) (opcode : Nat) : (d.helperFault id opcode).sealPart = d.sealPart := by
  simp [Dev.helperFault]

@[simp] theorem Dev.sealPart_issueHcmd (d : Dev) (id : Tid) : (d.issueHcmd id).sealPart = d.sealPart :=
  d.sealPart_issueOps id _ (fun i e evs b => by (repeat' split) <;> simp)

@[simp] theorem Dev.sealPart_endRetry (d : Dev) (id : Tid) (code : Nat) : (d.endRetry id code).sealPart = d.sealPart := by
  simp [Dev.endRetry]

@[simp] theorem Dev.sealPart_hcmdAccept (d : Dev) (id : Tid) : (d.hcmdAccept id).sealPart = d.sealPart := by
  simp only [Dev.hcmdAccept]
  (repeat' split) <;> simp

@[simp] theorem Dev.sealPart_hcmdLimit (d : Dev) (id : Tid) : (d.hcmdLimit id).sealPart = d.sealPart := by
  simp only [Dev.hcmdLimit]
  (repeat' split) <;> simp

@[simp] theorem Dev.sealPart_issueHwait (d : Dev) (id : Tid) : (d.issueHwait id).sealPart = d.sealPart :=
  d.sealPart_issueOps id _ (fun i e evs b => by (repeat' split) <;> simp)

@[simp] theorem Dev.sealPart_putArea (d : Dev) (id : Tid) (l : Loc) (bs : Bytes) : (d.putArea id l bs).sealPart = d.sealPart := by
  simp only [Dev.putArea]
  split <;> simp

@[simp] theorem Dev.sealPart_evictContext (d : Dev) (g : Nat) : (d.evictContext g).sealPart = d.sealPart := by
  simp only [Dev.evictContext]
  (repeat' split) <;> simp

@[simp] theorem Dev.sealPart_saveContext (d : Dev) (id : Tid) (l : Loc) (n : Nat) (j : Job) :
    (d.saveContext id l n j).sealPart = d.sealPart := by simp [Dev.saveContext]

@[simp] theorem Dev.sealPart_issueHsave (d : Dev) (id : Tid) : (d.issueHsave id).sealPart = d.sealPart :=
  d.sealPart_issueOps id _ (fun i e evs b => by (repeat' split) <;> simp)

@[simp] theorem Dev.sealPart_resumeContext (d : Dev) (id : Tid) (tag serial : Nat) (c : Saved) :
    (d.resumeContext id tag serial c).sealPart = d.sealPart := by simp [Dev.resumeContext]

@[simp] theorem Dev.sealPart_issueHrestore (d : Dev) (id : Tid) : (d.issueHrestore id).sealPart = d.sealPart :=
  d.sealPart_issueOps id _ (fun i e evs b => by
    split
    · split
      · simp
      · extract_lets bs
        generalize List.find? _ e.help.saved = o
        rcases o with _ | ⟨k, c⟩ <;> simp
    · rfl)

@[simp] theorem Dev.sealPart_orphanUnit (d : Dev) (n : Nat) (j : Job) : (d.orphanUnit n j).sealPart = d.sealPart := by
  simp [Dev.orphanUnit]

@[simp] theorem Dev.sealPart_helperCompletion (d : Dev) (n : Nat) : (d.helperCompletion n).sealPart = d.sealPart := by
  simp only [Dev.helperCompletion]
  (repeat' split) <;> simp

@[simp] theorem Dev.sealPart_requeueCmd (d : Dev) (j : Job) : (d.requeueCmd j).dev.sealPart = d.sealPart := by
  simp only [Dev.requeueCmd]
  (repeat' split) <;> simp

@[simp] theorem Dev.sealPart_submitCmd (d : Dev) (j : Job) : (d.submitCmd j).dev.sealPart = d.sealPart := by
  unfold Dev.submitCmd
  extract_lets k no slot task mask
  have hno (c : Nat) : (no c).dev.sealPart = d.sealPart := rfl
  clear_value no slot task mask
  split
  · exact hno _
  · split
    · exact hno _
    · split
      · exact hno _
      · split
        · exact hno _
        · split
          · exact hno _
          · extract_lets p e
            have he : e.sealPart = d.sealPart := by simp [e]
            clear_value p e
            split <;> simp [he]

@[simp] theorem Dev.sealPart_atomNo (d : Dev) (code : Nat) : (d.atomNo code).dev.sealPart = d.sealPart := by simp [Dev.atomNo]

@[simp] theorem Dev.sealPart_atomCmd (d : Dev) (j : Job) : (d.atomCmd j).dev.sealPart = d.sealPart := by
  simp only [Dev.atomCmd]
  (repeat' split) <;> simp

end Sys2Proof.Machine
end

section
/-! PROOF. The seal and the change counter (R372, R373, O60), left as they are by:
the seal pool and sessions. -/

namespace Sys2Proof.Machine

/-! ## Key slots and seal engines -/

@[simp] theorem Dev.sealPart_setKeySlot (d : Dev) (n : Nat) (k : KeySlot) : (d.setKeySlot n k).sealPart = d.sealPart := (rfl)

@[simp] theorem Dev.sealPart_setEng (d : Dev) (e : Nat) (v : SealEng) : (d.setEng e v).sealPart = d.sealPart := (rfl)

@[simp] theorem Dev.sealPart_formSets (d : Dev) : d.formSets.sealPart = d.sealPart := (rfl)

@[simp] theorem Dev.sealPart_sealCount (d : Dev) (i : Nat) : (d.sealCount i).sealPart = d.sealPart := by simp [Dev.sealCount]

@[simp] theorem Dev.sealPart_mapItems (d : Dev) (f : SealItem → SealItem) : (d.mapItems f).sealPart = d.sealPart := (rfl)

@[simp] theorem Dev.sealPart_setItemKey (d : Dev) (it : SealItem) (j : Job) (k : KeySlot) :
    (d.setItemKey it j k).sealPart = d.sealPart := by
  simp only [Dev.setItemKey]
  split <;> simp

@[simp] theorem Dev.sealPart_returnUse (d : Dev) (it : SealItem) (j : Job) : (d.returnUse it j).sealPart = d.sealPart := by
  simp only [Dev.returnUse]
  (repeat' split) <;> simp

@[simp] theorem Dev.sealPart_sealFail (d : Dev) (it : SealItem) (code : Nat) : (d.sealFail it code).sealPart = d.sealPart := by
  simp only [Dev.sealFail]
  split <;> simp

@[simp] theorem Dev.sealPart_releaseSig (d : Dev) (it : SealItem) (p v : Nat) : (d.releaseSig it p v).sealPart = d.sealPart := by
  simp only [Dev.releaseSig]
  (repeat' split) <;> simp

@[simp] theorem Dev.sealPart_moveJobs (d : Dev) (its : List SealItem) : (d.moveJobs its).sealPart = d.sealPart := (rfl)

@[simp] theorem Dev.sealPart_sealRetired (d : Dev) (e cause moved : Nat) (spare : Option Nat) :
    (d.sealRetired e cause moved spare).sealPart = d.sealPart := (rfl)

@[simp] theorem Dev.sealPart_retireSeal (d : Dev) (e cause : Nat) : (d.retireSeal e cause).sealPart = d.sealPart := by
  simp only [Dev.retireSeal]; (repeat' split) <;> simp

/-! ## The seal pool -/

@[simp] theorem Dev.sealPart_enterPool (d : Dev) (n : Nat) (j : Job) : (d.enterPool n j).sealPart = d.sealPart := by
  simp [Dev.enterPool]

@[simp] theorem Dev.sealPart_sealNote (d : Dev) (j : Job) (c : Nat) : (d.sealNote j c).sealPart = d.sealPart := by
  simp [Dev.sealNote]

@[simp] theorem Dev.sealPart_sealAdmit (d : Dev) (n : Nat) (mine : Nat → Bool) : (d.sealAdmit n mine).sealPart = d.sealPart := by
  simp [Dev.sealAdmit]

@[simp] theorem Dev.sealPart_cacheKey (d : Dev) (e : Nat) (slot : Option Nat) : (d.cacheKey e slot).sealPart = d.sealPart := by
  simp only [Dev.cacheKey]
  (repeat' split) <;> simp

@[simp] theorem Dev.sealPart_dispatchNote (d : Dev) (j : Job) (c : Nat) : (d.dispatchNote j c).sealPart = d.sealPart := by
  simp [Dev.dispatchNote]

@[simp] theorem Dev.sealPart_placeJob (d : Dev) (e : Nat) (it : SealItem) : (d.placeJob e it).sealPart = d.sealPart := by
  simp [Dev.placeJob]

@[simp] theorem Dev.sealPart_dispatchNew (d : Dev) (e : Nat) (it : SealItem) : (d.dispatchNew e it).sealPart = d.sealPart := by
  simp only [Dev.dispatchNew]
  (repeat' split) <;> simp

@[simp] theorem Dev.sealPart_sealDispatch (d : Dev) (e : Nat) : (d.sealDispatch e).sealPart = d.sealPart := by
  simp only [Dev.sealDispatch]
  (repeat' split) <;> simp

@[simp] theorem Dev.sealPart_toAdj (d : Dev) (it : SealItem) : (d.toAdj it).sealPart = d.sealPart := by simp [Dev.toAdj]

@[simp] theorem Dev.sealPart_endVerify (d : Dev) (it : SealItem) (ok : Bool) : (d.endVerify it ok).sealPart = d.sealPart := by
  simp [Dev.endVerify]

@[simp] theorem Dev.sealPart_kexDone (d : Dev) (j : Job) (it : SealItem) : (d.kexDone j it).sealPart = d.sealPart := by
  simp only [Dev.kexDone]
  split <;> simp

@[simp] theorem Dev.sealPart_performed (d : Dev) (e : Nat) (j : Job) (it : SealItem) (sound : Bool) :
    (d.performed e j it sound).sealPart = d.sealPart := by
  simp only [Dev.performed]
  (repeat' split) <;> simp

@[simp] theorem Dev.sealPart_keyFault (d : Dev) (j : Job) (it : SealItem) : (d.keyFault j it).sealPart = d.sealPart := by
  simp [Dev.keyFault]

@[simp] theorem Dev.sealPart_verified (d : Dev) (e : Nat) (j : Job) (it : SealItem) (sound : Bool) :
    (d.verified e j it sound).sealPart = d.sealPart := by
  simp only [Dev.verified]
  (repeat' split) <;> simp

@[simp] theorem Dev.sealPart_sealComplete (d : Dev) (e : Nat) (sound : Bool) : (d.sealComplete e sound).sealPart = d.sealPart := by
  simp only [Dev.sealComplete]
  (repeat' split) <;> simp

@[simp] theorem Dev.sealPart_sealKat (d : Dev) (e : Nat) (pass : Bool) : (d.sealKat e pass).sealPart = d.sealPart := by
  simp [Dev.sealKat]

@[simp] theorem Dev.sealPart_ownDoorbell (d : Dev) (m b off width v : Nat) (act : Dev → Dev)
    (h : ∀ d, (act d).sealPart = d.sealPart) : (d.ownDoorbell m b off width v act).sealPart = d.sealPart := by
  simp only [Dev.ownDoorbell]
  (repeat' split) <;> simp [h]

@[simp] theorem Dev.sealPart_sealEngCtl (d : Dev) (m v : Nat) : (d.sealEngCtl m v).sealPart = d.sealPart := by
  simp [Dev.sealEngCtl]

@[simp] theorem Dev.sealPart_slotCtl (d : Dev) (m v : Nat) : (d.slotCtl m v).sealPart = d.sealPart := by
  simp [Dev.slotCtl]

@[simp] theorem Dev.sealPart_slotControl (d : Dev) (slot op : Nat) : (d.slotControl slot op).2.sealPart = d.sealPart := by
  simp only [Dev.slotControl]
  split
  · rfl
  · split
    · split <;> simp
    · split <;> simp
    · simp only [Dev.sealPart_onPool, Dev.sealPart_mapItems, Dev.sealPart_writeMem]
    · rfl

@[simp] theorem Dev.sealPart_installKey (d : Dev) (slot : Nat) (b : Bytes) : (d.installKey slot b).sealPart = d.sealPart := by
  simp [Dev.installKey]

@[simp] theorem Dev.sealPart_slotChange (d : Dev) (a : SlotChange) : (d.slotChange a).sealPart = d.sealPart := by
  simp only [Dev.slotChange]; (repeat' split) <;> simp

@[simp] theorem Dev.sealPart_slotChanges (d : Dev) : d.slotChanges.sealPart = d.sealPart := by
  simp [Dev.slotChanges]

@[simp] theorem Dev.sealPart_hashSave (d : Dev) (j : Job) (alg : Nat) (m : Bytes) : (d.hashSave j alg m).sealPart = d.sealPart := by
  simp [Dev.hashSave]

@[simp] theorem Dev.sealPart_hashCmd (d : Dev) (j : Job) : (d.hashCmd j).dev.sealPart = d.sealPart := by
  simp only [Dev.hashCmd]
  split
  · rfl
  · split
    · exact Dev.sealPart_poisonAns _ _ _ ‹_›
    · (repeat' split) <;> simp

@[simp] theorem Dev.sealPart_hashTake (d : Dev) (n : Nat) (mine : Nat → Bool) : (d.hashTake n mine).sealPart = d.sealPart := by
  simp [Dev.hashTake]

@[simp] theorem Dev.sealPart_hashFence (d : Dev) (eng : Nat) : (d.hashFence eng).sealPart = d.sealPart := by
  simp [Dev.hashFence]

/-! ## Transfers -/

@[simp] theorem Dev.sealPart_dmaWrite (d : Dev) (m addr : Nat) (bs : Bytes) : (d.dmaWrite m addr bs).sealPart = d.sealPart := by
  simp [Dev.dmaWrite]

@[simp] theorem Dev.sealPart_dmaRead (d : Dev) (m addr len : Nat) (use : DmaUse) :
    (d.dmaRead m addr len use).sealPart = d.sealPart := by
  simp only [Dev.dmaRead]; (repeat' split) <;> simp

/-! ## Sessions -/

@[simp] theorem Dev.sealPart_sessCount (d : Dev) (i : Nat) : (d.sessCount i).sealPart = d.sealPart := (rfl)

@[simp] theorem Dev.sealPart_setSes (d : Dev) (n : Nat) (s : Session) : (d.setSes n s).sealPart = d.sealPart := (rfl)

@[simp] theorem Dev.sealPart_updSes (d : Dev) (n : Nat) (f : Session → Session) : (d.updSes n f).sealPart = d.sealPart := by
  unfold Dev.updSes; split <;> simp

@[simp] theorem Dev.sealPart_touchSes (d : Dev) (n : Nat) : (d.touchSes n).sealPart = d.sealPart := (rfl)

@[simp] theorem Dev.sealPart_pushRaw (d : Dev) (bay : Nat) (n : Option Nat) (f : Bytes) :
    (d.pushRaw bay n f).sealPart = d.sealPart := (rfl)

@[simp] theorem Dev.sealPart_pushSes (d : Dev) (n : Nat) (s : Session) (f : Nat → Bytes) :
    (d.pushSes n s f).sealPart = d.sealPart := (rfl)

@[simp] theorem Dev.sealPart_emitAck (d : Dev) (n gen : Nat) : (d.emitAck n gen).sealPart = d.sealPart := by
  unfold Dev.emitAck; split <;> simp

@[simp] theorem Dev.sealPart_toHandler (d : Dev) (gen : Nat) (s : Session) (p : Pkt) :
    (d.toHandler gen s p).sealPart = d.sealPart := by unfold Dev.toHandler; split <;> simp

@[simp] theorem Dev.sealPart_notifyWith (d : Dev) (n gen : Nat) (c : Chain) (len : Nat) :
    (d.notifyWith n gen c len).sealPart = d.sealPart := by unfold Dev.notifyWith; split <;> simp

@[simp] theorem Dev.sealPart_notifySes (d : Dev) (n gen : Nat) : (d.notifySes n gen).sealPart = d.sealPart := by
  simp [Dev.notifySes]

@[simp] theorem Dev.sealPart_freeSes (d : Dev) (n : Nat) : (d.freeSes n).sealPart = d.sealPart := by
  unfold Dev.freeSes; split <;> simp

@[simp] theorem Dev.sealPart_closeSes (d : Dev) (n : Nat) : (d.closeSes n).sealPart = d.sealPart := by
  simp [Dev.closeSes]

@[simp] theorem Dev.sealPart_abortSes (d : Dev) (n gen : Nat) (quiet : Bool) (desc : Option Nat) :
    (d.abortSes n gen quiet desc).sealPart = d.sealPart := by
  simp only [Dev.abortSes]; (repeat' split) <;> simp

@[simp] theorem Dev.sealPart_cutData (d : Dev) (n : Nat) (e : EgPkt) (sd : SessData) :
    (d.cutData n e sd).sealPart = d.sealPart := by unfold Dev.cutData; split <;> simp

@[simp] theorem Dev.sealPart_pump (f : Nat) : ∀ (d : Dev) (n : Nat), (Dev.pump f d n).2.sealPart = d.sealPart := by
  induction f with
  | zero => exact fun _ _ => rfl
  | succ f ih =>
    intro d n
    simp only [Dev.pump]
    (repeat' split) <;> simp [ih]

@[simp] theorem Dev.sealPart_pumpOut (d : Dev) (n : Nat) : (d.pumpOut n).sealPart = d.sealPart := by
  simp only [Dev.pumpOut]
  split <;> simp

@[simp] theorem Dev.sealPart_resendFirst (d : Dev) (n : Nat) : (d.resendFirst n).sealPart = d.sealPart := by
  simp only [Dev.resendFirst]; (repeat' split) <;> simp

@[simp] theorem Dev.sealPart_sendLimit (d : Dev) (n gen : Nat) : (d.sendLimit n gen).sealPart = d.sealPart := by
  unfold Dev.sendLimit; split <;> simp

/-! ## MACsec -/

@[simp] theorem Dev.sealPart_egressStamp (d : Dev) (m : Nat) (f : Bytes) : (d.egressStamp m f).sealPart = d.sealPart := by
  simp only [Dev.egressStamp]
  (repeat' split) <;> simp

@[simp] theorem Dev.sealPart_msecCount (d : Dev) (m i : Nat) : (d.msecCount m i).sealPart = d.sealPart := (rfl)

@[simp] theorem Dev.sealPart_protectFrame (d : Dev) (m : Nat) (f : Bytes) : (d.protectFrame m f).2.sealPart = d.sealPart := by
  simp only [Dev.protectFrame]
  (repeat' split) <;> simp

@[simp] theorem Dev.sealPart_msecFail (d : Dev) (m i : Nat) (f : Bytes) : (d.msecFail m i f).2.sealPart = d.sealPart := (rfl)

@[simp] theorem Dev.sealPart_validateFrame (d : Dev) (m : Nat) (f : Bytes) : (d.validateFrame m f).2.sealPart = d.sealPart := by
  simp only [Dev.validateFrame]; (repeat' split) <;> simp

end Sys2Proof.Machine
end

section
/-! PROOF. The seal and the change counter (R372, R373, O60), left as they are by:
the Strongroom's answers, the Cellarbook, egress and segments. -/

namespace Sys2Proof.Machine

/-! ## The Strongroom's registers and answers -/

@[simp] theorem Dev.sealPart_timeState (d : Dev) (new : Nat) : (d.timeState new).sealPart = d.sealPart := by
  simp [Dev.timeState]

@[simp] theorem Dev.sealPart_loseReference (d : Dev) : d.loseReference.sealPart = d.sealPart := by
  simp only [Dev.loseReference]
  split <;> simp

@[simp] theorem Dev.sealPart_holdTemp (d : Dev) (t : ℤ) : (d.holdTemp t).sealPart = d.sealPart := by
  simp [Dev.holdTemp]

@[simp] theorem Dev.sealPart_strongTick (d : Dev) : d.strongTick.sealPart = d.sealPart := by
  simp [Dev.strongTick]

@[simp] theorem Dev.sealPart_srEnd (d : Dev) (src : Src) (code result : Nat) : (d.srEnd src code result).sealPart = d.sealPart := by
  unfold Dev.srEnd; split <;> simp

@[simp] theorem Dev.sealPart_srDeliver (d : Dev) (src : Src) (b res : Bytes) : (d.srDeliver src b res).sealPart = d.sealPart := by
  simp only [Dev.srDeliver]; (repeat' split) <;> simp

@[simp] theorem Dev.sealPart_srRefuse (d : Dev) (src : Src) (b : Bytes) (code : Nat) :
    (d.srRefuse src b code).sealPart = d.sealPart := by simp [Dev.srRefuse]

@[simp] theorem Dev.sealPart_calRecord (d : Dev) (b : Bytes) : (d.calRecord b).sealPart = d.sealPart := by
  simp [Dev.calRecord]

@[simp] theorem Dev.sealPart_tallyStep (d : Dev) (c : SrCmd) : (d.tallyStep c).sealPart = d.sealPart := by
  unfold Dev.tallyStep; split <;> simp

@[simp] theorem Dev.sealPart_tallyBoundary (d : Dev) : d.tallyBoundary.sealPart = d.sealPart := by
  simp [Dev.tallyBoundary]

@[simp] theorem Dev.sealPart_srAccept (d : Dev) (src : Src) (b block : Bytes) : (d.srAccept src b block).sealPart = d.sealPart := by
  unfold Dev.srAccept; split <;> simp

@[simp] theorem Dev.sealPart_srJob (d : Dev) (n : Nat) (mine : Nat → Bool) : (d.srJob n mine).sealPart = d.sealPart := by
  unfold Dev.srJob
  split
  · extract_lets b e block c
    split
    · rfl
    · have he : e.sealPart = d.sealPart := by simp [e]
      clear_value e block c
      split
      · simp [he]
      · split
        · simp [he]
        · split
          · simp [Dev.sealPart_poisonAns _ _ _ ‹_›, he]
          · simp [he]
  · rfl

@[simp] theorem Dev.sealPart_calCame (d : Dev) (m : Nat) : (d.calCame m).sealPart = d.sealPart := (rfl)

@[simp] theorem Dev.sealPart_srBlock (d : Dev) (m : Nat) (b block : Bytes) : (d.srBlock m b block).sealPart = d.sealPart := by
  simp [Dev.srBlock]

@[simp] theorem Dev.sealPart_srGo (d : Dev) (m : Nat) (mine : Nat → Bool) : (d.srGo m mine).sealPart = d.sealPart := by
  simp [Dev.srGo]

@[simp] theorem Dev.sealPart_srBy (d : Dev) (src : Src) (mine : Nat → Bool) : (d.srBy src mine).sealPart = d.sealPart := by
  simp only [Dev.srBy]
  split <;> simp

@[simp] theorem Dev.sealPart_srTimeoutEnd (d : Dev) (src : Src) : (d.srTimeoutEnd src).sealPart = d.sealPart := by
  simp [Dev.srTimeoutEnd]

@[simp] theorem Dev.sealPart_dropCal (d : Dev) (src : Src) : (d.dropCal src).sealPart = d.sealPart := by
  simp only [Dev.dropCal]
  split <;> simp

@[simp] theorem Dev.sealPart_srTimeout (d : Dev) (src : Src) : (d.srTimeout src).sealPart = d.sealPart := by
  simp [Dev.srTimeout]

@[simp] theorem Dev.sealPart_closeTimeout (d : Dev) : d.closeTimeout.sealPart = d.sealPart := by
  simp only [Dev.closeTimeout]
  (repeat' split) <;> simp

/-! ## The Strongroom's commands and timescale -/

@[simp] theorem Dev.sealPart_todEdge (d : Dev) (t : ℤ) : (d.todEdge t).sealPart = d.sealPart := by
  simp only [Dev.todEdge]
  (repeat' split) <;> simp

@[simp] theorem Dev.sealPart_phaseEdge (d : Dev) (e : ℤ) : (d.phaseEdge e).sealPart = d.sealPart := by
  simp [Dev.phaseEdge]

/-! ## The Cellarbook's commands -/

@[simp] theorem Dev.sealPart_bookRefuse (d : Dev) (n : Nat) (j : Job) : (d.bookRefuse n j).sealPart = d.sealPart := by
  simp [Dev.bookRefuse]

@[simp] theorem Dev.sealPart_bookBoundary (d : Dev) : d.bookBoundary.sealPart = d.sealPart := by
  rw [Dev.bookBoundary, Dev.sealPart_bookVisible, Dev.sealPart_foldl _ _ _ (fun b a => ?_)]
  (repeat' split) <;> simp

@[simp] theorem Dev.sealPart_exported (d : Dev) (p : Page) : (d.exported p).sealPart = d.sealPart := by simp [Dev.exported]

@[simp] theorem Dev.sealPart_exportHost (d : Dev) (p : Page) : (d.exportHost p).sealPart = d.sealPart := by
  simp [Dev.exportHost]

@[simp] theorem Dev.sealPart_exportJoin (d : Dev) (bay : Nat) (f : Bytes) : (d.exportJoin bay f).sealPart = d.sealPart := by
  simp [Dev.exportJoin]

@[simp] theorem Dev.sealPart_exportBay (d : Dev) (p : Page) : (d.exportBay p).sealPart = d.sealPart := by simp [Dev.exportBay]

@[simp] theorem Dev.sealPart_bookAck (d : Dev) (v : Nat) : (d.bookAck v).sealPart = d.sealPart := by
  simp [Dev.bookAck]

@[simp] theorem Dev.sealPart_ackWrite (d : Dev) (m val : Nat) : (d.ackWrite m val).sealPart = d.sealPart := by
  simp [Dev.ackWrite]

@[simp] theorem Dev.sealPart_hostAck (d : Dev) (v : Nat) : (d.hostAck v).sealPart = d.sealPart := by
  simp [Dev.hostAck]

/-! ## Egress -/

@[simp] theorem Dev.sealPart_setDeficit (d : Dev) (b n : Nat) : (d.setDeficit b n).sealPart = d.sealPart := by simp [Dev.setDeficit]

@[simp] theorem Dev.sealPart_drr (all : List Nat) (f : Nat) :
    ∀ (l : List Nat) (d : Dev), (Dev.drr all f l d).2.sealPart = d.sealPart := by
  induction f with
  | zero => exact fun _ _ => rfl
  | succ f ih =>
    intro l d
    simp only [Dev.drr]
    (repeat' split) <;> simp [ih]

@[simp] theorem Dev.sealPart_nextBay (d : Dev) (mac : Nat) : (d.nextBay mac).2.sealPart = d.sealPart := by
  simp only [Dev.nextBay]
  (repeat' split) <;> simp

@[simp] theorem Dev.sealPart_transmit (d : Dev) (mac bay gen : Nat) (f : Bytes) :
    (d.transmit mac bay gen f).sealPart = d.sealPart := by
  simp only [Dev.transmit]
  (repeat' split) <;> simp

@[simp] theorem Dev.sealPart_setHead (d : Dev) (b : Nat) (e : EgPkt) : (d.setHead b e).sealPart = d.sealPart := by
  simp [Dev.setHead]

@[simp] theorem Dev.sealPart_popHead (d : Dev) (b cost : Nat) : (d.popHead b cost).sealPart = d.sealPart := by simp [Dev.popHead]

@[simp] theorem Dev.sealPart_headerCell (d : Dev) (mac b gen : Nat) : (d.headerCell mac b gen).2.sealPart = d.sealPart := by
  simp [Dev.headerCell]

@[simp] theorem Dev.sealPart_sessFrames (d : Dev) (e : EgPkt) (sd : SessData) : (d.sessFrames e sd).2.sealPart = d.sealPart := by
  simp only [Dev.sessFrames]
  (repeat' split) <;> simp

@[simp] theorem Dev.sealPart_cutHead (mac b f : Nat) : ∀ d : Dev, (Dev.cutHead mac b f d).sealPart = d.sealPart := by
  induction f with
  | zero => exact fun _ => rfl
  | succ f ih =>
    intro d
    simp only [Dev.cutHead]
    (repeat' split) <;> simp [ih]

@[simp] theorem Dev.sealPart_cutHeads (d : Dev) (mac : Nat) : (d.cutHeads mac).sealPart = d.sealPart := by
  simp [Dev.cutHeads]

@[simp] theorem Dev.sealPart_sendRaw (d : Dev) (mac b : Nat) (e : EgPkt) : (d.sendRaw mac b e).sealPart = d.sealPart := by
  simp only [Dev.sendRaw]
  split
  · simp
  · split <;> simpa using Dev.sealPart_of_pair ‹_› (Dev.sealPart_headerCell ..)

@[simp] theorem Dev.sealPart_serveHead (d : Dev) (mac b : Nat) (e : EgPkt) : (d.serveHead mac b e).sealPart = d.sealPart := by
  simp [Dev.serveHead]

@[simp] theorem Dev.sealPart_egressServe (d : Dev) (mac : Nat) : (d.egressServe mac).sealPart = d.sealPart := by
  simp only [Dev.egressServe]
  (repeat' split) <;> simp

@[simp] theorem Dev.sealPart_headerRetry (d : Dev) (mac : Nat) : (d.headerRetry mac).sealPart = d.sealPart := by
  simp [Dev.headerRetry]

@[simp] theorem Dev.sealPart_headerDrop (d : Dev) (b : Nat) (e : EgPkt) : (d.headerDrop b e).sealPart = d.sealPart := by
  simp only [Dev.headerDrop]
  split <;> simp

@[simp] theorem Dev.sealPart_headerExpire (d : Dev) (mac : Nat) : (d.headerExpire mac).sealPart = d.sealPart := by
  unfold Dev.headerExpire
  exact Dev.sealPart_foldl _ _ _ (fun b a => by (repeat' split) <;> simp)

@[simp] theorem Dev.sealPart_setLane (d : Dev) (l hi lo v : Nat) : (d.setLane l hi lo v).sealPart = d.sealPart := (rfl)

@[simp] theorem Dev.sealPart_laneUp (d : Dev) (l p : Nat) : (d.laneUp l p).sealPart = d.sealPart := by simp [Dev.laneUp]

@[simp] theorem Dev.sealPart_laneRestart (d : Dev) (st l : Nat) : (d.laneRestart st l).sealPart = d.sealPart := by
  simp [Dev.laneRestart]

@[simp] theorem Dev.sealPart_groupUp (d : Dev) (ls pos : List Nat) (lock : Bool) :
    (d.groupUp ls pos lock).sealPart = d.sealPart := by simp [Dev.groupUp]

@[simp] theorem Dev.sealPart_groupDown (d : Dev) (ls : List Nat) (los : List Bool) :
    (d.groupDown ls los).sealPart = d.sealPart := by simp [Dev.groupDown]

@[simp] theorem Dev.sealPart_macLinkUp (d : Dev) (mac : Nat) (pos : List Nat) (lock : Bool) :
    (d.macLinkUp mac pos lock).sealPart = d.sealPart := by simp [Dev.macLinkUp]

@[simp] theorem Dev.sealPart_macLinkDown (d : Dev) (mac : Nat) : (d.macLinkDown mac).sealPart = d.sealPart := (rfl)

@[simp] theorem Dev.sealPart_pfcReceive (d : Dev) (mac enables : Nat) (times : List Nat) :
    (d.pfcReceive mac enables times).sealPart = d.sealPart := by simp [Dev.pfcReceive]

@[simp] theorem Dev.sealPart_pfcExpire (d : Dev) (mac q : Nat) : (d.pfcExpire mac q).sealPart = d.sealPart := by
  unfold Dev.pfcExpire; split <;> simp

@[simp] theorem Dev.sealPart_xoffRepeat (d : Dev) (p : Nat) : (d.xoffRepeat p).sealPart = d.sealPart := by
  simp [Dev.xoffRepeat]

/-! ## Segments of a session -/

@[simp] theorem Dev.sealPart_createSes (d : Dev) (n : Nat) (s : Session) (f : Bytes) :
    (d.createSes n s f).sealPart = d.sealPart := (rfl)

@[simp] theorem Dev.sealPart_synListen (d : Dev) (p : Pkt) (g : Seg) (l : Nat) : (d.synListen p g l).sealPart = d.sealPart := by
  simp only [Dev.synListen]
  (repeat' split) <;> simp

@[simp] theorem Dev.sealPart_newAck (d : Dev) (n gen : Nat) (s : Session) (a : Nat) :
    (d.newAck n gen s a).sealPart = d.sealPart := by simp [Dev.newAck]

@[simp] theorem Dev.sealPart_dupAck (d : Dev) (n gen : Nat) (s : Session) : (d.dupAck n gen s).sealPart = d.sealPart := by
  simp [Dev.dupAck]

@[simp] theorem Dev.sealPart_finCheck (d : Dev) (n : Nat) : (d.finCheck n).sealPart = d.sealPart := by
  unfold Dev.finCheck; split <;> simp

@[simp] theorem Dev.sealPart_ackIn (d : Dev) (n gen : Nat) (g : Seg) : (d.ackIn n gen g).sealPart = d.sealPart := by
  unfold Dev.ackIn; split <;> simp

@[simp] theorem Dev.sealPart_splitAt (d : Dev) (c : Chain) (k : Nat) : (((d.splitAt c k).2).2).sealPart = d.sealPart := by
  simp only [Dev.splitAt]; (repeat' split) <;> simp

@[simp] theorem Dev.sealPart_writePlain (d : Dev) (c : Chain) (bs : Bytes) : (d.writePlain c bs).2.sealPart = d.sealPart := by
  simp [Dev.writePlain]

@[simp] theorem Dev.sealPart_layOut (d : Dev) (c : Chain) (app hs : Bytes) (rest : Nat) :
    ((((d.layOut c app hs rest).2).2).2).sealPart = d.sealPart := by simp [Dev.layOut]

@[simp] theorem Dev.sealPart_recAbort (d : Dev) (n gen : Nat) (e : RecErr) : (d.recAbort n gen e).sealPart = d.sealPart := by
  unfold Dev.recAbort; split <;> simp

@[simp] theorem Dev.sealPart_deliverHs (d : Dev) (n : Nat) (s : Session) (p : Pkt) (app hs : Bytes) (b : Chain) :
    (d.deliverHs n s p app hs b).sealPart = d.sealPart := by simp [Dev.deliverHs]

@[simp] theorem Dev.sealPart_deliverTo (d : Dev) (n : Nat) (p : Pkt) (k : Nat) : (d.deliverTo n p k).2.sealPart = d.sealPart := by
  simp only [Dev.deliverTo]
  split
  · simp
  · split
    · split <;> simp
    · split
      · simp
      · simp [apply_ite (fun x : Chain × Chain × Chain × Dev => x.2.2.2)]

@[simp] theorem Dev.sealPart_deliver (d : Dev) (n : Nat) (p : Pkt) : (d.deliver n p).2.sealPart = d.sealPart := by
  simp [Dev.deliver]

@[simp] theorem Dev.sealPart_countData (d : Dev) (n gen : Nat) : (d.countData n gen).sealPart = d.sealPart := by
  unfold Dev.countData; split <;> simp

@[simp] theorem Dev.sealPart_joinData (d : Dev) (n : Nat) (bs : Bytes) (c : Chain) (fin : Bool) :
    (d.joinData n bs c fin).sealPart = d.sealPart := by unfold Dev.joinData; split <;> simp

@[simp] theorem Dev.sealPart_pullOoo (f : Nat) : ∀ (d : Dev) (n : Nat), (Dev.pullOoo f d n).sealPart = d.sealPart := by
  induction f with
  | zero => exact fun _ _ => rfl
  | succ f ih =>
    intro d n
    simp only [Dev.pullOoo]
    (repeat' split) <;> simp [ih]

@[simp] theorem Dev.sealPart_finIn (d : Dev) (n gen : Nat) (before data : Bool) :
    (d.finIn n gen before data).sealPart = d.sealPart := by unfold Dev.finIn; split <;> simp

@[simp] theorem Dev.sealPart_dataIn (d : Dev) (n : Nat) (p : Pkt) (g : Seg) : (d.dataIn n p g).2.sealPart = d.sealPart := by
  simp only [Dev.dataIn]
  (repeat' split) <;> simp

@[simp] theorem Dev.sealPart_consume (d : Dev) (p : Pkt) : (d.consume p).2.sealPart = d.sealPart := by
  simp [Dev.consume]

@[simp] theorem Dev.keepsSeal_synSegment (d : Dev) (n gen : Nat) (s : Session) (g : Seg) :
    d.keepsSeal (d.synSegment n gen s g) := by simp only [Dev.synSegment]; (repeat' split) <;> simp

theorem Dev.keepsSeal_synIf (d : Dev) (s : Session) (n : Nat) (p : Pkt) (g : Seg) :
    d.keepsSeal (if s.state = .syn then d.synSegment n p.gen s g else none) := by split <;> simp

@[simp] theorem Dev.sealPart_sesSegment (d : Dev) (n : Nat) (p : Pkt) (g : Seg) : (d.sesSegment n p g).2.sealPart = d.sealPart := by
  simp only [Dev.sesSegment]
  split
  · simp
  · split
    · simp
    · split
      · simp
      · split
        · rename_i h
          have k := Dev.keepsSeal_synIf _ _ _ _ _ _ h
          simp [k]
        · (repeat' split) <;> simp

@[simp] theorem Dev.sealPart_setMissQ (d : Dev) (pipe : Nat) (l : List Pkt) : (d.setMissQ pipe l).sealPart = d.sealPart := (rfl)

@[simp] theorem Dev.sealPart_sessionStage (d : Dev) (p : Pkt) : (d.sessionStage p).2.sealPart = d.sealPart := by
  simp only [Dev.sessionStage]
  (repeat' split) <;> simp

theorem Dev.sealPart_innerPass (d : Dev) (p : Pkt) : (d.innerPass p).elim True (fun e => e.2.sealPart = d.sealPart) := by
  simp only [Dev.innerPass]
  split
  · trivial
  · split
    · trivial
    · split
      · trivial
      · simp [apply_ite (fun o : Option (Option Pkt × Dev) => o.elim True (fun e => e.2.sealPart = d.sealPart)),
          apply_ite (fun x : Chain × Chain × Chain × Dev => x.2.2.2)]

end Sys2Proof.Machine
end

section
/-! PROOF. The seal and the change counter (R372, R373, O60), left as they are by:
forwarding, ingress and cores. -/

namespace Sys2Proof.Machine

/-! ## Forwarding -/

@[simp] theorem Dev.sealPart_setFslot (d : Dev) (i : Nat) (e : BitVec 256) : (d.setFslot i e).sealPart = d.sealPart := (rfl)

@[simp] theorem Dev.sealPart_fwdCount (d : Dev) (i : Nat) : (d.fwdCount i).sealPart = d.sealPart := (rfl)

@[simp] theorem Dev.sealPart_noteHit (d : Dev) (i : Nat) : (d.noteHit i).sealPart = d.sealPart := by
  simp [Dev.noteHit]

/-- What the statement reads of the device of an answer, under a name: with it the kernel need not project out of a `match`. -/
def Dev.pairPart {α : Type} (x : α × Dev) : Nat × Bool := x.2.sealPart

@[simp] theorem Dev.sealPart_fwdLookup (d : Dev) (p : Pkt) : (d.fwdLookup p).2.sealPart = d.sealPart := by
  change Dev.pairPart (d.fwdLookup p) = d.sealPart
  refine Eq.substr (b := Dev.fwdLookup) (p := fun f => Dev.pairPart (f d p) = d.sealPart) (by delta Dev.fwdLookup; rfl) ?_
  beta_reduce
  generalize (d.lookupKey p).bind d.findSlot = o
  rcases o with _ | i <;> simp [Dev.pairPart]

@[simp] theorem Dev.sealPart_takeLearn (d : Dev) : d.takeLearn.sealPart = d.sealPart := (rfl)

@[simp] theorem Dev.sealPart_putLearn (d : Dev) (l : Learn) : (d.putLearn l).sealPart = d.sealPart := (rfl)

@[simp] theorem Dev.sealPart_learnCheck (d : Dev) (p : Pkt) : (d.learnCheck p).2.sealPart = d.sealPart := by
  simp only [Dev.learnCheck]; (repeat' split) <;> simp

@[simp] theorem Dev.sealPart_learnApply (d : Dev) : d.learnApply.sealPart = d.sealPart := by
  simp [Dev.learnApply]

@[simp] theorem Dev.sealPart_sweepSlot (d : Dev) (i : Nat) : (d.sweepSlot i).sealPart = d.sealPart := by
  simp [Dev.sweepSlot]

@[simp] theorem Dev.sealPart_sweepSlots (d : Dev) (lo hi : Nat) : (d.sweepSlots lo hi).sealPart = d.sealPart := by
  simp [Dev.sweepSlots]

@[simp] theorem Dev.sealPart_sweepWalk (d : Dev) : d.sweepWalk.sealPart = d.sealPart := by
  simp [Dev.sweepWalk]

@[simp] theorem Dev.sealPart_hitApply (d : Dev) : d.hitApply.sealPart = d.sealPart := by simp [Dev.hitApply]

@[simp] theorem Dev.sealPart_sweepStart (d : Dev) : d.sweepStart.sealPart = d.sealPart := by
  simp [Dev.sweepStart]

/-! ## Ingress -/

@[simp] theorem Dev.sealPart_portCount (d : Dev) (i : Nat) : (d.portCount i).sealPart = d.sealPart := (rfl)

@[simp] theorem Dev.sealPart_takeFrame (tag pool n : Nat) :
    ∀ (d : Dev) (c : Chain), (d.takeFrame tag pool n c).2.sealPart = d.sealPart := by
  induction n with
  | zero => exact fun _ _ => rfl
  | succ n ih =>
    intro d c
    have h : (d.alloc tag pool 1 none).2.sealPart = d.sealPart := by simp
    simp only [Dev.takeFrame]
    split <;> simp_all

@[simp] theorem Dev.sealPart_storeFrame (d : Dev) (mac bay : Nat) (f : Bytes) (stamp : Option Nat) :
    (d.storeFrame mac bay f stamp).sealPart = d.sealPart := by
  have h := Dev.sealPart_takeFrame (pipeTag (d.macPipe mac)) (d.liveFld (R.portBay1 + 8 * bay) 24 20)
    (cellsFor (Nat.min f.length 10240)) d Chain.null
  simp only [Dev.storeFrame]
  split
  · simp_all
  · split <;> simp_all

@[simp] theorem Dev.sealPart_portFrame (d : Dev) (mac : Nat) (bay : Option Nat) (f : Bytes) (stamp : Option Nat) :
    (d.portFrame mac bay f stamp).sealPart = d.sealPart := by
  unfold Dev.portFrame
  (repeat' split) <;> simp

@[simp] theorem Dev.sealPart_frameReceive (d : Dev) (mac : Nat) (f : Bytes) : (d.frameReceive mac f).sealPart = d.sealPart := by
  have h : (d.strongPass.validateFrame mac f).2.sealPart = d.sealPart := by simp
  simp only [Dev.frameReceive]
  split
  · rfl
  · split
    · split <;> simp
    · split
      · simp_all
      · simp_all

@[simp] theorem Dev.sealPart_exception (d : Dev) (p : Pkt) (c route : Nat) : (d.exception p c route).sealPart = d.sealPart := by
  unfold Dev.exception; split <;> simp

@[simp] theorem Dev.sealPart_floodOut (d : Dev) (p : Pkt) : (d.floodOut p).2.sealPart = d.sealPart := by
  simp [Dev.floodOut]

@[simp] theorem Dev.sealPart_forward (d : Dev) (p : Pkt) : (d.forward p).2.sealPart = d.sealPart := by
  change Dev.pairPart (d.forward p) = d.sealPart
  refine Eq.substr (b := Dev.forward) (p := fun f => Dev.pairPart (f d p) = d.sealPart) (by delta Dev.forward; rfl) ?_
  beta_reduce
  extract_lets a q
  clear_value q a
  split
  · rfl
  · -- the rest of the passage is kept as a variable: the kernel would evaluate the pair it takes apart
    generalize hF : (fun (_ : Bool) (_ : Dev) => _) = F
    obtain ⟨G, hG⟩ : ∃ G, G = F := ⟨F, rfl⟩
    have h (fl : Bool) (e : Dev) (he : e.sealPart = d.sealPart) : Dev.pairPart (G fl e) = d.sealPart := by
      rw [hG, ← hF]
      beta_reduce
      extract_lets w br gr
      have hy : Dev.pairPart (if gr then (none, e) else e.fwdLookup q) = d.sealPart := by split <;> simp [he, Dev.pairPart]
      generalize (if gr then (none, e) else e.fwdLookup q) = y at hy ⊢
      clear_value w br gr
      obtain ⟨hit, e⟩ := y
      clear hF
      (repeat' split) <;> simp_all [Dev.pairPart]
    have hx : Dev.pairPart (if bitOf a 6 then d.learnCheck q else (false, d)) = d.sealPart := by split <;> simp [Dev.pairPart]
    rw [← hG]
    generalize (if bitOf a 6 then d.learnCheck q else (false, d)) = x at hx ⊢
    obtain ⟨fl, e⟩ := x
    exact h fl e hx

@[simp] theorem Dev.sealPart_recirculate (d : Dev) (p : Pkt) : (d.recirculate p).sealPart = d.sealPart := (rfl)

@[simp] theorem Dev.sealPart_actRecirc (d : Dev) (p : Pkt) : (d.actRecirc p).sealPart = d.sealPart := by
  have h := d.sealPart_innerPass p
  simp only [Dev.actRecirc]
  split
  · simp
  · split
    · simp
    · split <;> simp_all

@[simp] theorem Dev.sealPart_finishAction (d : Dev) (p : Pkt) : (d.finishAction p).sealPart = d.sealPart := by
  simp only [Dev.finishAction]
  (repeat' split) <;> simp

@[simp] theorem Dev.sealPart_afterForward (d : Dev) (p : Pkt) : (d.afterForward p).sealPart = d.sealPart := by
  simp only [Dev.afterForward]
  split
  · split <;> simpa using Dev.sealPart_of_pair ‹_› (d.sealPart_sessionStage p)
  · simp

@[simp] theorem Dev.sealPart_order (d : Dev) (p : Pkt) : (d.order p).2.sealPart = d.sealPart := by
  unfold Dev.order; split <;> simp

@[simp] theorem Dev.sealPart_act (d : Dev) (p : Pkt) (a : Nat) : (d.act p a).sealPart = d.sealPart := by
  refine Eq.substr (b := Dev.act) (p := fun f => (f d p a).sealPart = d.sealPart) (by delta Dev.act; rfl) ?_
  beta_reduce
  extract_lets q
  clear_value q
  split
  · -- what follows the ordering is kept as a variable: the kernel would evaluate the pair it takes apart
    generalize hF : (fun (_ : Pkt) (_ : Dev) => _) = F
    obtain ⟨G, hG⟩ : ∃ G, G = F := ⟨F, rfl⟩
    have h (p : Pkt) (e : Dev) (he : e.sealPart = d.sealPart) : (G p e).sealPart = d.sealPart := by
      rw [hG, ← hF]
      have hy : (e.forward p).2.sealPart = d.sealPart := by simp [he]
      beta_reduce
      generalize e.forward p = y at hy ⊢
      simp [hy]
    have hx : (d.order q).2.sealPart = d.sealPart := by simp
    rw [← hG]
    generalize d.order q = x at hx ⊢
    exact h x.1 x.2 hx
  · simp

@[simp] theorem Dev.sealPart_noteRow (d : Dev) (r : Nat) : (d.noteRow r).sealPart = d.sealPart := (rfl)

theorem Dev.lookupAction_cases {P : Nat × Dev → Prop} (d : Dev) (p : Pkt)
    (hrow : ∀ r, P (d.rowNum (d.bankAt 6 p.gen) r 40 4, d.noteRow r)) (hmiss : P (actMiss, d.bump R.clasMissCnt)) :
    P (d.lookupAction p) := by
  have h : ∃ f, Dev.lookupAction = f ∧ P (f d p) := by
    refine ⟨_, by delta Dev.lookupAction; rfl, ?_⟩
    generalize d.searchRows p.gen p.key = x
    cases x with
    | none => exact hmiss
    | some r => exact hrow r
  obtain ⟨f, hf, h⟩ := h
  exact hf ▸ h

@[simp] theorem Dev.sealPart_lookupAction (d : Dev) (p : Pkt) : (d.lookupAction p).2.sealPart = d.sealPart :=
  Dev.lookupAction_cases (P := fun x => x.2.sealPart = d.sealPart) d p (fun _ => by simp) (by simp)

@[simp] theorem Dev.sealPart_actOrMiss (d : Dev) (p : Pkt) (a : Nat) : (d.actOrMiss p a).sealPart = d.sealPart := by
  simp [Dev.actOrMiss]

@[simp] theorem Dev.sealPart_failPass (d : Dev) (p : Pkt) (o : Nat) : (d.failPass p o).sealPart = d.sealPart := by
  simp [Dev.failPass]

@[simp] theorem Dev.sealPart_fragCount (d : Dev) (i : Nat) : (d.fragCount i).sealPart = d.sealPart := (rfl)

@[simp] theorem Dev.sealPart_setFrag (d : Dev) (k : Nat) (f : Frag) : (d.setFrag k f).sealPart = d.sealPart := (rfl)

@[simp] theorem Dev.sealPart_slowPath (d : Dev) (p : Pkt) : (d.slowPath p).sealPart = d.sealPart := by
  simp [Dev.slowPath]

@[simp] theorem Dev.sealPart_slowAll (d : Dev) (l : List Pkt) : (d.slowAll l).sealPart = d.sealPart := by
  simp [Dev.slowAll]

@[simp] theorem Dev.sealPart_followFrag (d : Dev) (p m : Pkt) : (d.followFrag p m).sealPart = d.sealPart := by
  unfold Dev.followFrag; split <;> simp

@[simp] theorem Dev.sealPart_firstFrag (d : Dev) (p : Pkt) (ident k : Nat) (held : List Pkt) (created : Nat) :
    (d.firstFrag p ident k held created).sealPart = d.sealPart := by
  refine Eq.substr (b := Dev.firstFrag) (p := fun f => (f d p ident k held created).sealPart = d.sealPart)
    (by delta Dev.firstFrag; rfl) ?_
  beta_reduce
  -- what follows the lookup is kept as a variable: the kernel would evaluate the lookup
  generalize hF : (fun (_ : Nat) (_ : Dev) => _) = F
  obtain ⟨G, hG⟩ : ∃ G, G = F := ⟨F, rfl⟩
  have h (a : Nat) (e : Dev) (he : e.sealPart = d.sealPart) : (G a e).sealPart = d.sealPart := by
    rw [hG, ← hF]
    beta_reduce
    clear hG hF
    extract_lets +onlyGivenNames entry
    split
    · simp [he]
    · split
      · simp only
        rw [Dev.sealPart_foldl _ _ _ (fun d q => by simp)]
        simp [he]
      · generalize hK : (fun (_ : Pkt) (_ : Dev) => _) = K
        obtain ⟨L, hL⟩ : ∃ L, L = K := ⟨K, rfl⟩
        have h (p : Pkt) (c : Dev) (hc : c.sealPart = d.sealPart) : (L p c).sealPart = d.sealPart := by
          rw [hL, ← hK]
          have hy : (c.forward p).2.sealPart = d.sealPart := by simp [hc]
          beta_reduce
          generalize c.forward p = y at hy ⊢
          simp [hy]
        have hx : (e.order (p.withAction a)).2.sealPart = d.sealPart := by simp [he]
        rw [← hL]
        generalize e.order (p.withAction a) = x at hx ⊢
        obtain ⟨p, c⟩ := x
        exact h p c hx
  have hx : (d.lookupAction p).2.sealPart = d.sealPart := by simp
  rw [← hG]
  generalize d.lookupAction p = x at hx ⊢
  obtain ⟨a, e⟩ := x
  exact h a e hx

@[simp] theorem Dev.sealPart_fragFirst (d : Dev) (p : Pkt) (ident o : Nat) : (d.fragFirst p ident o).sealPart = d.sealPart := by
  simp only [Dev.fragFirst]
  (repeat' split) <;> simp

@[simp] theorem Dev.sealPart_fragLater (d : Dev) (p : Pkt) (ident : Nat) : (d.fragLater p ident).sealPart = d.sealPart := by
  simp only [Dev.fragLater]; (repeat' split) <;> simp

@[simp] theorem Dev.sealPart_fragExpire (d : Dev) (set way : Nat) : (d.fragExpire set way).sealPart = d.sealPart := by
  simp only [Dev.fragExpire]
  (repeat' split) <;> simp

@[simp] theorem Dev.sealPart_takeSlot (d : Dev) (pipe : Nat) : (d.takeSlot pipe).sealPart = d.sealPart := (rfl)

@[simp] theorem Dev.sealPart_countNew (d : Dev) (pipe : Nat) : (d.countNew pipe).sealPart = d.sealPart := (rfl)

@[simp] theorem Dev.sealPart_classify (d : Dev) (p : Pkt) : (d.classify p).sealPart = d.sealPart := by
  refine Eq.substr (b := Dev.classify) (p := fun f => (f d p).sealPart = d.sealPart) (by delta Dev.classify; rfl) ?_
  beta_reduce
  split
  · simp
  · generalize d.parse p = x
    obtain ⟨e, w, p⟩ := x
    generalize hw : w.fragAt = f
    rcases e with o | _ <;> rcases f with _ | ⟨pos, v6⟩ <;> simp only [hw]
    · split <;> simp
    · have he : (if o = 0 then d else d.bump (R.parsOut + 4 * (o - 1))).sealPart = d.sealPart := by split <;> simp
      simp [he]
    · simp
    · simp

@[simp] theorem Dev.sealPart_admitNext (d : Dev) (pipe : Nat) : (d.admitNext pipe).sealPart = d.sealPart := by
  simp only [Dev.admitNext]
  (repeat' split) <;> simp

@[simp] theorem Dev.sealPart_recircAdmit (d : Dev) (pipe : Nat) : (d.recircAdmit pipe).sealPart = d.sealPart := by
  simp only [Dev.recircAdmit]
  (repeat' split) <;> simp

@[simp] theorem Dev.sealPart_rowCmd (d : Dev) (m r : Nat) (act : Dev → Dev) (h : ∀ d, (act d).sealPart = d.sealPart) :
    (d.rowCmd m r act).sealPart = d.sealPart := by
  unfold Dev.rowCmd
  exact Dev.sealPart_doorbell _ _ _ _ _ _ _ (fun d => by split <;> simp [h])

@[simp] theorem Dev.sealPart_rowWrite (d : Dev) (m r : Nat) : (d.rowWrite m r).sealPart = d.sealPart := by
  simp [Dev.rowWrite]

@[simp] theorem Dev.sealPart_rowRead (d : Dev) (m r : Nat) (live : Bool) : (d.rowRead m r live).sealPart = d.sealPart := by
  unfold Dev.rowRead; exact Dev.sealPart_doorbell _ _ _ _ _ _ _ (fun d => by (repeat' split) <;> simp)

/-! ## Cores and galleries -/

@[simp] theorem Dev.sealPart_stillTest (d : Dev) (g m : Nat) : (d.stillTest g m).sealPart = d.sealPart := by
  simp [Dev.stillTest]

@[simp] theorem Dev.sealPart_stillForget (d : Dev) (g : Nat) : (d.stillForget g).sealPart = d.sealPart := (rfl)

@[simp] theorem Dev.sealPart_stillTests (d : Dev) : d.stillTests.sealPart = d.sealPart := by
  simp [Dev.stillTests]

@[simp] theorem Dev.sealPart_stillness (d : Dev) (g m : Nat) : (d.stillness g m).sealPart = d.sealPart := by
  simp only [Dev.stillness]
  (repeat' split) <;> simp

@[simp] theorem Dev.sealPart_retireThread (d : Dev) (id : Tid) : (d.retireThread id).sealPart = d.sealPart := by
  simp [Dev.retireThread]

@[simp] theorem Dev.sealPart_sweepThread (d : Dev) (id : Tid) (heir : Option Nat) :
    (d.sweepThread id heir).sealPart = d.sealPart := by
  simp only [Dev.sweepThread]; (repeat' split) <;> simp

@[simp] theorem Dev.sealPart_retireThreads (d : Dev) (ids : List Tid) : (d.retireThreads ids).sealPart = d.sealPart := by
  simp [Dev.retireThreads]

@[simp] theorem Dev.sealPart_requeueTask (d : Dev) (g : Nat) (p : Pkt) : (d.requeueTask g p).sealPart = d.sealPart := by
  simp [Dev.requeueTask]

@[simp] theorem Dev.sealPart_dissolveCore (d : Dev) (g p : Nat) (heir : Option Nat) (retired : Bool) :
    (d.dissolveCore g p heir retired).2.sealPart = d.sealPart := by simp [Dev.dissolveCore]

@[simp] theorem Dev.sealPart_unmapCore (d : Dev) (g l : Nat) : (d.unmapCore g l).sealPart = d.sealPart := (rfl)

@[simp] theorem Dev.sealPart_retireShrink (d : Dev) (g p l : Nat) : (d.retireShrink g p l).2.sealPart = d.sealPart := by
  simp only [Dev.retireShrink]; (repeat' split) <;> simp

@[simp] theorem Dev.sealPart_retireSpare (d : Dev) (g p l : Nat) : (d.retireSpare g p l).2.sealPart = d.sealPart := by
  simp [Dev.retireSpare]

@[simp] theorem Dev.sealPart_retireCore (d : Dev) (g p : Nat) : (d.retireCore g p).sealPart = d.sealPart := by
  simp only [Dev.retireCore]; (repeat' split) <;> simp

@[simp] theorem Dev.sealPart_coreCtl (d : Dev) (m g v : Nat) : (d.coreCtl m g v).sealPart = d.sealPart := by
  unfold Dev.coreCtl; exact Dev.sealPart_doorbell _ _ _ _ _ _ _ (fun d => by (repeat' split) <;> simp)

@[simp] theorem Dev.sealPart_loadCommon (d : Dev) (g l spare : Nat) : (d.loadCommon g l spare).sealPart = d.sealPart := by
  simp [Dev.loadCommon]

@[simp] theorem Dev.sealPart_startOnSpare (d : Dev) (r : Retiring) (g t : Nat) : (d.startOnSpare r g t).sealPart = d.sealPart := by
  simp only [Dev.startOnSpare]
  (repeat' split) <;> simp

@[simp] theorem Dev.sealPart_spareStart (d : Dev) (g : Nat) (r : Retiring) : (d.spareStart g r).sealPart = d.sealPart := by
  simp [Dev.spareStart]

/-! ## The host's registers -/

@[simp] theorem Dev.sealPart_sendVec (d : Dev) (v : Nat) : (d.sendVec v).sealPart = d.sealPart := by
  simp [Dev.sendVec]

@[simp] theorem Dev.sealPart_signal (d : Dev) (v : Nat) : (d.signal v).sealPart = d.sealPart := by
  simp [Dev.signal]

@[simp] theorem Dev.sealPart_msixPending (d : Dev) (key : Nat) : (d.msixPending key).sealPart = d.sealPart := by
  simp [Dev.msixPending]

@[simp] theorem Dev.sealPart_ropeSend (d : Dev) (type : Nat) (data : Bytes) : (d.ropeSend type data).sealPart = d.sealPart := by
  simp [Dev.ropeSend]

@[simp] theorem Dev.sealPart_ropeNotify (d : Dev) (kind i : Nat) : (d.ropeNotify kind i).sealPart = d.sealPart := by
  simp [Dev.ropeNotify]

@[simp] theorem Dev.sealPart_slotPost (d : Dev) (s : Nat) : (d.slotPost s).sealPart = d.sealPart := by
  unfold Dev.slotPost; split <;> simp

@[simp] theorem Dev.sealPart_viewPost (d : Dev) (v holder : Nat) : (d.viewPost v holder).sealPart = d.sealPart := by
  unfold Dev.viewPost; split <;> simp

@[simp] theorem Dev.sealPart_setMode (d : Dev) (m : Nat) : (d.setMode m).sealPart = d.sealPart := by
  simp [Dev.setMode]

/-! ## Forwarding tables -/

@[simp] theorem Dev.sealPart_setFwdCmd (d : Dev) (m : Nat) (c : Option FwdCmd) : (d.setFwdCmd m c).sealPart = d.sealPart := (rfl)

@[simp] theorem Dev.sealPart_fwdEnd (d : Dev) (m code : Nat) : (d.fwdEnd m code).sealPart = d.sealPart := (rfl)

@[simp] theorem Dev.sealPart_headWrite (d : Dev) (a : Nat) (bs : Bytes) : (d.headWrite a bs).sealPart = d.sealPart := by
  simp only [Dev.headWrite]
  (repeat' split) <;> simp

@[simp] theorem Dev.sealPart_fwdGo (d : Dev) (m op : Nat) : (d.fwdGo m op).sealPart = d.sealPart := by
  simp [Dev.fwdGo]

@[simp] theorem Dev.sealPart_releaseBuckets (d : Dev) (m : Nat) (bs : List Nat) :
    (d.releaseBuckets m bs).sealPart = d.sealPart := (rfl)

@[simp] theorem Dev.sealPart_lockAt (d : Dev) (m : Nat) (c : FwdCmd) : (d.lockAt m c).sealPart = d.sealPart := by
  simp [Dev.lockAt]

@[simp] theorem Dev.sealPart_fwdCommand (d : Dev) (m : Nat) : (d.fwdCommand m).sealPart = d.sealPart := by
  simp only [Dev.fwdCommand]; (repeat' split) <;> simp

@[simp] theorem Dev.sealPart_fwdBoundary (d : Dev) : d.fwdBoundary.sealPart = d.sealPart := by
  simp [Dev.fwdBoundary]

@[simp] theorem Dev.sealPart_readFails (d : Dev) (tag code : Nat) : (d.readFails tag code).sealPart = d.sealPart := by
  simp only [Dev.readFails]; (repeat' split) <;> simp

/-! ## The Rope's frames -/

@[simp] theorem Dev.sealPart_ropeCount (d : Dev) (i : Nat) : (d.ropeCount i).sealPart = d.sealPart := by simp [Dev.ropeCount]

@[simp] theorem Dev.sealPart_setRope (d : Dev) (st ver reason : Nat) : (d.setRope st ver reason).sealPart = d.sealPart := by
  simp [Dev.setRope]

@[simp] theorem Dev.sealPart_ropeLeave (d : Dev) : d.ropeLeave.sealPart = d.sealPart := by
  simp [Dev.ropeLeave]

@[simp] theorem Dev.sealPart_ropeHello (d : Dev) : d.ropeHello.sealPart = d.sealPart := by
  simp [Dev.ropeHello]

@[simp] theorem Dev.sealPart_sendHello (d : Dev) : d.sendHello.sealPart = d.sealPart := (rfl)

@[simp] theorem Dev.sealPart_ropeLoss (d : Dev) : d.ropeLoss.sealPart = d.sealPart := by simp [Dev.ropeLoss]

@[simp] theorem Dev.sealPart_ropeFlip (d old : Dev) : (d.ropeFlip old).sealPart = d.sealPart := by
  simp [Dev.ropeFlip]

end Sys2Proof.Machine
end

section
/-! PROOF. The seal and the change counter (R372, R373, O60), left as they are by:
commits, formats, DRAM and the Lode. -/

namespace Sys2Proof.Machine

/-! ## Commits -/

@[simp] theorem Dev.sealPart_slotWrite (d : Dev) (m s reg val : Nat) : (d.slotWrite m s reg val).sealPart = d.sealPart := by
  unfold Dev.slotWrite
  split
  · rfl
  · refine Dev.sealPart_ownDoorbell _ _ _ _ _ _ _ (fun d => ?_)
    simp only
    (repeat' split) <;> simp

@[simp] theorem Dev.sealPart_slotCtrl (d : Dev) (m s val : Nat) : (d.slotCtrl m s val).sealPart = d.sealPart := by
  simp [Dev.slotCtrl]

@[simp] theorem Dev.sealPart_slotDone (d : Dev) (s code detail gen loc : Nat) :
    (d.slotDone s code detail gen loc).sealPart = d.sealPart := by simp [Dev.slotDone]

@[simp] theorem Dev.sealPart_armChecks (d : Dev) : d.armChecks.sealPart = d.sealPart := by
  unfold Dev.armChecks
  refine Dev.sealPart_foldl _ _ _ (fun d s => ?_)
  simp only
  (repeat' split) <;> simp

@[simp] theorem Dev.sealPart_limpCommits (d : Dev) : d.limpCommits.sealPart = d.sealPart := by
  simp [Dev.limpCommits]

@[simp] theorem Dev.sealPart_validate (f : Nat) : ∀ (d : Dev) (l : List Nat), (Dev.validate f d l).2.sealPart = d.sealPart := by
  induction f with
  | zero => exact fun _ _ => rfl
  | succ f ih =>
    intro d l
    simp only [Dev.validate]
    split
    · rfl
    · rw [ih, Dev.sealPart_foldl _ _ _ (fun b a => ?_)]
      split <;> simp

@[simp] theorem Dev.sealPart_flipGroup (d : Dev) (gen g : Nat) : (d.flipGroup gen g).sealPart = d.sealPart := (rfl)

@[simp] theorem Dev.sealPart_drainTo (d : Dev) (g : Nat) (lim : Option Nat) : (d.drainTo g lim).sealPart = d.sealPart := by
  simp [Dev.drainTo]

@[simp] theorem Dev.sealPart_chanFlip (d : Dev) : d.chanFlip.sealPart = d.sealPart := by
  unfold Dev.chanFlip
  refine Dev.sealPart_foldl _ _ _ (fun d e => ?_)
  simp only
  (repeat' split) <;> simp

@[simp] theorem Dev.sealPart_codeEvents (d : Dev) : d.codeEvents.sealPart = d.sealPart := by
  simp [Dev.codeEvents]

@[simp] theorem Dev.sealPart_capBuckets (d : Dev) : d.capBuckets.sealPart = d.sealPart := (rfl)

@[simp] theorem Dev.sealPart_bindLanes (d old : Dev) : (d.bindLanes old).sealPart = d.sealPart := by
  simp [Dev.bindLanes]

@[simp] theorem Dev.sealPart_lanePolarity (d : Dev) : d.lanePolarity.sealPart = d.sealPart := by
  unfold Dev.lanePolarity; exact Dev.sealPart_foldl _ _ _ (fun b a => by (repeat' split) <;> simp)

@[simp] theorem Dev.sealPart_startSas (d old : Dev) : (d.startSas old).sealPart = d.sealPart := by
  simp [Dev.startSas]

@[simp] theorem Dev.sealPart_afterFlip (d old : Dev) (mask : Nat) : (d.afterFlip old mask).sealPart = d.sealPart := by
  simp [Dev.afterFlip]

@[simp] theorem Dev.sealPart_flipAll (d : Dev) (l : List Nat) : (d.flipAll l).sealPart = d.sealPart := by
  simp [Dev.flipAll]

@[simp] theorem Dev.sealPart_slotWait (d : Dev) (s : Nat) : (d.slotWait s).sealPart = d.sealPart := by
  simp [Dev.slotWait]

@[simp] theorem Dev.sealPart_commitTurn (d : Dev) : d.commitTurn.sealPart = d.sealPart := by
  simp [Dev.commitTurn]

@[simp] theorem Dev.sealPart_slotReport (d : Dev) (slot : Nat) : (d.slotReport slot).sealPart = d.sealPart := by
  simp [Dev.slotReport]

@[simp] theorem Dev.sealPart_copyLost (d : Dev) (copied : Nat → Bool) : (d.copyLost copied).sealPart = d.sealPart := by
  simp [Dev.copyLost]

@[simp] theorem Dev.sealPart_copyLines (d : Dev) (g : Nat) : (d.copyLines g).sealPart = d.sealPart := by
  simp [Dev.copyLines]

@[simp] theorem Dev.sealPart_noteReady (d : Dev) (g : Nat) : (d.noteReady g).sealPart = d.sealPart := by
  simp [Dev.noteReady]

@[simp] theorem Dev.sealPart_bankStaged (d : Dev) (g : Nat) : (d.bankStaged g).sealPart = d.sealPart := by
  simp [Dev.bankStaged]

/-! ## The format pool -/

@[simp] theorem Dev.sealPart_fmtCount (d : Dev) (i : Nat) : (d.fmtCount i).sealPart = d.sealPart := by simp [Dev.fmtCount]

@[simp] theorem Dev.sealPart_setFmtEng (d : Dev) (e : Nat) (v : FmtEng) : (d.setFmtEng e v).sealPart = d.sealPart := (rfl)

@[simp] theorem Dev.sealPart_fmtEnd (d : Dev) (n : Nat) (j : Job) (code : Nat) (r : FRes) :
    (d.fmtEnd n j code r).sealPart = d.sealPart := by simp [Dev.fmtEnd]

@[simp] theorem Dev.sealPart_fmtAdmit (d : Dev) (n : Nat) (mine : Nat → Bool) : (d.fmtAdmit n mine).sealPart = d.sealPart := by
  simp only [Dev.fmtAdmit]
  (repeat' split) <;> simp

@[simp] theorem Dev.sealPart_fmtDispatch (d : Dev) (e : Nat) : (d.fmtDispatch e).sealPart = d.sealPart := by
  simp only [Dev.fmtDispatch]
  (repeat' split) <;> simp

@[simp] theorem Dev.sealPart_fmtRetired (d : Dev) (e cause moved : Nat) (spare : Option Nat) :
    (d.fmtRetired e cause moved spare).sealPart = d.sealPart := (rfl)

@[simp] theorem Dev.sealPart_retireFmt (d : Dev) (e cause : Nat) : (d.retireFmt e cause).sealPart = d.sealPart := by
  simp only [Dev.retireFmt]; (repeat' split) <;> simp

@[simp] theorem Dev.sealPart_fmtWrite (d : Dev) (n : Nat) (j : Job) (sound : Bool) :
    (d.fmtWrite n j sound).sealPart = d.sealPart := by
  refine Eq.substr (b := Dev.fmtWrite) (p := fun f => (f d n j sound).sealPart = d.sealPart) (by delta Dev.fmtWrite; rfl) ?_
  beta_reduce
  split
  · simp
  · extract_lets r e
    have he : e.sealPart = d.sealPart := by unfold e; split <;> simp
    clear_value r e
    split
    · simp
    · rw [Dev.sealPart_fmtEnd]
      split <;> simp [he]

@[simp] theorem Dev.sealPart_fmtDisagree (d : Dev) (n : Nat) (j : Job) : (d.fmtDisagree n j).sealPart = d.sealPart := by
  simp [Dev.fmtDisagree]

@[simp] theorem Dev.sealPart_fmtRun (d : Dev) (n : Nat) (j : Job) (it : FmtItem) : (d.fmtRun n j it).sealPart = d.sealPart := by
  simp only [Dev.fmtRun]
  (repeat' split) <;> simp

@[simp] theorem Dev.sealPart_fmtComplete (d : Dev) (e : Nat) (sound : Bool) : (d.fmtComplete e sound).sealPart = d.sealPart := by
  simp only [Dev.fmtComplete]
  (repeat' split) <;> simp

@[simp] theorem Dev.sealPart_fmtKat (d : Dev) (e : Nat) (pass : Bool) : (d.fmtKat e pass).sealPart = d.sealPart := by
  simp [Dev.fmtKat]

@[simp] theorem Dev.sealPart_fmtEngCtl (d : Dev) (m v : Nat) : (d.fmtEngCtl m v).sealPart = d.sealPart := by
  simp [Dev.fmtEngCtl]

/-! ## Latches at the ends of their waits -/

@[simp] theorem Dev.sealPart_issueAcquire (d : Dev) (id : Tid) (off : Nat) : (d.issueAcquire id off).sealPart = d.sealPart :=
  Dev.sealPart_issueWith _ _ _ _ (fun _ _ => by split <;> simp)

@[simp] theorem Dev.sealPart_issueRelease (d : Dev) (id : Tid) (mine : Nat → Bool) :
    (d.issueRelease id mine).sealPart = d.sealPart :=
  Dev.sealPart_issueWith _ _ _ _ (fun d0 i => by
    split
    · rfl
    · exact Dev.sealPart_withOps_of _ _ _ _ _ (fun e evs b he => by split <;> simp [he]))

@[simp] theorem Dev.sealPart_latchTimeoutBy (d : Dev) (who : Who) : (d.latchTimeoutBy who).sealPart = d.sealPart := by
  simp only [Dev.latchTimeoutBy]
  split <;> simp

@[simp] theorem Dev.sealPart_holdWatchdog (d : Dev) (n : Nat) : (d.holdWatchdog n).sealPart = d.sealPart := by
  simp [Dev.holdWatchdog]

@[simp] theorem Dev.sealPart_hostAcquire (d : Dev) (m : Nat) (tr : Bool) : (d.hostAcquire m tr).sealPart = d.sealPart := by
  have h (n t dl : Nat) (tr : Bool) : (d.latchAcquire n t dl tr).2.sealPart = d.sealPart := by simp
  simp only [Dev.hostAcquire]
  split <;> simpa [*] using h (d.hostLatch m) (masterTag m) (d.drip.now + Nat.min (d.latchTimeout (d.hostLatch m)) 16) tr

@[simp] theorem Dev.sealPart_hostRelease (d : Dev) (m v : Nat) : (d.hostRelease m v).sealPart = d.sealPart := by
  simp [Dev.hostRelease]

/-! ## Views -/

@[simp] theorem Dev.sealPart_setView (d : Dev) (v : Nat) (b : ViewBuf) : (d.setView v b).sealPart = d.sealPart := (rfl)

@[simp] theorem Dev.sealPart_viewReq (d : Dev) (m val : Nat) : (d.viewReq m val).sealPart = d.sealPart := by
  simp [Dev.viewReq]

@[simp] theorem Dev.sealPart_viewReady (d : Dev) (v : Nat) : (d.viewReady v).sealPart = d.sealPart := by
  simp [Dev.viewReady]

/-! ## Reads of the window -/

@[simp] theorem Dev.sealPart_clearRc (d : Dev) (o : Nat) : (d.clearRc o).sealPart = d.sealPart := by
  unfold Dev.clearRc; split <;> simp

@[simp] theorem Dev.sealPart_answer (d : Dev) (m v : Nat) : (d.answer m v).sealPart = d.sealPart := (rfl)

@[simp] theorem Dev.sealPart_csrRead (d : Dev) (m o : Nat) : (d.csrRead m o).sealPart = d.sealPart := by
  simp [Dev.csrRead]

/-! ## The debugger -/

@[simp] theorem Dev.sealPart_haltWait (d : Dev) (id : Tid) : (d.haltWait id).sealPart = d.sealPart := (rfl)

@[simp] theorem Dev.keepsSeal_haltThread (d : Dev) (id : Tid) : d.keepsSeal (d.haltThread id) := by
  simp only [Dev.haltThread]; (repeat' split) <;> simp

@[simp] theorem Dev.keepsSeal_resumeThread (d : Dev) (id : Tid) : d.keepsSeal (d.resumeThread id) := by
  simp only [Dev.resumeThread]; (repeat' split) <;> simp

@[simp] theorem Dev.keepsSeal_stepThread (d : Dev) (id : Tid) : d.keepsSeal (d.stepThread id) := by
  unfold Dev.stepThread; split <;> simp

@[simp] theorem Dev.keepsSeal_dbugEffect (d : Dev) (m op : Nat) (id : Tid) : d.keepsSeal (d.dbugEffect m op id) := by
  simp only [Dev.dbugEffect]; (repeat' split) <;> simp

@[simp] theorem Dev.sealPart_dbugCtl (d : Dev) (m v : Nat) : (d.dbugCtl m v).sealPart = d.sealPart := by
  unfold Dev.dbugCtl
  refine Dev.sealPart_doorbell _ _ _ _ _ _ _ (fun d => ?_)
  simp only
  split
  · simp
  · split
    · simp
    · split
      · simp
      · have k := Dev.keepsSeal_dbugEffect _ _ _ _ _ ‹_›
        (repeat' split) <;> simp [k]

/-! ## DRAM and its arbiters -/

@[simp] theorem Dev.sealPart_updChan (d : Dev) (c : Nat) (f : Chan → Chan) : (d.updChan c f).sealPart = d.sealPart := by
  simp [Dev.updChan]

@[simp] theorem Dev.sealPart_chanCount (d : Dev) (c i : Nat) : (d.chanCount c i).sealPart = d.sealPart := by simp [Dev.chanCount]

@[simp] theorem Dev.sealPart_setChanState (d : Dev) (c v : Nat) : (d.setChanState c v).sealPart = d.sealPart := by
  simp [Dev.setChanState]

@[simp] theorem Dev.sealPart_chanIncident (d : Dev) (c cause : Nat) : (d.chanIncident c cause).sealPart = d.sealPart := by
  simp [Dev.chanIncident]

@[simp] theorem Dev.sealPart_failChan (d : Dev) (c cause : Nat) : (d.failChan c cause).sealPart = d.sealPart := by
  simp [Dev.failChan]

@[simp] theorem Dev.sealPart_recordFits (d : Dev) (ch first : Nat) (l : List (Option LaneFit)) :
    (d.recordFits ch first l).sealPart = d.sealPart := by
  unfold Dev.recordFits
  exact Dev.sealPart_foldl _ _ _ (fun b a => by (repeat' split) <;> simp)

@[simp] theorem Dev.sealPart_trainChan (d : Dev) (t : Training) : (d.trainChan t).sealPart = d.sealPart := by
  simp [Dev.trainChan]

@[simp] theorem Dev.sealPart_chansTrain (d : Dev) : d.chansTrain.sealPart = d.sealPart := by simp [Dev.chansTrain]

@[simp] theorem Dev.sealPart_trainChans (d : Dev) (l : List Training) : (d.trainChans l).sealPart = d.sealPart := by
  simp [Dev.trainChans]

@[simp] theorem Dev.sealPart_deviceCe (d : Dev) (ch ca dev : Nat) : (d.deviceCe ch ca dev).sealPart = d.sealPart := by
  simp [Dev.deviceCe]

@[simp] theorem Dev.sealPart_poisonLine (d : Dev) (ch ca : Nat) : (d.poisonLine ch ca).sealPart = d.sealPart := by
  simp only [Dev.poisonLine]
  split <;> simp

@[simp] theorem Dev.sealPart_lineUe (d : Dev) (ch ca reader : Nat) : (d.lineUe ch ca reader).sealPart = d.sealPart := by
  simp [Dev.lineUe]

@[simp] theorem Dev.sealPart_lineRead (d : Dev) (ch ca reader : Nat) (errs : List Nat) :
    (d.lineRead ch ca reader errs).sealPart = d.sealPart := by
  simp only [Dev.lineRead]
  split <;> simp

@[simp] theorem Dev.sealPart_enqueue (d : Dev) (ch : Nat) (write : Bool) (ca lines ns : Nat) :
    (d.enqueue ch write ca lines ns).sealPart = d.sealPart := by simp [Dev.enqueue]

@[simp] theorem Dev.sealPart_setArb (d : Dev) (a : Nat) (v : Arb) : (d.setArb a v).sealPart = d.sealPart := (rfl)

@[simp] theorem Dev.sealPart_sealGranted (d : Dev) (g : Nat) : (d.sealGranted g).sealPart = d.sealPart := by
  simp only [Dev.sealGranted]
  split <;> simp

@[simp] theorem Dev.sealPart_granted (d : Dev) (arb r ns : Nat) (write : Bool) (ca lines : Nat) :
    (d.granted arb r ns write ca lines).sealPart = d.sealPart := by simp [Dev.granted]

@[simp] theorem Dev.sealPart_arbsQuery (d : Dev) (m val : Nat) : (d.arbsQuery m val).sealPart = d.sealPart := by
  simp [Dev.arbsQuery]

@[simp] theorem Dev.sealPart_arbsQryWrite (d : Dev) (m val : Nat) : (d.arbsQryWrite m val).sealPart = d.sealPart := by
  simp [Dev.arbsQryWrite]

/-! ## The Lode -/

@[simp] theorem Dev.sealPart_lodeCount (d : Dev) (i : Nat) : (d.lodeCount i).sealPart = d.sealPart := (rfl)

@[simp] theorem Dev.sealPart_setLodeRow (d : Dev) (r : Nat) (v : LodeRow) : (d.setLodeRow r v).sealPart = d.sealPart := (rfl)

@[simp] theorem Dev.sealPart_lodeEnd (d : Dev) (who : Src) (code result : Nat) :
    (d.lodeEnd who code result).sealPart = d.sealPart := by unfold Dev.lodeEnd; split <;> simp

@[simp] theorem Dev.sealPart_lodeDeliver (d : Dev) (who : Src) (o : Nat) (bs : Bytes) :
    (d.lodeDeliver who o bs).sealPart = d.sealPart := by
  simp only [Dev.lodeDeliver]; (repeat' split) <;> simp

@[simp] theorem Dev.sealPart_lodeAccept (d : Dev) (who : Src) (a : LodeAsk) : (d.lodeAccept who a).sealPart = d.sealPart := by
  unfold Dev.lodeAccept; split <;> simp

@[simp] theorem Dev.sealPart_lodeJob (d : Dev) (n : Nat) (mine : Nat → Bool) : (d.lodeJob n mine).sealPart = d.sealPart := by
  simp only [Dev.lodeJob]
  split
  · split
    · rfl
    · split
      · simp
      · split
        · simp
        · split
          · simp [Dev.sealPart_poisonAns _ _ _ ‹_›]
          · simp
  · rfl

@[simp] theorem Dev.sealPart_lodeGo (d : Dev) (m : Nat) (mine : Nat → Bool) : (d.lodeGo m mine).sealPart = d.sealPart := by
  simp [Dev.lodeGo]

@[simp] theorem Dev.sealPart_lodeBy (d : Dev) (src : Src) (mine : Nat → Bool) : (d.lodeBy src mine).sealPart = d.sealPart := by
  simp only [Dev.lodeBy]
  split <;> simp

@[simp] theorem Dev.sealPart_lodeSearch (d : Dev) (c : LodeCmd) : (d.lodeSearch c).sealPart = d.sealPart := by simp [Dev.lodeSearch]

@[simp] theorem Dev.sealPart_lodeSlot (d : Dev) : d.lodeSlot.sealPart = d.sealPart := by
  simp only [Dev.lodeSlot]
  (repeat' split) <;> simp

@[simp] theorem Dev.sealPart_lodeTimeout (d : Dev) (who : Src) : (d.lodeTimeout who).sealPart = d.sealPart := by
  simp only [Dev.lodeTimeout]
  split <;> simp

@[simp] theorem Dev.sealPart_lodeApply (d : Dev) (c : LodeCmd) : (d.lodeApply c).sealPart = d.sealPart := by
  simp [Dev.lodeApply]

@[simp] theorem Dev.sealPart_lodeHit (d : Dev) (r : Nat) : (d.lodeHit r).sealPart = d.sealPart := (rfl)

@[simp] theorem Dev.sealPart_lodeHurt (d : Dev) (r : Nat) : (d.lodeHurt r).sealPart = d.sealPart := (rfl)

@[simp] theorem Dev.sealPart_lodeTemp (d : Dev) (t : Nat) : (d.lodeTemp t).sealPart = d.sealPart := (rfl)

@[simp] theorem Dev.sealPart_lodeBoundary (d : Dev) : d.lodeBoundary.sealPart = d.sealPart := by
  simp [Dev.lodeBoundary]

@[simp] theorem Dev.sealPart_lodeScrub (d : Dev) (row outcome : Nat) : (d.lodeScrub row outcome).sealPart = d.sealPart := by
  simp only [Dev.lodeScrub]
  (repeat' split) <;> simp

end Sys2Proof.Machine
end

section
/-! PROOF. The seal and the change counter (R372, R373, O60), left as they are by:
loading, the host, the Rope and health. -/

namespace Sys2Proof.Machine

/-! ## What an image installs -/

@[simp] theorem Dev.sealPart_loadWord (d : Dev) (both : Bool) (o v : Nat) : (d.loadWord both o v).sealPart = d.sealPart := by
  simp only [Dev.loadWord]
  (repeat' split) <;> simp

@[simp] theorem Dev.sealPart_loadTabs (d : Dev) (both : Bool) (l : List (Nat × Byte)) :
    (d.loadTabs both l).sealPart = d.sealPart := by simp [Dev.loadTabs]

@[simp] theorem Dev.sealPart_loadBytes (d : Dev) (b : Bytes) (tabs : Map TabEnt) (both data dram : Bool) (a : Nat) (bs : Bytes) :
    (d.loadBytes b tabs both data dram a bs).sealPart = d.sealPart := by simp [Dev.loadBytes]

@[simp] theorem Dev.sealPart_loadLocal (d : Dev) (both : Bool) (g l a : Nat) (v : Byte) :
    (d.loadLocal both g l a v).sealPart = d.sealPart := by
  simp only [Dev.loadLocal]
  (repeat' split) <;> simp

@[simp] theorem Dev.sealPart_loadRec (d : Dev) (b : Bytes) (tabs : Map TabEnt) (both : Bool) (r : Rec) :
    (d.loadRec b tabs both r).sealPart = d.sealPart := by
  simp only [Dev.loadRec]
  (repeat' split) <;> simp

@[simp] theorem Dev.sealPart_loadDram (d : Dev) (b : Bytes) : (d.loadDram b).sealPart = d.sealPart := by simp [Dev.loadDram]

@[simp] theorem Dev.sealPart_loadPlaces (d : Dev) (b : Bytes) : (d.loadPlaces b).sealPart = d.sealPart := by simp [Dev.loadPlaces]

/-! ## Load and Survey mode -/

@[simp] theorem Dev.sealPart_setOwner (d : Dev) : d.setOwner.sealPart = d.sealPart := by simp [Dev.setOwner]

@[simp] theorem Dev.sealPart_toCold (d : Dev) : d.toCold.sealPart = d.sealPart := by
  simp only [Dev.toCold, Dev.sealPart_setIoFld, Dev.sealPart_setOwner]
  simp [Dev.sealPart, Strong.island]

@[simp] theorem Dev.sealPart_leaveCold (d : Dev) : d.leaveCold.sealPart = d.sealPart := by
  simp [Dev.leaveCold]

@[simp] theorem Dev.sealPart_loadCtl (d : Dev) (m v : Nat) : (d.loadCtl m v).sealPart = d.sealPart := by
  unfold Dev.loadCtl
  refine Dev.sealPart_doorbell _ _ _ _ _ _ _ (fun d => ?_)
  simp only
  (repeat' split) <;> simp

@[simp] theorem Dev.sealPart_blank (d : Dev) : d.blank.sealPart = d.sealPart := (rfl)

@[simp] theorem Dev.sealPart_setAtt (d : Dev) (s : Nat) (f : ImgFail) : (d.setAtt s f).sealPart = d.sealPart := (rfl)

@[simp] theorem Dev.sealPart_learnDefault (d : Dev) (recs : List Rec) : (d.learnDefault recs).sealPart = d.sealPart := by
  simp [Dev.learnDefault]

theorem Dev.sealPart_loadImage (d : Dev) (b : Bytes) (recs : List Rec) (e : Dev) (he : d.loadImage b recs = .ok e) :
    e.sealPart = d.sealPart := by
  simp only [Dev.loadImage] at he
  (repeat' split at he) <;> cases he
  rw [Dev.sealPart_learnDefault, Dev.sealPart_foldl _ _ _ (fun d r => by simp)]
  simp

@[simp] theorem Dev.sealPart_lanesTrain (d : Dev) : d.lanesTrain.sealPart = d.sealPart := by simp [Dev.lanesTrain]

@[simp] theorem Dev.sealPart_lanesIdle (d : Dev) : d.lanesIdle.sealPart = d.sealPart := by simp [Dev.lanesIdle]

@[simp] theorem Dev.sealPart_imageRegs (d : Dev) (b : Bytes) (src : Nat) : (d.imageRegs b src).sealPart = d.sealPart := by
  simp [Dev.imageRegs]

@[simp] theorem Dev.sealPart_attempt (d : Dev) (s : Nat) (b : Bytes) (enrol : Bool) :
    (d.attempt s b enrol).sealPart = d.sealPart := by
  simp only [Dev.attempt]
  split
  · simp
  · split
    · simp
    · simp [Dev.sealPart_loadImage _ _ _ _ ‹_›]

@[simp] theorem Dev.sealPart_readBoard (d : Dev) (i2c : Nat) (eeprom : Option Bytes) :
    (d.readBoard i2c eeprom).sealPart = d.sealPart := by
  simp only [Dev.readBoard]
  split <;> simp

@[simp] theorem Dev.sealPart_nvmAttempt (d : Dev) (s pins : Nat) (sfdp : Bool) (b : Bytes) :
    (d.nvmAttempt s pins sfdp b).sealPart = d.sealPart := by simp [Dev.nvmAttempt]

@[simp] theorem Dev.sealPart_hostImage (d : Dev) (m : Nat) (enrol : Bool) : (d.hostImage m enrol).sealPart = d.sealPart := by
  simp [Dev.hostImage]

@[simp] theorem Dev.sealPart_loadGo (d : Dev) (m v : Nat) : (d.loadGo m v).sealPart = d.sealPart := by
  simp [Dev.loadGo]

@[simp] theorem Dev.sealPart_imageArrived (d : Dev) (b : Bytes) : (d.imageArrived b).sealPart = d.sealPart := by
  simp [Dev.imageArrived]

@[simp] theorem Dev.sealPart_limpRecord (d : Dev) (cause : Nat) : (d.limpRecord cause).sealPart = d.sealPart := (rfl)

@[simp] theorem Dev.sealPart_surveyCore (d : Dev) (g p : Nat) : (d.surveyCore g p).sealPart = d.sealPart := by
  simp only [Dev.surveyCore]
  (repeat' split) <;> simp

@[simp] theorem Dev.sealPart_surveySeal (d : Dev) (e : Nat) : (d.surveySeal e).sealPart = d.sealPart := by
  simp [Dev.surveySeal]

@[simp] theorem Dev.sealPart_surveyFmt (d : Dev) (e : Nat) : (d.surveyFmt e).sealPart = d.sealPart := by
  simp [Dev.surveyFmt]

@[simp] theorem Dev.sealPart_surveyUnits (d : Dev) (r : Survey) : (d.surveyUnits r).sealPart = d.sealPart := by
  simp [Dev.surveyUnits]

@[simp] theorem Dev.sealPart_loadKeyRec (d : Dev) (r : Rec) : (d.loadKeyRec r).sealPart = d.sealPart := by
  simp [Dev.loadKeyRec]

@[simp] theorem Dev.sealPart_genesis (d : Dev) : d.genesis.sealPart = d.sealPart := by simp [Dev.genesis]

@[simp] theorem Dev.sealPart_startService (d : Dev) : d.startService.sealPart = d.sealPart := by
  have h (d : Dev) : ((List.range 16).foldl (fun d g => match d.keeper g with
      | some k => d.startKeeper k 0
      | none => d) d).sealPart = d.sealPart := Dev.sealPart_foldl _ _ _ (fun d g => by split <;> simp)
  simp only [Dev.startService, Dev.sealPart_genesis, Dev.sealPart_onIngr]
  refine (h _).trans ?_
  simp

@[simp] theorem Dev.sealPart_fellBackRecord (d : Dev) : d.fellBackRecord.sealPart = d.sealPart := by
  simp [Dev.fellBackRecord]

@[simp] theorem Dev.sealPart_firstMode (d : Dev) (a : Option Nat) : (d.firstMode a).sealPart = d.sealPart := by
  simp only [Dev.firstMode]
  split <;> simp

@[simp] theorem Dev.sealPart_spareChans (d : Dev) : d.spareChans.sealPart = d.sealPart := by
  simp [Dev.spareChans]

@[simp] theorem Dev.sealPart_surveyDone (d : Dev) : d.surveyDone.sealPart = d.sealPart := by simp [Dev.surveyDone]

@[simp] theorem Dev.sealPart_surveyOut (d : Dev) (a : Option Nat) : (d.surveyOut a).sealPart = d.sealPart := by
  simp only [Dev.surveyOut]
  split <;> simp

/-! ## Handovers -/

@[simp] theorem Dev.sealPart_setHo (d : Dev) (now : Bool) (st : Nat) : (d.setHo now st).sealPart = d.sealPart := by
  simp [Dev.setHo]

@[simp] theorem Dev.sealPart_onHo (d : Dev) (f : Handover → Handover) : (d.onHo f).sealPart = d.sealPart := (rfl)

@[simp] theorem Dev.sealPart_hoCode (d : Dev) (code reason : Nat) : (d.hoCode code reason).sealPart = d.sealPart := (rfl)

@[simp] theorem Dev.sealPart_hoGo (d : Dev) (m : Nat) : (d.hoGo m).sealPart = d.sealPart := by
  simp [Dev.hoGo]

@[simp] theorem Dev.sealPart_hoAbort (d : Dev) (now : Bool) (code reason : Nat) :
    (d.hoAbort now code reason).sealPart = d.sealPart := by simp [Dev.hoAbort]

@[simp] theorem Dev.sealPart_hoCancel (d : Dev) : d.hoCancel.sealPart = d.sealPart := by simp [Dev.hoCancel]

@[simp] theorem Dev.sealPart_hoWrite (d : Dev) (m v : Nat) : (d.hoWrite m v).sealPart = d.sealPart := by
  simp [Dev.hoWrite]

@[simp] theorem Dev.sealPart_hoRead (d : Dev) (fault : Nat) (img : Bytes) (k : Bytes → Dev) (h : ∀ b, (k b).sealPart = d.sealPart) :
    (d.hoRead fault img k).sealPart = d.sealPart := by
  simp only [Dev.hoRead]
  split
  · split <;> simp
  · exact h _

@[simp] theorem Dev.sealPart_hoVerify (d : Dev) (b : Bytes) : (d.hoVerify b).sealPart = d.sealPart := by
  simp only [Dev.hoVerify]
  (repeat' split) <;> simp

@[simp] theorem Dev.sealPart_hoClear (d : Dev) (b : Bytes) : (d.hoClear b).sealPart = d.sealPart := by
  simp [Dev.hoClear]

@[simp] theorem Dev.sealPart_hoApply (d : Dev) (b : Bytes) (recs : List Rec) : (d.hoApply b recs).sealPart = d.sealPart := by
  simp [Dev.hoApply]

@[simp] theorem Dev.sealPart_hoPass2 (d : Dev) (again : Bytes) : (d.hoPass2 again).sealPart = d.sealPart := by
  simp only [Dev.hoPass2]
  (repeat' split) <;> simp

@[simp] theorem Dev.sealPart_hoKey (d : Dev) (r : Rec) : (d.hoKey r).sealPart = d.sealPart := by
  simp [Dev.hoKey]

@[simp] theorem Dev.sealPart_hoFlip (d : Dev) : d.hoFlip.sealPart = d.sealPart := by simp [Dev.hoFlip]

@[simp] theorem Dev.sealPart_hoReport (d : Dev) : d.hoReport.sealPart = d.sealPart := by simp [Dev.hoReport]

@[simp] theorem Dev.sealPart_hoBoundary (d : Dev) : d.hoBoundary.sealPart = d.sealPart := by
  unfold Dev.hoBoundary; split <;> simp

/-! ## The host interface -/

@[simp] theorem Dev.sealPart_hostRegsReset (d : Dev) (v : Nat) : (d.hostRegsReset v).sealPart = d.sealPart := (rfl)

@[simp] theorem Dev.sealPart_verSelect (d : Dev) (m val : Nat) : (d.verSelect m val).sealPart = d.sealPart := by
  simp [Dev.verSelect]

@[simp] theorem Dev.sealPart_mailDown (d : Dev) (m : Nat) : (d.mailDown m).sealPart = d.sealPart := by
  simp [Dev.mailDown]

@[simp] theorem Dev.sealPart_mailGo (d : Dev) (m v : Nat) : (d.mailGo m v).sealPart = d.sealPart := by
  simp [Dev.mailGo]

@[simp] theorem Dev.sealPart_mailPop (d : Dev) (m v : Nat) : (d.mailPop m v).sealPart = d.sealPart := by
  simp [Dev.mailPop]

@[simp] theorem Dev.sealPart_expAck (d : Dev) (m val : Nat) : (d.expAck m val).sealPart = d.sealPart := by
  simp [Dev.expAck]

@[simp] theorem Dev.sealPart_flrSlots (d : Dev) : d.flrSlots.sealPart = d.sealPart := by simp [Dev.flrSlots]

@[simp] theorem Dev.sealPart_flrViews (d : Dev) : d.flrViews.sealPart = d.sealPart := by simp [Dev.flrViews]

@[simp] theorem Dev.sealPart_flrMail (d : Dev) : d.flrMail.sealPart = d.sealPart := by simp [Dev.flrMail]

@[simp] theorem Dev.sealPart_flrLatches (d : Dev) : d.flrLatches.sealPart = d.sealPart := by simp [Dev.flrLatches]

@[simp] theorem Dev.sealPart_flr0 (d : Dev) : d.flr0.sealPart = d.sealPart := by simp [Dev.flr0]

@[simp] theorem Dev.sealPart_flr1 (d : Dev) : d.flr1.sealPart = d.sealPart := by simp [Dev.flr1]

@[simp] theorem Dev.sealPart_readArrived (d : Dev) (tag : Nat) (r : DmaRead) (bs : Bytes) :
    (d.readArrived tag r bs).sealPart = d.sealPart := by
  simp only [Dev.readArrived]
  (repeat' split) <;> simp

/-! ## The Rope -/

@[simp] theorem Dev.sealPart_helloRecord (d : Dev) (p : Bytes) : (d.helloRecord p).sealPart = d.sealPart := by
  simp [Dev.helloRecord]

@[simp] theorem Dev.sealPart_ropeFrame (d : Dev) (type ver : Nat) (f : Dev → Dev) (hf : ∀ e, (f e).sealPart = e.sealPart) :
    (d.ropeFrame type ver f).sealPart = d.sealPart := by
  simp only [Dev.ropeFrame]
  (repeat' split) <;> simp_all

@[simp] theorem Dev.sealPart_ropeGo (d : Dev) (m v : Nat) (mine : Nat → Bool) : (d.ropeGo m v mine).sealPart = d.sealPart := by
  simp [Dev.ropeGo]

@[simp] theorem Dev.sealPart_ropeReqEnd (d : Dev) (m code : Nat) : (d.ropeReqEnd m code).sealPart = d.sealPart := by
  simp [Dev.ropeReqEnd]

@[simp] theorem Dev.sealPart_ropeCpl (d : Dev) (m code data : Nat) : (d.ropeCpl m code data).sealPart = d.sealPart := by
  simp only [Dev.ropeCpl]
  (repeat' split) <;> simp

@[simp] theorem Dev.sealPart_mboxDone (d : Dev) (serial : Nat) : (d.mboxDone serial).sealPart = d.sealPart := by
  simp only [Dev.mboxDone]
  (repeat' split) <;> simp

@[simp] theorem Dev.sealPart_mboxSend (d : Dev) : d.mboxSend.sealPart = d.sealPart := by
  simp only [Dev.mboxSend]
  (repeat' split) <;> simp

@[simp] theorem Dev.sealPart_mboxReceive (d : Dev) (serial : Nat) (data : Bytes) :
    (d.mboxReceive serial data).sealPart = d.sealPart := by simp [Dev.mboxReceive]

@[simp] theorem Dev.sealPart_mirrorIncident (d : Dev) (b : Bytes) : (d.mirrorIncident b).sealPart = d.sealPart := by
  simp [Dev.mirrorIncident]

@[simp] theorem Dev.sealPart_mirrorSeal (d : Dev) (b : Bytes) : (d.mirrorSeal b).sealPart = d.sealPart := by simp [Dev.mirrorSeal]

/-! ## Health and boundary scan -/

@[simp] theorem Dev.sealPart_loseRow (d : Dev) (p : Bool) (n : Nat) (b : Bool) : (d.loseRow p n b).sealPart = d.sealPart := by
  simp only [Dev.loseRow]
  split
  · rw [Dev.sealPart_onCsr, Dev.sealPart_foldl _ _ _ (fun d w => by simp)]
    rfl
  · simp

@[simp] theorem Dev.sealPart_memFail (d : Dev) (u place : Nat) (bank : Bool) : (d.memFail u place bank).sealPart = d.sealPart := by
  simp only [Dev.memFail]
  (repeat' split) <;> simp

@[simp] theorem Dev.sealPart_icacheError (d : Dev) (place : Nat) : (d.icacheError place).sealPart = d.sealPart := by
  simp [Dev.icacheError]

@[simp] theorem Dev.sealPart_spareFailed (d : Dev) (block number : Nat) : (d.spareFailed block number).sealPart = d.sealPart := by
  simp [Dev.spareFailed]

@[simp] theorem Dev.sealPart_spareFail (d : Dev) (unit number : Nat) : (d.spareFail unit number).sealPart = d.sealPart := by
  simp only [Dev.spareFail]
  (repeat' split) <;> simp

@[simp] theorem Dev.sealPart_fenceLane (d : Dev) (l fault : Nat) : (d.fenceLane l fault).sealPart = d.sealPart := by
  simp only [Dev.fenceLane]
  (repeat' split) <;> simp

@[simp] theorem Dev.sealPart_faultClear (d : Dev) (m v : Nat) : (d.faultClear m v).sealPart = d.sealPart := by
  simp [Dev.faultClear]

@[simp] theorem Dev.sealPart_sensorRead (d : Dev) (s : Nat) (t : Option ℤ) : (d.sensorRead s t).sealPart = d.sealPart := by
  simp only [Dev.sensorRead]
  (repeat' split) <;> simp

@[simp] theorem Dev.sealPart_xtempRead (d : Dev) (x : Nat) (t : Option ℤ) : (d.xtempRead x t).sealPart = d.sealPart := by
  simp only [Dev.xtempRead]
  split <;> simp

@[simp] theorem Dev.sealPart_setLevel (d : Dev) (new code : Nat) : (d.setLevel new code).sealPart = d.sealPart := (rfl)

@[simp] theorem Dev.sealPart_countTj (d : Dev) (i : Nat) : (d.countTj i).sealPart = d.sealPart := by
  simp [Dev.countTj]

@[simp] theorem Dev.sealPart_thermalBoundary (d : Dev) : d.thermalBoundary.sealPart = d.sealPart := by
  unfold Dev.thermalBoundary; split <;> simp

@[simp] theorem Dev.sealPart_scan (d : Dev) (code : Nat) (dr : Option Nat) : (d.scan code dr).sealPart = d.sealPart := by
  simp [Dev.scan]

@[simp] theorem Dev.sealPart_scanCold (d : Dev) (code : Nat) (dr : Option Nat) : (d.scanCold code dr).sealPart = d.sealPart := by
  simp [Dev.scanCold]

end Sys2Proof.Machine
end

section
/-! PROOF. The seal and the change counter (R372, R373, O60), left as they are by:
the commands of masters and the parts of a boundary. -/

namespace Sys2Proof.Machine

/-! ## Commands of the Larder -/

@[simp] theorem Dev.sealPart_lardNo (d : Dev) (code : Nat) : (d.lardNo code).dev.sealPart = d.sealPart := (rfl)

theorem Dev.sealPart_lardWalk (d : Dev) {tag h : Nat} {c : Chain} {a : LardAns} (ha : d.lardWalk tag h c = .error a) :
    a.dev.sealPart = d.sealPart := by
  simp only [Dev.lardWalk] at ha
  split at ha
  · cases ha
  · split at ha <;> cases ha <;> simp

theorem Dev.sealPart_lardWalk2 (d : Dev) {tag ha hb : Nat} {a b : Chain} {x : LardAns} (h : d.lardWalk2 tag ha hb a b = .error x) :
    x.dev.sealPart = d.sealPart := by
  simp only [Dev.lardWalk2] at h
  split at h <;> cases h
  · exact d.sealPart_lardWalk ‹_›
  · exact d.sealPart_lardWalk ‹_›
  · split <;> exact d.sealPart_lardWalk ‹_›

@[simp] theorem Dev.sealPart_lardNotHolder (d : Dev) : d.lardNotHolder.dev.sealPart = d.sealPart := (rfl)

@[simp] theorem Dev.sealPart_lardAlloc (d : Dev) (tag w0 w1 w2 w3 : Nat) :
    (d.lardAlloc tag w0 w1 w2 w3).dev.sealPart = d.sealPart := by
  have h : (d.alloc tag (bits w0 8 4) (bits w0 18 9) none).2.sealPart = d.sealPart := by simp
  simp only [Dev.lardAlloc]
  split
  · simp
  · split <;> simp_all

@[simp] theorem Dev.sealPart_lardFree (d : Dev) (tag w0 w1 w2 w3 : Nat) :
    (d.lardFree tag w0 w1 w2 w3).dev.sealPart = d.sealPart := by
  simp only [Dev.lardFree]
  split
  · simp
  · split
    · exact d.sealPart_lardWalk ‹_›
    · split <;> simp

@[simp] theorem Dev.sealPart_lardTransfer (d : Dev) (tag w0 w1 w2 w3 : Nat) :
    (d.lardTransfer tag w0 w1 w2 w3).dev.sealPart = d.sealPart := by
  simp only [Dev.lardTransfer]
  split
  · simp
  · split
    · exact d.sealPart_lardWalk ‹_›
    · split <;> simp

@[simp] theorem Dev.sealPart_lardJoin (d : Dev) (tag w0 w1 w2 w3 : Nat) :
    (d.lardJoin tag w0 w1 w2 w3).dev.sealPart = d.sealPart := by
  simp only [Dev.lardJoin]
  split
  · split
    · simp
    · split
      · exact d.sealPart_lardWalk2 ‹_›
      · split <;> simp
  · simp

@[simp] theorem Dev.sealPart_lardReclaim (d : Dev) (tag w0 w1 w2 w3 : Nat) :
    (d.lardReclaim tag w0 w1 w2 w3).dev.sealPart = d.sealPart := by
  simp only [Dev.lardReclaim]; (repeat' split) <;> simp

@[simp] theorem Dev.sealPart_spendNumber (d : Dev) (id : Tid) (b : RelBase) : (d.spendNumber id b).sealPart = d.sealPart := by
  unfold Dev.spendNumber; split <;> simp

@[simp] theorem Dev.sealPart_handOver (d : Dev) (id : Tid) (b : RelBase) (a : Chain) (bay len : Nat) (sd : Option SessData) :
    (d.handOver id b a bay len sd).sealPart = d.sealPart := by
  unfold Dev.handOver
  extract_lets gen e dom
  have he : e.sealPart = d.sealPart := (Dev.sealPart_spendNumber ..).trans (Dev.sealPart_mapCells ..)
  clear_value e dom
  cases b.seq <;> cases sd <;> simp only [Dev.sealPart_sendLimit, Dev.sealPart_reorderEnter, Dev.sealPart_takeSeq, he]

@[simp] theorem Dev.sealPart_lardRelease (d : Dev) (tag w0 w1 w2 w3 : Nat) :
    (d.lardRelease tag w0 w1 w2 w3).dev.sealPart = d.sealPart := by
  simp only [Dev.lardRelease]
  split
  · simp
  · split
    · simp
    · simp
    · split
      · simp
      · split
        · simp
        · split
          · exact d.sealPart_lardWalk ‹_›
          · split
            · simp
            · split
              · split <;> simp only [Dev.sealPart_releaseEmpty, Dev.sealPart_spendNumber, Dev.sealPart_freeList]
              · split <;> simp only [Dev.sealPart_handOver]

@[simp] theorem Dev.sealPart_issueLard (d : Dev) (id : Tid) (mine : Nat → Bool) (f : LardOp)
    (h : ∀ d t a b c e, (f d t a b c e).dev.sealPart = d.sealPart) : (d.issueLard id mine f).sealPart = d.sealPart :=
  d.sealPart_issueOps id _ (fun i e evs b => by simp only; (repeat' split) <;> simp [h])

@[simp] theorem Dev.sealPart_goLard (d : Dev) (m : Nat) (mine : Nat → Bool) (f : LardOp)
    (h : ∀ d t a b c e, (f d t a b c e).dev.sealPart = d.sealPart) : (d.goLard m mine f).sealPart = d.sealPart := by
  unfold Dev.goLard
  exact Dev.sealPart_doorbell _ _ _ _ _ _ _ (fun d => by simp [h])

@[simp] theorem Dev.sealPart_lardBy (d : Dev) (who : Who) (mine : Nat → Bool) (f : LardOp)
    (h : ∀ d t a b c e, (f d t a b c e).dev.sealPart = d.sealPart) : (d.lardBy who mine f).sealPart = d.sealPart := by
  cases who with
  | thread id => exact d.sealPart_issueLard id mine f h
  | master m => exact d.sealPart_goLard m mine f h

@[simp] theorem Dev.sealPart_scrubDone (d : Dev) (i : Nat) : (d.scrubDone i).sealPart = d.sealPart := by
  simp [Dev.scrubDone]

/-! ## Commands and timers of sessions -/

@[simp] theorem Dev.sealPart_heldLive (d : Dev) (n : Nat) (p : Pkt) (k : Nat) : (d.heldLive n p k).sealPart = d.sealPart := by
  have h : (d.deliverTo n p k).2.sealPart = d.sealPart := by simp
  simp only [Dev.heldLive]
  split
  · rename_i he; rw [he] at h
    split <;> simpa using h
  · rename_i he; rw [he] at h; exact h

@[simp] theorem Dev.sealPart_keysLive (d : Dev) (n : Nat) : (d.keysLive n).sealPart = d.sealPart := by
  simp only [Dev.keysLive]
  split
  · rfl
  · exact (foldl_part (fun x : Nat × Dev => x.2.sealPart) _ (fun x q => Dev.sealPart_heldLive ..) _ _).trans (Dev.sealPart_setSes ..)

@[simp] theorem Dev.sealPart_sessNo (d : Dev) (code : Nat) : (d.sessNo code).dev.sealPart = d.sealPart := (rfl)

@[simp] theorem Dev.sealPart_sessOpen (d : Dev) (c : SessCmd) : (d.sessOpen c).dev.sealPart = d.sealPart := by
  simp only [Dev.sessOpen]; (repeat' split) <;> simp

@[simp] theorem Dev.sealPart_sessInstall (d : Dev) (c : SessCmd) (n : Nat) (s : Session) :
    (d.sessInstall c n s).dev.sealPart = d.sealPart := by unfold Dev.sessInstall; split <;> simp

@[simp] theorem Dev.sealPart_sessInner (d : Dev) (c : SessCmd) (n : Nat) : (d.sessInner c n).dev.sealPart = d.sealPart := by
  simp only [Dev.sessInner]; (repeat' split) <;> simp

@[simp] theorem Dev.sealPart_sessKeyUpdate (d : Dev) (n : Nat) (s : Session) : (d.sessKeyUpdate n s).dev.sealPart = d.sealPart := by
  simp only [Dev.sessKeyUpdate]; (repeat' split) <;> simp

@[simp] theorem Dev.sealPart_sessClose (d : Dev) (n : Nat) (s : Session) : (d.sessClose n s).dev.sealPart = d.sealPart := by
  simp only [Dev.sessClose]; (repeat' split) <;> simp

@[simp] theorem Dev.sealPart_sessAbort (d : Dev) (n : Nat) (s : Session) : (d.sessAbort n s).dev.sealPart = d.sealPart := by
  unfold Dev.sessAbort; split <;> simp

@[simp] theorem Dev.sealPart_sessDo (d : Dev) (c : SessCmd) : (d.sessDo c).dev.sealPart = d.sealPart := by
  simp only [Dev.sessDo]; (repeat' split) <;> simp

@[simp] theorem Dev.sealPart_sessPost (d : Dev) (who : Who) (code res : Nat) : (d.sessPost who code res).sealPart = d.sealPart := by
  unfold Dev.sessPost; split <;> simp

@[simp] theorem Dev.sealPart_sessCommands (d : Dev) : d.sessCommands.sealPart = d.sealPart := by
  simp [Dev.sessCommands]

@[simp] theorem Dev.sealPart_sessAccept (d : Dev) (who : Who) (words : List Nat) :
    (d.sessAccept who words).sealPart = d.sealPart := (rfl)

@[simp] theorem Dev.sealPart_issueSess (d : Dev) (id : Tid) (mine : Nat → Bool) : (d.issueSess id mine).sealPart = d.sealPart :=
  d.sealPart_issueOps id _ (fun i e evs b => by simp only; (repeat' split) <;> simp)

@[simp] theorem Dev.sealPart_goSess (d : Dev) (m : Nat) (mine : Nat → Bool) : (d.goSess m mine).sealPart = d.sealPart := by
  simp [Dev.goSess]

@[simp] theorem Dev.sealPart_sessBy (d : Dev) (who : Who) (mine : Nat → Bool) : (d.sessBy who mine).sealPart = d.sealPart := by
  simp only [Dev.sessBy]
  split <;> simp

@[simp] theorem Dev.sealPart_cacheFill (d : Dev) (n : Nat) : (d.cacheFill n).sealPart = d.sealPart := by
  simp only [Dev.cacheFill]
  split
  · rfl
  · rw [Dev.sealPart_foldl _ _ _ (fun d p => ?_)]
    · simp
    · split
      · simp
      · split
        · rw [Dev.sealPart_finishAction]
          exact Dev.sealPart_of_pair ‹_› (Dev.sealPart_sesSegment ..)
        · exact Dev.sealPart_of_pair ‹_› (Dev.sealPart_sesSegment ..)

@[simp] theorem Dev.sealPart_delayedAck (d : Dev) (n : Nat) : (d.delayedAck n).sealPart = d.sealPart := by
  simp only [Dev.delayedAck]
  (repeat' split) <;> simp

@[simp] theorem Dev.sealPart_recycle (d : Dev) (n : Nat) : (d.recycle n).sealPart = d.sealPart := by
  simp only [Dev.recycle]
  (repeat' split) <;> simp

@[simp] theorem Dev.sealPart_rtxTimeout (d : Dev) (n : Nat) : (d.rtxTimeout n).sealPart = d.sealPart := by
  simp only [Dev.rtxTimeout]
  (repeat' split) <;> simp

@[simp] theorem Dev.sealPart_keepalive (d : Dev) (n : Nat) : (d.keepalive n).sealPart = d.sealPart := by
  simp only [Dev.keepalive]
  (repeat' split) <;> simp

/-! ## Writes of the window -/

@[simp] theorem Dev.sealPart_goWrite (d : Dev) (m off v : Nat) (named : List Nat) (act : Dev → Dev)
    (hact : ∀ e, (act e).sealPart = e.sealPart) :
    (d.goWrite m off v named act).sealPart = d.sealPart := by
  simp only [Dev.goWrite]; split <;> simp_all

@[simp] theorem Dev.sealPart_rowCmdWrite (d : Dev) (m v : Nat) : (d.rowCmdWrite m v).sealPart = d.sealPart := by
  simp only [Dev.rowCmdWrite]; (repeat' split) <;> simp

@[simp] theorem Dev.sealPart_lardGo (d : Dev) (m : Nat) : (d.lardGo m).sealPart = d.sealPart := by
  simp only [Dev.lardGo]
  split <;> simp

@[simp] theorem Dev.keepsSeal_actionLow (d : Dev) (m o v : Nat) : d.keepsSeal (d.actionLow m o v) := by
  simp only [Dev.actionLow]
  split
  · split <;> simp
  · (repeat' refine Dev.keepsSeal_ite _ ?_ ?_) <;> simp

@[simp] theorem Dev.keepsSeal_actionHigh (d : Dev) (m o v : Nat) : d.keepsSeal (d.actionHigh m o v) := by
  simp only [Dev.actionHigh]
  split
  · simp
  · split
    · simp
    · split
      · simp
      · (repeat' refine Dev.keepsSeal_ite _ ?_ ?_) <;> simp

@[simp] theorem Dev.sealPart_writeFields (d : Dev) (r : RegDef) (m o v : Nat) : (d.writeFields r m o v).sealPart = d.sealPart := by
  simp [Dev.writeFields]

@[simp] theorem Dev.sealPart_expConfig (d : Dev) (o v : Nat) : (d.expConfig o v).sealPart = d.sealPart := by
  simp [Dev.expConfig]

@[simp] theorem Dev.sealPart_plainWrite (d : Dev) (m o v : Nat) : (d.plainWrite m o v).sealPart = d.sealPart := by
  simp only [Dev.plainWrite]; (repeat' split) <;> simp

@[simp] theorem Dev.sealPart_csrWrite (d : Dev) (m o v : Nat) : (d.csrWrite m o v).sealPart = d.sealPart := by
  simp only [Dev.csrWrite]
  (repeat' split) <;> first | simp | exact Dev.keepsSeal_actionLow _ _ _ _ _ ‹_› | exact Dev.keepsSeal_actionHigh _ _ _ _ _ ‹_›

@[simp] theorem Dev.sealPart_beWrite (d : Dev) (m o v be : Nat) : (d.beWrite m o v be).sealPart = d.sealPart := by
  simp [Dev.beWrite]

@[simp] theorem Dev.sealPart_peerWrite (d : Dev) (peer o v be : Nat) : (d.peerWrite peer o v be).sealPart = d.sealPart := by
  simp only [Dev.peerWrite]
  (repeat' split) <;> simp

/-! ## The parts of a boundary -/

@[simp] theorem Dev.sealPart_nextDrip (d : Dev) (n : Nat) : (d.nextDrip n).sealPart = d.sealPart := (rfl)

@[simp] theorem Dev.sealPart_fencesCount (d : Dev) : d.fencesCount.sealPart = d.sealPart := (rfl)

@[simp] theorem Dev.sealPart_openDrip (d : Dev) (n : Nat) : (d.openDrip n).sealPart = d.sealPart := (rfl)

@[simp] theorem Dev.sealPart_refillBuckets (d : Dev) : d.refillBuckets.sealPart = d.sealPart := by
  simp [Dev.refillBuckets]

@[simp] theorem Dev.sealPart_strongDrip (d : Dev) : d.strongDrip.sealPart = d.sealPart := by
  simp [Dev.strongDrip]

@[simp] theorem Dev.sealPart_incEvict (d : Dev) (s i : Nat) : (d.incEvict s i).sealPart = d.sealPart := by
  simp [Dev.incEvict]

@[simp] theorem Dev.sealPart_incWrite (d : Dev) (x : Incident) : (d.incWrite x).sealPart = d.sealPart := by
  simp [Dev.incWrite]

@[simp] theorem Dev.sealPart_incFlush (d : Dev) : d.incFlush.sealPart = d.sealPart := by
  unfold Dev.incFlush; split <;> simp

@[simp] theorem Dev.sealPart_incOrder (d : Dev) : d.incOrder.sealPart = d.sealPart := (rfl)

@[simp] theorem Dev.sealPart_applyStaged (d : Dev) (w : StagedWrite) : (d.applyStaged w).2.sealPart = d.sealPart := by
  simp only [Dev.applyStaged]; (repeat' split) <;> simp

@[simp] theorem Dev.sealPart_stagedEnd (d : Dev) (w : StagedWrite) (code : Nat) : (d.stagedEnd w code).sealPart = d.sealPart := by
  simp only [Dev.stagedEnd]; (repeat' split) <;> simp

@[simp] theorem Dev.sealPart_resolve (d : Dev) (ws : List StagedWrite) (t : WUnit) : (d.resolve ws t).sealPart = d.sealPart := by
  simp only [Dev.resolve]; (repeat' split) <;> simp

@[simp] theorem Dev.sealPart_resolveStaged (d : Dev) : d.resolveStaged.sealPart = d.sealPart := by
  simp [Dev.resolveStaged]

@[simp] theorem Dev.sealPart_traceFlush (d : Dev) : d.traceFlush.sealPart = d.sealPart := by
  simp [Dev.traceFlush]

@[simp] theorem Dev.sealPart_rowHits (d : Dev) : d.rowHits.sealPart = d.sealPart := by simp [Dev.rowHits]

@[simp] theorem Dev.sealPart_lodeSensors (d : Dev) : d.lodeSensors.sealPart = d.sealPart := by
  unfold Dev.lodeSensors; split <;> simp

@[simp] theorem Dev.sealPart_signals (d : Dev) : d.signals.sealPart = d.sealPart := by simp [Dev.signals]

@[simp] theorem Dev.sealPart_hostUnlock (d : Dev) : d.hostUnlock.sealPart = d.sealPart := by
  simp [Dev.hostUnlock]

@[simp] theorem Dev.sealPart_mirrorSeals (d : Dev) : d.mirrorSeals.sealPart = d.sealPart := (rfl)

@[simp] theorem Dev.sealPart_limpTest (d : Dev) : d.limpTest.sealPart = d.sealPart := by
  simp only [Dev.limpTest]; (repeat' split) <;> simp

end Sys2Proof.Machine
end

section
/-! PROOF. A broken seal stays broken and the change counter never falls (R372, R373, O60): what breaks the seal, the boundary
that applies the CAL_SETs, and every other command. -/

namespace Sys2Proof.Machine

/-! ## What may change the seal and the change counter -/

/-- The change counter is no lower and a broken seal is still broken. -/
structure Dev.sealLe (d e : Dev) : Prop where
  chg : d.strong.chg ≤ e.strong.chg
  broken : d.strong.sealOk = false → e.strong.sealOk = false

theorem Dev.chg_eq_of_sealPart {d e : Dev} (h : e.sealPart = d.sealPart) : e.strong.chg = d.strong.chg := congrArg Prod.fst h

theorem Dev.sealOk_eq_of_sealPart {d e : Dev} (h : e.sealPart = d.sealPart) :
    e.strong.sealOk = d.strong.sealOk := congrArg Prod.snd h

theorem Dev.sealLe_of_sealPart {d e : Dev} (h : e.sealPart = d.sealPart) : d.sealLe e :=
  ⟨(Dev.chg_eq_of_sealPart h).ge, fun hb => (Dev.sealOk_eq_of_sealPart h).trans hb⟩

theorem Dev.sealLe_trans {d e f : Dev} (h : d.sealLe e) (k : e.sealLe f) : d.sealLe f :=
  ⟨h.chg.trans k.chg, fun hb => k.broken (h.broken hb)⟩

theorem Dev.sealLe_then {d e f : Dev} (h : d.sealLe e) (k : f.sealPart = e.sealPart) : d.sealLe f :=
  Dev.sealLe_trans h (Dev.sealLe_of_sealPart k)

theorem Dev.sealLe_foldl {α : Type} {f : Dev → α → Dev} (hf : ∀ (d : Dev) (a : α), d.sealLe (f d a)) (l : List α) (d : Dev) :
    d.sealLe (l.foldl f d) := by
  induction l generalizing d with
  | nil => exact Dev.sealLe_of_sealPart rfl
  | cons a l ih => exact Dev.sealLe_trans (hf d a) (ih _)

/-- A CAL_SET that is applied steps the change counter and leaves the seal. -/
theorem Strong.calApply_seal (s : Strong) (b : Bytes) : (s.calApply b).sealOk = s.sealOk ∧ (s.calApply b).chg = s.chg + 1 := by
  simp only [Strong.calApply]
  (repeat' split) <;> exact ⟨rfl, rfl⟩

theorem Dev.sealLe_calStep (d : Dev) (c : CalSet) : d.sealLe (d.calStep c) := by
  unfold Dev.calStep
  split
  · exact Dev.sealLe_of_sealPart (by simp)
  · have h : d.sealLe (d.onStrong (fun s => s.calApply c.block)) :=
      ⟨(Strong.calApply_seal d.strong c.block).2 ▸ Nat.le_succ _, fun hb => (Strong.calApply_seal d.strong c.block).1.trans hb⟩
    exact Dev.sealLe_then h (by simp)

theorem Dev.sealLe_calBoundary (d : Dev) : d.sealLe d.calBoundary := by
  unfold Dev.calBoundary
  split
  · exact Dev.sealLe_of_sealPart rfl
  · exact Dev.sealLe_trans (Dev.sealLe_of_sealPart (by simp)) (Dev.sealLe_foldl Dev.sealLe_calStep _ _)

theorem Dev.sealLe_endDrip (d : Dev) : d.sealLe d.endDrip := by
  have h : d.sealLe d.tallyBoundary.calBoundary := Dev.sealLe_trans (Dev.sealLe_of_sealPart (by simp)) (Dev.sealLe_calBoundary _)
  exact Dev.sealLe_then h (by simp [Dev.endDrip])

theorem Dev.sealLe_boundary (d : Dev) : d.sealLe d.boundary :=
  Dev.sealLe_then d.sealLe_endDrip (by simp [Dev.boundary])

/-- The change counter stays and a broken seal is still broken. -/
structure Dev.mayBreak (d e : Dev) : Prop where
  chg : e.strong.chg = d.strong.chg
  broken : d.strong.sealOk = false → e.strong.sealOk = false

theorem Dev.mayBreak_of_sealPart {d e : Dev} (h : e.sealPart = d.sealPart) : d.mayBreak e :=
  ⟨Dev.chg_eq_of_sealPart h, fun hb => (Dev.sealOk_eq_of_sealPart h).trans hb⟩

theorem Dev.mayBreak_refl (d : Dev) : d.mayBreak d := Dev.mayBreak_of_sealPart rfl

theorem Dev.mayBreak_trans {d e f : Dev} (h : d.mayBreak e) (k : e.mayBreak f) : d.mayBreak f :=
  ⟨k.chg.trans h.chg, fun hb => k.broken (h.broken hb)⟩

theorem Dev.mayBreak_foldl {α : Type} {f : Dev → α → Dev} (hf : ∀ (d : Dev) (a : α), d.mayBreak (f d a)) (l : List α) (d : Dev) :
    d.mayBreak (l.foldl f d) := by
  induction l generalizing d with
  | nil => exact d.mayBreak_refl
  | cons a l ih => exact Dev.mayBreak_trans (hf d a) (ih _)

theorem Dev.mayBreak_ite {d e f : Dev} {p : Prop} [Decidable p] (he : d.mayBreak e) (hf : d.mayBreak f) :
    d.mayBreak (if p then e else f) := by split <;> assumption

theorem Dev.sealLe_of_mayBreak {d e : Dev} (h : d.mayBreak e) : d.sealLe e := ⟨h.chg.ge, h.broken⟩

/-- Breaking the seal, for whichever cause (R372). -/
theorem Dev.mayBreak_breakSeal (d : Dev) (c : Nat) : d.mayBreak (d.breakSeal c) := by
  unfold Dev.breakSeal
  split
  · exact d.mayBreak_refl
  · extract_lets bits first e
    have h : (if first then (e.hwRec 4 [] (leBytes 4 bits)).incident 25 Code.sealInvalid 0 bits 0 else e).sealPart = e.sealPart := by
      split <;> simp
    exact ⟨(Dev.chg_eq_of_sealPart h).trans rfl, fun _ => (Dev.sealOk_eq_of_sealPart h).trans rfl⟩

theorem Dev.mayBreak_surveyEnd (d : Dev) (r : Survey) : d.mayBreak (d.surveyEnd r) := by
  have h : d.mayBreak (d.surveyed r) :=
    Dev.mayBreak_trans (Dev.mayBreak_of_sealPart (by simp)) (Dev.mayBreak_foldl Dev.mayBreak_breakSeal _ _)
  exact Dev.mayBreak_trans h (Dev.mayBreak_of_sealPart (by simp [Dev.surveyEnd]))

/-- A memory error breaks the seal at most: in the Strongroom's own memories. -/
theorem Dev.mayBreak_memError (d : Dev) (u place : Nat) (bad bank : Bool) : d.mayBreak (d.memError u place bad bank) := by
  unfold Dev.memError
  split
  · exact Dev.mayBreak_ite (d.mayBreak_breakSeal 3) d.mayBreak_refl
  · refine Dev.mayBreak_of_sealPart ?_
    (repeat' split) <;> simp

/-! ## Every command -/

/-- Whatever an outcome leads to has the seal and the change counter of `s`. -/
def State.keepsSeal (s : State) (o : Host.Outcome State Fault Refusal) : Prop := ∀ t, o = .next t → t.dev.sealPart = s.dev.sealPart

theorem State.keepsSeal_next {s : State} {d : Dev} (h : d.sealPart = s.dev.sealPart) : s.keepsSeal (.next (s.withDev d)) := by
  intro t ht
  rw [Host.Outcome.next.injEq] at ht
  exact ht ▸ h

/-- The commands that can break the seal or step the change counter: the boundary, which applies the CAL_SETs, and the
causes of R372. -/
def movesSeal : Instr → Bool
  | .dripBoundary | .romRehash _ | .sealBreak _ | .srPowerUp _ _ | .surveyEnd _ | .memoryError _ _ _ _ | .memoryScrub _ _ => true
  | _ => false

theorem execViewCapture_keepsSeal (v : Nat) (s : State) : s.keepsSeal (execViewCapture v s) := by
  intro t h
  unfold execViewCapture at h
  split at h <;> cases h <;> simp

theorem execCounterReadClear_keepsSeal (m a : Nat) (s : State) : s.keepsSeal (execCounterReadClear m a s) := by
  unfold execCounterReadClear
  split
  · split
    · exact State.keepsSeal_next (by simp)
    · exact State.keepsSeal_next rfl
  · exact State.keepsSeal_next rfl

@[simp] theorem State.sealPart_csrRead (s : State) (m o : Nat) : (s.csrRead m o).dev.sealPart = s.dev.sealPart := by
  simp only [State.csrRead]
  split <;> simp

@[simp] theorem State.sealPart_peerRead (s : State) (p o : Nat) : (s.peerRead p o).dev.sealPart = s.dev.sealPart := by
  simp only [State.peerRead]
  split <;> simp

theorem execRopeReqReceive_keepsSeal (ver peer : Nat) (write : Bool) (off : Nat) (data : ReqData) (s : State) :
    s.keepsSeal (execRopeReqReceive ver peer write off data s) := by
  simp only [execRopeReqReceive]
  split
  · exact State.keepsSeal_next (by simp)
  · intro t h
    cases h
    simp

theorem execBookAppend_keepsSeal (job : Nat) (s : State) : s.keepsSeal (execBookAppend job s) := by
  refine State.keepsSeal_next ?_
  simp only
  split
  · split
    · rfl
    · split
      · simp
      · split
        · simp [Dev.sealPart_poisonAns _ _ _ ‹_›]
        · split <;> simp
  · rfl

theorem execSensorSample_keepsSeal (temps : List (Option Int)) (sr : Int) (s : State) :
    s.keepsSeal (execSensorSample temps sr s) := by
  refine State.keepsSeal_next ?_
  simp only
  split
  · simp
  · rw [Dev.sealPart_foldl _ _ _ (fun d x => by split <;> simp)]
    simp

theorem execRopeDataReceive_keepsSeal (h : RopeHead) (c : Nat) (f : Bytes) (s : State) :
    s.keepsSeal (execRopeDataReceive h c f s) := by
  refine State.keepsSeal_next ?_
  simp only
  split
  · simp
  · split
    · rfl
    · exact Dev.sealPart_ropeFrame _ _ _ _ (fun d => by split <;> simp)

theorem execRopeDmaReceive_keepsSeal (ver kind tag addr len : Nat) (data : Bytes) (s : State) :
    s.keepsSeal (execRopeDmaReceive ver kind tag addr len data s) :=
  State.keepsSeal_next (Dev.sealPart_ropeFrame _ _ _ _ (fun d => by (repeat' split) <;> simp))

theorem execRopeMirrorReceive_keepsSeal (ver kind : Nat) (data : Bytes) (s : State) :
    s.keepsSeal (execRopeMirrorReceive ver kind data s) :=
  State.keepsSeal_next (Dev.sealPart_ropeFrame _ _ _ _ (fun d => by (repeat' split) <;> simp))

theorem execMov_keepsSeal (id : Tid) (s : State) : s.keepsSeal (execMov id s) :=
  State.keepsSeal_next (Dev.sealPart_issueWith _ _ _ _ (fun d i => by split <;> simp))

/-- Every other command leaves the seal and the change counter. -/
theorem exec_keepsSeal {c : Instr} (hc : movesSeal c = false) (s : State) : s.keepsSeal (exec c s) := by
  cases c
  case dripBoundary | romRehash | sealBreak | srPowerUp | surveyEnd | memoryError | memoryScrub => cases hc
  case viewCapture => exact execViewCapture_keepsSeal _ s
  case counterReadClear => exact execCounterReadClear_keepsSeal _ _ s
  case ropeReqReceive => exact execRopeReqReceive_keepsSeal _ _ _ _ _ s
  case bookAppend => exact execBookAppend_keepsSeal _ s
  case sensorSample => exact execSensorSample_keepsSeal _ _ s
  case ropeDataReceive => exact execRopeDataReceive_keepsSeal _ _ _ s
  case ropeDmaReceive => exact execRopeDmaReceive_keepsSeal _ _ _ _ _ _ s
  case ropeMirrorReceive => exact execRopeMirrorReceive_keepsSeal _ _ _ s
  case mov => exact execMov_keepsSeal _ s
  all_goals refine State.keepsSeal_next ?_
  all_goals simp only
  all_goals (repeat' split) <;> simp

theorem execSrPowerUp_mayBreak {newer : Bool} {found : Nat} {s t : State} (h : exec (.srPowerUp newer found) s = .next t) :
    s.dev.mayBreak t.dev := by
  cases h
  simp only
  split
  · exact s.dev.mayBreak_refl
  · have h (d : Dev) (p : Prop) [Decidable p] (c : Nat) : d.mayBreak (if p then d.breakSeal c else d) :=
      Dev.mayBreak_ite (d.mayBreak_breakSeal c) d.mayBreak_refl
    exact Dev.mayBreak_trans (Dev.mayBreak_trans (Dev.mayBreak_of_sealPart (e := s.dev.onStrong _) rfl) (h _ _ 1)) (h _ _ 2)

/-- Only the boundary, which applies the CAL_SETs, steps the change counter. -/
theorem exec_mayBreak {c : Instr} {s t : State} (hc : c ≠ .dripBoundary) (h : exec c s = .next t) : s.dev.mayBreak t.dev := by
  cases hm : movesSeal c with
  | false => exact Dev.mayBreak_of_sealPart (exec_keepsSeal hm s t h)
  | true =>
    cases c
    case dripBoundary => exact absurd rfl hc
    case romRehash =>
      cases h
      exact Dev.mayBreak_ite (s.dev.mayBreak_breakSeal 1) s.dev.mayBreak_refl
    case sealBreak cause =>
      cases h
      exact s.dev.mayBreak_breakSeal cause
    case srPowerUp => exact execSrPowerUp_mayBreak h
    case surveyEnd r =>
      cases h
      exact Dev.mayBreak_ite (s.dev.mayBreak_surveyEnd r) s.dev.mayBreak_refl
    case memoryError u place bad bank =>
      cases h
      exact s.dev.mayBreak_memError u place bad _
    case memoryScrub u errs =>
      cases h
      exact Dev.mayBreak_foldl (fun d e => d.mayBreak_memError u e.1 e.2.1 _) errs s.dev
    all_goals cases hm

theorem execDripBoundary_sealLe {s t : State} (h : exec .dripBoundary s = .next t) : s.dev.sealLe t.dev := by
  cases h
  simp only
  split
  · exact Dev.sealLe_of_sealPart rfl
  · split
    · exact Dev.sealLe_of_sealPart (by simp)
    · exact s.dev.sealLe_boundary

theorem exec_sealLe {c : Instr} {s t : State} (h : exec c s = .next t) : s.dev.sealLe t.dev := by
  by_cases hc : c = .dripBoundary
  · subst hc
    exact execDripBoundary_sealLe h
  · exact Dev.sealLe_of_mayBreak (exec_mayBreak hc h)

theorem step_sealLe {s t : State} (h : step s = .next t) : s.dev.sealLe t.dev := by
  rcases hq : s.pending with _ | ⟨c, rest⟩
  · rw [frontCommandRuns.2 s hq] at h
    cases h
    exact Dev.sealLe_of_sealPart rfl
  · rw [frontCommandRuns.1 s c rest hq] at h
    exact exec_sealLe (s := s.popped rest) h

/-- Settles O60: every command but the boundary leaves the change counter, the boundary steps it at most, and no command
mends the seal. -/
theorem sealStaysBroken : Obligations.SealStaysBroken := by
  unfold Obligations.SealStaysBroken
  refine ⟨fun c s t h => ?_, fun s t h => ?_, fun c s t hc h => ?_, fun place bank bad s t h => ?_, fun s t h => ?_⟩
  · exact ⟨(exec_sealLe h).chg, (exec_sealLe h).broken⟩
  · exact ⟨(step_sealLe h).chg, (step_sealLe h).broken⟩
  · exact (exec_mayBreak (fun e => by subst e; cases hc) h).chg
  · exact (exec_mayBreak (fun e => by cases e) h).chg
  · have k := exec_keepsSeal rfl s t h
    exact ⟨Dev.sealOk_eq_of_sealPart k, Dev.chg_eq_of_sealPart k⟩

end Sys2Proof.Machine
end
